-- ==== Sys2Proof/Word.lean ====
section
/-!
DEFINITION. The word types of the SD4: scalar words (R15), vector registers (R16), predicate registers (R17), bytes,
slot words of a bundle (R69), and the register fields of the formats (R73, R75).
-/
namespace Sys2Proof

/-- A 64-bit scalar register, address or control-register value (R15). -/
abbrev Word := BitVec 64

/-- A byte of memory or of tile SRAM. -/
abbrev Byte := BitVec 8

/-- A 256-bit vector register (R16). -/
abbrev VWord := BitVec 256

/-- An 8-bit predicate register (R17). -/
abbrev PWord := BitVec 8

/-- One 29-bit slot of a bundle (R69). -/
abbrev SlotWord := BitVec 29

/-- A 5-bit scalar register field: every value is a register (R15). -/
abbrev SReg := BitVec 5

/-- A 4-bit vector register field (R16). -/
abbrev VReg := BitVec 4

/-- A 3-bit predicate register field (R17). -/
abbrev PReg := BitVec 3

/-- A quad base: the scalar field holds 4 times this value (R74). -/
abbrev Quad := BitVec 3

end Sys2Proof
end

