-- ==== Sys2Proof/Syntax.lean ====
section
/-!
DEFINITION. The syntax of the SD4: one constructor of `Instr` per row of spec/opcode_table.json. The first 211 rows are
instruction forms of slot A and slot B, with the operand fields of the formats of R73 and R75; the rows from
UND_BUNDLE on are the part's events, each with the operands that say which unit it concerns, or the data that comes
from outside the device with it.
-/
namespace Sys2Proof

/-- The 12-bit field of an RI, BR or Q form in a pair bundle, or the 41-bit value of an extended bundle (R71). -/
inductive Imm where
  | pair (v : BitVec 12)
  | ext (v : BitVec 41)
  deriving DecidableEq, Repr, Inhabited

/-- Scope operands (R6, R81). -/
inductive Scope where
  | thread | core | block | field | device | system
  deriving DecidableEq, Repr, Inhabited

/-- Element types of slot B (R76). -/
inductive Ty where
  | f32 | bf16 | f16 | i32 | i16 | i8 | u8 | x
  deriving DecidableEq, Repr, Inhabited

/-- Source and target formats of vcvt and vquant (R147, R157). -/
inductive CFmt where
  | f32 | bf16 | f16 | i32 | i16 | e4m3 | e5m2 | e3m2 | e2m3 | e2m1 | i8 | u8 | mxint8 | aint4 | aint8
  deriving DecidableEq, Repr, Inhabited

/-- Element types of a token (R88). -/
inductive EType where
  | i32 | f32 | bf16x2 | f16x2 | i16x2 | i8x4 | n8x4 | mxblk | plane | raw
  deriving DecidableEq, Repr, Inhabited

/-- The forms of vpack and vunpk (R149, R150): halves of a 16-bit type, bytes, or raw fields of width 8, 6 or 4.
For vunpk the half form carries h. -/
inductive PackForm where
  | half (ty : Ty) (h : Bool)
  | byte (uns : Bool) (q : BitVec 2)
  | raw (width : BitVec 2) (q : BitVec 2)
  deriving DecidableEq, Repr, Inhabited

/-- A unit that issues bundles: a swarm thread by its device-wide slot number g = 1,024 × field + 128 × block +
8 × core + tid (R383), or a tile compute core by 4 × tile + core, tiles counted device-wide (R7, R163). -/
inductive UnitRef where
  | thread (g : Nat)
  | core (k : Nat)
  deriving DecidableEq, Repr, Inhabited

/-- A producer that waits for room on a route or a ring (R165, R330): a compute core, a load node (a memory port) or a
converter position. -/
inductive Producer where
  | core (k : Nat)
  | agen (m : Nat)
  | conv (c : Nat)
  deriving DecidableEq, Repr, Inhabited

/-- A Marold port that retrains, and whether its peer began it (R390). -/
structure RetrainOf where
  port : Nat
  byPeer : Bool
  deriving DecidableEq, Repr, Inhabited

/-- What IDE_KM does to a host port's selective or link stream: the key that it programs, or none, which tears the stream down (R400). -/
structure IdeStream where
  sel : Bool
  key : Option (BitVec 256)
  deriving DecidableEq, Repr, Inhabited

/-- Directions of a router's links; `inject` is the local injection queue of the router's own units (R247, R369). -/
inductive Dir where
  | east | west | north | south | inject
  deriving DecidableEq, Repr, Inhabited

/-- What a droop, sensor or test reports to the belvedere with an event: module power and the 16 field
temperatures in 1/16 °C (R418, R419). -/
structure Sensors where
  mpwr : Nat
  fpwr : List Nat
  temp : List Nat
  deriving DecidableEq, Repr, Inhabited

/-- The instructions and events of the SD4, one constructor per row of spec/opcode_table.json. -/
inductive Instr where
  -- opcode 0x01: integer and logic (R101)
  | add (d a b : SReg) | sub (d a b : SReg) | and (d a b : SReg) | or (d a b : SReg) | xor (d a b : SReg)
  | andn (d a b : SReg) | sll (d a b : SReg) | srl (d a b : SReg) | sra (d a b : SReg) | rol (d a b : SReg)
  | ror (d a b : SReg) | mul (d a b : SReg) | mulh (d a b : SReg) | mulhu (d a b : SReg) | mulhsu (d a b : SReg)
  | div (d a b : SReg) | divu (d a b : SReg) | rem (d a b : SReg) | remu (d a b : SReg)
  | min (d a b : SReg) | max (d a b : SReg) | minu (d a b : SReg) | maxu (d a b : SReg)
  | slt (d a b : SReg) | sltu (d a b : SReg) | seq (d a b : SReg) | sel (d a b : SReg)
  | clz (d a : SReg) | ctz (d a : SReg) | popc (d a : SReg) | brev (d a : SReg) | bswap (d a : SReg)
  | sextB (d a : SReg) | sextH (d a : SReg) | sextW (d a : SReg)
  | zextB (d a : SReg) | zextH (d a : SReg) | zextW (d a : SReg)
  -- immediate forms (R102, R103)
  | addi (d a : SReg) (imm : Imm) | andi (d a : SReg) (imm : Imm) | ori (d a : SReg) (imm : Imm)
  | xori (d a : SReg) (imm : Imm)
  | slli (d a : SReg) (sh : BitVec 6) (ext : Bool) | srli (d a : SReg) (sh : BitVec 6) (ext : Bool)
  | srai (d a : SReg) (sh : BitVec 6) (ext : Bool) | roli (d a : SReg) (sh : BitVec 6) (ext : Bool)
  | slti (d a : SReg) (imm : Imm) | sltiu (d a : SReg) (imm : Imm) | seqi (d a : SReg) (imm : Imm)
  | muli (d a : SReg) (imm : Imm)
  | bext (d a : SReg) (pos wm1 : BitVec 6) | bextu (d a : SReg) (pos wm1 : BitVec 6)
  | bins (d a : SReg) (pos wm1 : BitVec 6)
  -- addresses and constants (R104, R105, R106)
  | lea (d a b : SReg) (sh : BitVec 3)
  | movi (d : SReg) (imm : Imm) | movt (d a : SReg) (imm23 : BitVec 23)
  | lui (d : SReg) (off : BitVec 17) | addpc (d : SReg) (off : BitVec 17) | addpg (d : SReg) (off : BitVec 17)
  -- control transfer (R108, R109, R110)
  | beq (a b : SReg) (off : Imm) | bne (a b : SReg) (off : Imm) | blt (a b : SReg) (off : Imm)
  | bge (a b : SReg) (off : Imm) | bltu (a b : SReg) (off : Imm) | bgeu (a b : SReg) (off : Imm)
  | jmp (off : BitVec 17) | jal (d : SReg) (off : BitVec 17) | jalr (d a : SReg) (imm : Imm)
  | loop (a : SReg) (off : Imm) | bany (p : PReg) (off : Imm) | bnone (p : PReg) (off : Imm)
  -- loads and stores (R117, R118, R119, R120)
  | ldb (d a : SReg) (imm : Imm) | ldbu (d a : SReg) (imm : Imm) | ldh (d a : SReg) (imm : Imm)
  | ldhu (d a : SReg) (imm : Imm) | ldw (d a : SReg) (imm : Imm) | ldwu (d a : SReg) (imm : Imm)
  | ldd (d a : SReg) (imm : Imm)
  | stb (d a : SReg) (imm : Imm) | sth (d a : SReg) (imm : Imm) | stw (d a : SReg) (imm : Imm)
  | std (d a : SReg) (imm : Imm)
  | vld (v : VReg) (a : SReg) (imm : Imm) | vst (v : VReg) (a : SReg) (imm : Imm)
  | vgather (v : VReg) (a : SReg) (o : VReg) (sh : BitVec 2)
  | vscatter (v : VReg) (a : SReg) (o : VReg) (sh : BitVec 2)
  | pf (a : SReg) (imm : Imm)
  -- reservations, atomics, reductions, fences (R121 to R132)
  | acqL (d a : SReg) (imm : Imm) | relL (d a : SReg) (imm : Imm)
  | amoAdd (d a b : SReg) (w32 : Bool) | amoSwap (d a b : SReg) (w32 : Bool) | amoCas (d a b : SReg) (w32 : Bool)
  | amoMin (d a b : SReg) (w32 uns : Bool) | amoMax (d a b : SReg) (w32 uns : Bool)
  | amoAnd (d a b : SReg) (w32 : Bool) | amoOr (d a b : SReg) (w32 : Bool) | amoXor (d a b : SReg) (w32 : Bool)
  | waitR (d : SReg)
  | redAdd (a b : SReg) (w32 : Bool) | redMin (a b : SReg) (w32 uns : Bool) | redMax (a b : SReg) (w32 uns : Bool)
  | redAnd (a b : SReg) (w32 : Bool) | redOr (a b : SReg) (w32 : Bool) | redXor (a b : SReg) (w32 : Bool)
  | redFaddW (a b : SReg)
  | fence (sc : Scope) | ldAcq (d a : SReg) (imm : Imm) | stRel (d a : SReg) (imm : Imm)
  -- tasks and invocation (R205 to R215)
  | spawn (d a : SReg) (q : Quad) | spawnT (d a : SReg) (q : Quad) | callat (d a : SReg) (q : Quad)
  | invoke (d a : SReg) (q : Quad) | invokeW (d a : SReg) (q : Quad) | invokeT (d a : SReg) (q : Quad)
  | quit (d a b : SReg) | reply (d a b : SReg) | recv (d a : SReg) (imm : Imm) | abq (d : SReg)
  -- engines (R193 to R204)
  | xfer (d : SReg) (q : Quad) (port : BitVec 2) | pcomp (d : SReg) (q : Quad) (tile : BitVec 5)
  | syncSet (a b : SReg) | syncArrive (d a b : SReg) | syncWait (d a b : SReg)
  | fetcht (d : SReg) (job : BitVec 4) (ext : Bool) | fetchtLd (a : SReg) (job : BitVec 4) (ext : Bool)
  | fetchtQ (d : SReg) (job : BitVec 4) (ext : Bool)
  | rlq (d a b : SReg) | acpy (a b : SReg)
  -- tile streams, rings and escape (R168 to R180)
  | srecv (v : VReg) (port : BitVec 4) | ssend (v : VReg) (b : SReg) (et : EType)
  | smerge (v va vb : VReg) (k : BitVec 3) | ssplit (v va : VReg) (w : BitVec 4)
  | sstop (level : BitVec 3) | ssteer (a : SReg) | speek (d : SReg) (port : BitVec 4) | spred (p : PReg) (port : BitVec 4)
  | rqpush (ring : BitVec 4) (v : VReg) (b : SReg) | rqpop (v : VReg) (ring : BitVec 4) (b : SReg)
  | esc (d : SReg) (v : VReg) (node : BitVec 2) | escO (d : SReg) (v : VReg) (node : BitVec 2)
  | ctxsw (n : BitVec 2)
  -- matrix forms (R183 to R191)
  | mgPp | mgPe | mgEp | mgEe | mgGp | mgGe
  | mzero | mdrain (a : SReg) (v : VReg) | mspx (a b : SReg) | mspxN (a b : SReg)
  | mdset (imm : Imm) | mdadv (d : SReg) | mdadvR (d : SReg)
  -- system forms (R216 to R225)
  | trap (n : BitVec 12) | eret | uret | csrr (d : SReg) (num : BitVec 12) | csrw (num : BitVec 12) (a : SReg)
  | wfi | wfit (a : SReg) | tlbi (sc : Scope) (a b : SReg) | icinv (sc : Scope) (a b : SReg)
  | ctxSave (d a : SReg) (imm : Imm) | ctxLoad (d a : SReg) (imm : Imm)
  | preemptHalt (d a : SReg) | preemptTrap (d a : SReg) | preemptResume (d a : SReg) | halt
  -- slot B (R136 to R162)
  | vnop
  | vadd (p : PReg) (d a b : VReg) (ty : Ty) | vsub (p : PReg) (d a b : VReg) (ty : Ty)
  | vmul (p : PReg) (d a b : VReg) (ty : Ty) | vfma (p : PReg) (d a b : VReg) (ty : Ty)
  | vmin (p : PReg) (d a b : VReg) (ty : Ty) | vmax (p : PReg) (d a b : VReg) (ty : Ty)
  | vabs (p : PReg) (d a : VReg) (ty : Ty) | vneg (p : PReg) (d a : VReg) (ty : Ty)
  | vdiv (p : PReg) (d a b : VReg) (ty : Ty)
  | vsqrt (p : PReg) (d a : VReg) (ty : Ty) | vrsqrt (p : PReg) (d a : VReg) (ty : Ty)
  | vrcp (p : PReg) (d a : VReg) (ty : Ty) | vexp2 (p : PReg) (d a : VReg) (ty : Ty)
  | vlog2 (p : PReg) (d a : VReg) (ty : Ty)
  | vcmpEq (p : PReg) (pd : PReg) (a b : VReg) (ty : Ty) | vcmpNe (p : PReg) (pd : PReg) (a b : VReg) (ty : Ty)
  | vcmpLt (p : PReg) (pd : PReg) (a b : VReg) (ty : Ty) | vcmpLe (p : PReg) (pd : PReg) (a b : VReg) (ty : Ty)
  | vcmpUn (p : PReg) (pd : PReg) (a b : VReg) (ty : Ty)
  | vsel (p : PReg) (d a b : VReg) | vand (p : PReg) (d a b : VReg) | vor (p : PReg) (d a b : VReg)
  | vxor (p : PReg) (d a b : VReg)
  | vshl (p : PReg) (d a b : VReg) (ty : Ty) | vshr (p : PReg) (d a b : VReg) (ty : Ty)
  | vsra (p : PReg) (d a b : VReg) (ty : Ty)
  | vcvt (p : PReg) (d a : VReg) (src dst : CFmt) (rtz : Bool)
  | vpack (d a b : VReg) (f : PackForm) | vunpk (p : PReg) (d a : VReg) (f : PackForm)
  | vredSum (p : PReg) (d a : VReg) (ty : Ty) | vredMin (p : PReg) (d a : VReg) (ty : Ty)
  | vredMax (p : PReg) (d a : VReg) (ty : Ty)
  | vperm (p : PReg) (d a b : VReg) | vbcast (p : PReg) (d : VReg) (ty : Ty) (s : SReg)
  | vmovs (p : PReg) (d a : VReg) (dir : Bool) (lane : BitVec 3) (ty : Ty) (s : SReg)
  | vscale (p : PReg) (d a b : VReg) (ty : Ty)
  | vquantS (p : PReg) (d a b : VReg) (fmt : CFmt) | vquant (p : PReg) (d a b : VReg) (fmt : CFmt)
  | vclass (p : PReg) (d a : VReg) (ty : Ty) | vgstep (d a b : VReg) | vgmask (p : PReg) (d a b : VReg)
  -- a bundle that is not an instruction (R85)
  | undBundle (slotB : Bool)
  -- events of threads and cores
  | tlbWalk (blk i : Nat) | resultCommit (u : UnitRef) | windowForcedClose (g : Nat) | completionDiversion (g : Nat)
  | preemptHaltTaken (u : UnitRef) | threadWake (u : UnitRef) | wfitDeadline (g : Nat) | storePerform (g : Nat)
  | remoteAck (g : Nat) (delivered : Bool) (port : BitVec 4) | combineWindowExpiry (blk i : Nat)
  -- events of the rotunda and the commit arbiter
  | recordArrival (f : Nat) | rotundaAdmit (f : Nat) | recordPromotion (f q : Nat)
  | taskConflictAbort (g : Nat) | taskPlainRestart (g : Nat) | taskCommit (blk : Nat)
  -- events of the transfer units and sync words
  | commandEntry (blk port : Nat) | busyRetry (blk port : Nat) | gateOpen (blk port : Nat)
  | transferStart (blk port : Nat) | transferWrite (id : Nat) | rangeLockRelease (id i : Nat)
  | transferCompletion (id : Nat) | viaTransferFinish (id : Nat)
  | syncUpdateCycle (pa : Nat) | syncCarryEval (pa : Nat)
  -- events of the mesh, tiles, converters, adders and memory ports
  | flitForward (r : Nat) (dir : Dir) (vc : BitVec 2) | portTokenArrival (k port : Nat) | streamerSend (k : Nat)
  | ringPlace (tile ring : Nat) | placingAreaWrite (tile : Nat) | inboundStreamerWrite (tile : Nat)
  | converterFiring (c : Nat) | adderPair (port : Nat) | agenLoadToken (m : Nat) | agenStoreToken (m : Nat)
  | doneArrival (m : Nat) | matrixOpStart (tile : Nat) | matrixOpEnd (tile : Nat) | stallLimit (p : Producer)
  | contextSwitch (tile : Nat) | configurationFlit (tile : Nat) | spliceSwitch (tile : Nat)
  | spliceMarker (tile : Nat) | escapeReentry (tile node : Nat) | graphEnd (gid : Nat)
  -- events of the fault units and the pattern compilers
  | faultNotice (f : Nat) | faultRecordWrite (f : Nat) | futureResolve (f k : Nat)
  | compileStart (blk : Nat) | compileEnd (blk : Nat)
  -- events of invocation, replies and the Marold links
  | mailboxWrite (core : Nat) | invokeRetry (i : Nat) | invokeTimeout (i : Nat) | replyResend (i : Nat)
  | answerFrame (port : Nat) | packetReceive (port : Nat) | frameReceive (port : Nat) (frame : BitVec 512)
  | retryRequest (port : Nat) | idleFrame (port : Nat) | frameForward (port : Nat)
  | portRetrain (port : RetrainOf) | portDown (port : Nat) | downPortRetrain (port : Nat)
  -- events of clocks, power and bring-up
  | campanileSlew (blk : Option Nat) (forward : Bool) | clockStretch (blk pct : Nat) | powerGate (blk : Nat) | blockWake (blk : Nat)
  | bucketRefill | effAdjust (sens : Sensors) | thermalShutdown (field : Nat) | coldReset | phaseComplete (ok : Bool)
  | pcieHotReset (port : Nat)
  -- events of the host ports and the register pages
  | postingWrite (port q : Nat) (whole ide : Bool) (data : BitVec 512) | spillDraw (q : Nat) | replyRingWrite (i : Nat)
  | replyRingRetry (i : Nat)
  | bar2Read (port off n : Nat) (ide : Bool) | bar2Write (port off : Nat) (ide : Bool) (data : List Byte)
  | setWrite (port : Nat) | fqbaseWrite (f : Nat) (val : Word) | watchConfigWrite (log : Bool) (val : Word)
  | registerWrite (host : Option (Nat × Bool)) (addr : Nat) (val : Option Word)
  -- the belvedere's requests
  | graphLoad | graphUnload | verifyImage | attestationReport | jobStart | jobEnd
  | plannedRetirement (blk : Nat) (core : Bool) (name : Nat) | failedRetirement (blk : Nat) (core : Bool) (name : Nat) (dead : Bool)
  | supplyDroopEnd (blk : Nat) | retrainComplete (port : Nat) (lanes : BitVec 16)
  | spdmRequest (port : Nat) (active : IdeStream)
  deriving DecidableEq, Repr, Inhabited

end Sys2Proof
end

