-- ==== Sys2Proof/Machine/Graph.lean ====
section
/-!
DEFINITION. Fabric graphs as data: what a graph section of an Umaist image declares (R99, R228 to R233, R245, R321, R326,
R395). The spec gives the meaning of the declarations and not the bytes of a section, so `Config.graphOf` reads them.
-/
namespace Sys2Proof.Machine

/-- The base of an agen node: a constant, or a load argument plus a constant (R230). -/
inductive AgenBase where
  | const (w : Word)
  | arg (n : Nat) (off : Word)
  deriving DecidableEq, Repr, Inhabited

/-- Source of a converter (R267): an MX element format, or plain values. -/
inductive ConvFrom where
  | mx (f : CFmt)
  | plain (f : CFmt)
  deriving DecidableEq, Repr, Inhabited

/-- Target of a converter (R267). -/
inductive ConvTo where
  | planes | bint | elem (f : CFmt)
  deriving DecidableEq, Repr, Inhabited

/-- A node of a graph context (R230). Tiles are graph tile numbers (R177), memory ports and converter positions are
device-wide numbers 8 × block + N and 4 × block + N. -/
inductive Node where
  | prog (tile core : Nat) (entry : Word)
  | conv (pos : Option Nat) (src : ConvFrom) (dst : ConvTo) (planes : Nat)
  | agen (port : Nat) (store : Bool) (base : AgenBase) (run : Nat) (gap : Word) (count : Nat) (et : EType)
  | esc (tile hidx pool : Nat)
  deriving DecidableEq, Repr, Inhabited

/-- The producer of a route (R245, R395); nodes are numbered in declaration order within their context. -/
inductive RouteFrom where
  | node (i : Nat)
  | xq (blk port : Nat)
  | lp (port : Nat)
  deriving DecidableEq, Repr, Inhabited

/-- A consumer of a route (R245, R326, R395). -/
inductive RouteTo where
  | node (i : Nat)
  | port (tile core port : Nat) (width : Option Nat)
  | ring (tile ring : Nat)
  | sram (tile : Nat)
  | place (tile base : Nat)
  | xq (blk port : Nat)
  | lp (port : Nat)
  | lpAdd (port : Nat)
  deriving DecidableEq, Repr, Inhabited

/-- A route: its consumers, each with its steer value when the route is steered (R321), and its declared rate (R251). -/
structure Route where
  num   : Nat
  src   : RouteFrom
  dsts  : List (Option Nat × RouteTo)
  rate  : Option (Nat × Nat)
  deriving DecidableEq, Repr, Inhabited

/-- A ring declaration (R173). -/
structure RingDecl where
  tile : Nat
  ring : Nat
  off  : Nat
  size : Nat
  deriving DecidableEq, Repr, Inhabited

/-- One declared context of a graph (R228, R229): its nodes, routes and rings, the tile code as (tile, address, bundle), and for each
graph tile the 32-byte words of its context image and the SHAKE256 measurement that the belvedere made of it (R238). -/
structure GCtx where
  nodes  : List Node
  routes : List Route
  rings  : List RingDecl
  code   : List (Nat × Nat × Word)
  images : List (List (BitVec 256) × BitVec 512)
  deriving DecidableEq, Repr, Inhabited

/-- A graph section (R228): the placement of each graph tile, a device-wide tile number or automatic (R229), the
declared contexts by number, and the digest measured for its context images (R238). -/
structure GraphDesc where
  name  : String
  tiles : List (Option Nat)
  ctxs  : List (Option GCtx)
  deriving DecidableEq, Repr, Inhabited

/-- The words of graph tile `i`'s context image, and their measurement. -/
def GCtx.image (c : GCtx) (i : Nat) : List (BitVec 256) × BitVec 512 := c.images.getD i ([], 0)

/-- A graph context is idle when it declares no nodes (R228). -/
def GCtx.idle (c : GCtx) : Bool := c.nodes.isEmpty

end Sys2Proof.Machine
end

