-- ==== Sys2Proof/Config.lean ====
section
/-!
DEFINITION. The free values of the model: what the spec leaves open. Each is a constant without a body, so no proof can
see what it is, and a claim that uses it is true whatever it is. The assumption log names each.
-/
namespace Sys2Proof

/-- What the machine does next: a unit takes its issue turn, or an event of the part comes about. -/
inductive Act where
  | issue (u : UnitRef)
  | event (i : Instr)
  deriving DecidableEq, Repr, Inhabited

/-- What befalls the data that a move consumes. An uncorrectable soft error (R2) strikes none of them, the bundle that is fetched, a
register that slot A or slot B of the bundle reads, or the i-th of the data that its action takes from memory, tile SRAM, accumulators,
queues or flits. The running gang-issue form reads its i-th operand word (R186). A load misses its L1 (R366), or its access of host memory
is lost with the link (R134). -/
inductive Soft where
  | clean | fetch
  | file (slotB : Bool)
  | data (i : Nat)
  | operand (i : Nat)
  | miss
  | lost (port : BitVec 4)
  deriving DecidableEq, Repr, Inhabited

/-- A move: the campanile ns that pass before it, the block cycles that pass in each listed block (block counts drift
apart under stretching, R4, R11), the action, and the soft error that its data hold (log 86). -/
structure Move where
  ns   : Nat
  cycs : List (Nat × Nat)
  act  : Act
  soft : Soft := .clean
  deriving DecidableEq, Repr, Inhabited

/-- What the machine does at its n-th free choice: where no rule fixes which agent moves next, or how much time
passes before it, the choice is this value's. (log 3) -/
opaque Config.schedule : Nat → Move

/-- The graph that the bytes of a graph section declare; none for a malformed section. (log 4) -/
opaque Config.graphOf : List Byte → Option Machine.GraphDesc

/-- The handler entries that an image holds, each an index and 32 bytes (R413 names them, and no rule gives the bytes of an image's
sections). (log 38) -/
opaque Config.handlersOf : List Byte → List (Nat × List Byte)

/-- Which of the positions that qualify the loader takes for the n-th automatic converter of a load (R236). (log 5) -/
opaque Config.autoConv : Nat → Nat → Nat

/-- The path that the loader would choose for a route, as router numbers with the waypoints and forks of their entries (R247, R373). (log 5) -/
opaque Config.routePath : Nat → Machine.Route → List (Nat × BitVec 32)

/-- The further moves, as name and site, that the incremental placer tries at its n-th retirement (R375). (log 84) -/
opaque Config.placerMoves : Nat → List (Nat × Nat)

/-- The unit code by which a route's entry hands flits to Marold port `p`, counted among the reserved codes of R247. (log 70) -/
opaque Config.linkCode : Nat → Nat

/-- The router at which Marold port `p` joins the mesh; R369 places no port. (log 26) -/
opaque Config.linkRouter : Nat → Nat

/-- The place of a field's fault unit among the routers of its field (R309). (log 112) -/
opaque Config.faultPlace : Nat → Nat

/-- The layout by which a plane-forming converter numbers blocks that no via transfer has handed it (R268 gives none). (log 27) -/
opaque Config.noHandoff : Nat → Nat

/-- The depth of a link buffer, per virtual channel, less one (R249 gives no number). (log 6) -/
opaque Config.linkDepth : Nat

/-- The silicon revision word of the control page (R402). (log 7) -/
opaque Config.revision : BitVec 32

/-- The fused Kientair key, the device's Ed448 and X448 private keys, and the firmware image (R411, R421). (log 8) -/
opaque Config.fusedKey : List Byte
opaque Config.identityPrivate : List Byte
opaque Config.ephemeralPrivate : Nat → List Byte
opaque Config.firmware : List Byte

/-- What the test of a block's sites finds at reset: usable, and router live, by block and physical site (R370). (log 9) -/
opaque Config.tileSite : Nat → Nat → Bool × Bool
opaque Config.coreSite : Nat → Nat → Bool × Bool

/-- Half the round trip to a port's peer, as measured at an instant (R399). (log 122) -/
opaque Config.halfTrip : Nat → Nat → Nat

/-- Whether a block's ctime follows the campanile root by one ns when the campanile starts (R26, R380). (log 29) -/
opaque Config.lagAt : Nat → Bool

/-- Whether an instruction line that a core's L1 held has left it since, at the n-th free choice (log 15). -/
opaque Config.lineGone : Nat → Nat → Bool

/-- What the scale step of vquant gives as its exponent for a negative running maximum, which no lane has replaced (R157 states no
logarithm of it, log 17). -/
opaque Config.scaleOfNegative : BitVec 32 → BitVec 8

/-- Pattern id 8 of a force guard that has forced all of eight ids without being done (R160 and R161 have no lane 8,
log 17). -/
opaque Config.patternLane8 : BitVec 256 → BitVec 32

/-- The place of a record in a mailbox whose header gives a capacity of 0 (R211 takes the remainder by it, log 23). -/
opaque Config.noCapRecord : Nat → Nat

/-- The place of the n-th record of a spill or reply ring whose capacity is 0, which R403 does not give a ring. (log 128) -/
opaque Config.noCapSlot : Nat → Nat

/-- What a request of another device reads at a physical address where there is nothing (R298, log 41). -/
opaque Config.nowhere : Nat → BitVec 256

/-- What an accumulator cell and a block's counter hold after the unload of the tile's graph, at the n-th free choice: the contents
are not preserved (R320, log 2). -/
opaque Config.lostCell : Nat → Nat → BitVec 32
opaque Config.lostKidx : Nat → Nat → Nat

/-- The memory request that the payload of a flit of kind 0x4 asks for: address, bytes, a store's data or none, and
the form of an atomic (R87 names the contents and gives no layout). (log 10) -/
opaque Config.memReqOf : BitVec 256 → Nat × Nat × Nat × BitVec 256

/-- The payload that carries a memory request to another device. (log 10) -/
opaque Config.memReqPayload : Nat → Nat → Nat → BitVec 256 → BitVec 256

end Sys2Proof
end

