-- ==== Sys2Proof/Machine/Tab.lean ====
section
/-!
DEFINITION. Sparse tables: a list of (key, value) pairs with strictly rising keys and no entry equal to what an unlisted
key reads as, so that equal tables are equal data. Memory is such a table of bytes (R298), and so are the tables of
threads, cores, tiles, blocks and fields (R7).
-/
namespace Sys2Proof.Machine

/-- A sparse table with natural-number keys. -/
abbrev Tab (α : Type) := List (Nat × α)

/-- The value at key `k`; an unlisted key reads as `d`. -/
def Tab.get {α : Type} (d : α) : Tab α → Nat → α
  | [], _ => d
  | (i, x) :: t, k => if i = k then x else Tab.get d t k

/-- The entries of a table at keys other than `k`. -/
def Tab.without {α : Type} : Tab α → Nat → Tab α
  | [], _ => []
  | (i, x) :: t, k => if i = k then Tab.without t k else (i, x) :: Tab.without t k

/-- Writes `x` at key `k`, in the key's place; the default value leaves no entry. -/
def Tab.set {α : Type} [DecidableEq α] (d : α) : Tab α → Nat → α → Tab α
  | [], k, x => if x = d then [] else [(k, x)]
  | (i, y) :: t, k, x =>
    if k < i then (if x = d then Tab.without ((i, y) :: t) k else (k, x) :: (i, y) :: t)
    else if i = k then (if x = d then Tab.without t k else (k, x) :: t)
    else (i, y) :: Tab.set d t k x

/-- The canonical form of a table whose keys are all at least `lo`. -/
def Tab.wfFrom {α : Type} [DecidableEq α] (d : α) : Nat → Tab α → Bool
  | _, [] => true
  | lo, (i, x) :: t => decide (lo ≤ i) && decide (x ≠ d) && Tab.wfFrom d (i + 1) t

/-- The canonical form: keys strictly rising, and no entry that an unlisted key would read as. -/
def Tab.wf {α : Type} [DecidableEq α] (d : α) (t : Tab α) : Bool := Tab.wfFrom d 0 t

/-- Updates the value at key `k` by a function. -/
def Tab.upd {α : Type} [DecidableEq α] (d : α) (t : Tab α) (k : Nat) (f : α → α) : Tab α :=
  Tab.set d t k (f (Tab.get d t k))

/-- The listed keys whose value passes a test, in rising order. -/
def Tab.keysWith {α : Type} (p : Nat → α → Bool) (t : Tab α) : List Nat :=
  (t.filter fun e => p e.1 e.2).map Prod.fst

/-- Applies a function to every listed value, taking out the entries that become the default. -/
def Tab.mapVals {α : Type} [DecidableEq α] (d : α) (f : Nat → α → α) : Tab α → Tab α
  | [] => []
  | (i, x) :: t =>
    let y := f i x
    if y = d then Tab.without (Tab.mapVals d f t) i else (i, y) :: Tab.mapVals d f t

end Sys2Proof.Machine
end

