-- ==== Sys2Proof/Machine/State.lean ====
section
/-!
DEFINITION. The state of one SD4 as plain data: every register, queue, table and buffer that the spec names, the reasons
for which a step can stop, and the machine right after reset. Fields, blocks, cores, tiles and thread slots are counted
device-wide (R7, R383): block = 8 × field + block, core = 16 × block + core, thread g = 8 × core + tid,
tile = 32 × block + tile, compute core k = 4 × tile + core.
-/
namespace Sys2Proof.Machine

/-! ## Threads and tile cores -/

/-- Where a long-latency result goes: a scalar register, or the lanes of a vector register that the mask names (R137). -/
inductive Dest where
  | sreg (r : SReg)
  | vreg (r : VReg) (mask : PWord)
  deriving DecidableEq, Repr, Inhabited

/-- The home of a physical address (R298): DRAM, tile aperture, a device register page, host memory, or the memory of
another device (R297). -/
inductive Home where
  | dram | aperture | regs | host
  | remote (dev : Nat)
  deriving DecidableEq, Repr, Inhabited

/-- A translated access (R300): physical address, home, the leaf's sparse-watch bit (R360), whether the lines that follow are spread over
the fields (R299), and whether the page is an RM page (R297). -/
structure Phys where
  pa   : Nat
  home : Home
  sw   : Bool
  hash : Bool := false
  rm   : Bool := false
  deriving DecidableEq, Repr, Inhabited

/-- What arrives for a pending load: a scalar of so many bytes, a whole vector register, or the next lane of a gather, whose lanes still
to be performed are listed in order, each with its number, address and place, and which has missed L1 or not (R117, R119, R338, R366). -/
inductive Arrive where
  | scalar (n : Nat) (sgn : Bool)
  | whole
  | lanes (todo : List (Nat × Nat × Phys)) (miss : Bool)
  deriving DecidableEq, Repr, Inhabited

/-- Whether a pending result is that of a load or atomic at system scope, and whether it holds back later accesses
(R131, R133), or that of a preempt, which arrives when none of its requests is due any more (R223). -/
inductive Fly where
  | no
  | load (a : Arrive) (acq : Bool)
  | preempt
  deriving DecidableEq, Repr, Inhabited

/-- One entry of the return buffer (R14, R279): a result of a long form, the bundles left in its window, whether it has
arrived, its flags (R31), and the fault it carries (R112). -/
structure Pending where
  dest  : Dest
  left  : Nat
  ready : Bool
  val   : VWord
  flags : BitVec 5 := 0
  fault : Option (BitVec 8 × Word) := none
  tok   : Nat := 0
  fly   : Fly := .no
  deriving DecidableEq, Repr, Inhabited

/-- The state that swarm threads and tile cores share (R12): pc, register files, vrm, vflags and the return buffer. -/
structure Ctx where
  pc     : Word
  s      : Vector Word 32
  v      : Vector VWord 16
  p      : Vector PWord 8
  vrm    : BitVec 2
  vflags : BitVec 5
  pend   : List Pending
  deriving DecidableEq, Repr

/-- Every register zero (R19). -/
def Ctx.zero : Ctx :=
  { pc := 0, s := Vector.replicate 32 0, v := Vector.replicate 16 0, p := Vector.replicate 8 0, vrm := 0, vflags := 0, pend := [] }

/-- Far reductions (R80, R127). -/
inductive RedOp where
  | add | min | max | and | or | xor | fadd
  deriving DecidableEq, Repr, Inhabited

/-- Kinds of store-buffer entries (R113, R226). -/
inductive SbKind where
  | plain
  | rel
  | red (op : RedOp) (w32 uns : Bool)
  deriving DecidableEq, Repr, Inhabited

/-- A store-buffer entry (R113). `sent` marks one that waits for its destination's acknowledgement or in a combining
window (R338, R366). -/
structure SbEntry where
  va   : Word
  size : Nat
  kind : SbKind
  data : VWord
  phys : Phys
  sent : Bool := false
  deriving DecidableEq, Repr, Inhabited

/-- A reserved line (R121): its virtual and physical line addresses and its lost mark. -/
structure Resv where
  va   : Nat
  pa   : Nat
  lost : Bool
  deriving DecidableEq, Repr, Inhabited

/-- A queued completion (R33, R226). -/
structure Completion where
  id  : BitVec 16
  xst : BitVec 8
  hnd : Word
  deriving DecidableEq, Repr, Inhabited

/-- The kinds of access a walk is made for (R300). -/
inductive Access where
  | read | write | fetch
  deriving DecidableEq, Repr, Inhabited

/-- How a walk that did not translate ended (R300); one whose table entries hold a soft error gives ECC (R2, R304). -/
inductive WalkErr where
  | notPresent | malformed | struck
  deriving DecidableEq, Repr, Inhabited

/-- The waits that end early (R124, R201, R213, R219). -/
inductive Wait where
  | resv (d : SReg)
  | sync (d : SReg) (va : Word) (gen : BitVec 16)
  | recv (d : SReg) (va : Word)
  | wfi
  | wfit (deadline : Word)
  deriving DecidableEq, Repr, Inhabited

/-- What a thread slot does: free, running, waiting as an entry states, halted (R223), finished and waiting for its
commit (R347), or aborted and waiting to be oldest (R346). -/
inductive Run where
  | free | run | halted
  | wait (w : Wait)
  | finished (reply : Bool) (d a b : Word)
  | parked
  deriving DecidableEq, Repr, Inhabited

/-- A halt or PREEMPT trap that has fallen due for a unit (R223), with the result that it completes: the token of the
issuer's pending result. -/
structure Due where
  trap : Bool
  by_  : Option Nat
  deriving DecidableEq, Repr, Inhabited

/-- How an access of an engine to another device's memory stands (R338): a read asked for or answered, a write asked for
or performed. -/
inductive Far where
  | idle | reading | writing | wrote
  | read (x : VWord)
  | lost (port : BitVec 4)
  deriving DecidableEq, Repr, Inhabited

/-- Pieces of 32 bytes that a bundle or a command reads from another device before it goes on: device, address, data. -/
abbrev FarBuf := List (Nat × Nat × Option VWord)

/-- One swarm thread slot (R12, R14). -/
structure Thread where
  run    : Run := .free
  ctx    : Ctx := Ctx.zero
  -- status (R27): spec, inuh, uie, sv
  spec   : Bool := false
  inuh   : Bool := false
  uie    : Bool := false
  sv     : Bool := false
  prio   : BitVec 2 := 0
  ticket : BitVec 32 := 0
  tsval  : Word := 0
  xfid   : Word := 0
  xfh    : Word := 0
  xfpend : Word := 0
  epc    : Word := 0
  ecause : Word := 0
  eval   : Word := 0
  estat  : Word := 0
  ehand  : Word := 0
  escr   : Word := 0
  sb     : List SbEntry := []
  resv   : List Resv := []
  comps  : List Completion := []
  /-- the block cycle in which the SD4 last set bits of xfpend, and those bits (R33) -/
  xfnew  : Nat × Word := (0, 0)
  /-- the thread has taken a trap and its handler's first bundle has not been fetched yet (R38) -/
  entry  : Bool := false
  /-- a recorded LINK_LOST failure and its port (R134) -/
  lkl    : Option (BitVec 4) := none
  /-- due halts and PREEMPT traps, and the bundles issued since an event became due (R281) -/
  due    : List Due := []
  dueN   : Nat := 0
  /-- the thread waits at issue (R282) -/
  atIssue : Bool := false
  /-- the block cycle from which the slot may issue its next bundle (R278) -/
  nextCyc : Nat := 0
  /-- the failed walk that its next issue meets (R112, R300) -/
  walked : Option (Nat × Access × WalkErr) := none
  /-- a bundle fetched from another device: its address, and the word once it has arrived (R338) -/
  fetchw : Option (Nat × Option Word) := none
  /-- a parameter block read from another device for the bundle at pc (R195, R338) -/
  farbuf : FarBuf := []
  /-- its PAGE_NP waits for a free future entry (R311) -/
  futw   : Bool := false
  /-- the verdict that a re-admitted thread meets at its bundle (R313) -/
  verdict : Option (BitVec 8 × Word) := none
  /-- unique number of the thread, its group, and its stack index (R283, R383) -/
  uid    : Nat := 0
  group  : Option Nat := none
  stack  : Option Nat := none
  /-- the thread's block and number in that block's commit arbiter, when it is an ordered task (R342) -/
  task   : Option (Nat × Nat) := none
  deriving DecidableEq, Repr

/-- What a compute core does (R163, R182, R192, R223): nothing, run, hold for a queued matrix operation, wait in
sync.wait, wait in ctxsw, or halted by a fault (with its cause) or by a request. -/
inductive CoreRun where
  | idle | run | held
  | sync (d : SReg) (pa : Nat) (gen : BitVec 16)
  | ctxsw (n : Nat)
  | faulted (cause : BitVec 8)
  deriving DecidableEq, Repr, Inhabited

/-- A flit (R86): header and payload. Tokens queued in ports, streamers and nodes keep this form. -/
structure Flit where
  hdr : Word
  pay : VWord
  deriving DecidableEq, Repr, Inhabited

/-- How far the words of a sparse tile have been taken (R350, R351): the level of its header once the first word has been
taken, whether it is malformed, whether its terminator has been taken, and its words. -/
structure Scan where
  lev   : Option Nat := none
  bad   : Bool := false
  done  : Bool := false
  words : List (BitVec 32) := []
  deriving DecidableEq, Repr, Inhabited

/-- A coordinate stream that a pcomp consumes in the background (R199): its port, the compile it is forwarded into if one was
queued, and its progress. -/
structure Drain where
  port  : Nat
  fwd   : Bool
  tile  : Nat
  ident : Word
  scan  : Scan
  deriving DecidableEq, Repr, Inhabited

/-- One tile compute core (R12, R164). Ports are listed by number with their queued flits. -/
structure TCore where
  run    : CoreRun := .idle
  halted : Bool := false
  ctx    : Ctx := Ctx.zero
  mdesc  : Word := 0
  rsel   : Word := 0
  ports  : Tab (List Flit) := []
  /-- the outbound streamer's queue for this core (R169) -/
  outq   : List Flit := []
  /-- the number of tokens that the tile had sent on a route when it sent this core's last one (R291) -/
  sentAt : Tab Nat := []
  /-- block cycles counted in a wait for room or a ticket (R165), and the route or ring waited for -/
  waited : Option (Nat × Nat) := none
  /-- the port at which the bundle at pc waits for a token (R256) -/
  atPort : Option Nat := none
  drains : List Drain := []
  due    : List Due := []
  /-- the block cycle from which the core may issue its next bundle (R163) -/
  nextCyc : Nat := 0
  deriving DecidableEq, Repr

/-! ## Tiles -/

/-- A hardware ring (R173): declaration, H, T and U; the block cycle of the last operation on it and that one's place in the order of a
cycle (R176). -/
structure Ring where
  off  : Nat := 0
  size : Nat := 0
  h    : Nat := 0
  t    : Nat := 0
  u    : Nat := 0
  cyc  : Nat := 0
  ord  : Nat := 0
  deriving DecidableEq, Repr, Inhabited

/-- A parked token (R177): ticket number n, header, elements, ordered form; `back` holds the re-entering elements
once the escape thread has replied (R179). -/
structure Parked where
  n       : Nat
  tok     : Flit
  ordered : Bool
  back    : Option VWord := none
  deriving DecidableEq, Repr, Inhabited

/-- An escape node (R177, R179): handler index, pool size, next ticket number, tokens outstanding in ticket order, and
its re-entry queue. -/
structure EscNode where
  hidx  : Nat := 0
  pool  : Nat := 0
  next  : Nat := 0
  out   : List Parked := []
  queue : List Flit := []
  /-- the block cycle from which a core that waits may take the ticket that last came back (R179) -/
  from_ : Nat := 0
  deriving DecidableEq, Repr, Inhabited

/-- What a route means at one tile (R228, R245). -/
inductive Consumer where
  | port (core port : Nat) (width : Nat)
  | ring (r : Nat)
  | sram
  | place (base : Nat)
  deriving DecidableEq, Repr, Inhabited

/-- A consumer of a route at a tile: the route, and the steer value of a steered route's end (R245, R321). -/
structure InRoute where
  num   : Nat
  steer : Option Nat
  dst   : Consumer
  deriving DecidableEq, Repr, Inhabited

/-- A tile's route-table entry for sending (R42, R244, R321): the number, the port of a command route, and the steer set
of a steered route. -/
structure OutRoute where
  num   : Nat
  cmd   : Option Nat
  steer : Option (List Nat)
  deriving DecidableEq, Repr, Inhabited

/-- One loaded configuration context of a tile (R228, R231). -/
structure TileCtx where
  gid    : Nat
  gctx   : Nat
  gtile  : Nat
  code   : Tab Word
  entry  : Tab Word
  args   : List Word
  inr    : List InRoute
  outr   : List OutRoute
  rings  : List (Nat × Nat × Nat)
  escs   : List (Nat × Nat)
  /-- the core whose ports 15, 14, ... take the re-entries of the escape nodes (R291) -/
  reent  : Option Nat
  words  : Nat
  got    : Nat
  idle   : Bool
  /-- the words of the image that have arrived, the belvedere's measurement of it, and whether it has failed it (R238) -/
  image  : Tab (BitVec 256) := []
  digest : BitVec 512 := 0
  bad    : Bool := false
  deriving DecidableEq, Repr, Inhabited

/-- An operation of the matrix queue (R182). -/
inductive MKind where
  | mg
  | mzero
  | mdrain (arg : Word) (steers : VWord) (rsel : Word)
  | acpy (off : Nat) (arg : Word)
  | mspx (ident : Word) (port : Nat) (now : Bool)
  deriving DecidableEq, Repr, Inhabited

/-- How a sparse form stands (R191): not started, waiting for a compile, bound to the fallback, or with its program. -/
inductive SpState where
  | fresh | waitc | fall
  | ready (nb : Nat) (prog : List (BitVec 32))
  deriving DecidableEq, Repr, Inhabited

/-- A queued matrix operation with the descriptor latched at issue (R183), its core, the core's registers before its bundle,
its start, the tokens that a drain has sent, and a sparse form's state and stream, whether it forwards the stream to the
compiler, and the tokens that it has taken. -/
structure MOp where
  core   : Nat
  kind   : MKind
  md     : Word
  ctx    : Ctx
  began  : Option Nat := none
  sent   : Nat := 0
  sp     : SpState := .fresh
  scan   : Scan := {}
  fwd    : Bool := false
  took   : List Flit := []
  /-- the operand words that a gang-issue form has read before its end (R186): offset and bytes -/
  seen   : List (Nat × List Byte) := []
  deriving DecidableEq, Repr

/-- An entry of the micro-program cache (R356), least recently used first in its list. -/
structure McEntry where
  ident : Word
  nb    : Nat
  prog  : List (BitVec 32)
  stale : Bool
  deriving DecidableEq, Repr, Inhabited

/-- A fabric tile (R163 to R192). Its SRAM bytes lie in `State.mem` at their aperture addresses (R292). -/
structure Tile where
  cur    : Option Nat := none
  ctxs   : Tab (Option TileCtx) := []
  acc    : Tab (BitVec 32) := []
  kidx   : Tab Nat := []
  rings  : Tab Ring := []
  mq     : List MOp := []
  /-- the block cycle from which the operation at the head of the matrix queue may start (R182) -/
  mqFrom : Nat := 0
  /-- the block cycle in which a form last entered the matrix queue, and its core's number (R182) -/
  mqLast : Nat × Nat := (0, 0)
  /-- the tokens that the tile's streamer has sent, by route (R291) -/
  sent   : Tab Nat := []
  mcache : List McEntry := []
  escs   : Tab EscNode := []
  /-- flits that routers have delivered to the tile's streamers, in order, each with the place of its consumer among those that its route
  has in the current context (R247), or none while no such context is current (R180) -/
  inbox  : List (Option Nat × Flit) := []
  /-- configuration flits on their way in (R238) -/
  cfg    : List Flit := []
  /-- destination of the via transfer whose output reaches this tile's SRAM: transfer, route, offset, elements written -/
  via    : List (Nat × Nat × Nat × Nat) := []
  /-- context of a successor to switch to (R256) -/
  succ   : Option Nat := none
  /-- splice markers on their way: route and successor context (R256) -/
  markers : List (Nat × Nat) := []
  deriving DecidableEq, Repr

/-! ## Swarm cores and blocks -/

/-- A cached translation (R302): the page's base, its level, the leaf. -/
structure TlbEntry where
  base  : Nat
  level : Nat
  leaf  : Word
  deriving DecidableEq, Repr, Inhabited

/-- An outstanding reply (R209): ticket, mailbox, and the privilege at which it was issued. -/
structure Outst where
  ticket : BitVec 32
  mbox   : Word
  sv     : Bool
  deriving DecidableEq, Repr, Inhabited

/-- An instruction line that a core's L1 holds: its virtual and physical line addresses and its bytes (R221). -/
structure ILine where
  va   : Nat
  pa   : Nat
  data : BitVec 512
  deriving DecidableEq, Repr, Inhabited

/-- A swarm core: TLB, instruction lines, ticket counter and outstanding replies. -/
structure Core where
  tlb    : List TlbEntry := []
  ilines : List ILine := []
  ticket : BitVec 32 := 1
  outst  : List Outst := []
  deriving DecidableEq, Repr, Inhabited

/-- Who waits for a walk: a thread, a memory port's generator, or a request port (R302). -/
inductive Walker where
  | thread (g : Nat)
  | agen (m : Nat)
  | xport (x : Nat)
  deriving DecidableEq, Repr, Inhabited

/-- A walk in flight (R302). -/
structure Walk where
  va   : Nat
  kind : Access
  who  : List Walker
  deriving DecidableEq, Repr, Inhabited

/-- A job of the dispenser (R202, R203). -/
structure Job where
  desc   : Word := 0
  q      : Nat := 0
  loaded : Bool := false
  deriving DecidableEq, Repr, Inhabited

/-- Who waits for a compile (R362, R364): a tile core, a thread with the address of its pcomp and its ticket, or a transfer. -/
inductive Requester where
  | core (k : Nat)
  | thread (g : Nat) (pc : Word) (ticket : BitVec 32)
  | xfer (id : Nat)
  deriving DecidableEq, Repr, Inhabited

/-- A queued compile (R362): target tile, identity, the metadata in memory still to be read (address and bytes) with its
first line's watch, whether a piece of it is on its way from another device, its words, whether a stream was too long to
copy, a failed read, who waits, its range-lock entry, when it started, and when its last word came. -/
structure Compile where
  tile  : Nat
  ident : Word
  mem   : Option (Nat × Nat)
  va    : Option Nat
  sw    : Bool := false
  asked : Bool := false
  scan  : Scan := {}
  long  : Bool := false
  fail  : Option (BitVec 8 × Word) := none
  reqs  : List Requester
  lock  : Option Nat := none
  began : Option Nat := none
  last  : Nat := 0
  deriving DecidableEq, Repr, Inhabited

/-- An open combining window of a block router for reductions (R366, R367); `sws` lists the addresses of the members that go through
a sparse-watch page (R360). -/
structure CombWin where
  phys : Phys
  va   : Nat
  op   : RedOp
  w32  : Bool
  uns  : Bool
  val  : Word
  who  : List Nat
  at_  : Nat
  sws  : List Nat := []
  deriving DecidableEq, Repr, Inhabited

/-- A load that waits in a combining window (R366): the thread and the token of its result, or the memory port of an address generator,
its address, and what it reads. -/
structure LoadMember where
  who   : Nat ⊕ Nat
  tok   : Nat := 0
  va    : Nat := 0
  phys  : Phys
  n     : Nat
  deriving DecidableEq, Repr

/-- An open combining window of a block router for loads (R366): the 8-byte word, its members, and when it opened. -/
structure LoadWin where
  word : Nat
  who  : List LoadMember
  at_  : Nat
  deriving DecidableEq, Repr, Inhabited

/-- A command that waits to enter a request port (R194, R258): its command route, its region and its words. -/
structure Arriving where
  route : Nat
  gid   : Nat
  w     : List Word
  busy  : Bool
  stall : Option Nat
  farbuf : FarBuf := []
  /-- the address at which it waits for a free future entry (R311) -/
  want  : Option Nat := none
  /-- the block cycle of its arrival (R258), and its place among the commands that have been found BUSY (R260) -/
  cyc   : Nat := 0
  place : Nat := 0
  /-- the campanile time of its arrival (R260) -/
  ns    : Nat := 0
  deriving DecidableEq, Repr, Inhabited

/-- A request port of a transfer unit: arriving fabric commands, queued transfers by number, and its TLB (R194, R302). -/
structure XPort where
  arr : List Arriving := []
  q   : List Nat := []
  tlb : List TlbEntry := []
  walked : Option (Nat × Access × WalkErr) := none
  /-- the block cycle after the one in which a command last entered it (R258) -/
  from_ : Nat := 0
  deriving DecidableEq, Repr, Inhabited

/-- An ordered task in its block's commit arbiter (R342, R343): slot, timestamp, order number, entry state, buffer
(bytes by physical address), marked lines, abort count, whether a write has hit a mark (R345), whether it runs plain, and
the task that spawned it while speculative. -/
structure Task where
  g      : Nat
  ts     : Word
  num    : Nat
  entry  : Thread
  buf    : Tab (Option Byte)
  /-- lines of the buffer written through a sparse-watch page: physical and virtual line address (R360) -/
  sws    : List (Nat × Nat)
  marks  : List Nat
  aborts : Nat
  hit    : Bool
  plain  : Bool
  parent : Option Nat
  /-- the address ranges of the stores in the buffer, which have passed their checks (R197) -/
  vas    : List (Nat × Nat) := []
  deriving DecidableEq, Repr

/-- How a block's power stands (R420): on, gated, or waking since an instant. -/
inductive Power where
  | on | gated
  | asked (at_ : Nat)
  | waking (since : Nat)
  deriving DecidableEq, Repr, Inhabited

/-- A block: clock, power, names and sites, translation tier, dispenser, pattern compiler, combining switch, request
ports and commit arbiter. -/
structure Blk where
  cyc     : Nat := 0
  stretch : Nat := 0
  power   : Power := .on
  /-- campanile time since which the block has had none of the work of R420 -/
  quiet   : Nat := 0
  /-- the block's ctime runs this many ns (0 or 1) behind the root (R26, R380) -/
  lag     : Nat := 0
  /-- spare map record (R370): physical site of each name, retired and dead masks, rebinds -/
  tsite   : List Nat := List.range 32
  csite   : List Nat := List.range 16
  tret    : BitVec 36 := 0
  cret    : BitVec 18 := 0
  tdead   : BitVec 36 := 0
  cdead   : BitVec 18 := 0
  bgen    : BitVec 32 := 0
  /-- the planned retirement for which the block stands still: whether of a core, and its name (R375) -/
  moving  : Option (Bool × Nat) := none
  tlb     : List TlbEntry := []
  walks   : List Walk := []
  jobs    : Tab Job := []
  comps   : List Compile := []
  wins    : List CombWin := []
  lwins   : List LoadWin := []
  ports   : Tab XPort := []
  tasks   : List Task := []
  /-- the block cycle in which a unit last had its turn, and that unit's place in the order of a cycle, plus one (R203, R258, R362) -/
  turn    : Nat × Nat := (0, 0)
  deriving DecidableEq, Repr

/-! ## Rotundas, records and groups -/

/-- The sender of a record (R383): a host queue, an escape node, a thread of this SD4, or another SD4. -/
inductive Sender where
  | host (q : Nat)
  | fabric (tile node : Nat)
  | thread (sv : Bool)
  | remote (dev : Nat) (sv : Bool)
  deriving DecidableEq, Repr, Inhabited

/-- Where a group's reply goes (R93, R214, R405). -/
inductive ReplyPath where
  | none
  | core (c : Nat)
  | remote (dev sname : Nat)
  | host (q : Nat)
  | escape (tile node n : Nat)
  deriving DecidableEq, Repr, Inhabited

/-- The block that a record prefers or must take (R285). -/
inductive Pref where
  | field
  | only (blk : Nat)
  | first (blk : Nat)
  deriving DecidableEq, Repr, Inhabited

/-- Who learns of a record's acceptance or refusal: a pending result of a thread, an outstanding invocation, another
SD4's packet, or nobody. -/
inductive Notify where
  | nobody
  | pend (g tok : Nat)
  | inv (id : Nat)
  | remote (dev : Nat) (esn : BitVec 32) (port : Nat)
  deriving DecidableEq, Repr, Inhabited

/-- A handler-table entry as read (R382). -/
structure HEntry where
  sv    : Bool
  gsz   : Nat
  prio  : BitVec 2
  code  : Word
  sbase : Word
  quota : Nat
  ssz   : Nat
  snd   : BitVec 5
  deriving DecidableEq, Repr, Inhabited

/-- A record on its way to a rotunda (R384), or queued in it: the 64 bytes of R92, its sender and path; `num` is the number
that a spawn.t record took and `parent` the speculative task that spawned it (R342). -/
structure Rec where
  data   : BitVec 512
  sender : Sender
  path   : ReplyPath
  pref   : Pref
  notify : Notify
  token  : Option Flit := none
  prio   : Nat := 0
  entry  : Option HEntry := none
  group  : Nat := 0
  since  : Nat := 0
  task   : Option Nat := none
  parent : Option (Nat × Nat) := none
  deriving DecidableEq, Repr, Inhabited

/-- A thread that waits for re-admission (R289), with the block it prefers. -/
structure ReAdm where
  th  : Thread
  blk : Nat
  deriving DecidableEq, Repr

/-- A live group (R214, R283): field, handler index, ticket, reply path, members left, and whether it has replied. -/
structure Group where
  field  : Nat
  hidx   : Option Nat
  ticket : BitVec 32
  path   : ReplyPath
  left   : Nat
  sent   : Bool
  deriving DecidableEq, Repr, Inhabited

/-! ## Fault units -/

/-- A fault record (R307) before the fault unit completes it. -/
structure FRec where
  cause  : BitVec 8
  fent   : Option Nat := none
  halt   : Bool := false
  route  : Nat := 0
  sub    : Nat := 0
  unit   : BitVec 16
  va     : Word := 0
  pos    : Word := 0
  time   : Word
  ticket : BitVec 32 := 0
  aux    : Word := 0
  deriving DecidableEq, Repr, Inhabited

/-- A fault notice on its way (R87, R309): its flit, and the record that it announces. -/
structure Notice where
  flit : Flit
  what : FRec
  deriving DecidableEq, Repr, Inhabited

/-- What a future entry holds parked (R311): a thread with the slot in which it faulted, an agen node, a transfer, or a fabric command at
its port. -/
inductive FutUnit where
  | thread (th : Thread) (slot : Nat)
  | agen (m : Nat)
  | xfer (id : Nat)
  | cmd (x : Nat)
  deriving DecidableEq, Repr

/-- A future entry in use (R311): pending or resolving, and the generation of its resolution word when it last became
pending. -/
structure FutEnt where
  unit : FutUnit
  va   : Word
  resolving : Bool := false
  gen  : Nat := 0
  deriving DecidableEq, Repr

/-- A rate bucket class (R418): depth, effective rate and cap. -/
structure Bucket where
  depth : Nat := 256
  eff   : Nat := 256
  cap   : Nat := 0
  deriving DecidableEq, Repr, Inhabited

/-- A field: its rotunda (R284), fault unit (R305, R306, R311), sensor and power words (R418). -/
structure Field where
  arr    : List Rec := []
  queues : Tab (List Rec) := []
  lists  : Tab (List ReAdm) := []
  /-- the core reserved for the head of queue q (key q) or list q (key 4 + q) (R286), plus one -/
  resv   : Tab Nat := []
  lastAdmit : Option Nat := none
  fqbase : Word := 0
  fqsize : Nat := 0
  fpbase : Word := 0
  fpcount : Nat := 0
  notices : List Notice := []
  recs   : List FRec := []
  futs   : Tab (Option FutEnt) := []
  temp   : Nat := 0
  fpwr   : Nat := 0
  plim   : Nat := 16000
  bkmem  : Bucket := {}
  bkesc  : Bucket := {}
  /-- campanile times since which waking blocks hold the field's two inrush tokens (R420) -/
  inrush : List Nat := []
  deriving DecidableEq, Repr

/-! ## Transfers -/

/-- How far a transfer has come (R194, R196, R273, R275): queued, past its gate, running, all moved, or ended. -/
inductive XPhase where
  | queued | opened | running | moved | ended
  deriving DecidableEq, Repr, Inhabited

/-- A transfer: its unit and port, its issuer (thread number and slot with its privilege) or its route and region, its
words and parameter block, and its progress in destination bytes. -/
structure Xfer where
  blk    : Nat
  port   : Nat
  uid    : Option (Nat × Nat)
  route  : Nat
  gid    : Option Nat
  w      : List Word
  pb     : List Word
  list   : List Word
  phase  : XPhase := .queued
  pos    : Nat := 0
  xst    : BitVec 8 := 0
  stall  : Option Nat := none
  far    : Far := .idle
  /-- the pieces of its sources that it reads from other devices (R338) -/
  farbuf : FarBuf := []
  /-- a via transfer: source bytes sent, block cycles counted while its route takes no token, and whether its stop has been
  written (R262, R265) -/
  sent   : Nat := 0
  waited : Option Nat := none
  closed : Bool := false
  /-- byte counts of its completion sync word that have not risen yet (R198, R270) -/
  counts : Nat := 0
  /-- the region of a via transfer's route (R265) -/
  vgid   : Option Nat := none
  /-- the address at which it waits for a free future entry (R311) -/
  want   : Option Nat := none
  deriving DecidableEq, Repr, Inhabited

/-- A range-lock entry (R260, R261). -/
structure Lock where
  id    : Nat
  xid   : BitVec 16
  lo    : Nat
  hi    : Nat
  write : Bool
  uid   : Option Nat
  deriving DecidableEq, Repr, Inhabited

/-- Who learns of an update of a sync word when its cycle has ended (R200, R270): a thread or a tile core with the token of its result, a
transfer whose count rises, or another device with its packet's number and its request's tag. -/
inductive SyncWho where
  | thread (g tok : Nat)
  | core (k tok : Nat)
  | xfer (id : Nat)
  | remote (dev : Nat) (esn : BitVec 32) (tag : Nat)
  deriving DecidableEq, Repr, Inhabited

/-- What lands at a sync word in one cycle of its update unit (R270): the cycle, bytes, arrivals, whether the cycle follows an advance
(R271), the operands of a sync.set, who learns of it, and whose the updates are: nobody's so far, one thread's alone, or several agents'
(R121). -/
structure Landed where
  cyc   : Nat := 0
  bytes : Nat := 0
  arrs  : Nat := 0
  carry : Bool := false
  set   : Option (Nat × Nat) := none
  who   : List SyncWho := []
  by_   : Option (Option Nat) := none
  deriving DecidableEq, Repr, Inhabited

/-! ## The fabric -/

/-- A loaded graph, that is a region (R237): request, origin, placement of its tiles, its declaration, done word. -/
structure Graph where
  gaddr  : Word
  origin : Nat
  place  : List Nat
  desc   : GraphDesc
  done   : Word
  args   : List Word
  convs  : List Nat
  mode   : Nat
  live   : Bool
  /-- the region takes no more tokens: it is being unloaded (R410); and its escape threads issue nothing more: they end -/
  cut    : Bool := false
  esc    : Bool := false
  /-- predecessor of a splice (R255) -/
  pred   : Option Nat := none
  /-- the region is faulted by a port that went down or by a retired site (R376, R398) -/
  bad    : Bool := false
  deriving DecidableEq, Repr, Inhabited

/-- An address-generator node at a memory port (R232, R314). `ins` lists the routes into it whose splice marker has not come
(R257). -/
structure Agen where
  gid    : Nat
  ins    : List Nat
  gctx   : Nat
  store  : Bool
  base   : Word
  run    : Nat
  gap    : Word
  count  : Nat
  et     : EType
  route  : Nat
  active : Bool
  n      : Nat
  part   : List (BitVec 32)
  inq    : List Flit
  outq   : List Flit
  arrs   : Nat
  stall  : Option Nat
  halted : Bool
  waited : Option Nat
  tlb    : List TlbEntry
  walked : Option (Nat × Access × WalkErr)
  far    : Far
  /-- the address of element 0 of a token that was partly written when the node became active again (R232), and whether the response
  that it waits for is for a token that it has given up -/
  at_    : Option Word := none
  ignore : Bool := false
  /-- the address at which it waits for a free future entry (R311) -/
  want   : Option Word := none
  /-- an arrival at the done word is on its way to another device (R233, R338) -/
  arrFar : Bool := false
  deriving DecidableEq, Repr, Inhabited

/-- A converter node (R266, R267): configuration, input, the values of the block in hand, output, and the layout handed
over by a via transfer (R262, R268). `ins` lists the routes into it whose splice marker has not come (R257). -/
structure Conv where
  gid    : Nat
  ins    : List Nat
  src    : ConvFrom
  dst    : ConvTo
  planes : Nat
  route  : Nat
  inq    : List Flit
  outq   : List Flit
  vals   : List (BitVec 32)
  blkn   : Nat
  off    : Option Nat
  count  : Nat
  halted : Bool
  waited : Option Nat
  deriving DecidableEq, Repr, Inhabited

/-- An adder element of a Marold port as one pair of routes uses it (R395, R396): the upstream and the local one. -/
structure Adder where
  gid    : Nat
  upr    : Nat
  locr   : Nat
  up     : List Flit
  loc    : List Flit
  halted : Bool
  deriving DecidableEq, Repr, Inhabited

/-- The mesh: link buffers, route-table entries, steer entries and the inboxes of local units, by router. -/
structure Mesh where
  links : Tab (List Flit) := []
  rtab  : Tab (BitVec 32) := []
  steer : Tab (List Word) := []
  /-- the graph of each route-table entry, plus one (R237) -/
  owner : Tab Nat := []
  deriving DecidableEq, Repr, Inhabited

/-! ## Marold ports and packets -/

/-- A frame as a port handles it after its checks (R387): type, packet position, addresses and body; and the kind of its packet's flits,
which the body of a sealed job's frame does not show (R415). -/
structure Frame where
  ftype : BitVec 2
  last  : Bool
  fidx  : BitVec 2
  sname : BitVec 16
  esn   : BitVec 32
  ddev  : BitVec 10
  sdev  : BitVec 10
  body  : BitVec 320
  kind  : Nat := 0
  deriving DecidableEq, Repr, Inhabited

/-- How a port stands (R390): up, down, down and training, or retraining its lanes. -/
inductive PortRun where
  | up | down | training
  | retraining (since : Nat)
  deriving DecidableEq, Repr, Inhabited

/-- A Marold port (R386 to R390). -/
structure MPort where
  run     : PortRun := .down
  lanes   : BitVec 16 := 0
  txSeq   : BitVec 16 := 0
  rxSeq   : BitVec 16 := 0
  replay  : List (BitVec 16 × Frame) := []
  resends : Nat := 0
  credit  : List Nat := [64, 64, 64, 64]
  freed   : List Nat := [0, 0, 0, 0]
  waitq   : List Frame := []
  rxbuf   : List Frame := []
  /-- whether a retry request has been sent for the frame now expected, and the peer's request to resend -/
  asked   : Bool := false
  reqd    : Option (BitVec 16) := none
  discards : Nat := 0
  frames  : Nat := 0
  lastGood : Nat := 0
  lastIdle : Nat := 0
  downAt  : Nat := 0
  peer    : BitVec 10 := 0
  /-- the peer's ctime in its last idle frame, and when that came (R399) -/
  peerTime : Word := 0
  peerAt  : Option Nat := none
  /-- the tokens of the port's bucket, and those that flits of a packet which has not entered whole have taken (R419) -/
  tokens  : Nat := 256
  paid    : Nat := 0
  /-- when the port last began to have frames outstanding (R390) -/
  since   : Nat := 0
  /-- the arrived frames of packets whose last frame has not come -/
  parts   : List Frame := []
  /-- forwarded frames of packets that are answered, which the peer has taken and whose answer has not passed (R397) -/
  kept    : List Frame := []
  /-- the port stays down for the rest of the job (R415) -/
  barred  : Bool := false
  /-- frames put on the link, newest first -/
  out     : List (BitVec 512) := []
  deriving DecidableEq, Repr, Inhabited

/-- What an unanswered packet carries (R392). -/
inductive PKind where
  | inv (id : Nat)
  | reply (data : BitVec 256) (sname : BitVec 16) (f : Nat) (unit : BitVec 16)
  | mem (g tok : Nat)
  | store (g : Nat)
  | fetch (g va : Nat)
  | image (g tok i : Nat)
  | poll (g : Nat)
  | part (g dev pa : Nat)
  | cmd (x dev pa : Nat)
  | xfer (id : Nat)
  | xpart (id dev pa : Nat)
  | agen (m : Nat)
  | comp (blk tile : Nat) (ident : Word)
  | dev (dev pa : Nat)
  | count (id : Nat)
  | done (m : Nat)
  | fut (f k : Nat)
  | mail (core : Nat) (data : BitVec 256) (src : Option (Nat × BitVec 32 × Nat))
  | hostw (port : Nat)
  | note
  deriving DecidableEq, Repr, Inhabited

/-- An unanswered packet (R392); a held one waits because its destination has 4,096 unanswered already. A memory request keeps
its completion tag, and whether its response has come (R89, R393). -/
structure Unans where
  held  : Bool := false
  tag   : Nat := 0
  got   : Bool := false
  esn   : BitVec 32
  dest  : Nat
  port  : Nat
  kind  : PKind
  frames : List Frame
  deriving DecidableEq, Repr, Inhabited

/-- One of the two requests of another device that reach both halves of an aligned 64-byte line as one event (R407): its sender, number and
tag, and what it asks for. -/
structure Half where
  dev  : Nat
  esn  : BitVec 32
  tag  : Nat
  addr : Nat
  n    : Nat
  form : Nat
  data : BitVec 256
  deriving DecidableEq, Repr, Inhabited

/-- A ctx.save or ctx.load whose image lies in another device's memory (R225, R338): the issuer, the token of its result,
the slot, the 32-byte pieces of the image that have been performed, and the completions that stand in an image that is saved. -/
structure ImgJob where
  g    : Nat
  tok  : Nat
  save : Bool
  slot : Nat
  got  : List (Option (BitVec 256))
  comps : Nat := 0
  deriving DecidableEq, Repr, Inhabited

/-- How an invocation attempt stands (R208): sent at an instant, or refused and due again at one. -/
inductive InvRun where
  | sent (at_ : Nat)
  | backoff (until_ : Nat)
  deriving DecidableEq, Repr, Inhabited

/-- An invocation whose status is not yet known (R207, R208). -/
structure Inv where
  id    : Nat
  g     : Nat
  tok   : Nat
  form  : Nat
  desc  : Word
  data  : BitVec 512
  sv    : Bool
  core  : Nat
  tries : Nat
  run   : InvRun
  deriving DecidableEq, Repr, Inhabited

/-- A reply on its way (R212): to a core of this device or to another device's core; when refused as mailbox full, the
instant from which it is resent. A reply of this device keeps the field and unit of its group (R398). -/
structure ReplyMsg where
  core  : Nat
  data  : BitVec 256
  src   : Option (Nat × BitVec 32 × Nat)
  to_   : Option (Nat × BitVec 16)
  again : Option Nat
  from_ : Nat × BitVec 16 := (0, 0)
  deriving DecidableEq, Repr, Inhabited

/-! ## Host ports and the belvedere -/

/-- A host port (R400 to R407): the keys of its link and its selective IDE stream while they are active, and the uncorrectable error
status of its AER capability. -/
structure HostPort where
  w2base : BitVec 16 := 0
  herr   : BitVec 5 := 0
  linkIde : Option (BitVec 256) := none
  selIde : Option (BitVec 256) := none
  aer    : BitVec 32 := 0
  req    : Tab Byte := []
  /-- MSI-X table words that differ from their reset value, pending vectors, and messages sent -/
  msix   : Tab Word := []
  pendv  : List Nat := []
  sentv  : List Nat := []
  /-- the last BAR 2 read's answer: data, or none for Completer Abort -/
  rdata  : Option (Option (List Byte)) := none
  /-- the tokens of the port's bucket, and those that flits of an access which has not entered whole have taken (R419) -/
  tokens : Nat := 256
  paid   : Nat := 0
  deriving DecidableEq, Repr, Inhabited

/-- Whether an IDE stream of the port is active (R402). -/
def HostPort.ide (h : HostPort) : Bool := h.linkIde.isSome || h.selIde.isSome

/-- A queue table entry and its rings (R403 to R405). -/
structure QEnt where
  en    : Bool := false
  /-- the entry has been reset with its port's link, and has not been enabled since: its replies wait (R421) -/
  cut   : Bool := false
  port  : Bool := false
  field : Nat := 0
  vec   : Nat := 0
  sbase : Word := 0
  scap  : Nat := 0
  rbase : Nat := 0
  rcap  : Nat := 0
  rtail : Nat := 0
  rhead : Word := 0
  refused : Nat := 0
  /-- records appended, records drawn, replies written -/
  app   : Nat := 0
  drawn : Nat := 0
  wrote : Nat := 0
  deriving DecidableEq, Repr, Inhabited

/-- A reply that waits for its host ring (R405). -/
structure HostReply where
  q    : Nat
  data : BitVec 256
  next : Nat
  /-- it has found its ring full -/
  full : Bool := false
  deriving DecidableEq, Repr, Inhabited

/-- A queued belvedere command (R408): its kind, its address, the host port that posted it or none for a register page, and the
translated place of its request, or none for the request block. -/
structure BCmd where
  kind : BitVec 4
  addr : Nat
  host : Option Nat
  at_  : Option Phys
  deriving DecidableEq, Repr, Inhabited

/-- The device-wide registers, the belvedere's state, engines' tables and everything in flight between units. -/
structure Dev where
  phase  : BitVec 4 := 0
  set    : Bool := false
  devnum : Nat := 0
  routes : Tab (BitVec 32) := []
  job    : Bool := false
  sealed : Bool := false
  ptroot : Word := 0
  tvec   : Word := 0
  wtbase : Word := 0
  wlog   : Nat := 0
  htbase : Word := 0
  bklink : Bucket := {}
  bkhost : Bucket := {}
  mpwr   : Nat := 0
  lastSlew : Nat := 0
  /-- when the buckets were last refilled, and their rates last adjusted (R419) -/
  lastFill : Nat := 0
  lastEff  : Nat := 0
  /-- the graph that the belvedere is loading or unloading (R236, R410) -/
  loading : Option Nat := none
  unloading : Option Nat := none
  mfw    : BitVec 512 := 0
  mimg   : BitVec 512 := 0
  /-- verified images: virtual base, body length, and frames as an address, a length and whether their lines are spread (R299); an
  image leaves the list when it is written -/
  images : List (Nat × Nat × List (Nat × Nat × Bool)) := []
  imgs   : Nat := 0
  signer : List Byte := []
  jobKey : Option (List Byte) := none
  marKey : Option (List Byte) := none
  ephem  : Option (List Byte) := none
  report : List Byte := []
  bq     : List BCmd := []
  /-- when the last command came, and its rank: port 0, port 1, a register page (R409) -/
  cmdLast : Option (Nat × Nat) := none
  /-- pieces of other devices' memory that the belvedere, a host port or a rotunda reads (R338) -/
  far    : FarBuf := []
  groups : Tab (Option Group) := []
  xfers  : Tab (Option Xfer) := []
  locks  : List Lock := []
  /-- the last registration's place in the device's order: campanile time, block, block cycle and port (R260) -/
  lockLast : Nat × Nat × Nat × Nat := (0, 0, 0, 0)
  syncq  : Tab Landed := []
  /-- responses to sync forms of other devices, which go out next: device, packet number, tag and value (R338) -/
  sresp  : List (Nat × BitVec 32 × Nat × Nat) := []
  /-- writes to other devices' memory that go out next: device, address and at most 32 bytes (R409) -/
  outw   : List (Nat × Nat × List Byte) := []
  /-- halves of lines that other devices have asked for, whose other halves have not come (R407) -/
  halves : List Half := []
  invs   : List Inv := []
  /-- the mailboxes at which replies have been written or refused: the header's address, and where it lies (R212) -/
  mails  : List (Word × Nat) := []
  replies : List ReplyMsg := []
  hreps  : List HostReply := []
  /-- packets sent to each device so far; the k-th takes esn k mod (2^32 - 1) + 1, counting k from 0 (R392) -/
  esn    : Tab Nat := []
  /-- the packets that each device is known to have sent to each: key 1024 × source + destination (R415) -/
  seen   : Tab Nat := []
  unans  : List Unans := []
  answers : List (Nat × BitVec 32 × BitVec 8) := []
  imgjobs : List ImgJob := []
  /-- stack indexes of threads that were saved with the free bit and not loaded yet (R383) -/
  away : List Nat := []
  queues : Tab QEnt := []
  /-- queues whose records lie in spill rings, in the order of appending -/
  spills : List Nat := []
  hosts  : Tab HostPort := []
  links  : Tab MPort := []
  graphs : Tab (Option Graph) := []
  agens  : Tab (Option Agen) := []
  convs  : Tab (Option Conv) := []
  adders : Tab (List Adder) := []
  /-- tokens of the memory ports' and escape re-entry buckets, as the number spent (R419) -/
  spentm : Tab Nat := []
  spente : Tab Nat := []
  deriving DecidableEq, Repr

/-! ## The machine -/

/-- What became of the bundle in hand: it issued, it waits at issue, or it gave way to a trap, a future, an abort or a
halt and has changed nothing of its own. -/
inductive Fate where
  | issued | waiting | taken
  deriving DecidableEq, Repr, Inhabited

/-- The bundle in hand: its word, lookahead, the registers before it issued once slot A has run (R18), the target of a
taken transfer, its fate, and whether it reports a recorded failure. -/
structure Issue where
  word : Word := 0
  la   : Nat := 0
  view : Option Ctx := none
  npc  : Option Word := none
  fate : Fate := .issued
  /-- the bundle reports a failure that the thread has recorded (R134) -/
  report : Bool := false
  deriving DecidableEq, Repr

/-- The whole machine. -/
structure State where
  mem     : List Host.Cell
  threads : Tab Thread
  tcores  : Tab TCore
  tiles   : Tab Tile
  cores   : Tab Core
  blks    : Tab Blk
  fields  : Tab Field
  mesh    : Mesh
  dev     : Dev
  /-- the campanile root's count in ns (R380) -/
  ns      : Nat
  /-- the unit whose bundle is in hand, and the bundle -/
  cur     : UnitRef
  iss     : Issue
  /-- moves that are fixed already, before the schedule's free choices -/
  agenda  : List Move
  /-- free choices made so far -/
  tick    : Nat
  /-- numbers handed out so far to threads, groups, transfers and tokens -/
  fresh   : Nat
  deriving DecidableEq, Repr

/-- Why the machine stops with a fault: it never does. What the SD4 reports is a trap, a fault record, a status or a result of
the machine's own, and after a thermal shutdown or a failed bring-up it goes on answering its hosts (R402, R417, R421). -/
inductive Fault where
  deriving DecidableEq, Repr

/-- Why the machine has no meaning for a step. -/
inductive Refusal where
  /-- The instruction has no meaning in this model yet. Raised by exec's arms alone. Safe. -/
  | notModelled (mnemonic : String)
  deriving DecidableEq, Repr

/-- The machine right after reset (R402, R421): phase 0, before the first step of bring-up, no job, no thread, no graph, memory with nothing
listed, every register at the value the spec states or the log names. -/
def State.reset : State :=
  { mem := [], threads := [], tcores := [], tiles := [], cores := [], blks := [], fields := [], mesh := {}, dev := {},
    ns := 0, cur := .thread 0, iss := {}, agenda := [], tick := 0, fresh := 0 }

end Sys2Proof.Machine
end

