-- ==== Sys2Proof/Machine/Bytes.lean ====
section
/-!
DEFINITION. Bytes, bit fields and sign extension: little-endian words (R69, R100), the bytes of memory by physical address
(R298), and the accessors of the tables of State.
-/
namespace Sys2Proof.Machine

/-- What a step answers. -/
abbrev Out := Host.Outcome State Fault Refusal

/-! ## Numbers, bits and bytes -/

/-- Bits `lo` to `lo + n - 1` of a number. -/
def bitsN (x lo n : Nat) : Nat := x / 2 ^ lo % 2 ^ n

/-- Bits `lo` to `lo + n - 1` of a word, as a number. -/
def bits (x : Word) (lo n : Nat) : Nat := bitsN x.toNat lo n

/-- Bit `k` of a word. -/
def bit (x : Word) (k : Nat) : Bool := x.getLsbD k

/-- The low `n` bits of a word, sign-extended (R100). -/
def sextW (x : Word) (n : Nat) : Word := (x.setWidth n).signExtend 64

/-- The low `n` bits of a word, zero-extended (R100). -/
def zextW (x : Word) (n : Nat) : Word := (x.setWidth n).setWidth 64

/-- A number as a word. -/
def wd (n : Nat) : Word := BitVec.ofNat 64 n

/-- The little-endian bytes of a number. -/
def leBytes : Nat → Nat → List Byte
  | 0, _ => []
  | n + 1, x => BitVec.ofNat 8 x :: leBytes n (x / 256)

/-- The number of a little-endian byte string. -/
def leNat : List Byte → Nat
  | [] => 0
  | b :: l => b.toNat + 256 * leNat l

/-- The number in bytes `off` to `off + n - 1` of a byte string. -/
def leAt (l : List Byte) (off n : Nat) : Nat := leNat ((l.drop off).take n)

/-! ## Memory -/

/-- What an address that nothing has written reads as: 0 (the spec gives memory no reset contents, log 1). -/
def Memory.fill : Byte := 0

/-- The canonical form of memory: addresses strictly rising, and no entry equal to what an unlisted address reads as. -/
def Memory.wf (m : List Host.Cell) : Bool := Tab.wf Memory.fill m

/-- The byte at a physical address. -/
def Memory.byte (m : List Host.Cell) (a : Nat) : Byte := Tab.get Memory.fill m a

/-- Writes one byte. -/
def Memory.setByte (m : List Host.Cell) (a : Nat) (b : Byte) : List Host.Cell := Tab.set Memory.fill m a b

/-- The `n` bytes from a physical address. -/
def Memory.read (m : List Host.Cell) : Nat → Nat → List Byte
  | _, 0 => []
  | a, n + 1 => Memory.byte m a :: Memory.read m (a + 1) n

/-- Writes bytes from a physical address on. -/
def Memory.write : List Host.Cell → Nat → List Byte → List Host.Cell
  | m, _, [] => m
  | m, a, b :: l => Memory.write (Memory.setByte m a b) (a + 1) l

/-- The `n` bytes from a physical address, as a little-endian number. -/
def State.peek (s : State) (a n : Nat) : Nat := leNat (Memory.read s.mem a n)

/-- Stores bytes with no other effect. -/
def State.poke (s : State) (a : Nat) (l : List Byte) : State := { s with mem := Memory.write s.mem a l }

/-- Stores an `n`-byte number with no other effect. -/
def State.pokeN (s : State) (a n x : Nat) : State := s.poke a (leBytes n x)

/-! ## Names (R7, R25, R383) -/

/-- The block of a thread slot or of a compute core: both number 128 to a block. -/
def unitBlk (n : Nat) : Nat := n / 128
/-- The field of a thread slot or of a compute core. -/
def unitField (n : Nat) : Nat := n / 1024
/-- The core of a thread slot. -/
def threadCore (g : Nat) : Nat := g / 8
/-- The tile of a compute core. -/
def coreTile (k : Nat) : Nat := k / 4

/-- cname of swarm core `c`, and of tile `t` (R25). -/
def coreName (c : Nat) : Nat := c / 128 * 4096 + c / 16 % 8 * 256 + 128 + c % 16
def tileName (t : Nat) : Nat := t / 256 * 4096 + t / 32 % 8 * 256 + t % 32

/-- The unit field of a fault record (R307, R308). -/
def recUnit (blk cls idx : Nat) : BitVec 16 := BitVec.ofNat 16 (blk / 8 * 4096 + blk % 8 * 256 + cls * 32 + idx)

/-! ## Accessors of the tables -/

def State.thread (s : State) (g : Nat) : Thread := Tab.get {} s.threads g
def State.setThread (s : State) (g : Nat) (t : Thread) : State := { s with threads := Tab.set {} s.threads g t }
def State.modThread (s : State) (g : Nat) (f : Thread → Thread) : State := s.setThread g (f (s.thread g))

def State.tcore (s : State) (k : Nat) : TCore := Tab.get {} s.tcores k
def State.setTcore (s : State) (k : Nat) (c : TCore) : State := { s with tcores := Tab.set {} s.tcores k c }
def State.modTcore (s : State) (k : Nat) (f : TCore → TCore) : State := s.setTcore k (f (s.tcore k))

def State.tile (s : State) (t : Nat) : Tile := Tab.get {} s.tiles t
def State.setTile (s : State) (t : Nat) (x : Tile) : State := { s with tiles := Tab.set {} s.tiles t x }
def State.modTile (s : State) (t : Nat) (f : Tile → Tile) : State := s.setTile t (f (s.tile t))

def State.core (s : State) (c : Nat) : Core := Tab.get {} s.cores c
def State.setCore (s : State) (c : Nat) (x : Core) : State := { s with cores := Tab.set {} s.cores c x }
def State.modCore (s : State) (c : Nat) (f : Core → Core) : State := s.setCore c (f (s.core c))

def State.blk (s : State) (b : Nat) : Blk := Tab.get {} s.blks b
def State.setBlk (s : State) (b : Nat) (x : Blk) : State := { s with blks := Tab.set {} s.blks b x }
def State.modBlk (s : State) (b : Nat) (f : Blk → Blk) : State := s.setBlk b (f (s.blk b))

def State.field (s : State) (f : Nat) : Field := Tab.get {} s.fields f
def State.setField (s : State) (f : Nat) (x : Field) : State := { s with fields := Tab.set {} s.fields f x }
def State.modField (s : State) (f : Nat) (h : Field → Field) : State := s.setField f (h (s.field f))

def State.modDev (s : State) (f : Dev → Dev) : State := { s with dev := f s.dev }

/-- The thread that a future entry holds. -/
def FutEnt.holder (e : FutEnt) : Option Thread :=
  match e.unit with
  | .thread th _ => some th
  | .agen _ | .xfer _ | .cmd _ => none

def State.xfer (s : State) (i : Nat) : Option Xfer := Tab.get none s.dev.xfers i
def State.setXfer (s : State) (i : Nat) (x : Option Xfer) : State :=
  s.modDev fun d => { d with xfers := Tab.set none d.xfers i x }
def State.modXfer (s : State) (i : Nat) (f : Xfer → Xfer) : State :=
  match s.xfer i with
  | some x => s.setXfer i (some (f x))
  | none => s

def State.group (s : State) (i : Nat) : Option Group := Tab.get none s.dev.groups i
def State.setGroup (s : State) (i : Nat) (x : Option Group) : State :=
  s.modDev fun d => { d with groups := Tab.set none d.groups i x }

def State.graph (s : State) (i : Nat) : Option Graph := Tab.get none s.dev.graphs i
def State.setGraph (s : State) (i : Nat) (x : Option Graph) : State :=
  s.modDev fun d => { d with graphs := Tab.set none d.graphs i x }

def State.agen (s : State) (m : Nat) : Option Agen := Tab.get none s.dev.agens m
def State.setAgen (s : State) (m : Nat) (x : Option Agen) : State :=
  s.modDev fun d => { d with agens := Tab.set none d.agens m x }
def State.modAgen (s : State) (m : Nat) (f : Agen → Agen) : State :=
  match s.agen m with
  | some x => s.setAgen m (some (f x))
  | none => s

def State.conv (s : State) (c : Nat) : Option Conv := Tab.get none s.dev.convs c
def State.setConv (s : State) (c : Nat) (x : Option Conv) : State :=
  s.modDev fun d => { d with convs := Tab.set none d.convs c x }
def State.modConv (s : State) (c : Nat) (f : Conv → Conv) : State :=
  match s.conv c with
  | some x => s.setConv c (some (f x))
  | none => s

def State.adders (s : State) (p : Nat) : List Adder := Tab.get [] s.dev.adders p
/-- The pair of routes of a Marold port's adder that has a token from either side. -/
def Adder.ready (a : Adder) : Bool := !a.halted && !a.up.isEmpty && !a.loc.isEmpty
def State.adder (s : State) (p : Nat) : Option Adder := (s.adders p).find? Adder.ready
def State.setAdder (s : State) (p : Nat) (a b : Adder) : State :=
  s.modDev fun d => { d with adders := Tab.upd [] d.adders p fun l => l.replace a b }

def State.port (s : State) (p : Nat) : MPort := Tab.get {} s.dev.links p
def State.setPort (s : State) (p : Nat) (x : MPort) : State :=
  s.modDev fun d => { d with links := Tab.set {} d.links p x }
def State.modPort (s : State) (p : Nat) (f : MPort → MPort) : State := s.setPort p (f (s.port p))

def State.hostPort (s : State) (p : Nat) : HostPort := Tab.get {} s.dev.hosts p
def State.modHostPort (s : State) (p : Nat) (f : HostPort → HostPort) : State :=
  s.modDev fun d => { d with hosts := Tab.set {} d.hosts p (f (Tab.get {} d.hosts p)) }

def State.queue (s : State) (q : Nat) : QEnt := Tab.get {} s.dev.queues q
def State.modQueue (s : State) (q : Nat) (f : QEnt → QEnt) : State :=
  s.modDev fun d => { d with queues := Tab.set {} d.queues q (f (Tab.get {} d.queues q)) }

def XPort.get (b : Blk) (p : Nat) : XPort := Tab.get {} b.ports p
def State.xport (s : State) (x : Nat) : XPort := XPort.get (s.blk (x / 4)) (x % 4)
def State.modXport (s : State) (x : Nat) (f : XPort → XPort) : State :=
  s.modBlk (x / 4) fun b => { b with ports := Tab.set {} b.ports (x % 4) (f (XPort.get b (x % 4))) }

/-- Hands out a number. -/
def State.next (s : State) : State := { s with fresh := s.fresh + 1 }

/-! ## Time (R25, R26, R380) -/

/-- ctime as a unit of block `b` reads it. -/
def State.ctime (s : State) (b : Nat) : Word := wd (s.ns - (s.blk b).lag)

/-- ccyc of block `b`. -/
def State.ccyc (s : State) (b : Nat) : Word := wd (s.blk b).cyc

end Sys2Proof.Machine
end

