-- ==== Sys2Proof/Machine/Crypto.lean ====
section
/-!
DEFINITION. The ciphers that the belvedere and the Marold ports use: SHAKE256 (FIPS 202), Ed448 (RFC 8032), X448 (RFC 7748)
and AES-256-GCM (R411 to R415), and the CRC-32C of frames (R387).
-/
namespace Sys2Proof.Machine

/-! ## SHAKE256 -/

def keccakRC : List Nat :=
  [0x1, 0x8082, 0x800000000000808a, 0x8000000080008000, 0x808b, 0x80000001, 0x8000000080008081, 0x8000000000008009, 0x8a, 0x88, 0x80008009, 0x8000000a, 0x8000808b, 0x800000000000008b, 0x8000000000008089, 0x8000000000008003, 0x8000000000008002, 0x8000000000000080, 0x800a, 0x800000008000000a, 0x8000000080008081, 0x8000000000008080, 0x80000001, 0x8000000080008008]

def keccakRot : List Nat := [0, 1, 62, 28, 27, 36, 44, 6, 55, 20, 3, 10, 43, 25, 39, 41, 45, 15, 21, 8, 18, 2, 61, 56, 14]

/-- One lane of a Keccak state, lanes in the order x + 5y. -/
def kLane (a : List (BitVec 64)) (x y : Nat) : BitVec 64 := a.getD (x % 5 + 5 * (y % 5)) 0

/-- One round of Keccak-f[1600]. -/
def keccakRound (a : List (BitVec 64)) (rc : Nat) : List (BitVec 64) :=
  let c := (List.range 5).map fun x => kLane a x 0 ^^^ kLane a x 1 ^^^ kLane a x 2 ^^^ kLane a x 3 ^^^ kLane a x 4
  let d := (List.range 5).map fun x => c.getD ((x + 4) % 5) 0 ^^^ (c.getD ((x + 1) % 5) 0).rotateLeft 1
  let a1 := (List.range 25).map fun i => (a.getD i 0 ^^^ d.getD (i % 5) 0).rotateLeft (keccakRot.getD i 0)
  let b := (List.range 25).map fun i =>
    let x := i % 5
    let y := i / 5
    kLane a1 (x + 3 * y) x
  (List.range 25).map fun i =>
    let x := i % 5
    let y := i / 5
    let v := kLane b x y ^^^ ((~~~ kLane b (x + 1) y) &&& kLane b (x + 2) y)
    if i = 0 then v ^^^ BitVec.ofNat 64 rc else v

def keccakF (a : List (BitVec 64)) : List (BitVec 64) := keccakRC.foldl keccakRound a

/-- XORs a block of 136 bytes into the state. -/
def absorb (a : List (BitVec 64)) (blk : List Byte) : List (BitVec 64) :=
  (List.range 25).map fun i => a.getD i 0 ^^^ BitVec.ofNat 64 (leAt blk (8 * i) 8)

/-- Absorbs padded blocks. -/
def absorbAll : Nat → List Byte → List (BitVec 64) → List (BitVec 64)
  | 0, _, a => a
  | n + 1, l, a => absorbAll n (l.drop 136) (keccakF (absorb a (l.take 136)))

/-- Squeezes blocks of 136 bytes. -/
def squeeze : Nat → List (BitVec 64) → List Byte
  | 0, _ => []
  | n + 1, a => ((a.take 17).flatMap fun w => leBytes 8 w.toNat) ++ squeeze n (keccakF a)

/-- SHAKE256 with an output of `n` bytes. -/
def shake256 (l : List Byte) (n : Nat) : List Byte :=
  let k := l.length / 136 + 1
  let pad := k * 136 - l.length
  let m := if pad = 1 then l ++ [0x9F#8] else l ++ 0x1F#8 :: (List.replicate (pad - 2) 0 ++ [0x80#8])
  (squeeze ((n + 135) / 136) (absorbAll k m (List.replicate 25 0))).take n

/-! ## Arithmetic modulo p = 2^448 - 2^224 - 1 -/

def p448 : Nat := 2 ^ 448 - 2 ^ 224 - 1

/-- Modular power by squaring, over `n` bits of the exponent. -/
def powMod (m : Nat) : Nat → Nat → Nat → Nat
  | 0, _, _ => 1
  | n + 1, b, e => (if e % 2 = 1 then b else 1) * powMod m n (b * b % m) (e / 2) % m

def fSub (a b : Nat) : Nat := (a + p448 - b % p448) % p448
def fInv (a : Nat) : Nat := powMod p448 448 (a % p448) (p448 - 2)

/-! ## Ed448 -/

def ed448L : Nat := 2 ^ 446 - 13818066809895115352007386748515426880336692474882178609894547503885
def ed448D : Nat := p448 - 39081
def ed448B : Nat × Nat × Nat :=
  (224580040295924300187604334099896036246789641632564134246125461686950415467406032909029192869357953282578032075146446173674602635247710,
   298819210078481492676017930443930673437544040154080242095928241372331506189835876003536878655418784733982303233503462500531545062832660, 1)

/-- Addition of points in projective coordinates (RFC 8032, 5.2.4). -/
def edAdd (p q : Nat × Nat × Nat) : Nat × Nat × Nat :=
  let a := p.2.2 * q.2.2 % p448
  let b := a * a % p448
  let c := p.1 * q.1 % p448
  let d := p.2.1 * q.2.1 % p448
  let e := ed448D * (c * d % p448) % p448
  let f := fSub b e
  let g := (b + e) % p448
  let h := (p.1 + p.2.1) * (q.1 + q.2.1) % p448
  (a * f % p448 * fSub (fSub h c) d % p448, a * g % p448 * fSub d c % p448, f * g % p448)

/-- Scalar multiplication over `n` bits. -/
def edMul : Nat → Nat → Nat × Nat × Nat → Nat × Nat × Nat
  | 0, _, _ => (0, 1, 1)
  | n + 1, k, p =>
    let r := edMul n (k / 2) (edAdd p p)
    if k % 2 = 1 then edAdd p r else r

def edEq (p q : Nat × Nat × Nat) : Bool :=
  p.1 * q.2.2 % p448 == q.1 * p.2.2 % p448 && p.2.1 * q.2.2 % p448 == q.2.1 * p.2.2 % p448

/-- A point's 57 bytes. -/
def edEncode (p : Nat × Nat × Nat) : List Byte :=
  let zi := fInv p.2.2
  let x := p.1 * zi % p448
  let y := p.2.1 * zi % p448
  leBytes 57 (y + x % 2 * 2 ^ 455)

/-- The point of 57 bytes, if they encode one. -/
def edDecode (l : List Byte) : Option (Nat × Nat × Nat) :=
  let n := leNat (l.take 57)
  let y := n % 2 ^ 455
  let sgn := n / 2 ^ 455
  if y ≥ p448 then none
  else
    let u := fSub (y * y) 1
    let v := fSub (ed448D * (y * y % p448)) 1
    let x := powMod p448 448 u 3 * v % p448 *
      powMod p448 448 (powMod p448 448 u 5 * powMod p448 448 v 3 % p448) ((p448 - 3) / 4) % p448
    if v * (x * x % p448) % p448 = u then
      if x = 0 ∧ sgn = 1 then none
      else some (if x % 2 = sgn then x else p448 - x, y, 1)
    else none

/-- The prefix dom4 for an empty context. -/
def dom4 : List Byte := [0x53#8, 0x69#8, 0x67#8, 0x45#8, 0x64#8, 0x34#8, 0x34#8, 0x38#8, 0#8, 0#8]

/-- The secret scalar and the prefix of a private key. -/
def edSecret (sk : List Byte) : Nat × List Byte :=
  let h := shake256 (sk.take 57) 114
  let s := leNat (h.take 56)
  (s / 4 * 4 % 2 ^ 447 + 2 ^ 447, h.drop 57)

def edPublic (sk : List Byte) : List Byte := edEncode (edMul 448 (edSecret sk).1 ed448B)

/-- Ed448 signature of 114 bytes, with an empty context. -/
def edSign (sk msg : List Byte) : List Byte :=
  let s := edSecret sk
  let a := edPublic sk
  let r := leNat (shake256 (dom4 ++ s.2 ++ msg) 114) % ed448L
  let rb := edEncode (edMul 448 r ed448B)
  let k := leNat (shake256 (dom4 ++ rb ++ a ++ msg) 114) % ed448L
  rb ++ leBytes 57 ((r + k * s.1) % ed448L)

/-- Ed448 verification (RFC 8032, 5.2.7). -/
def edVerify (pk msg sig : List Byte) : Bool :=
  let rb := sig.take 57
  let s := leNat ((sig.drop 57).take 57)
  match edDecode (pk.take 57), edDecode rb with
  | some a, some r =>
    let k := leNat (shake256 (dom4 ++ rb ++ pk.take 57 ++ msg) 114) % ed448L
    decide (s < ed448L) && edEq (edMul 3 4 (edMul 448 s ed448B)) (edMul 3 4 (edAdd r (edMul 448 k a)))
  | _, _ => false

/-! ## X448 -/

/-- The Montgomery ladder (RFC 7748), over the bits of the scalar from bit `n - 1` down. -/
def ladder (x1 k : Nat) : Nat → Nat × Nat × Nat × Nat → Nat × Nat × Nat × Nat
  | 0, st => st
  | n + 1, (x2, z2, x3, z3) =>
    let b := k / 2 ^ n % 2
    let (x2, z2, x3, z3) := if b = 1 then (x3, z3, x2, z2) else (x2, z2, x3, z3)
    let a := (x2 + z2) % p448
    let aa := a * a % p448
    let c := fSub x2 z2
    let bb := c * c % p448
    let e := fSub aa bb
    let da := fSub x3 z3 * a % p448
    let cb := (x3 + z3) * c % p448
    let x3' := (da + cb) * (da + cb) % p448
    let z3' := x1 * (fSub da cb * fSub da cb % p448) % p448
    let x2' := aa * bb % p448
    let z2' := e * ((aa + 39081 * e) % p448) % p448
    ladder x1 k n (if b = 1 then (x3', z3', x2', z2') else (x2', z2', x3', z3'))

/-- X448 of a private key and a public u coordinate, 56 bytes each. -/
def x448 (sk u : List Byte) : List Byte :=
  let k := leNat (sk.take 56) / 4 * 4 % 2 ^ 447 + 2 ^ 447
  let x1 := leNat (u.take 56) % p448
  let r := ladder x1 k 448 (1, 0, x1, 1)
  leBytes 56 (r.1 * fInv r.2.1 % p448)

/-- The public key of a private key. -/
def x448Public (sk : List Byte) : List Byte := x448 sk (leBytes 56 5)

/-! ## AES-256-GCM -/

def aesSbox : List Nat :=
  [99, 124, 119, 123, 242, 107, 111, 197, 48, 1, 103, 43, 254, 215, 171, 118, 202, 130, 201, 125, 250, 89, 71, 240, 173, 212, 162, 175, 156, 164, 114, 192] ++
  [183, 253, 147, 38, 54, 63, 247, 204, 52, 165, 229, 241, 113, 216, 49, 21, 4, 199, 35, 195, 24, 150, 5, 154, 7, 18, 128, 226, 235, 39, 178, 117] ++
  [9, 131, 44, 26, 27, 110, 90, 160, 82, 59, 214, 179, 41, 227, 47, 132, 83, 209, 0, 237, 32, 252, 177, 91, 106, 203, 190, 57, 74, 76, 88, 207] ++
  [208, 239, 170, 251, 67, 77, 51, 133, 69, 249, 2, 127, 80, 60, 159, 168, 81, 163, 64, 143, 146, 157, 56, 245, 188, 182, 218, 33, 16, 255, 243, 210] ++
  [205, 12, 19, 236, 95, 151, 68, 23, 196, 167, 126, 61, 100, 93, 25, 115, 96, 129, 79, 220, 34, 42, 144, 136, 70, 238, 184, 20, 222, 94, 11, 219] ++
  [224, 50, 58, 10, 73, 6, 36, 92, 194, 211, 172, 98, 145, 149, 228, 121, 231, 200, 55, 109, 141, 213, 78, 169, 108, 86, 244, 234, 101, 122, 174, 8] ++
  [186, 120, 37, 46, 28, 166, 180, 198, 232, 221, 116, 31, 75, 189, 139, 138, 112, 62, 181, 102, 72, 3, 246, 14, 97, 53, 87, 185, 134, 193, 29, 158] ++
  [225, 248, 152, 17, 105, 217, 142, 148, 155, 30, 135, 233, 206, 85, 40, 223, 140, 161, 137, 13, 191, 230, 66, 104, 65, 153, 45, 15, 176, 84, 187, 22]

def sub8 (x : Nat) : Nat := aesSbox.getD x 0
def xtime (x : Nat) : Nat := (if x ≥ 128 then (2 * x) ^^^ 0x11B else 2 * x)

/-- The words of the expanded key, 4 bytes each, from the eight of the key: `n` more words. -/
def aesExpand : Nat → Nat → List (List Nat) → List (List Nat)
  | 0, _, ws => ws
  | n + 1, i, ws =>
    let t := ws.getD (i - 1) []
    let old := ws.getD (i - 8) []
    let t' :=
      if i % 8 = 0 then
        let r := [sub8 (t.getD 1 0), sub8 (t.getD 2 0), sub8 (t.getD 3 0), sub8 (t.getD 0 0)]
        [r.getD 0 0 ^^^ 2 ^ (i / 8 - 1), r.getD 1 0, r.getD 2 0, r.getD 3 0]
      else if i % 8 = 4 then t.map sub8 else t
    aesExpand n (i + 1) (ws ++ [(List.range 4).map fun j => old.getD j 0 ^^^ t'.getD j 0])

def aesKey (key : List Byte) : List Nat :=
  (aesExpand 52 8 ((List.range 8).map fun i => (List.range 4).map fun j => (key.getD (4 * i + j) 0).toNat)).flatten

def addKey (ks : List Nat) (r : Nat) (st : List Nat) : List Nat :=
  (List.range 16).map fun i => st.getD i 0 ^^^ ks.getD (16 * r + i) 0

/-- SubBytes and ShiftRows. -/
def subShift (st : List Nat) : List Nat :=
  (List.range 16).map fun i => sub8 (st.getD ((i + 4 * (i % 4)) % 16) 0)

def mixCols (st : List Nat) : List Nat :=
  (List.range 16).map fun i =>
    let c := 4 * (i / 4)
    let x (k : Nat) := st.getD (c + (i + k) % 4) 0
    xtime (x 0) ^^^ (xtime (x 1) ^^^ x 1) ^^^ x 2 ^^^ x 3

def aesRounds (ks : List Nat) : Nat → Nat → List Nat → List Nat
  | 0, r, st => addKey ks r (subShift st)
  | n + 1, r, st => aesRounds ks n (r + 1) (addKey ks r (mixCols (subShift st)))

/-- AES-256 of one block. -/
def aesBlock (ks : List Nat) (b : List Byte) : List Byte :=
  (aesRounds ks 13 1 (addKey ks 0 ((List.range 16).map fun i => (b.getD i 0).toNat))).map (BitVec.ofNat 8)

/-- A block as the number whose most significant byte comes first. -/
def beNat (l : List Byte) : Nat := leNat l.reverse
def beBytes (n x : Nat) : List Byte := (leBytes n x).reverse

/-- Multiplication in GCM's field, over the bits of `x` from the first. -/
def gMul : Nat → Nat → Nat → Nat
  | 0, _, _ => 0
  | n + 1, x, v =>
    (if x / 2 ^ n % 2 = 1 then v else 0) ^^^ gMul n x (if v % 2 = 1 then v / 2 ^^^ 0xE1 * 2 ^ 120 else v / 2)

/-- GHASH over whole blocks. -/
def ghash (h : Nat) : Nat → List Byte → Nat → Nat
  | 0, _, y => y
  | n + 1, l, y => ghash h n (l.drop 16) (gMul 128 (y ^^^ beNat ((l.take 16) ++ zeros' (16 - (l.take 16).length))) h)
where
  /-- zero padding of a last block -/
  zeros' (n : Nat) : List Byte := List.replicate n 0

/-- Pads to whole blocks. -/
def padBlk (l : List Byte) : List Byte := l ++ List.replicate ((16 - l.length % 16) % 16) 0

/-- Counter mode from a counter on. -/
def ctrMode (ks : List Nat) (nonce : List Byte) : Nat → Nat → List Byte → List Byte
  | 0, _, _ => []
  | n + 1, c, l =>
    let k := aesBlock ks (nonce ++ beBytes 4 c)
    ((l.take 16).zipWith (fun a b => a ^^^ b) k) ++ ctrMode ks nonce n (c + 1) (l.drop 16)

/-- The tag of a ciphertext with associated data. -/
def gcmTag (ks : List Nat) (nonce aad ct : List Byte) : List Byte :=
  let h := beNat (aesBlock ks (List.replicate 16 0))
  let m := padBlk aad ++ padBlk ct ++ beBytes 8 (8 * aad.length) ++ beBytes 8 (8 * ct.length)
  let y := ghash h (m.length / 16) m 0
  (beBytes 16 y).zipWith (fun a b => a ^^^ b) (aesBlock ks (nonce ++ beBytes 4 1))

/-- AES-256-GCM encryption, with a 96-bit nonce: the ciphertext and the tag. -/
def gcmSeal (key nonce aad pt : List Byte) : List Byte × List Byte :=
  let ks := aesKey key
  let ct := ctrMode ks nonce ((pt.length + 15) / 16) 2 pt
  (ct, gcmTag ks nonce aad ct)

/-- AES-256-GCM decryption: none when the tag fails. -/
def gcmOpen (key nonce aad ct tag : List Byte) : Option (List Byte) :=
  let ks := aesKey key
  if gcmTag ks nonce aad ct = tag then some (ctrMode ks nonce ((ct.length + 15) / 16) 2 ct) else none

/-! ## CRC-32C (R387) -/

/-- One bit of the reflected Castagnoli polynomial. -/
def crcBit (c : Nat) : Nat := if c % 2 = 1 then c / 2 ^^^ 0x82F63B78 else c / 2

def crcByte (c : Nat) (b : Byte) : Nat :=
  crcBit (crcBit (crcBit (crcBit (crcBit (crcBit (crcBit (crcBit (c ^^^ b.toNat))))))))

/-- CRC-32C of a byte string. -/
def crc32c (l : List Byte) : Nat := (l.foldl crcByte 0xFFFFFFFF) ^^^ 0xFFFFFFFF

end Sys2Proof.Machine
end

