-- ==== Sys2Proof/WellFormed.lean ====
section
/-!
DEFINITION. Well-formed instructions: the operand values that the encodings allow (R73, R74, R78 to R84 and the entries
of the forms), and, for the events, units that the device has (R7).
-/
namespace Sys2Proof

/-- The floating-point element types, set F (R139). -/
def Ty.isF : Ty → Bool
  | .f32 | .bf16 | .f16 => true
  | .i32 | .i16 | .i8 | .u8 | .x => false

/-- The integer element types, set I (R139). -/
def Ty.isI : Ty → Bool
  | .i32 | .i16 | .i8 | .u8 => true
  | .f32 | .bf16 | .f16 | .x => false

/-- The types of vabs, vneg and vsra without the unsigned bytes (R139). -/
def Ty.isSigned : Ty → Bool
  | .i32 | .i16 | .i8 => true
  | .f32 | .bf16 | .f16 | .u8 | .x => false

/-- The source formats that vcvt takes (R147). -/
def CFmt.isCvtSrc : CFmt → Bool
  | .f32 | .bf16 | .f16 | .i32 | .i16 | .e4m3 | .e5m2 | .e3m2 | .e2m3 | .e2m1 | .i8 | .u8 => true
  | .mxint8 | .aint4 | .aint8 => false

/-- The target formats that vcvt takes (R147). -/
def CFmt.isCvtDst : CFmt → Bool
  | .f32 | .bf16 | .f16 | .i32 | .i16 | .e4m3 | .e5m2 | .e3m2 | .e2m3 | .e2m1 => true
  | .i8 | .u8 | .mxint8 | .aint4 | .aint8 => false

/-- The targets of the element step of vquant (R157). -/
def CFmt.isQuant : CFmt → Bool
  | .e4m3 | .e5m2 | .e3m2 | .e2m3 | .e2m1 | .mxint8 | .aint4 | .aint8 => true
  | .f32 | .bf16 | .f16 | .i32 | .i16 | .i8 | .u8 => false

/-- The targets of the scale step of vquant (R157). -/
def CFmt.isQuantS : CFmt → Bool
  | .e4m3 | .e5m2 | .e3m2 | .e2m3 | .e2m1 | .mxint8 => true
  | .f32 | .bf16 | .f16 | .i32 | .i16 | .i8 | .u8 | .aint4 | .aint8 => false

/-- The forms of vpack (R149): halves carry no h, and width code 0b11 is no form. -/
def PackForm.okPack : PackForm → Bool
  | .half ty h => (ty == .bf16 || ty == .f16 || ty == .i16) && !h
  | .byte _ _ => true
  | .raw w _ => w != 3#2

/-- The forms of vunpk (R150). -/
def PackForm.okUnpk : PackForm → Bool
  | .half ty _ => ty == .bf16 || ty == .f16 || ty == .i16
  | .byte _ _ => true
  | .raw w _ => w != 3#2

/-- In a form whose second source is used by the half forms alone, the field is zero otherwise (R149). -/
def PackForm.okB : PackForm → VReg → Bool
  | .half _ _, _ => true
  | .byte _ _, b => b == 0#4
  | .raw _ _, b => b == 0#4

/-- The field a mover of lanes does not use is zero, and a doubleword lane is even (R154). -/
def vmovsOk (d a : VReg) (dir : Bool) (lane : BitVec 3) (ty : Ty) : Bool :=
  (if dir then a == 0#4 else d == 0#4) &&
  match ty with
  | .f32 | .i32 => true
  | .x => lane.getLsbD 0 == false
  | .bf16 | .f16 | .i16 | .i8 | .u8 => false

/-- A unit that the device has (R7). -/
def UnitRef.wf : UnitRef → Bool
  | .thread g => decide (g < 16384)
  | .core k => decide (k < 16384)

/-- A producer that the device has (R7, R232, R266). -/
def Producer.wf : Producer → Bool
  | .core k => decide (k < 16384)
  | .agen m => decide (m < 1024)
  | .conv c => decide (c < 512)

/-- The numbers that the table of control registers lists (R23). -/
def csrListed : List Nat :=
  [0x000, 0x001, 0x002, 0x003, 0x010, 0x011, 0x012, 0x013, 0x020, 0x021, 0x030, 0x031, 0x032, 0x100, 0x101, 0x102,
    0x103, 0x104, 0x105, 0x200, 0x201]

/-- The control registers with a writable field (R23, R24). -/
def csrWritable : List Nat :=
  [0x010, 0x011, 0x020, 0x021, 0x031, 0x032, 0x100, 0x101, 0x102, 0x103, 0x104, 0x105, 0x200, 0x201]

/-- Bits 40:36 and 31 of an extended mdset are zero (R189). -/
def mdsetOk : Imm → Bool
  | .pair _ => true
  | .ext v => decide (v.toNat / 2 ^ 36 = 0) && !v.getLsbD 31

/-- The well-formed instructions and events. -/
def Instr.wf : Instr → Bool
  | .add .. | .sub .. | .and .. | .or .. | .xor .. | .andn .. | .sll .. | .srl .. | .sra .. | .rol .. | .ror .. | .mul ..
  | .mulh .. | .mulhu .. | .mulhsu .. | .div .. | .divu .. | .rem .. | .remu .. | .min .. | .max .. | .minu .. | .maxu ..
  | .slt .. | .sltu .. | .seq .. | .sel .. | .clz .. | .ctz .. | .popc .. | .brev .. | .bswap .. | .sextB .. | .sextH ..
  | .sextW .. | .zextB .. | .zextH .. | .zextW .. | .addi .. | .andi .. | .ori .. | .xori .. | .slli .. | .srli ..
  | .srai .. | .roli .. | .slti .. | .sltiu .. | .seqi .. | .muli .. => true
  | .bext _ _ pos w | .bextu _ _ pos w | .bins _ _ pos w => decide (pos.toNat + w.toNat + 1 ≤ 64)
  | .lea _ _ _ sh => decide (sh.toNat ≤ 5)
  | .movi .. | .movt .. | .lui .. | .addpc .. | .addpg .. | .beq .. | .bne .. | .blt .. | .bge .. | .bltu .. | .bgeu ..
  | .jmp .. | .jal .. | .jalr .. | .loop .. | .bany .. | .bnone .. | .ldb .. | .ldbu .. | .ldh .. | .ldhu .. | .ldw ..
  | .ldwu .. | .ldd .. | .stb .. | .sth .. | .stw .. | .std .. | .vld .. | .vst .. | .vgather .. | .vscatter .. | .pf ..
  | .acqL .. | .relL .. | .amoAdd .. | .amoSwap .. | .amoCas .. | .amoMin .. | .amoMax .. | .amoAnd .. | .amoOr ..
  | .amoXor .. | .waitR .. | .redAdd .. | .redMin .. | .redMax .. | .redAnd .. | .redOr .. | .redXor .. | .redFaddW ..
  | .fence .. | .ldAcq .. | .stRel .. | .spawn .. | .spawnT .. | .callat .. | .invoke .. | .invokeW .. | .invokeT ..
  | .quit .. | .reply .. | .recv .. | .abq .. | .xfer .. | .pcomp .. | .syncSet .. | .syncArrive .. | .syncWait ..
  | .fetcht .. | .fetchtLd .. | .fetchtQ .. | .rlq .. | .acpy .. | .srecv .. | .ssend .. => true
  | .smerge _ _ _ k => k != 0#3
  | .ssplit _ _ w => decide (1 ≤ w.toNat ∧ w.toNat ≤ 8)
  | .sstop level => level != 0#3
  | .ssteer .. | .speek .. | .spred .. | .rqpush .. | .rqpop .. | .esc .. | .escO .. | .ctxsw .. | .mgPp | .mgPe | .mgEp
  | .mgEe | .mgGp | .mgGe | .mzero | .mdrain .. | .mspx .. | .mspxN .. | .mdadv .. | .mdadvR .. | .trap ..
  | .eret | .uret | .wfi | .wfit .. | .tlbi .. | .icinv .. | .ctxSave .. | .ctxLoad ..
  | .preemptHalt .. | .preemptTrap .. | .preemptResume .. | .halt | .vnop => true
  | .mdset v => mdsetOk v
  | .csrr _ n => csrListed.contains n.toNat
  | .csrw n _ => csrWritable.contains n.toNat
  | .vadd _ _ _ _ ty | .vsub _ _ _ _ ty | .vmul _ _ _ _ ty | .vfma _ _ _ _ ty | .vmin _ _ _ _ ty
  | .vmax _ _ _ _ ty | .vredSum _ _ _ ty | .vredMin _ _ _ ty | .vredMax _ _ _ ty => ty.isF || ty.isI
  | .vabs _ _ _ ty | .vneg _ _ _ ty => ty.isF || ty.isSigned
  | .vdiv _ _ _ _ ty | .vsqrt _ _ _ ty | .vrsqrt _ _ _ ty | .vrcp _ _ _ ty | .vexp2 _ _ _ ty | .vlog2 _ _ _ ty
  | .vscale _ _ _ _ ty | .vclass _ _ _ ty => ty.isF
  | .vcmpEq _ _ _ _ ty | .vcmpNe _ _ _ _ ty | .vcmpLt _ _ _ _ ty | .vcmpLe _ _ _ _ ty => ty.isF || ty.isI
  | .vcmpUn _ _ _ _ ty => ty.isF
  | .vsel .. | .vand .. | .vor .. | .vxor .. => true
  | .vshl _ _ _ _ ty | .vshr _ _ _ _ ty => ty.isI
  | .vsra _ _ _ _ ty => ty.isSigned
  | .vcvt _ _ _ src dst _ => src.isCvtSrc && dst.isCvtDst && src != dst
  | .vpack _ _ b f => f.okPack && f.okB b
  | .vunpk _ _ _ f => f.okUnpk
  | .vperm .. | .vbcast .. => true
  | .vmovs _ d a dir lane ty _ => vmovsOk d a dir lane ty
  | .vquantS _ _ _ _ fmt => fmt.isQuantS
  | .vquant _ _ _ _ fmt => fmt.isQuant
  | .vgstep .. | .vgmask .. | .undBundle .. => true
  | .tlbWalk blk _ | .combineWindowExpiry blk _ | .taskCommit blk | .compileStart blk | .compileEnd blk
  | .clockStretch blk _ | .powerGate blk | .blockWake blk | .plannedRetirement blk _ _ | .failedRetirement blk _ _ _
  | .supplyDroopEnd blk => decide (blk < 128)
  | .resultCommit u | .preemptHaltTaken u | .threadWake u => u.wf
  | .windowForcedClose g | .completionDiversion g | .wfitDeadline g | .storePerform g | .remoteAck g _ _
  | .taskConflictAbort g | .taskPlainRestart g => decide (g < 16384)
  | .recordArrival f | .rotundaAdmit f | .recordPromotion f _ | .faultNotice f | .faultRecordWrite f
  | .futureResolve f _ | .fqbaseWrite f _ | .thermalShutdown f => decide (f < 16)
  | .commandEntry blk port | .busyRetry blk port | .gateOpen blk port | .transferStart blk port =>
    decide (blk < 128) && decide (port < 4)
  | .transferWrite _ | .rangeLockRelease _ _ | .transferCompletion _ | .viaTransferFinish _ | .syncUpdateCycle _
  | .syncCarryEval _ | .flitForward .. => true
  | .portTokenArrival k port => decide (k < 16384) && decide (port < 16)
  | .streamerSend k => decide (k < 16384)
  | .ringPlace tile ring => decide (tile < 4096) && decide (ring < 16)
  | .placingAreaWrite tile | .inboundStreamerWrite tile | .matrixOpStart tile | .matrixOpEnd tile | .contextSwitch tile
  | .configurationFlit tile | .spliceSwitch tile | .spliceMarker tile => decide (tile < 4096)
  | .converterFiring c => decide (c < 512)
  | .adderPair port | .answerFrame port | .packetReceive port | .frameReceive port _ | .retryRequest port
  | .idleFrame port | .frameForward port | .portDown port | .downPortRetrain port
  | .retrainComplete port _ => decide (port < 16)
  | .portRetrain r => decide (r.port < 16)
  | .agenLoadToken m | .agenStoreToken m | .doneArrival m => decide (m < 1024)
  | .stallLimit p => p.wf
  | .escapeReentry tile node => decide (tile < 4096) && decide (node < 4)
  | .graphEnd _ => true
  | .mailboxWrite core => decide (core < 2048)
  | .invokeRetry _ | .invokeTimeout _ | .replyResend _ | .bucketRefill => true
  | .campanileSlew b _ => match b with
    | none => true
    | some x => decide (x < 128)
  | .effAdjust sens => decide (sens.fpwr.length = 16) && decide (sens.temp.length = 16)
  | .coldReset | .phaseComplete _ => true
  | .pcieHotReset port | .setWrite port => decide (port < 2)
  | .postingWrite port q _ _ _ => decide (port < 2) && decide (q < 16384)
  | .spillDraw q => decide (q < 16384)
  | .replyRingWrite _ | .replyRingRetry _ => true
  | .bar2Read port _ _ _ | .bar2Write port _ _ _ => decide (port < 2)
  | .registerWrite host _ _ => match host with
    | none => true
    | some p => decide (p.1 < 2)
  | .watchConfigWrite .. | .graphLoad | .graphUnload | .verifyImage | .attestationReport | .jobStart
  | .jobEnd => true
  | .spdmRequest port _ => decide (port < 2)

end Sys2Proof
end

