-- ==== Sys2Proof/Decode.lean ====
section
/-!
DEFINITION. The decoder of bundles and the encoder, from the formats of R69 to R84 and the entries of the forms: what a
64-bit bundle says, or why it is not an instruction (R85).
-/
namespace Sys2Proof

/-! ## Fields -/

/-- Bits `lo` to `lo + n - 1` of a slot word, as a number. -/
def fld (w : SlotWord) (lo n : Nat) : Nat := w.toNat / 2 ^ lo % 2 ^ n

/-- The opcode of a slot-A operation (R73). -/
def opA (w : SlotWord) : Nat := fld w 22 7
/-- Field d, a or b of a slot-A operation (R73). -/
def fD (w : SlotWord) : SReg := BitVec.ofNat 5 (fld w 17 5)
def fA (w : SlotWord) : SReg := BitVec.ofNat 5 (fld w 12 5)
def fB (w : SlotWord) : SReg := BitVec.ofNat 5 (fld w 7 5)
/-- The sub-function of an RR form. -/
def fFn (w : SlotWord) : Nat := fld w 0 7
/-- The 12-bit and 17-bit fields (R73). -/
def f12 (w : SlotWord) : BitVec 12 := BitVec.ofNat 12 (fld w 0 12)
def f17 (w : SlotWord) : BitVec 17 := BitVec.ofNat 17 (fld w 0 17)

/-- The immediate of a form: its 12-bit field, or the 41-bit value of an extended bundle (R71). -/
def immOf (w : SlotWord) : Option SlotWord → Imm
  | none => .pair (f12 w)
  | some x => .ext (BitVec.ofNat 41 (x.toNat * 4096 + fld w 0 12))

/-- Why a bundle is not an instruction (R85). -/
inductive Reject where
  /-- BK = 0b10 or 0b11 (R70) -/
  | kind
  /-- an opcode that the maps of R77 and R83 do not assign -/
  | opcode (slotB : Bool)
  /-- a sub-function, type, scope or immediate that the form does not assign, or a nonzero field that must be zero -/
  | field (slotB : Bool)
  /-- a register field out of range (R74, R84) -/
  | reg (slotB : Bool)
  /-- an extended bundle whose opcode is not marked X (R71), or movt in a pair bundle (R105) -/
  | extension
  deriving DecidableEq, Repr

/-- The slot that ecause names for a rejected bundle (R85). -/
def Reject.inB : Reject → Bool
  | .kind | .extension => false
  | .opcode b | .field b | .reg b => b

/-- Accepts an instruction when a condition on its fields holds. -/
def accept (c : Bool) (r : Reject) (i : Instr) : Except Reject Instr := if c then .ok i else .error r

/-- A form that may not be extended (R71). -/
def noExt (x : Option SlotWord) (r : Except Reject Instr) : Except Reject Instr :=
  match x with
  | none => r
  | some _ => .error .extension

/-- A vector register in a 5-bit field (R74). -/
def asV (r : SReg) : VReg := BitVec.ofNat 4 r.toNat
/-- A predicate register in a 5-bit field (R74). -/
def asP (r : SReg) : PReg := BitVec.ofNat 3 r.toNat
/-- A quad base in a 5-bit field (R74). -/
def asQ (r : SReg) : Quad := BitVec.ofNat 3 (r.toNat / 4)
def okV (r : SReg) : Bool := decide (r.toNat < 16)
def okP (r : SReg) : Bool := decide (r.toNat < 8)
def okQ (r : SReg) : Bool := decide (r.toNat % 4 = 0)

/-- The scope of a code (R81). -/
def scopeOf : Nat → Option Scope
  | 0 => some .thread
  | 1 => some .core
  | 2 => some .block
  | 3 => some .field
  | 4 => some .device
  | 5 => some .system
  | _ => none

/-- The element type of a token of a code (R88). -/
def etypeOf : Nat → Option EType
  | 0 => some .i32
  | 1 => some .f32
  | 2 => some .bf16x2
  | 3 => some .f16x2
  | 4 => some .i16x2
  | 5 => some .i8x4
  | 6 => some .n8x4
  | 7 => some .mxblk
  | 8 => some .plane
  | 9 => some .raw
  | _ => none

/-- The element type of slot B of a code (R76). -/
def tyOf : Nat → Ty
  | 0 => .f32
  | 1 => .bf16
  | 2 => .f16
  | 3 => .i32
  | 4 => .i16
  | 5 => .i8
  | 6 => .u8
  | _ => .x

/-- The formats of vcvt and vquant by code (R147, R157). -/
def fmtOf : Nat → Option CFmt
  | 0 => some .f32
  | 1 => some .bf16
  | 2 => some .f16
  | 3 => some .i32
  | 4 => some .i16
  | 5 => some .e4m3
  | 6 => some .e5m2
  | 7 => some .e3m2
  | 8 => some .e2m3
  | 9 => some .e2m1
  | 10 => some .mxint8
  | 11 => some .aint4
  | 12 => some .aint8
  | _ => none

/-! ## Slot A -/

/-- Opcode 0x01 (R79, R101). -/
def decodeAlu (w : SlotWord) : Except Reject Instr :=
  let d := fD w
  let a := fA w
  let b := fB w
  let un (i : Instr) := accept (b == 0#5) (.field false) i
  match fFn w with
  | 0x00 => .ok (.add d a b)
  | 0x01 => .ok (.sub d a b)
  | 0x02 => .ok (.and d a b)
  | 0x03 => .ok (.or d a b)
  | 0x04 => .ok (.xor d a b)
  | 0x05 => .ok (.andn d a b)
  | 0x06 => .ok (.sll d a b)
  | 0x07 => .ok (.srl d a b)
  | 0x08 => .ok (.sra d a b)
  | 0x09 => .ok (.rol d a b)
  | 0x0A => .ok (.ror d a b)
  | 0x0B => .ok (.mul d a b)
  | 0x0C => .ok (.mulh d a b)
  | 0x0D => .ok (.mulhu d a b)
  | 0x0E => .ok (.mulhsu d a b)
  | 0x0F => .ok (.div d a b)
  | 0x10 => .ok (.divu d a b)
  | 0x11 => .ok (.rem d a b)
  | 0x12 => .ok (.remu d a b)
  | 0x13 => .ok (.min d a b)
  | 0x14 => .ok (.max d a b)
  | 0x15 => .ok (.minu d a b)
  | 0x16 => .ok (.maxu d a b)
  | 0x17 => .ok (.slt d a b)
  | 0x18 => .ok (.sltu d a b)
  | 0x19 => .ok (.seq d a b)
  | 0x1A => .ok (.sel d a b)
  | 0x1B => un (.clz d a)
  | 0x1C => un (.ctz d a)
  | 0x1D => un (.popc d a)
  | 0x1E => un (.brev d a)
  | 0x1F => un (.bswap d a)
  | 0x20 => un (.sextB d a)
  | 0x21 => un (.sextH d a)
  | 0x22 => un (.sextW d a)
  | 0x23 => un (.zextB d a)
  | 0x24 => un (.zextH d a)
  | 0x25 => un (.zextW d a)
  | _ => .error (.field false)

/-- The shift immediates: the amount in imm[5:0], zeros in every other bit, those of an extension included (R102). -/
def decodeShift (mk : SReg → SReg → BitVec 6 → Bool → Instr) (w : SlotWord) (x : Option SlotWord) :
    Except Reject Instr :=
  let i := mk (fD w) (fA w) (BitVec.ofNat 6 (fld w 0 6)) x.isSome
  accept (fld w 6 6 == 0 && x.getD 0 == 0#29) (.field false) i

/-- bext, bextu and bins (R103). -/
def decodeBits (mk : SReg → SReg → BitVec 6 → BitVec 6 → Instr) (w : SlotWord) : Except Reject Instr :=
  accept (decide (fld w 6 6 + fld w 0 6 + 1 ≤ 64)) (.field false)
    (mk (fD w) (fA w) (BitVec.ofNat 6 (fld w 6 6)) (BitVec.ofNat 6 (fld w 0 6)))

/-- Opcodes 0x01 to 0x1F (R79, R101 to R106). -/
def decodeA0 (w : SlotWord) (x : Option SlotWord) : Except Reject Instr :=
  let d := fD w
  let a := fA w
  let imm := immOf w x
  match opA w with
  | 0x01 => noExt x (decodeAlu w)
  | 0x02 => .ok (.addi d a imm)
  | 0x03 => .ok (.andi d a imm)
  | 0x04 => .ok (.ori d a imm)
  | 0x05 => .ok (.xori d a imm)
  | 0x06 => decodeShift .slli w x
  | 0x07 => decodeShift .srli w x
  | 0x08 => decodeShift .srai w x
  | 0x09 => decodeShift .roli w x
  | 0x0A => .ok (.slti d a imm)
  | 0x0B => .ok (.sltiu d a imm)
  | 0x0C => .ok (.seqi d a imm)
  | 0x0D => .ok (.muli d a imm)
  | 0x0E => noExt x (decodeBits .bext w)
  | 0x0F => noExt x (decodeBits .bextu w)
  | 0x10 => noExt x (decodeBits .bins w)
  | 0x1A => noExt x (accept (decide (fFn w ≤ 5)) (.field false) (.lea d a (fB w) (BitVec.ofNat 3 (fFn w))))
  | 0x1B => accept (a == 0#5) (.field false) (.movi d imm)
  | 0x1C =>
    match x with
    | none => .error .extension
    | some e => accept (decide (e.toNat < 2048)) (.field false)
        (.movt d a (BitVec.ofNat 23 (e.toNat * 4096 + fld w 0 12)))
  | 0x1D => noExt x (.ok (.lui d (f17 w)))
  | 0x1E => noExt x (.ok (.addpc d (f17 w)))
  | 0x1F => noExt x (.ok (.addpg d (f17 w)))
  | _ => .error (.opcode false)

/-- Opcodes 0x20 to 0x2F (R108 to R110): the first operand field is bits 21:17, the second 16:12. -/
def decodeA2 (w : SlotWord) (x : Option SlotWord) : Except Reject Instr :=
  let a := fD w
  let b := fA w
  let off := immOf w x
  match opA w with
  | 0x20 => .ok (.beq a b off)
  | 0x21 => .ok (.bne a b off)
  | 0x22 => .ok (.blt a b off)
  | 0x23 => .ok (.bge a b off)
  | 0x24 => .ok (.bltu a b off)
  | 0x25 => .ok (.bgeu a b off)
  | 0x26 => noExt x (accept (fD w == 0#5) (.field false) (.jmp (f17 w)))
  | 0x27 => noExt x (.ok (.jal (fD w) (f17 w)))
  | 0x28 => .ok (.jalr (fD w) (fA w) off)
  | 0x29 => accept (b == 0#5) (.field false) (.loop a off)
  | 0x2A => accept (okP a) (.reg false) (.bany (asP a) off) >>= accept (b == 0#5) (.field false)
  | 0x2B => accept (okP a) (.reg false) (.bnone (asP a) off) >>= accept (b == 0#5) (.field false)
  | _ => .error (.opcode false)

/-- Opcodes 0x30 to 0x3F (R117 to R120). -/
def decodeA3 (w : SlotWord) (x : Option SlotWord) : Except Reject Instr :=
  let d := fD w
  let a := fA w
  let imm := immOf w x
  match opA w with
  | 0x30 => .ok (.ldb d a imm)
  | 0x31 => .ok (.ldbu d a imm)
  | 0x32 => .ok (.ldh d a imm)
  | 0x33 => .ok (.ldhu d a imm)
  | 0x34 => .ok (.ldw d a imm)
  | 0x35 => .ok (.ldwu d a imm)
  | 0x36 => .ok (.ldd d a imm)
  | 0x37 => .ok (.stb d a imm)
  | 0x38 => .ok (.sth d a imm)
  | 0x39 => .ok (.stw d a imm)
  | 0x3A => .ok (.std d a imm)
  | 0x3B => accept (okV d) (.reg false) (.vld (asV d) a imm)
  | 0x3C => accept (okV d) (.reg false) (.vst (asV d) a imm)
  | 0x3D => noExt x (accept (okV d && okV (fB w)) (.reg false)
      (.vgather (asV d) a (asV (fB w)) (BitVec.ofNat 2 (fFn w))) >>= accept (decide (fFn w ≤ 3)) (.field false))
  | 0x3E => noExt x (accept (okV d && okV (fB w)) (.reg false)
      (.vscatter (asV d) a (asV (fB w)) (BitVec.ofNat 2 (fFn w))) >>= accept (decide (fFn w ≤ 3)) (.field false))
  | 0x3F => accept (d == 0#5) (.field false) (.pf a imm)
  | _ => .error (.opcode false)

/-- The amo forms (R80): bits 6:5 zero, unsigned only with min and max. -/
def decodeAmo (w : SlotWord) : Except Reject Instr :=
  let d := fD w
  let a := fA w
  let b := fB w
  let w32 := fld w 3 1 == 1
  let u := fld w 4 1 == 1
  let plain (i : Instr) := accept (!u && fld w 5 2 == 0) (.field false) i
  let sgn (i : Instr) := accept (fld w 5 2 == 0) (.field false) i
  match fld w 0 3 with
  | 0 => plain (.amoAdd d a b w32)
  | 1 => plain (.amoSwap d a b w32)
  | 2 => plain (.amoCas d a b w32)
  | 3 => sgn (.amoMin d a b w32 u)
  | 4 => sgn (.amoMax d a b w32 u)
  | 5 => plain (.amoAnd d a b w32)
  | 6 => plain (.amoOr d a b w32)
  | _ => plain (.amoXor d a b w32)

/-- The red forms (R80). -/
def decodeRed (w : SlotWord) : Except Reject Instr :=
  let a := fA w
  let b := fB w
  let w32 := fld w 3 1 == 1
  let u := fld w 4 1 == 1
  let plain (i : Instr) := accept (!u && fld w 5 2 == 0 && fD w == 0#5) (.field false) i
  let sgn (i : Instr) := accept (fld w 5 2 == 0 && fD w == 0#5) (.field false) i
  match fld w 0 3 with
  | 0 => plain (.redAdd a b w32)
  | 1 => sgn (.redMin a b w32 u)
  | 2 => sgn (.redMax a b w32 u)
  | 3 => plain (.redAnd a b w32)
  | 4 => plain (.redOr a b w32)
  | 5 => plain (.redXor a b w32)
  | 6 => accept (!u && fld w 5 2 == 0 && fD w == 0#5 && w32) (.field false) (.redFaddW a b)
  | _ => .error (.field false)

/-- Opcodes 0x40 to 0x4F (R121 to R132). -/
def decodeA4 (w : SlotWord) (x : Option SlotWord) : Except Reject Instr :=
  let d := fD w
  let a := fA w
  let imm := immOf w x
  match opA w with
  | 0x40 => .ok (.acqL d a imm)
  | 0x41 => .ok (.relL d a imm)
  | 0x42 => noExt x (decodeAmo w)
  | 0x43 => noExt x (accept (fld w 0 17 == 0) (.field false) (.waitR d))
  | 0x44 => noExt x (decodeRed w)
  | 0x45 => noExt x <|
    match scopeOf (fld w 0 12) with
    | some sc => accept (fld w 12 10 == 0) (.field false) (.fence sc)
    | none => .error (.field false)
  | 0x46 => .ok (.ldAcq d a imm)
  | 0x47 => .ok (.stRel d a imm)
  | _ => .error (.opcode false)

/-- fetcht (R202): job in imm[3:0], operation in imm[5:4], every other bit of the immediate zero. -/
def decodeFetcht (w : SlotWord) (x : Option SlotWord) : Except Reject Instr :=
  let job := BitVec.ofNat 4 (fld w 0 4)
  let ok := fld w 6 6 == 0 && x.getD 0 == 0#29
  match fld w 4 2 with
  | 0 => accept (ok && fA w == 0#5) (.field false) (.fetcht (fD w) job x.isSome)
  | 1 => accept (ok && fD w == 0#5) (.field false) (.fetchtLd (fA w) job x.isSome)
  | 2 => accept (ok && fA w == 0#5) (.field false) (.fetchtQ (fD w) job x.isSome)
  | _ => .error (.field false)

/-- Opcodes 0x50 to 0x5F (R188, R193 to R215). -/
def decodeA5 (w : SlotWord) (x : Option SlotWord) : Except Reject Instr :=
  let d := fD w
  let a := fA w
  let b := fB w
  let fn0 (i : Instr) := accept (fFn w == 0) (.field false) i
  let quad (i : Instr) := accept (okQ b) (.reg false) i
  match opA w with
  | 0x50 => noExt x (quad (.spawn d a (asQ b)) >>= fn0)
  | 0x51 => noExt x (quad (.spawnT d a (asQ b)) >>= fn0)
  | 0x52 => noExt x (fn0 (.quit d a b))
  | 0x53 => noExt x (quad (.callat d a (asQ b)) >>= fn0)
  | 0x54 => noExt x <|
    match fFn w with
    | 0 => quad (.invoke d a (asQ b))
    | 1 => quad (.invokeW d a (asQ b))
    | 2 => quad (.invokeT d a (asQ b))
    | _ => .error (.field false)
  | 0x55 => noExt x (fn0 (.reply d a b))
  | 0x56 => .ok (.recv d a (immOf w x))
  | 0x57 => noExt x (accept (fld w 0 17 == 0) (.field false) (.abq d))
  | 0x58 => noExt x (accept (okQ a) (.reg false) (.xfer d (asQ a) (BitVec.ofNat 2 (fld w 0 2)))
      >>= accept (fld w 2 10 == 0) (.field false))
  | 0x59 => noExt x (accept (okQ a) (.reg false) (.pcomp d (asQ a) (BitVec.ofNat 5 (fld w 0 5)))
      >>= accept (fld w 5 7 == 0) (.field false))
  | 0x5A => noExt x <|
    match fFn w with
    | 0 => accept (d == 0#5) (.field false) (.syncSet a b)
    | 1 => .ok (.syncArrive d a b)
    | 2 => .ok (.syncWait d a b)
    | _ => .error (.field false)
  | 0x5B => decodeFetcht w x
  | 0x5C => noExt x (fn0 (.rlq d a b))
  | 0x5D => noExt x (accept (d == 0#5 && fFn w == 0) (.field false) (.acpy a b))
  | _ => .error (.opcode false)

/-- Opcodes 0x60 to 0x6F (R82, R168 to R191). -/
def decodeA6 (w : SlotWord) (x : Option SlotWord) : Except Reject Instr :=
  let d := fD w
  let a := fA w
  let b := fB w
  let i12 := fld w 0 12
  match opA w with
  | 0x60 => noExt x (accept (okV d) (.reg false) (.srecv (asV d) (BitVec.ofNat 4 i12))
      >>= accept (a == 0#5 && decide (i12 < 16)) (.field false))
  | 0x61 => noExt x <|
    match etypeOf (fFn w) with
    | some et => accept (okV a) (.reg false) (.ssend (asV a) b et) >>= accept (d == 0#5) (.field false)
    | none => .error (.field false)
  | 0x62 => noExt x (accept (okV d && okV a && okV b) (.reg false)
      (.smerge (asV d) (asV a) (asV b) (BitVec.ofNat 3 (fFn w)))
      >>= accept (decide (1 ≤ fFn w ∧ fFn w ≤ 7)) (.field false))
  | 0x63 => noExt x (accept (okV d && okV a) (.reg false) (.ssplit (asV d) (asV a) (BitVec.ofNat 4 i12))
      >>= accept (decide (1 ≤ i12 ∧ i12 ≤ 8)) (.field false))
  | 0x64 => noExt x (accept (fld w 12 10 == 0 && decide (1 ≤ i12 ∧ i12 ≤ 7)) (.field false)
      (.sstop (BitVec.ofNat 3 i12)))
  | 0x65 => noExt x (accept (d == 0#5 && fld w 0 12 == 0) (.field false) (.ssteer a))
  | 0x66 => noExt x (accept (a == 0#5 && decide (i12 < 16)) (.field false) (.speek d (BitVec.ofNat 4 i12)))
  | 0x67 => noExt x (accept (okP d) (.reg false) (.spred (asP d) (BitVec.ofNat 4 i12))
      >>= accept (a == 0#5 && decide (i12 < 16)) (.field false))
  | 0x68 => noExt x <|
    match fFn w with
    | 0 => accept (okV d && okV a) (.reg false) (.rqpush (BitVec.ofNat 4 d.toNat) (asV a) b)
    | 1 => accept (okV d && okV a) (.reg false) (.rqpop (asV d) (BitVec.ofNat 4 a.toNat) b)
    | _ => .error (.field false)
  | 0x69 => noExt x (accept (okV a) (.reg false)
      (if fld w 2 1 == 1 then .escO d (asV a) (BitVec.ofNat 2 (fld w 0 2)) else .esc d (asV a) (BitVec.ofNat 2 (fld w 0 2)))
      >>= accept (fld w 3 9 == 0) (.field false))
  | 0x6A => noExt x (accept (fld w 12 10 == 0 && decide (i12 < 4)) (.field false) (.ctxsw (BitVec.ofNat 2 i12)))
  | 0x6B => noExt x (
    if fld w 7 15 == 0 then
      match fFn w with
      | 0 => .ok .mgPp
      | 1 => .ok .mgPe
      | 2 => .ok .mgEp
      | 3 => .ok .mgEe
      | 4 => .ok .mgGp
      | 5 => .ok .mgGe
      | _ => .error (.field false)
    else .error (.field false))
  | 0x6C => noExt x <|
    match fFn w with
    | 0 => accept (fld w 7 15 == 0) (.field false) .mzero
    | 1 => accept (okV b) (.reg false) (.mdrain a (asV b)) >>= accept (d == 0#5) (.field false)
    | _ => .error (.field false)
  | 0x6D => noExt x <|
    match fFn w with
    | 0 => accept (d == 0#5) (.field false) (.mspx a b)
    | 1 => accept (d == 0#5) (.field false) (.mspxN a b)
    | _ => .error (.field false)
  | 0x6E => accept (fld w 12 10 == 0 && mdsetOk (immOf w x)) (.field false) (.mdset (immOf w x))
  | 0x6F => noExt x (
    if fld w 7 10 == 0 then
      match fFn w with
      | 0 => .ok (.mdadv d)
      | 1 => .ok (.mdadvR d)
      | _ => .error (.field false)
    else .error (.field false))
  | _ => .error (.opcode false)

/-- Opcodes 0x70 to 0x7F (R216 to R225). The operation of preempt stands in a register (R222), so its one word decodes to
the halt form, and the step resolves it. -/
def decodeA7 (w : SlotWord) (x : Option SlotWord) : Except Reject Instr :=
  let d := fD w
  let a := fA w
  let b := fB w
  let zero (i : Instr) := accept (fld w 0 22 == 0) (.field false) i
  match opA w with
  | 0x70 => noExt x (accept (fld w 12 10 == 0) (.field false) (.trap (f12 w)))
  | 0x71 => noExt x (zero .eret)
  | 0x72 => noExt x (zero .uret)
  | 0x73 => noExt x (accept (a == 0#5 && csrListed.contains (f12 w).toNat) (.field false) (.csrr d (f12 w)))
  | 0x74 => noExt x (accept (d == 0#5 && csrWritable.contains (f12 w).toNat) (.field false) (.csrw (f12 w) a))
  | 0x75 => noExt x (zero .wfi)
  | 0x76 => noExt x (accept (d == 0#5 && fld w 0 12 == 0) (.field false) (.wfit a))
  | 0x77 => noExt x <|
    match scopeOf (fFn w) with
    | some sc => accept (d == 0#5) (.field false) (.tlbi sc a b)
    | none => .error (.field false)
  | 0x78 => noExt x <|
    match scopeOf (fFn w) with
    | some sc => accept (d == 0#5) (.field false) (.icinv sc a b)
    | none => .error (.field false)
  | 0x79 => .ok (.ctxSave d a (immOf w x))
  | 0x7A => .ok (.ctxLoad d a (immOf w x))
  | 0x7B => noExt x (accept (fld w 0 12 == 0) (.field false) (.preemptHalt d a))
  | 0x7C => noExt x (zero .halt)
  | _ => .error (.opcode false)

/-- A slot-A operation, with the extension of an extended bundle (R77, R78). -/
def decodeA (w : SlotWord) (x : Option SlotWord) : Except Reject Instr :=
  match opA w / 16 with
  | 0 | 1 => decodeA0 w x
  | 2 => decodeA2 w x
  | 3 => decodeA3 w x
  | 4 => decodeA4 w x
  | 5 => decodeA5 w x
  | 6 => decodeA6 w x
  | _ => decodeA7 w x

/-! ## Slot B (R75, R83, R139) -/

/-- The opcode, fields and sub-function of a slot-B operation (R75). -/
def opB (w : SlotWord) : Nat := fld w 23 6
def bP (w : SlotWord) : PReg := BitVec.ofNat 3 (fld w 20 3)
def bD (w : SlotWord) : VReg := BitVec.ofNat 4 (fld w 16 4)
def bA (w : SlotWord) : VReg := BitVec.ofNat 4 (fld w 12 4)
def bB (w : SlotWord) : VReg := BitVec.ofNat 4 (fld w 8 4)
def bTy (w : SlotWord) : Ty := tyOf (fld w 5 3)
def bFn (w : SlotWord) : Nat := fld w 0 5

/-- vcmp (R143). -/
def decodeVcmp (w : SlotWord) : Except Reject Instr :=
  let pd : PReg := BitVec.ofNat 3 (fld w 16 3)
  let ty := bTy w
  let go (ok : Bool) (i : Instr) : Except Reject Instr :=
    if fld w 19 1 == 1 then .error (.reg true) else accept ok (.field true) i
  match bFn w with
  | 0 => go (ty.isF || ty.isI) (.vcmpEq (bP w) pd (bA w) (bB w) ty)
  | 1 => go (ty.isF || ty.isI) (.vcmpNe (bP w) pd (bA w) (bB w) ty)
  | 2 => go (ty.isF || ty.isI) (.vcmpLt (bP w) pd (bA w) (bB w) ty)
  | 3 => go (ty.isF || ty.isI) (.vcmpLe (bP w) pd (bA w) (bB w) ty)
  | 4 => go ty.isF (.vcmpUn (bP w) pd (bA w) (bB w) ty)
  | _ => .error (.field true)

/-- The source format of vcvt (R147): the type, or the code in vb with ty = 0b111. -/
def cvtSrcOf (ty : Ty) (vb : Nat) : Option CFmt :=
  match ty with
  | .f32 => if vb = 0 then some .f32 else none
  | .bf16 => if vb = 0 then some .bf16 else none
  | .f16 => if vb = 0 then some .f16 else none
  | .i32 => if vb = 0 then some .i32 else none
  | .i16 => if vb = 0 then some .i16 else none
  | .i8 => if vb = 0 then some .i8 else none
  | .u8 => if vb = 0 then some .u8 else none
  | .x =>
    match vb with
    | 5 => some .e4m3
    | 6 => some .e5m2
    | 7 => some .e3m2
    | 8 => some .e2m3
    | 9 => some .e2m1
    | _ => none

/-- vcvt (R147): the target in fn[4:1], the rounding override in fn[0]. -/
def decodeVcvt (w : SlotWord) : Except Reject Instr :=
  match cvtSrcOf (bTy w) (fld w 8 4), fmtOf (fld w 1 4) with
  | some s, some d => accept (d.isCvtDst && s != d) (.field true) (.vcvt (bP w) (bD w) (bA w) s d (fld w 0 1 == 1))
  | _, _ => .error (.field true)

/-- The form of vpack and vunpk (R149, R150). -/
def packFormOf (ty : Ty) (fn : Nat) : Option PackForm :=
  match ty with
  | .bf16 | .f16 | .i16 => if fn < 2 then some (.half ty (fn == 1)) else none
  | .i8 => if fn < 4 then some (.byte false (BitVec.ofNat 2 fn)) else none
  | .u8 => if fn < 4 then some (.byte true (BitVec.ofNat 2 fn)) else none
  | .x => if fn < 16 then some (.raw (BitVec.ofNat 2 (fn / 4)) (BitVec.ofNat 2 (fn % 4))) else none
  | .f32 | .i32 => none

/-- vquant (R157): the step in fn[0], the target in fn[4:1]; ty is f32. -/
def decodeVquant (w : SlotWord) : Except Reject Instr :=
  match fmtOf (fld w 1 4) with
  | none => .error (.field true)
  | some fmt =>
    if fld w 0 1 == 0 then accept (bTy w == .f32 && fmt.isQuantS) (.field true) (.vquantS (bP w) (bD w) (bA w) (bB w) fmt)
    else accept (bTy w == .f32 && fmt.isQuant) (.field true) (.vquant (bP w) (bD w) (bA w) (bB w) fmt)

/-- A slot-B operation. Fields that a form does not use must be zero (R136). -/
def decodeB (w : SlotWord) : Except Reject Instr :=
  let p := bP w
  let d := bD w
  let a := bA w
  let b := bB w
  let ty := bTy w
  let fn := bFn w
  let isFI := ty.isF || ty.isI
  let bin (c : Bool) (i : Instr) := accept (c && fn == 0) (.field true) i
  let una (c : Bool) (i : Instr) := accept (c && fn == 0 && b == 0#4) (.field true) i
  match opB w with
  | 0x00 => accept (w == 0#29) (.field true) .vnop
  | 0x01 => bin isFI (.vadd p d a b ty)
  | 0x02 => bin isFI (.vsub p d a b ty)
  | 0x03 => bin isFI (.vmul p d a b ty)
  | 0x04 => bin isFI (.vfma p d a b ty)
  | 0x05 => bin isFI (.vmin p d a b ty)
  | 0x06 => bin isFI (.vmax p d a b ty)
  | 0x07 => una (ty.isF || ty.isSigned) (.vabs p d a ty)
  | 0x08 => una (ty.isF || ty.isSigned) (.vneg p d a ty)
  | 0x09 => bin ty.isF (.vdiv p d a b ty)
  | 0x0A => una ty.isF (.vsqrt p d a ty)
  | 0x0B => una ty.isF (.vrsqrt p d a ty)
  | 0x0C => una ty.isF (.vrcp p d a ty)
  | 0x0D => una ty.isF (.vexp2 p d a ty)
  | 0x0E => una ty.isF (.vlog2 p d a ty)
  | 0x0F => decodeVcmp w
  | 0x10 => bin (ty == .x) (.vsel p d a b)
  | 0x11 => bin (ty == .x) (.vand p d a b)
  | 0x12 => bin (ty == .x) (.vor p d a b)
  | 0x13 => bin (ty == .x) (.vxor p d a b)
  | 0x14 => bin ty.isI (.vshl p d a b ty)
  | 0x15 =>
    match fn with
    | 0 => accept ty.isI (.field true) (.vshr p d a b ty)
    | 1 => accept ty.isSigned (.field true) (.vsra p d a b ty)
    | _ => .error (.field true)
  | 0x16 => decodeVcvt w
  | 0x17 =>
    match packFormOf ty fn with
    | some f => accept (p == 0#3 && f.okPack && f.okB b) (.field true) (.vpack d a b f)
    | none => .error (.field true)
  | 0x18 =>
    match packFormOf ty fn with
    | some f => accept (f.okUnpk && b == 0#4) (.field true) (.vunpk p d a f)
    | none => .error (.field true)
  | 0x19 =>
    match fn with
    | 0 => accept (isFI && b == 0#4) (.field true) (.vredSum p d a ty)
    | 1 => accept (isFI && b == 0#4) (.field true) (.vredMin p d a ty)
    | 2 => accept (isFI && b == 0#4) (.field true) (.vredMax p d a ty)
    | _ => .error (.field true)
  | 0x1A => bin (ty == .x) (.vperm p d a b)
  | 0x1B => accept (a == 0#4 && b == 0#4) (.field true) (.vbcast p d ty (BitVec.ofNat 5 fn))
  | 0x1C =>
    let dir := fld w 11 1 == 1
    let lane : BitVec 3 := BitVec.ofNat 3 (fld w 8 3)
    accept (vmovsOk d a dir lane ty) (.field true) (.vmovs p d a dir lane ty (BitVec.ofNat 5 fn))
  | 0x1D => bin ty.isF (.vscale p d a b ty)
  | 0x1E => decodeVquant w
  | 0x1F => una ty.isF (.vclass p d a ty)
  | 0x20 => bin (ty == .x && p == 0#3) (.vgstep d a b)
  | 0x21 => bin (ty == .f32) (.vgmask p d a b)
  | _ => .error (.opcode true)

/-! ## Bundles -/

/-- What a bundle says: lookahead, slot A, and slot B in a pair bundle (R69, R70). -/
structure Bundle where
  la : Nat
  a  : Instr
  b  : Option Instr
  deriving DecidableEq, Repr

/-- The slots of a bundle (R69): slot-A bit k is bundle bit 29 + k. -/
def slotA (w : Word) : SlotWord := BitVec.ofNat 29 (w.toNat / 2 ^ 29)
def slotB (w : Word) : SlotWord := BitVec.ofNat 29 w.toNat

/-- Decodes a bundle. When both slots are faulty, the first is slot A (R85). -/
def decode (w : Word) : Except Reject Bundle :=
  let la := w.toNat / 2 ^ 60
  match w.toNat / 2 ^ 58 % 4 with
  | 0 =>
    match decodeA (slotA w) none with
    | .error r => .error r
    | .ok a =>
      match decodeB (slotB w) with
      | .error r => .error r
      | .ok b => .ok { la := la, a := a, b := some b }
  | 1 =>
    match decodeA (slotA w) (some (slotB w)) with
    | .error r => .error r
    | .ok a => .ok { la := la, a := a, b := none }
  | _ => .error .kind

/-! ## The encoder -/

/-- The words of an instruction: a slot-A word with its extension if there is one, or a slot-B word. -/
inductive Enc where
  | a (w : SlotWord) (x : Option SlotWord)
  | b (w : SlotWord)
  deriving DecidableEq, Repr

/-- The slot-A formats (R73). -/
def rr (op : Nat) (d a b : Nat) (fn : Nat) : Enc :=
  .a (BitVec.ofNat 29 (op * 2 ^ 22 + d * 2 ^ 17 + a * 2 ^ 12 + b * 2 ^ 7 + fn)) none
def ri0 (op : Nat) (d a imm : Nat) : Enc := .a (BitVec.ofNat 29 (op * 2 ^ 22 + d * 2 ^ 17 + a * 2 ^ 12 + imm)) none
def jf (op : Nat) (d off : Nat) : Enc := .a (BitVec.ofNat 29 (op * 2 ^ 22 + d * 2 ^ 17 + off)) none
/-- An RI or BR form that may be extended (R71). -/
def ri (op : Nat) (d a : Nat) : Imm → Enc
  | .pair v => .a (BitVec.ofNat 29 (op * 2 ^ 22 + d * 2 ^ 17 + a * 2 ^ 12 + v.toNat)) none
  | .ext v => .a (BitVec.ofNat 29 (op * 2 ^ 22 + d * 2 ^ 17 + a * 2 ^ 12 + v.toNat % 4096))
      (some (BitVec.ofNat 29 (v.toNat / 4096)))
/-- An RI form with a small immediate that an extension, all zeros, may follow (R102, R202). -/
def rx (op : Nat) (d a imm : Nat) (ext : Bool) : Enc :=
  .a (BitVec.ofNat 29 (op * 2 ^ 22 + d * 2 ^ 17 + a * 2 ^ 12 + imm)) (if ext then some 0#29 else none)
/-- A slot-B word (R75). -/
def vb (op p d a b ty fn : Nat) : Enc :=
  .b (BitVec.ofNat 29 (op * 2 ^ 23 + p * 2 ^ 20 + d * 2 ^ 16 + a * 2 ^ 12 + b * 2 ^ 8 + ty * 2 ^ 5 + fn))

def Scope.code : Scope → Nat
  | .thread => 0
  | .core => 1
  | .block => 2
  | .field => 3
  | .device => 4
  | .system => 5

def EType.code : EType → Nat
  | .i32 => 0
  | .f32 => 1
  | .bf16x2 => 2
  | .f16x2 => 3
  | .i16x2 => 4
  | .i8x4 => 5
  | .n8x4 => 6
  | .mxblk => 7
  | .plane => 8
  | .raw => 9

def Ty.code : Ty → Nat
  | .f32 => 0
  | .bf16 => 1
  | .f16 => 2
  | .i32 => 3
  | .i16 => 4
  | .i8 => 5
  | .u8 => 6
  | .x => 7

def CFmt.code : CFmt → Nat
  | .f32 => 0
  | .bf16 => 1
  | .f16 => 2
  | .i32 => 3
  | .i16 => 4
  | .e4m3 => 5
  | .e5m2 => 6
  | .e3m2 => 7
  | .e2m3 => 8
  | .e2m1 => 9
  | .mxint8 => 10
  | .aint4 => 11
  | .aint8 => 12
  | .i8 => 13
  | .u8 => 14

/-- The ty and vb fields of a source of vcvt (R147). -/
def cvtSrcCode : CFmt → Nat × Nat
  | .f32 => (0, 0)
  | .bf16 => (1, 0)
  | .f16 => (2, 0)
  | .i32 => (3, 0)
  | .i16 => (4, 0)
  | .i8 => (5, 0)
  | .u8 => (6, 0)
  | .e4m3 => (7, 5)
  | .e5m2 => (7, 6)
  | .e3m2 => (7, 7)
  | .e2m3 => (7, 8)
  | .e2m1 => (7, 9)
  | .mxint8 | .aint4 | .aint8 => (7, 0)

/-- The ty and fn fields of a form of vpack or vunpk (R149, R150). -/
def PackForm.code : PackForm → Nat × Nat
  | .half ty h => (ty.code, h.toNat)
  | .byte uns q => (if uns then 6 else 5, q.toNat)
  | .raw w q => (7, w.toNat * 4 + q.toNat)

def amoFn (op : Nat) (w32 uns : Bool) : Nat := op + w32.toNat * 8 + uns.toNat * 16

/-- The words of a well-formed instruction; an event has none. The three forms of preempt share one word (R222). -/
def encode : Instr → Option Enc
  | .add d a b => some (rr 1 d.toNat a.toNat b.toNat 0x00)
  | .sub d a b => some (rr 1 d.toNat a.toNat b.toNat 0x01)
  | .and d a b => some (rr 1 d.toNat a.toNat b.toNat 0x02)
  | .or d a b => some (rr 1 d.toNat a.toNat b.toNat 0x03)
  | .xor d a b => some (rr 1 d.toNat a.toNat b.toNat 0x04)
  | .andn d a b => some (rr 1 d.toNat a.toNat b.toNat 0x05)
  | .sll d a b => some (rr 1 d.toNat a.toNat b.toNat 0x06)
  | .srl d a b => some (rr 1 d.toNat a.toNat b.toNat 0x07)
  | .sra d a b => some (rr 1 d.toNat a.toNat b.toNat 0x08)
  | .rol d a b => some (rr 1 d.toNat a.toNat b.toNat 0x09)
  | .ror d a b => some (rr 1 d.toNat a.toNat b.toNat 0x0A)
  | .mul d a b => some (rr 1 d.toNat a.toNat b.toNat 0x0B)
  | .mulh d a b => some (rr 1 d.toNat a.toNat b.toNat 0x0C)
  | .mulhu d a b => some (rr 1 d.toNat a.toNat b.toNat 0x0D)
  | .mulhsu d a b => some (rr 1 d.toNat a.toNat b.toNat 0x0E)
  | .div d a b => some (rr 1 d.toNat a.toNat b.toNat 0x0F)
  | .divu d a b => some (rr 1 d.toNat a.toNat b.toNat 0x10)
  | .rem d a b => some (rr 1 d.toNat a.toNat b.toNat 0x11)
  | .remu d a b => some (rr 1 d.toNat a.toNat b.toNat 0x12)
  | .min d a b => some (rr 1 d.toNat a.toNat b.toNat 0x13)
  | .max d a b => some (rr 1 d.toNat a.toNat b.toNat 0x14)
  | .minu d a b => some (rr 1 d.toNat a.toNat b.toNat 0x15)
  | .maxu d a b => some (rr 1 d.toNat a.toNat b.toNat 0x16)
  | .slt d a b => some (rr 1 d.toNat a.toNat b.toNat 0x17)
  | .sltu d a b => some (rr 1 d.toNat a.toNat b.toNat 0x18)
  | .seq d a b => some (rr 1 d.toNat a.toNat b.toNat 0x19)
  | .sel d a b => some (rr 1 d.toNat a.toNat b.toNat 0x1A)
  | .clz d a => some (rr 1 d.toNat a.toNat 0 0x1B)
  | .ctz d a => some (rr 1 d.toNat a.toNat 0 0x1C)
  | .popc d a => some (rr 1 d.toNat a.toNat 0 0x1D)
  | .brev d a => some (rr 1 d.toNat a.toNat 0 0x1E)
  | .bswap d a => some (rr 1 d.toNat a.toNat 0 0x1F)
  | .sextB d a => some (rr 1 d.toNat a.toNat 0 0x20)
  | .sextH d a => some (rr 1 d.toNat a.toNat 0 0x21)
  | .sextW d a => some (rr 1 d.toNat a.toNat 0 0x22)
  | .zextB d a => some (rr 1 d.toNat a.toNat 0 0x23)
  | .zextH d a => some (rr 1 d.toNat a.toNat 0 0x24)
  | .zextW d a => some (rr 1 d.toNat a.toNat 0 0x25)
  | .addi d a i => some (ri 0x02 d.toNat a.toNat i)
  | .andi d a i => some (ri 0x03 d.toNat a.toNat i)
  | .ori d a i => some (ri 0x04 d.toNat a.toNat i)
  | .xori d a i => some (ri 0x05 d.toNat a.toNat i)
  | .slli d a sh e => some (rx 0x06 d.toNat a.toNat sh.toNat e)
  | .srli d a sh e => some (rx 0x07 d.toNat a.toNat sh.toNat e)
  | .srai d a sh e => some (rx 0x08 d.toNat a.toNat sh.toNat e)
  | .roli d a sh e => some (rx 0x09 d.toNat a.toNat sh.toNat e)
  | .slti d a i => some (ri 0x0A d.toNat a.toNat i)
  | .sltiu d a i => some (ri 0x0B d.toNat a.toNat i)
  | .seqi d a i => some (ri 0x0C d.toNat a.toNat i)
  | .muli d a i => some (ri 0x0D d.toNat a.toNat i)
  | .bext d a pos w => some (ri0 0x0E d.toNat a.toNat (pos.toNat * 64 + w.toNat))
  | .bextu d a pos w => some (ri0 0x0F d.toNat a.toNat (pos.toNat * 64 + w.toNat))
  | .bins d a pos w => some (ri0 0x10 d.toNat a.toNat (pos.toNat * 64 + w.toNat))
  | .lea d a b sh => some (rr 0x1A d.toNat a.toNat b.toNat sh.toNat)
  | .movi d i => some (ri 0x1B d.toNat 0 i)
  | .movt d a i => some (ri 0x1C d.toNat a.toNat (.ext (i.setWidth 41)))
  | .lui d off => some (jf 0x1D d.toNat off.toNat)
  | .addpc d off => some (jf 0x1E d.toNat off.toNat)
  | .addpg d off => some (jf 0x1F d.toNat off.toNat)
  | .beq a b off => some (ri 0x20 a.toNat b.toNat off)
  | .bne a b off => some (ri 0x21 a.toNat b.toNat off)
  | .blt a b off => some (ri 0x22 a.toNat b.toNat off)
  | .bge a b off => some (ri 0x23 a.toNat b.toNat off)
  | .bltu a b off => some (ri 0x24 a.toNat b.toNat off)
  | .bgeu a b off => some (ri 0x25 a.toNat b.toNat off)
  | .jmp off => some (jf 0x26 0 off.toNat)
  | .jal d off => some (jf 0x27 d.toNat off.toNat)
  | .jalr d a i => some (ri 0x28 d.toNat a.toNat i)
  | .loop a off => some (ri 0x29 a.toNat 0 off)
  | .bany p off => some (ri 0x2A p.toNat 0 off)
  | .bnone p off => some (ri 0x2B p.toNat 0 off)
  | .ldb d a i => some (ri 0x30 d.toNat a.toNat i)
  | .ldbu d a i => some (ri 0x31 d.toNat a.toNat i)
  | .ldh d a i => some (ri 0x32 d.toNat a.toNat i)
  | .ldhu d a i => some (ri 0x33 d.toNat a.toNat i)
  | .ldw d a i => some (ri 0x34 d.toNat a.toNat i)
  | .ldwu d a i => some (ri 0x35 d.toNat a.toNat i)
  | .ldd d a i => some (ri 0x36 d.toNat a.toNat i)
  | .stb d a i => some (ri 0x37 d.toNat a.toNat i)
  | .sth d a i => some (ri 0x38 d.toNat a.toNat i)
  | .stw d a i => some (ri 0x39 d.toNat a.toNat i)
  | .std d a i => some (ri 0x3A d.toNat a.toNat i)
  | .vld v a i => some (ri 0x3B v.toNat a.toNat i)
  | .vst v a i => some (ri 0x3C v.toNat a.toNat i)
  | .vgather v a o sh => some (rr 0x3D v.toNat a.toNat o.toNat sh.toNat)
  | .vscatter v a o sh => some (rr 0x3E v.toNat a.toNat o.toNat sh.toNat)
  | .pf a i => some (ri 0x3F 0 a.toNat i)
  | .acqL d a i => some (ri 0x40 d.toNat a.toNat i)
  | .relL d a i => some (ri 0x41 d.toNat a.toNat i)
  | .amoAdd d a b w => some (rr 0x42 d.toNat a.toNat b.toNat (amoFn 0 w false))
  | .amoSwap d a b w => some (rr 0x42 d.toNat a.toNat b.toNat (amoFn 1 w false))
  | .amoCas d a b w => some (rr 0x42 d.toNat a.toNat b.toNat (amoFn 2 w false))
  | .amoMin d a b w u => some (rr 0x42 d.toNat a.toNat b.toNat (amoFn 3 w u))
  | .amoMax d a b w u => some (rr 0x42 d.toNat a.toNat b.toNat (amoFn 4 w u))
  | .amoAnd d a b w => some (rr 0x42 d.toNat a.toNat b.toNat (amoFn 5 w false))
  | .amoOr d a b w => some (rr 0x42 d.toNat a.toNat b.toNat (amoFn 6 w false))
  | .amoXor d a b w => some (rr 0x42 d.toNat a.toNat b.toNat (amoFn 7 w false))
  | .waitR d => some (rr 0x43 d.toNat 0 0 0)
  | .redAdd a b w => some (rr 0x44 0 a.toNat b.toNat (amoFn 0 w false))
  | .redMin a b w u => some (rr 0x44 0 a.toNat b.toNat (amoFn 1 w u))
  | .redMax a b w u => some (rr 0x44 0 a.toNat b.toNat (amoFn 2 w u))
  | .redAnd a b w => some (rr 0x44 0 a.toNat b.toNat (amoFn 3 w false))
  | .redOr a b w => some (rr 0x44 0 a.toNat b.toNat (amoFn 4 w false))
  | .redXor a b w => some (rr 0x44 0 a.toNat b.toNat (amoFn 5 w false))
  | .redFaddW a b => some (rr 0x44 0 a.toNat b.toNat (amoFn 6 true false))
  | .fence sc => some (ri0 0x45 0 0 sc.code)
  | .ldAcq d a i => some (ri 0x46 d.toNat a.toNat i)
  | .stRel d a i => some (ri 0x47 d.toNat a.toNat i)
  | .spawn d a q => some (rr 0x50 d.toNat a.toNat (q.toNat * 4) 0)
  | .spawnT d a q => some (rr 0x51 d.toNat a.toNat (q.toNat * 4) 0)
  | .quit d a b => some (rr 0x52 d.toNat a.toNat b.toNat 0)
  | .callat d a q => some (rr 0x53 d.toNat a.toNat (q.toNat * 4) 0)
  | .invoke d a q => some (rr 0x54 d.toNat a.toNat (q.toNat * 4) 0)
  | .invokeW d a q => some (rr 0x54 d.toNat a.toNat (q.toNat * 4) 1)
  | .invokeT d a q => some (rr 0x54 d.toNat a.toNat (q.toNat * 4) 2)
  | .reply d a b => some (rr 0x55 d.toNat a.toNat b.toNat 0)
  | .recv d a i => some (ri 0x56 d.toNat a.toNat i)
  | .abq d => some (rr 0x57 d.toNat 0 0 0)
  | .xfer d q port => some (ri0 0x58 d.toNat (q.toNat * 4) port.toNat)
  | .pcomp d q tile => some (ri0 0x59 d.toNat (q.toNat * 4) tile.toNat)
  | .syncSet a b => some (rr 0x5A 0 a.toNat b.toNat 0)
  | .syncArrive d a b => some (rr 0x5A d.toNat a.toNat b.toNat 1)
  | .syncWait d a b => some (rr 0x5A d.toNat a.toNat b.toNat 2)
  | .fetcht d job e => some (rx 0x5B d.toNat 0 job.toNat e)
  | .fetchtLd a job e => some (rx 0x5B 0 a.toNat (16 + job.toNat) e)
  | .fetchtQ d job e => some (rx 0x5B d.toNat 0 (32 + job.toNat) e)
  | .rlq d a b => some (rr 0x5C d.toNat a.toNat b.toNat 0)
  | .acpy a b => some (rr 0x5D 0 a.toNat b.toNat 0)
  | .srecv v port => some (ri0 0x60 v.toNat 0 port.toNat)
  | .ssend v b et => some (rr 0x61 0 v.toNat b.toNat et.code)
  | .smerge v va vb k => some (rr 0x62 v.toNat va.toNat vb.toNat k.toNat)
  | .ssplit v va w => some (ri0 0x63 v.toNat va.toNat w.toNat)
  | .sstop level => some (ri0 0x64 0 0 level.toNat)
  | .ssteer a => some (rr 0x65 0 a.toNat 0 0)
  | .speek d port => some (ri0 0x66 d.toNat 0 port.toNat)
  | .spred p port => some (ri0 0x67 p.toNat 0 port.toNat)
  | .rqpush ring v b => some (rr 0x68 ring.toNat v.toNat b.toNat 0)
  | .rqpop v ring b => some (rr 0x68 v.toNat ring.toNat b.toNat 1)
  | .esc d v node => some (ri0 0x69 d.toNat v.toNat node.toNat)
  | .escO d v node => some (ri0 0x69 d.toNat v.toNat (4 + node.toNat))
  | .ctxsw n => some (ri0 0x6A 0 0 n.toNat)
  | .mgPp => some (rr 0x6B 0 0 0 0)
  | .mgPe => some (rr 0x6B 0 0 0 1)
  | .mgEp => some (rr 0x6B 0 0 0 2)
  | .mgEe => some (rr 0x6B 0 0 0 3)
  | .mgGp => some (rr 0x6B 0 0 0 4)
  | .mgGe => some (rr 0x6B 0 0 0 5)
  | .mzero => some (rr 0x6C 0 0 0 0)
  | .mdrain a v => some (rr 0x6C 0 a.toNat v.toNat 1)
  | .mspx a b => some (rr 0x6D 0 a.toNat b.toNat 0)
  | .mspxN a b => some (rr 0x6D 0 a.toNat b.toNat 1)
  | .mdset i => some (ri 0x6E 0 0 i)
  | .mdadv d => some (rr 0x6F d.toNat 0 0 0)
  | .mdadvR d => some (rr 0x6F d.toNat 0 0 1)
  | .trap n => some (ri0 0x70 0 0 n.toNat)
  | .eret => some (rr 0x71 0 0 0 0)
  | .uret => some (rr 0x72 0 0 0 0)
  | .csrr d n => some (ri0 0x73 d.toNat 0 n.toNat)
  | .csrw n a => some (ri0 0x74 0 a.toNat n.toNat)
  | .wfi => some (rr 0x75 0 0 0 0)
  | .wfit a => some (rr 0x76 0 a.toNat 0 0)
  | .tlbi sc a b => some (rr 0x77 0 a.toNat b.toNat sc.code)
  | .icinv sc a b => some (rr 0x78 0 a.toNat b.toNat sc.code)
  | .ctxSave d a i => some (ri 0x79 d.toNat a.toNat i)
  | .ctxLoad d a i => some (ri 0x7A d.toNat a.toNat i)
  | .preemptHalt d a | .preemptTrap d a | .preemptResume d a => some (rr 0x7B d.toNat a.toNat 0 0)
  | .halt => some (rr 0x7C 0 0 0 0)
  | .vnop => some (vb 0 0 0 0 0 0 0)
  | .vadd p d a b ty => some (vb 0x01 p.toNat d.toNat a.toNat b.toNat ty.code 0)
  | .vsub p d a b ty => some (vb 0x02 p.toNat d.toNat a.toNat b.toNat ty.code 0)
  | .vmul p d a b ty => some (vb 0x03 p.toNat d.toNat a.toNat b.toNat ty.code 0)
  | .vfma p d a b ty => some (vb 0x04 p.toNat d.toNat a.toNat b.toNat ty.code 0)
  | .vmin p d a b ty => some (vb 0x05 p.toNat d.toNat a.toNat b.toNat ty.code 0)
  | .vmax p d a b ty => some (vb 0x06 p.toNat d.toNat a.toNat b.toNat ty.code 0)
  | .vabs p d a ty => some (vb 0x07 p.toNat d.toNat a.toNat 0 ty.code 0)
  | .vneg p d a ty => some (vb 0x08 p.toNat d.toNat a.toNat 0 ty.code 0)
  | .vdiv p d a b ty => some (vb 0x09 p.toNat d.toNat a.toNat b.toNat ty.code 0)
  | .vsqrt p d a ty => some (vb 0x0A p.toNat d.toNat a.toNat 0 ty.code 0)
  | .vrsqrt p d a ty => some (vb 0x0B p.toNat d.toNat a.toNat 0 ty.code 0)
  | .vrcp p d a ty => some (vb 0x0C p.toNat d.toNat a.toNat 0 ty.code 0)
  | .vexp2 p d a ty => some (vb 0x0D p.toNat d.toNat a.toNat 0 ty.code 0)
  | .vlog2 p d a ty => some (vb 0x0E p.toNat d.toNat a.toNat 0 ty.code 0)
  | .vcmpEq p pd a b ty => some (vb 0x0F p.toNat pd.toNat a.toNat b.toNat ty.code 0)
  | .vcmpNe p pd a b ty => some (vb 0x0F p.toNat pd.toNat a.toNat b.toNat ty.code 1)
  | .vcmpLt p pd a b ty => some (vb 0x0F p.toNat pd.toNat a.toNat b.toNat ty.code 2)
  | .vcmpLe p pd a b ty => some (vb 0x0F p.toNat pd.toNat a.toNat b.toNat ty.code 3)
  | .vcmpUn p pd a b ty => some (vb 0x0F p.toNat pd.toNat a.toNat b.toNat ty.code 4)
  | .vsel p d a b => some (vb 0x10 p.toNat d.toNat a.toNat b.toNat 7 0)
  | .vand p d a b => some (vb 0x11 p.toNat d.toNat a.toNat b.toNat 7 0)
  | .vor p d a b => some (vb 0x12 p.toNat d.toNat a.toNat b.toNat 7 0)
  | .vxor p d a b => some (vb 0x13 p.toNat d.toNat a.toNat b.toNat 7 0)
  | .vshl p d a b ty => some (vb 0x14 p.toNat d.toNat a.toNat b.toNat ty.code 0)
  | .vshr p d a b ty => some (vb 0x15 p.toNat d.toNat a.toNat b.toNat ty.code 0)
  | .vsra p d a b ty => some (vb 0x15 p.toNat d.toNat a.toNat b.toNat ty.code 1)
  | .vcvt p d a src dst rtz =>
    some (vb 0x16 p.toNat d.toNat a.toNat (cvtSrcCode src).2 (cvtSrcCode src).1 (dst.code * 2 + rtz.toNat))
  | .vpack d a b f => some (vb 0x17 0 d.toNat a.toNat b.toNat f.code.1 f.code.2)
  | .vunpk p d a f => some (vb 0x18 p.toNat d.toNat a.toNat 0 f.code.1 f.code.2)
  | .vredSum p d a ty => some (vb 0x19 p.toNat d.toNat a.toNat 0 ty.code 0)
  | .vredMin p d a ty => some (vb 0x19 p.toNat d.toNat a.toNat 0 ty.code 1)
  | .vredMax p d a ty => some (vb 0x19 p.toNat d.toNat a.toNat 0 ty.code 2)
  | .vperm p d a b => some (vb 0x1A p.toNat d.toNat a.toNat b.toNat 7 0)
  | .vbcast p d ty s => some (vb 0x1B p.toNat d.toNat 0 0 ty.code s.toNat)
  | .vmovs p d a dir lane ty s => some (vb 0x1C p.toNat d.toNat a.toNat (dir.toNat * 8 + lane.toNat) ty.code s.toNat)
  | .vscale p d a b ty => some (vb 0x1D p.toNat d.toNat a.toNat b.toNat ty.code 0)
  | .vquantS p d a b fmt => some (vb 0x1E p.toNat d.toNat a.toNat b.toNat 0 (fmt.code * 2))
  | .vquant p d a b fmt => some (vb 0x1E p.toNat d.toNat a.toNat b.toNat 0 (fmt.code * 2 + 1))
  | .vclass p d a ty => some (vb 0x1F p.toNat d.toNat a.toNat 0 ty.code 0)
  | .vgstep d a b => some (vb 0x20 0 d.toNat a.toNat b.toNat 7 0)
  | .vgmask p d a b => some (vb 0x21 p.toNat d.toNat a.toNat b.toNat 0 0)
  | .undBundle .. | .tlbWalk .. | .resultCommit .. | .windowForcedClose .. | .completionDiversion .. | .preemptHaltTaken ..
  | .threadWake .. | .wfitDeadline .. | .storePerform .. | .remoteAck .. | .combineWindowExpiry .. | .recordArrival ..
  | .rotundaAdmit .. | .recordPromotion .. | .taskConflictAbort .. | .taskPlainRestart .. | .taskCommit .. | .commandEntry ..
  | .busyRetry .. | .gateOpen .. | .transferStart .. | .transferWrite .. | .rangeLockRelease .. | .transferCompletion ..
  | .viaTransferFinish .. | .syncUpdateCycle .. | .syncCarryEval .. | .flitForward .. | .portTokenArrival ..
  | .streamerSend .. | .ringPlace .. | .placingAreaWrite .. | .inboundStreamerWrite .. | .converterFiring .. | .adderPair ..
  | .agenLoadToken .. | .agenStoreToken .. | .doneArrival .. | .matrixOpStart .. | .matrixOpEnd .. | .stallLimit ..
  | .contextSwitch .. | .configurationFlit .. | .spliceSwitch .. | .spliceMarker .. | .escapeReentry .. | .graphEnd ..
  | .faultNotice .. | .faultRecordWrite .. | .futureResolve .. | .compileStart .. | .compileEnd .. | .mailboxWrite ..
  | .invokeRetry .. | .invokeTimeout .. | .replyResend .. | .answerFrame .. | .packetReceive .. | .frameReceive ..
  | .retryRequest .. | .idleFrame .. | .frameForward .. | .portRetrain .. | .portDown .. | .downPortRetrain ..
  | .campanileSlew .. | .clockStretch .. | .powerGate .. | .blockWake .. | .bucketRefill | .effAdjust ..
  | .thermalShutdown .. | .coldReset | .phaseComplete .. | .pcieHotReset .. | .postingWrite .. | .spillDraw ..
  | .replyRingWrite .. | .replyRingRetry .. | .bar2Read .. | .bar2Write .. | .setWrite .. | .fqbaseWrite ..
  | .watchConfigWrite .. | .registerWrite .. | .graphLoad | .graphUnload | .verifyImage | .attestationReport | .jobStart
  | .jobEnd | .plannedRetirement .. | .failedRetirement .. | .supplyDroopEnd .. | .retrainComplete .. | .spdmRequest .. =>
    none

/-- Decodes the words of one instruction. -/
def decodeEnc : Enc → Except Reject Instr
  | .a w x => decodeA w x
  | .b w => decodeB w

/-- What the words of an instruction decode to: the operation of preempt stands in a register (R222). -/
def Instr.asDecoded : Instr → Instr
  | .preemptTrap d a => .preemptHalt d a
  | .preemptResume d a => .preemptHalt d a
  | i => i

/-- Slot A's nop, `or s0, s0, s0` (R79). -/
def nopA : SlotWord := 0x0400003#29

/-- The bundle of an instruction with lookahead `la`: a slot-A word beside vnop or its extension, a slot-B word beside
slot A's nop (R69, R70, R96). -/
def Enc.bundle (la : Nat) : Enc → Word
  | .a w none => BitVec.ofNat 64 (la * 2 ^ 60 + w.toNat * 2 ^ 29)
  | .a w (some x) => BitVec.ofNat 64 (la * 2 ^ 60 + 2 ^ 58 + w.toNat * 2 ^ 29 + x.toNat)
  | .b w => BitVec.ofNat 64 (la * 2 ^ 60 + nopA.toNat * 2 ^ 29 + w.toNat)

/-- The instruction that the decoder reads from a bundle whose bits are `w`: slot A's, or slot B's beside slot A's
nop. -/
def decodeTableWord (_nbits w : Nat) : Option Instr :=
  match decode (BitVec.ofNat 64 w) with
  | .error _ => none
  | .ok bu =>
    match bu.b with
    | none => some bu.a
    | some .vnop => some bu.a
    | some b => if slotA (BitVec.ofNat 64 w) = nopA then some b else some bu.a

end Sys2Proof
end

