-- ==== Sys2Proof/Machine/Operands.lean ====
section
/-!
DEFINITION. Operand forms: immediates (R71, R100), the registers of the unit whose bundle is in hand (R15 to R18), lanes
and predicates (R16, R17), and long results (R72, R279).
-/
namespace Sys2Proof.Machine

/-- immv: the form's immediate, sign-extended (R100). -/
def immv : Imm → Word
  | .pair v => v.signExtend 64
  | .ext v => v.signExtend 64

/-! ## Lanes (R16) -/

/-- Lane `i` of a vector register. -/
def lane (v : VWord) (i : Nat) : BitVec 32 := v.extractLsb' (32 * i) 32

/-- The vector register with the given lanes. -/
def ofLanes (f : Nat → BitVec 32) : VWord := f 7 ++ f 6 ++ f 5 ++ f 4 ++ f 3 ++ f 2 ++ f 1 ++ f 0

/-- The lanes of `new` that the mask names, and the lanes of `old` elsewhere (R17). -/
def mergeLanes (mask : PWord) (old new : VWord) : VWord :=
  ofLanes fun i => if mask.getLsbD i then lane new i else lane old i

/-! ## Register files -/

/-- A scalar register: s0 reads as zero (R15). -/
def Ctx.rS (c : Ctx) (r : SReg) : Word := if r = 0#5 then 0 else c.s[r.toNat]'(r.isLt)

/-- Writes a scalar register: a write to s0 is discarded (R15). -/
def Ctx.wS (c : Ctx) (r : SReg) (x : Word) : Ctx := if r = 0#5 then c else { c with s := c.s.set r.toNat x r.isLt }

/-- A vector register. -/
def Ctx.rV (c : Ctx) (r : VReg) : VWord := c.v[r.toNat]'(r.isLt)

/-- Writes a vector register. -/
def Ctx.wV (c : Ctx) (r : VReg) (x : VWord) : Ctx := { c with v := c.v.set r.toNat x r.isLt }

/-- A predicate register: p0 reads as 0xFF (R17). -/
def Ctx.rP (c : Ctx) (r : PReg) : PWord := if r = 0#3 then 0xFF#8 else c.p[r.toNat]'(r.isLt)

/-- Writes a predicate register: a write to p0 is discarded (R17). -/
def Ctx.wP (c : Ctx) (r : PReg) (x : PWord) : Ctx := if r = 0#3 then c else { c with p := c.p.set r.toNat x r.isLt }

/-- ORs flags into vflags (R31). -/
def Ctx.raiseFlags (c : Ctx) (f : BitVec 5) : Ctx := { c with vflags := c.vflags ||| f }

/-- Commits one result of the return buffer: the value to its register, the flags into vflags. A result that carries a
fault commits no value (R31, R134, R137, R279). -/
def Ctx.commit (c : Ctx) (p : Pending) : Ctx :=
  match p.fault with
  | some _ => c
  | none =>
    match p.dest with
    | .sreg r => c.wS r (p.val.setWidth 64)
    | .vreg r m => (c.wV r (mergeLanes m (c.rV r) p.val)).raiseFlags p.flags

/-- Commits results in issue order (R279, R280). -/
def Ctx.commitAll (c : Ctx) (ps : List Pending) : Ctx := ps.foldl Ctx.commit c

/-! ## The unit in hand -/

/-- The registers of the unit whose bundle is in hand. -/
def State.ctx (s : State) : Ctx :=
  match s.cur with
  | .thread g => (s.thread g).ctx
  | .core k => (s.tcore k).ctx

/-- Replaces them. -/
def State.setCtx (s : State) (c : Ctx) : State :=
  match s.cur with
  | .thread g => s.modThread g fun t => { t with ctx := c }
  | .core k => s.modTcore k fun t => { t with ctx := c }

/-- The registers as they stood before the bundle issued (R18). -/
def State.view (s : State) : Ctx := s.iss.view.getD s.ctx

def State.rS (s : State) (r : SReg) : Word := s.view.rS r
def State.rV (s : State) (r : VReg) : VWord := s.view.rV r
def State.rP (s : State) (r : PReg) : PWord := s.view.rP r

/-- Writes one scalar register. -/
def State.wS (s : State) (r : SReg) (x : Word) : State := s.setCtx (s.ctx.wS r x)
/-- Writes the whole of a vector register. -/
def State.wV (s : State) (r : VReg) (x : VWord) : State := s.setCtx (s.ctx.wV r x)
/-- Writes the lanes of a vector register that the mask names: a lane whose bit is 0 keeps its old value (R17),
or the one that slot A of the bundle has written, which R18 does not settle (log 109). -/
def State.wVm (s : State) (r : VReg) (mask : PWord) (x : VWord) : State :=
  s.setCtx (s.ctx.wV r (mergeLanes mask (s.ctx.rV r) x))
/-- Writes a predicate register. -/
def State.wP (s : State) (r : PReg) (x : PWord) : State := s.setCtx (s.ctx.wP r x)
/-- ORs flags into the unit's vflags (R31). -/
def State.orFlags (s : State) (f : BitVec 5) : State := s.setCtx (s.ctx.raiseFlags f)

/-- Word `k` of the quad whose base is 4 times `q` (R74). -/
def quadReg (q : Quad) (k : Nat) : SReg := BitVec.ofNat 5 (q.toNat * 4 + k)
def State.quad (s : State) (q : Quad) : List Word := [0, 1, 2, 3].map fun k => s.rS (quadReg q k)

/-- A bundle address as pc and the registers beside it hold it: bits 51:3, the others zero (R13, R32, R36). -/
def bundleAddr (x : Word) : Word := wd (bits x 3 49 * 8)

/-- pc of the bundle in hand. -/
def State.pc (s : State) : Word := s.ctx.pc

/-- Makes an address the next that this unit issues (R107). -/
def State.jump (s : State) (a : Word) : State := { s with iss := { s.iss with npc := some a } }

/-- Enters a result of a long form into the return buffer; its window is the next LA bundles (R72, R279). -/
def State.long (s : State) (p : Pending) : State :=
  s.setCtx { s.ctx with pend := s.ctx.pend ++ [{ p with left := s.iss.la }] }

/-- A long scalar result that has arrived. -/
def State.longS (s : State) (d : SReg) (x : Word) : State :=
  s.long { dest := .sreg d, left := 0, ready := true, val := x.setWidth 256 }

/-- A long vector result that has arrived, for the lanes of a mask, with its flags (R137). -/
def State.longV (s : State) (d : VReg) (mask : PWord) (x : VWord) (flags : BitVec 5) : State :=
  s.long { dest := .vreg d mask, left := 0, ready := true, val := x, flags := flags }

/-- The block of the unit in hand. -/
def State.curBlk (s : State) : Nat :=
  match s.cur with
  | .thread g => unitBlk g
  | .core k => unitBlk k

/-- Whether the unit in hand is a tile core (R20). -/
def State.inTile (s : State) : Bool :=
  match s.cur with
  | .thread _ => false
  | .core _ => true

/-- Whether the thread in hand runs at supervisor privilege; tile cores have no privilege (R21, R22). -/
def State.isSv (s : State) : Bool :=
  match s.cur with
  | .thread g => (s.thread g).sv
  | .core _ => false

/-- The thread in hand; slot 0 when the unit is a tile core. -/
def State.curThread (s : State) : Nat :=
  match s.cur with
  | .thread g => g
  | .core _ => 0

/-- The compute core in hand; core 0 when the unit is a thread. -/
def State.curCore (s : State) : Nat :=
  match s.cur with
  | .thread _ => 0
  | .core k => k

/-- status and estat (R27). -/
def statusWord (spec inuh uie sv tile : Bool) : Word :=
  wd (spec.toNat * 128 + inuh.toNat * 32 + uie.toNat * 16 + sv.toNat * 2 + tile.toNat)

/-- status of a thread. -/
def Thread.status (t : Thread) : Word := statusWord t.spec t.inuh t.uie t.sv false

/-- xfid, from the completion being handled (R32). -/
def Completion.xfid (c : Completion) : Word := wd (c.xst.toNat * 65536 + c.id.toNat)

end Sys2Proof.Machine
end

