-- ==== Sys2Proof/Machine/Image.lean ====
section
/-!
DEFINITION. The context image of a swarm thread: its 2,048 bytes (R226), and what ctx.load reads from them or refuses
(R227).
-/
namespace Sys2Proof.Machine

/-- `n` zero bytes. -/
def zeros (n : Nat) : List Byte := List.replicate n 0

/-- The kind code of a store entry (R226): 0 store, 1 st.rel, 2 to 8 the red forms by fn[2:0] + 2. -/
def SbKind.code : SbKind → Nat
  | .plain => 0
  | .rel => 1
  | .red op _ _ =>
    match op with
    | .add => 2
    | .min => 3
    | .max => 4
    | .and => 5
    | .or => 6
    | .xor => 7
    | .fadd => 8

def SbKind.w32 : SbKind → Bool
  | .red _ w _ => w
  | .plain | .rel => false

def SbKind.uns : SbKind → Bool
  | .red _ _ u => u
  | .plain | .rel => false

/-- The kind of a code. -/
def sbKindOf (code : Nat) (w32 uns : Bool) : Option SbKind :=
  match code with
  | 0 => some .plain
  | 1 => some .rel
  | 2 => some (.red .add w32 uns)
  | 3 => some (.red .min w32 uns)
  | 4 => some (.red .max w32 uns)
  | 5 => some (.red .and w32 uns)
  | 6 => some (.red .or w32 uns)
  | 7 => some (.red .xor w32 uns)
  | 8 => some (.red .fadd w32 uns)
  | _ => none

/-- A store entry of 48 bytes; the model's entries have not been performed, so none is drained (R225, R226). -/
def SbEntry.bytes (e : SbEntry) : List Byte :=
  leBytes 8 e.va.toNat ++
  leBytes 8 (e.size + e.kind.code * 256 + e.kind.w32.toNat * 4096 + e.kind.uns.toNat * 8192) ++
  leBytes 32 e.data.toNat

def Completion.bytes (c : Completion) : List Byte :=
  leBytes 8 (c.id.toNat + c.xst.toNat * 65536) ++ leBytes 8 c.hnd.toNat

def Resv.bytes (r : Resv) : List Byte := leBytes 8 (r.va / 64 * 64 + r.lost.toNat)

/-- The context image of a thread (R226). The rotunda's encoding of a group is its number plus one, and
above it the place of an ordered task in its arbiter (log 11). -/
def Thread.image (t : Thread) : List Byte :=
  leBytes 8 (1 + t.sb.length * 2 ^ 16 + t.comps.length * 2 ^ 24 + t.resv.length * 2 ^ 28 +
    t.lkl.isSome.toNat * 2 ^ 31 + (t.lkl.getD 0).toNat * 2 ^ 32) ++
  leBytes 8 t.ctx.pc.toNat ++
  ([t.status.toNat, t.prio.toNat, t.ticket.toNat, t.tsval.toNat, t.ctx.vrm.toNat, t.ctx.vflags.toNat, t.xfid.toNat,
    t.xfh.toNat, t.xfpend.toNat, t.epc.toNat, t.ecause.toNat, t.eval.toNat, t.estat.toNat, t.ehand.toNat,
    t.escr.toNat].flatMap (leBytes 8)) ++
  (0xFF#8 :: ((t.ctx.p.toList.drop 1))) ++
  leBytes 14 (t.group.elim 0 (fun i => i + 1) + 2 ^ 56 * t.task.elim 0 (fun k => k.1 + 128 * (k.2 + 1))) ++
  leBytes 2 (t.stack.getD 0xFFFF) ++
  zeros 96 ++
  (zeros 8 ++ ((t.ctx.s.toList.drop 1).flatMap fun x => leBytes 8 x.toNat)) ++
  (t.ctx.v.toList.flatMap fun x => leBytes 32 x.toNat) ++
  ((t.comps.flatMap Completion.bytes) ++ zeros (16 * (8 - t.comps.length))) ++
  ((t.resv.flatMap Resv.bytes) ++ zeros (8 * (4 - t.resv.length))) ++
  zeros 96 ++
  ((t.sb.flatMap SbEntry.bytes) ++ zeros (48 * (16 - t.sb.length)))

/-- A bundle address (R13): bits 63:52 and 2:0 zero. -/
def okAddr (a : Word) : Bool := bits a 52 12 == 0 && bits a 0 3 == 0

/-- Whether the size of a store entry fits its kind (R226). -/
def okSize (size : Nat) (k : SbKind) : Bool :=
  match k with
  | .plain => size == 1 || size == 2 || size == 4 || size == 8 || size == 32
  | .rel => size == 8
  | .red _ w _ => size == (if w then 4 else 8)

/-- One store entry of an image: none when malformed, `some none` when drained. -/
def readSbEntry (l : List Byte) (i : Nat) : Option (Option SbEntry) :=
  let off := 0x500 + 48 * i
  let va := wd (leAt l off 8)
  let w := leAt l (off + 8) 8
  let size := bitsN w 0 6
  match sbKindOf (bitsN w 8 4) (bitsN w 12 1 == 1) (bitsN w 13 1 == 1) with
  | none => none
  | some k =>
    if okSize size k && bitsN w 6 2 == 0 && bitsN w 15 49 == 0 && bits va 52 12 == 0 && va.toNat % size == 0 then
      if bitsN w 14 1 == 1 then some none
      else some (some { va := va, size := size, kind := k, data := BitVec.ofNat 256 (leAt l (off + 16) 32),
                        phys := { pa := 0, home := .dram, sw := false } })
    else none

/-- The store entries of an image: none when one is malformed. -/
def readSb (l : List Byte) : Nat → Nat → Option (List SbEntry)
  | _, 0 => some []
  | i, n + 1 =>
    match readSbEntry l i, readSb l (i + 1) n with
    | some (some e), some r => some (e :: r)
    | some none, some r => some r
    | _, _ => none

/-- One queued completion of an image. -/
def readComp (l : List Byte) (i : Nat) : Option Completion :=
  let off := 0x400 + 16 * i
  let w := leAt l off 8
  let h := wd (leAt l (off + 8) 8)
  if bitsN w 24 40 == 0 && okAddr h then
    some { id := BitVec.ofNat 16 w, xst := BitVec.ofNat 8 (bitsN w 16 8), hnd := h }
  else none

def readComps (l : List Byte) : Nat → Nat → Option (List Completion)
  | _, 0 => some []
  | i, n + 1 =>
    match readComp l i, readComps l (i + 1) n with
    | some c, some r => some (c :: r)
    | _, _ => none

/-- The reservation lines of an image, every one marked lost (R121, R225). -/
def readResv (l : List Byte) (n : Nat) : List Resv :=
  (List.range n).map fun i => { va := leAt l (0x480 + 8 * i) 8 / 64 * 64, pa := 0, lost := true }

def okResv (l : List Byte) (n : Nat) : Bool :=
  (List.range n).all fun i =>
    bitsN (leAt l (0x480 + 8 * i) 8) 1 5 == 0

/-- Whether every reserved byte is zero (R226). -/
def okReserved (l : List Byte) : Bool := ((l.drop 0xA0).take 96).all (· == 0) &&
  ((l.drop 0x4A0).take 96).all (· == 0)

/-- The thread that an image describes, halted, without the translations of its pending stores and without its group:
none when R227 refuses the image for its own layout. The group link is answered beside it: the number less one. -/
def readImage (l : List Byte) : Option (Thread × Option Nat) :=
  let h := leAt l 0 8
  let n := bitsN h 16 5
  let c := bitsN h 24 4
  let r := bitsN h 28 3
  let reg (i : Nat) : Word := wd (leAt l (0x10 + 8 * i) 8)
  let st := reg 0
  let pc := wd (leAt l 8 8)
  let stack := leAt l 0x9E 2
  let link := leAt l 0x90 14
  let lkl := bitsN h 31 1 == 1
  let okHead := bitsN h 0 16 == 1 && bitsN h 21 3 == 0 && bitsN h 36 28 == 0 && (lkl || bitsN h 32 4 == 0)
  let okCounts := decide (n ≤ 16) && decide (c ≤ 8) && decide (r ≤ 4)
  let okMode := bits st 0 1 == 0 && bits st 7 1 == 0
  let okPcs := okAddr pc && okAddr (reg 9) && okAddr (reg 13) && okAddr (reg 7)
  if okHead && okCounts && okMode && okPcs && okReserved l && okResv l r then
    match readSb l 0 n, readComps l 0 c with
    | some sb, some comps =>
      let ctx : Ctx :=
        { pc := pc
          s := Vector.ofFn fun i : Fin 32 => if i.val = 0 then 0 else wd (leAt l (0x100 + 8 * i.val) 8)
          v := Vector.ofFn fun i : Fin 16 => BitVec.ofNat 256 (leAt l (0x200 + 32 * i.val) 32)
          p := Vector.ofFn fun i : Fin 8 => if i.val = 0 then 0 else BitVec.ofNat 8 (leAt l (0x88 + i.val) 1)
          vrm := BitVec.ofNat 2 (bits (reg 4) 0 2)
          vflags := BitVec.ofNat 5 (bits (reg 5) 0 5)
          pend := [] }
      some ({ run := .halted, ctx := ctx, spec := false, inuh := bit st 5, uie := bit st 4, sv := bit st 1
              prio := BitVec.ofNat 2 (bits (reg 1) 0 2), ticket := BitVec.ofNat 32 (bits (reg 2) 0 32), tsval := reg 3
              xfid := wd (bits (reg 6) 0 24), xfh := reg 7, xfpend := reg 8, epc := reg 9
              ecause := wd (bits (reg 10) 0 10), eval := reg 11, estat := wd (bits (reg 12) 0 8) &&& 0xB3#64
              ehand := reg 13, escr := reg 14, sb := sb, resv := readResv l r, comps := comps
              lkl := if lkl then some (BitVec.ofNat 4 (bitsN h 32 4)) else none
              task := if link / 2 ^ 56 = 0 then none else some (link / 2 ^ 56 % 128, link / 2 ^ 56 / 128 - 1)
              stack := if stack = 0xFFFF then none else some stack },
            if link = 0 then none else some (link % 2 ^ 56 - 1))
    | _, _ => none
  else none

end Sys2Proof.Machine
end

