-- ==== Sys2Proof/Machine/Walk.lean ====
section
/-!
DEFINITION. Page tables: the address space (R298), leaves and their placement (R297, R299), the walk (R300), and what the bits of a
leaf let an access do (R301).
-/
namespace Sys2Proof.Machine

/-! ## Causes (R37) -/

def cUND : BitVec 8 := 0x01
def cPRIV : BitVec 8 := 0x02
def cALIGN : BitVec 8 := 0x03
def cPAGE_NP : BitVec 8 := 0x04
def cPAGE_PERM : BitVec 8 := 0x05
def cRLOCK : BitVec 8 := 0x06
def cRESV_LOST : BitVec 8 := 0x07
def cORDER : BitVec 8 := 0x08
def cINVQ_FULL : BitVec 8 := 0x09
def cSTALL_LIMIT : BitVec 8 := 0x0A
def cECC : BitVec 8 := 0x0B
def cLINK_LOST : BitVec 8 := 0x0C
def cSEAL : BitVec 8 := 0x0D
def cHANDLER_FAULT : BitVec 8 := 0x0E
def cPREEMPT : BitVec 8 := 0x0F

/-! ## Leaves (R297, R298) -/

def leafV (e : Word) : Bool := bit e 0
def leafR (e : Word) : Bool := bit e 1
def leafW (e : Word) : Bool := bit e 2
def leafX (e : Word) : Bool := bit e 3
def leafU (e : Word) : Bool := bit e 4
def leafG (e : Word) : Bool := bit e 5
def leafA (e : Word) : Bool := bit e 6
def leafD (e : Word) : Bool := bit e 7
def leafHashed (e : Word) : Bool := bit e 8
def leafLocal (e : Word) : Bool := bit e 9
def leafSW (e : Word) : Bool := bit e 10
def leafRM (e : Word) : Bool := bit e 11
def leafSeal (e : Word) : Bool := bit e 12
def leafFrame (e : Word) : Nat := bits e 16 32 * 65536
def leafRdev (e : Word) : Nat := bits e 48 10

/-- The home of a physical address that exists (R298). -/
def homeOf (pa : Nat) : Option Home :=
  if pa < 2 ^ 41 then (if pa % 2 ^ 37 < 96 * 2 ^ 30 then some .dram else none)
  else if 0x800000000000 ≤ pa ∧ pa < 0xA00000000000 then some .host
  else if 0xF00000000000 ≤ pa ∧ pa < 0xF00100000000 then some .aperture
  else if 0xF10000000000 ≤ pa ∧ pa < 0xF10000100000 then some .regs
  else none

/-- The size of a page at a level, as a power of two (R296). -/
def pageLog (level : Nat) : Nat := if level = 1 then 34 else if level = 2 then 25 else 16

/-- A malformed leaf (R300). -/
def malformedLeaf (e : Word) (level : Nat) : Bool :=
  let h := homeOf (leafFrame e)
  let dram := h == some .dram
  bits e 58 6 != 0 || bits e 13 3 != 0 ||
  leafFrame e % 2 ^ pageLog level != 0 ||
  (leafW e && !leafR e) ||
  (leafRdev e != 0 && !leafRM e) ||
  (if dram then leafHashed e == leafLocal e else leafHashed e || leafLocal e) ||
  h == none ||
  (leafRM e && !dram)

/-- Which field and block home a line of DRAM (R299). -/
def lineHome (e : Word) (a : Nat) : Nat × Nat :=
  let blk := bitsN a 10 3 ^^^ bitsN a 13 3 ^^^ bitsN a 20 3
  let fld := if leafLocal e then bitsN a 37 4 else bitsN a 37 4 ^^^ bitsN a 6 4 ^^^ bitsN a 16 4 ^^^ bitsN a 26 4
  (fld, blk)

/-- Where a line of a HASHED frame lies (R299): bits 40:37 name its home field. The same function leads back. -/
def hashAddr (a : Nat) : Nat :=
  a - bitsN a 37 4 * 2 ^ 37 + (bitsN a 37 4 ^^^ bitsN a 6 4 ^^^ bitsN a 16 4 ^^^ bitsN a 26 4) * 2 ^ 37

/-- The place of the byte `k` bytes on in the same page. -/
def Phys.plus (p : Phys) (k : Nat) : Phys :=
  { p with pa := if p.hash then hashAddr (hashAddr p.pa + k) else p.pa + k }

/-- The places of `n` bytes, cut at lines where lines are spread: offset and bytes. -/
def Phys.spans (p : Phys) (n : Nat) : List (Nat × Nat) :=
  if p.hash && decide (p.pa % 64 + n > 64) then
    (0, 64 - p.pa % 64) :: (List.range ((p.pa % 64 + n - 1) / 64)).map fun i =>
      (64 * (i + 1) - p.pa % 64, min 64 (n - (64 * (i + 1) - p.pa % 64)))
  else [(0, n)]

/-- Its address in the frame. -/
def Phys.linear (p : Phys) : Nat := if p.hash then hashAddr p.pa else p.pa

/-- The address that a request to another device carries: its bit 48 says that lines are spread (log 10). -/
def Phys.wire (p : Phys) : Nat := p.pa + p.hash.toNat * 2 ^ 48

/-! ## The walk (R300) -/

/-- How a walk ends: with a leaf, its level and its address, or not. -/
inductive WalkRes where
  | leaf (e : Word) (level addr : Nat)
  | err (w : WalkErr)
  deriving DecidableEq, Repr

/-- The walk from a table at a level, over the levels that are left. -/
def walkFrom (s : State) (va : Nat) : List Nat → Nat → WalkRes
  | [], _ => .err .malformed
  | l :: ls, t =>
    let a := t + 8 * bitsN va (43 - 9 * l) 9
    let e := wd (s.peek a 8)
    if !leafV e then .err .notPresent
    else if !leafR e && !leafW e && !leafX e then
      if l = 3 ∨ bits e 48 16 ≠ 0 ∨ bits e 1 11 ≠ 0 then .err .malformed
      else walkFrom s va ls (bits e 12 36 * 4096)
    else if l = 0 ∨ malformedLeaf e l = true then .err .malformed
    else .leaf e l a

/-- The walk of a virtual address, without its update of A and D. -/
def State.walk (s : State) (va : Nat) : WalkRes := walkFrom s va [0, 1, 2, 3] s.dev.ptroot.toNat

/-! ## What a leaf lets an access do -/

/-- Forms that some homes refuse with PAGE_PERM: acq.l on RM pages, host memory and the aperture (R122, R293), amo and
red on host memory and the aperture (R126, R135, R293), ld.acq and st.rel on the aperture (R293). -/
inductive NeedForm where
  | any | resv | atomic | ordered
  deriving DecidableEq, Repr

def NeedForm.refuses : NeedForm → Home → Bool
  | .any, _ => false
  | .resv, h => match h with
    | .host | .remote _ | .aperture => true
    | .dram | .regs => false
  | .atomic, h => match h with
    | .host | .aperture => true
    | .remote _ | .dram | .regs => false
  | .ordered, h => match h with
    | .aperture => true
    | .host | .remote _ | .dram | .regs => false

/-- What an access needs of its translation: reading, writing and fetching, and the privilege it has (R112, R301). -/
structure Need where
  rd : Bool
  wr : Bool
  ex : Bool
  sv : Bool
  form : NeedForm := .any
  deriving DecidableEq, Repr

def Need.kind (n : Need) : Access := if n.ex then .fetch else if n.wr then .write else .read

/-- A translated access: where it goes, or the cause it meets. -/
inductive Leafed where
  | ok (p : Phys)
  | bad (cause : BitVec 8)
  deriving DecidableEq, Repr

/-- Whether a tile exists (R8, R370). -/
def State.tileExists (s : State) (t : Nat) : Bool := (s.blk (t / 32)).tsite.getD (t % 32) 255 != 255

/-- Whether a swarm core exists (R8, R370). -/
def State.coreExists (s : State) (c : Nat) : Bool := (s.blk (c / 16)).csite.getD (c % 16) 255 != 255

/-- Whether an aperture page may be mapped (R292): a 64 KiB page of the general area of a tile that exists. -/
def State.apertureOk (s : State) (pa level : Nat) : Bool :=
  decide (level = 3) && decide (pa % 2 ^ 20 < 0x80000) && s.tileExists (bitsN pa 28 4 * 256 + bitsN pa 25 3 * 32 + bitsN pa 20 5)

/-- The host port of a host address (R298). -/
def hostPortOf (pa : Nat) : Nat := (pa - 0x800000000000) / 2 ^ 44

/-- Applies the bits of a leaf to an access (R112, R292, R298, R299, R301, R414): PAGE_PERM before SEAL (R304). A large page may reach
addresses where there is nothing. -/
def State.useLeaf (s : State) (e : Word) (level va : Nat) (n : Need) : Leafed :=
  let pa := leafFrame e + va % 2 ^ pageLog level
  match homeOf pa with
  | none => .bad cPAGE_PERM
  | some h =>
    let home := if leafRM e && leafRdev e != s.dev.devnum then Home.remote (leafRdev e) else h
    if (n.rd && !leafR e) || (n.wr && !leafW e) || (n.ex && !leafX e) || (!n.sv && !leafU e) then .bad cPAGE_PERM
    else if home == .regs && leafU e then .bad cPAGE_PERM
    else if home == .aperture && !s.apertureOk pa level then .bad cPAGE_PERM
    else if n.form.refuses home || (n.form == .resv && leafRM e) then .bad cPAGE_PERM
    else if !s.dev.sealed && leafSeal e then .bad cSEAL
    else if s.dev.sealed && home == .host && !(s.hostPort (hostPortOf pa)).ide then .bad cSEAL
    else .ok { pa := if leafHashed e then hashAddr pa else pa, home := home, sw := leafSW e, hash := leafHashed e, rm := leafRM e }


/-! ## Accesses of hosts and the belvedere (R404, R407, R408) -/

/-- A translation with the rights of user privilege that also refuses SEAL pages, the register page and the tile aperture, and
the leaf and its address. -/
def State.hostLeaf (s : State) (va : Nat) (rd wr : Bool) : Option (Phys × Word × Nat) :=
  if va ≥ 2 ^ 52 then none
  else
    match s.walk va with
    | .err _ => none
    | .leaf e l a =>
      if leafSeal e then none
      else
        match s.useLeaf e l va { rd := rd, wr := wr, ex := false, sv := false } with
        | .bad _ => none
        | .ok p => if p.home = .regs ∨ p.home = .aperture then none else some (p, e, a)

end Sys2Proof.Machine
end

