-- ==== Sys2Proof/Machine/Mesh.lean ====
section
/-!
DEFINITION. Flits (R86 to R89), and the mesh as a place: routers and the units attached to them (R246, R369, R370), link
buffers (R249), and where the routers and the fault units of the fields take fault notices (R309).
-/
namespace Sys2Proof.Machine

/-! ## Flits (R86 to R89) -/

/-- A header from its fields; vc follows from the kind (R87). -/
def mkHdr (kind len stop route steer seq etype ks : Nat) : Word :=
  let vc := if kind = 1 ∨ kind = 2 ∨ kind = 4 then 1 else if kind = 3 ∨ kind = 5 then 2 else if kind ≥ 6 then 3 else 0
  wd (kind * 2 ^ 60 + vc * 2 ^ 58 + len * 2 ^ 55 + stop * 2 ^ 52 + route * 2 ^ 40 + steer * 2 ^ 34 + seq * 2 ^ 18 +
    etype * 2 ^ 14 + ks)

def hKind (h : Word) : Nat := bits h 60 4
def hVc (h : Word) : Nat := bits h 58 2
def hLen (h : Word) : Nat := bits h 55 3
def hStop (h : Word) : Nat := bits h 52 3
def hRoute (h : Word) : Nat := bits h 40 12
def hSteer (h : Word) : Nat := bits h 34 6
def hSeq (h : Word) : Nat := bits h 18 16
def hEtype (h : Word) : Nat := bits h 14 4
def hKs (h : Word) : Nat := bits h 0 14

/-- The vc that a kind fixes (R87). -/
def vcOfKind (k : Nat) : Nat :=
  if k = 1 ∨ k = 2 ∨ k = 4 then 1 else if k = 3 ∨ k = 5 then 2 else if k = 0 then 0 else 3

/-- A flit as the 320 bits of a frame's body. -/
def Flit.body (f : Flit) : BitVec 320 := f.pay ++ f.hdr
def flitOf (b : BitVec 320) : Flit := { hdr := b.setWidth 64, pay := (b >>> 64).setWidth 256 }

/-! ## Routers (R246, R369) -/

def routerAt (x y : Nat) : Nat := 96 * y + x
def routerX (r : Nat) : Nat := r % 96
def routerY (r : Nat) : Nat := r / 96

/-- The first column and row of a block's routers. -/
def blkX (b : Nat) : Nat := 24 * (b / 8 % 4) + 3 * (b % 8)
def blkY (b : Nat) : Nat := 18 * (b / 8 / 4)

/-- The routers of a physical tile site and of a physical core site. -/
def tileSiteRouter (b p : Nat) : Nat := routerAt (blkX b + p % 2) (blkY b + p / 2)
def coreSiteRouter (b q : Nat) : Nat := routerAt (blkX b + 2) (blkY b + q)

/-- The router of a named tile, at its bound site (R372). -/
def State.tileRouter (s : State) (t : Nat) : Nat := tileSiteRouter (t / 32) ((s.blk (t / 32)).tsite.getD (t % 32) 255)

/-- The routers of memory port `m`, converter position `c`, and the request ports of block `b`. -/
def memRouter (m : Nat) : Nat := tileSiteRouter (m / 8) (4 * (m % 8) + 1)
def convRouter (c : Nat) : Nat := tileSiteRouter (c / 4) (9 * (c % 4) + 8)
def xqRouter (b : Nat) : Nat := coreSiteRouter b 8

/-- The block of a router. -/
def routerBlk (r : Nat) : Nat := routerY r / 18 * 32 + routerX r / 24 * 8 + routerX r % 24 / 3

/-- Whether a router is dead (R370): that of a tile site or of a core site. -/
def State.routerDead (s : State) (r : Nat) : Bool :=
  let b := routerBlk r
  if routerX r % 3 = 2 then (s.blk b).cdead.getLsbD (routerY r % 18)
  else (s.blk b).tdead.getLsbD (2 * (routerY r % 18) + routerX r % 3)

/-! ## Link buffers (R249) -/

def dirNum : Dir → Nat
  | .inject => 0
  | .east => 1
  | .west => 2
  | .north => 3
  | .south => 4

/-- The key of the buffer in which router `r` holds the flits of one channel that came from one side. -/
def linkKey (r : Nat) (d : Dir) (vc : Nat) : Nat := (5 * r + dirNum d) * 4 + vc

def State.link (s : State) (r : Nat) (d : Dir) (vc : Nat) : List Flit := Tab.get [] s.mesh.links (linkKey r d vc)
def State.setLink (s : State) (r : Nat) (d : Dir) (vc : Nat) (l : List Flit) : State :=
  { s with mesh := { s.mesh with links := Tab.set [] s.mesh.links (linkKey r d vc) l } }

/-- Whether a buffer takes one more flit. -/
def State.linkRoom (s : State) (r : Nat) (d : Dir) (vc : Nat) : Bool := decide ((s.link r d vc).length ≤ Config.linkDepth)

/-- A unit at router `r` puts a flit into the mesh. -/
def State.inject (s : State) (r : Nat) (f : Flit) : State :=
  s.setLink r .inject (hVc f.hdr) (s.link r .inject (hVc f.hdr) ++ [f])

/-! ## The ways of fault notices (R309) -/

/-- The router of a field's fault unit, in its field: R369 gives it no place (log 112). -/
def faultRouter (f : Nat) : Nat :=
  routerAt (blkX (8 * f) + Config.faultPlace f % 24) (blkY (8 * f) + Config.faultPlace f / 24 % 18)

/-- The router of the unit that a fault record names (R308). -/
def State.unitRouter (s : State) (u : Nat) : Nat :=
  let b := u / 4096 * 8 + u / 256 % 8
  let i := u % 32
  match u / 32 % 8 with
  | 2 => memRouter (8 * b + i)
  | 3 => convRouter (4 * b + i)
  | 4 => xqRouter b
  | _ => s.tileRouter (32 * b + i)

/-- The next direction of dimension order from a router to another: along its row, and then along its column. -/
def dimStep (r w : Nat) : Option Dir :=
  if routerX r < routerX w then some .east else if routerX w < routerX r then some .west
  else if routerY r < routerY w then some .south else if routerY w < routerY r then some .north else none

end Sys2Proof.Machine
end

