-- ==== Sys2Proof/Machine/Home.lean ====
section
/-!
DEFINITION. Fault records (R306 to R309), sync words (R270, R271), the device register page (R305,
R358, R370, R381, R408, R418), and what a write performed at a home does (R113, R121, R345, R360).
-/
namespace Sys2Proof.Machine

/-! ## Fault records (R306 to R309, R317) -/

/-- Hands a record to a field's fault unit (R306). -/
def State.addRec (s : State) (f : Nat) (r : FRec) : State := s.modField f fun x => { x with recs := x.recs ++ [r] }

/-- Word 0 of a fault record (R307). -/
def FRec.head (r : FRec) : Nat :=
  r.unit.toNat + r.sub % 8 * 2 ^ 16 + r.route % 4096 * 2 ^ 24 + r.halt.toNat * 2 ^ 46 + r.fent.isSome.toNat * 2 ^ 47 +
    r.cause.toNat * 2 ^ 48

/-- The 64 bytes of a fault record (R307). -/
def FRec.bytes (r : FRec) (seq : Nat) : List Byte :=
  leBytes 8 r.head ++ leBytes 8 r.va.toNat ++ leBytes 8 r.pos.toNat ++ leBytes 8 r.time.toNat ++ leBytes 8 r.ticket.toNat ++
    leBytes 8 ((r.fent.getD 0) % 65536) ++ leBytes 8 r.aux.toNat ++ leBytes 8 seq

/-- The flit of a fault notice (R87, R89): vc3, the cause in ks, and the first 32 bytes of its record. -/
def noticeFlit (r : FRec) : Flit :=
  { hdr := wd (8 * 2 ^ 60 + 3 * 2 ^ 58 + r.cause.toNat), pay := BitVec.ofNat 256 (leNat ((r.bytes 0).take 32)) }

/-- Sends a fault notice from a router towards a field's fault unit: its flit enters the mesh on vc3 (R309). -/
def State.noticeFrom (s : State) (router f : Nat) (r : FRec) : State :=
  (s.modField f fun x => { x with notices := x.notices ++ [{ flit := noticeFlit r, what := r }] }).inject router (noticeFlit r)

/-- Sends a fault notice from the router of the unit that its record names. -/
def State.addNotice (s : State) (f : Nat) (r : FRec) : State := s.noticeFrom (s.unitRouter r.unit.toNat) f r

/-- A record about swarm thread `g` (R308): class 5. -/
def State.threadRec (s : State) (g : Nat) (cause : BitVec 8) : FRec :=
  { cause := cause, sub := g % 8, unit := recUnit (unitBlk g) 5 (threadCore g % 16), time := s.ctime (unitBlk g)
    ticket := (s.thread g).ticket }

/-- A completion for a slot whose thread has ended, or was saved out of it, goes to the fault queue (R198, R276, R317). -/
def State.compRec (s : State) (slot : Nat) (c : Completion) : State :=
  s.addRec (unitField slot)
    { cause := 0, sub := slot % 8, unit := recUnit (unitBlk slot) 5 (threadCore slot % 16), pos := c.hnd
      time := s.ctime (unitBlk slot), aux := c.xfid }

/-- The completions that a thread leaves behind as it ends (R276). -/
def State.compsOut (s : State) (slot : Nat) (l : List Completion) : State := l.foldl (fun s c => s.compRec slot c) s

/-- The region of a tile: the graph of its current context (R228, R237). -/
def State.tileCtx (s : State) (t : Nat) : Option TileCtx :=
  match (s.tile t).cur with
  | none => none
  | some n => Tab.get none (s.tile t).ctxs n

/-- The field whose fault unit takes the notices of a region: that of its origin block (R309). -/
def State.originField (s : State) (gid : Option Nat) (dflt : Nat) : Nat :=
  match gid with
  | none => dflt
  | some i =>
    match s.graph i with
    | none => dflt
    | some x => x.origin / 8

/-- The region of a tile sends a notice: class 0 a core, 1 an escape node, 6 a streamer (R308, R309). -/
def State.tileNotice (s : State) (t cls sub : Nat) (cause : BitVec 8) (halt : Bool) (route : Nat) (va pos : Word)
    (ticket : BitVec 32) (aux : Word) : State :=
  let gid := (s.tileCtx t).map TileCtx.gid
  s.addNotice (s.originField gid (t / 256))
    { cause := cause, halt := halt, route := route, sub := sub, unit := recUnit (t / 32) cls (t % 32), va := va
      pos := pos, time := s.ctime (t / 32), ticket := ticket, aux := aux }

/-! ## Writes at a home (R113, R121, R345, R360) -/

/-- Whether a write of `n` bytes at `pa` touches the line of address `a`. -/
def touches (pa n a : Nat) : Bool := decide (pa / 64 ≤ a / 64) && decide (a / 64 ≤ (pa + n - 1) / 64)

/-- Whether two byte ranges overlap. -/
def overlaps (a n b m : Nat) : Bool := decide (a < b + m) && decide (b < a + n)

/-- A write makes every other thread's reservation on its lines lost (R121). -/
def loseResv (by_ : Option Nat) (pa n g : Nat) (t : Thread) : Thread :=
  if by_ = some g then t
  else { t with resv := t.resv.map fun r => if touches pa n r.pa then { r with lost := true } else r }

/-- A write hits the tasks that marked its lines (R345). -/
def hitTask (by_ : Option (Nat × Nat)) (pa n b : Nat) (k : Task) : Task :=
  if by_ = some (b, k.num) then k
  else if k.marks.any (touches pa n) then { k with hit := true } else k

/-- A write ends the verification of the images whose frames it touches (R411). -/
def endImages (pa n : Nat) (l : List (Nat × Nat × List (Nat × Nat × Bool))) : List (Nat × Nat × List (Nat × Nat × Bool)) :=
  l.filter fun e => e.2.2.all fun r => !overlaps (if r.2.2 then hashAddr pa else pa) n r.1 r.2.1

/-- What a write event of `n` bytes at `pa` does beside changing bytes: reservations, marks and verified images. `by_` is
the writing thread and `task` the committing task, if any. -/
def State.noteWrite (s : State) (by_ : Option Nat) (task : Option (Nat × Nat)) (pa n : Nat) : State :=
  { s with
    threads := Tab.mapVals {} (loseResv by_ pa n) s.threads
    blks := Tab.mapVals {} (fun b x => { x with tasks := x.tasks.map (hitTask task pa n b) }) s.blks
    dev := { s.dev with images := endImages pa n s.dev.images } }

/-- An entry of a micro-program cache goes stale when its watch index passes a test (R359, R360). -/
def staleEntry (wlog : Nat) (f : Nat → Bool) (e : McEntry) : McEntry :=
  if f (bits e.ident 10 36 % 2 ^ wlog) then { e with stale := true } else e

/-- Marks stale each micro-program cache entry whose watch index passes a test (R360). -/
def State.staleWhere (s : State) (f : Nat → Bool) : State :=
  { s with tiles := Tab.mapVals {} (fun _ x => { x with mcache := x.mcache.map (staleEntry s.dev.wlog f) }) s.tiles }

/-- The watch index of a virtual address (R359). -/
def State.watchIdx (s : State) (va : Nat) : Nat := bitsN va 16 36 % 2 ^ s.dev.wlog

/-- The watch step of a write through a sparse-watch page, wherever it is homed (R360): the watch word of its address is incremented, and
the cache entries of its index go stale. -/
def State.watchWord (s : State) (sw : Bool) (va : Nat) : State :=
  let wt := s.dev.wtbase.toNat
  if sw && decide (wt ≠ 0) then
    let w := s.watchIdx va
    let a := wt + 8 * w
    ((s.pokeN a 8 (s.peek a 8 + 1)).noteWrite none none a 8).staleWhere (· == w)
  else s

/-- The first two steps of a write (R360): the watch step, and a write to the watch table itself stales the entries of its words. -/
def State.watch (s : State) (sw : Bool) (va pa n : Nat) : State :=
  let wt := s.dev.wtbase.toNat
  if wt = 0 then s
  else
    let s1 := s.watchWord sw va
    if overlaps pa n wt (8 * 2 ^ s.dev.wlog) then
      s1.staleWhere fun w => overlaps pa n (wt + 8 * w) 8
    else s1

/-- Sets A, and D for a write to a writable page, in a leaf at its home (R300, R335). -/
def State.walkMark (s : State) (e : Word) (addr : Nat) (kind : Access) : State × Word :=
  let wr := kind == .write && leafW e
  if !leafA e || (wr && !leafD e) then
    let e' := e ||| 0x40#64 ||| (if wr then 0x80#64 else 0#64)
    ((((s.watch false 0 addr 8).noteWrite none none addr 8).pokeN addr 8 e'.toNat), e')
  else (s, e)

/-! ## Sync words (R94, R270, R271) -/

/-- The fields of a sync word. -/
structure SyncW where
  btgt  : Nat
  cnt   : Nat
  atgt  : Nat
  arr   : Nat
  gen   : Nat
  ovf   : Bool
  gwrap : Bool
  rest  : Nat
  deriving DecidableEq, Repr

def syncOf (x : Nat) : SyncW :=
  { btgt := bitsN x 0 32, cnt := bitsN x 32 32, atgt := bitsN x 64 8, arr := bitsN x 72 8, gen := bitsN x 80 16
    ovf := bitsN x 96 1 == 1, gwrap := bitsN x 97 1 == 1, rest := bitsN x 98 30 }

def SyncW.word (w : SyncW) : Nat :=
  w.btgt + w.cnt * 2 ^ 32 + w.atgt * 2 ^ 64 + w.arr * 2 ^ 72 + w.gen * 2 ^ 80 + w.ovf.toNat * 2 ^ 96 +
    w.gwrap.toNat * 2 ^ 97 + w.rest * 2 ^ 98

/-- Steps 1 and 2 of the update unit's cycle: byte updates and arrivals, saturating with ovf (R94, R270). -/
def SyncW.land (w : SyncW) (bytes arrs : Nat) : SyncW :=
  { w with
    cnt := min (w.cnt + bytes) 0xFFFFFFFF
    arr := min (w.arr + arrs) 0xFF
    ovf := w.ovf || decide (w.cnt + bytes > 0xFFFFFFFF) || decide (w.arr + arrs > 0xFF) }

/-- Whether the phase advances (R271). -/
def SyncW.ripe (w : SyncW) : Bool :=
  decide (w.cnt ≥ w.btgt) && decide (w.arr ≥ w.atgt) && (decide (w.btgt ≠ 0) || decide (w.atgt ≠ 0))

/-- One evaluation of the phase (R271). -/
def SyncW.eval (w : SyncW) : SyncW :=
  if w.ripe then
    { w with gwrap := w.gwrap || decide (w.gen = 0xFFFF), gen := (w.gen + 1) % 65536, cnt := w.cnt - w.btgt, arr := 0 }
  else w

/-- The word that sync.set leaves (R200). -/
def SyncW.set (btgt atgt : Nat) : SyncW :=
  { btgt := btgt, cnt := 0, atgt := atgt, arr := 0, gen := 0, ovf := false, gwrap := false, rest := 0 }

/-- Whether a word's generation has reached `g` (R201, R273). -/
def genReached (gen g : Nat) : Bool := decide ((gen + 65536 - g % 65536) % 65536 < 32768)

def State.syncWord (s : State) (pa : Nat) : SyncW := syncOf (s.peek pa 16)

/-- Stores a sync word as one event of its update unit (R335); `by_` is the thread whose updates alone it holds, if any. -/
def State.putSync (s : State) (pa : Nat) (w : SyncW) (by_ : Option Nat := none) : State :=
  ((s.watch false 0 pa 16).noteWrite by_ none pa 16).pokeN pa 16 w.word

/-- What lands for a word. -/
def State.landed (s : State) (pa : Nat) : Landed := Tab.get {} s.dev.syncq pa
def State.setLanded (s : State) (pa : Nat) (l : Landed) : State :=
  s.modDev fun d => { d with syncq := Tab.set {} d.syncq pa l }

/-- The block of a word's update unit: the tile's block of a bank, or that of the home slice (R270, R299); the host's memory has no
slice, and the unit of its words counts as block 0's (log 111). -/
def syncBlk (pa : Nat) : Nat :=
  match homeOf pa with
  | some .aperture => bitsN pa 28 4 * 8 + bitsN pa 25 3
  | some .dram => bitsN pa 37 4 * 8 + (lineHome 0 pa).2
  | some .regs | some .host | some (.remote _) | none => 0

/-- The present cycle of a word's update unit. -/
def State.syncCyc (s : State) (pa : Nat) : Nat := (s.blk (syncBlk pa)).cyc

/-- The word after a cycle, and whether the phase has advanced (R270, R271): byte updates and arrivals, the phase once in a cycle with an
update or after an advance, then a sync.set. -/
def Landed.apply (l : Landed) (w : SyncW) : SyncW × Bool × SyncW :=
  let x := w.land l.bytes l.arrs
  let y := if l.bytes ≠ 0 ∨ l.arrs ≠ 0 ∨ l.carry = true then (x.eval, x.ripe) else (x, false)
  (y.1, y.2, match l.set with
    | some (b, a) => SyncW.set b a
    | none => y.1)

/-- Whose the updates of a cycle are once an agent's has landed: `a` is the agent when it is a thread. -/
def mixBy (b : Option (Option Nat)) (a : Option Nat) : Option (Option Nat) :=
  match b with
  | none => some a
  | some x => some (if x = a then a else none)

/-- The thread that an agent of the update unit is. -/
def agentOf (who : List SyncWho) : Option Nat :=
  match who with
  | [.thread g _] => some g
  | _ => none

/-- The one thread whose updates alone land, or led to the advance that is evaluated again, if there is one (R121). -/
def Landed.writer (l : Landed) : Option Nat := l.by_.join

/-- A pending result arrives, by its token. -/
def Pending.fulfil (tok : Nat) (x : VWord) (p : Pending) : Pending :=
  if p.tok = tok ∧ p.ready = false then { p with ready := true, val := x } else p

/-- A result that arrives in block cycle `cyc` commits in a later turn of its thread or core (R279). -/
def Thread.arriveAt (t : Thread) (cyc : Nat) : Thread := { t with nextCyc := max t.nextCyc (cyc + 1) }
def TCore.arriveAt (c : TCore) (cyc : Nat) : TCore := { c with nextCyc := max c.nextCyc (cyc + 1) }

/-- Tells one of those who wait for the end of a word's cycle, `x` being the generation and the mark of an advance. -/
def State.tellSync (s : State) (x : Nat) (w : SyncWho) : State :=
  match w with
  | .thread g tok => s.modThread g fun t =>
      { t with ctx := { t.ctx with pend := t.ctx.pend.map (Pending.fulfil tok (BitVec.ofNat 256 x)) } }.arriveAt (s.blk (unitBlk g)).cyc
  | .core k tok => s.modTcore k fun c =>
      { c with ctx := { c.ctx with pend := c.ctx.pend.map (Pending.fulfil tok (BitVec.ofNat 256 x)) } }.arriveAt (s.blk (unitBlk k)).cyc
  | .xfer id => s.modDev fun d =>
      { d with xfers := Tab.set none d.xfers id ((Tab.get none d.xfers id).map fun y => { y with counts := y.counts - 1 }) }
  | .remote dev esn tag => s.modDev fun d => { d with sresp := d.sresp ++ [(dev, esn, tag, x)] }

/-- A word's update unit ends the cycle in which what stands for it lands (R270, R271); after an advance the next cycle evaluates
again. -/
def State.closeSync (s : State) (pa : Nat) : State :=
  let l := s.landed pa
  if l.bytes = 0 ∧ l.arrs = 0 ∧ l.carry = false ∧ l.set = none then s.setLanded pa {}
  else
    let r := l.apply (s.syncWord pa)
    l.who.foldl (fun s w => s.tellSync (r.1.gen + r.2.1.toNat * 65536) w)
      ((s.putSync pa r.2.2 l.writer).setLanded pa (if r.2.1 then { cyc := l.cyc + 1, carry := true, by_ := l.by_ } else {}))

/-- A cycle that has passed is ended before something lands in a later one. -/
def State.rollSync (s : State) (pa : Nat) : State := if (s.landed pa).cyc < s.syncCyc pa then s.closeSync pa else s

/-- Something lands at a word in the present cycle, or in the next when a plain store has ended the present one (R272). -/
def State.syncPut (s : State) (pa : Nat) (f : Landed → Landed) : State :=
  let s1 := s.rollSync pa
  s1.setLanded pa (f { s1.landed pa with cyc := max (s1.landed pa).cyc (s1.syncCyc pa) })

/-- Byte updates and arrivals land at a word (R270). -/
def State.syncLand (s : State) (pa bytes arrs : Nat) (who : List SyncWho := []) : State :=
  s.syncPut pa fun l =>
    { l with bytes := l.bytes + bytes, arrs := l.arrs + arrs, who := l.who ++ who, by_ := mixBy l.by_ (agentOf who) }

/-- A sync.set lands at a word (R201, R270). -/
def State.syncSet (s : State) (pa btgt atgt : Nat) (who : List SyncWho) : State :=
  s.syncPut pa fun l => { l with set := some (btgt, atgt), who := l.who ++ who, by_ := mixBy l.by_ (agentOf who) }

/-- Ends the cycles of a word that have passed: one at least in which nothing can land any more. -/
def State.passSync (s : State) (pa : Nat) : Nat → State
  | 0 => s
  | n + 1 => if (s.landed pa) ≠ {} ∧ (s.landed pa).cyc + 1 < s.syncCyc pa then (s.closeSync pa).passSync pa n else s

/-- A word's present cycle ends, and the cycle that has passed before it; what lands from now on is in the next. -/
def State.endWord (s : State) (pa : Nat) : State :=
  ((s.rollSync pa).closeSync pa).syncPut pa fun l => { l with cyc := s.syncCyc pa + 1 }

/-- A plain store ends the cycle of the words that it touches, and is applied last in it (R270 to R272). -/
def State.endSync (s : State) (pa n : Nat) : State :=
  (s.dev.syncq.filter fun e => overlaps e.1 16 pa n && decide (e.2.cyc ≤ s.syncCyc e.1)).foldl (fun (s : State) e => s.endWord e.1) s

/-! ## The device register page (R305, R358, R370, R381, R408, R418) -/

/-- head and tail of a field's fault queue, in its header in memory (R306). -/
def State.fqHead (s : State) (f : Nat) : Nat := s.peek ((s.field f).fqbase.toNat + 16) 8
def State.fqTail (s : State) (f : Nat) : Nat := s.peek ((s.field f).fqbase.toNat + 24) 8

/-- A write to the fault queue's and the pool's registers is ignored while a written record is unconsumed, or an entry is
not free (R305). -/
def State.fqBusy (s : State) (f : Nat) : Bool :=
  (decide ((s.field f).fqsize ≠ 0) && decide (s.fqTail f ≠ s.fqHead f)) ||
  !((s.field f).futs.all fun e => e.2.isNone)

/-- Records in the queue that are not consumed yet (R306). -/
def State.fqUsed (s : State) (f : Nat) : Nat := (s.fqTail f + 2 ^ 64 - s.fqHead f) % 2 ^ 64

/-- Whether a record is written before another: by the time of the fault, then by the unit field (R306). -/
def FRec.before (a b : FRec) : Bool :=
  decide (a.time.toNat < b.time.toNat) || (a.time == b.time && decide (a.unit.toNat ≤ b.unit.toNat))

/-- The notices that have come to a fault unit: the heads of the vc3 buffers of its router, each with its side (R309). -/
def State.atUnit (s : State) (f : Nat) : List (Dir × Notice) :=
  [Dir.inject, .east, .west, .north, .south].filterMap fun d =>
    match s.link (faultRouter f) d 3 with
    | [] => none
    | x :: _ => ((s.field f).notices.find? fun n => n.flit == x).map fun n => (d, n)

/-- The one of them that it takes next: the earliest (R306). -/
def State.nextNotice (s : State) (f : Nat) : Option (Dir × Notice) :=
  (s.atUnit f).foldl (fun best n =>
    match best with
    | none => some n
    | some b => if b.2.what.before n.2.what then some b else some n) none

/-- Whether the queue has room for a notice: behind the records that wait, or before all of them (R306, R309). -/
def State.noticeRoom (s : State) (f : Nat) (r : FRec) : Bool :=
  decide (s.fqUsed f + (s.field f).recs.length < (s.field f).fqsize) ||
    (decide (s.fqUsed f < (s.field f).fqsize) && (s.field f).recs.all fun x => !x.before r)

/-- Whether a record waits for room in the queue, in the fault unit or before it (R305, R306, R309). -/
def State.qwait (s : State) (f : Nat) : Bool :=
  (!(s.field f).recs.isEmpty && decide (s.fqUsed f ≥ (s.field f).fqsize)) ||
    ((s.nextNotice f).map fun n => !s.noticeRoom f n.2.what).getD false

/-- Whether a fault of a field waits for a free future entry: a thread's at its bundle, a node's, a transfer's or a command's (R305,
R311). -/
def State.pwait (s : State) (f : Nat) : Bool :=
  (s.threads.any fun e => unitField e.1 == f && e.2.futw && e.2.run == .run) ||
  (s.dev.agens.any fun e => match e.2 with
    | none => false
    | some a => a.want.isSome && s.originField (some a.gid) (e.1 / 64) == f) ||
  (s.dev.xfers.any fun e => match e.2 with
    | none => false
    | some x => x.want.isSome && s.originField x.gid (x.blk / 8) == f) ||
  (s.blks.any fun e => e.2.ports.any fun p => p.2.arr.any fun a => a.want.isSome && s.originField (some a.gid) (e.1 / 8) == f)

/-- The bytes of a spare map record (R370). -/
def Blk.spareMap (b : Blk) : List Byte :=
  (b.tsite.map (BitVec.ofNat 8)) ++ (b.csite.map (BitVec.ofNat 8)) ++
  leBytes 8 (b.tret.toNat + b.cret.toNat * 2 ^ 36) ++ leBytes 8 (b.tdead.toNat + b.cdead.toNat * 2 ^ 36) ++
  leBytes 8 ((b.tsite.filter (· ≠ 255)).length + (b.csite.filter (· ≠ 255)).length * 256 + b.bgen.toNat * 2 ^ 32) ++
  zeros 56

/-- A rate bucket's word (R418). -/
def Bucket.word (b : Bucket) : Nat := b.cap % 65536 + b.eff % 65536 * 65536 + b.depth % 65536 * 2 ^ 32

/-- Reads one word of field `f`'s register page. -/
def State.regWord (s : State) (f off : Nat) : Nat :=
  let x := s.field f
  if off < 0x400 then
    match off with
    | 0x00 => x.fqbase.toNat
    | 0x08 => x.fqsize
    | 0x10 => x.fpbase.toNat
    | 0x18 => x.fpcount
    | 0x20 => x.fpcount - (x.futs.filter fun e => e.2.isSome).length
    | 0x28 => (s.pwait f).toNat * 2 + (s.qwait f).toNat
    | 0x30 => s.dev.ptroot.toNat
    | 0x38 => s.dev.wtbase.toNat
    | 0x40 => s.dev.wlog
    | 0x48 => s.dev.htbase.toNat
    | 0x50 => s.dev.bq.length
    | 0x58 => s.dev.mpwr % 65536 + x.fpwr % 65536 * 65536 + x.temp % 65536 * 2 ^ 32
    | 0x60 => x.plim
    | 0x68 => x.bkmem.word
    | 0x70 => x.bkesc.word
    | 0x78 => s.dev.bklink.word
    | 0x80 => s.dev.bkhost.word
    | 0x88 => s.dev.tvec.toNat
    | _ => 0
  else if off < 0x800 then
    let b := 8 * f + (off - 0x400) / 128
    leAt (s.blk b).spareMap ((off - 0x400) % 128) 8
  else 0

/-- A write to a bucket word changes depth and cap; a depth of 0 is taken as 1 (R418). -/
def Bucket.write (b : Bucket) (v : Word) : Bucket := { b with depth := bits v 32 16, cap := bits v 0 16 }

/-- A write to a field's fqbase sets the doorbell to btgt 0 and atgt 1 (R305, R306). -/
def State.writeFqbase (s : State) (f : Nat) (v : Word) : State :=
  if s.fqBusy f then s
  else
    let a := v &&& ~~~ 0xFFF#64
    ((s.modField f fun x => { x with fqbase := a }).setLanded a.toNat {}).putSync a.toNat (SyncW.set 0 1)

/-- A write to wtbase or wlog marks every cache entry of the device stale (R358). Of values outside their ranges, which R358 does not speak of,
wlog takes 16 and wtbase drops bits 11:0 (DESIGN CHOICE, log 124). -/
def State.writeWatch (s : State) (log : Bool) (v : Word) : State :=
  let s1 := s.modDev fun d =>
    if log then { d with wlog := min (bits v 0 5) 16 } else { d with wtbase := v &&& ~~~ 0xFFF#64 }
  s1.staleWhere fun _ => true

/-- Whether a byte is one of tail or naks of a mailbox that the SD4 knows (R211, log 89). -/
def State.mailByte (s : State) (a : Nat) : Bool := s.dev.mails.any fun m => decide (m.2 + 16 ≤ a) && decide (a < m.2 + 32)

/-- A write of a program to word 0 of a mailbox that no outstanding ticket names sets the mailbox up anew: the SD4 knows it again with the
next reply to it (log 89). -/
def State.forgetMail (s : State) (touch : Nat → Bool) : State :=
  if s.dev.mails = [] then s
  else
    s.modDev fun d => { d with mails := d.mails.filter fun m =>
      !((List.range 8).any fun i => touch (m.2 + i)) || s.cores.any fun c => c.2.outst.any fun o => o.mbox == m.1 }

/-- The bytes that a write leaves at an address: the SD4 ignores writes to tail and naks of a mailbox (R212). -/
def State.shielded (s : State) (pa : Nat) (l : List Byte) : List Byte :=
  if s.dev.mails = [] then l
  else l.zipIdx.map fun e => if s.mailByte (pa + e.2) then Memory.byte s.mem (pa + e.2) else e.1

/-- Changes bytes of a home of this device or of the host, with what a write event does beside (R360, R121, R345, R411). -/
def State.homePoke (s : State) (p : Phys) (va : Nat) (l : List Byte) : State :=
  (((s.endSync p.pa l.length).watch p.sw va p.pa l.length).noteWrite none none p.pa l.length).poke p.pa (s.shielded p.pa l)

/-- Sets an error bit of a host port (R402). -/
def State.hostErr (s : State) (port bit_ : Nat) : State :=
  s.modHostPort port fun h => { h with herr := h.herr ||| BitVec.ofNat 5 (2 ^ bit_) }

/-- A record of class 6, index 0, to field 0's fault queue (R306, R408, R409). -/
def State.bellRec (s : State) (cause : BitVec 8) (va : Nat) : State :=
  s.addRec 0 { cause := cause, unit := recUnit 0 6 0, va := wd va, time := wd s.ns }

/-- A command whose address fails its checks (R408). -/
def State.badCmd (s : State) (host : Option Nat) (va : Nat) : State :=
  match host with
  | some p => s.hostErr p 2
  | none => s.bellRec cPAGE_PERM va

/-- Writes bytes of a port's request block (R401). -/
def State.reqWrite (s : State) (port off : Nat) (l : List Byte) : State :=
  s.modHostPort port fun h => { h with req := (l.zipIdx).foldl (fun t e => Tab.set 0 t (off + e.2) e.1) h.req }

/-- A command that names no request (R409). -/
def State.noRequest (s : State) (host : Option Nat) : State :=
  match host with
  | some p => s.reqWrite p 0xF8 (leBytes 2 9)
  | none => s.bellRec cUND 0

/-- Where the result field of a kind of request lies in it (R235, R410 to R413, R416). -/
def resultAt (kind : Nat) : Nat :=
  match kind with
  | 0 | 1 => 58
  | 2 | 3 => 56
  | _ => 0xF8

/-- Writes the result of a request that lies in memory of this device or of the host. -/
def State.result (s : State) (c : BCmd) (code : Nat) : State :=
  match c.at_ with
  | some p => s.homePoke (p.plus (resultAt c.kind.toNat)) (c.addr + resultAt c.kind.toNat) (leBytes 2 code)
  | none =>
    match c.host with
    | some q => s.reqWrite q (resultAt c.kind.toNat) (leBytes 2 code)
    | none => s

/-- A write of at most 32 bytes to another device's memory goes out next (R338). -/
def State.owe (s : State) (dev : Nat) (p : Phys) (va : Nat) (l : List Byte) : State :=
  (s.watchWord p.sw va).modDev fun d => { d with outw := d.outw ++ [(dev, p.pa, l)] }

/-- A request is pending: its result field says so (R409). -/
def State.markPending (s : State) (c : BCmd) : State :=
  match c.at_ with
  | none => s.result c 0xFFFF
  | some p =>
    match p.home with
    | .remote dev => s.owe dev (p.plus (resultAt c.kind.toNat)) (c.addr + resultAt c.kind.toNat) (leBytes 2 0xFFFF)
    | .dram | .aperture | .regs | .host => s.result c 0xFFFF

/-- Queues a command, whose request is pending then (R409). -/
def State.queueCmd (s : State) (c : BCmd) : State :=
  (s.markPending c).modDev fun d => { d with bq := d.bq ++ [c], cmdLast := some (s.ns, c.host.getD 2) }

/-- The request that a nonzero address names: by the job's translation, or in DRAM for a host while no job runs (R408). -/
def State.cmdPlace (s : State) (host : Option Nat) (va : Nat) : State × Option Phys :=
  if s.dev.job then
    match s.hostLeaf va true true with
    | some (p, e, a) => ((s.walkMark e a .write).1, some p)
    | none => (s, none)
  else if host.isSome && homeOf va == some .dram then (s, some { pa := va, home := .dram, sw := false })
  else (s, none)

/-- Whether a kind of command is taken at all: reserved kinds, kinds that need a job, and before phase 7 all kinds but 3 are
ignored (R409, R421). -/
def State.takesCmd (s : State) (kind : Nat) : Bool :=
  decide (s.dev.bq.length < 64) && decide (kind < 6) && (s.dev.phase == 7 || kind == 3) &&
    (s.dev.job || kind == 3 || kind == 4)

/-- Posts a belvedere command word (R408, R409). Kinds 4 and 5 take no address but 0 (log 32). -/
def State.postCmd (s : State) (host : Option Nat) (v : Word) : State :=
  let kind := bits v 60 4
  let va := bits v 6 46 * 64
  let c : BCmd := { kind := BitVec.ofNat 4 kind, addr := va, host := host, at_ := none }
  if !s.takesCmd kind then s
  else if bits v 52 8 ≠ 0 ∨ bits v 0 6 ≠ 0 then s.badCmd host va
  else if va = 0 then
    if kind < 3 ∨ host = none then s.noRequest host else s.queueCmd c
  else if kind ≥ 4 then s.badCmd host va
  else
    let r := s.cmdPlace host va
    match r.2 with
    | none => s.badCmd host va
    | some p => r.1.queueCmd { c with at_ := some p }

/-- Writes one word of field `f`'s register page. A word or field that the tables do not give as writable ignores it. -/
def State.writeReg (s : State) (f off : Nat) (v : Word) : State :=
  match off with
  | 0x00 => s.writeFqbase f v
  | 0x08 => if s.fqBusy f then s else s.modField f fun x => { x with fqsize := bits v 0 16 }
  | 0x10 => if s.fqBusy f then s else s.modField f fun x => { x with fpbase := v &&& ~~~ 0xFFF#64 }
  | 0x18 => if s.fqBusy f then s else s.modField f fun x => { x with fpcount := min (bits v 0 13) 4096 }
  | 0x30 => s.modDev fun d => { d with ptroot := v }
  | 0x38 => s.writeWatch false v
  | 0x40 => s.writeWatch true v
  | 0x48 => s.modDev fun d => { d with htbase := v &&& ~~~ 0xFFF#64 }
  | 0x50 => s.postCmd none v
  | 0x60 => s.modField f fun x => { x with plim := max 1000 (min 16000 (bits v 0 16)) }
  | 0x68 => s.modField f fun x => { x with bkmem := x.bkmem.write v }
  | 0x70 => s.modField f fun x => { x with bkesc := x.bkesc.write v }
  | 0x78 => s.modDev fun d => { d with bklink := d.bklink.write v }
  | 0x80 => s.modDev fun d => { d with bkhost := d.bkhost.write v }
  | 0x88 => s.modDev fun d => { d with tvec := wd (bits v 3 49 * 8) }
  | _ => s

/-- The base of the register pages (R298). -/
def regBase : Nat := 0xF10000000000

/-- Reads `n` bytes, within one aligned word, of the register pages. -/
def State.regRead (s : State) (pa n : Nat) : Nat :=
  let o := pa - regBase
  bitsN (s.regWord (o / 65536) (o % 65536 / 8 * 8)) (8 * (o % 8)) (8 * n)

/-- Writes `n` bytes within one aligned word; a narrower write keeps the word's other bytes (log 12). -/
def State.regWrite (s : State) (pa n x : Nat) : State :=
  let o := pa - regBase
  let f := o / 65536
  let off := o % 65536 / 8 * 8
  let sh := 8 * (o % 8)
  let old := s.regWord f off
  s.writeReg f off (wd (old - bitsN old sh (8 * n) * 2 ^ sh + x % 2 ^ (8 * n) * 2 ^ sh))

/-- Reads of more than a word are made word by word. -/
def State.regReadN (s : State) (pa : Nat) : Nat → Nat
  | 0 => 0
  | k + 1 => s.regRead pa 8 + 2 ^ 64 * s.regReadN (pa + 8) k

/-- Writes of more than a word are made word by word. -/
def State.regWriteN : State → Nat → Nat → Nat → State
  | s, _, _, 0 => s
  | s, pa, x, k + 1 => (s.regWrite pa 8 (x % 2 ^ 64)).regWriteN (pa + 8) (x / 2 ^ 64) k

/-! ## Performing a write -/

/-- Performs a write event at its home: the watch of R360, lost reservations, hit marks and ended verifications, then the
bytes. -/
def State.writeAt (s : State) (by_ : Option Nat) (task : Option (Nat × Nat)) (p : Phys) (va : Nat)
    (l : List Byte) : State :=
  match p.home with
  | .regs =>
    let s1 := (s.watchWord p.sw va).noteWrite by_ task p.pa l.length
    if l.length ≤ 8 then s1.regWrite p.pa l.length (leNat l) else s1.regWriteN p.pa (leNat l) (l.length / 8)
  | .dram | .aperture | .host | .remote _ =>
    (((s.endSync p.pa l.length).watch p.sw va p.pa l.length).noteWrite by_ task p.pa l.length).poke p.pa l

/-- Performs a write event of a program, a unit or a host. -/
def State.performWrite (s : State) (by_ : Option Nat) (task : Option (Nat × Nat)) (p : Phys) (va : Nat) (l : List Byte) : State :=
  (s.writeAt by_ task p va (s.shielded p.pa l)).forgetMail fun a => decide (p.pa ≤ a) && decide (a < p.pa + l.length)

/-- Reads `n` bytes at a home of this device or of the host. -/
def State.homeRead (s : State) (p : Phys) (n : Nat) : Nat :=
  match p.home with
  | .regs => if n ≤ 8 then s.regRead p.pa n else s.regReadN p.pa (n / 8)
  | .dram | .aperture | .host | .remote _ => s.peek p.pa n

/-- The bytes of a range whose lines may be spread (R299). -/
def State.spanRead (s : State) (p : Phys) (n : Nat) : List Byte :=
  (p.spans n).flatMap fun e => leBytes e.2 (s.homeRead (p.plus e.1) e.2)

/-- Performs one write event of a range whose lines may be spread (R299): the watch step once (R360), then its parts. -/
def State.spanWrite (s : State) (by_ : Option Nat) (task : Option (Nat × Nat)) (p : Phys) (va : Nat) (l : List Byte) : State :=
  (p.spans l.length).foldl (fun s e => s.performWrite by_ task { p.plus e.1 with sw := false } (va + e.1) ((l.drop e.1).take e.2))
    (s.watchWord p.sw va)

end Sys2Proof.Machine
end

