-- ==== Sys2Proof/Machine/Xlate.lean ====
section
/-!
DEFINITION. Translation caches and their misses (R302), and translations made on the spot.
-/
namespace Sys2Proof.Machine

/-! ## Translation caches (R302) -/

/-- The cached translation that covers an address. -/
def tlbFind (l : List TlbEntry) (va : Nat) : Option TlbEntry :=
  l.find? fun e => decide (e.base = va / 2 ^ pageLog e.level * 2 ^ pageLog e.level)

/-- Enters a translation in a tier of `cap` entries, in place of one of the same page; a full tier drops its oldest. -/
def tlbAdd (cap : Nat) (l : List TlbEntry) (x : TlbEntry) : List TlbEntry :=
  ((l.filter fun e => e.base ≠ x.base ∨ e.level ≠ x.level) ++ [x]).drop
    (((l.filter fun e => e.base ≠ x.base ∨ e.level ≠ x.level).length + 1) - cap)

/-- What the caches say of an access: a leaf, or a miss. A write that finds D = 0 walks again (R302). -/
def cacheLook (tiers : List (List TlbEntry)) (va : Nat) (n : Need) : Option TlbEntry :=
  match tiers with
  | [] => none
  | t :: ts =>
    match tlbFind t va with
    | some e => if n.wr && leafW e.leaf && !leafD e.leaf then none else some e
    | none => cacheLook ts va n

/-- How an access translates. -/
inductive Xl where
  | ok (p : Phys)
  | miss
  | bad (cause : BitVec 8)
  deriving DecidableEq, Repr

/-- Translates an access through caches; a walk that has failed for it, if any, is met instead of a miss. -/
def State.xlate (s : State) (tiers : List (List TlbEntry)) (walked : Option (Nat × Access × WalkErr)) (va : Nat)
    (n : Need) : Xl :=
  match cacheLook tiers va n with
  | some e =>
    match s.useLeaf e.leaf e.level va n with
    | .ok p => .ok p
    | .bad c => .bad c
  | none =>
    match walked with
    | some (a, _, w) =>
      if a / 65536 = va / 65536 then
        match w with
        | .notPresent => .bad cPAGE_NP
        | .malformed => .bad cPAGE_PERM
        | .struck => .bad cECC
      else .miss
    | none => .miss

/-- The caches of a swarm thread, in order (R302). -/
def State.threadTiers (s : State) (g : Nat) : List (List TlbEntry) :=
  [(s.core (threadCore g)).tlb, (s.blk (unitBlk g)).tlb]

/-- Translates for a swarm thread. -/
def State.xlThread (s : State) (g va : Nat) (n : Need) : Xl :=
  s.xlate (s.threadTiers g) (s.thread g).walked va n

/-- Translates for a swarm thread with a walk made on the spot: for an engine's or the fault unit's own accesses, which
the spec gives as one step. -/
def State.xlNow (s : State) (va : Nat) (n : Need) : Leafed :=
  if va ≥ 2 ^ 52 then .bad cPAGE_NP
  else
    match s.walk va with
    | .err .notPresent => .bad cPAGE_NP
    | .err .malformed => .bad cPAGE_PERM
    | .err .struck => .bad cECC
    | .leaf e l _ => s.useLeaf e l va n

/-- Such a walk with its update of A and D. -/
def State.xlMark (s : State) (va : Nat) (n : Need) : State × Leafed :=
  if va ≥ 2 ^ 52 then (s, .bad cPAGE_NP)
  else
    match s.walk va with
    | .err .notPresent => (s, .bad cPAGE_NP)
    | .err .malformed => (s, .bad cPAGE_PERM)
    | .err .struck => (s, .bad cECC)
    | .leaf e l a =>
      let r := s.walkMark e a n.kind
      (r.1, s.useLeaf e l va n)

/-- Registers a walk: misses for one page coalesce (R302). -/
def addWalk (l : List Walk) (va : Nat) (kind : Access) (who : Walker) : List Walk :=
  if l.any (fun w => decide (w.va / 65536 = va / 65536)) then
    l.map fun w =>
      if w.va / 65536 = va / 65536 then
        { w with who := if who ∈ w.who then w.who else w.who ++ [who] }
      else w
  else l ++ [{ va := va, kind := kind, who := [who] }]

/-- A miss starts a walk in the unit's block. -/
def State.startWalk (s : State) (b va : Nat) (kind : Access) (who : Walker) : State :=
  s.modBlk b fun x => { x with walks := addWalk x.walks va kind who }

end Sys2Proof.Machine
end

