-- ==== Sys2Proof/Machine/Ops.lean ====
section
/-!
DEFINITION. The named operations that the meanings share: waiting at issue (R282), the end of lookahead windows (R280),
taking a trap (R35) and returning from one (R39), page-fault futures (R312), halting a tile core (R192), ordered tasks
(R342 to R347), and the guards of mode and privilege (R20, R21).
-/
namespace Sys2Proof.Machine

/-! ## Waiting and fates -/

/-- The bundle in hand waits at issue: it has changed nothing (R282). -/
def State.markWait (s : State) : State :=
  let s1 := { s with iss := { s.iss with fate := .waiting } }
  match s.cur with
  | .thread g => s1.modThread g fun t => { t with atIssue := true }
  | .core _ => s1

def State.wait (s : State) : Out := .next s.markWait

/-- The bundle in hand gives way to another event, and has changed nothing of its own. -/
def State.taken (s : State) : State := { s with iss := { s.iss with fate := .taken } }

/-- Work addressed to a block whose power is gated asks for its wake (R420). -/
def State.wakeBlk (s : State) (b : Nat) : State :=
  match (s.blk b).power with
  | .gated => s.modBlk b fun x => { x with power := .asked s.ns }
  | .on | .asked _ | .waking _ => s

/-- The block at whose edge an access waits: one that is gated or waking (R420), or one whose tile, that the access is addressed to, is
moving to another site (R375). -/
def State.atEdge (s : State) (p : Phys) : Option Nat :=
  if p.home = .aperture then
    let b := bitsN p.pa 28 4 * 8 + bitsN p.pa 25 3
    if (s.blk b).power = .on ∧ (s.blk b).moving ≠ some (false, bitsN p.pa 20 5) then none else some b
  else none

/-- Work addressed to a gated block wakes it, and waits at its edge (R420). -/
def State.edge (s : State) (p : Phys) (f : State → State) : State :=
  match s.atEdge p with
  | some b => s.wakeBlk b
  | none => f s

/-! ## Groups and slots -/

/-- Frees a thread slot (R283): nothing of its occupant stays. -/
def State.freeSlot (s : State) (g : Nat) : State := s.setThread g {}

/-- A member of a group ends without a reply; a group whose last member has ended is gone (R283). -/
def State.leaveGroup (s : State) (grp : Option Nat) : State :=
  match grp with
  | none => s
  | some i =>
    match s.group i with
    | none => s
    | some x => s.setGroup i (if x.left ≤ 1 then none else some { x with left := x.left - 1 })

/-! ## Ordered tasks (R342 to R347) -/

/-- The task of a thread in its block's commit arbiter. -/
def State.taskOf (s : State) (g : Nat) : Option Task :=
  match (s.thread g).task with
  | none => none
  | some n => (s.blk n.1).tasks.find? fun k => decide (k.num = n.2)

/-- Whether a thread is the oldest task of its block that has not finished (R215): tasks that wait for their commit do not count. -/
def State.isOldestUnfinished (s : State) (g : Nat) : Bool :=
  match (s.thread g).task with
  | none => false
  | some n =>
    match (s.blk n.1).tasks.find? (fun k => match (s.thread k.g).run with | .finished _ _ _ _ => false | _ => true) with
    | none => false
    | some k => decide (k.num = n.2)

/-- Whether a thread is the oldest task of its block: the arbiter keeps its tasks in task order (R342). -/
def State.isOldest (s : State) (g : Nat) : Bool :=
  match (s.thread g).task with
  | none => false
  | some n =>
    match (s.blk n.1).tasks with
    | [] => false
    | k :: _ => decide (k.num = n.2)

/-- Replaces a task of a block by its number. -/
def State.modTask (s : State) (b num : Nat) (f : Task → Task) : State :=
  s.modBlk b fun x => { x with tasks := x.tasks.map fun k => if k.num = num then f k else k }

/-- Removes a task from its block's arbiter. -/
def State.dropTask (s : State) (b num : Nat) : State :=
  s.modBlk b fun x => { x with tasks := x.tasks.filter fun k => decide (k.num ≠ num) }

/-- Inserts a task in task order: by timestamp, then by number (R342); a task that runs plain stays the oldest (R343, R348). -/
def insertTask (k : Task) : List Task → List Task
  | [] => [k]
  | x :: l => if x.plain = true ∨ x.ts.toNat < k.ts.toNat ∨ (x.ts = k.ts ∧ x.num < k.num) then x :: insertTask k l else k :: x :: l

/-- The lines that a speculative buffer holds. -/
def bufLines (b : Tab (Option Byte)) : List Nat := (b.map fun e => e.1 / 64).eraseDups

/-- Writes the bytes of a buffer that lie in memory. -/
def writeBuf (m : List Host.Cell) : Tab (Option Byte) → List Host.Cell
  | [] => m
  | (a, some x) :: l => writeBuf (if homeOf a = some .regs then m else Memory.setByte m a x) l
  | (_, none) :: l => writeBuf m l

/-- Writes the words of the register pages that a buffer holds, whole words with the bytes that it does not hold kept. -/
def State.writeRegs (s : State) (b : Tab (Option Byte)) : State :=
  (((b.filter fun e => homeOf e.1 == some .regs && e.2.isSome).map fun e => e.1 / 8 * 8).eraseDups).foldl (fun s w =>
    let old := leBytes 8 (s.regRead w 8)
    s.regWrite w 8 (leNat ((List.range 8).map fun i => (Tab.get none b (w + i)).getD (old.getD i 0)))) s

/-- Commits a task's buffer: every line at its home, masked bytes only, as one event; its marks are cleared (R347). -/
def State.commitBuf (s : State) (b : Nat) (k : Task) : State :=
  let s1 := (bufLines k.buf).foldl (fun (s : State) l =>
    let sw := k.sws.find? fun e => decide (e.1 = l)
    ((s.endSync (l * 64) 64).watch sw.isSome ((sw.map Prod.snd).getD 0 * 64) (l * 64) 64).noteWrite (some k.g) (some (b, k.num)) (l * 64) 64) s
  ((({ s1 with mem := writeBuf s1.mem (k.buf.filter fun e => !s.mailByte e.1) }).writeRegs k.buf).forgetMail fun a =>
    (Tab.get none k.buf a).isSome).modTask b k.num fun k => { k with buf := [], sws := [], vas := [], marks := [] }

/-- Going plain (R343): the task commits its buffer, status.spec becomes 0, and it continues as an ordinary thread. -/
def State.goPlain (s : State) (g : Nat) : State :=
  match s.taskOf g with
  | none => s
  | some k =>
    ((s.commitBuf (unitBlk g) k).modTask (unitBlk g) k.num fun k => { k with plain := true }).modThread g
      fun t => { t with spec := false }

/-- The numbers of a task's descendants among a block's tasks: the closure of the parents' relation (R342). -/
def descendants (ts : List Task) : Nat → List Nat → List Nat
  | 0, ds => ds
  | n + 1, ds =>
    descendants ts n (ds ++ ((ts.filter fun k =>
      !ds.contains k.num && (match k.parent with | none => false | some p => ds.contains p)).map Task.num))

/-- Whether a record was spawned by one of the tasks of block `b` that are listed. -/
def recOf (b : Nat) (ds : List Nat) (r : Rec) : Bool :=
  match r.parent with
  | none => false
  | some p => decide (p.1 = b) && ds.contains p.2

/-- Withdraws the records of a field's rotunda that the listed tasks spawned (R345). -/
def Field.withdraw (x : Field) (b : Nat) (ds : List Nat) : Field :=
  { x with
    arr := x.arr.filter fun r => !recOf b ds r
    queues := Tab.mapVals [] (fun _ q => q.filter fun r => !recOf b ds r) x.queues
    resv := Tab.mapVals 0 (fun k c =>
      if k < 4 ∧ (((Tab.get [] x.queues k).head?).map (recOf b ds)).getD false = true then 0 else c) x.resv }

/-- The groups of the queued records that are withdrawn. -/
def Field.withdrawn (x : Field) (b : Nat) (ds : List Nat) : List Nat :=
  (x.queues.flatMap Prod.snd).filterMap fun r => if recOf b ds r then some r.group else none

/-- Ends a running descendant: its slot freed, no reply (R345). -/
def State.endTask (s : State) (b : Nat) (k : Task) : State :=
  ((s.leaveGroup (s.thread k.g).group).freeSlot k.g).dropTask b k.num

/-- Discards what a task has done speculatively: buffer, marks, descendants; its abort count rises, saturating at 255
(R345). -/
def State.discardTask (s : State) (b num : Nat) : State :=
  let ts := (s.blk b).tasks
  let ds := descendants ts ts.length [num]
  let s0 := ((s.field (b / 8)).withdrawn b ds).foldl (fun (s : State) i => s.setGroup i none) s
  let s1 := s0.modField (b / 8) fun x => x.withdraw b ds
  let s2 := ts.foldl (fun (s : State) k => if k.num ≠ num ∧ ds.contains k.num = true then s.endTask b k else s) s1
  s2.modTask b num fun k => { k with buf := [], sws := [], vas := [], marks := [], hit := false, aborts := min (k.aborts + 1) 255 }

/-- The entry state of a task, taken from its record, in its own slot (R345). -/
def Task.restart (k : Task) (t : Thread) (spec : Bool) (r : Run) : Thread :=
  { k.entry with run := r, spec := spec, uid := t.uid, group := t.group, stack := t.stack, task := t.task
                 due := t.due, dueN := t.dueN }

/-- An abort with a restart in the same slot: plain when the task is oldest, else speculative (R345). -/
def State.abortRestart (s : State) (g : Nat) : State :=
  match s.taskOf g with
  | none => s
  | some k =>
    let b := unitBlk g
    let old := s.isOldest g
    ((s.discardTask b k.num).modTask b k.num fun k => { k with plain := old }).modThread g
      fun t => k.restart t (!old) .run

/-- An abort after which the task keeps its slot and issues nothing until it is oldest (R346). -/
def State.abortPark (s : State) (g : Nat) : State :=
  match s.taskOf g with
  | none => s
  | some k => (s.discardTask (unitBlk g) k.num).modThread g fun t => k.restart t false .parked

/-- A halt by preempt aborts a speculative task: entry state, status.spec = 0, halted (R346). -/
def State.abortHalt (s : State) (g : Nat) : State :=
  match s.taskOf g with
  | none => s
  | some k => (s.discardTask (unitBlk g) k.num).modThread g fun t => k.restart t false .halted

/-! ## The end of windows (R279, R280) -/

/-- The first fault that a list of results carries. -/
def firstFault (l : List Pending) : Option (BitVec 8 × Word) := l.findSome? Pending.fault

/-- Closes a context's windows: every pending result commits in issue order (R280). -/
def Ctx.close (c : Ctx) : Ctx := { c.commitAll c.pend with pend := [] }

/-! ## Taking a trap (R35) -/

/-- Marks every reservation lost: a trap, a halt or a future loses them (R121). -/
def loseAll (l : List Resv) : List Resv := l.map fun r => { r with lost := true }

/-- ecause (R36). -/
def causeWord (cause : BitVec 8) (slotB cm : Bool) : Word := wd (cause.toNat + slotB.toNat * 256 + cm.toNat * 512)

/-- What a fetch at an address meets at this instant, by the caches or by the tables (R301, R304). -/
def State.fetchBad (s : State) (g : Nat) (pc : Word) (sv : Bool) : Option (BitVec 8) :=
  let n : Need := { rd := false, wr := false, ex := true, sv := sv }
  if pc.toNat ≥ 2 ^ 52 then some cPAGE_NP
  else
    match cacheLook (s.threadTiers g) pc.toNat n with
    | some e =>
      match s.useLeaf e.leaf e.level pc.toNat n with
      | .ok _ => none
      | .bad c => some c
    | none =>
      match s.xlNow pc.toNat n with
      | .ok _ => none
      | .bad c => some c

/-- The registers that a trap writes (R35): status to estat, the bundle's address to epc, the cause and value, supervisor
privilege with completions off, and the handler's address. Reservations are lost (R121). -/
def Thread.trapped (t : Thread) (cause : BitVec 8) (ev : Word) (slotB cm : Bool) : Thread :=
  { t with
    run := .run
    estat := t.status
    epc := t.ctx.pc
    ecause := causeWord cause slotB cm
    eval := ev
    sv := true
    uie := false
    ctx := { t.ctx with pc := t.ehand }
    resv := loseAll t.resv
    entry := true
    atIssue := false
    futw := false
    walked := none
    fetchw := none
    farbuf := []
    verdict := none }

/-- A fault on fetching the bundle at ehand halts the thread, with a record of cause HANDLER_FAULT (R38, R317). -/
def State.handlerHalt (s : State) (g : Nat) : State :=
  let t := s.thread g
  (s.modThread g fun t => { t with run := .halted, atIssue := false, walked := none, fetchw := none }).addRec (unitField g)
    { s.threadRec g cHANDLER_FAULT with halt := true, pos := t.ehand, aux := t.ecause }

/-- Tests the fetch at ehand when the trap is taken. -/
def State.handlerFetch (s : State) (g : Nat) : State :=
  match s.fetchBad g (s.thread g).ehand true with
  | none => s
  | some _ => s.handlerHalt g

/-- A thread reports its recorded LINK_LOST by the trap that it causes, which clears the record; a trap that it takes instead, carried by
an earlier result, leaves it (R134). -/
def State.reported (s : State) (g : Nat) (cm : Bool) : State :=
  if s.iss.report && !cm then s.modThread g fun t => { t with lkl := none } else s

/-- Takes a trap on a swarm thread (R35). -/
def State.trapEntry (s : State) (g : Nat) (cause : BitVec 8) (ev : Word) (slotB cm : Bool) : State :=
  (((s.modThread g fun t => t.trapped cause ev slotB cm).reported g cm).handlerFetch g).taken

/-- A swarm bundle meets a precise trap: a speculative task aborts and waits to be oldest (R346); open windows close, a
fault that a result carries coming first (R280, R304); until every result has arrived the thread waits. -/
def State.trapThread (s : State) (g : Nat) (cause : BitVec 8) (ev : Word) (slotB : Bool) : State :=
  let t := s.thread g
  if t.spec then (s.abortPark g).taken
  else if t.ctx.pend.all Pending.ready then
    let s1 := s.modThread g fun t => { t with ctx := t.ctx.close }
    match firstFault t.ctx.pend with
    | some (c, e) => s1.trapEntry g c e false true
    | none => s1.trapEntry g cause ev slotB false
  else s.markWait

/-- Halts a tile core at its bundle: nothing of the bundle is done, and its region raises a record (R192). -/
def State.haltFault (s : State) (k : Nat) (cause : BitVec 8) (route : Nat) : State :=
  ((s.modTcore k fun c => { c with run := .faulted cause, waited := none }).tileNotice (coreTile k) 0 (k % 4) cause true
    route 0 (s.tcore k).ctx.pc 0 0).taken

/-- The bundle in hand raises an exception: a trap on a swarm thread, a halt of a tile core (R20, R35, R192). -/
def State.raise (s : State) (cause : BitVec 8) (ev : Word) (slotB : Bool := false) : Out :=
  match s.cur with
  | .thread g => .next (s.trapThread g cause ev slotB)
  | .core k => .next (s.haltFault k cause 0)

/-- UND and PRIV hold the bundle in eval (R37). -/
def State.und (s : State) : Out := s.raise cUND s.iss.word
def State.priv (s : State) : Out := s.raise cPRIV s.iss.word

/-- Return from a trap (R39): sv, uie and inuh come from estat, and the thread continues at epc. -/
def State.trapReturn (s : State) (g : Nat) : State :=
  let t := s.thread g
  (s.modThread g fun t => { t with sv := bit t.estat 1, uie := bit t.estat 4, inuh := bit t.estat 5 }).jump
    (wd (bits t.epc 3 49 * 8))

/-! ## Futures (R310 to R312) -/

/-- The lowest free entry of a field's pool (R311). -/
def Field.freeFut (x : Field) : Option Nat :=
  (List.range x.fpcount).find? fun k => (Tab.get none x.futs k).isNone

/-- The bytes of a future entry when it is taken (R311): the resolution word, no verdict, class and state 1, the address,
and the image of a thread. Its record's number is written with the record. -/
def futBytes (cls : Nat) (va : Word) (image : List Byte) : List Byte :=
  leBytes 16 (SyncW.set 0 1).word ++ leBytes 8 0 ++ leBytes 8 (cls * 32 + 1) ++ leBytes 8 va.toNat ++ leBytes 8 0 ++
    zeros 0x7D0 ++ (if image = [] then zeros 0x800 else image)

/-- Takes a future entry of a field for a unit, if one is free (R311). -/
def State.takeFut (s : State) (f : Nat) (cls : Nat) (unit : FutUnit) (va : Word) (image : List Byte)
    (r : FRec) : Option State :=
  match (s.field f).freeFut with
  | none => none
  | some k =>
    let a := (s.field f).fpbase.toNat + 4096 * k
    let s1 := ((s.noteWrite none none a 4096).poke a (futBytes cls va image)).modField f fun x =>
      { x with futs := Tab.set none x.futs k (some { unit := unit, va := va }) }
    some (s1.addRec f { r with fent := some k })

/-- The thread as a future's image keeps it: reservations lost, halted, no due event (R225, R312). -/
def Thread.saved (t : Thread) : Thread :=
  { t with run := .halted, resv := loseAll t.resv, due := [], dueN := 0, atIssue := false, walked := none, fetchw := none, farbuf := [], verdict := none
           futw := false, nextCyc := 0 }

/-- A user thread's PAGE_NP makes it a future at its bundle (R312): windows close, its state goes into the entry's image,
its slot is freed and its ticket stays outstanding. With no free entry it waits at its bundle, and so it does while its
oldest store is on its way (log 20). -/
def State.future (s : State) (g : Nat) (va : Word) : State :=
  let t := s.thread g
  if t.spec then (s.abortPark g).taken
  else if t.ctx.pend.all Pending.ready && !t.sb.any SbEntry.sent then
    let s1 := s.modThread g fun t => { t with ctx := t.ctx.close }
    match firstFault t.ctx.pend with
    | some (c, e) => s1.trapEntry g c e false true
    | none =>
      let th := (s1.thread g).saved
      match s1.takeFut (unitField g) 5 (.thread th g) va th.image
          { s1.threadRec g cPAGE_NP with va := va, pos := t.ctx.pc, aux := va } with
      | some s2 => (s2.freeSlot g).taken
      | none => (s.modThread g fun t => { t with futw := true }).markWait
  else s.markWait

/-- A bundle meets PAGE_NP (R310): a trap at supervisor privilege, or for an address beyond 52 bits; a future at user
privilege. -/
def State.pageNp (s : State) (va : Word) : Out :=
  match s.cur with
  | .thread g =>
    if (s.thread g).sv || decide (va.toNat ≥ 2 ^ 52) then .next (s.trapThread g cPAGE_NP va false)
    else .next (s.future g va)
  | .core k => .next (s.haltFault k cUND 0)

/-- A bundle meets a translation fault. -/
def State.xlFault (s : State) (cause : BitVec 8) (va : Word) : Out :=
  if cause = cPAGE_NP then s.pageNp va else s.raise cause va

/-! ## Guards -/

/-- A form of class S: UND on a tile core (R20, R78). -/
def State.swarm (s : State) (k : Nat → Out) : Out :=
  match s.cur with
  | .thread g => k g
  | .core _ => s.und

/-- A form of class T: UND on a swarm thread. -/
def State.tileMode (s : State) (k : Nat → Out) : Out :=
  match s.cur with
  | .thread _ => s.und
  | .core c => k c

/-- A privileged form of class S: PRIV at user privilege (R21). -/
def State.super (s : State) (k : Nat → Out) : Out :=
  match s.cur with
  | .thread g => if (s.thread g).sv then k g else s.priv
  | .core _ => s.und

/-- A form that does not run speculatively (R116, R344): it waits at issue until its task is oldest, which then goes
plain. -/
def State.plainly (s : State) (k : State → Out) : Out :=
  match s.cur with
  | .thread g =>
    if (s.thread g).spec then (if s.isOldest g then k (s.goPlain g) else s.wait) else k s
  | .core _ => k s

/-! ## Accesses of a thread (R111, R112, R304) -/

/-- Whether a range lock overlaps a byte range (R112, R261). -/
def State.locked (s : State) (va n : Nat) : Bool := s.dev.locks.any fun l => overlaps va n l.lo (l.hi - l.lo)

/-- What the checks of an access answer: the translation, a wait for the walk, or a cause. -/
inductive Acc where
  | ok (p : Phys)
  | miss
  | bad (cause : BitVec 8)
  deriving DecidableEq, Repr

/-- The checks of an access of `n` bytes, in the order of R304: ea[63:52], alignment, the walk, permission and seal, the
range locks. -/
def State.check (s : State) (g : Nat) (ea : Word) (n align : Nat) (need : Need) (locks : Bool) : Acc :=
  if ea.toNat ≥ 2 ^ 52 then .bad cPAGE_NP
  else if ea.toNat % align ≠ 0 then .bad cALIGN
  else
    match s.xlThread g ea.toNat need with
    | .miss => .miss
    | .bad c => .bad c
    | .ok p => if locks && s.locked ea.toNat n then .bad cRLOCK else .ok p

/-- What a thread needs of its translation for an access. -/
def State.need (s : State) (g : Nat) (rd wr : Bool) (form : NeedForm) : Need :=
  { rd := rd, wr := wr, ex := false, sv := (s.thread g).sv, form := form }

/-- Whether an ordering access at system scope has not been performed yet: later accesses wait for it (R131, R133). -/
def Pending.holds (p : Pending) : Bool :=
  !p.ready && (match p.fly with
    | .no => false
    | .load _ acq => acq
    | .preempt => false)

/-- Whether a load at system scope has not been performed yet. -/
def Pending.flying (p : Pending) : Bool :=
  !p.ready && (match p.fly with
    | .no => false
    | .load _ _ => true
    | .preempt => false)

def State.heldBack (s : State) (g : Nat) : Bool := (s.thread g).ctx.pend.any Pending.holds

/-- A miss holds the bundle at issue until the walk ends (R112). -/
def State.waitWalk (s : State) (g : Nat) (va : Nat) (kind : Access) : Out :=
  (s.startWalk (unitBlk g) va kind (.thread g)).wait

/-- Makes an access: runs `k` with its translation when the checks pass; it waits for an earlier access that orders. -/
def State.access (s : State) (g : Nat) (ea : Word) (n align : Nat) (rd wr : Bool) (form : NeedForm) (locks : Bool)
    (k : Phys → Out) : Out :=
  match s.check g ea n align (s.need g rd wr form) locks with
  | .ok p =>
    if s.heldBack g then s.wait
    else
      match s.atEdge p with
      | some b => (s.wakeBlk b).wait
      | none => k p
  | .miss => s.waitWalk g ea.toNat (if wr then .write else .read)
  | .bad c => s.xlFault c ea

/-- Whether an access is at system scope (R115, R338): an RM page or host memory. -/
def Home.isSystem : Home → Bool
  | .host => true
  | .remote _ => true
  | .dram | .aperture | .regs => false

/-- An RM page is at system scope whichever device it names (R115, R116, R301). -/
def Phys.isSystem (p : Phys) : Bool := p.rm || p.home.isSystem

end Sys2Proof.Machine
end

