-- ==== Sys2Proof/Machine/Link.lean ====
section
/-!
DEFINITION. Packets and frames on the Marold links: routes to devices (R391, R422), sequence numbers (R392), the cipher of a
sealed job (R415), credits and the replay buffer (R388, R389), and memory requests to other devices (R338).
-/
namespace Sys2Proof.Machine

/-! ## Routes to devices -/

def PortRun.live : PortRun → Bool
  | .up => true
  | .down | .training => false
  | .retraining _ => true

/-- The live port of a route-table word: the primary, or the alternate when the primary is not live (R391, R422). -/
def State.livePort (s : State) (dest : Nat) : Option Nat :=
  let w := (Tab.get 0 s.dev.routes dest).toNat
  let pri := bitsN w 0 4
  let alt := bitsN w 4 4
  if bitsN w 8 1 = 1 ∧ (s.port pri).run.live = true then some pri
  else if bitsN w 9 1 = 1 ∧ (s.port alt).run.live = true then some alt
  else none

/-! ## Frames -/

/-- The bits of a frame below its CRC (R387). -/
def Frame.low (f : Frame) (lseq lack crd : Nat) : Nat :=
  f.body.toNat + f.sdev.toNat * 2 ^ 320 + f.ddev.toNat * 2 ^ 330 + f.esn.toNat * 2 ^ 340 + f.sname.toNat * 2 ^ 372 +
    f.fidx.toNat * 2 ^ 388 + f.last.toNat * 2 ^ 390 + lseq * 2 ^ 392 + lack * 2 ^ 408 + f.ftype.toNat * 2 ^ 424 +
    crd * 2 ^ 426

/-- The 512 bits of a frame, CRC included. -/
def Frame.encode (f : Frame) (lseq lack crd : Nat) : BitVec 512 :=
  let x := f.low lseq lack crd
  BitVec.ofNat 512 (x + crc32c (leBytes 60 x) * 2 ^ 480)

/-- The frame that 512 bits carry. -/
def frameOf (x : Nat) : Frame :=
  { ftype := BitVec.ofNat 2 (bitsN x 424 2), last := bitsN x 390 1 == 1, fidx := BitVec.ofNat 2 (bitsN x 388 2)
    sname := BitVec.ofNat 16 (bitsN x 372 16), esn := BitVec.ofNat 32 (bitsN x 340 32)
    ddev := BitVec.ofNat 10 (bitsN x 330 10), sdev := BitVec.ofNat 10 (bitsN x 320 10), body := BitVec.ofNat 320 x
    kind := if bitsN x 424 2 = 0 then bitsN x 60 4 else 0 }

/-- The virtual channel whose credit a packet's frame spends: that of its flits, in a sealed job too; answers spend none (log 13). -/
def Frame.vc (f : Frame) : Option Nat := if f.ftype = 0 then some (vcOfKind f.kind) else none

/-- Whether a frame belongs to a packet that is answered: an invocation, a reply or a memory request (R393). -/
def Frame.answered (f : Frame) : Bool := f.ftype == 0 && decide (2 ≤ f.kind) && decide (f.kind ≤ 4)

/-- The buffer counts that a frame returns, four bits a channel (R387). -/
def crdOf (l : List Nat) : Nat :=
  min (l.getD 0 0) 15 + min (l.getD 1 0) 15 * 16 + min (l.getD 2 0) 15 * 256 + min (l.getD 3 0) 15 * 4096

/-- Puts a frame on the link with the next sequence number, keeping it in the replay buffer (R389). -/
def MPort.emit (p : MPort) (f : Frame) : MPort :=
  let q := p.txSeq + 1
  { p with txSeq := q, replay := p.replay ++ [(q, f)]
           out := f.encode q.toNat p.rxSeq.toNat (crdOf p.freed) :: p.out
           freed := p.freed.map fun n => n - min n 15 }

/-- Sends waiting frames while credits and the replay buffer allow (R388, R389). A frame that must wait for its channel's
credit lets frames of other channels pass; an answer stays behind a memory response to the same device, which is sent before it (R393). -/
def MPort.pump (p : MPort) : List Frame → MPort
  | [] => p
  | f :: l =>
    let ok := p.run == .up && decide (p.replay.length < 256) &&
      (match f.vc with | none => true | some v => decide (0 < p.credit.getD v 0))
    let first := match f.vc with
      | none => !(p.waitq.any fun x => x.vc == some 2 && x.ddev == f.ddev)
      | some v => !(p.waitq.any fun x => x.vc == some v)
    if ok && first then
      let p1 := match f.vc with
        | none => p
        | some v => { p with credit := p.credit.set v (p.credit.getD v 0 - 1) }
      (p1.emit f).pump l
    else ({ p with waitq := p.waitq ++ [f] }).pump l

/-- Tries a port's waiting frames again. -/
def MPort.drain (p : MPort) : MPort := ({ p with waitq := [] }).pump p.waitq

/-- Hands frames to a port; with none outstanding before, they are from now on (R390). -/
def State.portSend (s : State) (p : Nat) (fs : List Frame) : State :=
  s.modPort p fun x => ({ x with waitq := x.waitq ++ fs, since := if x.replay = [] then s.ns else x.since }).drain

/-! ## Packets (R392, R415) -/

/-- The frames of a packet. -/
def packetFrames (sname esn dest own : Nat) (bodies : List (BitVec 320)) : List Frame :=
  (List.range bodies.length).map fun i =>
    { ftype := 0, last := decide (i + 1 = bodies.length), fidx := BitVec.ofNat 2 i, sname := BitVec.ofNat 16 sname
      esn := BitVec.ofNat 32 esn, ddev := BitVec.ofNat 10 dest, sdev := BitVec.ofNat 10 own, body := bodies.getD i 0
      kind := hKind (flitOf (bodies.getD i 0)).hdr }

/-- The associated data of a packet's cipher: bits 389:320 of its first frame (R415), as nine little-endian bytes
(log 14). -/
def packetAad (f : Frame) : List Byte := leBytes 9 (bitsN (f.low 0 0 0) 320 70)

/-- The nonce of a packet's cipher (R415), its fields from the most significant bit (log 14). -/
def packetNonce (sdev ddev wraps esn : Nat) : List Byte :=
  beBytes 12 (sdev * 2 ^ 86 + ddev * 2 ^ 76 + wraps % 2 ^ 32 * 2 ^ 32 + esn)

/-- Splits bytes into bodies of 40. -/
def bodiesOf : Nat → List Byte → List (BitVec 320)
  | 0, _ => []
  | n + 1, l => BitVec.ofNat 320 (leNat (l.take 40)) :: bodiesOf n (l.drop 40)

/-- Encrypts a packet's frames for a sealed job: the bodies, and a tag frame after them (R415). -/
def sealFrames (key : List Byte) (wraps : Nat) (fs : List Frame) : List Frame :=
  match fs with
  | [] => []
  | f :: _ =>
    let pt := fs.flatMap fun f => leBytes 40 f.body.toNat
    let r := gcmSeal key (packetNonce f.sdev.toNat f.ddev.toNat wraps f.esn.toNat) (packetAad f) pt
    let bs := bodiesOf fs.length r.1
    ((List.range fs.length).map fun i => { fs.getD i f with body := bs.getD i 0, last := false }) ++
      [{ f with fidx := BitVec.ofNat 2 fs.length, last := true, body := BitVec.ofNat 320 (leNat r.2) }]

/-- The next sequence number to a device, and the wraps of its counter (R392). -/
def esnOf (count : Nat) : Nat × Nat := (count % (2 ^ 32 - 1) + 1, count / (2 ^ 32 - 1))

/-- Unanswered packets to a device that have been sent. -/
def State.unansTo (s : State) (dest : Nat) : Nat :=
  (s.dev.unans.filter fun u => decide (u.dest = dest) && !u.held).length

/-- Sends a packet to another device by its live port; none when there is no live port (R391). An invocation, reply or
memory request is kept until it is answered; beyond 4,096 of them to one device a further packet waits (R392). -/
def State.sendPacket (s : State) (dest sname : Nat) (kind : Option PKind) (flits : List Flit) : Option State :=
  match s.livePort dest with
  | none => none
  | some p =>
    let e := esnOf (Tab.get 0 s.dev.esn dest)
    let fs := packetFrames sname e.1 dest s.dev.devnum (flits.map Flit.body)
    let fs := match s.dev.marKey with
      | some k => if s.dev.sealed then sealFrames k e.2 fs else fs
      | none => fs
    let s1 := s.modDev fun d => { d with esn := Tab.set 0 d.esn dest (Tab.get 0 d.esn dest + 1) }
    match kind with
    | none => some (s1.portSend p fs)
    | some k =>
      let held := decide (s.unansTo dest ≥ 4096)
      let s2 := s1.modDev fun d =>
        { d with unans := d.unans ++ [{ held := held, tag := hKs ((flits.map Flit.hdr).headD 0), esn := BitVec.ofNat 32 e.1, dest := dest, port := p, kind := k,
                                        frames := fs }] }
      some (if held then s2 else s2.portSend p fs)

/-! ## Answers (R393) -/

/-- What stands for the answer of a packet that has arrived and is not answered yet. -/
def unanswered : BitVec 8 := 0xFF

/-- Keeps the answers of the last 4,096 sequence numbers of one source device, newest first. -/
def keepAnswer (l : List (Nat × BitVec 32 × BitVec 8)) (dev : Nat) (esn : BitVec 32) (st : BitVec 8) :
    List (Nat × BitVec 32 × BitVec 8) :=
  let old := l.filter fun a => !(a.1 == dev && a.2.1 == esn)
  (dev, esn, st) :: (old.filter fun a => a.1 != dev) ++ (old.filter fun a => a.1 == dev).take 4095

/-- An answer frame (R393); its own esn field is 0 (log 13). -/
def answerFrame (own dest : Nat) (esn : BitVec 32) (st : BitVec 8) : Frame :=
  { ftype := 3, last := true, fidx := 0, sname := 0, esn := 0, ddev := BitVec.ofNat 10 dest, sdev := BitVec.ofNat 10 own
    body := st.setWidth 320 <<< 32 ||| esn.setWidth 320 }

/-- Sends an answer on its way back, by the live port towards the packet's source. -/
def State.sendAnswer (s : State) (dev : Nat) (esn : BitVec 32) (st : BitVec 8) : State :=
  match s.livePort dev with
  | none => s
  | some p => s.portSend p [answerFrame s.dev.devnum dev esn st]

/-- Answers a packet and keeps the answer for its duplicates. -/
def State.answer (s : State) (dev : Nat) (esn : BitVec 32) (st : BitVec 8) : State :=
  (s.modDev fun d => { d with answers := keepAnswer d.answers dev esn st }).sendAnswer dev esn st

/-! ## Memory requests (R338) -/

/-- The forms of a memory request as numbers: 0 a load, 1 a store, then the reductions and the atomics by operation, width and sign. -/
def memFormRed (op : Nat) (w32 uns : Bool) : Nat := 16 + op * 4 + w32.toNat * 2 + uns.toNat
def memFormAmo (op : Nat) (w32 uns : Bool) : Nat := 64 + op * 4 + w32.toNat * 2 + uns.toNat

/-- The failure port that LINK_LOST names when no live port remains: the primary port of the route word (R37). -/
def State.lostPort (s : State) (dest : Nat) : BitVec 4 := BitVec.ofNat 4 (bitsN (Tab.get 0 s.dev.routes dest).toNat 0 4)

/-- Sends a memory request for thread `g`; the completion tag is the request's number (R89). -/
def State.sendMem (s : State) (g tok dest addr n form : Nat) (data : BitVec 256) (store : Bool) : Option State :=
  s.sendPacket dest (coreName (threadCore g)) (some (if store then .store g else .mem g tok))
    [{ hdr := mkHdr 4 0 0 0 0 0 0 (tok % 2 ^ 14), pay := Config.memReqPayload addr n form data }]

end Sys2Proof.Machine
end

