-- ==== Sys2Proof/Machine/Fetch.lean ====
section
/-!
DEFINITION. Fetching a bundle (R69, R221, R300, R301) and the moments at which a unit may act: open windows (R72, R279),
due events (R33, R223, R281), the mode classes of slot A (R20, R78).
-/
namespace Sys2Proof.Machine

/-! ## Fetch -/

/-- How a fetch ends: with the bundle's word, with the thread waiting at its bundle, or with a cause. -/
inductive Fetched where
  | got (w : Word) (s : State)
  | wait (s : State)
  | bad (cause : BitVec 8) (ev : Word)
  deriving DecidableEq, Repr

/-- The doubleword at an offset of a line. -/
def lineWord (data : BitVec 512) (off : Nat) : Word := wd (bitsN data.toNat (8 * off) 64)

/-- The line of a core's L1 that holds an address, unless it has left the L1 since (R221, log 15). -/
def State.ilineAt (s : State) (c va pa : Nat) : Option ILine :=
  match (s.core c).ilines.find? fun l => decide (l.va = va / 64 * 64) && decide (l.pa = pa / 64 * 64) with
  | none => none
  | some l => if Config.lineGone s.tick va then none else some l

/-- Enters a line in a core's L1: 32 KiB are 512 lines, and a full L1 drops its oldest (log 15). -/
def addLine (l : List ILine) (x : ILine) : List ILine :=
  let k := l.filter fun y => decide (y.va ≠ x.va)
  (k ++ [x]).drop (k.length + 1 - 512)

/-- Fetches through the core's L1: an instruction line stays as it was read until it leaves (R221). -/
def State.fetchLine (s : State) (g va pa : Nat) : Fetched :=
  match s.ilineAt (threadCore g) va pa with
  | some l => .got (lineWord l.data (va % 64)) s
  | none =>
    let x := BitVec.ofNat 512 (s.peek (pa / 64 * 64) 64)
    .got (lineWord x (va % 64)) (s.modCore (threadCore g) fun c =>
      { c with ilines := addLine c.ilines { va := va / 64 * 64, pa := pa / 64 * 64, data := x } })

/-- A fetch from another device: the thread waits at its bundle for the response (R338); with no live path the bundle
meets LINK_LOST. -/
def State.fetchFar (s : State) (g va dev pa : Nat) : Fetched :=
  let ask : Fetched :=
    match s.sendPacket dev (coreName (threadCore g)) (some (.fetch g va))
      [{ hdr := mkHdr 4 0 0 0 0 0 0 (s.fresh % 2 ^ 14), pay := Config.memReqPayload pa 8 0 0 }] with
    | some s1 => .wait (((s1.next).modThread g fun t => { t with fetchw := some (va, none) }).markWait)
    | none => .bad cLINK_LOST ((s.lostPort dev).setWidth 64)
  match (s.thread g).fetchw with
  | some (a, some w) => if a = va then .got w s else ask
  | some (a, none) => if a = va then .wait s.markWait else ask
  | none => ask

/-- Fetches the bundle at a swarm thread's pc. -/
def State.fetchThread (s : State) (g : Nat) : Fetched :=
  let va := (s.thread g).ctx.pc.toNat
  let n : Need := { rd := false, wr := false, ex := true, sv := (s.thread g).sv }
  if va ≥ 2 ^ 52 then .bad cPAGE_NP (s.thread g).ctx.pc
  else
    match s.xlThread g va n with
    | .miss => .wait ((s.startWalk (unitBlk g) va .fetch (.thread g)).markWait)
    | .bad c => .bad c (s.thread g).ctx.pc
    | .ok p =>
      match p.home with
      | .dram => s.fetchLine g va p.pa
      | .remote dev => s.fetchFar g va dev p.pa
      | .aperture | .regs | .host => .got (wd (s.homeRead p 8)) s

/-- Fetches the bundle at a tile core's pc from its context's code (R8, R163); an address without code holds no
instruction. -/
def State.fetchTile (s : State) (k : Nat) : Fetched :=
  match s.tileCtx (coreTile k) with
  | none => .got 0 s
  | some x => .got (Tab.get 0 x.code (s.tcore k).ctx.pc.toNat) s

def State.fetch (s : State) : Fetched :=
  match s.cur with
  | .thread g => s.fetchThread g
  | .core k => s.fetchTile k

/-! ## Mode classes (R78) -/

inductive Mode where
  | swarm | tile | both
  deriving DecidableEq, Repr, Inhabited

/-- The mode class of a slot-A form; slot B runs in both modes (R76). -/
def Instr.mode : Instr → Mode
  | .beq .. | .bne .. | .blt .. | .bge .. | .bltu .. | .bgeu .. | .jal .. | .jalr .. | .bany .. | .bnone ..
  | .ldb .. | .ldbu .. | .ldh .. | .ldhu .. | .ldw .. | .ldwu .. | .ldd .. | .stb .. | .sth .. | .stw .. | .std ..
  | .vld .. | .vst .. | .vgather .. | .vscatter .. | .pf .. | .acqL .. | .relL .. | .amoAdd .. | .amoSwap ..
  | .amoCas .. | .amoMin .. | .amoMax .. | .amoAnd .. | .amoOr .. | .amoXor .. | .waitR .. | .redAdd .. | .redMin ..
  | .redMax .. | .redAnd .. | .redOr .. | .redXor .. | .redFaddW .. | .fence .. | .ldAcq .. | .stRel .. | .spawn ..
  | .spawnT .. | .callat .. | .invoke .. | .invokeW .. | .invokeT .. | .quit .. | .reply .. | .recv .. | .abq ..
  | .xfer .. | .rlq .. | .trap .. | .eret | .uret | .wfi | .wfit .. | .tlbi .. | .icinv .. | .ctxSave .. | .ctxLoad ..
  | .preemptHalt .. | .preemptTrap .. | .preemptResume .. | .halt => .swarm
  | .acpy .. | .srecv .. | .ssend .. | .smerge .. | .ssplit .. | .sstop .. | .ssteer .. | .speek .. | .spred ..
  | .rqpush .. | .rqpop .. | .esc .. | .escO .. | .ctxsw .. | .mgPp | .mgPe | .mgEp | .mgEe | .mgGp | .mgGe | .mzero
  | .mdrain .. | .mspx .. | .mspxN .. | .mdset .. | .mdadv .. | .mdadvR .. => .tile
  | _ => .both

/-- Whether a form stands in the wrong mode for the unit in hand (R20). -/
def State.wrongMode (s : State) (i : Instr) : Bool :=
  match Instr.mode i with
  | .both => false
  | .swarm => s.inTile
  | .tile => !s.inTile

/-- Whether a number is a control register of a mode (R23, R24). -/
def csrExists (tile : Bool) (n : Nat) : Bool :=
  if tile then [0x001, 0x002, 0x003, 0x010, 0x020, 0x021, 0x200, 0x201].contains n
  else csrListed.contains n && decide (n < 0x200)

/-- Whether a form names a control register that the unit's mode has not (R24). -/
def State.wrongCsr (s : State) (i : Instr) : Bool :=
  match i with
  | .csrr _ n | .csrw n _ => !csrExists s.inTile n.toNat
  | _ => false

/-- The slot named by a bundle that does not decode: the first faulty one, slot A before slot B (R85). -/
def State.undSlotB (s : State) (w : Word) (inB : Bool) : Bool :=
  inB &&
    match decodeA (slotA w) none with
    | .error _ => false
    | .ok a => !s.wrongMode a && !s.wrongCsr a

/-! ## Windows and due events -/

/-- The results whose window has ended (R279). -/
def Ctx.expired (c : Ctx) : List Pending := c.pend.filter fun p => p.left == 0

/-- Whether a completion diversion is due (R33). -/
def Thread.diverts (t : Thread) : Bool := t.uie && !t.inuh && !t.comps.isEmpty

/-- Whether an event is due for the thread's next boundary (R281). -/
def Thread.eventDue (t : Thread) : Bool := !t.due.isEmpty || t.diverts

/-- Closes the windows of a thread whose results have all arrived (R280): answers the thread with its results committed,
or with a trap taken for a fault that one carries. -/
def State.closeThread (s : State) (g : Nat) : State × Bool :=
  let t := s.thread g
  let s1 := s.modThread g fun t => { t with ctx := t.ctx.close }
  match firstFault t.ctx.pend with
  | none => (s1, true)
  | some (c, e) =>
    if t.spec then ((s1.abortPark g).taken, false) else (s1.trapEntry g c e false true, false)

end Sys2Proof.Machine
end

