-- ==== Sys2Proof/Machine/Region.lean ====
section
/-!
DEFINITION. Tile SRAM addresses (R166, R292), the records of fabric units (R308, R309), regions and their current contexts (R228, R237), and the cycles that a stall-limit counter counts (R315, R316,
R319, R330, R419).
-/
namespace Sys2Proof.Machine

/-! ## Tile SRAM -/

/-- The physical address of an offset in a tile's SRAM (R292). -/
def sramAddr (t off : Nat) : Nat := 0xF00000000000 + t / 256 * 2 ^ 28 + t / 32 % 8 * 2 ^ 25 + t % 32 * 2 ^ 20 + off

/-- The `n` bytes at an offset of a tile's SRAM, as a number. -/
def State.sramRead (s : State) (t off n : Nat) : Nat := s.peek (sramAddr t off) n

/-- One bank event that writes bytes to a tile's SRAM. -/
def State.sramWrite (s : State) (t off : Nat) (l : List Byte) : State :=
  s.performWrite none none { pa := sramAddr t off, home := .aperture, sw := false } 0 l

/-! ## Regions (R228, R237) -/

/-- Context `c` of a graph, as declared. -/
def Graph.ctx (g : Graph) (c : Nat) : Option GCtx := (g.desc.ctxs.getD c none)

/-- The contexts of a graph that are current on one of the listed tiles, and on one of its own. -/
def State.currentOn (s : State) (gid : Nat) (ts : List Nat) : List Nat :=
  (ts.filterMap fun t =>
    match s.tileCtx t with
    | none => none
    | some x => if x.gid = gid then some x.gctx else none).eraseDups
def State.current (s : State) (gid : Nat) (g : Graph) : List Nat := s.currentOn gid g.place

/-- The declared routes of a graph's current contexts. -/
def State.routesNow (s : State) (gid : Nat) (g : Graph) : List (GCtx × Route) :=
  (s.current gid g).flatMap fun c =>
    match g.ctx c with
    | none => []
    | some x => x.routes.map fun r => (x, r)

/-- The graph, with its context, that declares a route with a producer or consumer that passes a test, among the graphs whose
contexts are current. -/
def State.findRoute (s : State) (num : Nat) (p : Graph → Route → Bool) : Option (Nat × Graph × GCtx × Route) :=
  s.dev.graphs.findSome? fun e =>
    match e.2 with
    | none => none
    | some g =>
      (((s.routesNow e.1 g).find? fun cr => decide (cr.2.num = num) && p g cr.2).map fun cr => (e.1, g, cr.1, cr.2))

/-- The adders of a context: the port, and the routes into it from a Marold port and from a node. -/
def GCtx.adders (x : GCtx) : List (Nat × List Nat × List Nat) :=
  ((List.range 16).filter fun p => x.routes.any fun r => r.dsts.any fun d => d.2 == .lpAdd p).map fun p =>
    let rs := x.routes.filter fun r => r.dsts.any fun d => d.2 == .lpAdd p
    let up (r : Route) : Bool := match r.src with
      | .lp _ => true
      | .node _ | .xq _ _ => false
    let loc (r : Route) : Bool := match r.src with
      | .node _ => true
      | .lp _ | .xq _ _ => false
    (p, (rs.filter up).map Route.num, (rs.filter loc).map Route.num)

/-- What stands at an adder's input for a route, and that input with one more token. -/
def Adder.input (a : Adder) (route : Nat) : List Flit := if a.upr = route then a.up else a.loc
def Adder.put (a : Adder) (route : Nat) (f : Flit) : Adder :=
  if a.upr = route then { a with up := a.up ++ [f] } else { a with loc := a.loc ++ [f] }

/-- The pair of an adder that a route's tokens enter: that of a current context, if one declares the pair. -/
def State.adderFor (s : State) (p route : Nat) : Option Adder :=
  let l := (s.adders p).filter fun a => a.upr == route || a.locr == route
  let now (a : Adder) : Bool := ((s.graph a.gid).map fun g => ((s.current a.gid g).filterMap g.ctx).any fun x =>
    x.adders.contains (p, [a.upr], [a.locr])).getD false
  (l.find? now).or l.head?

/-- The graph that owns a router's entry for a route (R237). -/
def State.routeOwner (s : State) (r route : Nat) : Option Nat :=
  match Tab.get 0 s.mesh.owner (4096 * r + route) with
  | 0 => none
  | n + 1 => some n

/-- A fabric unit's record: for the fault unit of the origin field of its region (R308, R309). -/
def State.regionRec (s : State) (blk cls idx sub : Nat) (cause : BitVec 8) (halt : Bool) (route : Nat) (va pos : Word) : FRec :=
  { cause := cause, halt := halt, route := route, sub := sub, unit := recUnit blk cls idx, va := va, pos := pos, time := s.ctime blk }

/-- A fabric unit's fault notice. -/
def State.regionNotice (s : State) (gid : Option Nat) (blk cls idx sub : Nat) (cause : BitVec 8) (halt : Bool)
    (route : Nat) (va pos : Word) : State :=
  s.addNotice (s.originField gid (blk / 8)) (s.regionRec blk cls idx sub cause halt route va pos)

/-- A router's own fault notice: class 6, index 0 (R90, R308). -/
def State.routerNotice (s : State) (gid : Option Nat) (r : Nat) (cause : BitVec 8) (halt : Bool) (route : Nat) : State :=
  s.noticeFrom r (s.originField gid (routerBlk r / 8)) (s.regionRec (routerBlk r) 6 0 0 cause halt route 0 0)

/-- Whether a token of a graph's route has not been taken by its consumer yet: it stands in a link, or in the inbound streamer of a
tile. -/
def State.onRoute (s : State) (gid route : Nat) : Bool :=
  (s.mesh.links.any fun e => s.routeOwner (e.1 / 20) route == some gid && e.2.any fun f => hRoute f.hdr == route) ||
    ((s.graph gid).map fun g => g.place.any fun t => (s.tile t).inbox.any fun e =>
      hRoute e.2.hdr == route && hKind e.2.hdr != 7).getD false

/-- How many flits of a graph's route stand in links. -/
def State.meshCount (s : State) (gid route : Nat) : Nat :=
  (s.mesh.links.map fun e =>
    if s.routeOwner (e.1 / 20) route == some gid then (e.2.filter fun f => hRoute f.hdr == route).length else 0).sum

/-- Whether the request ports of a block are absent: they hang on a dead router (R369, R370). -/
def State.portsGone (s : State) (b : Nat) : Bool := s.routerDead (xqRouter b)

/-! ## What stall-limit counters count (R315, R316, R319, R330, R419) -/

/-- The graph of a stalled unit of the fabric. -/
def State.futGraph (s : State) (u : FutUnit) : Option Nat :=
  match u with
  | .thread _ _ => none
  | .agen m => (s.agen m).map Agen.gid
  | .xfer id => (s.xfer id).bind Xfer.gid
  | .cmd x => ((s.xport x).arr.find? fun a => a.stall.isSome).map Arriving.gid

/-- Whether a future of a region is pending or resolving (R315). -/
def State.regionStalled (s : State) (gid : Nat) : Bool :=
  s.fields.any fun e => e.2.futs.any fun u => match u.2 with
    | none => false
    | some x => s.futGraph x.unit == some gid

/-- Whether a region is faulted (R316). -/
def State.regionFaulted (s : State) (gid : Nat) : Bool :=
  (match s.graph gid with
    | none => false
    | some g => g.bad || g.place.any fun t =>
        ((s.tileCtx t).map TileCtx.gid == some gid) &&
          (List.range 4).any fun k => match (s.tcore (4 * t + k)).run with
            | .faulted _ => true
            | .idle | .run | .held | .sync _ _ _ | .ctxsw _ => false) ||
  (s.dev.agens.any fun e => match e.2 with | none => false | some a => decide (a.gid = gid) && a.halted) ||
  (s.dev.convs.any fun e => match e.2 with | none => false | some a => decide (a.gid = gid) && a.halted) ||
  (s.dev.adders.any fun e => e.2.any fun a => decide (a.gid = gid) && a.halted)

/-- Whether a bucket's rate is below its cap; a cap of 0 is read as 256 (R419). -/
def Bucket.throttled (b : Bucket) : Bool := decide (b.eff < if b.cap = 0 then 256 else b.cap)

/-- Whether the stall-limit counters of a field stand still (R419). -/
def State.throttled (s : State) (f : Nat) : Bool :=
  (s.field f).bkmem.throttled || (s.field f).bkesc.throttled || s.dev.bklink.throttled || s.dev.bkhost.throttled

/-- Whether what a region's units send is discarded at its source, because its graph is being unloaded (R410). -/
def State.regionCut (s : State) (gid : Nat) : Bool := ((s.graph gid).map Graph.cut).getD false

/-- Whether a region has a unit or a route in one of the blocks that a test names. -/
def State.regionIn (s : State) (p : Nat → Bool) (gid : Nat) : Bool :=
  (s.blks.any fun e => p e.1) &&
    (((s.graph gid).map fun g => g.place.any (fun t => p (t / 32)) || g.convs.any fun c => p (c / 4)).getD false ||
      (s.dev.agens.any fun e => p (e.1 / 8) && (e.2.map Agen.gid) == some gid) ||
      s.mesh.owner.any fun e => e.2 == gid + 1 && p (routerBlk (e.1 / 4096)))

/-- Whether a block stands still for a planned retirement, and whether a region does: one with a unit or a route in such a block
(R375). -/
def State.blkStands (s : State) (b : Nat) : Bool := (s.blk b).moving.isSome
def State.regionStands (s : State) (gid : Nat) : Bool := s.regionIn s.blkStands gid

/-- Whether a region has a unit or a route in a block that is waking: the counters of its waits stand still (R420, log 129). -/
def State.blkWakes (s : State) (b : Nat) : Bool :=
  match (s.blk b).power with
  | .asked _ | .waking _ => true
  | .on | .gated => false
def State.regionWakes (s : State) (gid : Nat) : Bool := s.regionIn s.blkWakes gid

/-- Whether a counter of region `gid` in block `b` counts. -/
def State.counting (s : State) (b gid : Nat) : Bool :=
  (s.blk b).power == .on && !s.blkStands b && !s.regionStands gid && !s.regionWakes gid &&
    !s.throttled (b / 8) && !s.regionStalled gid && !s.regionFaulted gid

/-- The same for a unit that may belong to no region. -/
def State.countsFor (s : State) (b : Nat) (gid : Option Nat) : Bool :=
  match gid with
  | none => (s.blk b).power == .on && !s.blkStands b && !s.throttled (b / 8)
  | some i => s.counting b i

/-- The stall limit of a route in block cycles, from its entry at a router (R247, R330). -/
def State.routeLimit (s : State) (r route : Nat) : Nat :=
  let n := bitsN (Tab.get 0 s.mesh.rtab (4096 * r + route)).toNat 0 5
  if n = 0 then 65536 else 2 ^ n

/-- Adds block cycles to a wait. -/
def addWait (n : Nat) : Option Nat → Option Nat
  | none => none
  | some k => some (k + n)

/-- The counters of a block's waiting producers after `n` of its cycles. -/
def State.countWaits (s : State) (b n : Nat) : State :=
  { s with
    tcores := Tab.mapVals {} (fun k c =>
      match c.waited with
      | none => c
      | some (x, r) =>
        if unitBlk k = b ∧ c.halted = false ∧ s.counting b (((s.tileCtx (coreTile k)).map TileCtx.gid).getD 0) = true then
          { c with waited := some (x + n, r) }
        else c) s.tcores
    dev := { s.dev with
      agens := Tab.mapVals none (fun m x => match x with
        | none => none
        | some a => some (if m / 8 = b ∧ s.counting b a.gid = true then { a with waited := addWait n a.waited } else a)) s.dev.agens
      convs := Tab.mapVals none (fun c x => match x with
        | none => none
        | some a => some (if c / 4 = b ∧ s.counting b a.gid = true then { a with waited := addWait n a.waited } else a)) s.dev.convs
      xfers := Tab.mapVals none (fun _ x => match x with
        | none => none
        | some a =>
          some (if a.blk = b ∧ s.countsFor b (a.vgid.or a.gid) = true then { a with waited := addWait n a.waited } else a)) s.dev.xfers } }

end Sys2Proof.Machine
end

