-- ==== Sys2Proof/Machine/Paths.lean ====
section
/-!
DEFINITION. Paths through the mesh: what a route's entries say (R247, R248), the routers and units that they lead to, the link
dependencies that they make (R250), the loader's paths around what is dead or taken (R246, R373), and the masks of steer entries (R322).
-/
namespace Sys2Proof.Machine

/-! ## Entries (R247, R248) -/

/-- The router at which a hop arrives, and the side from which it arrives. -/
def neighbour (r : Nat) : Dir → Option (Nat × Dir)
  | .east => if routerX r < 95 then some (r + 1, .west) else none
  | .west => if 0 < routerX r then some (r - 1, .east) else none
  | .south => if routerY r < 71 then some (r + 96, .north) else none
  | .north => if 0 < routerY r then some (r - 96, .south) else none
  | .inject => none

/-- The directions that a fork and, on a steered route, the masks of a steer entry select: local, east, west, north, south
(R247, R322). -/
def forkBits : List (Nat × Option Dir) :=
  [(4, none), (3, some .east), (2, some .west), (1, some .north), (0, some .south)]

/-- The fork field of an entry, and its number of directions. -/
def entryFork (e : Nat) : Nat := bitsN e 12 5
def forkCount (e : Nat) : Nat := (forkBits.filter fun b => bitsN (entryFork e) b.1 1 == 1).length

/-- The directions in which an entry sends a route's flits (R248). -/
def entryDirs (r : Nat) (e : Nat) : List Dir :=
  let wx := bitsN e 24 7
  let wy := bitsN e 17 7
  if entryFork e ≠ 0 then forkBits.filterMap fun b => if bitsN (entryFork e) b.1 1 = 1 then b.2 else none
  else if routerX r < wx then [.east] else if wx < routerX r then [.west] else if routerY r < wy then [.south]
  else if wy < routerY r then [.north] else []

/-- Whether an entry sends a copy to its local unit. -/
def entryHere (e : Nat) : Bool := bitsN e 16 1 == 1

/-- A route's entries followed from a router: the routers passed, the routers and units reached, the dependencies between links, and
whether every flit finds an entry that leads somewhere. -/
structure Trace where
  seen : List Nat := []
  here : List (Nat × Nat) := []
  deps : List (Nat × Nat) := []
  ok   : Bool := true
  deriving DecidableEq, Repr, Inhabited

/-- Follows entries from a list of routers, each with the link by which it is reached. -/
def follow (es : List (Nat × BitVec 32)) : Nat → List (Nat × Option Nat) → Trace
  | _, [] => {}
  | 0, _ :: _ => { ok := false }
  | n + 1, (r, inn) :: todo =>
    match es.find? fun e => decide (e.1 = r) with
    | none => { follow es n todo with ok := false }
    | some (_, e) =>
      let dirs := entryDirs r e.toNat
      let outs := dirs.filterMap fun d => (neighbour r d).map fun q => (5 * r + dirNum d, q.1)
      let rest := follow es n (todo ++ outs.map fun o => (o.2, some o.1))
      { seen := r :: rest.seen
        here := (if entryHere e.toNat then [(r, bitsN e.toNat 8 4)] else []) ++ rest.here
        deps := (match inn with
          | none => []
          | some l => outs.map fun o => (l, o.1)) ++ rest.deps
        ok := rest.ok && decide (outs.length = dirs.length) && (entryHere e.toNat || !dirs.isEmpty) }

/-- Follows entries from one router; a path that passes a router twice runs out of steps. -/
def followFrom (es : List (Nat × BitVec 32)) (r : Nat) : Trace := follow es es.length [(r, none)]

/-- Whether a list has no repeats. -/
def distinct [DecidableEq α] (l : List α) : Bool := decide (l.eraseDups.length = l.length)

/-- Whether a relation has no cycle: edges to places without an edge of their own are taken away until none is left. -/
def acyclic : Nat → List (Nat × Nat) → Bool
  | 0, l => l.isEmpty
  | n + 1, l =>
    let k := l.filter fun e => l.any fun x => x.1 == e.2
    if k.length = l.length then l.isEmpty else acyclic n k

/-! ## Laid routes -/

/-- A route with its path: its virtual channel, number, producer's router, the routers and units of its consumers, the steer values
that each router's consumers take, entries, and steer entries. -/
structure Laid where
  vc    : Nat
  num   : Nat
  from_ : Nat
  to_   : List (Nat × Nat)
  keys  : List (Nat × Nat) := []
  /-- whether splice markers travel it: a program node is its producer (R256) -/
  marks : Bool := false
  path  : List (Nat × BitVec 32) := []
  steer : List (Nat × List Word) := []
  deriving DecidableEq, Repr, Inhabited

/-- Whether a laid route passes a router. -/
def Laid.passes (l : Laid) (r : Nat) : Bool := l.path.any fun e => e.1 == r

/-- The unit of a route's consumers at a router. -/
def Laid.unitAt (l : Laid) (r : Nat) : Nat := ((l.to_.find? fun t => t.1 == r).map Prod.snd).getD 0

/-- An entry as the loader writes it: v = 1, the consumers' unit, slim = 0, and nothing in reserved bits (R247, R330). -/
def Laid.entry (l : Laid) (r low : Nat) : Nat × BitVec 32 :=
  (r, BitVec.ofNat 32 (2 ^ 31 + bitsN low 12 19 * 2 ^ 12 + l.unitAt r * 2 ^ 8))

/-- Whether a route's entries do what its declaration asks (R241, R246, R248): they stand at routers that are free for it, each of which
the route passes once, and they lead to exactly its consumers. -/
def Laid.ok (l : Laid) (free : Nat → Bool) : Bool :=
  let t := followFrom l.path l.from_
  distinct (l.path.map Prod.fst) && l.path.all (fun e => free e.1) && t.ok && distinct t.seen && decide (t.seen.length = l.path.length) &&
    t.here.all (fun h => l.to_.contains h) && l.to_.all fun h => t.here.contains h

/-! ## The loader's own search (R246, R373) -/

/-- Widens a search by one hop from each router of a front: for each router reached, the router and direction that it was reached by. -/
def widen (free : Nat → Bool) (front : List Nat) (m : Tab Nat) : List Nat × Tab Nat :=
  front.foldl (fun acc r => [Dir.east, .west, .south, .north].foldl (fun acc d =>
    match neighbour r d with
    | none => acc
    | some (q, _) =>
      if free q && Tab.get 0 acc.2 q == 0 then (acc.1 ++ [q], Tab.set 0 acc.2 q (5 * r + dirNum d + 1)) else acc) acc) ([], m)

/-- Searches from a front through free routers. -/
def search (free : Nat → Bool) : Nat → List Nat → Tab Nat → Tab Nat
  | 0, _, m => m
  | n + 1, front, m =>
    let x := widen free front m
    if x.1.isEmpty then x.2 else search free n x.1 x.2

/-- The routers that a route can reach from a router, through free ones. -/
def reach (free : Nat → Bool) (from_ : Nat) : Tab Nat :=
  if free from_ then search free 6912 [from_] (Tab.set 0 [] from_ (5 * 6912)) else []

/-- The fork bit of a direction. -/
def forkBit (d : Nat) : Nat := if d = 1 then 8 else if d = 2 then 4 else if d = 3 then 2 else if d = 4 then 1 else 0

/-- The hops by which a router was reached: router and direction. -/
def hopsBack (m : Tab Nat) (from_ : Nat) : Nat → Nat → List (Nat × Nat)
  | 0, _ => []
  | n + 1, q =>
    if q = from_ then []
    else
      match Tab.get 0 m q with
      | 0 => []
      | k + 1 => (k / 5, k % 5) :: hopsBack m from_ n (k / 5)

/-- A tree to every consumer along the hops of a search; none when one is out of reach. -/
def Laid.tree (l : Laid) (free : Nat → Bool) : Option (List (Nat × BitVec 32)) :=
  let m := reach free l.from_
  if l.to_.all fun t => Tab.get 0 m t.1 != 0 then
    let hs := (l.to_.flatMap fun t => hopsBack m l.from_ 6912 t.1).eraseDups
    let rs := (hs.map Prod.fst ++ l.to_.map Prod.fst).eraseDups
    some (rs.map fun r =>
      l.entry r (((hs.filter fun h => h.1 == r).map fun h => forkBit h.2).sum * 2 ^ 12 +
        (if l.to_.any fun t => t.1 == r then 2 ^ 16 else 0)))
  else none

/-! ## Steer entries (R322) -/

/-- The mask of the steer values whose consumers stand at the listed routers. -/
def Laid.mask (l : Laid) (rs : List Nat) : Word :=
  ((l.keys.filter fun k => rs.contains k.2).map Prod.fst).foldl (fun (w : Word) k => w ||| (1#64 <<< k)) 0

/-- The masks of one fork, in the order of R322: a side that the entry does not fork to takes no steer value. -/
def Laid.masks (l : Laid) (r e : Nat) : List Word :=
  forkBits.map fun b =>
    if bitsN (entryFork e) b.1 1 = 0 then 0
    else match b.2 with
    | none => l.mask [r]
    | some d =>
      match neighbour r d with
      | none => 0
      | some (q, _) => l.mask (followFrom l.path q).seen

/-- The steer entries of a steered route, one at each router where it forks. -/
def Laid.steers (l : Laid) : List (Nat × List Word) :=
  if l.keys.isEmpty then []
  else (l.path.filter fun e => decide (1 < forkCount e.2.toNat)).map fun e => (e.1, l.masks e.1 e.2.toNat)

/-- Lays a route: along the loader's choice where that does what it must, else along a tree of the search; none when a consumer cannot
be reached through free routers (R246, R373). -/
def Laid.lay (l : Laid) (free : Nat → Bool) (choice : List (Nat × BitVec 32)) : Option Laid :=
  let own : Laid := { l with path := choice.map fun e => l.entry e.1 e.2.toNat }
  let found : Option Laid :=
    if own.ok free then some own else ((l.tree free).map fun p => { l with path := p }).filter fun x => x.ok free
  found.map fun x => { x with steer := x.steers }

end Sys2Proof.Machine
end

