-- ==== Sys2Proof/Machine/Flags.lean ====
section
/-!
DEFINITION. Floating-point values and flags: the element formats (R48), exact values, one rounding with its flags (R30,
R64, R66, R67), NaN results (R65), and the operations on them (R140 to R142).
-/
namespace Sys2Proof.Machine

/-! ## Flags (R30) -/

def fNV : BitVec 5 := 0x10
def fDZ : BitVec 5 := 0x08
def fOF : BitVec 5 := 0x04
def fUF : BitVec 5 := 0x02
def fNX : BitVec 5 := 0x01

/-- A flag when a condition holds. -/
def flagIf (c : Bool) (f : BitVec 5) : BitVec 5 := if c then f else 0

/-- Rounding modes (R30). -/
inductive Rm where
  | rne | rtz | rdn | rup
  deriving DecidableEq, Repr, Inhabited

def rmOf (x : BitVec 2) : Rm := if x = 0 then .rne else if x = 1 then .rtz else if x = 2 then .rdn else .rup

/-! ## Formats (R48) -/

/-- What lies beyond a format's largest finite value: infinities and NaNs, one NaN code, or nothing. -/
inductive Top where
  | ieee | e4m3 | none
  deriving DecidableEq, Repr, Inhabited

/-- A floating-point format: exponent bits, mantissa bits, bias. -/
structure FFmt where
  eb   : Nat
  mb   : Nat
  bias : Nat
  top  : Top
  deriving DecidableEq, Repr, Inhabited

def fF32 : FFmt := { eb := 8, mb := 23, bias := 127, top := .ieee }
def fBF16 : FFmt := { eb := 8, mb := 7, bias := 127, top := .ieee }
def fF16 : FFmt := { eb := 5, mb := 10, bias := 15, top := .ieee }
def fE5M2 : FFmt := { eb := 5, mb := 2, bias := 15, top := .ieee }
def fE4M3 : FFmt := { eb := 4, mb := 3, bias := 7, top := .e4m3 }
def fE3M2 : FFmt := { eb := 3, mb := 2, bias := 3, top := .none }
def fE2M3 : FFmt := { eb := 2, mb := 3, bias := 1, top := .none }
def fE2M1 : FFmt := { eb := 2, mb := 1, bias := 1, top := .none }

def FFmt.width (f : FFmt) : Nat := f.eb + f.mb + 1
/-- The exponent of the smallest subnormal. -/
def FFmt.quantum (f : FFmt) : Int := 1 - (f.bias : Int) - f.mb
/-- The code of the largest finite magnitude. -/
def FFmt.maxCode (f : FFmt) : Nat :=
  match f.top with
  | .ieee => (2 ^ f.eb - 1) * 2 ^ f.mb - 1
  | .e4m3 => 0x7E
  | .none => 2 ^ (f.eb + f.mb) - 1
/-- The code of infinity, in a format that has it. -/
def FFmt.infCode (f : FFmt) : Nat := (2 ^ f.eb - 1) * 2 ^ f.mb
/-- The generated NaN (R65). -/
def FFmt.genNan (f : FFmt) : Nat :=
  match f.top with
  | .ieee => f.infCode + 2 ^ (f.mb - 1)
  | .e4m3 => 0x7F
  | .none => 0
def FFmt.signed (f : FFmt) (s : Bool) (code : Nat) : Nat := code + if s then 2 ^ (f.eb + f.mb) else 0

/-! ## Values -/

/-- A value: a NaN with its sign, quiet bit and the 22 payload bits below the quiet bit at the top of an FP32 mantissa
(R65); an infinity; or (−1)^s × m × 2^e. -/
inductive FVal where
  | nan (s quiet : Bool) (pay : Nat)
  | inf (s : Bool)
  | fin (s : Bool) (m : Nat) (e : Int)
  deriving DecidableEq, Repr, Inhabited

def FVal.isNan : FVal → Bool
  | .nan _ _ _ => true
  | .inf _ | .fin _ _ _ => false
def FVal.isSnan : FVal → Bool
  | .nan _ q _ => !q
  | .inf _ | .fin _ _ _ => false
def FVal.isInf : FVal → Bool
  | .inf _ => true
  | .nan _ _ _ | .fin _ _ _ => false
def FVal.isZero : FVal → Bool
  | .fin _ m _ => m == 0
  | .nan _ _ _ | .inf _ => false
def FVal.sign : FVal → Bool
  | .nan s _ _ => s
  | .inf s => s
  | .fin s _ _ => s
def FVal.neg : FVal → FVal
  | .nan s q p => .nan s q p
  | .inf s => .inf (!s)
  | .fin s m e => .fin (!s) m e

/-- The value of a code (R48). -/
def FFmt.value (f : FFmt) (x : Nat) : FVal :=
  let s := bitsN x (f.eb + f.mb) 1 == 1
  let e := bitsN x f.mb f.eb
  let m := bitsN x 0 f.mb
  if f.top = .ieee ∧ e = 2 ^ f.eb - 1 then
    if m = 0 then .inf s
    else .nan s (bitsN m (f.mb - 1) 1 == 1) (m % 2 ^ (f.mb - 1) * 2 ^ (23 - f.mb))
  else if f.top = .e4m3 ∧ e * 2 ^ f.mb + m = 0x7F then .nan s true 0
  else if e = 0 then .fin s m f.quantum
  else .fin s (2 ^ f.mb + m) (f.quantum + (e - 1 : Nat))

/-- A NaN's code in a format (R65): quiet bit set, payload at the top of the mantissa. -/
def FFmt.nanCode (f : FFmt) (s : Bool) (pay : Nat) : Nat :=
  match f.top with
  | .ieee => f.signed s (f.genNan + pay / 2 ^ (23 - f.mb))
  | .e4m3 => f.signed s 0x7F
  | .none => 0

/-! ## Rounding -/

/-- The length of a number in bits. -/
def bitLen (x : Nat) : Nat := if x = 0 then 0 else Nat.log2 x + 1

/-- Whether rounding moves away from zero: `half` compares the discarded part with one half (0 zero, 1 below, 2 equal, 3
above). -/
def roundsUp (rm : Rm) (s : Bool) (odd : Bool) (half : Nat) : Bool :=
  match rm with
  | .rne => half == 3 || (half == 2 && odd)
  | .rtz => false
  | .rdn => s && half != 0
  | .rup => !s && half != 0

/-- How a discarded part compares with one half. -/
def halfOf (rem sh : Nat) (sticky : Bool) : Nat :=
  if rem = 0 then (if sticky then 1 else 0)
  else if 2 * rem < 2 ^ sh then 1 else if 2 * rem = 2 ^ sh then (if sticky then 3 else 2) else 3

/-- Rounds m × 2^e, or a value just above it when `sticky`, to a multiple of 2^q: the multiple, and whether it is exact. -/
def roundAt (rm : Rm) (s : Bool) (m : Nat) (e q : Int) (sticky : Bool) : Nat × Bool :=
  if q ≤ e then (m * 2 ^ (e - q).toNat, !sticky)
  else
    let sh := (q - e).toNat
    let n := m / 2 ^ sh
    let half := halfOf (m % 2 ^ sh) sh sticky
    (n + (roundsUp rm s (n % 2 == 1) half).toNat, half == 0)

/-- What a format delivers beyond its largest finite value (R66). -/
def FFmt.overflow (f : FFmt) (rm : Rm) (s : Bool) : Nat :=
  match f.top with
  | .ieee =>
    if rm = .rtz ∨ (rm = .rdn ∧ s = false) ∨ (rm = .rup ∧ s = true) then f.signed s f.maxCode else f.signed s f.infCode
  | .e4m3 | .none => f.signed s f.maxCode

/-- Rounds (−1)^s × m × 2^e, or a magnitude just above when `sticky`, to a format, with the flags of R67. A sticky value
needs `m` with more bits than the format's mantissa. -/
def FFmt.round (f : FFmt) (rm : Rm) (s : Bool) (m : Nat) (e : Int) (sticky : Bool) : Nat × BitVec 5 :=
  if m = 0 && !sticky then (f.signed s 0, 0)
  else
    let top : Int := e + bitLen m - 1
    let free : Int := top - f.mb
    let q := max free f.quantum
    let r := roundAt rm s m e q sticky
    let k := (q - f.quantum).toNat
    let code := k * 2 ^ f.mb + r.1
    if code > f.maxCode then (f.overflow rm s, fOF ||| fNX)
    else
      let tiny := decide (free < f.quantum) &&
        !(decide (free + 1 = f.quantum) && decide ((roundAt rm s m e free sticky).1 = 2 ^ (f.mb + 1)))
      (f.signed s code, flagIf (!r.2) fNX ||| flagIf (tiny && !r.2) fUF)

/-- Delivers a value in a format with one rounding (R64 to R66): conversions of infinities and NaNs included. -/
def FFmt.deliver (f : FFmt) (rm : Rm) : FVal → Nat × BitVec 5
  | .nan s q pay =>
    match f.top with
    | .ieee => (f.nanCode s pay, flagIf (!q) fNV)
    | .e4m3 => (f.nanCode s pay, flagIf (!q) fNV)
    | .none => (0, fNV)
  | .inf s =>
    match f.top with
    | .ieee => (f.signed s f.infCode, 0)
    | .e4m3 => (f.signed s 0x7F, fNV)
    | .none => (f.signed s f.maxCode, fNV)
  | .fin s m e => f.round rm s m e false

/-- Rounds an exact value to an integer: the magnitude, and whether it is exact. -/
def roundInt (rm : Rm) (s : Bool) (m : Nat) (e : Int) : Nat × Bool := roundAt rm s m e 0 false

/-! ## Operations -/

/-- The NaN result of an operation (R65, R67): the first NaN operand, quieted, with nv when an operand is signalling; none
when no operand is a NaN. -/
def nanResult (f : FFmt) (l : List FVal) : Option (Nat × BitVec 5) :=
  match l.find? FVal.isNan with
  | some (.nan s _ pay) => some (f.nanCode s pay, flagIf (l.any FVal.isSnan) fNV)
  | _ => none

/-- An invalid operation: the generated NaN with nv. -/
def invalid (f : FFmt) : Nat × BitVec 5 := (f.genNan, fNV)

/-- The signed integer of a finite value over 2^e. -/
def sigOver (s : Bool) (m : Nat) (e lo : Int) : Int :=
  let x : Int := (m * 2 ^ (e - lo).toNat : Nat)
  if s then -x else x

/-- The sign of an exact zero sum: that of like-signed zeros, else + but − when rounding down. -/
def zeroSign (rm : Rm) (s t : Bool) : Bool := if s = t then s else rm == .rdn

/-- An exact sum of two finite values, rounded once. -/
def addFin (f : FFmt) (rm : Rm) (s : Bool) (m : Nat) (e : Int) (t : Bool) (n : Nat) (d : Int) : Nat × BitVec 5 :=
  let lo := min e d
  let x := sigOver s m e lo + sigOver t n d lo
  if x = 0 then (f.signed (zeroSign rm s t) 0, 0) else f.round rm (decide (x < 0)) x.natAbs lo false

/-- Addition (R64). -/
def fadd (f : FFmt) (rm : Rm) (a b : FVal) : Nat × BitVec 5 :=
  match nanResult f [a, b] with
  | some r => r
  | none =>
    match a, b with
    | .inf s, .inf t => if s = t then (f.signed s f.infCode, 0) else invalid f
    | .inf s, _ => (f.signed s f.infCode, 0)
    | _, .inf t => (f.signed t f.infCode, 0)
    | .fin s m e, .fin t n d => addFin f rm s m e t n d
    | _, _ => invalid f

/-- Subtraction: a + (−b), a NaN operand keeping its sign. -/
def fsub (f : FFmt) (rm : Rm) (a b : FVal) : Nat × BitVec 5 := fadd f rm a b.neg

/-- Multiplication (R64). -/
def fmul (f : FFmt) (rm : Rm) (a b : FVal) : Nat × BitVec 5 :=
  match nanResult f [a, b] with
  | some r => r
  | none =>
    match a, b with
    | .fin s m e, .fin t n d => f.round rm (s != t) (m * n) (e + d) false
    | x, y => if x.isZero || y.isZero then invalid f else (f.signed (x.sign != y.sign) f.infCode, 0)

/-- Fused multiply-add: one rounding; infinity × 0 raises nv even beside a quiet NaN (R65, R67). -/
def ffma (f : FFmt) (rm : Rm) (a b c : FVal) : Nat × BitVec 5 :=
  let bad := (a.isInf && b.isZero) || (a.isZero && b.isInf)
  match nanResult f [a, b, c] with
  | some r => (r.1, r.2 ||| flagIf bad fNV)
  | none =>
    if bad then invalid f
    else
      let s := a.sign != b.sign
      if a.isInf || b.isInf then
        (if c.isInf && c.sign != s then invalid f else (f.signed s f.infCode, 0))
      else
        match a, b, c with
        | .fin _ m e, .fin _ n d, .fin t k g => addFin f rm s (m * n) (e + d) t k g
        | _, _, x => (f.signed x.sign f.infCode, 0)

/-- A quotient of finite nonzero magnitudes to 64 bits and more, with its sticky mark. -/
def quot (m n : Nat) : Nat × Int × Bool :=
  let k := 64 + bitLen n
  (m * 2 ^ k / n, -(k : Int), m * 2 ^ k % n != 0)

/-- Division (R142). -/
def fdiv (f : FFmt) (rm : Rm) (a b : FVal) : Nat × BitVec 5 :=
  match nanResult f [a, b] with
  | some r => r
  | none =>
    let s := a.sign != b.sign
    if (a.isInf && b.isInf) || (a.isZero && b.isZero) then invalid f
    else if a.isInf then (f.signed s f.infCode, 0)
    else if b.isInf || a.isZero then (f.signed s 0, 0)
    else
      match a, b with
      | .fin _ m e, .fin _ n d =>
        if n = 0 then (f.signed s f.infCode, fDZ)
        else
          let q := quot m n
          f.round rm s q.1 (e - d + q.2.1) q.2.2
      | _, _ => invalid f

/-- The integer square root, bit by bit from bit `k - 1` downwards. -/
def isqrtFrom (x : Nat) : Nat → Nat → Nat
  | 0, r => r
  | k + 1, r => isqrtFrom x k (if (r + 2 ^ k) * (r + 2 ^ k) ≤ x then r + 2 ^ k else r)
def isqrt (x : Nat) : Nat := isqrtFrom x ((bitLen x + 1) / 2) 0

/-- A finite value with an even exponent. -/
def evenExp (m : Nat) (e : Int) : Nat × Int := if e % 2 = 0 then (m, e) else (2 * m, e - 1)

/-- Square root (R142). -/
def fsqrt (f : FFmt) (rm : Rm) (a : FVal) : Nat × BitVec 5 :=
  match nanResult f [a] with
  | some r => r
  | none =>
    match a with
    | .fin s m e =>
      if m = 0 then (f.signed s 0, 0)
      else if s then invalid f
      else
        let x := evenExp m e
        let y := x.1 * 2 ^ 64
        f.round rm false (isqrt y) (x.2 / 2 - 32) (isqrt y * isqrt y != y)
    | .inf s => if s then invalid f else (f.infCode, 0)
    | .nan _ _ _ => invalid f

/-- Reciprocal square root (R142). -/
def frsqrt (f : FFmt) (rm : Rm) (a : FVal) : Nat × BitVec 5 :=
  match nanResult f [a] with
  | some r => r
  | none =>
    match a with
    | .fin s m e =>
      if m = 0 then (f.signed s f.infCode, fDZ)
      else if s then invalid f
      else
        let x := evenExp m e
        let y := isqrt (2 ^ 192 / x.1)
        f.round rm false y (-96 - x.2 / 2) (y * y * x.1 != 2 ^ 192)
    | .inf s => if s then invalid f else (0, 0)
    | .nan _ _ _ => invalid f

/-- Reciprocal (R142). -/
def frcp (f : FFmt) (rm : Rm) (a : FVal) : Nat × BitVec 5 := fdiv f rm (.fin false 1 0) a

/-! ### Base-2 exponential and logarithm (R142)

Both are irrational but for the exact cases, and no boundary between roundings lies within the error of the 160 bits
below (log 18). -/

/-- 2^(0.b₁b₂…) × 2^160 rounded down, from the `n` low bits of `x` taken as that fraction: repeated square roots from
the last bit. -/
def exp2Frac (x : Nat) : Nat → Nat → Nat
  | 0, r => r
  | n + 1, r => exp2Frac (x / 2) n (isqrt (r * (if x % 2 = 1 then 2 else 1) * 2 ^ 160))

/-- 2^x (R142). -/
def fexp2 (f : FFmt) (rm : Rm) (a : FVal) : Nat × BitVec 5 :=
  match nanResult f [a] with
  | some r => r
  | none =>
    match a with
    | .nan _ _ _ => invalid f
    | .inf s => if s then (0, 0) else (f.infCode, 0)
    | .fin s m e =>
      if m = 0 then f.round rm false 1 0 false
      else if e + bitLen m > 20 then f.round rm false (2 ^ 64) (if s then -2000 else 2000) true
      else if e + bitLen m < -64 then
        (if s then f.round rm false (2 ^ 64 - 1) (-64) true else f.round rm false (2 ^ 64) (-64) true)
      else
        let lo := min e 0
        let x := sigOver s m e lo
        let j := (-lo).toNat
        let n := x.fdiv (2 ^ j)
        let k := (x.fmod (2 ^ j)).toNat
        if k = 0 then f.round rm false 1 n false
        else f.round rm false (exp2Frac k j (2 ^ 160)) (n - 160) true

/-- Bits of a binary logarithm: `y` is a number in [1, 2) times 2^320, `n` bits are to come. -/
def log2Bits : Nat → Nat → Nat → Nat
  | 0, _, acc => acc
  | n + 1, y, acc =>
    let z := y * y / 2 ^ 320
    if z ≥ 2 ^ 321 then log2Bits n (z / 2) (2 * acc + 1) else log2Bits n z (2 * acc)

/-- log₂ x (R142). -/
def flog2 (f : FFmt) (rm : Rm) (a : FVal) : Nat × BitVec 5 :=
  match nanResult f [a] with
  | some r => r
  | none =>
    match a with
    | .nan _ _ _ => invalid f
    | .inf s => if s then invalid f else (f.infCode, 0)
    | .fin s m e =>
      if m = 0 then (f.signed true f.infCode, fDZ)
      else if s then invalid f
      else
        let n : Int := e + bitLen m - 1
        if m = 2 ^ (bitLen m - 1) then f.round rm (decide (n < 0)) n.natAbs 0 false
        else
          let l := log2Bits 128 (m * 2 ^ (321 - bitLen m)) 0
          if n ≥ 0 then f.round rm false (n.toNat * 2 ^ 128 + l) (-128) true
          else f.round rm true (n.natAbs * 2 ^ 128 - l - 1) (-128) true

/-! ### Minimum, maximum and comparison (R141, R143) -/

/-- The order of two values that are no NaNs, by their signed integers over a common exponent; infinities outermost. -/
def fless (a b : FVal) : Bool :=
  match a, b with
  | .inf s, .inf t => s && !t
  | .inf s, _ => s
  | _, .inf t => !t
  | .fin s m e, .fin t n d => decide (sigOver s m e (min e d) < sigOver t n d (min e d))
  | _, _ => false
def fequal (a b : FVal) : Bool :=
  match a, b with
  | .inf s, .inf t => s == t
  | .fin s m e, .fin t n d => decide (sigOver s m e (min e d) = sigOver t n d (min e d))
  | _, _ => false

/-- Whether `a` comes before `b` in the order that puts −0 below +0. -/
def fbefore (a b : FVal) : Bool := fless a b || (fequal a b && a.sign && !b.sign)

/-- minimumNumber and maximumNumber on codes (R141). -/
def fminmax (f : FFmt) (mx : Bool) (x y : Nat) : Nat × BitVec 5 :=
  let a := f.value x
  let b := f.value y
  let fl := flagIf (a.isSnan || b.isSnan) fNV
  if a.isNan && b.isNan then (nanResult f [a, b]).getD (invalid f)
  else if a.isNan then (y, fl)
  else if b.isNan then (x, fl)
  else if (if mx then fbefore a b else fbefore b a) then (y, fl) else (x, fl)

/-- A condition of vcmp on codes, and whether it raises nv (R143). -/
inductive Cmp where
  | eq | ne | lt | le | un
  deriving DecidableEq, Repr, Inhabited

def fcmp (c : Cmp) (a b : FVal) : Bool × BitVec 5 :=
  let nan := a.isNan || b.isNan
  let snan := flagIf (a.isSnan || b.isSnan) fNV
  match c with
  | .eq => (!nan && fequal a b, snan)
  | .ne => (nan || !fequal a b, snan)
  | .lt => (!nan && fless a b, flagIf nan fNV)
  | .le => (!nan && (fless a b || fequal a b), flagIf nan fNV)
  | .un => (nan, snan)

/-- The class of a code as a one-bit mask (R155). -/
def fclass (f : FFmt) (x : Nat) : Nat :=
  match f.value x with
  | .nan _ q _ => if q then 512 else 256
  | .inf s => if s then 1 else 128
  | .fin s m _ =>
    if m = 0 then (if s then 8 else 16)
    else if bitsN x f.mb f.eb = 0 then (if s then 4 else 32)
    else (if s then 2 else 64)

end Sys2Proof.Machine
end

