-- ==== Sys2Proof/Machine/Array.lean ====
section
/-!
DEFINITION. The arithmetic of the bit-plane arrays: operands in tile SRAM (R52 to R54, R167), the term of a K block and special
blocks (R58, R59, R61), NaNs and acc_add (R62), the checks of a descriptor (R41, R185), and the accumulator store (R181).
-/
namespace Sys2Proof.Machine

/-! ## The descriptor (R40) -/

def mdApl (md : Word) : Nat := bits md 0 4
def mdBpl (md : Word) : Nat := bits md 4 4
def mdAfmt (md : Word) : Nat := bits md 8 4
def mdBfmt (md : Word) : Nat := bits md 12 4
def mdKblk (md : Word) : Nat := bits md 16 8
def mdKrem (md : Word) : Nat := bits md 24 5
def mdGrp (md : Word) : Nat := bits md 29 2
def mdRowb (md : Word) : Nat := bits md 32 2
def mdColb (md : Word) : Nat := bits md 34 2

/-- K blocks, K, words per row, and the group size (R184). -/
def mdNb (md : Word) : Nat := mdKblk md + 1
def mdK (md : Word) : Nat := 32 * mdKblk md + (if mdKrem md = 0 then 32 else mdKrem md)
def mdW (md : Word) : Nat := (mdK md + 127) / 128
def mdG (md : Word) : Nat := 16 * 2 ^ mdGrp md

/-- The positions present in K block `b` (R59). -/
def mdPresent (md : Word) (b : Nat) : Nat := if b = mdKblk md ∧ mdKrem md ≠ 0 then mdKrem md else 32

/-- A group format. -/
def isGroup (fmt : Nat) : Bool := fmt == 7 || fmt == 8

/-- The checks of a descriptor that do not depend on a form (R41, R185): B is never a group. -/
def mdOk (md : Word) : Bool :=
  decide (mdAfmt md ≤ 9) && decide (mdBfmt md ≤ 9) && !isGroup (mdBfmt md) &&
    (if isGroup (mdAfmt md) then mdGrp md != 0 else mdGrp md == 0) &&
    !(mdGrp md != 0 && mdKrem md != 0 && decide (32 * mdKblk md + mdKrem md < mdG md)) &&
    decide (mdNb md ≤ 128) && decide (mdW md * (mdApl md + 1) ≤ 128) && decide (mdW md * (mdBpl md + 1) ≤ 128)

/-- The operand families of the gang-issue forms (R183). -/
inductive Family where
  | plane | bint | group
  deriving DecidableEq, Repr

def famOf (fmt : Nat) : Option Family :=
  if fmt ≤ 6 then some .plane else if isGroup fmt then some .group else if fmt = 9 then some .bint else none

/-- The checks of a gang-issue form (R185). -/
def mgOk (md : Word) (a b : Family) : Bool := mdOk md && famOf (mdAfmt md) == some a && famOf (mdBfmt md) == some b

/-! ## Operands in tile SRAM (R53, R54, R167) -/

/-- The bases of an operand's planes, scale words and group words. -/
def planeBase (isB : Bool) (set : Nat) : Nat := (if isB then 0xA0000 else 0x80000) + 0x10000 * set
def scaleBase (isB : Bool) (set : Nat) : Nat := (if isB then 0xD0000 else 0xC0000) + 0x8000 * set
def groupBase (set : Nat) : Nat := 0xE0000 + 0x4000 * set

/-- Bit `k` of row `row` of plane `p`. -/
def State.planeBit (s : State) (t base w p row k : Nat) : Bool :=
  (Memory.byte s.mem (sramAddr t (base + 16 * ((32 * p + row) * w + k / 128) + k % 128 / 8))).getLsbD (k % 8)

/-- The weighted sum of an element's planes, from plane `p` on, with the top plane negative in a signed format. -/
def State.planeSum (s : State) (t base w row k : Nat) (signed : Bool) (planes : Nat) : Nat → Int
  | 0 => 0
  | n + 1 =>
    let j := planes - (n + 1)
    let v : Int := if s.planeBit t base w j row k then 2 ^ j else 0
    (if signed && n == 0 then -v else v) + s.planeSum t base w row k signed planes n

/-- plane_value (R184). -/
def State.planeValue (s : State) (t base planes row k w fmt : Nat) : Int :=
  s.planeSum t base w row k (!isGroup fmt) planes planes

/-- One row of an operand in one K block: its integers, its scale word's fields, and its group word. -/
structure RowBlock where
  q    : List Int
  bexp : Int
  infm : Nat
  nan  : Bool
  grp  : Bool
  d    : Nat
  z    : Nat
  deriving DecidableEq, Repr, Inhabited

/-- A signed 16-bit number. -/
def signed16 (x : Nat) : Int := if x < 2 ^ 15 then x else (x : Int) - 2 ^ 16

/-- Reads a row of an operand in K block `b`, for the set and descriptor of a form. -/
def State.rowBlock (s : State) (t set : Nat) (isB : Bool) (md : Word) (row b : Nat) : RowBlock :=
  let fmt := if isB then mdBfmt md else mdAfmt md
  let planes := (if isB then mdBpl md else mdApl md) + 1
  let sw := s.sramRead t (scaleBase isB set + 8 * (128 * row + b)) 8
  let gw := if isGroup fmt then s.sramRead t (groupBase set + 4 * (128 * row + 32 * b / mdG md)) 4 else 0
  { q := (List.range (mdPresent md b)).map fun k => s.planeValue t (planeBase isB set) planes row (32 * b + k) (mdW md) fmt
    bexp := signed16 (bitsN sw 32 16), infm := bitsN sw 0 32, nan := bitsN sw 48 1 == 1, grp := isGroup fmt
    d := bitsN gw 0 16, z := if fmt = 7 then bitsN gw 16 4 else bitsN gw 16 8 }

/-! ## Terms (R58, R59, R61, R62) -/

/-- A NaN generated in the array (R62). -/
def genNan (g kidx : Nat) : BitVec 32 := 0x7FC00000#32 ||| BitVec.ofNat 32 (g * 1024) ||| BitVec.ofNat 32 kidx

/-- to_fp32_rne (R58): an integer times a power of two, rounded once; zero gives +0. R58 gives +0 for I = 0 and states no sign for a
term whose I is not zero and whose group scale d is +0 or −0: that term is +0 too (DESIGN CHOICE, log 24). -/
def toFp32 (i e : Int) : BitVec 32 :=
  if i = 0 then 0 else BitVec.ofNat 32 (fF32.round .rne (decide (i < 0)) i.natAbs e false).1

/-- The group scale as a value; 1 for other formats. -/
def RowBlock.scale (a : RowBlock) : FVal := if a.grp then fF16.value a.d else .fin false 1 0

/-- An element's integer: q − z for a group. -/
def RowBlock.elem (a : RowBlock) (k : Nat) : Int := a.q.getD k 0 - (if a.grp then (a.z : Int) else 0)

/-- Bit `k` of a mask. -/
def maskBit (m k : Nat) : Bool := m / 2 ^ k % 2 == 1

/-- The products of a special block that are infinite or NaN (R61): the sign of an infinity, or none for infinity × 0. The
signs are those of the plane integers, less the zero point of a group: the group scale takes no part. -/
def specialProducts (a b : RowBlock) (n : Nat) : List (Option Bool) :=
  (List.range n).filterMap fun k =>
    let ia := maskBit a.infm k
    let ib := maskBit b.infm k
    if ia || ib then
      if (!ia && a.elem k == 0) || (!ib && b.elem k == 0) then some none
      else some (some (decide (a.elem k < 0) ^^ decide (b.elem k < 0)))
    else none

/-- special_block (R61). -/
def specialBlock (a b : RowBlock) (n g kidx : Nat) : BitVec 32 :=
  if a.nan || b.nan || a.scale.isNan || a.scale.isInf then genNan g kidx
  else
    let ps := specialProducts a b n
    if ps.any Option.isNone || (ps.contains (some true) && ps.contains (some false)) then genNan g kidx
    else if ps.contains (some true) then 0xFF800000#32
    else 0x7F800000#32

/-- Whether a row's block is special (R52, R54): marks at absent positions do not count. -/
def RowBlock.special (a : RowBlock) (n : Nat) : Bool :=
  a.nan || a.infm % 2 ^ n != 0 || a.scale.isNan || a.scale.isInf

/-- The integer of R58: the sum of products with the zero point taken off. -/
def dotInt (a b : RowBlock) (n : Nat) : Int := ((List.range n).map fun k => a.elem k * b.q.getD k 0).sum

/-- A finite value as a signed integer and an exponent. -/
def finParts : FVal → Int × Int
  | .fin s m e => (if s then -(m : Int) else m, e)
  | .nan _ _ _ | .inf _ => (0, 0)

/-- The term of one K block (R58). -/
def blockTerm (a b : RowBlock) (n g kidx : Nat) : BitVec 32 :=
  if a.special n || b.special n then specialBlock a b n g kidx
  else
    let d := finParts a.scale
    toFp32 (dotInt a b n * d.1) (d.2 + a.bexp + b.bexp)

/-- A NaN in an accumulator is read as sign 0 with bit 22 set (R62). -/
def accRead (x : BitVec 32) : BitVec 32 :=
  if (fF32.value x.toNat).isNan then (x &&& 0x7FFFFFFF#32) ||| 0x00400000#32 else x

/-- acc_add (R62). -/
def accAdd (a t : BitVec 32) (g kidx : Nat) : BitVec 32 :=
  let a := accRead a
  let t := accRead t
  let va := fF32.value a.toNat
  let vt := fF32.value t.toNat
  if va.isNan && vt.isNan then (if (t.setWidth 22).toNat < (a.setWidth 22).toNat then t else a)
  else if va.isNan then a
  else if vt.isNan then t
  else if va.isInf && vt.isInf && va.sign != vt.sign then genNan g kidx
  else BitVec.ofNat 32 (fadd fF32 .rne va vt).1

/-! ## The accumulator store (R181) -/

def accKey (row col : Nat) : Nat := 128 * row + col
def State.acc (s : State) (t row col : Nat) : BitVec 32 := Tab.get 0 (s.tile t).acc (accKey row col)
def Tile.setAcc (x : Tile) (row col : Nat) (v : BitVec 32) : Tile := { x with acc := Tab.set 0 x.acc (accKey row col) v }

/-- kidx of an accumulator block. -/
def Tile.kidxOf (x : Tile) (rb cb : Nat) : Nat := Tab.get 0 x.kidx (4 * rb + cb)
def Tile.setKidx (x : Tile) (rb cb n : Nat) : Tile := { x with kidx := Tab.set 0 x.kidx (4 * rb + cb) n }

/-- The graph tile number that marks a tile's NaNs (R62, R177). -/
def State.gtile (s : State) (t : Nat) : Nat :=
  match s.tileCtx t with
  | none => 0
  | some c => c.gtile

/-- The tiles' results for one cell, of a K split across tiles, combined in ascending tile-name order: the first tile's value starts the
sum, and each later tile's value is added under its graph tile number with kidx 0x3FF (R60, R62). `l` lists tile number, graph tile
number and value; a tile's number orders tiles as field, block and tile do. -/
def combineTiles (l : List (Nat × Nat × BitVec 32)) : BitVec 32 :=
  match l.mergeSort (fun x y => decide (x.1 ≤ y.1)) with
  | [] => 0
  | x :: rest => rest.foldl (fun a y => accAdd a y.2.2 y.2.1 0x3FF) (accRead x.2.2)

/-- The results of a cell in the accumulators of tiles, combined (R60). -/
def State.combined (s : State) (ts : List Nat) (row col : Nat) : BitVec 32 :=
  combineTiles (ts.map fun t => (t, s.gtile t, s.acc t row col))

/-- The value of one accumulator cell after K blocks 0 to n − 1 of its rows (R58): the counter of its block starts at
`kc`. -/
def State.cellPart (s : State) (t set : Nat) (md : Word) (n kc g i j : Nat) (acc : BitVec 32) : BitVec 32 :=
  (List.range n).foldl (fun x b =>
    let k := (kc + b) % 1023
    accAdd x (blockTerm (s.rowBlock t set false md i b) (s.rowBlock t set true md j b) (mdPresent md b) g k) g k) acc

/-- The value of one accumulator cell after every K block of its rows. -/
def State.cellRun (s : State) (t set : Nat) (md : Word) (kc g i j : Nat) (acc : BitVec 32) : BitVec 32 :=
  s.cellPart t set md (mdNb md) kc g i j acc

/-- Runs the first `n` K blocks for a list of cells (row and column of the accumulator store). -/
def State.partCells (s : State) (t set : Nat) (md : Word) (n : Nat) (cells : List (Nat × Nat)) : State :=
  let x := s.tile t
  s.setTile t (cells.foldl (fun y c =>
    y.setAcc c.1 c.2 (s.cellPart t set md n (x.kidxOf (c.1 / 32) (c.2 / 32)) (s.gtile t) (c.1 % 32) (c.2 % 32)
      (Tab.get 0 x.acc (accKey c.1 c.2)))) x)

/-- Runs every K block for a list of cells. -/
def State.runCells (s : State) (t set : Nat) (md : Word) (cells : List (Nat × Nat)) : State := s.partCells t set md (mdNb md) cells

/-- Advances the counters of accumulator blocks by nb, modulo 1,023. -/
def Tile.addKidx (x : Tile) (nb : Nat) : List (Nat × Nat) → Tile
  | [] => x
  | b :: l => (x.setKidx b.1 b.2 ((x.kidxOf b.1 b.2 + nb) % 1023)).addKidx nb l

/-- The 1,024 cells of an accumulator block. -/
def blockCells (rb cb : Nat) : List (Nat × Nat) :=
  (List.range 32).flatMap fun i => (List.range 32).map fun j => (32 * rb + i, 32 * cb + j)

/-- The first `n` K blocks of a gang-issue form. -/
def State.partGang (s : State) (t set : Nat) (md : Word) (n : Nat) : State :=
  (s.partCells t set md n (blockCells (mdRowb md) (mdColb md))).modTile t fun x => x.addKidx n [(mdRowb md, mdColb md)]

/-- The block operation of a gang-issue form (R184). -/
def State.gang (s : State) (t set : Nat) (md : Word) : State := s.partGang t set md (mdNb md)

/-- Sets an accumulator block to +0. -/
def Tile.clearBlock (x : Tile) (rb cb : Nat) : Tile := (blockCells rb cb).foldl (fun y c => y.setAcc c.1 c.2 0) x

end Sys2Proof.Machine
end

