-- ==== Sys2Proof/Machine/Mem.lean ====
section
/-!
DEFINITION. The shared operations of the memory forms: forwarding (R114), loads (R115, R332), the store buffer (R113), the
speculative buffer (R343), accesses at system scope (R338), and atomic steps at a home (R126, R127).
-/
namespace Sys2Proof.Machine

/-! ## Values -/

/-- The `n` loaded bytes as a scalar, with the sign or with zeros (R117). -/
def extend (n : Nat) (sgn : Bool) (x : Nat) : Word := if sgn then sextW (wd x) (8 * n) else zextW (wd x) (8 * n)

/-- The value that a response gives a pending load; that of a lane stands in its place, the others 0. -/
def Arrive.value (a : Arrive) (x : Nat) : VWord :=
  match a with
  | .scalar n sgn => (extend n sgn x).setWidth 256
  | .whole => BitVec.ofNat 256 x
  | .lanes [] _ => 0
  | .lanes (e :: _) _ => BitVec.ofNat 256 (x % 2 ^ 32 * 2 ^ (32 * e.1))

/-- Whether a pending result waits for the response to request `tok`. -/
def Pending.awaits (p : Pending) (tok : Nat) : Bool := !p.ready && p.tok == tok

/-- What a response leaves to be performed of a load: the lanes behind the one that has come. -/
def Arrive.rest : Arrive → Arrive
  | .lanes (_ :: l) miss => .lanes l miss
  | a => a

/-- Whether a response is the last that a load waits for. -/
def Arrive.last : Arrive → Bool
  | .lanes (_ :: _ :: _) _ => false
  | _ => true

/-- A pending result takes what comes for its token, a value or a fault; it has arrived when that is the last. A fault of one lane is the
fault of the result (R112, R134). -/
def Pending.arrive (tok : Nat) (x : VWord) (fault : Option (BitVec 8 × Word)) (p : Pending) : Pending :=
  if p.awaits tok then
    match p.fly with
    | .load a acq => { p with ready := a.last, fault := p.fault.or fault, fly := .load a.rest acq
                              val := p.val ||| (if fault.isSome then 0 else a.value x.toNat) }
    | .no | .preempt => { p with ready := true, val := x, fault := p.fault.or fault }
  else p

/-- What comes for a token of a thread's pending result. -/
def State.pendGot (s : State) (g tok : Nat) (x : VWord) (fault : Option (BitVec 8 × Word)) : State :=
  s.modThread g fun t =>
    if t.ctx.pend.any (fun p => p.awaits tok) then
      { t with ctx := { t.ctx with pend := t.ctx.pend.map (Pending.arrive tok x fault) } }.arriveAt (s.blk (unitBlk g)).cyc
    else t

/-- The address of element `e` of token `n` (R232), or of the token that was begun before the node became active again. -/
def Agen.addr (a : Agen) (e : Nat) : Word :=
  match a.at_ with
  | none => a.base + wd (a.n / a.run) * a.gap + wd (a.n % a.run * 32 + 4 * e)
  | some x => x + wd (4 * e)

/-- Whether a load that arrives in block cycle `cyc` joins an open window (R366). -/
def LoadWin.takes (w : LoadWin) (word cyc : Nat) : Bool := w.word == word && decide (cyc < w.at_ + 32)

/-- The 8-byte word that a member's request names: that of a line fill holds the first byte of its line (R366). -/
def LoadMember.word (l : LoadMember) : Nat :=
  match l.who with
  | .inl _ => l.phys.pa / 64 * 8
  | .inr _ => l.phys.pa / 8

/-- A load request reaches the block router of block `b`: it joins the open window of its word, or opens one (R366). -/
def State.joinLoad (s : State) (b : Nat) (l : LoadMember) : State :=
  s.modBlk b fun x =>
    if x.lwins.any fun w => w.takes l.word x.cyc then
      { x with lwins := x.lwins.map fun w => if w.takes l.word x.cyc then { w with who := w.who ++ [l] } else w }
    else { x with lwins := x.lwins ++ [{ word := l.word, who := [l], at_ := x.cyc }] }

/-- Performs the lanes of a gather in ascending order, as far as they go at once (R119): a lane of another device is asked for, one that
has missed L1 joins its window, and the next lanes wait for it; one with no live path is lost (R134). -/
def State.runLanes (s : State) (g tok : Nat) (miss : Bool) : List (Nat × Nat × Phys) → State
  | [] => s
  | (_, va, p) :: l =>
    match p.home with
    | .remote dev =>
      (match s.sendMem g tok dev p.pa 4 0 0 false with
        | some s1 => s1
        | none => (s.pendGot g tok 0 (some (cLINK_LOST, (s.lostPort dev).setWidth 64))).runLanes g tok miss l)
    | .dram | .aperture | .regs | .host =>
      if miss && p.home == .dram then s.joinLoad (unitBlk g) { who := .inl g, tok := tok, va := va, phys := p, n := 4 }
      else (s.pendGot g tok (BitVec.ofNat 256 (s.homeRead p 4)) none).runLanes g tok miss l

/-- The lanes that a thread's gather still has to perform behind the one that it waits for. -/
def State.lanesLeft (s : State) (g tok : Nat) : Option (List (Nat × Nat × Phys) × Bool) :=
  (s.thread g).ctx.pend.findSome? fun p =>
    if p.awaits tok then
      match p.fly with
      | .load (.lanes (_ :: l) miss) _ => some (l, miss)
      | _ => none
    else none

/-- A pending result's response has come; a gather goes on with its next lanes. -/
def State.pendDone (s : State) (g tok : Nat) (x : VWord) (fault : Option (BitVec 8 × Word)) : State :=
  match s.lanesLeft g tok with
  | none => s.pendGot g tok x fault
  | some (l, miss) => (s.pendGot g tok x fault).runLanes g tok miss l

/-- The effective address of an RI form (R111). -/
def State.ea (s : State) (a : SReg) (imm : Imm) : Word := s.rS a + immv imm

/-! ## Forwarding (R114) -/

/-- How a load meets its thread's store buffer. -/
inductive Fwd where
  | mem
  | val (x : Nat)
  | wait
  deriving DecidableEq, Repr

def SbKind.isRed : SbKind → Bool
  | .red _ _ _ => true
  | .plain | .rel => false

/-- Whether a buffered entry overlaps a load. -/
def SbEntry.over (e : SbEntry) (p : Phys) (n : Nat) : Bool := e.phys.home == p.home && overlaps p.pa n e.phys.pa e.size

/-- The youngest overlapping entry forwards when it is a plain store that holds every byte and no older overlapping entry
is a reduction; otherwise the load waits (R114). -/
def forward (sb : List SbEntry) (p : Phys) (n : Nat) : Fwd :=
  match (sb.filter fun e => e.over p n).reverse with
  | [] => .mem
  | e :: older =>
    if e.kind == .plain && decide (e.phys.pa ≤ p.pa) && decide (p.pa + n ≤ e.phys.pa + e.size) &&
        !(older.any fun x => x.kind.isRed) then
      .val (e.data.toNat / 2 ^ (8 * (p.pa - e.phys.pa)) % 2 ^ (8 * n))
    else .wait

/-! ## Speculative reads and writes (R343) -/

/-- The bytes of a speculative read: the buffer's where its mask covers them, memory's elsewhere. -/
def specBytes (b : Tab (Option Byte)) (m : List Host.Cell) : Nat → Nat → List Byte
  | _, 0 => []
  | a, n + 1 => ((Tab.get none b a).getD (Memory.byte m a)) :: specBytes b m (a + 1) n

/-- The value of a speculative read: of a register page, its registers with the buffer's bytes over them (R116, R343). -/
def State.specRead (s : State) (b : Tab (Option Byte)) (p : Phys) (n : Nat) : Nat :=
  if p.home = .regs then
    leNat ((leBytes n (s.homeRead p n)).zipIdx.map fun e => (Tab.get none b (p.pa + e.2)).getD e.1)
  else leNat (specBytes b s.mem p.pa n)

/-- Puts bytes into a buffer. -/
def specPut : Tab (Option Byte) → Nat → List Byte → Tab (Option Byte)
  | b, _, [] => b
  | b, a, x :: l => specPut (Tab.set none b a (some x)) (a + 1) l

/-- Marks a line in the arbiter (R343). -/
def State.markLine (s : State) (g pa : Nat) : State :=
  match (s.thread g).task with
  | none => s
  | some n => s.modTask n.1 n.2 fun k =>
      { k with marks := if pa / 64 * 64 ∈ k.marks then k.marks else k.marks ++ [pa / 64 * 64] }

/-- An access whose home a speculative task may not reach runs plain (R116). -/
def State.unspec (s : State) (p : Phys) (k : State → Out) : Out := if p.isSystem then s.plainly k else k s

/-! ## Loads -/

/-- Performs a load of `n` bytes: by forwarding, from the speculative buffer, or at its home; a load from another device
goes to `far`. -/
def State.loadN (s : State) (g : Nat) (p : Phys) (n : Nat) (k : State → Nat → Out) (far : Nat → Out) : Out :=
  match s.taskOf g, (s.thread g).spec with
  | some t, true => k (s.markLine g p.pa) (s.specRead t.buf p n)
  | _, _ =>
    match forward (s.thread g).sb p n with
    | .wait => s.wait
    | .val x => k s x
    | .mem =>
      match p.home with
      | .remote dev => far dev
      | .dram | .aperture | .regs | .host => k s (s.homeRead p n)

/-- A long access that another device performs (R338): its result arrives with the response; with no live path it carries
LINK_LOST (R134). -/
def State.farLong (s : State) (g : Nat) (p : Phys) (dev n form : Nat) (data : BitVec 256) (dest : Dest) (a : Arrive)
    (acq : Bool) : State :=
  match s.sendMem g s.fresh dev p.pa n form data false with
  | some s1 => (s1.next).long { dest := dest, left := 0, ready := false, val := 0, tok := s.fresh, fly := .load a acq }
  | none => s.long { dest := dest, left := 0, ready := true, val := 0, fault := some (cLINK_LOST, (s.lostPort dev).setWidth 64) }

/-- A scalar load (R117). -/
def State.loadS (s : State) (d : SReg) (ea : Word) (n : Nat) (sgn : Bool) : Out :=
  s.swarm fun g => s.access g ea n n true false .any true fun p => s.unspec p fun s =>
    s.loadN g p n (fun s x => .next (s.longS d (extend n sgn x)))
      fun dev => .next (s.farLong g p dev n 0 0 (.sreg d) (.scalar n sgn) false)

/-! ## Stores -/

/-- The data of a store-buffer entry. -/
def sbEntry (va : Word) (size : Nat) (kind : SbKind) (data : Nat) (p : Phys) : SbEntry :=
  { va := va, size := size, kind := kind, data := BitVec.ofNat 256 (data % 2 ^ (8 * size)), phys := p }

/-- Enters stores in the store buffer, in order; a bundle that finds too few free entries waits (R113). -/
def State.buffer (s : State) (g : Nat) (es : List SbEntry) : Out :=
  if (s.thread g).sb.length + es.length > 16 then s.wait
  else .next (s.modThread g fun t => { t with sb := t.sb ++ es })

/-- The lines of sparse-watch pages among stores, for the steps of R360 at commit. -/
def swLines (es : List SbEntry) : List (Nat × Nat) :=
  (es.filter fun e => e.phys.sw).map fun e => (e.phys.pa / 64, e.va.toNat / 64)

/-- Puts stores into the speculative buffer; a 65th line makes the task wait to be oldest and go plain (R343). -/
def State.specStore (s : State) (g : Nat) (t : Task) (es : List SbEntry) : Out :=
  let b := es.foldl (fun b e => specPut b e.phys.pa (leBytes e.size e.data.toNat)) t.buf
  if (bufLines b).length > 64 then s.plainly fun s => s.buffer g es
  else .next (s.modTask (unitBlk g) t.num fun k =>
    { k with buf := b, sws := k.sws ++ swLines es, vas := k.vas ++ es.map fun e => (e.va.toNat, e.size) })

/-- Places a bundle's stores (R113, R343). -/
def State.stores (s : State) (g : Nat) (es : List SbEntry) : Out :=
  match s.taskOf g, (s.thread g).spec with
  | some t, true => s.specStore g t es
  | _, _ => s.buffer g es

/-- A store of `n` bytes (R118). -/
def State.storeN (s : State) (ea : Word) (n x : Nat) : Out :=
  s.swarm fun g => s.access g ea n n false true .any true fun p => s.unspec p fun s =>
    s.stores g [sbEntry ea n .plain x p]

/-! ## Lanes (R119) -/

/-- The addresses of the lanes of vgather and vscatter. -/
def laneEas (base : Word) (o : VWord) (sh : Nat) : List Word :=
  (List.range 8).map fun i => base + ((lane o i).signExtend 64 <<< sh)

/-- Checks every lane: the translations, or the first lane that does not pass (R119, R304). -/
def State.checkLanes (s : State) (g : Nat) (need : Need) : List Word → Except (Word × Acc) (List Phys)
  | [] => .ok []
  | ea :: l =>
    match s.check g ea 4 4 need true with
    | .ok p =>
      match s.checkLanes g need l with
      | .ok ps => .ok (p :: ps)
      | .error e => .error e
    | a => .error (ea, a)

/-- Runs `k` with the lanes' translations, or meets the lowest failing lane; a lane in a bank that takes no access now makes the bundle wait
(R375, R420). -/
def State.lanes (s : State) (g : Nat) (eas : List Word) (rd wr : Bool) (k : List Phys → Out) : Out :=
  match s.checkLanes g (s.need g rd wr .any) eas with
  | .ok ps =>
    if s.heldBack g then s.wait
    else
      match ps.findSome? s.atEdge with
      | some b => (s.wakeBlk b).wait
      | none => k ps
  | .error (ea, .bad c) => s.xlFault c ea
  | .error (ea, _) => s.waitWalk g ea.toNat (if wr then .write else .read)

/-- Whether one of the lanes is at system scope. -/
def anySystem (ps : List Phys) : Bool := ps.any Phys.isSystem

/-- Runs plain when a lane is at system scope (R116). -/
def State.unspecAll (s : State) (ps : List Phys) (k : State → Out) : Out := if anySystem ps then s.plainly k else k s

/-- What the store buffer gives the lanes of a gather: the lanes that it forwards to, and the others with their numbers and addresses;
none when a lane must wait (R114). -/
def splitLanes (sb : List SbEntry) : List (Word × Phys) → Nat → Option (VWord × List (Nat × Nat × Phys))
  | [], _ => some (0, [])
  | (ea, p) :: l, i =>
    match forward sb p 4, splitLanes sb l (i + 1) with
    | .wait, _ | _, none => none
    | .val x, some (v, todo) => some (v ||| BitVec.ofNat 256 (x * 2 ^ (32 * i)), todo)
    | .mem, some (v, todo) => some (v, (i, ea.toNat, p) :: todo)

/-- Gathers lanes of a speculative task in ascending order (R119, R343). -/
def State.specLanes (s : State) (g : Nat) (b : Tab (Option Byte)) : List Phys → Nat → VWord → State × VWord
  | [], _, acc => (s, acc)
  | p :: ps, i, acc => (s.markLine g p.pa).specLanes g b ps (i + 1) (acc ||| BitVec.ofNat 256 (s.specRead b p 4 * 2 ^ (32 * i)))

/-- Gathers local lanes in ascending order. -/
def State.localLanes (s : State) : List (Nat × Nat × Phys) → VWord → VWord
  | [], acc => acc
  | (i, _, p) :: l, acc => s.localLanes l (acc ||| BitVec.ofNat 256 (s.homeRead p 4 * 2 ^ (32 * i)))

/-- Whether a lane waits for a response: one of another device, or one that has missed L1. -/
def laneWaits (miss : Bool) (e : Nat × Nat × Phys) : Bool :=
  match e.2.2.home with
  | .remote _ => true
  | .dram => miss
  | .aperture | .regs | .host => false

/-- Performs a gather (R119): forwarded lanes first, then the others in ascending order. When one of them waits for a response, the result
arrives with the last, and later accesses wait for it. -/
def State.gather (s : State) (g : Nat) (v : VReg) (ps : List (Word × Phys)) (miss : Bool) : Out :=
  match s.taskOf g, (s.thread g).spec with
  | some t, true =>
    let r := s.specLanes g t.buf (ps.map Prod.snd) 0 0
    .next (r.1.longV v 0xFF r.2 0)
  | _, _ =>
    match splitLanes (s.thread g).sb ps 0 with
    | none => s.wait
    | some (x, todo) =>
      if todo.any (laneWaits miss) then
        .next ((s.next.long { dest := .vreg v 0xFF, left := 0, ready := false, val := x, tok := s.fresh
                              fly := .load (.lanes todo miss) true }).runLanes g s.fresh miss todo)
      else .next (s.longV v 0xFF (s.localLanes todo x) 0)

/-! ## Atomic steps at a home (R126, R127) -/

/-- A number of `n` bytes as a signed integer. -/
def toSigned (n x : Nat) : Int := if x < 2 ^ (8 * n - 1) then x else (x : Int) - 2 ^ (8 * n)

/-- The new value of an atomic or a reduction: `uns` compares as unsigned (R126, R127). -/
def minBy (n : Nat) (uns : Bool) (a b : Nat) : Nat :=
  if uns then min a b else if toSigned n a ≤ toSigned n b then a else b
def maxBy (n : Nat) (uns : Bool) (a b : Nat) : Nat :=
  if uns then max a b else if toSigned n a ≤ toSigned n b then b else a

/-- The integer reductions. -/
def redValue (op : RedOp) (n : Nat) (uns : Bool) (old x : Nat) : Nat :=
  match op with
  | .add => (old + x) % 2 ^ (8 * n)
  | .min => minBy n uns old x
  | .max => maxBy n uns old x
  | .and => old &&& x
  | .or => old ||| x
  | .xor => old ^^^ x
  | .fadd => old

/-- The value that an amo returns: 32-bit forms extend by their sign mark (R126). -/
def amoResult (n : Nat) (uns : Bool) (old : Nat) : Word := if n = 8 then wd old else extend 4 (!uns) old

/-- The conditions of a fence at core to device scope (R130, R133): every earlier load has been performed, and the store buffer is
empty. -/
def State.drained (s : State) (g : Nat) : Bool :=
  (s.thread g).sb.isEmpty && !((s.thread g).ctx.pend.any Pending.flying)

/-- An atomic read-modify-write (R126): full fence, then one step at the home. `f` gives the new value, or none when
nothing is written; `code` is its form in a request to another device. -/
def State.amo (s : State) (d a b : SReg) (w32 uns : Bool) (code : Nat) (f : Nat → Nat → Option Nat) : Out :=
  s.swarm fun g => s.plainly fun s =>
    let n := if w32 then 4 else 8
    let ea := s.rS a
    let x := (s.rS b).toNat % 2 ^ (8 * n)
    s.access g ea n n true true .atomic true fun p =>
      if !s.drained g then s.wait
      else
        match p.home with
        | .remote dev =>
          .next ((s.watchWord p.sw ea.toNat).farLong g p dev n (memFormAmo code w32 uns)
            (BitVec.ofNat 256 ((s.rS b).toNat + (s.rS d).toNat * 2 ^ 64)) (.sreg d) (.scalar n (!uns)) true)
        | .dram | .aperture | .regs | .host =>
          let old := s.homeRead p n
          let s1 := match f old x with
            | none => s
            | some new => s.performWrite (some g) none p ea.toNat (leBytes n new)
          .next (s1.longS d (amoResult n uns old))

/-- A far reduction: it is checked at issue and enters the store buffer (R127, R128). -/
def State.red (s : State) (a b : SReg) (w32 uns : Bool) (op : RedOp) : Out :=
  s.swarm fun g => s.plainly fun s =>
    let n := if w32 then 4 else 8
    s.access g (s.rS a) n n false true .atomic true fun p =>
      s.buffer g [sbEntry (s.rS a) n (.red op w32 uns) (s.rS b).toNat p]

/-! ## Ordering conditions (R130, R132) -/

/-- Whether a range lock of the thread's own transfers is registered (R132). -/
def State.ownsLock (s : State) (g : Nat) : Bool := s.dev.locks.any fun l => l.uid == some (s.thread g).uid

/-- A form that reports a recorded LINK_LOST (R134): it traps instead of issuing. -/
def State.reportLink (s : State) (g : Nat) (k : Out) : Out :=
  match (s.thread g).lkl with
  | none => k
  | some port => State.raise { s with iss := { s.iss with report := true } } cLINK_LOST (port.setWidth 64)

end Sys2Proof.Machine
end

