-- ==== Sys2Proof/Machine/Invoke.lean ====
section
/-!
DEFINITION. Creating threads and answering them, opcodes 0x50 to 0x57: invocation records (R92, R205, R206), invocations and
their attempts (R207 to R210), replies (R93, R212, R214), the end of a thread, recv (R213) and abq (R215).
-/
namespace Sys2Proof.Machine

/-! ## Records (R92) -/

def recHdr (r : BitVec 512) : Nat := bitsN r.toNat 0 64
def recArg (r : BitVec 512) (i : Nat) : Word := wd (bitsN r.toNat (64 + 64 * i) 64)
def recTicket (r : BitVec 512) : BitVec 32 := BitVec.ofNat 32 (bitsN r.toNat 320 32)
def recTs (r : BitVec 512) : Word := wd (bitsN r.toNat 384 64)
def recAf (r : BitVec 512) : Bool := bitsN (recHdr r) 63 1 == 1
def recPrio (r : BitVec 512) : Nat := bitsN (recHdr r) 61 2
def recGsz (r : BitVec 512) : Nat := bitsN (recHdr r) 58 3
def recTsp (r : BitVec 512) : Bool := bitsN (recHdr r) 57 1 == 1
def recSvs (r : BitVec 512) : Bool := bitsN (recHdr r) 56 1 == 1
def recHidx (r : BitVec 512) : Nat := bitsN (recHdr r) 0 16
def recCode (r : BitVec 512) : Word := wd (bitsN (recHdr r) 3 49 * 8)

/-- Whether a record's reserved fields are zero (R92). -/
def recFormOk (r : BitVec 512) : Bool :=
  bitsN (recHdr r) 52 4 == 0 && (if recAf r then bitsN (recHdr r) 0 3 == 0 else bitsN (recHdr r) 16 36 == 0) &&
  bitsN r.toNat 352 32 == 0 && bitsN r.toNat 448 64 == 0

/-- A record from its header, arguments, ticket and timestamp. -/
def mkRec (hdr : Nat) (args : List Word) (ticket : BitVec 32) (ts : Word) : BitVec 512 :=
  BitVec.ofNat 512 (hdr % 2 ^ 64 + leNat (args.flatMap fun x => leBytes 8 x.toNat) * 2 ^ 64 + ticket.toNat * 2 ^ 320 +
    ts.toNat * 2 ^ 384)

/-! ## Pending results of creating forms -/

/-- The result of a form whose answer arrives later: its token is the number handed out. -/
def State.pendFor (s : State) (d : SReg) : State :=
  (s.long { dest := .sreg d, left := 0, ready := false, val := 0, tok := s.fresh }).next

/-- The status word of R210. -/
def statusOf (ticket : BitVec 32) (tries status : Nat) : VWord :=
  BitVec.ofNat 256 (ticket.toNat * 2 ^ 32 + tries % 16 * 256 + status % 256)

/-! ## spawn, spawn.t and callat (R205, R206) -/

/-- The header that the SD4 sends for s[a] (R205): svs by the issuer's privilege, tsp for spawn.t, and priority 1 for a
user thread's priority 0. -/
def spawnHdr (x : Word) (sv tsp : Bool) : Nat :=
  x.toNat + sv.toNat * 2 ^ 56 + tsp.toNat * 2 ^ 57 + (if !sv && bits x 61 2 == 0 then 2 ^ 61 else 0)

/-- Sends a record to a rotunda. -/
def State.sendRec (s : State) (f : Nat) (r : Rec) : State := s.modField f fun x => { x with arr := x.arr ++ [r] }

/-- The record of a thread's creating form, with its pending result. -/
def State.spawnTo (s : State) (g f : Nat) (d : SReg) (hdr : Nat) (args : List Word) (ts : Word) (pref : Pref)
    (parent : Option (Nat × Nat)) : Out :=
  .next ((s.pendFor d).sendRec f
    { data := mkRec hdr args 0 ts, sender := .thread (s.thread g).sv, path := .none, pref := pref
      notify := .pend g s.fresh, parent := parent })

/-- spawn: to the rotunda of the issuer's field (R205, R206). -/
def execSpawn (d a : SReg) (q : Quad) (s : State) : Out :=
  s.swarm fun g =>
    if bits (s.rS a) 52 6 ≠ 0 then s.und
    else s.plainly fun s =>
      s.spawnTo g (unitField g) d (spawnHdr (s.rS a) (s.thread g).sv false) (s.quad q) 0 .field none

/-- spawn.t: an ordered task for a core of the issuer's block; a timestamp below the issuer's own traps ORDER (R206). -/
def execSpawnT (d a : SReg) (q : Quad) (s : State) : Out :=
  s.swarm fun g =>
    let t := s.thread g
    if bits (s.rS a) 52 6 ≠ 0 then s.und
    else if t.task.isSome && (s.rS d).ult t.tsval then s.raise cORDER t.tsval
    else
      s.spawnTo g (unitField g) d (spawnHdr (s.rS a) t.sv true) (s.quad q) (s.rS d) (.only (unitBlk g))
        (if t.spec then t.task else none)

/-- How callat's data address translates: the field and block that home its line (R206). -/
inductive CallAt where
  | ok (f b : Nat)
  | miss
  | bad (cause : BitVec 8)
  deriving DecidableEq, Repr

/-- A leaf gives callat its place without a permission check; a frame that is not DRAM of this SD4 is refused (R206). -/
def State.callatLeaf (s : State) (e : TlbEntry) (va : Nat) : CallAt :=
  let pa := leafFrame e.leaf + va % 2 ^ pageLog e.level
  if homeOf (leafFrame e.leaf) ≠ some .dram ∨ leafRM e.leaf = true then .bad cPAGE_PERM
  else if !s.dev.sealed && leafSeal e.leaf then .bad cSEAL
  else .ok (lineHome e.leaf pa).1 (lineHome e.leaf pa).2

def State.callatHome (s : State) (g : Nat) (va : Word) : CallAt :=
  if va.toNat ≥ 2 ^ 52 then .bad cPAGE_NP
  else
    match cacheLook (s.threadTiers g) va.toNat { rd := false, wr := false, ex := false, sv := true } with
    | some e => s.callatLeaf e va.toNat
    | none =>
      match (s.thread g).walked with
      | some (a, _, .notPresent) => if a / 65536 = va.toNat / 65536 then .bad cPAGE_NP else .miss
      | some (a, _, .malformed) => if a / 65536 = va.toNat / 65536 then .bad cPAGE_PERM else .miss
      | some (a, _, .struck) => if a / 65536 = va.toNat / 65536 then .bad cECC else .miss
      | none => .miss

/-- callat: to the rotunda of the field that homes the line at s[d], for a core of the homing block first (R206). Its walk traps at
either privilege (R310). -/
def execCallat (d a : SReg) (q : Quad) (s : State) : Out :=
  s.swarm fun g =>
    if bits (s.rS a) 52 6 ≠ 0 then s.und
    else s.plainly fun s =>
      match s.callatHome g (s.rS d) with
      | .miss => s.waitWalk g (s.rS d).toNat .read
      | .bad c => s.raise c (s.rS d)
      | .ok f b =>
        s.spawnTo g f d (spawnHdr (s.rS a) (s.thread g).sv false) (s.quad q) 0 (.first (8 * f + b)) none

/-! ## Invocations (R207 to R210) -/

def State.inv (s : State) (id : Nat) : Option Inv := s.dev.invs.find? fun i => decide (i.id = id)
def State.modInv (s : State) (id : Nat) (f : Inv → Inv) : State :=
  s.modDev fun d => { d with invs := d.invs.map fun i => if i.id = id then f i else i }
def State.dropInv (s : State) (id : Nat) : State :=
  s.modDev fun d => { d with invs := d.invs.filter fun i => decide (i.id ≠ id) }

/-- Frees the ticket-table entry of a ticket (R209). -/
def State.freeTicket (s : State) (c : Nat) (ticket : BitVec 32) : State :=
  s.modCore c fun x => { x with outst := x.outst.filter fun o => o.ticket ≠ ticket }

/-- A refusal or an acceptance of an attempt, or the loss or lack of its answer, by the codes of R93 (R208). -/
def State.invAnswer (s : State) (id status : Nat) : State :=
  match s.inv id with
  | none => s
  | some i =>
    let ticket := recTicket i.data
    let free (s : State) : State := if ticket = 0 then s else s.freeTicket i.core ticket
    if status = 1 ∧ i.form = 1 ∧ i.tries < bits i.desc 36 4 then
      s.modInv id fun i => { i with tries := i.tries + 1, run := .backoff (s.ns + min (256 * 2 ^ i.tries) 65536) }
    else if status = 1 ∧ i.form = 2 then
      ((free s).dropInv id).pendDone i.g i.tok 0 (some (cINVQ_FULL, i.desc))
    else
      let s1 := if status = 1 ∨ status = 2 ∨ status = 3 then free s else s
      (s1.dropInv id).pendDone i.g i.tok (statusOf ticket i.tries status) none

/-- The two flits of a record on its way to another device: the target field stands in the route field, which no rule
gives for a packet (log 10). -/
def recFlits (r : BitVec 512) (field : Nat) : List Flit :=
  [{ hdr := mkHdr 2 0 0 field 0 0 0 0, pay := r.setWidth 256 }, { hdr := mkHdr 2 0 0 field 0 0 0 1, pay := (r >>> 256).setWidth 256 }]

/-- Sends an attempt of an invocation (R208, R394); with no live path it ends with LINK_LOST. -/
def State.attempt (s : State) (i : Inv) : State :=
  let dev := bits i.desc 20 10
  let f := bits i.desc 30 4
  let s1 := s.modInv i.id fun x => { x with run := .sent s.ns }
  if dev = s.dev.devnum then
    s1.sendRec f
      { data := i.data, sender := .thread i.sv, path := if recTicket i.data = 0 then .none else .core i.core
        pref := .field, notify := .inv i.id }
  else
    match s1.sendPacket dev (coreName i.core) (some (.inv i.id)) (recFlits i.data f) with
    | some s2 => s2
    | none => s1.invAnswer i.id 5

/-- The ticket after one: modulo 2^32, skipping 0 (R209). -/
def nextTicket (t : BitVec 32) : BitVec 32 := if t + 1 = 0 then 1 else t + 1

/-- A new invocation of a thread with its ticket and its first attempt. -/
def State.invokeNow (s : State) (g form : Nat) (d : SReg) (desc mbox : Word) (args : List Word) : Out :=
  let c := threadCore g
  let sv := (s.thread g).sv
  let prio := if !sv && bits desc 34 2 == 0 then 1 else bits desc 34 2
  let ticket := if mbox = 0 then 0 else (s.core c).ticket
  let data := mkRec (prio * 2 ^ 61 + sv.toNat * 2 ^ 56 + bits desc 0 16) args ticket 0
  let i : Inv := { id := s.fresh, g := g, tok := s.fresh, form := form, desc := desc, data := data, sv := sv, core := c,
                   tries := 0, run := .sent s.ns }
  let s1 := (s.pendFor d).modDev fun x => { x with invs := x.invs ++ [i] }
  let s2 := if mbox = 0 then s1
    else s1.modCore c fun x =>
      { x with ticket := nextTicket x.ticket, outst := x.outst ++ [{ ticket := ticket, mbox := mbox, sv := sv }] }
  .next (s2.attempt i)

/-- The invoke forms (R207): a full ticket table makes the bundle wait (R209). -/
def State.invoke (s : State) (form : Nat) (d a : SReg) (q : Quad) : Out :=
  s.swarm fun g =>
    let desc := s.rS a
    let mbox := s.rS d
    if bits desc 40 24 ≠ 0 ∨ bits desc 16 4 ≠ 0 ∨ bits mbox 0 6 ≠ 0 ∨ bits mbox 52 12 ≠ 0 then s.und
    else s.plainly fun s =>
      if mbox ≠ 0 ∧ (s.core (threadCore g)).outst.length ≥ 64 then s.wait
      else s.invokeNow g form d desc mbox (s.quad q)

/-- invoke (R207, R208). -/
def execInvoke (d a : SReg) (q : Quad) (s : State) : Out := s.invoke 0 d a q

/-- invoke.w: retries a full queue (R208). -/
def execInvokeW (d a : SReg) (q : Quad) (s : State) : Out := s.invoke 1 d a q

/-- invoke.t: a full queue traps INVQ_FULL with the result (R208). -/
def execInvokeT (d a : SReg) (q : Quad) (s : State) : Out := s.invoke 2 d a q

/-! ## Replies (R93, R212, R214) -/

/-- A reply payload (R93). -/
def replyData (ticket : BitVec 32) (status cause : Nat) (v0 v1 v2 : Word) : BitVec 256 :=
  BitVec.ofNat 256 (ticket.toNat + status * 2 ^ 32 + cause * 2 ^ 40 + v0.toNat * 2 ^ 64 + v1.toNat * 2 ^ 128 +
    v2.toNat * 2 ^ 192)

/-- The core that a cname names (R25). -/
def coreOfName (n : Nat) : Nat := bitsN n 12 4 * 128 + bitsN n 8 3 * 16 + bitsN n 0 5 % 16

/-- The flit of a reply: the route field carries the core addressed (log 10). -/
def replyFlit (sname : Nat) (data : BitVec 256) : Flit :=
  { hdr := mkHdr 3 0 0 (coreOfName sname) 0 0 0 (bitsN data.toNat 0 14), pay := data }

/-- Sends a reply to another device; with no live path its group gets a LINK_LOST record (R398). -/
def State.replyFar (s : State) (dev sname : Nat) (data : BitVec 256) (r : Nat × FRec) : State :=
  match s.sendPacket dev sname (some (.reply data (BitVec.ofNat 16 sname) r.1 r.2.unit)) [replyFlit sname data] with
  | some s1 => s1
  | none => s.addRec r.1 { r.2 with cause := cLINK_LOST, ticket := BitVec.ofNat 32 data.toNat }

/-- The escape node at which ticket `n` is outstanding takes its elements back: the thread's v0, or the parked token
unchanged with a HANDLER_FAULT record (R179). Two tickets that are outstanding with one n, after node_count has wrapped, both take the
elements of the first reply, which no rule settles (DESIGN CHOICE, log 108). -/
def State.escapeBack (s : State) (tile node n : Nat) (pay : Option VWord) (aux : Word) : State :=
  let p := ((Tab.get {} (s.tile tile).escs node).out).find? fun k => decide (k.n = n)
  match p with
  | none => s
  | some k =>
    let s1 := s.modTile tile fun x =>
      { x with escs := Tab.upd {} x.escs node fun e =>
          { e with out := e.out.map fun y => if y.n = n then { y with back := some (pay.getD y.tok.pay) } else y } }
    match pay with
    | some _ => s1
    | none =>
      let gt := match s.tileCtx tile with | none => 0 | some c => c.gtile
      s1.tileNotice tile 1 node cHANDLER_FAULT false (hRoute k.tok.hdr) 0 0
        (BitVec.ofNat 32 (gt * 2 ^ 20 + node * 2 ^ 18 + n)) aux

/-- Sends a group's reply along its path (R214, R405). -/
def State.sendReply (s : State) (grp : Group) (status cause : Nat) (v : Word × Word × Word) (pay : VWord)
    (r : Nat × FRec) : State :=
  let data := replyData grp.ticket status cause v.1 v.2.1 v.2.2
  match grp.path with
  | .none => s
  | .core c => s.modDev fun d => { d with replies := d.replies ++ [{ core := c, data := data, src := none, to_ := none, again := none }] }
  | .remote dev sname => s.replyFar dev sname data r
  | .host q => s.modDev fun d => { d with hreps := d.hreps ++ [{ q := q, data := data, next := s.ns }] }
  | .escape tile node n => s.escapeBack tile node n (if status = 0 then some pay else none) 0

/-! ## The end of a thread (R214, R283) -/

/-- The reply that an ending thread makes its group send, if any: reply, a faulting quit, or the last member's quit. -/
def endReply (grp : Group) (reply : Bool) (d a b : Word) : Option (Nat × Nat × Word × Word × Word) :=
  if grp.sent then none
  else if reply then some (0, 0, d, a, b)
  else if d ≠ 0 then some (4, bits d 0 8, 0, 0, 0)
  else if grp.left ≤ 1 then some (0, 0, d, a, b)
  else none

/-- A member leaves its group as its thread ends: the group's reply is sent, at most once. -/
def State.endMember (s : State) (grp : Option Nat) (reply : Bool) (d a b : Word) (v0 : VWord) (r : Nat × FRec) : State :=
  match grp with
  | none => s
  | some i =>
    match s.group i with
    | none => s
    | some x =>
      match endReply x reply d a b with
      | none => s.leaveGroup (some i)
      | some (st, c, v) => ((s.setGroup i (some { x with sent := true })).sendReply x st c v v0 r).leaveGroup (some i)

/-- A thread ends: its task leaves the arbiter, its group's reply is sent, its slot is freed, and completions that it has not taken go to
the fault queue (R214, R276, R347). -/
def State.endThread (s : State) (g : Nat) (reply : Bool) (d a b : Word) : State :=
  let t := s.thread g
  let s1 := match t.task with
    | none => s
    | some k => s.dropTask k.1 k.2
  ((s1.endMember t.group reply d a b (t.ctx.rV 0) (unitField g, s.threadRec g cLINK_LOST)).freeSlot g).compsOut g t.comps

/-- Commits a thread's results, answering the first fault that one carries. -/
def State.closeNow (s : State) (g : Nat) : State × Option (BitVec 8 × Word) :=
  (s.modThread g fun t => { t with ctx := t.ctx.close }, firstFault (s.thread g).ctx.pend)

/-- The trap of a result's fault, or the abort of a speculative task (R346). -/
def State.trapOrPark (s : State) (g : Nat) (cause : BitVec 8) (ev : Word) : State :=
  if (s.thread g).spec then (s.abortPark g).taken else s.trapEntry g cause ev false true

/-- quit and reply (R214): the windows commit first, a fault that a result carries trapping here; then the thread waits
for its stores and range locks. A speculative task is finished, and waits for its commit (R347). Slot B of the bundle
changes only registers, which end with the thread. -/
def State.finish (s : State) (reply : Bool) (d a b : SReg) : Out :=
  s.swarm fun g =>
    if !(s.thread g).ctx.pend.all Pending.ready then s.wait
    else
      let c := s.closeNow g
      match c.2 with
      | some (cause, ev) => .next (c.1.trapOrPark g cause ev)
      | none =>
        let s := c.1
        let t := s.thread g
        if !reply && s.rS d != 0 && !t.sv then s.priv
        else if t.spec then
          .next ((s.modThread g fun t => { t with run := .finished reply (s.rS d) (s.rS a) (s.rS b) }).taken)
        else
          s.reportLink g
            (if t.sb ≠ [] ∨ s.ownsLock g = true then s.wait
             else .next (s.endThread g reply (s.rS d) (s.rS a) (s.rS b)).taken)
/-- quit (R214). -/
def execQuit (d a b : SReg) (s : State) : Out := s.finish false d a b

/-- reply (R214). -/
def execReply (d a b : SReg) (s : State) : Out := s.finish true d a b

/-! ## recv and abq (R213, R215) -/

/-- The address of a mailbox's record `i` (R211): the header's cap is read with it; with a cap of 0 the place is free (log 23). -/
def recordAddr (va : Word) (cap head : Nat) : Word := va + 64 + wd (40 * (if cap = 0 then Config.noCapRecord head else head % cap))

/-- What a mailbox header holds: cap, head, tail. -/
def mailbox (x : Nat) : Nat × Nat × Nat := (bitsN x 0 16, bitsN x 64 64, bitsN x 128 64)

/-- recv: waits until tail ≠ head, and answers the address of record head mod cap (R213). -/
def execRecv (d a : SReg) (imm : Imm) (s : State) : Out :=
  s.swarm fun g => s.plainly fun s =>
    let ea := s.ea a imm
    s.access g ea 64 64 true false .any true fun p =>
      let wait : Out := .next (s.modThread g fun t => { t with run := .wait (.recv d ea) })
      if (s.thread g).sb.any fun e => e.over p 64 then s.wait
      else match p.home with
      | .remote _ => wait
      | .dram | .aperture | .regs | .host =>
        let m := mailbox (s.homeRead p 64)
        if m.2.2 ≠ m.2.1 then .next (s.wS d (recordAddr ea m.1 m.2.1)) else wait

/-- abq: abort count, status.spec, and whether the task is the oldest unfinished one (R215). -/
def execAbq (d : SReg) (s : State) : Out :=
  s.swarm fun g =>
    let t := s.thread g
    match s.taskOf g with
    | none => .next (s.wS d 0)
    | some k => .next (s.wS d (wd (k.aborts + t.spec.toNat * 256 + (s.isOldestUnfinished g).toNat * 512)))

end Sys2Proof.Machine
end

