-- ==== Sys2Proof/Machine/System.lean ====
section
/-!
DEFINITION. System forms, opcodes 0x70 to 0x7C: traps and returns (R216, R217), control registers (R23 to R30, R218), waits
(R219), invalidation (R220, R221), and the halting and moving of threads (R222 to R227).
-/
namespace Sys2Proof.Machine

/-! ## Traps and returns (R216, R217) -/

/-- trap: a trap with cause PRIV at either privilege (R216); it does not run speculatively (R344). -/
def execTrap (_n : BitVec 12) (s : State) : Out := s.swarm fun _ => s.plainly fun s => s.priv

/-- eret (R39, R217). -/
def execEret (s : State) : Out := s.super fun g => .next (s.trapReturn g)

/-- uret: UND outside a completion handler (R33, R217). -/
def execUret (s : State) : Out :=
  s.swarm fun g =>
    if (s.thread g).inuh then
      .next ((s.modThread g fun t => { t with inuh := false }).jump (wd (bits (s.thread g).xfh 3 49 * 8)))
    else s.und

/-- A bundle that is not an instruction: UND, naming the faulty slot (R85). -/
def execUndBundle (slotB : Bool) (s : State) : Out := s.raise cUND s.iss.word slotB

/-! ## Control registers (R23 to R30, R218) -/

/-- Whether a control register is beyond user privilege, for a read or a write (R24). -/
def csrPriv (n : Nat) (write : Bool) : Bool := decide (0x100 ≤ n ∧ n < 0x200) || (write && n == 0x011)

/-- A control register of a swarm thread. -/
def State.csrThread (s : State) (g n : Nat) : Word :=
  let t := s.thread g
  match n with
  | 0x000 => wd (g % 8)
  | 0x001 => wd (coreName (threadCore g))
  | 0x002 => s.ccyc (unitBlk g)
  | 0x003 => s.ctime (unitBlk g)
  | 0x010 => t.status
  | 0x011 => t.prio.setWidth 64
  | 0x012 => t.ticket.setWidth 64
  | 0x013 => t.tsval
  | 0x020 => s.view.vrm.setWidth 64
  | 0x021 => s.view.vflags.setWidth 64
  | 0x030 => t.xfid
  | 0x031 => t.xfh
  | 0x032 => t.xfpend
  | 0x100 => t.epc
  | 0x101 => t.ecause
  | 0x102 => t.eval
  | 0x103 => t.estat
  | 0x104 => t.ehand
  | 0x105 => t.escr
  | _ => 0

/-- A control register of a compute core. -/
def State.csrCore (s : State) (k n : Nat) : Word :=
  match n with
  | 0x001 => wd (tileName (coreTile k))
  | 0x002 => s.ccyc (unitBlk k)
  | 0x003 => s.ctime (unitBlk k)
  | 0x010 => statusWord false false false false true
  | 0x020 => s.view.vrm.setWidth 64
  | 0x021 => s.view.vflags.setWidth 64
  | 0x200 => (s.tcore k).mdesc
  | 0x201 => (s.tcore k).rsel
  | _ => 0

/-- The bits of xfpend that the SD4 has set in block cycle `cyc` (R33). -/
def Thread.newPend (t : Thread) (cyc : Nat) : Word := if t.xfnew.1 = cyc then t.xfnew.2 else 0

/-- Writes the writable fields of a thread's control register (R24, R27 to R36). A 1 written to a bit of xfpend clears it, unless the SD4
has set it in the same block cycle (R33). -/
def Thread.csrw (t : Thread) (n : Nat) (x : Word) (cyc : Nat) : Thread :=
  match n with
  | 0x010 => { t with uie := bit x 4 }
  | 0x011 => { t with prio := x.setWidth 2 }
  | 0x020 => { t with ctx := { t.ctx with vrm := x.setWidth 2 } }
  | 0x021 => { t with ctx := { t.ctx with vflags := x.setWidth 5 } }
  | 0x031 => { t with xfh := bundleAddr x }
  | 0x032 => { t with xfpend := t.xfpend &&& ~~~ (x &&& ~~~ t.newPend cyc) }
  | 0x100 => { t with epc := bundleAddr x }
  | 0x101 => { t with ecause := wd (bits x 0 10) }
  | 0x102 => { t with eval := x }
  | 0x103 => { t with estat := x &&& 0xB3#64 }
  | 0x104 => { t with ehand := bundleAddr x }
  | 0x105 => { t with escr := x }
  | _ => t

/-- Writes the writable fields of a compute core's control register (R40, R42); status ignores the write (R27). -/
def TCore.csrw (c : TCore) (n : Nat) (x : Word) : TCore :=
  match n with
  | 0x020 => { c with ctx := { c.ctx with vrm := x.setWidth 2 } }
  | 0x021 => { c with ctx := { c.ctx with vflags := x.setWidth 5 } }
  | 0x200 => { c with mdesc := x &&& 0xF7FFFFFFF#64 }
  | 0x201 => { c with rsel := x &&& 0x3FFFF#64 }
  | _ => c

/-- csrr (R218). -/
def execCsrr (d : SReg) (num : BitVec 12) (s : State) : Out :=
  let n := num.toNat
  if !csrExists s.inTile n then s.und
  else
    match s.cur with
    | .thread g => if csrPriv n false && !s.isSv then s.priv else .next (s.wS d (s.csrThread g n))
    | .core k => .next (s.wS d (s.csrCore k n))

/-- csrw: a register without a writable field is UND (R24, R218); on a thread it does not run speculatively (R344). -/
def execCsrw (num : BitVec 12) (a : SReg) (s : State) : Out :=
  let n := num.toNat
  if !csrExists s.inTile n || !csrWritable.contains n then s.und
  else
    match s.cur with
    | .thread g =>
      if csrPriv n true && !s.isSv then s.priv
      else s.plainly fun s => .next (s.modThread g fun t => t.csrw n (s.rS a) (s.blk (unitBlk g)).cyc)
    | .core k => .next (s.modTcore k fun c => c.csrw n (s.rS a))

/-! ## Waiting (R219) -/

/-- wfi: the thread issues nothing until a completion is pending or a halt is due (R219). -/
def execWfi (s : State) : Out :=
  s.swarm fun g => s.plainly fun s => .next (s.modThread g fun t => { t with run := .wait .wfi })

/-- wfit: as wfi, and until ctime reaches s[a] (R219). -/
def execWfit (a : SReg) (s : State) : Out :=
  s.swarm fun g => s.plainly fun s => .next (s.modThread g fun t => { t with run := .wait (.wfit (s.rS a)) })

/-! ## Invalidation (R220, R221) -/

/-- Whether an address range [x, x + n) touches [a, a + b), where b all ones is everything (R220). -/
def inRange (a b : Word) (x n : Nat) : Bool :=
  if b = -1 then true else decide (b ≠ 0) && overlaps a.toNat b.toNat x n

/-- The blocks of a scope, counted from the issuer's block (R81). -/
def inScope (sc : Scope) (own b : Nat) : Bool :=
  match sc with
  | .thread | .core | .block => b == own
  | .field => b / 8 == own / 8
  | .device | .system => true

/-- Whether a scope ends at the issuer's core. -/
def coreScope : Scope → Bool
  | .thread | .core => true
  | .block | .field | .device | .system => false

/-- A tier without the translations of a range. -/
def tlbDrop (a b : Word) (l : List TlbEntry) : List TlbEntry := l.filter fun e => !inRange a b e.base (2 ^ pageLog e.level)

/-- Whether a thread belongs to the scope of an invalidation by thread `g`. -/
def threadIn (sc : Scope) (g h : Nat) : Bool :=
  if coreScope sc then threadCore h == threadCore g else inScope sc (unitBlk g) (unitBlk h)

/-- Removes the translations of a range from every cache of a scope; a walk that failed for a page of the range is made
anew (R220). -/
def State.tlbInval (s : State) (g : Nat) (sc : Scope) (a b : Word) : State :=
  let own := unitBlk g
  let dropW := fun (w : Option (Nat × Access × WalkErr)) => match w with
    | none => none
    | some x => if inRange a b (x.1 / 65536 * 65536) 65536 then none else w
  let s1 := { s with
    cores := Tab.mapVals {} (fun c x =>
      if (if coreScope sc then c == threadCore g else inScope sc own (c / 16)) then { x with tlb := tlbDrop a b x.tlb } else x) s.cores
    threads := Tab.mapVals {} (fun h x => if threadIn sc g h then { x with walked := dropW x.walked } else x) s.threads }
  if coreScope sc then s1
  else
    { s1 with
      blks := Tab.mapVals {} (fun k x =>
        if inScope sc own k then
          { x with
            tlb := tlbDrop a b x.tlb
            ports := Tab.mapVals {} (fun _ p => { p with tlb := tlbDrop a b p.tlb, walked := dropW p.walked }) x.ports }
        else x) s1.blks
      dev := { s1.dev with
        agens := Tab.mapVals none (fun m x =>
          match x with
          | none => none
          | some y =>
            if inScope sc own (m / 8) then some { y with tlb := tlbDrop a b y.tlb, walked := dropW y.walked }
            else some y) s1.dev.agens } }

/-- Whether an access of a thread may have been translated by what an invalidation removes, and has not been performed: a store in the
buffer, whose page is at most the 16 GiB around it, or a load on its way. -/
def Thread.accessIn (t : Thread) (a b : Word) : Bool :=
  (t.sb.any fun x => inRange a b (x.va.toNat / 2 ^ 34 * 2 ^ 34) (2 ^ 34)) || t.ctx.pend.any Pending.flying ||
    (t.farbuf.any fun e => e.2.2.isNone) || (t.fetchw.any fun e => e.2.isNone)

/-- Whether an engine waits for an access to another device. -/
def Far.inFlight : Far → Bool
  | .reading | .writing => true
  | .idle | .wrote | .read _ | .lost _ => false
def FarBuf.inFlight (b : FarBuf) : Bool := b.any fun e => e.2.2.isNone

/-- Whether an access of the scope that was translated before has not been performed: the blocks do not acknowledge before it is
(R220). -/
def State.storesIn (s : State) (g : Nat) (sc : Scope) (a b : Word) : Bool :=
  let own := unitBlk g
  (s.threads.any fun e => threadIn sc g e.1 && e.2.accessIn a b) ||
  (!coreScope sc &&
    ((s.dev.xfers.any fun e => match e.2 with
        | none => false
        | some x => inScope sc own x.blk && (x.far.inFlight || FarBuf.inFlight x.farbuf || x.counts != 0)) ||
      (s.dev.agens.any fun e => match e.2 with
        | none => false
        | some x => inScope sc own (e.1 / 8) && (x.far.inFlight || x.arrFar)) ||
      (s.blks.any fun e => inScope sc own e.1 &&
        ((e.2.comps.any fun c => c.asked) || e.2.ports.any fun p => p.2.arr.any fun x => FarBuf.inFlight x.farbuf))))

/-- tlbi (R220). -/
def execTlbi (sc : Scope) (a b : SReg) (s : State) : Out :=
  s.super fun g =>
    if s.storesIn g sc (s.rS a) (s.rS b) then s.wait else .next (s.tlbInval g sc (s.rS a) (s.rS b))

/-- Removes the instruction lines of a range from the L1s of a scope (R221). -/
def State.lineInval (s : State) (g : Nat) (sc : Scope) (a b : Word) : State :=
  let drop := fun (c : Nat) (x : Core) =>
    if (if coreScope sc then c == threadCore g else inScope sc (unitBlk g) (c / 16)) then
      { x with ilines := x.ilines.filter fun l => !inRange a b l.va 64 }
    else x
  { s with cores := Tab.mapVals {} drop s.cores }

/-- icinv: once the store buffer is empty, removes the instruction lines of a range from the L1s of the scope (R221). -/
def execIcinv (sc : Scope) (a b : SReg) (s : State) : Out :=
  s.swarm fun g => s.plainly fun s =>
    if (s.thread g).sb ≠ [] then s.wait
    else
      .next (s.lineInval g sc (s.rS a) (s.rS b))

/-! ## Slot names (R222) -/

/-- The fields of a slot name. -/
structure SlotName where
  op   : Nat
  all  : Bool
  tid  : Nat
  core : Bool
  num  : Nat
  site : Nat
  deriving DecidableEq, Repr

/-- Reads a slot name; `num` is the device-wide number of the core or tile. -/
def slotName (w : Word) : SlotName :=
  let blk := bits w 12 4 * 8 + bits w 8 3
  { op := bits w 20 2, all := bit w 19, tid := bits w 16 3, core := bit w 7
    num := if bit w 7 then blk * 16 + bits w 0 5 % 16 else blk * 32 + bits w 0 5, site := bits w 0 5 }

/-- Whether the zero fields of a slot name hold zero, and its compute core exists in every tile (R222). -/
def slotNameOk (w : Word) : Bool :=
  bits w 22 42 == 0 && !bit w 11 && bits w 5 2 == 0 &&
  (if bit w 19 then bits w 16 3 == 0 else bit w 7 || decide (bits w 16 3 < 4))

/-- Whether the named core or tile exists (R8). -/
def State.slotExists (s : State) (n : SlotName) : Bool :=
  if n.core then decide (n.site < 16) && s.coreExists n.num else s.tileExists n.num

/-- The units that a name covers: thread slots or compute cores. -/
def SlotName.units (n : SlotName) : List Nat :=
  if n.core then (if n.all then (List.range 8).map fun i => n.num * 8 + i else [n.num * 8 + n.tid])
  else (if n.all then (List.range 4).map fun i => n.num * 4 + i else [n.num * 4 + n.tid])

/-! ## preempt (R223) -/

/-- How a unit stands towards preempt: absent, halted or running. -/
inductive PState where
  | absent | halted | running
  deriving DecidableEq, Repr

def State.threadState (s : State) (self g : Nat) : PState :=
  if g = self then .absent
  else
    match (s.thread g).run with
    | .free => .absent
    | .halted => .halted
    | .run | .wait _ | .finished _ _ _ _ | .parked => .running

def State.coreState (s : State) (k : Nat) : PState :=
  match (s.tcore k).run with
  | .idle => .absent
  | .faulted _ => .halted
  | .run | .held | .sync _ _ _ | .ctxsw _ => if (s.tcore k).halted then .halted else .running

def State.unitState (s : State) (n : SlotName) (self u : Nat) : PState :=
  if n.core then s.threadState self u else s.coreState u

/-- The result code when `acted` targets took the request: 0, or 1 when no target exists, or 2 (R223). -/
def preemptCode (sts : List PState) (want : PState) : Nat :=
  if sts.any (· == want) then 0 else if sts.all (· == .absent) then 1 else 2

/-- Makes a halt or trap due for a unit. -/
def State.addDue (s : State) (n : SlotName) (u : Nat) (d : Due) : State :=
  if n.core then s.modThread u fun t => { t with due := t.due ++ [d] }
  else s.modTcore u fun c => { c with due := c.due ++ [d] }

/-- A halted thread issues again: an ordered task that its halt aborted runs plain when it is oldest, speculatively
otherwise (R223, R346). -/
def State.resumeThread (s : State) (g : Nat) : State :=
  match s.taskOf g with
  | none => s.modThread g fun t => { t with run := .run }
  | some k =>
    if k.plain then s.modThread g fun t => { t with run := .run }
    else
      let old := s.isOldest g
      (s.modTask (unitBlk g) k.num fun k => { k with plain := old }).modThread g
        fun t => { t with run := .run, spec := !old }

/-- Whether an operation holds its core until it ends (R182). -/
def MKind.holds : MKind → Bool
  | .mg | .mzero => false
  | .mdrain _ _ _ | .acpy _ _ | .mspx _ _ _ => true

/-- A halted core issues again, a core whose operation stands in the matrix queue holding for it; a core that a fault
halted issues its faulting bundle again (R316, R319). -/
def State.resumeCore (s : State) (k : Nat) : State :=
  s.modTcore k fun c =>
    match c.run with
    | .faulted _ =>
      { c with halted := false, run := if (s.tile (coreTile k)).mq.any (fun m => m.core == k && m.kind.holds) then .held else .run }
    | _ => { c with halted := false }

def State.resumeUnit (s : State) (n : SlotName) (u : Nat) : State := if n.core then s.resumeThread u else s.resumeCore u

/-- A form that supervisor privilege alone may run, past the checks of its operands, which come first (R304). -/
def State.onlySv (s : State) (g : Nat) (k : Out) : Out := if (s.thread g).sv then k else s.priv

/-- A preempt: the request becomes due for every target in a state for it, and the result arrives when none of its
requests is due any more (R223). -/
def State.preempt (s : State) (d a : SReg) (want : PState) (tile : Bool) (act : State → SlotName → Nat → State) : Out :=
  s.swarm fun g =>
    let w := s.rS a
    let n := slotName w
    if !slotNameOk w || n.op == 3 || (!tile && !n.core) then s.und
    else s.onlySv g <|
    if !s.slotExists n then .next (s.longS d 1)
    else
      let sts := n.units.map (s.unitState n g)
      if preemptCode sts want ≠ 0 then .next (s.longS d (wd (preemptCode sts want)))
      else
        let s1 := n.units.foldl (fun s' u => if s.unitState n g u = want then act s' n u else s') s.next
        .next (s1.long { dest := .sreg d, left := 0, ready := false, val := 0, tok := s.fresh, fly := .preempt })

/-- preempt halt (R223). -/
def execPreemptHalt (d a : SReg) (s : State) : Out :=
  s.preempt d a .running true fun s' n u => s'.addDue n u { trap := false, by_ := some s.fresh }

/-- preempt trap: UND for a tile (R223). -/
def execPreemptTrap (d a : SReg) (s : State) : Out :=
  s.preempt d a .running false fun s' n u => s'.addDue n u { trap := true, by_ := some s.fresh }

/-- preempt resume (R223). -/
def execPreemptResume (d a : SReg) (s : State) : Out :=
  s.preempt d a .halted true fun s' n u => s'.resumeUnit n u

/-- halt: the issuing thread halts after its bundle, as a halt by preempt would (R224). -/
def execHalt (s : State) : Out :=
  s.super fun g => .next (s.modThread g fun t => { t with due := t.due ++ [{ trap := false, by_ := none }] })

/-! ## Ranges of bytes -/

/-- A byte range cut at page boundaries of 64 KiB, which every page size keeps. -/
def pageParts (va n : Nat) : List (Nat × Nat) :=
  let k := min n (65536 - va % 65536)
  if k = n then [(va, n)] else [(va, k), (va + k, n - k)]

/-- The lowest address of a range that a registered range lock covers. -/
def State.lockedAt (s : State) (va n : Nat) : Option Nat :=
  (s.dev.locks.filter fun l => overlaps va n l.lo (l.hi - l.lo)).foldl
    (fun m l => match m with
      | none => some (max va l.lo)
      | some x => some (min x (max va l.lo))) none

/-- Checks a range part by part: the translations, or the lowest failing address (R304). -/
def State.checkParts (s : State) (g : Nat) (need : Need) (locks : Bool) :
    List (Nat × Nat) → Except (Word × Acc) (List (Nat × Nat × Phys))
  | [] => .ok []
  | (va, n) :: l =>
    if va ≥ 2 ^ 52 then .error (wd va, .bad cPAGE_NP)
    else
      match s.xlThread g va need with
      | .miss => .error (wd va, .miss)
      | .bad c => .error (wd va, .bad c)
      | .ok p =>
        match (if locks then s.lockedAt va n else none) with
        | some a => .error (wd a, .bad cRLOCK)
        | none =>
          match s.checkParts g need locks l with
          | .ok ps => .ok ((va, n, p) :: ps)
          | .error e => .error e

/-- Makes an access to a range of `n` bytes, aligned to `align`: runs `k` with the parts' translations. -/
def State.accessRange (s : State) (g : Nat) (ea : Word) (n align : Nat) (wr locks : Bool)
    (k : List (Nat × Nat × Phys) → Out) : Out :=
  if ea.toNat ≥ 2 ^ 52 then s.pageNp ea
  else if ea.toNat % align ≠ 0 then s.raise cALIGN ea
  else
    match s.checkParts g (s.need g (!wr) wr .any) locks (pageParts ea.toNat n) with
    | .ok ps => if s.heldBack g then s.wait else k ps
    | .error (a, .bad c) => s.xlFault c a
    | .error (a, _) => s.waitWalk g a.toNat (if wr then .write else .read)

/-- Reads the bytes of the parts of a range at their homes. -/
def State.readParts (s : State) : List (Nat × Nat × Phys) → List Byte
  | [] => []
  | (_, n, p) :: l => s.spanRead p n ++ s.readParts l

/-- Performs writes of at most 32 bytes each over one part. -/
def State.writePart (s : State) (g va : Nat) (p : Phys) : Nat → List Byte → State
  | 0, _ => s
  | k + 1, l =>
    if l = [] then s
    else (s.performWrite (some g) none p va (l.take 32)).writePart g (va + 32) (p.plus 32) k (l.drop 32)

/-- Performs the writes of a range. -/
def State.writeParts (s : State) (g : Nat) : List (Nat × Nat × Phys) → List Byte → State
  | [], _ => s
  | (va, n, p) :: l, bs => (s.writePart g va p (n / 32 + 1) (bs.take n)).writeParts g l (bs.drop n)

/-! ## ctx.save and ctx.load (R225 to R227) -/

/-- Whether a slot name is one that ctx.save, or ctx.load, takes (R222). -/
def ctxNameOk (w : Word) (save : Bool) : Bool :=
  slotNameOk w && !bit w 19 && !bit w 21 && (save || !bit w 20)

/-- Whether ctx.save can save a slot (R225, R349): a halted thread; not an uncommitted task when the slot is to be
freed. -/
def State.savable (s : State) (n : SlotName) (g : Nat) : Bool :=
  n.core && s.slotExists n && (s.thread g).run == .halted &&
    !(n.op == 1 && (match s.taskOf g with | none => false | some k => !k.plain))

/-- The reds and releases of a store buffer as accesses. -/
def SbKind.form : SbKind → NeedForm
  | .plain => .any
  | .rel => .ordered
  | .red _ _ _ => .atomic

/-- Translates the pending stores of an image afresh (R225, R313): none when one fails, with its address and cause. -/
def State.translateSb (s : State) (sv : Bool) : List SbEntry → State × Except (Word × BitVec 8) (List SbEntry)
  | [] => (s, .ok [])
  | e :: l =>
    let r := s.xlMark e.va.toNat { rd := false, wr := true, ex := false, sv := sv, form := e.kind.form }
    match r.2 with
    | .bad c => (r.1, .error (e.va, c))
    | .ok p =>
      let q := r.1.translateSb sv l
      match q.2 with
      | .ok es => (q.1, .ok ({ e with phys := p } :: es))
      | .error x => (q.1, .error x)

/-- Admits the thread of an image in a slot (R225): answers the result code. -/
def State.loadImage (s : State) (n : SlotName) (g : Nat) (l : List Byte) : State × Nat :=
  if !(n.core && s.slotExists n && (s.thread g).run == .free) then (s, 1)
  else
    match readImage l with
    | none => (s, 2)
    | some (t, grp) =>
      if (match grp with | none => false | some i => (s.group i).isNone) then (s, 2)
      else
        let r := s.translateSb t.sv t.sb
        match r.2 with
        | .error _ => (s, 2)
        | .ok sb =>
          let s1 := (r.1.next.setThread g { t with sb := sb, group := grp, uid := s.fresh }).modDev fun x =>
            { x with away := x.away.filter fun i => t.stack ≠ some i }
          (match t.task with
            | none => s1
            | some k => s1.modTask k.1 k.2 fun k => { k with g := g }, 0)

/-- Frees a slot after its image has been written (R225); the thread still holds its stack index (R383). -/
def State.saveFree (s : State) (n : SlotName) (g : Nat) : State :=
  if n.op = 1 then
    (s.freeSlot g).modDev fun x => { x with away := x.away ++ (s.thread g).stack.toList }
  else s

/-- Frees a slot once its image has reached another device, if the thread is still as it was saved. Completions that have come since the
image was made, in which the first `k` stand, go to the fault queue as those for a freed slot do (R225). -/
def State.farFree (s : State) (n : SlotName) (k : Nat) : State :=
  let g := n.num * 8 + n.tid
  if s.savable n g then
    (s.saveFree n g).compsOut g (if n.op = 1 then (s.thread g).comps.drop k else [])
  else s

/-- The device of a range, when it lies in another device's memory. -/
def remoteOf (ps : List (Nat × Nat × Phys)) : Option (Nat × Nat) :=
  match ps with
  | (_, _, p) :: _ =>
    match p.home with
    | .remote d => some (d, p.pa)
    | .dram | .aperture | .regs | .host => none
  | [] => none

/-- The 32-byte pieces of an image as memory requests (R338). -/
def State.sendImage (s : State) (g tok dev : Nat) (save : Bool) (l : List Byte) (ps : List (Nat × Nat × Phys)) :
    List Nat → Option State
  | [] => some s
  | i :: is =>
    let pa := match ps with
      | [(_, _, p)] => (p.plus (32 * i)).pa
      | (_, n, p) :: (_, _, q) :: _ => if 32 * i < n then (p.plus (32 * i)).pa else (q.plus (32 * i - n)).pa
      | [] => 0
    match s.sendPacket dev (coreName (threadCore g)) (some (.image g tok i))
        [{ hdr := mkHdr 4 0 0 0 0 0 0 (tok % 2 ^ 14)
           pay := Config.memReqPayload pa 32 (if save then 1 else 0) (BitVec.ofNat 256 (leAt l (32 * i) 32)) }] with
    | none => none
    | some s1 => s1.sendImage g tok dev save l ps is

/-- A ctx.save or ctx.load through another device's memory: its result arrives when every piece has been performed. -/
def State.farImage (s : State) (g : Nat) (d : SReg) (slot dev : Nat) (save : Bool) (l : List Byte)
    (ps : List (Nat × Nat × Phys)) : Out :=
  let tok := s.fresh
  match (s.next).sendImage g tok dev save l ps (List.range 64) with
  | none => .next (s.long { dest := .sreg d, left := 0, ready := true, val := 0,
                            fault := some (cLINK_LOST, (s.lostPort dev).setWidth 64) })
  | some s1 =>
    .next ((s1.modDev fun x =>
      { x with imgjobs := x.imgjobs ++ [{ g := g, tok := tok, save := save, slot := slot,
                                          got := List.replicate 64 none
                                          comps := (s.thread ((slotName (wd slot)).num * 8 + (slotName (wd slot)).tid)).comps.length }] }).long
      { dest := .sreg d, left := 0, ready := false, val := 0, tok := tok, fly := .load (.scalar 8 false) false })

/-- Whether the image of a slot that is to be freed is on its way to another device: what it holds is not performed from the slot any more
(R225). -/
def State.beingSaved (s : State) (g : Nat) : Bool :=
  s.dev.imgjobs.any fun j => j.save && (slotName (wd j.slot)).op == 1 && (slotName (wd j.slot)).num * 8 + (slotName (wd j.slot)).tid == g

/-- ctx.save (R225): the image of a halted thread, written as the issuer's accesses once its own earlier stores have been
performed; a store of the thread that is on its way to another device is awaited (log 20). R116 and R344 do not say whether ctx.save and
ctx.load of a speculative task run speculatively: they wait until the task is oldest and go plain (DESIGN CHOICE, log 120). -/
def execCtxSave (d a : SReg) (imm : Imm) (s : State) : Out :=
  s.swarm fun me =>
    let w := s.rS d
    let n := slotName w
    let g := n.num * 8 + n.tid
    if !ctxNameOk w true then s.und
    else s.onlySv me <| s.plainly fun s =>
      s.accessRange me (s.ea a imm) 2048 64 true true fun ps =>
        if !s.savable n g then .next (s.longS d 1)
        else if (s.thread me).sb ≠ [] ∨ (s.thread g).sb.any SbEntry.sent = true then s.wait
        else
          let l := (s.thread g).image
          match remoteOf ps with
          | some (dev, _) => s.farImage me d w.toNat dev true l ps
          | none => .next (((s.writeParts me ps l).saveFree n g).longS d 0)

/-- ctx.load (R225): admits the thread of an image in a free slot, halted. -/
def execCtxLoad (d a : SReg) (imm : Imm) (s : State) : Out :=
  s.swarm fun me =>
    let w := s.rS d
    let n := slotName w
    let g := n.num * 8 + n.tid
    if !ctxNameOk w false then s.und
    else s.onlySv me <| s.plainly fun s =>
      s.accessRange me (s.ea a imm) 2048 64 false true fun ps =>
        if (s.thread me).sb ≠ [] then s.wait
        else
          match remoteOf ps with
          | some (dev, _) => s.farImage me d w.toNat dev false (zeros 2048) ps
          | none =>
            let r := s.loadImage n g (s.readParts ps)
            .next (r.1.longS d (wd r.2))

end Sys2Proof.Machine
end

