-- ==== Sys2Proof/Machine/Command.lean ====
section
/-!
DEFINITION. Command words (R91), parameter blocks (R195), the transfer kinds (R196), via transfers (R262, R263, R268), the
range-lock entries of a transfer (R197, R260, R261), and xfer (R193).
-/
namespace Sys2Proof.Machine

/-! ## Endpoints (R91) -/

/-- An endpoint of a command word: a virtual address, or a byte of a tile's SRAM. -/
inductive End where
  | mem (va : Nat)
  | tile (t off : Nat)
  deriving DecidableEq, Repr

def endOf (w : Word) : Option End :=
  if bit w 63 then
    if bits w 60 3 = 0 ∧ bits w 20 28 = 0 then some (.tile (bits w 56 4 * 256 + bits w 53 3 * 32 + bits w 48 5) (bits w 0 20))
    else none
  else if bits w 52 11 = 0 then some (.mem (bits w 0 52))
  else none

def End.isMem : End → Bool
  | .mem _ => true
  | .tile _ _ => false

/-- The place of an endpoint as a number: its address or its offset. -/
def End.at_ : End → Nat
  | .mem va => va
  | .tile _ off => off

/-- Whether the tile of an endpoint exists (R8). -/
def State.endExists (s : State) : End → Bool
  | .mem _ => true
  | .tile t _ => s.tileExists t

/-! ## Commands (R91, R195, R196) -/

/-- A checked command: its endpoints, its length, its synchronisation and its kind words. `n` is the count of a list;
`runs` gives the offsets of source and destination of each run. -/
structure Cmd where
  kind  : Nat
  cmode : Nat
  gate  : Bool
  via   : Nat
  xid   : BitVec 16
  src   : End
  dst   : End
  len   : Nat
  ggen  : Nat
  gsync : Option End
  csync : Option End
  hnd   : Word
  cnt   : Nat × Nat × Nat
  ss    : Int × Int × Int
  ds    : Int × Int × Int
  list  : Nat
  n     : Nat
  pat   : Word
  deriving DecidableEq, Repr

def cmdKind (w0 : Word) : Nat := bits w0 60 4
def cmdPb (w0 : Word) : Bool := bit w0 56

/-- Whether a command word needs a parameter block. -/
def needsPb (w0 : Word) : Bool :=
  [1, 2, 3, 4, 6].contains (cmdKind w0) || bit w0 57 || bit w0 59

/-- The length of a kind's parameter block. -/
def pbLen (kind : Nat) : Nat :=
  match kind with
  | 1 => 88
  | 2 => 48
  | 3 => 48
  | 4 => 40
  | 6 => 40
  | _ => 32

/-- The rules of w0 and w3 that hold before any block is read. -/
def headOk (w : List Word) : Bool :=
  let w0 := w.getD 0 0
  let w3 := w.getD 3 0
  decide (cmdKind w0 ≤ 6) && bits w0 16 28 == 0 && (!needsPb w0 || cmdPb w0) &&
    (if cmdPb w0 then bits w3 0 5 == 0 else bits w3 48 16 == 0)

/-- A sync word endpoint: aligned to 16 bytes. -/
def syncEnd (w : Word) : Option End :=
  match endOf w with
  | some e => if e.at_ % 16 = 0 then some e else none
  | none => none

/-- The sync word 16 bytes below a destination (R195). -/
def below (e : End) : Option End :=
  if e.at_ % 16 ≠ 0 ∨ e.at_ < 16 then none
  else match e with
    | .mem va => some (.mem (va - 16))
    | .tile t off => some (.tile t (off - 16))

/-- The completion sync word of a command; the outer option is none when a rule is broken. -/
def csyncOf (w0 : Word) (dst : End) (w : Word) : Option (Option End) :=
  if bit w0 58 then
    match (if cmdPb w0 then syncEnd w else below dst) with
    | some e => some (some e)
    | none => none
  else if w = 0 then some none
  else none

/-- The gate sync word of a command. -/
def gsyncOf (w0 w : Word) : Option (Option End) :=
  if bit w0 57 then
    match syncEnd w with
    | some e => some (some e)
    | none => none
  else if w = 0 then some none
  else none

/-- The handler address of a command. -/
def hndOk (w0 w : Word) : Bool :=
  bits w 52 12 == 0 && bits w 0 3 == 0 && (bit w0 59 || w == 0)

/-- A signed word. -/
def sgn (w : Word) : Int := w.toInt

/-- The endpoints of a command word; none when one is malformed (R91, R196). -/
def endsOf (w : List Word) : Option (End × End) :=
  match (if cmdKind (w.getD 0 0) = 4 then (if w.getD 1 0 = 0 then some (.mem 0) else none) else endOf (w.getD 1 0)),
      endOf (w.getD 2 0) with
  | some src, some dst => some (src, dst)
  | _, _ => none

/-- The endpoint forms that a kind allows (R196). -/
def kindEnds (k : Nat) (src dst : End) : Bool :=
  match k with
  | 2 => src.isMem
  | 3 => dst.isMem
  | 5 => !src.isMem && !dst.isMem
  | 6 => src.isMem && !dst.isMem && dst.at_ == 0 && src.at_ % 4 == 0
  | _ => true

/-- Reads a command word with its parameter block; none when it breaks R91, R195 or the forms of R196. -/
def cmdOf (w pb : List Word) : Option Cmd :=
  let w0 := w.getD 0 0
  let k := cmdKind w0
  let q (i : Nat) : Word := pb.getD i 0
  let len := if cmdPb w0 then bits (q 0) 0 48 else bits (w.getD 3 0) 0 48
  if !headOk w then none
  else
    match endsOf w with
    | some (src, dst) =>
      match csyncOf w0 dst (q 2), gsyncOf w0 (q 1) with
      | some cs, some gs =>
        if len = 0 ∨ hndOk w0 (q 3) = false then none
        else
          let c : Cmd :=
            { kind := k, cmode := bits w0 58 2, gate := bit w0 57, via := bits w0 44 12, xid := BitVec.ofNat 16 (bits w0 0 16)
              src := src, dst := dst, len := len, ggen := bits (q 0) 48 16, gsync := gs, csync := cs, hnd := q 3
              cnt := if k = 1 then (bits (q 4) 0 16, bits (q 4) 16 16, bits (q 4) 32 16) else (1, 1, 1)
              ss := if k = 1 then (sgn (q 5), sgn (q 7), sgn (q 9)) else (0, 0, 0)
              ds := if k = 1 then (sgn (q 6), sgn (q 8), sgn (q 10)) else (0, 0, 0)
              list := if k = 2 ∨ k = 3 then (q 4).toNat else 0
              n := if k = 2 ∨ k = 3 then bits (q 5) 0 32 else 1
              pat := if k = 4 ∨ k = 6 then q 4 else 0 }
          let okKind :=
            match k with
            | 1 => bits (q 4) 48 16 == 0 && c.cnt.1 != 0 && c.cnt.2.1 != 0 && c.cnt.2.2 != 0
            | 2 => (q 4).toNat % 8 == 0 && bits (q 4) 52 12 == 0 && bits (q 5) 32 32 == 0 && c.n != 0
            | 3 => (q 4).toNat % 8 == 0 && bits (q 4) 52 12 == 0 && bits (q 5) 32 32 == 0 && c.n != 0
            | _ => true
          if kindEnds k src dst && okKind then some c else none
      | _, _ => none
    | none => none

/-! ## Runs and ranges (R196, R197) -/

/-- How many runs a transfer moves. -/
def Cmd.runs (c : Cmd) : Nat := c.cnt.1 * c.cnt.2.1 * c.cnt.2.2 * c.n

/-- The three indices of a strided run, innermost first. -/
def Cmd.idx (c : Cmd) (i : Nat) : Nat × Nat × Nat :=
  (i % c.cnt.1, i / c.cnt.1 % c.cnt.2.1, i / c.cnt.1 / c.cnt.2.1)

/-- The place of a run: base plus strides. -/
def strided (base : Nat) (st : Int × Int × Int) (ix : Nat × Nat × Nat) : Int :=
  (base : Int) + ix.1 * st.1 + ix.2.1 * st.2.1 + ix.2.2 * st.2.2

/-- Where run `i` reads and writes; `entry` is the run's list entry, if it has one. -/
def Cmd.srcAt (c : Cmd) (i : Nat) (entry : Int) : Int :=
  match c.kind with
  | 2 => (c.src.at_ : Int) + entry
  | 3 => (c.src.at_ : Int) + i * c.len
  | _ => strided c.src.at_ c.ss (c.idx i)
def Cmd.dstAt (c : Cmd) (i : Nat) (entry : Int) : Int :=
  match c.kind with
  | 2 => (c.dst.at_ : Int) + i * c.len
  | 3 => (c.dst.at_ : Int) + entry
  | _ => strided c.dst.at_ c.ds (c.idx i)

/-- The least and greatest sum of one stride over its count. -/
def stLow (n : Nat) (st : Int) : Int := if st < 0 then (n - 1 : Int) * st else 0
def stHigh (n : Nat) (st : Int) : Int := if st < 0 then 0 else (n - 1 : Int) * st

/-- The smallest range that holds every byte of a strided side. -/
def Cmd.range (c : Cmd) (base : Nat) (st : Int × Int × Int) : Int × Int :=
  ((base : Int) + stLow c.cnt.1 st.1 + stLow c.cnt.2.1 st.2.1 + stLow c.cnt.2.2 st.2.2,
   (base : Int) + stHigh c.cnt.1 st.1 + stHigh c.cnt.2.1 st.2.1 + stHigh c.cnt.2.2 st.2.2 + c.len)

/-- The range of a side without a list: the bytes of all its runs. -/
def Cmd.srcRange (c : Cmd) : Int × Int :=
  if c.kind = 3 then (c.src.at_, (c.src.at_ : Int) + c.n * c.len) else c.range c.src.at_ c.ss
def Cmd.dstRange (c : Cmd) : Int × Int :=
  if c.kind = 2 then (c.dst.at_, (c.dst.at_ : Int) + c.n * c.len) else c.range c.dst.at_ c.ds

/-- Whether a tile range stays within the tile's SRAM and out of the micro-program cache (R166, R196). -/
def tileRangeOk (r : Int × Int) : Bool := decide (0 ≤ r.1) && decide (r.2 ≤ 0xF0000)

/-- The destination bytes of a transfer, as far as its command fixes them. -/
def Cmd.total (c : Cmd) : Nat := c.runs * c.len

/-! ## Via transfers (R262, R263, R268) -/

/-- Whether a consumer's end brings tokens to node `i`: to the node itself, or to a port of a program node's core or a ring of its
tile. -/
def RouteTo.feeds (x : GCtx) (i : Nat) (d : RouteTo) : Bool :=
  match d, x.nodes[i]? with
  | .node j, _ => j == i
  | .port t c _ _, some (.prog u k _) => t == u && c == k
  | .ring t _, some (.prog u _ _) => t == u
  | _, _ => false

/-- What a set of routes leads to: the routes that the nodes at their ends send on. -/
def viaStep (x : GCtx) (nums : List Nat) : List Nat :=
  (nums ++ (x.routes.filterMap fun r =>
    match r.src with
    | .node i =>
      if x.routes.any (fun q => nums.contains q.num && q.dsts.any fun d => d.2.feeds x i) then some r.num else none
    | .xq _ _ | .lp _ => none)).eraseDups

def viaReach (x : GCtx) : Nat → List Nat → List Nat
  | 0, l => l
  | n + 1, l => viaReach x n (viaStep x l)

/-- The conv nodes that a set of routes enters. -/
def convsOf (x : GCtx) (nums : List Nat) : List (ConvFrom × ConvTo × Nat) :=
  (x.routes.filter fun r => nums.contains r.num).flatMap fun r => r.dsts.filterMap fun d =>
    match d.2 with
    | .node i =>
      (match x.nodes[i]? with
        | some (.conv _ f t p) => some (f, t, p)
        | _ => none)
    | _ => none

def ConvTo.planar : ConvTo → Bool
  | .planes | .bint => true
  | .elem _ => false

/-- The element width of an MX format. -/
def mxWidth (f : CFmt) : Nat :=
  match f with
  | .e3m2 | .e2m3 => 6
  | .e2m1 => 4
  | _ => 8

/-- The MX blocks that `len` bytes of MX tile form hold; 0 when `len` is not of that form (R263). -/
def mxBlocks (w len : Nat) : Nat :=
  let g := 32 + 128 * w
  let r := len % g
  if r = 0 then 32 * (len / g)
  else if r > 32 ∧ (r - 32) % (4 * w) = 0 ∧ (r - 32) / (4 * w) < 32 then 32 * (len / g) + (r - 32) / (4 * w)
  else 0

/-- What a via route feeds: its graph and context, the first converter if there is one, and the last plane-forming
converter's plane count if there is one. -/
structure Via where
  gid   : Nat
  first : Option (ConvFrom × ConvTo × Nat)
  plane : Option Nat
  deriving DecidableEq, Repr

/-- The route that a request port of block `b` feeds, of a context that is current on a tile of the block (R262). -/
def State.viaRoute (s : State) (b via : Nat) : Option (Nat × Graph × GCtx × Route) :=
  s.dev.graphs.findSome? fun e => e.2.bind fun g =>
    (((s.currentOn e.1 (g.place.filter fun t => decide (t / 32 = b))).filterMap g.ctx).flatMap fun x =>
        x.routes.map fun r => (x, r)).findSome? fun y =>
      match y.2.src with
      | .xq k _ => if y.2.num = via ∧ k = b then some (e.1, g, y.1, y.2) else none
      | .node _ | .lp _ => none

/-- The via subgraph of a command: it starts at a request port of the unit's block, and ends in the SRAM of the destination
tile (R262). -/
def State.viaOf (s : State) (b : Nat) (c : Cmd) : Option Via :=
  match c.dst with
  | .mem _ => none
  | .tile t _ =>
    match s.viaRoute b c.via with
    | none => none
    | some (gid, g, x, _) =>
      let reach := viaReach x x.routes.length [c.via]
      if (x.routes.any fun r => reach.contains r.num && r.dsts.any fun d =>
          match d.2 with
          | .sram k => g.place.getD k 0xFFFF == t
          | _ => false) then
        some { gid := gid, first := (convsOf x [c.via]).head?
               plane := ((convsOf x reach).find? fun v => v.2.1.planar).map fun v => v.2.2 }
      else none

/-- The values per run that a first converter makes of `len` source bytes. -/
def valuesOf (f : ConvFrom) (len : Nat) : Nat :=
  match f with
  | .mx _ => 0
  | .plain .f32 => len / 4
  | .plain .bf16 | .plain .f16 => len / 2
  | .plain _ => len

/-- The blocks that a directly entered converter makes of a command (R268). -/
def Cmd.blocks (c : Cmd) (f : ConvFrom) : Nat :=
  match f with
  | .mx m => c.runs * mxBlocks (mxWidth m) c.len
  | .plain _ => c.runs * ((valuesOf f c.len + 31) / 32)

/-- The layout of a plane-forming destination: first row and blocks per row (R268). -/
def planeRow (off : Nat) : Nat := bitsN off 8 5
def planeNb (off : Nat) : Nat := bitsN off 0 8 + 1

/-- The rules of a via transfer (R262, R263, R268). -/
def State.viaOk (s : State) (b : Nat) (c : Cmd) : Bool :=
  (c.kind == 0 || c.kind == 1) && c.src.isMem &&
    match s.viaOf b c with
    | none => false
    | some v =>
      let off := c.dst.at_
      (match v.first with
        | some (.mx m, _, _) => mxBlocks (mxWidth m) c.len != 0
        | some (.plain _, _, _) | none => c.len % 4 == 0) &&
      (match v.plane with
        | none => true
        | some p =>
          8 ≤ bitsN off 16 4 && bitsN off 16 4 ≤ 11 && bitsN off 13 3 == 0 && decide (planeNb off ≤ 128) &&
            decide ((planeNb off + 3) / 4 * p ≤ 128)) &&
      (match v.first with
        | some (f, t, _) =>
          !t.planar || decide (planeRow off + (c.blocks f + planeNb off - 1) / planeNb off ≤ 32)
        | none => true)

/-! ## Whether a command may be taken -/

/-- The checks of R91, R195, R196 and R262 that a checked command word still needs: tile endpoints that exist and ranges in
their SRAM, a pattern compile for a tile of the unit's block, and a via transfer's rules. -/
def State.cmdFits (s : State) (b : Nat) (c : Cmd) : Bool :=
  s.endExists c.src && s.endExists c.dst &&
  (match c.gsync with | none => true | some e => s.endExists e && (e.isMem || decide (e.at_ + 16 ≤ 0xF0000))) &&
  (match c.csync with | none => true | some e => s.endExists e && (e.isMem || decide (e.at_ + 16 ≤ 0xF0000))) &&
  (match c.src with | .mem _ => true | .tile _ _ => tileRangeOk c.srcRange) &&
  (match c.dst with
    | .mem _ => true
    | .tile t _ =>
      if c.kind = 6 then t / 32 == b
      else if c.via ≠ 0 then decide (c.dst.at_ < 0xF0000)
      else tileRangeOk c.dstRange) &&
  (c.via == 0 || s.viaOk b c)

/-- The rules of a command word that no parameter block can mend: they are met before the block is read (R91, R304). -/
def State.wordsOk (s : State) (b : Nat) (w : List Word) : Bool :=
  headOk w &&
    match endsOf w with
    | none => false
    | some (src, dst) =>
      kindEnds (cmdKind (w.getD 0 0)) src dst && s.endExists src && s.endExists dst &&
        (match dst with
          | .mem _ => true
          | .tile t _ => cmdKind (w.getD 0 0) != 6 || t / 32 == b) &&
        (bits (w.getD 0 0) 44 12 == 0 || (decide (cmdKind (w.getD 0 0) ≤ 1) && src.isMem && !dst.isMem))

/-! ## Range locks (R197, R260, R261) -/

/-- A signed place as an address. -/
def addr (x : Int) : Nat := x.toNat

/-- The range that a list's side moves: the smallest that holds every byte, from the entries. -/
def listRange (base len : Nat) (es : List Word) : Int × Int :=
  es.foldl (fun r e =>
    let x := (base : Int) + sgn e
    (min r.1 x, max r.2 (x + len)))
    ((base : Int) + sgn (es.headD 0), (base : Int) + sgn (es.headD 0) + len)

/-- The entries that a transfer registers, in a fixed order: source, destination, list. -/
def Cmd.lockRanges (c : Cmd) (es : List Word) : List (Bool × Nat × Nat) :=
  let side (e : End) (write : Bool) (r : Int × Int) : List (Bool × Nat × Nat) :=
    if e.isMem then [(write, addr r.1, addr r.2)] else []
  let src := match c.kind with
    | 4 => []
    | 2 => side c.src false (listRange c.src.at_ c.len es)
    | _ => side c.src false c.srcRange
  let dst := match c.kind with
    | 6 => []
    | 3 => side c.dst true (listRange c.dst.at_ c.len es)
    | _ => side c.dst true c.dstRange
  let lst := if c.kind = 2 ∨ c.kind = 3 then [(false, c.list, c.list + 8 * c.n)] else []
  src ++ dst ++ lst

/-- Registers the entries of transfer `id`. -/
def State.addLocks (s : State) (id : Nat) (xid : BitVec 16) (uid : Option Nat) (rs : List (Bool × Nat × Nat)) : State :=
  s.modDev fun d => { d with locks := d.locks ++ rs.map fun r =>
    { id := id, xid := xid, lo := r.2.1, hi := r.2.2, write := r.1, uid := uid } }

/-- Whether every thread access to a range that has passed its check is performed: no store buffer and no speculative task's buffer holds a
byte of it, and no load is on its way (R197). -/
def State.settled (s : State) (lo n : Nat) : Bool :=
  !(s.threads.any fun e => e.2.ctx.pend.any Pending.flying || e.2.sb.any fun b => overlaps b.va.toNat b.size lo n) &&
  !(s.blks.any fun e => e.2.tasks.any fun k => k.vas.any fun v => overlaps v.1 v.2 lo n)

/-- Free entries of the range-lock table (R260). -/
def State.lockRoom (s : State) : Nat := 512 - s.dev.locks.length

/-! ## Lists -/

/-- A read of a list for its range, with the rights of user privilege: its entries, or none where one does not
translate. A list is read while the transfer runs (R195), so an entry that is absent now counts for nothing. -/
def State.listNow (s : State) (addr_ : Nat) : Nat → List Word
  | 0 => []
  | n + 1 =>
    match s.xlNow addr_ { rd := true, wr := false, ex := false, sv := false } with
    | .ok p => wd (s.homeRead p 8) :: s.listNow (addr_ + 8) n
    | .bad _ => s.listNow (addr_ + 8) n

def State.entriesOf (s : State) (c : Cmd) : List Word := if c.kind = 2 ∨ c.kind = 3 then s.listNow c.list c.n else []

/-! ## Taking a command (R193, R194, R258) -/

/-- Whether a command that is stalled on its parameter block holds a port (R195). -/
def XPort.held (p : XPort) : Bool := p.arr.any fun a => a.stall.isSome || a.want.isSome

/-- The better of two places in the order of entering: by arrival, then by route (R258). -/
def firstArr (best : Option (Nat × Arriving)) (x : Nat × Arriving) : Option (Nat × Arriving) :=
  match best with
  | none => some x
  | some b => if x.2.cyc < b.2.cyc ∨ (x.2.cyc = b.2.cyc ∧ x.2.route < b.2.route) then some x else some b

/-- The arriving command that enters next: of those that do not wait for a release and have none of their route before them (R258). -/
def nextArr (arr : List Arriving) : Option Nat :=
  (((List.range arr.length).filterMap fun i =>
    match arr[i]? with
    | none => none
    | some a => if a.busy || (arr.take i).any (fun b => decide (b.route = a.route)) then none else some (i, a)).foldl
      firstArr none).map Prod.fst

/-- Whether a port of block `b` holds a command that can enter and reached its unit before time `ns`, or at it in a lower block than
`blk` (R260). -/
def XPort.earlier (p : XPort) (b ns blk : Nat) : Bool :=
  !p.held && decide (p.q.length < 16) &&
    (match (nextArr p.arr).bind fun i => p.arr[i]? with
      | none => false
      | some a => decide (a.ns < ns) || (a.ns == ns && decide (b < blk)))

/-- Whether a command that reached its unit at time `ns`, and enters a port now, stands in its place in the device's order of
registrations: no command that reached its unit before is still to enter, and of those of the present time none of a later place has
registered: by block, and the order of entering the block's ports (R260). -/
def State.lockTurn (s : State) (b port ns : Nat) : Bool :=
  let l := s.dev.lockLast
  !(s.blks.any fun e => !s.portsGone e.1 && e.2.ports.any fun p => p.2.earlier e.1 ns b) &&
  (decide (ns < s.ns) || decide (l.1 < s.ns) || decide (l.2.1 < b) ||
    (l.2.1 == b && (decide (l.2.2.1 < (s.blk b).cyc) || (l.2.2.1 == (s.blk b).cyc && decide (l.2.2.2 ≤ port)))))

/-- A command takes its place in that order. -/
def State.lockPlace (s : State) (b port : Nat) : State :=
  s.modDev fun d => { d with lockLast := (s.ns, b, (s.blk b).cyc, port) }

/-- Queues a transfer on its port and registers its entries: the port takes no other command in this block cycle (R258). -/
def State.takeCmd (s : State) (b port : Nat) (uid : Option (Nat × Nat)) (route : Nat) (gid : Option Nat) (w pb : List Word)
    (c : Cmd) : State :=
  let id := s.fresh
  let x : Xfer :=
    { blk := b, port := port, uid := uid, route := route, gid := gid, w := w, pb := pb, list := [] }
  (((s.next.lockPlace b port).setXfer id (some x)).modXport (4 * b + port) fun p =>
    { p with q := p.q ++ [id], from_ := (s.blk b).cyc + 1 }).addLocks id c.xid (uid.map Prod.fst) (c.lockRanges (s.entriesOf c))

/-- Whether a gate word in memory is mapped (R273). -/
def State.gateMapped (s : State) (c : Cmd) : Bool :=
  match c.gsync with
  | some (.mem va) =>
    (match s.walk va with
      | .leaf _ _ _ => true
      | .err _ => false)
  | some (.tile _ _) | none => true

/-- Whether a port can take a command of xfer now: one that came on a command route goes first, and a port takes one command in a block
cycle (R258, R260). -/
def State.portOpen (s : State) (b port : Nat) : Bool :=
  let p := s.xport (4 * b + port)
  (nextArr p.arr).isNone && decide (p.from_ ≤ (s.blk b).cyc) && s.lockTurn b port s.ns

/-- The words of a byte string. -/
def wordsOf : Nat → List Byte → List Word
  | 0, _ => []
  | n + 1, l => wd (leNat (l.take 8)) :: wordsOf n (l.drop 8)

/-- The checks of a command whose block has been read; it is queued, or refused with 1 or 2 in s[d] (R193). Behind a command that is
stalled at the port, and until its turn comes, the bundle waits at issue (R193, R195, R258; log 113). -/
def State.xferNow (s : State) (g : Nat) (d : SReg) (port : Nat) (w pb : List Word) : Out :=
  let b := unitBlk g
  match cmdOf w pb with
  | none => s.und
  | some c =>
    if !s.cmdFits b c || !s.gateMapped c then s.und
    else if (s.xport (4 * b + port)).held then s.wait
    else if (s.xport (4 * b + port)).q.length ≥ 16 then .next (s.wS d 2)
    else if !s.portOpen b port then s.wait
    else if s.lockRoom < (c.lockRanges (s.entriesOf c)).length then .next (s.wS d 1)
    else .next ((s.takeCmd b port (some ((s.thread g).uid, g)) 0 none w pb c).wS d 0)

/-! ## Reads from other devices before a bundle goes on -/

/-- The 32-byte pieces of a range. -/
def piecesOf (p : Phys) (n : Nat) : List Nat :=
  (List.range ((p.pa % 32 + n + 31) / 32)).map fun i => (({ p with pa := p.pa / 32 * 32 } : Phys).plus (32 * i)).pa

/-- The bytes of a range from the pieces that have arrived. -/
def farBytes (b : FarBuf) (dev : Nat) (p : Phys) (n : Nat) : Option (List Byte) :=
  let ps := (piecesOf p n).map fun a => (b.find? fun e => e.1 == dev && e.2.1 == a).bind fun e => e.2.2
  if ps.all Option.isSome then
    some (((ps.flatMap fun x => leBytes 32 (x.getD 0).toNat).drop (p.pa % 32)).take n)
  else none

/-- Asks for the pieces of a range that have not been asked for. -/
def State.askPart (s : State) (g dev : Nat) : List Nat → Option State
  | [] => some s
  | a :: l =>
    if (s.thread g).farbuf.any fun e => e.1 == dev && e.2.1 == a then s.askPart g dev l
    else
      match s.sendPacket dev (coreName (threadCore g)) (some (.part g dev a))
          [{ hdr := mkHdr 4 0 0 0 0 0 0 (s.fresh % 2 ^ 14), pay := Config.memReqPayload a 32 0 0 }] with
      | none => none
      | some s1 => ((s1.next).modThread g fun t => { t with farbuf := t.farbuf ++ [(dev, a, none)] }).askPart g dev l

/-- Reads the parts of a range, those of another device by requests for which the bundle waits. -/
def State.gatherParts (s : State) (g : Nat) : List (Nat × Nat × Phys) → List Byte → (List Byte → Out) → Out
  | [], acc, k => k acc
  | (_, n, p) :: l, acc, k =>
    match p.home with
    | .remote dev =>
      (match farBytes (s.thread g).farbuf dev p n with
        | some bs => s.gatherParts g l (acc ++ bs) k
        | none =>
          (match s.askPart g dev (piecesOf p n) with
            | some s1 => s1.wait
            | none => s.raise cLINK_LOST ((s.lostPort dev).setWidth 64)))
    | .dram | .aperture | .regs | .host => s.gatherParts g l (acc ++ s.spanRead p n) k

/-- Reads a parameter block at an xfer bundle, as the issuing thread, with the rights of user privilege and without a
range-lock check (R195). -/
def State.readBlock (s : State) (g va n : Nat) (k : List Byte → Out) : Out :=
  match s.checkParts g { rd := true, wr := false, ex := false, sv := false } false (pageParts va n) with
  | .ok ps => if s.heldBack g then s.wait else s.gatherParts g ps [] k
  | .error (a, .bad c) => s.xlFault c a
  | .error (a, _) => s.waitWalk g a.toNat .read

/-- xfer: a command for a request port of the issuer's block (R193). The ports of a block are absent with their router (R370); what an
xfer then meets stands nowhere, and it takes UND (DESIGN CHOICE, log 125). -/
def execXfer (d : SReg) (q : Quad) (port : BitVec 2) (s : State) : Out :=
  s.swarm fun g => s.plainly fun s =>
    let w := s.quad q
    let w0 := w.getD 0 0
    if s.portsGone (unitBlk g) || !s.wordsOk (unitBlk g) w then s.und
    else if cmdPb w0 then
      let a := w.getD 3 0
      if a.toNat ≥ 2 ^ 52 then s.pageNp a
      else s.readBlock g a.toNat (pbLen (cmdKind w0)) fun bs => s.xferNow g d port.toNat w (wordsOf 11 bs)
    else s.xferNow g d port.toNat w []

end Sys2Proof.Machine
end

