-- ==== Sys2Proof/Machine/Sparse.lean ====
section
/-!
DEFINITION. Sparse patterns: coordinate words and streams (R350, R351), compiled micro-programs (R95, R352) and what they do (R353),
the micro-program cache (R356), and the pattern compiler's queue (R362).
-/
namespace Sys2Proof.Machine

/-! ## Coordinate words (R350, R351) -/

def wKind (w : BitVec 32) : Nat := bitsN w.toNat 30 2
def wRow (w : BitVec 32) : Nat := bitsN w.toNat 7 7
def wCol (w : BitVec 32) : Nat := bitsN w.toNat 0 7
def wLev (w : BitVec 32) : Nat := bitsN w.toNat 8 3
def wNb (w : BitVec 32) : Nat := bitsN w.toNat 0 8 + 1
def wStop (w : BitVec 32) : Nat := bitsN w.toNat 0 3

/-- The first word of a tile: a header, or a malformed tile with lev taken as 1. R350 gives no meaning to a header with lev 0: it is taken as
no header (DESIGN CHOICE, log 123). -/
def Scan.first (c : Scan) (w : BitVec 32) : Scan :=
  if wKind w = 1 ∧ wLev w ≠ 0 then
    { c with lev := some (wLev w), bad := decide (bitsN w.toNat 11 19 ≠ 0), words := c.words ++ [w] }
  else { c with lev := some 1, bad := true, done := wKind w == 3, words := c.words ++ [w] }

/-- Takes one word. A stop word with level 0, of which R350 says nothing, makes the tile malformed (DESIGN CHOICE, log 123). -/
def Scan.word (c : Scan) (w : BitVec 32) : Scan :=
  if c.done then c
  else
    match c.lev with
    | none => c.first w
    | some lev =>
      let c1 := { c with words := c.words ++ [w] }
      match wKind w with
      | 0 => { c1 with bad := c.bad || bitsN w.toNat 14 16 != 0 }
      | 3 => { c1 with bad := c.bad || bitsN w.toNat 3 27 != 0 || wStop w == 0, done := decide (wStop w ≥ lev) }
      | _ => { c1 with bad := true }

/-- The elements of a token. -/
def Flit.elems (f : Flit) : List (BitVec 32) := (List.range (hLen f.hdr + 1)).map fun i => lane f.pay i

/-- Takes one token of a coordinate stream: its words, and the end that its stop level may mark. -/
def Scan.token (c : Scan) (f : Flit) : Scan :=
  let c1 := f.elems.foldl Scan.word c
  { c1 with
    bad := c1.bad || hEtype f.hdr == 7 || hEtype f.hdr == 8
    done := c1.done || decide (hStop f.hdr ≥ c1.lev.getD 1) }

/-- Coordinate words taken, duplicates included (R363). -/
def Scan.coords (c : Scan) : List (BitVec 32) := c.words.filter fun w => wKind w == 0

/-- The header's nb. -/
def Scan.nb (c : Scan) : Nat := wNb (c.words.headD 0)

/-! ## The compiler (R95, R352) -/

/-- The distinct coordinates of a tile, in order. -/
def Scan.ent (c : Scan) : List (Nat × Nat) := (c.coords.map fun w => (wRow w, wCol w)).eraseDups

def uEnd : BitVec 32 := 0
def uGa (slot i : Nat) : BitVec 32 := BitVec.ofNat 32 (0x10000000 + slot * 2 ^ 14 + i)
def uGb (slot i : Nat) : BitVec 32 := BitVec.ofNat 32 (0x20000000 + slot * 2 ^ 14 + i)
def uMac (r c sa sb : Nat) : BitVec 32 := BitVec.ofNat 32 (0x30000000 + r * 2 ^ 21 + c * 2 ^ 14 + sa * 2 ^ 7 + sb)
def uKb (b : Nat) : BitVec 32 := BitVec.ofNat 32 (0x40000000 + b)
def uDense (rb cb m : Nat) : BitVec 32 := BitVec.ofNat 32 (0x50000000 + rb * 2 ^ 26 + cb * 2 ^ 24 + m * 2 ^ 12)

/-- The sparse form (R352). -/
def sparseForm (nb : Nat) (ent : List (Nat × Nat)) : List (BitVec 32) :=
  let arow := (ent.map fun e => e.1 % 32).eraseDups
  let bcol := (ent.map fun e => e.2 % 32).eraseDups
  ((List.range nb).flatMap fun b =>
    [uKb b] ++ (arow.zipIdx.map fun p => uGa p.2 p.1) ++ (bcol.zipIdx.map fun p => uGb p.2 p.1) ++
      (ent.map fun e => uMac e.1 e.2 (arow.idxOf (e.1 % 32)) (bcol.idxOf (e.2 % 32)))) ++ [uEnd]

/-- The size of the sparse form. -/
def sparseSize (nb : Nat) (ent : List (Nat × Nat)) : Nat :=
  nb * (1 + (ent.map fun e => e.1 % 32).eraseDups.length + (ent.map fun e => e.2 % 32).eraseDups.length + ent.length) + 1

/-- The accumulator blocks of a tile's coordinates, in ascending rowb and then colb order. -/
def blocksOf (ent : List (Nat × Nat)) : List (Nat × Nat) :=
  ((List.range 4).flatMap fun r => (List.range 4).map fun c => (r, c)).filter fun b =>
    ent.any fun e => e.1 / 32 == b.1 && e.2 / 32 == b.2

/-- The mask of an accumulator block: word i selects the columns of its row i. -/
def maskOf (ent : List (Nat × Nat)) (b : Nat × Nat) : List (BitVec 32) :=
  (List.range 32).map fun i =>
    BitVec.ofNat 32 (((List.range 32).map fun j =>
      if ent.contains (32 * b.1 + i, 32 * b.2 + j) then 2 ^ j else 0).sum)

/-- The dense-masked form (R352). -/
def denseForm (ent : List (Nat × Nat)) : List (BitVec 32) :=
  let bs := blocksOf ent
  (bs.zipIdx.map fun b => uDense b.1.1 b.1.2 (bs.length + 1 + 32 * b.2)) ++ [uEnd] ++ bs.flatMap (maskOf ent)

/-- The program of a well-formed tile. -/
def Scan.program (c : Scan) : List (BitVec 32) :=
  let ent := c.ent
  if sparseSize c.nb ent > 2048 ∨ 4 * ent.length > 1024 * (blocksOf ent).length then denseForm ent else sparseForm c.nb ent

/-! ## Running a program (R353, R354) -/

/-- A program in hand: the current K block, the staging files, the accumulator values written so far, the blocks reached, and
whether a corrupted op was met. -/
structure URun where
  kb   : Nat := 0
  sa   : List (Nat × RowBlock) := []
  sb   : List (Nat × RowBlock) := []
  tile : Tile
  hit  : List (Nat × Nat) := []
  ecc  : Bool := false
  stop : Bool := false
  deriving DecidableEq, Repr

def slotOf (l : List (Nat × RowBlock)) (i : Nat) : RowBlock := ((l.find? fun e => e.1 == i).map Prod.snd).getD default

/-- Marks an accumulator block as reached. -/
def URun.reach (u : URun) (b : Nat × Nat) : URun := { u with hit := if u.hit.contains b then u.hit else u.hit ++ [b] }

/-- The cells that a mask selects in a block. -/
def maskCells (prog : List (BitVec 32)) (rb cb m : Nat) : List (Nat × Nat) :=
  (List.range 32).flatMap fun i =>
    ((List.range 32).filter fun j => (prog.getD (m + i) 0).getLsbD j).map fun j => (32 * rb + i, 32 * cb + j)

/-- One micro-op. `x0` is the tile as it stood when the program started. -/
def State.microOp (s : State) (t set : Nat) (md : Word) (nb : Nat) (x0 : Tile) (prog : List (BitVec 32)) (u : URun)
    (w : BitVec 32) : URun :=
  if u.stop || u.ecc then u
  else
    let n := w.toNat
    let slot := bitsN n 14 7
    match bitsN n 28 4 with
    | 0 => if bitsN n 0 28 = 0 then { u with stop := true } else { u with ecc := true }
    | 1 =>
      if bitsN n 21 7 ≠ 0 ∨ bitsN n 0 14 ≥ 32 then { u with ecc := true }
      else { u with sa := (slot, s.rowBlock t set false md (bitsN n 0 14) u.kb) :: u.sa }
    | 2 =>
      if bitsN n 21 7 ≠ 0 ∨ bitsN n 0 14 ≥ 32 then { u with ecc := true }
      else { u with sb := (slot, s.rowBlock t set true md (bitsN n 0 14) u.kb) :: u.sb }
    | 3 =>
      let r := bitsN n 21 7
      let c := bitsN n 14 7
      let k := (x0.kidxOf (r / 32) (c / 32) + u.kb) % 1023
      let x := blockTerm (slotOf u.sa (bitsN n 7 7)) (slotOf u.sb (bitsN n 0 7)) (mdPresent md u.kb) (s.gtile t) k
      ({ u with tile := u.tile.setAcc r c (accAdd (Tab.get 0 u.tile.acc (accKey r c)) x (s.gtile t) k) }).reach (r / 32, c / 32)
    | 4 => if bitsN n 8 20 ≠ 0 ∨ bitsN n 0 8 ≥ nb then { u with ecc := true } else { u with kb := bitsN n 0 8 }
    | 5 =>
      if bitsN n 0 12 ≠ 0 then { u with ecc := true }
      else
        let rb := bitsN n 26 2
        let cb := bitsN n 24 2
        ({ u with tile := (maskCells prog rb cb (bitsN n 12 12)).foldl (fun (y : Tile) (c : Nat × Nat) =>
            y.setAcc c.1 c.2 (s.cellRun t set md (x0.kidxOf rb cb) (s.gtile t) (c.1 % 32) (c.2 % 32)
              (Tab.get 0 y.acc (accKey c.1 c.2)))) u.tile }).reach (rb, cb)
    | _ => { u with ecc := true }

/-- Runs a program: the tile it leaves, and whether it met a corrupted op. -/
def State.runProgram (s : State) (t set : Nat) (md : Word) (nb : Nat) (prog : List (BitVec 32)) : Tile × Bool :=
  let x0 := s.tile t
  let u := prog.foldl (s.microOp t set md nb x0 prog) { tile := x0 }
  (u.tile.addKidx nb u.hit, u.ecc)

/-- The fallback's run: the distinct cells of the stream, every K block in ascending order (R354, R355). -/
def State.runFallback (s : State) (t set : Nat) (md : Word) (c : Scan) : Tile :=
  ((s.runCells t set md c.ent).tile t).addKidx (mdNb md) (blocksOf c.ent)

/-- The block cycles of a gang-issue or dense operation (R186). -/
def mgTime (md : Word) : Nat := (mdApl md + 1) * (mdBpl md + 1) * ((mdNb md + 3) / 4) + 12

/-- The block cycles of a micro-op (R353). -/
def uTime (md : Word) (w : BitVec 32) : Nat :=
  match bitsN w.toNat 28 4 with
  | 3 => ((mdApl md + 1) * (mdBpl md + 1) + 3) / 4 + 2
  | 5 => mgTime md
  | _ => 1

/-- The ops of a program, up to its end op. -/
def uOps : List (BitVec 32) → List (BitVec 32)
  | [] => []
  | w :: l => if w = uEnd then [w] else w :: uOps l

/-- The time of a run (R354). -/
def progTime (md : Word) (prog : List (BitVec 32)) : Nat := 4 + ((uOps prog).map (uTime md)).sum

/-! ## The micro-program cache (R356) -/

/-- The entry that an identity hits: not stale. -/
def Tile.cached (x : Tile) (ident : Word) : Option McEntry := x.mcache.find? fun e => e.ident == ident && !e.stale

/-- A use of an entry makes it the most recently used. -/
def Tile.useEntry (x : Tile) (ident : Word) : Tile :=
  { x with mcache := (x.mcache.filter fun e => e.ident != ident) ++ (x.mcache.filter fun e => e.ident == ident) }

/-- The bytes of programs and masks. -/
def mcBytes (l : List McEntry) : Nat := 4 * (l.map fun e => e.prog.length).sum

/-- Evicts entries until 15 or fewer remain and a program of `n` words fits: stale ones first, then the least recently
used. -/
def mcEvict (n : Nat) : Nat → List McEntry → List McEntry
  | 0, l => l
  | k + 1, l =>
    if l.length ≤ 15 ∧ mcBytes l + 4 * n ≤ 65536 then l
    else
      match l.find? McEntry.stale with
      | some e => mcEvict n k (l.erase e)
      | none => mcEvict n k (l.drop 1)

/-- Inserts a program (R356). -/
def Tile.insert (x : Tile) (e : McEntry) : Tile :=
  let l := x.mcache.filter fun y => y.ident != e.ident
  { x with mcache := mcEvict e.prog.length (l.length + 1) l ++ [e] }

/-! ## The compiler's queue (R362) -/

/-- Whether a compile of an identity for a tile is pending. -/
def Blk.pending (b : Blk) (t : Nat) (ident : Word) : Bool := b.comps.any fun c => c.tile == t && c.ident == ident

/-- Whether the queue has room. -/
def Blk.compRoom (b : Blk) : Bool := decide (b.comps.length < 16)

/-- Changes the pending compile of a pair. -/
def Blk.modComp (b : Blk) (t : Nat) (ident : Word) (f : Compile → Compile) : Blk :=
  { b with comps := b.comps.map fun c => if c.tile = t ∧ c.ident = ident then f c else c }

/-- The words of metadata that can be read now, with the rights of user privilege (R351): the scan, the metadata left (none
once the terminator, the end of the bytes or a failed read is reached), the failure, and the device and address of a piece in
another device's memory. -/
structure MetaRead where
  scan : Scan
  mem  : Option (Nat × Nat)
  fail : Option (BitVec 8 × Word)
  far  : Option (Nat × Nat)
  deriving DecidableEq, Repr

/-- Reads metadata word by word. -/
def State.readMeta : Nat → State → Nat → Nat → Scan → State × MetaRead
  | 0, s, _, _, c => (s, { scan := { c with bad := c.bad || !c.done }, mem := none, fail := none, far := none })
  | k + 1, s, va, n, c =>
    if c.done then (s, { scan := c, mem := none, fail := none, far := none })
    else if n < 4 then (s, { scan := { c with bad := true }, mem := none, fail := none, far := none })
    else
      let r := s.xlMark va { rd := true, wr := false, ex := false, sv := false }
      match r.2 with
      | .bad cause => (r.1, { scan := c, mem := none, fail := some (cause, wd va), far := none })
      | .ok p =>
        match p.home with
        | .remote dev => (r.1, { scan := c, mem := some (va, n), fail := none, far := some (dev, p.wire) })
        | .dram | .aperture | .regs | .host =>
          readMeta k r.1 (va + 4) (n - 4) (c.word (BitVec.ofNat 32 (r.1.homeRead p 4)))

/-- Whether the metadata's first line has a sparse watch. -/
def State.metaWatched (s : State) (va : Nat) : Bool :=
  match s.xlNow va { rd := true, wr := false, ex := false, sv := false } with
  | .ok p => p.sw
  | .bad _ => false

/-- Asks another device for the piece at which a compile's read has stopped (R338); with no live path the read fails. -/
def State.askMeta (s : State) (b : Nat) (c : Compile) (far : Option (Nat × Nat)) : State × Compile :=
  match far with
  | none => (s, c)
  | some (dev, pa) =>
    match s.sendPacket dev 0 (some (.comp b c.tile c.ident))
        [{ hdr := mkHdr 4 0 0 0 0 0 0 (s.fresh % 2 ^ 14), pay := Config.memReqPayload (pa / 4 * 4) 32 0 0 }] with
    | some s1 => (s1.next, { c with asked := true })
    | none => (s, { c with mem := none, fail := some (cLINK_LOST, wd (c.mem.getD (0, 0)).1) })

/-- Queues a compile from memory: its metadata is read as it is queued (R362). -/
def State.queueMem (s : State) (b t : Nat) (ident : Word) (va n : Nat) (req : Requester) (lock : Option Nat) : State :=
  let r := State.readMeta (n / 4 + 1) s va n {}
  let c : Compile :=
    { tile := t, ident := ident, mem := r.2.mem, va := some va, sw := r.1.metaWatched va, scan := r.2.scan, fail := r.2.fail
      reqs := [req], lock := lock, last := (s.blk b).cyc }
  let q := r.1.askMeta b c r.2.far
  q.1.modBlk b fun x => { x with comps := x.comps ++ [q.2] }

/-- Queues a compile from a coordinate stream. -/
def State.queueStream (s : State) (b t : Nat) (ident : Word) (req : Requester) : State :=
  s.modBlk b fun x =>
    { x with comps := x.comps ++ [{ tile := t, ident := ident, mem := none, va := none, reqs := [req], last := x.cyc }] }

/-- Copies a token of a forwarded stream into its compile: beyond 2,048 words it yields no program (R362). -/
def State.forwardToken (s : State) (b t : Nat) (ident : Word) (f : Flit) : State :=
  s.modBlk b fun x => x.modComp t ident fun c =>
    if c.scan.done then c
    else
      let k := c.scan.token f
      { c with scan := { k with words := k.words.take 2049 }, long := c.long || decide (k.words.length > 2048), last := x.cyc }

/-- A requester gives up the stream that it forwards: its compile goes, or yields no program where others wait for it (R192). -/
def State.dropStream (s : State) (t : Nat) (ident : Word) (r : Requester) : State :=
  s.modBlk (t / 32) fun x =>
    { x with comps := x.comps.filterMap fun c =>
        if c.tile = t ∧ c.ident = ident ∧ c.va = none ∧ c.scan.done = false then
          (if c.reqs.all (· == r) then none else some { c with long := true, scan := { c.scan with done := true } })
        else some c }

/-- A forwarded stream that an unload has cut off yields no program (R362, R410; log 40). -/
def State.cutStream (s : State) (t : Nat) (ident : Word) : State :=
  s.modBlk (t / 32) fun x => x.modComp t ident fun c =>
    if c.va.isNone && !c.scan.done then { c with long := true, scan := { c.scan with done := true } } else c

end Sys2Proof.Machine
end

