-- ==== Sys2Proof/Machine/Stream.lean ====
section
/-!
DEFINITION. A tile's streams as its cores see them: input ports and re-entries (R164, R179, R291), the route table and the queues
of the outbound streamer (R42, R169, R242, R244, R324), rings (R173 to R176), and waits for arrival or room (R165, R256).
-/
namespace Sys2Proof.Machine

/-! ## Contexts -/

/-- The current context of a compute core's tile. -/
def State.coreCtx (s : State) (k : Nat) : Option TileCtx := s.tileCtx (coreTile k)

/-- Whether what a tile's units send is discarded at its source, because its graph is being unloaded (R410). -/
def State.tileCut (s : State) (t : Nat) : Bool := ((s.tileCtx t).map fun x => s.regionCut x.gid).getD false

/-- The escape node whose re-entry a port of a core takes (R291). -/
def TileCtx.nodeAt (x : TileCtx) (core port : Nat) : Option Nat :=
  if x.reent = some core ∧ port ≤ 15 ∧ 15 - port < x.escs.length then some (15 - port) else none

/-- Whether a consumer is input port `port` of core `core`. -/
def Consumer.isPort (core port : Nat) : Consumer → Bool
  | .port c p _ => c == core && p == port
  | .ring _ | .sram | .place _ => false

/-- Whether a port is bound (R164). -/
def TileCtx.bound (x : TileCtx) (core port : Nat) : Bool :=
  (x.inr.any fun r => r.dst.isPort core port) || (x.nodeAt core port).isSome

/-- The route-table entry of a route for sending. -/
def TileCtx.out (x : TileCtx) (route : Nat) : Option OutRoute := x.outr.find? fun r => decide (r.num = route)

/-- Whether a steered route takes a steer value; a route that is not steered takes every one (R324). -/
def OutRoute.steers (r : OutRoute) (v : Nat) : Bool :=
  match r.steer with
  | none => true
  | some l => l.contains v

/-! ## Ports -/

/-- A splice marker (R87, R256). -/
def Flit.isMarker (f : Flit) : Bool := hKind f.hdr == 7

/-- The tokens queued at a port: its own queue, or the re-entry queue of the escape node that it takes. -/
def State.portQueue (s : State) (k port : Nat) : List Flit :=
  match (s.coreCtx k).bind fun x => x.nodeAt (k % 4) port with
  | some n => (Tab.get {} (s.tile (coreTile k)).escs n).queue
  | none => Tab.get [] (s.tcore k).ports port

/-- The token at the head of a port; a splice marker there is none (R256). -/
def State.portHead (s : State) (k port : Nat) : Option Flit :=
  match s.portQueue k port with
  | [] => none
  | f :: _ => if f.isMarker then none else some f

/-- Consumes the head token of a port. -/
def State.popPort (s : State) (k port : Nat) : State :=
  match (s.coreCtx k).bind fun x => x.nodeAt (k % 4) port with
  | some n => s.modTile (coreTile k) fun t => { t with escs := Tab.upd {} t.escs n fun e => { e with queue := e.queue.drop 1 } }
  | none => s.modTcore k fun c => { c with ports := Tab.upd [] c.ports port fun q => q.drop 1 }

/-- Gives tokens back to the head of a port. -/
def State.unpopPort (s : State) (k port : Nat) (l : List Flit) : State :=
  match (s.coreCtx k).bind fun x => x.nodeAt (k % 4) port with
  | some n => s.modTile (coreTile k) fun t => { t with escs := Tab.upd {} t.escs n fun e => { e with queue := l ++ e.queue } }
  | none => s.modTcore k fun c => { c with ports := Tab.upd [] c.ports port fun q => l ++ q }

/-- Whether a coordinate stream that a pcomp consumes still holds a port (R199). -/
def State.draining (s : State) (k port : Nat) : Bool := (s.tcore k).drains.any fun d => d.port == port

/-- The bundle waits at a port for a token to arrive: it never times out (R165). -/
def State.waitPort (s : State) (k port : Nat) : Out :=
  (s.modTcore k fun c => { c with atPort := some port, waited := none }).wait

/-- A stream form at a port: UND when the port is unbound, a wait while it is empty, else `f` with its head token (R164,
R168). -/
def State.withPort (s : State) (k port : Nat) (f : State → Flit → Out) : Out :=
  match s.coreCtx k with
  | none => s.und
  | some x =>
    if !x.bound (k % 4) port then s.und
    else if s.draining k port then s.wait
    else
      match s.portHead k port with
      | some t => f (s.modTcore k fun c => { c with atPort := none }) t
      | none => s.waitPort k port

/-- The payload of a token as a vector register: elements 0 to len, zero above (R168). -/
def lanesTo (x : VWord) (n : Nat) : VWord := BitVec.ofNat 256 (x.toNat % 2 ^ (32 * (n + 1)))

/-- One token of a port goes to the consumption that a pcomp has started (R199). -/
def State.drainOne (s : State) (k port : Nat) (d : Drain) (f : Flit) : State :=
  let c := d.scan.token f
  let keep := { c with words := c.words.take 1 }
  let s1 := (s.popPort k port).modTcore k fun x =>
    { x with drains := if c.done then x.drains.filter fun y => y.port != port
                       else x.drains.map fun y => if y.port = port then { y with scan := keep } else y }
  if d.fwd then s1.forwardToken (d.tile / 32) d.tile d.ident f else s1

/-- Consumes what a port holds for such a stream, at most `n` tokens. -/
def State.drainPort (s : State) (k port : Nat) : Nat → State
  | 0 => s
  | n + 1 =>
    match (s.tcore k).drains.find? fun d => d.port == port with
    | none => s
    | some d =>
      match s.portHead k port with
      | none => s
      | some f => (s.drainOne k port d f).drainPort k port n

/-! ## Waits for room (R165) -/

/-- The bundle waits for room on a route, or on ring `r` as 4,096 + r; the cycles of one wait add up. -/
def State.waitRoom (s : State) (k key : Nat) : Out :=
  (s.modTcore k fun c =>
    { c with
      atPort := none
      waited := match c.waited with
        | some (n, r) => if r = key then some (n, r) else some (0, key)
        | none => some (0, key) }).wait

/-! ## The outbound streamer (R169, R242) -/

/-- Whether two tokens merge (R242). -/
def mergeable (a b : Flit) : Bool :=
  hKind a.hdr == 0 && hKind b.hdr == 0 && hRoute a.hdr == hRoute b.hdr && hEtype a.hdr == hEtype b.hdr &&
    hEtype a.hdr != 7 && hEtype a.hdr != 8 && hSteer a.hdr == hSteer b.hdr && hSeq a.hdr == 0 && hSeq b.hdr == 0 &&
    hStop a.hdr == 0 && hStop b.hdr == 0 && decide (hLen a.hdr + hLen b.hdr + 2 ≤ 8)

/-- The merged token: the first one's header, with the combined count. -/
def mergeFlits (a b : Flit) : Flit :=
  { hdr := a.hdr + wd ((hLen b.hdr + 1) * 2 ^ 55)
    pay := BitVec.ofNat 256 ((lanesTo a.pay (hLen a.hdr)).toNat + (lanesTo b.pay (hLen b.hdr)).toNat * 2 ^ (32 * (hLen a.hdr + 1))) }

/-- Queues a token behind the last one, which it joins when they merge; a command word joins nothing (R242, R244). -/
def enqueueFlit (whole : Bool) : List Flit → Flit → List Flit
  | [], f => [f]
  | [a], f => if !whole && mergeable a f then [mergeFlits a f] else [a, f]
  | a :: b :: l, f => a :: enqueueFlit whole (b :: l) f

/-- Hands a token to the streamer's queue of a core. -/
def State.queueOut (s : State) (k : Nat) (whole : Bool) (f : Flit) : State :=
  s.modTcore k fun c => { c with outq := enqueueFlit whole c.outq f, waited := none }

/-- Whether the streamer's queue of a core is full. -/
def State.outFull (s : State) (k : Nat) : Bool := decide ((s.tcore k).outq.length ≥ 16)

/-- Whether a consumer of a tile is one of its rings or a range of its SRAM, and whether it is the latter. -/
def Consumer.isStore : Consumer → Bool
  | .port _ _ _ => false
  | .ring _ | .sram | .place _ => true
def Consumer.isBank : Consumer → Bool
  | .port _ _ _ | .ring _ => false
  | .sram | .place _ => true

/-- The consumers that a context binds to a route. -/
def TileCtx.binds (x : TileCtx) (route : Nat) : List InRoute := x.inr.filter fun r => decide (r.num = route)

/-- The consumer in a context that an inbox entry is for. -/
def TileCtx.consumer (x : TileCtx) (e : Option Nat × Flit) : Option InRoute := e.1.bind fun i => (x.binds (hRoute e.2.hdr))[i]?

/-- The tokens that a tile has sent on a route to consumers of its own, of the kinds that `q` takes, and that are still in the tile's link
or its inbound streamer: the most for one consumer. -/
def State.ownCount (s : State) (t : Nat) (x : TileCtx) (route : Nat) (q : Consumer → Bool) : Nat :=
  let link := ((s.link (s.tileRouter t) .inject 0).filter fun f => decide (hRoute f.hdr = route)).length
  ((x.binds route).zipIdx.map fun i =>
    if q i.1.dst then link + ((s.tile t).inbox.filter fun e => decide (hRoute e.2.hdr = route) && e.1 == some i.2).length else 0).foldl max 0

/-- Whether a token that a tile has sent to a consumer of its own, of the kinds that `q` takes, is still on its way. -/
def State.ownPending (s : State) (t : Nat) (q : Consumer → Bool) : Bool :=
  match s.tileCtx t with
  | none => false
  | some x => x.outr.any fun r => decide (s.ownCount t x r.num q ≠ 0)

/-- Whether one of the tokens that a core itself has sent to a ring or a range of its own tile has not been placed: more are on their way
than the tile has sent since. -/
def State.corePending (s : State) (k : Nat) : Bool :=
  let t := coreTile k
  match s.tileCtx t with
  | none => false
  | some x => (s.tcore k).sentAt.any fun e => decide (s.ownCount t x e.1 Consumer.isStore > Tab.get 0 (s.tile t).sent e.1 - e.2)

/-- Whether a core's earlier tokens have left the tile's streamers, and those for rings and ranges of its own tile have been
placed (R291). -/
def State.released (s : State) (k : Nat) : Bool := (s.tcore k).outq.isEmpty && !s.corePending k

/-! ## Rings (R173 to R176) -/

/-- A ring as the current context of a tile declares it, with its offsets. -/
def State.ring (s : State) (t r : Nat) : Option Ring :=
  match s.tileCtx t with
  | none => none
  | some x => (x.rings.find? fun d => decide (d.1 = r)).map fun d =>
      { Tab.get {} (s.tile t).rings r with off := d.2.1, size := d.2.2 }

def State.setRing (s : State) (t r : Nat) (x : Ring) : State := s.modTile t fun y => { y with rings := Tab.set {} y.rings r x }

/-- The size of a record of `n` elements. -/
def recSize (n : Nat) : Nat := 8 + 8 * ((n + 1) / 2)

/-- The room that a record of `z` bytes needs, with the pad before it. -/
def Ring.need (x : Ring) (z : Nat) : Nat := if x.h + z ≤ x.size then z else x.size - x.h + z

def Ring.fits (x : Ring) (z : Nat) : Bool := decide (x.need z ≤ x.size - x.u)

/-- Whether an operation may still act on a ring in a block cycle: pops by cores 0 to 3 come first, as 0 to 3, then the placing of a token
that arrives, as 4, then pushes by cores 0 to 3, as 5 to 8 (R176). So a record placed in a cycle is popped in a later one. -/
def Ring.turn (x : Ring) (cyc ord : Nat) : Bool := decide (x.cyc < cyc) || decide (x.cyc = cyc ∧ x.ord ≤ ord)

/-- A ring after an operation. -/
def Ring.stamp (x : Ring) (cyc ord : Nat) : Ring := { x with cyc := cyc, ord := ord }

/-- The bytes of a record. -/
def recBytes (f : Flit) : List Byte :=
  leBytes 8 f.hdr.toNat ++ leBytes (8 * ((hLen f.hdr + 2) / 2)) (lanesTo f.pay (hLen f.hdr)).toNat

/-- Places a record in a ring that has room for it (R174): the state with the pad and the record written. -/
def State.putRing (s : State) (t r : Nat) (x : Ring) (f : Flit) : State :=
  let z := recSize (hLen f.hdr + 1)
  if x.h + z ≤ x.size then
    (s.sramWrite t (x.off + x.h) (recBytes f)).setRing t r { x with h := (x.h + z) % x.size, u := x.u + z }
  else
    ((s.sramWrite t (x.off + x.h) (leBytes 8 (2 ^ 64 - 1))).sramWrite t x.off (recBytes f)).setRing t r
      { x with h := z % x.size, u := x.u + (x.size - x.h) + z }

/-- The ring after its pad record at T, if it has one there, is skipped. -/
def State.skipPad (s : State) (t : Nat) (x : Ring) : Ring :=
  if x.u ≠ 0 ∧ s.sramRead t (x.off + x.t) 8 = 2 ^ 64 - 1 then { x with u := x.u - (x.size - x.t), t := 0 } else x

/-- Removes the oldest record of a ring: the ring, and the record. -/
def State.popRing (s : State) (t : Nat) (x : Ring) : Option (Ring × Flit) :=
  let y := s.skipPad t x
  if y.u = 0 then none
  else
    let hdr := wd (s.sramRead t (y.off + y.t) 8)
    let n := hLen hdr + 1
    some ({ y with t := (y.t + recSize n) % y.size, u := y.u - recSize n },
      { hdr := hdr, pay := BitVec.ofNat 256 (s.sramRead t (y.off + y.t + 8) (4 * n)) })

/-- Whether another core of the tile has waited longer for room in a ring, or as long with a lower number (R176). -/
def State.waitedLonger (s : State) (k r : Nat) : Bool :=
  let mine := match (s.tcore k).waited with
    | some (n, x) => if x = 4096 + r then n else 0
    | none => 0
  (List.range 4).any fun i =>
    let j := 4 * coreTile k + i
    j != k && (match (s.tcore j).waited with
      | some (n, x) => x == 4096 + r && (decide (n > mine) || (decide (n = mine) && decide (j < k))) && !(s.tcore j).halted
      | none => false)

end Sys2Proof.Machine
end

