-- ==== Sys2Proof/Machine/Tile.lean ====
section
/-!
DEFINITION. The tile forms, opcodes 0x5D to 0x6F: streams (R168 to R172), rings (R173 to R176), escapes (R177), context switches
(R180), and the forms that enter the matrix queue or step the descriptor (R182 to R191).
-/
namespace Sys2Proof.Machine

/-! ## Streams (R168 to R172) -/

/-- srecv: takes a token (R168). -/
def execSrecv (v : VReg) (port : BitVec 4) (s : State) : Out :=
  s.tileMode fun k => s.withPort k port.toNat fun s f =>
    .next ((s.popPort k port.toNat).wV v (lanesTo f.pay (hLen f.hdr)))

/-- speek: reads the header of the head token, which stays (R168). -/
def execSpeek (d : SReg) (port : BitVec 4) (s : State) : Out :=
  s.tileMode fun k => s.withPort k port.toNat fun s f => .next (s.wS d f.hdr)

/-- spred: takes a token into a predicate register (R168). -/
def execSpred (p : PReg) (port : BitVec 4) (s : State) : Out :=
  s.tileMode fun k => s.withPort k port.toNat fun s f =>
    .next ((s.popPort k port.toNat).wP p (f.pay.setWidth 8))

/-- Code of an element type (R88). -/
def etCode : EType → Nat
  | .i32 => 0
  | .f32 => 1
  | .bf16x2 => 2
  | .f16x2 => 3
  | .i16x2 => 4
  | .i8x4 => 5
  | .n8x4 => 6
  | .mxblk => 7
  | .plane => 8
  | .raw => 9

/-- Whether ks obeys R89 for a data token of an element type. -/
def ksOk (et ks : Nat) : Bool := if et = 7 then bitsN ks 13 1 == 0 else if et = 8 then true else ks == 0

/-- The fields of rsel (R42). -/
def rselRoute (r : Word) : Nat := bits r 0 12
def rselSteer (r : Word) : Nat := bits r 12 6

/-- What a command route demands of an ssend (R244). -/
def cmdSendOk (r : OutRoute) (et count seq : Nat) : Bool := r.cmd.isNone || (et == 9 && count == 8 && seq == 0)

/-- Sends a token on the route of rsel: UND without an entry, or when `ok` refuses it; a wait while the queue is full (R42,
R169, R244, R324). -/
def State.send (s : State) (k : Nat) (ok : OutRoute → Bool) (f : Flit) : Out :=
  match (s.coreCtx k).bind fun x => x.out (rselRoute (s.tcore k).rsel) with
  | none => s.und
  | some r =>
    if !ok r then s.und
    else if s.outFull k then s.waitRoom k (rselRoute (s.tcore k).rsel)
    else .next (s.queueOut k r.cmd.isSome f)

/-- ssend (R169, R244, R324). -/
def execSsend (v : VReg) (b : SReg) (et : EType) (s : State) : Out :=
  s.tileMode fun k =>
    let x := s.rS b
    let n := bits x 0 4
    let rsel := (s.tcore k).rsel
    if bits x 46 18 ≠ 0 ∨ bits x 4 12 ≠ 0 ∨ n = 0 ∨ n > 8 ∨ ksOk (etCode et) (bits x 32 14) = false then s.und
    else
      s.send k (fun r => cmdSendOk r (etCode et) n (bits x 16 16) && r.steers (rselSteer rsel))
        { hdr := mkHdr 0 (n - 1) 0 (rselRoute rsel) (rselSteer rsel) (bits x 16 16) (etCode et) (bits x 32 14)
          pay := lanesTo (s.rV v) (n - 1) }

/-- sstop: a stop token (R170, R244). -/
def execSstop (level : BitVec 3) (s : State) : Out :=
  s.tileMode fun k =>
    let rsel := (s.tcore k).rsel
    s.send k (fun r => r.cmd.isNone)
      { hdr := mkHdr 0 0 level.toNat (rselRoute rsel) (rselSteer rsel) 0 9 0, pay := 0 }

/-- ssteer (R171). -/
def execSsteer (a : SReg) (s : State) : Out :=
  s.tileMode fun k =>
    if bits (s.rS a) 6 58 ≠ 0 then s.und
    else .next (s.modTcore k fun c => { c with rsel := wd (rselRoute c.rsel + bits (s.rS a) 0 6 * 4096) })

/-- smerge (R172). -/
def execSmerge (v va vb : VReg) (k : BitVec 3) (s : State) : Out :=
  s.tileMode fun _ =>
    .next (s.wV v (ofLanes fun i => if i < k.toNat then lane (s.rV va) i else lane (s.rV vb) (i - k.toNat)))

/-- ssplit (R172). -/
def execSsplit (v va : VReg) (w : BitVec 4) (s : State) : Out :=
  s.tileMode fun _ => .next (s.wV v (ofLanes fun i => if i + w.toNat ≤ 7 then lane (s.rV va) (i + w.toNat) else 0))

/-! ## Rings (R175, R176) -/

/-- rqpush: places a record, waiting for room (R174, R175). -/
def execRqpush (ring : BitVec 4) (v : VReg) (b : SReg) (s : State) : Out :=
  s.tileMode fun k =>
    let t := coreTile k
    let f : Flit := { hdr := s.rS b, pay := s.rV v }
    match s.ring t ring.toNat with
    | none => s.und
    | some x =>
      if hKind f.hdr ≠ 0 ∨ hVc f.hdr ≠ 0 then s.und
      else if !x.fits (recSize (hLen f.hdr + 1)) || s.waitedLonger k ring.toNat then s.waitRoom k (4096 + ring.toNat)
      else if !x.turn (s.blk (t / 32)).cyc (5 + k % 4) then s.wait
      else .next (s.putRing t ring.toNat (x.stamp (s.blk (t / 32)).cyc (5 + k % 4)) f)

/-- rqpop: takes the oldest record, waiting for one (R175). -/
def execRqpop (v : VReg) (ring : BitVec 4) (b : SReg) (s : State) : Out :=
  s.tileMode fun k =>
    let t := coreTile k
    match s.ring t ring.toNat with
    | none => s.und
    | some x =>
      match s.popRing t x with
      | none => (s.modTcore k fun c => { c with atPort := none, waited := none }).wait
      | some (y, f) =>
        if !x.turn (s.blk (t / 32)).cyc (k % 4) then s.wait
        else .next (((s.setRing t ring.toNat (y.stamp (s.blk (t / 32)).cyc (k % 4))).wV v (lanesTo f.pay (hLen f.hdr))).wS b f.hdr)

/-! ## Escapes (R177, R178, R290) -/

/-- The record that starts an escape thread for ticket `t`. -/
def escRec (tile node n hidx : Nat) (t : BitVec 32) (f : Flit) : Rec :=
  { data := mkRec hidx [] t 0, sender := .fabric tile node, path := .escape tile node n, pref := .first (tile / 32)
    notify := .nobody, token := some f }

/-- An escape node with one more token parked. -/
def EscNode.parked (x : EscNode) (hidx pool : Nat) (f : Flit) (ordered : Bool) : EscNode :=
  { x with hidx := hidx, pool := pool, next := (x.next + 1) % 65536
           out := x.out ++ [{ n := x.next, tok := f, ordered := ordered }] }

/-- Parks a token at an escape node and starts its thread. -/
def State.park (s : State) (t node hidx pool : Nat) (x : EscNode) (f : Flit) (ordered : Bool) (ticket : BitVec 32) :
    State :=
  (s.modTile t fun y => { y with escs := Tab.set {} y.escs node (x.parked hidx pool f ordered) }).sendRec (t / 256)
    (escRec t node x.next hidx ticket f)

/-- The ticket of an escape (R177). -/
def escTicket (gtile node n : Nat) : BitVec 32 := BitVec.ofNat 32 (gtile * 2 ^ 20 + node * 2 ^ 18 + n)

/-- esc and esc.o (R177). -/
def State.escape (s : State) (d : SReg) (v : VReg) (node : Nat) (ordered : Bool) : Out :=
  s.tileMode fun k =>
    let t := coreTile k
    match s.coreCtx k with
    | none => s.und
    | some c =>
      match c.escs[node]? with
      | none => s.und
      | some (hidx, pool) =>
        let hdr := s.rS d
        let x := Tab.get {} (s.tile t).escs node
        if x.out.length ≥ pool ∨ ((s.tcore k).waited.isSome = true ∧ (s.blk (t / 32)).cyc < x.from_) then s.waitRoom k (hRoute hdr)
        else if hKind hdr ≠ 0 ∨ hVc hdr ≠ 0 then s.und
        else
            let ticket := escTicket c.gtile node x.next
            .next ((s.park t node hidx pool x { hdr := hdr, pay := lanesTo (s.rV v) (hLen hdr) } ordered ticket).wS d
              (ticket.setWidth 64))

/-- esc (R177). -/
def execEsc (d : SReg) (v : VReg) (node : BitVec 2) (s : State) : Out := s.escape d v node.toNat false

/-- esc.o (R177). -/
def execEscO (d : SReg) (v : VReg) (node : BitVec 2) (s : State) : Out := s.escape d v node.toNat true

/-! ## Context switches (R180) -/

/-- Whether a context of a tile holds a loaded and verified image. -/
def State.loaded (s : State) (t n : Nat) : Bool :=
  match Tab.get none (s.tile t).ctxs n with
  | none => false
  | some x => decide (x.got = x.words) && !x.bad

/-- Whether another core of the tile waits in a switch to another context. -/
def State.otherSwitch (s : State) (k n : Nat) : Bool :=
  (List.range 4).any fun i =>
    match (s.tcore (4 * coreTile k + i)).run with
    | .ctxsw m => m != n
    | .idle | .run | .held | .sync _ _ _ | .faulted _ => false

/-- ctxsw: the core waits for the switch of its tile (R180). -/
def execCtxsw (n : BitVec 2) (s : State) : Out :=
  s.tileMode fun k =>
    if s.otherSwitch k n.toNat || !s.loaded (coreTile k) n.toNat then s.und
    else .next (s.modTcore k fun c => { c with run := .ctxsw n.toNat })

/-! ## The matrix queue (R182 to R191) -/

/-- A form enters the matrix queue, waiting while it is full, or while a higher core has entered in the same cycle; `holds` forms hold
their core until they end (R182). -/
def State.queueMat (s : State) (k : Nat) (kind : MKind) : Out :=
  let t := coreTile k
  if (s.tile t).mq.length ≥ 8 ∨ (s.tile t).mqLast.1 = (s.blk (t / 32)).cyc ∧ k % 4 < (s.tile t).mqLast.2 then s.wait
  else
    .next ((s.modTile t fun x =>
      { x with mq := x.mq ++ [{ core := k, kind := kind, md := (s.tcore k).mdesc, ctx := s.view }]
               mqLast := ((s.blk (t / 32)).cyc, k % 4)
               mqFrom := if x.mq = [] then max x.mqFrom ((s.blk (t / 32)).cyc + 1) else x.mqFrom }).modTcore k
      fun c => if kind.holds then { c with run := .held } else c)

/-- A gang-issue form: its descriptor is checked and latched at issue (R183, R185). -/
def State.gangIssue (s : State) (a b : Family) : Out :=
  s.tileMode fun k => if mgOk (s.tcore k).mdesc a b then s.queueMat k .mg else s.und

/-- mg.pp (R183). -/
def execMgPp (s : State) : Out := s.gangIssue .plane .plane
/-- mg.pe (R183). -/
def execMgPe (s : State) : Out := s.gangIssue .plane .bint
/-- mg.ep (R183). -/
def execMgEp (s : State) : Out := s.gangIssue .bint .plane
/-- mg.ee (R183). -/
def execMgEe (s : State) : Out := s.gangIssue .bint .bint
/-- mg.gp (R183). -/
def execMgGp (s : State) : Out := s.gangIssue .group .plane
/-- mg.ge (R183). -/
def execMgGe (s : State) : Out := s.gangIssue .group .bint

/-- mzero (R187). -/
def execMzero (s : State) : Out := s.tileMode fun k => s.queueMat k .mzero

/-- The operand of mdrain: first row, rows, steering by byte, clearing and stop level (R187). -/
def drFirst (x : Word) : Nat := bits x 0 5
def drCnt (x : Word) : Nat := bits x 5 5
def drBySteer (x : Word) : Bool := bit x 10
def drClr (x : Word) : Bool := bit x 11
def drStop (x : Word) : Nat := bits x 12 3

/-- Byte `r` of v[b]. -/
def steerByte (v : VWord) (r : Nat) : Nat := bitsN v.toNat (8 * r) 8

/-- The rows that mdrain uses. -/
def drRows (x : Word) : List Nat := (List.range (drCnt x + 1)).map fun i => drFirst x + i

/-- What a drain demands of its route: a steered route takes no stop and only steer values of its set (R244, R324). -/
def drainRouteOk (r : OutRoute) (x : Word) (v : VWord) (rsel : Word) : Bool :=
  r.cmd.isNone &&
    (r.steer.isNone ||
      (drStop x == 0 &&
        (if drBySteer x then (drRows x).all fun i => r.steers (steerByte v i) else r.steers (rselSteer rsel))))

/-- mdrain (R187, R324). -/
def execMdrain (a : SReg) (v : VReg) (s : State) : Out :=
  s.tileMode fun k =>
    let x := s.rS a
    let rsel := (s.tcore k).rsel
    match (s.coreCtx k).bind fun c => c.out (rselRoute rsel) with
    | none => s.und
    | some r =>
      if bits x 15 49 ≠ 0 ∨ drFirst x + drCnt x > 31 ∨
          (drBySteer x = true ∧ (drRows x).any (fun i => decide (steerByte (s.rV v) i ≥ 64)) = true) ∨
          drainRouteOk r x (s.rV v) rsel = false then s.und
      else s.queueMat k (.mdrain x (s.rV v) rsel)

/-- acpy (R188). -/
def execAcpy (a b : SReg) (s : State) : Out :=
  s.tileMode fun k =>
    let off := (s.rS a).toNat
    let x := s.rS b
    if off % 16 ≠ 0 ∨ off + 4096 > 0x80000 ∨ bits x 6 58 ≠ 0 ∨ (bit x 5 = true ∧ bit x 4 = true) then s.und
    else s.queueMat k (.acpy off x)

/-- mspx and mspx.n: the checks at issue, of the port, the descriptor and the operand of the port (R185, R191). -/
def State.sparseIssue (s : State) (a b : SReg) (now : Bool) : Out :=
  s.tileMode fun k =>
    let y := s.rS b
    match s.coreCtx k with
    | none => s.und
    | some c =>
      if bits y 4 60 ≠ 0 ∨ c.bound (k % 4) (bits y 0 4) = false ∨ mdOk (s.tcore k).mdesc = false then s.und
      else if s.draining k (bits y 0 4) then s.wait
      else s.queueMat k (.mspx (s.rS a) (bits y 0 4) now)

/-- mspx (R191). -/
def execMspx (a b : SReg) (s : State) : Out := s.sparseIssue a b false

/-- mspx.n (R191). -/
def execMspxN (a b : SReg) (s : State) : Out := s.sparseIssue a b true

/-! ## The descriptor (R189, R190) -/

/-- The bits of mdesc that can be written (R40). -/
def mdescMask : Word := 0xF7FFFFFFF#64

/-- The value that mdset writes; none when a reserved bit of an extended value is set (R189). -/
def mdsetValue : Imm → Option Word
  | .pair v => some (v.setWidth 64)
  | .ext v => if bitsN v.toNat 36 5 = 0 ∧ bitsN v.toNat 31 1 = 0 then some (v.setWidth 64) else none

/-- mdset (R189). -/
def execMdset (imm : Imm) (s : State) : Out :=
  s.tileMode fun k =>
    match mdsetValue imm with
    | none => s.und
    | some x => .next (s.modTcore k fun c => { c with mdesc := x })

/-- One step of the block order, with whether it came back to block (0, 0) (R190). -/
def mdStep (md : Word) (byRow : Bool) : Word × Bool :=
  let r := mdRowb md
  let c := mdColb md
  let inner := ((if byRow then r else c) + 1) % 4
  let outer := if inner = 0 then ((if byRow then c else r) + 1) % 4 else if byRow then c else r
  let r' := if byRow then inner else outer
  let c' := if byRow then outer else inner
  (wd (md.toNat - r * 2 ^ 32 - c * 2 ^ 34 + r' * 2 ^ 32 + c' * 2 ^ 34), r' == 0 && c' == 0)

/-- Steps mdesc of a core. -/
def State.advanceBlock (s : State) (d : SReg) (byRow : Bool) : Out :=
  s.tileMode fun k =>
    let r := mdStep (s.tcore k).mdesc byRow
    .next ((s.modTcore k fun c => { c with mdesc := r.1 }).wS d (wd r.2.toNat))

/-- mdadv (R190). -/
def execMdadv (d : SReg) (s : State) : Out := s.advanceBlock d false

/-- mdadv.r (R190). -/
def execMdadvR (d : SReg) (s : State) : Out := s.advanceBlock d true

end Sys2Proof.Machine
end

