-- ==== Sys2Proof/Machine/Vector.lean ====
section
/-!
DEFINITION. Slot B: vector operations and the sequence guard, opcodes 0x00 to 0x21 (R136 to R162).
-/
namespace Sys2Proof.Machine

/-! ## Elements and lanes -/

/-- The width of an element type's elements (R76). -/
def eltW : Ty → Nat
  | .f32 | .i32 | .x => 32
  | .bf16 | .f16 | .i16 => 16
  | .i8 | .u8 => 8

/-- The floating-point format of a type; FP32 for the types that are none. -/
def tyF : Ty → FFmt
  | .bf16 => fBF16
  | .f16 => fF16
  | .f32 | .i32 | .i16 | .i8 | .u8 | .x => fF32

def tyIsF : Ty → Bool
  | .f32 | .bf16 | .f16 => true
  | .i32 | .i16 | .i8 | .u8 | .x => false

/-- Element `j` of a lane. -/
def elt (w : Nat) (x : BitVec 32) (j : Nat) : Nat := bitsN x.toNat (w * j) w

/-- The elements of a lane, element 0 first. -/
def elts (w : Nat) (x : BitVec 32) : List Nat := (List.range (32 / w)).map (elt w x)

/-- A lane from its elements, taken modulo their width. -/
def packElts (w : Nat) : List Nat → Nat
  | [] => 0
  | x :: l => x % 2 ^ w + 2 ^ w * packElts w l

/-- An element as a number: unsigned for u8, else signed. -/
def eltInt (ty : Ty) (x : Nat) : Int :=
  match ty with
  | .u8 => x
  | ty => if x < 2 ^ (eltW ty - 1) then x else (x : Int) - 2 ^ eltW ty

/-- An integer modulo 2^w. -/
def wrapN (w : Nat) (x : Int) : Nat := (x % (2 ^ w : Int)).toNat

/-- The lane results and the flags of one element operation on three sources. -/
def eltOp (w : Nat) (f : Nat → Nat → Nat → Nat × BitVec 5) (a b c : BitVec 32) : BitVec 32 × BitVec 5 :=
  let rs := (List.range (32 / w)).map fun j => f (elt w a j) (elt w b j) (elt w c j)
  (BitVec.ofNat 32 (packElts w (rs.map Prod.fst)), rs.foldl (fun x r => x ||| r.2) 0)

/-- A lane operation over the eight lanes: the results, and the flags of the active lanes (R17). -/
def laneOp (mask : PWord) (f : Nat → BitVec 32 × BitVec 5) : VWord × BitVec 5 :=
  (ofLanes fun i => (f i).1, (List.range 8).foldl (fun x i => x ||| flagIf (mask.getLsbD i) (f i).2) 0)

/-- A short vector result: active lanes written and their flags raised at issue (R17, R31). -/
def State.vShort (s : State) (p : PReg) (d : VReg) (f : Nat → BitVec 32 × BitVec 5) : Out :=
  let r := laneOp (s.rP p) f
  .next ((s.wVm d (s.rP p) r.1).orFlags r.2)

/-- A long vector result for the active lanes (R137). -/
def State.vLong (s : State) (p : PReg) (d : VReg) (f : Nat → BitVec 32 × BitVec 5) : Out :=
  let r := laneOp (s.rP p) f
  .next (s.longV d (s.rP p) r.1 r.2)

/-- The rounding mode of the bundle in hand (R18, R30). -/
def State.rm (s : State) : Rm := rmOf s.view.vrm

/-- An element operation of three sources over the lanes of three registers. -/
def lanes3 (w : Nat) (a b c : VWord) (f : Nat → Nat → Nat → Nat × BitVec 5) (i : Nat) : BitVec 32 × BitVec 5 :=
  eltOp w f (lane a i) (lane b i) (lane c i)

/-! ## Arithmetic (R140, R141) -/

/-- An arithmetic form: on a floating-point type by its operation on values, on an integer type modulo 2^w. -/
def arith (ty : Ty) (ff : FFmt → FVal → FVal → FVal → Nat × BitVec 5) (fi : Int → Int → Int → Int) (x y z : Nat) :
    Nat × BitVec 5 :=
  if tyIsF ty then ff (tyF ty) ((tyF ty).value x) ((tyF ty).value y) ((tyF ty).value z)
  else (wrapN (eltW ty) (fi (eltInt ty x) (eltInt ty y) (eltInt ty z)), 0)

/-- Runs an arithmetic form over registers a, b and the third operand d. -/
def State.vArith (s : State) (p : PReg) (d a b : VReg) (ty : Ty) (f : Nat → Nat → Nat → Nat × BitVec 5) : Out :=
  s.vShort p d (lanes3 (eltW ty) (s.rV a) (s.rV b) (s.rV d) f)

/-- The smaller or larger element (R140, R141). -/
def eltMinMax (ty : Ty) (mx : Bool) (x y : Nat) : Nat × BitVec 5 :=
  if tyIsF ty then fminmax (tyF ty) mx x y
  else
    let c := decide (eltInt ty x ≤ eltInt ty y)
    (if c != mx then x else y, 0)

/-- vnop (R139). -/
def execVnop (s : State) : Out := .next s

/-- vadd (R140). -/
def execVadd (p : PReg) (d a b : VReg) (ty : Ty) (s : State) : Out :=
  s.vArith p d a b ty (arith ty (fun f x y _ => fadd f s.rm x y) fun x y _ => x + y)

/-- vsub (R140). -/
def execVsub (p : PReg) (d a b : VReg) (ty : Ty) (s : State) : Out :=
  s.vArith p d a b ty (arith ty (fun f x y _ => fsub f s.rm x y) fun x y _ => x - y)

/-- vmul: the low half of an integer product (R140). -/
def execVmul (p : PReg) (d a b : VReg) (ty : Ty) (s : State) : Out :=
  s.vArith p d a b ty (arith ty (fun f x y _ => fmul f s.rm x y) fun x y _ => x * y)

/-- vfma: va × vb + vd, one rounding (R140). -/
def execVfma (p : PReg) (d a b : VReg) (ty : Ty) (s : State) : Out :=
  s.vArith p d a b ty (arith ty (fun f x y z => ffma f s.rm x y z) fun x y z => x * y + z)

/-- vmin (R140, R141). -/
def execVmin (p : PReg) (d a b : VReg) (ty : Ty) (s : State) : Out :=
  s.vArith p d a b ty fun x y _ => eltMinMax ty false x y

/-- vmax (R140, R141). -/
def execVmax (p : PReg) (d a b : VReg) (ty : Ty) (s : State) : Out :=
  s.vArith p d a b ty fun x y _ => eltMinMax ty true x y

/-- An element without its sign bit, or with it flipped (R140). -/
def fAbs (w x : Nat) : Nat := x % 2 ^ (w - 1)
def fNeg (w x : Nat) : Nat := (x + 2 ^ (w - 1)) % 2 ^ w

/-- vabs: clears the sign bit, or takes the wrapping absolute value (R140). -/
def execVabs (p : PReg) (d a : VReg) (ty : Ty) (s : State) : Out :=
  s.vArith p d a a ty fun x _ _ =>
    if tyIsF ty then (fAbs (eltW ty) x, 0) else (wrapN (eltW ty) (eltInt ty x).natAbs, 0)

/-- vneg: flips the sign bit, or takes the wrapping negative (R140). -/
def execVneg (p : PReg) (d a : VReg) (ty : Ty) (s : State) : Out :=
  s.vArith p d a a ty fun x _ _ =>
    if tyIsF ty then (fNeg (eltW ty) x, 0) else (wrapN (eltW ty) (-(eltInt ty x)), 0)

/-! ## Long arithmetic (R142) -/

/-- Runs a long form of a floating-point type. -/
def State.vDeep (s : State) (p : PReg) (d a b : VReg) (ty : Ty) (f : FFmt → FVal → FVal → Nat × BitVec 5) : Out :=
  s.vLong p d (lanes3 (eltW ty) (s.rV a) (s.rV b) (s.rV a) fun x y _ =>
    f (tyF ty) ((tyF ty).value x) ((tyF ty).value y))

/-- vdiv (R142). -/
def execVdiv (p : PReg) (d a b : VReg) (ty : Ty) (s : State) : Out := s.vDeep p d a b ty fun f x y => fdiv f s.rm x y

/-- vsqrt (R142). -/
def execVsqrt (p : PReg) (d a : VReg) (ty : Ty) (s : State) : Out := s.vDeep p d a a ty fun f x _ => fsqrt f s.rm x

/-- vrsqrt (R142). -/
def execVrsqrt (p : PReg) (d a : VReg) (ty : Ty) (s : State) : Out := s.vDeep p d a a ty fun f x _ => frsqrt f s.rm x

/-- vrcp (R142). -/
def execVrcp (p : PReg) (d a : VReg) (ty : Ty) (s : State) : Out := s.vDeep p d a a ty fun f x _ => frcp f s.rm x

/-- vexp2 (R142). -/
def execVexp2 (p : PReg) (d a : VReg) (ty : Ty) (s : State) : Out := s.vDeep p d a a ty fun f x _ => fexp2 f s.rm x

/-- vlog2 (R142). -/
def execVlog2 (p : PReg) (d a : VReg) (ty : Ty) (s : State) : Out := s.vDeep p d a a ty fun f x _ => flog2 f s.rm x

/-! ## Compare, select, logic, shifts (R143 to R146) -/

/-- A condition on elements. -/
def eltCmp (ty : Ty) (c : Cmp) (x y : Nat) : Bool × BitVec 5 :=
  if tyIsF ty then fcmp c ((tyF ty).value x) ((tyF ty).value y)
  else
    let a := eltInt ty x
    let b := eltInt ty y
    (match c with
      | .eq => decide (a = b)
      | .ne => decide (a ≠ b)
      | .lt => decide (a < b)
      | .le => decide (a ≤ b)
      | .un => false, 0)

/-- A condition on every element of a lane (R143). -/
def laneCmp (ty : Ty) (c : Cmp) (x y : BitVec 32) : Bool × BitVec 5 :=
  let rs := (List.range (32 / eltW ty)).map fun j => eltCmp ty c (elt (eltW ty) x j) (elt (eltW ty) y j)
  (rs.all Prod.fst, rs.foldl (fun f r => f ||| r.2) 0)

/-- The bits of `new` that the mask names, and those of `old` elsewhere. -/
def mergeBits (mask old new : PWord) : PWord := (old &&& ~~~ mask) ||| (new &&& mask)

/-- Eight predicate bits. -/
def ofBits (f : Nat → Bool) : PWord := BitVec.ofNat 8 (((List.range 8).map fun i => (f i).toNat * 2 ^ i).sum)

/-- vcmp: predicate bits of the active lanes (R143). -/
def State.vCmp (s : State) (p pd : PReg) (a b : VReg) (ty : Ty) (c : Cmp) : Out :=
  let f := fun i => laneCmp ty c (lane (s.rV a) i) (lane (s.rV b) i)
  let fl := (List.range 8).foldl (fun x i => x ||| flagIf ((s.rP p).getLsbD i) (f i).2) 0
  .next ((s.wP pd (mergeBits (s.rP p) (s.ctx.rP pd) (ofBits fun i => (f i).1))).orFlags fl)

/-- vcmp.eq (R143). -/
def execVcmpEq (p pd : PReg) (a b : VReg) (ty : Ty) (s : State) : Out := s.vCmp p pd a b ty .eq

/-- vcmp.ne (R143). -/
def execVcmpNe (p pd : PReg) (a b : VReg) (ty : Ty) (s : State) : Out := s.vCmp p pd a b ty .ne

/-- vcmp.lt (R143). -/
def execVcmpLt (p pd : PReg) (a b : VReg) (ty : Ty) (s : State) : Out := s.vCmp p pd a b ty .lt

/-- vcmp.le (R143). -/
def execVcmpLe (p pd : PReg) (a b : VReg) (ty : Ty) (s : State) : Out := s.vCmp p pd a b ty .le

/-- vcmp.un (R143). -/
def execVcmpUn (p pd : PReg) (a b : VReg) (ty : Ty) (s : State) : Out := s.vCmp p pd a b ty .un

/-- vsel: va where the predicate bit is 1, vb elsewhere, in all eight lanes (R144). -/
def execVsel (p : PReg) (d a b : VReg) (s : State) : Out := .next (s.wV d (mergeLanes (s.rP p) (s.rV b) (s.rV a)))

/-- vand (R145). -/
def execVand (p : PReg) (d a b : VReg) (s : State) : Out := .next (s.wVm d (s.rP p) (s.rV a &&& s.rV b))

/-- vor (R145). -/
def execVor (p : PReg) (d a b : VReg) (s : State) : Out := .next (s.wVm d (s.rP p) (s.rV a ||| s.rV b))

/-- vxor (R145). -/
def execVxor (p : PReg) (d a b : VReg) (s : State) : Out := .next (s.wVm d (s.rP p) (s.rV a ^^^ s.rV b))

/-- A shift of elements by amounts modulo the width (R146). -/
def State.vShift (s : State) (p : PReg) (d a b : VReg) (ty : Ty) (f : Nat → Nat → Nat) : Out :=
  s.vArith p d a b ty fun x y _ => (f x (y % eltW ty), 0)

/-- vshl (R146). -/
def execVshl (p : PReg) (d a b : VReg) (ty : Ty) (s : State) : Out := s.vShift p d a b ty fun x n => x * 2 ^ n

/-- vshr: zeros in (R146). -/
def execVshr (p : PReg) (d a b : VReg) (ty : Ty) (s : State) : Out := s.vShift p d a b ty fun x n => x / 2 ^ n

/-- vsra: the sign in (R146). -/
def execVsra (p : PReg) (d a b : VReg) (ty : Ty) (s : State) : Out :=
  s.vShift p d a b ty fun x n => wrapN (eltW ty) ((eltInt ty x).fdiv (2 ^ n))

/-! ## Conversions (R147, R148) -/

/-- Formats of vcvt and vquant that are floating-point. -/
def cfmtF : CFmt → Option FFmt
  | .f32 => some fF32
  | .bf16 => some fBF16
  | .f16 => some fF16
  | .e4m3 => some fE4M3
  | .e5m2 => some fE5M2
  | .e3m2 => some fE3M2
  | .e2m3 => some fE2M3
  | .e2m1 => some fE2M1
  | .i32 | .i16 | .i8 | .u8 | .mxint8 | .aint4 | .aint8 => none

/-- The width of an integer format of vcvt, and whether it is unsigned. -/
def cfmtI : CFmt → Nat × Bool
  | .i32 => (32, false)
  | .i16 => (16, false)
  | .i8 => (8, false)
  | .u8 => (8, true)
  | .f32 | .bf16 | .f16 | .e4m3 | .e5m2 | .e3m2 | .e2m3 | .e2m1 | .mxint8 | .aint4 | .aint8 => (8, false)

/-- An integer source: sign-extended or zero-extended from its width. -/
def cvtInt (src : CFmt) (x : Nat) : Int :=
  let w := cfmtI src
  let y := x % 2 ^ w.1
  if w.2 || decide (y < 2 ^ (w.1 - 1)) then y else (y : Int) - 2 ^ w.1

/-- Clamps to the signed range of a width. -/
def clampS (w : Nat) (x : Int) : Int := max (-(2 ^ (w - 1) : Int)) (min (2 ^ (w - 1) - 1) x)

/-- A rounded magnitude with its sign. -/
def signedInt (s : Bool) (n : Nat) : Int := if s then -(n : Int) else n

/-- A value converted to a signed integer of width w (R66). -/
def toIntW (w : Nat) (rm : Rm) : FVal → Int × BitVec 5
  | .nan _ _ _ => (0, fNV)
  | .inf s => (clampS w (signedInt s (2 ^ w)), fNV)
  | .fin s m e =>
    let r := roundInt rm s m e
    let x := signedInt s r.1
    if clampS w x = x then (x, flagIf (!r.2) fNX) else (clampS w x, fNV)

/-- vcvt of one lane (R148). -/
def cvtLane (src dst : CFmt) (rm : Rm) (x : BitVec 32) : BitVec 32 × BitVec 5 :=
  match cfmtF src, cfmtF dst with
  | some f, some g =>
    let r := g.deliver rm (f.value (x.toNat % 2 ^ f.width))
    (BitVec.ofNat 32 r.1, r.2)
  | some f, none =>
    let r := toIntW (cfmtI dst).1 rm (f.value (x.toNat % 2 ^ f.width))
    (BitVec.ofInt 32 r.1, r.2)
  | none, some g =>
    let n := cvtInt src x.toNat
    let r := g.round rm (decide (n < 0)) n.natAbs 0 false
    (BitVec.ofNat 32 r.1, r.2)
  | none, none => (BitVec.ofInt 32 (clampS (cfmtI dst).1 (cvtInt src x.toNat)), 0)

/-- vcvt: fn[0] overrides the rounding with round toward zero (R147). -/
def execVcvt (p : PReg) (d a : VReg) (src dst : CFmt) (rtz : Bool) (s : State) : Out :=
  s.vShort p d fun i => cvtLane src dst (if rtz then .rtz else s.rm) (lane (s.rV a) i)

/-! ## Pack and unpack (R149, R150) -/

/-- Field `i` of width `w` of a register. -/
def vfield (v : VWord) (w i : Nat) : Nat := bitsN v.toNat (w * i) w

/-- The number whose field `i` of width `w` is `f i`, for `n` fields. -/
def ofFields (w : Nat) (f : Nat → Nat) : Nat → Nat
  | 0 => 0
  | n + 1 => ofFields w f n + f n % 2 ^ w * 2 ^ (w * n)

/-- Puts eight fields of width `w` at field group `q`; every other bit keeps its value. -/
def putGroup (old : VWord) (w q : Nat) (f : Nat → Nat) : VWord :=
  let x := old.toNat
  BitVec.ofNat 256 (x - bitsN x (8 * w * q) (8 * w) * 2 ^ (8 * w * q) + ofFields w f 8 * 2 ^ (8 * w * q))

/-- A lane read as a signed 32-bit number. -/
def laneInt (v : VWord) (i : Nat) : Int := (lane v i).toInt

/-- The raw field widths of vpack and vunpk (R149). -/
def rawW (x : BitVec 2) : Nat := if x = 0 then 8 else if x = 1 then 6 else 4

/-- What vpack writes (R149). -/
def packed (old a b : VWord) : PackForm → VWord
  | .half ty _ =>
    BitVec.ofNat 256 (ofFields 16 (fun e =>
      let v := if e < 8 then a else b
      if ty = .i16 then wrapN 16 (clampS 16 (laneInt v (e % 8))) else (lane v (e % 8)).toNat) 16)
  | .byte uns q => putGroup old 8 q.toNat fun i =>
      if uns then (max 0 (min 255 (laneInt a i))).toNat else wrapN 8 (clampS 8 (laneInt a i))
  | .raw w q => putGroup old (rawW w) q.toNat fun i => (lane a i).toNat

/-- vpack: short, without a predicate (R149). -/
def execVpack (d a b : VReg) (f : PackForm) (s : State) : Out :=
  .next (s.wV d (packed (s.ctx.rV d) (s.rV a) (s.rV b) f))

/-- What lane `i` of vunpk takes (R150). -/
def unpacked (a : VWord) (i : Nat) : PackForm → BitVec 32
  | .half ty h =>
    let x := vfield a 16 (8 * h.toNat + i)
    if ty = .i16 then BitVec.ofInt 32 (eltInt .i16 x) else BitVec.ofNat 32 x
  | .byte uns q =>
    let x := vfield a 8 (8 * q.toNat + i)
    if uns then BitVec.ofNat 32 x else BitVec.ofInt 32 (eltInt .i8 x)
  | .raw w q => BitVec.ofNat 32 (vfield a (rawW w) (8 * q.toNat + i))

/-- vunpk: p governs the lanes (R150; R139's "as vpack" names its types, log 19). -/
def execVunpk (p : PReg) (d a : VReg) (f : PackForm) (s : State) : Out :=
  s.vShort p d fun i => (unpacked (s.rV a) i f, 0)

/-! ## Reductions (R151) -/

/-- The elements of the active lanes in ascending order. -/
def activeElts (w : Nat) (mask : PWord) (v : VWord) : List Nat :=
  (List.range 8).flatMap fun i => if mask.getLsbD i then elts w (lane v i) else []

/-- A left fold that its first element starts, with the flags raised on the way. -/
def foldElts (f : Nat → Nat → Nat × BitVec 5) : List Nat → Option (Nat × BitVec 5)
  | [] => none
  | x :: l => some (l.foldl (fun acc y => let r := f acc.1 y; (r.1, acc.2 ||| r.2)) (x, 0))

/-- A result element as it fills lane 0: an integer of a type extends by its sign. -/
def widenElt (ty : Ty) (x : Nat) : BitVec 32 := if tyIsF ty then BitVec.ofNat 32 x else BitVec.ofInt 32 (eltInt ty x)

/-- The largest and smallest integers of a type, as elements. -/
def maxElt : Ty → Nat
  | .u8 => 255
  | ty => 2 ^ (eltW ty - 1) - 1
def minElt : Ty → Nat
  | .u8 => 0
  | ty => 2 ^ (eltW ty - 1)

/-- Writes a reduction: lane 0 the result, lanes 1 to 7 zero, as a long result of every lane. -/
def State.vReduce (s : State) (d : VReg) (x : BitVec 32) (fl : BitVec 5) : Out :=
  .next (s.longV d 0xFF (x.setWidth 256) fl)

/-- vred.sum (R151). -/
def execVredSum (p : PReg) (d a : VReg) (ty : Ty) (s : State) : Out :=
  let l := activeElts (eltW ty) (s.rP p) (s.rV a)
  if tyIsF ty then
    let f := tyF ty
    let r := (foldElts (fun x y => fadd f s.rm (f.value x) (f.value y)) l).getD (0, 0)
    s.vReduce d (BitVec.ofNat 32 r.1) r.2
  else s.vReduce d (BitVec.ofInt 32 ((l.map (eltInt ty)).sum)) 0

/-- vred.min (R151). -/
def execVredMin (p : PReg) (d a : VReg) (ty : Ty) (s : State) : Out :=
  let l := activeElts (eltW ty) (s.rP p) (s.rV a)
  let r := (foldElts (eltMinMax ty false) l).getD (if tyIsF ty then (tyF ty).infCode else maxElt ty, 0)
  s.vReduce d (widenElt ty r.1) r.2

/-- vred.max (R151). -/
def execVredMax (p : PReg) (d a : VReg) (ty : Ty) (s : State) : Out :=
  let l := activeElts (eltW ty) (s.rP p) (s.rV a)
  let r := (foldElts (eltMinMax ty true) l).getD
    (if tyIsF ty then (tyF ty).signed true (tyF ty).infCode else minElt ty, 0)
  s.vReduce d (widenElt ty r.1) r.2

/-! ## Permutes and moves (R152 to R154) -/

/-- vperm (R152). -/
def execVperm (p : PReg) (d a b : VReg) (s : State) : Out :=
  let ix := fun i => lane (s.rV b) i
  .next (s.wVm d (s.rP p) (ofLanes fun i => if (ix i).getLsbD 31 then 0 else lane (s.rV a) ((ix i).toNat % 8)))

/-- A scalar copied into every element of a lane (R153). -/
def bcastLane (ty : Ty) (x : Word) (i : Nat) : BitVec 32 :=
  match ty with
  | .x => if i % 2 = 0 then x.setWidth 32 else (x >>> 32).setWidth 32
  | ty => BitVec.ofNat 32 (packElts (eltW ty) (List.replicate (32 / eltW ty) x.toNat))

/-- vbcast (R153). -/
def execVbcast (p : PReg) (d : VReg) (ty : Ty) (sr : SReg) (s : State) : Out :=
  .next (s.wVm d (s.rP p) (ofLanes (bcastLane ty (s.rS sr))))

/-- A register with one lane replaced. -/
def setLane (v : VWord) (l : Nat) (x : BitVec 32) : VWord := ofLanes fun i => if i = l then x else lane v i

/-- vmovs: a lane, or a pair of lanes, and a scalar register, in one direction or the other (R154). `dir` false moves from
the vector. -/
def execVmovs (p : PReg) (d a : VReg) (dir : Bool) (ln : BitVec 3) (ty : Ty) (sr : SReg) (s : State) : Out :=
  let l := ln.toNat
  if !(s.rP p).getLsbD l then .next s
  else if dir then
    let x := s.rS sr
    let v := setLane (s.ctx.rV d) l (x.setWidth 32)
    .next (s.wV d (if ty = .x then setLane v (l + 1) ((x >>> 32).setWidth 32) else v))
  else
    let lo := lane (s.rV a) l
    .next (s.wS sr
      (match ty with
        | .x => lane (s.rV a) (l + 1) ++ lo
        | .f32 => lo.setWidth 64
        | _ => lo.signExtend 64))

/-! ## Microscales and classes (R155 to R158) -/

/-- vclass: element 0's mask in bits 9:0, element 1's in bits 25:16 (R155). -/
def execVclass (p : PReg) (d a : VReg) (ty : Ty) (s : State) : Out :=
  s.vShort p d (lanes3 (eltW ty) (s.rV a) (s.rV a) (s.rV a) fun x _ _ => (fclass (tyF ty) x, 0))

/-- A value times 2^k: exact before its rounding. -/
def FVal.scale (v : FVal) (k : Int) : FVal :=
  match v with
  | .fin s m e => .fin s m (e + k)
  | v => v

/-- The E8M0 scale of a lane. -/
def scaleOf (x : BitVec 32) : Nat := x.toNat % 256

/-- One element of vscale (R156). -/
def scaleElt (f : FFmt) (rm : Rm) (e x : Nat) : Nat × BitVec 5 :=
  if e = 255 then (f.genNan, 0)
  else
    match nanResult f [f.value x] with
    | some r => r
    | none => f.deliver rm ((f.value x).scale ((e : Int) - 127))

/-- vscale (R156). -/
def execVscale (p : PReg) (d a b : VReg) (ty : Ty) (s : State) : Out :=
  s.vShort p d fun i =>
    eltOp (eltW ty) (fun x _ _ => scaleElt (tyF ty) s.rm (scaleOf (lane (s.rV b) i)) x) (lane (s.rV a) i) 0 0

/-- emax of a target of the scale step (R157). -/
def quantEmax : CFmt → Int
  | .e4m3 => 8
  | .e5m2 => 15
  | .e3m2 => 4
  | .e2m3 => 2
  | .e2m1 => 2
  | .mxint8 | .f32 | .bf16 | .f16 | .i32 | .i16 | .i8 | .u8 | .aint4 | .aint8 => 0

/-- The running maximum magnitude (R157). -/
def quantMax (acc x : Nat) : Nat :=
  let a := fF32.value acc
  let v := fF32.value x
  if v.isNan || a.isNan then 0x7FC00000
  else
    let ab := x % 2 ^ 31
    if fless a (fF32.value ab) then ab else acc

/-- The E8M0 scale of a maximum (R157). -/
def quantScale (fmt : CFmt) (acc : Nat) : Nat :=
  match fF32.value acc with
  | .nan _ _ _ => 0xFF
  | .inf _ => 0xFF
  | .fin s m e =>
    if m = 0 then 0x7F
    else if s then (Config.scaleOfNegative (BitVec.ofNat 32 acc)).toNat
    else (max 0 (min 254 (e + bitLen m - 1 - quantEmax fmt + 127))).toNat

/-- vquant's scale step: p names the input lanes, and every lane of vd is written (R157). -/
def execVquantS (p : PReg) (d a b : VReg) (fmt : CFmt) (s : State) : Out :=
  let m := (List.range 8).foldl (fun acc i =>
    if (s.rP p).getLsbD i then
      quantMax (quantMax acc (lane (s.rV a) i).toNat) (lane (s.rV b) i).toNat
    else acc) (lane (s.rV d) 0).toNat
  .next (s.longV d 0xFF (BitVec.ofNat 256 (m + quantScale fmt m * 2 ^ 32)) 0)

/-- The element step for a floating-point target (R158). -/
def quantFloat (f : FFmt) (x scale : Nat) : Nat × BitVec 5 :=
  if scale = 255 then (0, 0) else f.deliver .rne ((fF32.value x).scale (127 - (scale : Int)))

/-- The element step for MXINT8 (R158). -/
def quantInt8 (x scale : Nat) : Nat × BitVec 5 :=
  if scale = 255 then (0, 0)
  else
    match fF32.value x with
    | .nan _ _ _ => (0, fNV)
    | .inf s => (if s then 0x80 else 0x7F, fNV)
    | .fin s m e =>
      let r := roundInt .rne s m (e + 133 - scale)
      let n := signedInt s r.1
      (wrapN 8 (clampS 8 n), if clampS 8 n = n then flagIf (!r.2) fNX else fOF ||| fNX)

/-- The quotient x / d of finite values rounded to the nearest integer, ties to even, and whether it is exact. -/
def quotInt (s : Bool) (m : Nat) (e : Int) (n : Nat) (d : Int) : Int × Bool :=
  let q := quot m n
  let x : Int := e - d
  -- enough bits below the units place for the sticky mark
  if x + q.2.1 ≥ 0 then
    let y := m * 2 ^ x.toNat
    let r := roundAt .rne s (y / n * 2 + (if 2 * (y % n) ≥ n then 1 else 0)) (-1) 0 (decide (2 * (y % n) ≠ n ∧ y % n ≠ 0))
    (signedInt s r.1, r.2)
  else
    let r := roundAt .rne s q.1 (x + q.2.1) 0 q.2.2
    (signedInt s r.1, r.2)

/-- The element step for an asymmetric group of width w (R158). -/
def quantGroup (w x dz : Nat) : Nat × BitVec 5 :=
  let z := bitsN dz 16 w
  match fF32.value x, fF16.value (dz % 65536) with
  | .nan _ _ _, _ => (z, fNV)
  | _, .nan _ _ _ => (z, fNV)
  | _, .inf _ => (z, fNV)
  | .inf s, .fin t n _ => if n = 0 then (z, fNV) else (if s = t then 2 ^ w - 1 else 0, fNV)
  | .fin s m e, .fin t n d =>
    if n = 0 then (z, fNV)
    else
      let r := quotInt (s != t) m e n d
      let y := r.1 + z
      if y < 0 then (0, fOF ||| fNX)
      else if y > 2 ^ w - 1 then (2 ^ w - 1, fOF ||| fNX)
      else (y.toNat, flagIf (!r.2) fNX)

/-- The element step of one lane (R158). -/
def quantLane (fmt : CFmt) (x : BitVec 32) (par : VWord) : BitVec 32 × BitVec 5 :=
  let r :=
    match fmt with
    | .mxint8 => quantInt8 x.toNat (scaleOf (lane par 1))
    | .aint4 => quantGroup 4 x.toNat (lane par 0).toNat
    | .aint8 => quantGroup 8 x.toNat (lane par 0).toNat
    | fmt =>
      match cfmtF fmt with
      | some f => quantFloat f x.toNat (scaleOf (lane par 1))
      | none => (0, 0)
  (BitVec.ofNat 32 r.1, r.2)

/-- vquant's element step (R158). -/
def execVquant (p : PReg) (d a b : VReg) (fmt : CFmt) (s : State) : Out :=
  s.vLong p d fun i => quantLane fmt (lane (s.rV a) i) (s.rV b)

/-! ## The sequence guard (R159 fmt R161) -/

/-- The fields of a guard register (R159). -/
structure Guard where
  ctl   : Nat
  n     : Nat
  m     : Nat
  steps : Nat
  bytes : Nat
  fin   : Nat
  base  : Nat
  top   : Nat
  deriving DecidableEq, Repr

def guardOf (v : VWord) : Guard :=
  let l := fun i => (lane v i).toNat
  { ctl := l 0, n := l 1, m := l 2, steps := l 3, bytes := l 4, fin := l 5, base := l 6, top := l 7 }

def Guard.word (g : Guard) : VWord :=
  let w := BitVec.ofNat 32
  w g.top ++ w g.base ++ w g.fin ++ w g.bytes ++ w g.steps ++ w g.m ++ w g.n ++ w g.ctl

def Guard.len (g : Guard) : Nat := bitsN g.ctl 0 6
def Guard.mode (g : Guard) : Nat := bitsN g.ctl 8 2
def Guard.excl (g : Guard) : Bool := bitsN g.ctl 12 1 == 1
def Guard.done (g : Guard) : Bool := bitsN g.ctl 16 1 == 1
def Guard.broken (g : Guard) : Bool := bitsN g.ctl 17 1 == 1
def Guard.bad (g : Guard) : Bool := bitsN g.ctl 18 1 == 1
def Guard.setDone (g : Guard) : Guard := if g.done then g else { g with ctl := g.ctl + 2 ^ 16 }
def Guard.setBroken (g : Guard) : Guard := if g.broken then g else { g with ctl := g.ctl + 2 ^ 17 }
def Guard.setBad (g : Guard) : Guard := if g.bad then g else { g with ctl := g.ctl + 2 ^ 18 }

/-- A register that a step finds invalid (R159). -/
def Guard.invalid (g : Guard) : Bool :=
  bitsN g.ctl 19 13 != 0 || bitsN g.ctl 13 3 != 0 || bitsN g.ctl 10 2 != 0 || bitsN g.ctl 6 2 != 0 || g.top != 0 ||
  g.mode == 3 || g.len == 0 || decide (g.len > (if g.mode = 0 then 32 else 8)) ||
  decide (g.m > (if g.mode = 2 then g.len else g.len - 1)) || decide (g.n > 32)

/-- A counter modulo 2^32 (R160). -/
def cnt32 (x : Nat) : Nat := x % 2 ^ 32

/-- The longest prefix of `pat` of at most `k` items that ends the history `h` (R160). -/
def longestMatch (h pat : List Nat) : Nat → Nat
  | 0 => 0
  | k + 1 => if h.drop (h.length - (k + 1)) = pat.take (k + 1) then k + 1 else longestMatch h pat k

/-- advance (R160). -/
def guardAdvance (m c : Nat) (pat : List Nat) (cap : Nat) : Nat := longestMatch (pat.take m ++ [c]) pat (min (m + 1) cap)

/-- The bytes and the ids of a register. -/
def vbytes (v : VWord) : List Nat := (List.range 32).map (vfield v 8)
def vids (v : VWord) : List Nat := (List.range 8).map (vfield v 32)

/-- Pattern id `k`; a register has eight (log 17). -/
def patId (v : VWord) (k : Nat) : Nat := if k < 8 then vfield v 32 k else (Config.patternLane8 v).toNat

/-- The stop loop over the token's bytes from byte `j` on (R160). -/
def stopLoop (g : Guard) (pat : List Nat) : List Nat → Nat → Guard
  | [], _ => g
  | c :: l, j =>
    let m := guardAdvance g.m c pat g.len
    if m = g.len then
      let e := g.bytes + j + 1
      { g with m := m, fin := cnt32 (if g.excl then e + 2 ^ 32 - g.len else e) }.setDone
    else stopLoop { g with m := m } pat l (j + 1)

/-- One step of a guard (R160). -/
def guardStep (st pat tok : VWord) : VWord :=
  let g := guardOf st
  if g.done || g.bad then st
  else if g.invalid then g.setBad.word
  else
    let g := { g with steps := cnt32 (g.steps + 1) }
    if g.mode = 0 then
      let r := stopLoop g ((vbytes pat).take 32) ((vbytes tok).take g.n) 0
      ({ r with bytes := cnt32 (g.bytes + g.n) }).word
    else
      let c := vfield tok 32 0
      if g.mode = 1 then
        let g := if g.m = g.len - 1 ∧ c = patId pat (g.len - 1) then g.setBroken else g
        ({ g with m := guardAdvance g.m c (vids pat) (g.len - 1) }).word
      else if g.broken then g.word
      else
        let g := if c = patId pat g.m then { g with m := cnt32 (g.m + 1) } else g.setBroken
        (if g.m = g.len then { g with fin := g.steps }.setDone else g).word

/-- vgstep: a long result of every lane (R160). -/
def execVgstep (d a b : VReg) (s : State) : Out :=
  .next (s.longV d 0xFF (guardStep (s.rV d) (s.rV a) (s.rV b)) 0)

/-- Whether a guard forbids an id (R161). -/
def guardForbids (g : Guard) (pat : VWord) (id : Nat) : Bool :=
  if g.mode = 1 then decide (g.m = g.len - 1) && decide (id = patId pat (g.len - 1))
  else g.mode == 2 && !g.done && !g.broken && decide (id ≠ patId pat g.m)

/-- vgmask: −infinity for the ids that the guard forbids; a stop guard or an invalid one changes nothing (R161). -/
def execVgmask (p : PReg) (d a b : VReg) (s : State) : Out :=
  let g := guardOf (s.rV a)
  if g.mode = 0 || g.invalid then .next s
  else
    let hit := ofBits fun i => (s.rP p).getLsbD i && guardForbids g (s.rV b) (cnt32 (g.base + i))
    .next (s.wVm d hit (ofLanes fun _ => 0xFF800000))

end Sys2Proof.Machine
end

