-- ==== Sys2Proof/Machine/Convert.lean ====
section
/-!
DEFINITION. The arithmetic of converters and adders: MX and block-integer expansion (R55 to R57), plane and scale tokens (R268),
element conversion (R269), and the sums of adder elements (R396).
-/
namespace Sys2Proof.Machine

/-! ## MX elements (R49 to R51, R55) -/

/-- The exponent of an MX format's expansion, and its exact planes. -/
def mxShift (f : CFmt) : Nat :=
  match f with
  | .e2m3 => 3
  | .e3m2 => 4
  | .e2m1 => 1
  | .mxint8 | .i8 => 6
  | .e4m3 => 9
  | .e5m2 => 16
  | _ => 0
def mxPlanes (f : CFmt) : Nat :=
  match f with
  | .e2m3 => 7
  | .e3m2 => 10
  | .e2m1 => 5
  | .e4m3 => 19
  | .e5m2 => 33
  | _ => 8

/-- An element as a value: an MXINT8 element is its integer over 2^6. -/
def mxValue (f : CFmt) (x : Nat) : FVal :=
  match cfmtF f with
  | some g => g.value x
  | none =>
    let n := cvtInt .i8 x
    .fin (decide (n < 0)) n.natAbs (-6)

/-- The exact integer of an element: its value times 2^f. -/
def mxInt (f : CFmt) (x : Nat) : Int :=
  match mxValue f x with
  | .fin s m e => signedInt s (m * 2 ^ (e + mxShift f).toNat)
  | .nan _ _ _ | .inf _ => 0

/-- Rounds an exact quotient half to even and saturates it to p planes (R56). -/
def reduceTo (p s : Nat) (n : Int) : Int :=
  let r := (roundInt .rne (decide (n < 0)) n.natAbs (-(s : Int))).1
  let lim : Nat := 2 ^ (p - 1) - 1
  signedInt (decide (n < 0)) (min r lim)

/-- A block in planes: an integer per element, the exponent, and the marks. -/
structure Block where
  q    : List Int
  bexp : Int
  nan  : Bool
  infm : Nat
  deriving DecidableEq, Repr

/-- The infinity marks of a list of values. -/
def infMarks (l : List FVal) : Nat := (l.zipIdx.map fun v => if v.1.isInf then 2 ^ v.2 else 0).sum

/-- The integer of an infinite element at p planes: the sign plane alone (R54). -/
def infInt (p : Nat) (s : Bool) : Int := if s then -(2 ^ (p - 1) : Int) else 0

/-- Expands an MX block to p planes (R55, R56). -/
def mxBlock (f : CFmt) (scale p : Nat) (codes : List Nat) : Block :=
  let vs := codes.map (mxValue f)
  let s := mxPlanes f - p
  let one (x : Nat) : Int :=
    match mxValue f x with
    | .nan _ _ _ => 0
    | .inf t => infInt p t
    | .fin _ _ _ => if p < mxPlanes f then reduceTo p s (mxInt f x) else mxInt f x
  { q := if scale = 0xFF then codes.map fun _ => 0 else codes.map one
    bexp := (scale : Int) - 127 - mxShift f + s
    nan := scale == 0xFF || vs.any FVal.isNan
    infm := if scale = 0xFF then 0 else infMarks vs }

/-- The unbiased exponent of a nonzero finite value of a format (R57). -/
def effExp (g : FFmt) : FVal → Option Int
  | .fin _ m e => if m = 0 then none else some (e + g.mb)
  | .nan _ _ _ | .inf _ => none

/-- to_block_integer (R57). -/
def bintBlock (g : FFmt) (p : Nat) (codes : List Nat) : Block :=
  let vs := codes.map g.value
  let es := vs.filterMap (effExp g)
  let e := match es with
    | [] => 0
    | x :: l => l.foldl max x
  let lim : Nat := 2 ^ (p - 1) - 1
  let one (v : FVal) : Int :=
    match v with
    | .nan _ _ _ => 0
    | .inf t => infInt p t
    | .fin s m d => signedInt s (min (roundInt .rne s m (d + p - 2 - e)).1 lim)
  { q := vs.map one, bexp := e - p + 2, nan := vs.any FVal.isNan, infm := infMarks vs }

/-! ## Tokens (R51, R263, R267 to R269) -/

/-- The element type that a source takes. -/
def ConvFrom.etype : ConvFrom → Nat
  | .mx _ => 7
  | .plain .f32 => 1
  | .plain .bf16 => 2
  | .plain .f16 => 3
  | .plain _ => 9

/-- The values of one firing. -/
def firingSize (src : ConvFrom) (dst : ConvTo) : Nat :=
  match src, dst with
  | .plain _, .elem _ => 16
  | .plain _, .planes | .plain _, .bint | .mx _, _ => 32

/-- The packed codes of width `w` in a payload. -/
def packedCodes (pay : VWord) (w n : Nat) : List Nat := (List.range n).map fun i => bitsN pay.toNat (w * i) w

/-- The codes that a token brings; none when its etype or len does not match (R267). A token without a stop brings eight
elements (R263, log 28). -/
def tokenCodes (src : ConvFrom) (f : Flit) : Option (List Nat) :=
  let n := hLen f.hdr + 1
  if hEtype f.hdr ≠ src.etype then none
  else
    match src with
    | .mx g =>
      let cnt := bitsN (hKs f.hdr) 8 5 + 1
      if n = (cnt * mxWidth g + 31) / 32 then some (packedCodes f.pay (mxWidth g) cnt) else none
    | .plain g =>
      if n ≠ 8 ∧ hStop f.hdr = 0 then none
      else
        match g with
        | .f32 => some (packedCodes f.pay 32 n)
        | .bf16 | .f16 => some (packedCodes f.pay 16 (2 * n))
        | _ => some (packedCodes f.pay 8 (4 * n))

/-- Plane `j` of a block as 32 bits. -/
def planeWord (b : Block) (j : Nat) : Nat :=
  (b.q.zipIdx.map fun x => if (x.1 / 2 ^ j) % 2 = 1 then 2 ^ x.2 else 0).sum

/-- The scale word (R54). -/
def scaleWord (b : Block) : Nat := b.infm + (b.bexp % 65536).toNat * 2 ^ 32 + b.nan.toNat * 2 ^ 48

/-- The row and the K block within it of block `n`, and the blocks per row, by a layout; rows stop at the 1,023 that a header
can hold (R268). -/
def planePlace (off n : Nat) : Nat × Nat × Nat :=
  (min (planeRow off + n / planeNb off) 1023, n % planeNb off, planeNb off)

/-- The tokens of one plane-forming firing (R268). -/
def planeTokens (route p off n stop : Nat) (b : Block) : List Flit :=
  let pl := planePlace off n
  let len := if pl.2.1 + 1 = pl.2.2 then 3 - pl.2.1 % 4 else 0
  ((List.range p).map fun j =>
    { hdr := mkHdr 0 len 0 route 0 pl.2.1 8 (pl.1 * 16 + j), pay := BitVec.ofNat 256 (planeWord b j) }) ++
  [{ hdr := mkHdr 0 1 stop route 0 (32768 + pl.2.1) 8 (pl.1 * 16), pay := BitVec.ofNat 256 (scaleWord b) }]

/-- One value converted to its target, rounded once to nearest even (R269). -/
def convElem (src : ConvFrom) (g : FFmt) (scale x : Nat) : Nat :=
  match src with
  | .mx f =>
    if scale = 0xFF then g.genNan
    else
      match mxValue f x with
      | .fin s m e => (g.deliver .rne (.fin s m (e + scale - 127))).1
      | v => (g.deliver .rne v).1
  | .plain f =>
    match cfmtF f with
    | some h => (g.deliver .rne (h.value x)).1
    | none => 0

/-- The element type of a converted token. -/
def elemEtype (f : CFmt) : Nat :=
  match f with
  | .bf16 => 2
  | .f16 => 3
  | _ => 1

/-- Results cut into tokens of at most eight elements; the last carries the stop. -/
def elemTokens (route et w stop : Nat) : Nat → List Nat → List Flit
  | 0, _ => []
  | k + 1, l =>
    let per := 256 / w
    let c := l.take per
    let rest := l.drop per
    let n := (c.length * w + 31) / 32
    { hdr := mkHdr 0 (n - 1) (if rest = [] then stop else 0) route 0 0 et 0
      pay := BitVec.ofNat 256 ((c.zipIdx.map fun x => x.1 * 2 ^ (w * x.2)).sum) } ::
    (if rest = [] then [] else elemTokens route et w stop k rest)

/-- The tokens of one firing. -/
def Conv.fire (c : Conv) (off scale stop : Nat) (codes : List Nat) : List Flit :=
  match c.dst with
  | .elem f =>
    let g := (cfmtF f).getD fF32
    elemTokens c.route (elemEtype f) g.width stop 8 (codes.map (convElem c.src g scale))
  | .planes | .bint =>
    match c.src with
    | .mx f => planeTokens c.route c.planes off c.blkn stop (mxBlock f scale c.planes codes)
    | .plain f => planeTokens c.route c.planes off c.blkn stop (bintBlock ((cfmtF f).getD fBF16) c.planes codes)

/-- Whether a converter's block ends with a token of a source: an mxblk is a block of its own, whole or partial (R49, R51); other blocks
end when they are full or with a stop (R267). -/
def blockEnds (src : ConvFrom) (dst : ConvTo) (n stop : Nat) : Bool :=
  match src with
  | .mx _ => true
  | .plain _ => stop != 0 || decide (firingSize src dst ≤ n)

/-- A converter takes one token: it fires when the token ends its block (R267); none when the token does not match. -/
def Conv.take (c : Conv) (off : Nat) (f : Flit) : Option Conv :=
  match tokenCodes c.src f with
  | none => none
  | some xs =>
    let vals := c.vals ++ xs.map (BitVec.ofNat 32)
    let c1 := { c with inq := c.inq.drop 1, count := c.count + 1 }
    if blockEnds c.src c.dst vals.length (hStop f.hdr) = false then some { c1 with vals := vals }
    else
      some { c1 with vals := [], blkn := c.blkn + 1
                     outq := c.outq ++ c.fire off (bitsN (hKs f.hdr) 0 8) (hStop f.hdr) (vals.map BitVec.toNat) }

/-! ## Adders (R396) -/

/-- The sum of two elements: FP32, or two BF16 halves. -/
def addElem (et : Nat) (a b : BitVec 32) : BitVec 32 :=
  if et = 1 then BitVec.ofNat 32 (fadd fF32 .rne (fF32.value a.toNat) (fF32.value b.toNat)).1
  else
    let h (i : Nat) : Nat :=
      (fadd fBF16 .rne (fBF16.value (bitsN a.toNat (16 * i) 16)) (fBF16.value (bitsN b.toNat (16 * i) 16))).1
    BitVec.ofNat 32 (h 0 + h 1 * 65536)

/-- The sums of the elements of two tokens of one type and length. -/
def sumPay (u l : Flit) : VWord :=
  ofLanes fun i => if i ≤ hLen u.hdr then addElem (hEtype u.hdr) (lane u.pay i) (lane l.pay i) else 0

/-- The token of a pair; none when the two do not match, or their type is not summed. -/
def addFlits (u l : Flit) : Option Flit :=
  if hEtype u.hdr = hEtype l.hdr ∧ hLen u.hdr = hLen l.hdr ∧ hStop u.hdr = hStop l.hdr ∧
      (hEtype u.hdr = 1 ∨ hEtype u.hdr = 2) then
    some { hdr := u.hdr, pay := sumPay u l }
  else none

end Sys2Proof.Machine
end

