-- ==== Sys2Proof/Machine/Transfer.lean ====
section
/-!
DEFINITION. The transfer units: how commands enter ports and start (R194, R258 to R260, R273), their accesses with stalls and
faults (R198, R277, R310, R314), the bytes that they move and count (R196, R198), via transfers (R262 to R265), and how they
end (R198, R275, R276), with the update units of sync words (R270, R271).
-/
namespace Sys2Proof.Machine

/-! ## Faults of a transfer (R198, R277, R314) -/

/-- The field whose fault unit takes a transfer's faults: its region's origin, or its block's own (R237, R309). -/
def State.xferField (s : State) (x : Xfer) : Nat := s.originField x.gid (x.blk / 8)

def Xfer.xid (x : Xfer) : Nat := bits (x.w.getD 0 0) 0 16

/-- A record about a transfer (R308): class 4. -/
def State.xferRec (s : State) (x : Xfer) (cause : BitVec 8) (va : Nat) : FRec :=
  { cause := cause, route := x.route, sub := x.port, unit := recUnit x.blk 4 0, va := wd va, pos := wd x.xid
    time := s.ctime x.blk }

/-- A transfer leaves its port. -/
def State.leavePort (s : State) (id : Nat) (x : Xfer) : State :=
  s.modXport (4 * x.blk + x.port) fun p => { p with q := p.q.filter (· ≠ id) }

/-- A fault ends a transfer: what it has written stays (R198). -/
def State.endXfer (s : State) (id : Nat) (x : Xfer) (cause : BitVec 8) (va : Nat) : State :=
  ((s.modXfer id fun y => { y with xst := cause, phase := .moved, far := .idle, farbuf := [], want := none }).leavePort id x).addNotice
    (s.xferField x) (s.xferRec x cause va)

/-- PAGE_NP stalls a transfer with a future entry; with none free it stays stalled until it gets one (R310, R311, R314). -/
def State.stallXfer (s : State) (id : Nat) (x : Xfer) (va : Nat) : State :=
  let f := s.xferField x
  match s.takeFut f 4 (.xfer id) (wd va) [] (s.xferRec x cPAGE_NP va) with
  | some s1 => s1.modXfer id fun y => { y with stall := some f, want := none }
  | none => s.modXfer id fun y => { y with want := some va }

/-- Whether a transfer is stalled. -/
def Xfer.held (x : Xfer) : Bool := x.stall.isSome || x.want.isSome

/-! ## Accesses (R301, R302) -/

/-- A port has met the end of its walk. -/
def State.clearWalk (s : State) (xp : Nat) : State := s.modXport xp fun p => { p with walked := none }

/-- A port's walk of the page of an address was met before. -/
def State.clearWalkOf (s : State) (xp va : Nat) : State :=
  match (s.xport xp).walked with
  | some (a, _, _) => if a / 65536 = va / 65536 then s.clearWalk xp else s
  | none => s

/-- How a request port translates an address, with the rights of user privilege. -/
def State.xportXl (s : State) (xp va : Nat) (wr : Bool) : Xl :=
  if va ≥ 2 ^ 52 then .bad cPAGE_NP
  else
    s.xlate [(s.xport xp).tlb, (s.blk (xp / 4)).tlb] (s.xport xp).walked va
      { rd := !wr, wr := wr, ex := false, sv := false }

/-- Runs `k` with a translation of a transfer's access: a walk, a stall or an end otherwise. -/
def State.xAcc (s : State) (id : Nat) (x : Xfer) (va : Nat) (wr : Bool) (k : State → Phys → State) : State :=
  let xp := 4 * x.blk + x.port
  match s.xportXl xp va wr with
  | .ok p => k (s.clearWalkOf xp va) p
  | .miss => s.startWalk x.blk va (if wr then .write else .read) (.xport xp)
  | .bad c => if c = cPAGE_NP then (s.clearWalk xp).stallXfer id x va else (s.clearWalk xp).endXfer id x c va

/-- Asks for a piece of a transfer's source in another device's memory, once (R338). -/
def State.askXfer (s : State) (id : Nat) (x : Xfer) (dev va : Nat) : List Nat → State
  | [] => s
  | a :: l =>
    if x.farbuf.any fun e => e.1 == dev && e.2.1 == a then s.askXfer id x dev va l
    else
      match s.sendPacket dev 0 (some (.xpart id dev a))
          [{ hdr := mkHdr 4 0 0 0 0 0 0 (s.fresh % 2 ^ 14), pay := Config.memReqPayload a 32 0 0 }] with
      | some s1 => ((s1.next).modXfer id fun y => { y with farbuf := y.farbuf ++ [(dev, a, none)] }).askXfer id x dev va l
      | none => s.endXfer id x cLINK_LOST va

/-- Reads the parts of a transfer's source: runs `k` with the bytes. -/
def State.xParts (s : State) (id : Nat) (x : Xfer) : List (Nat × Nat) → List Byte → (State → List Byte → State) → State
  | [], acc, k => k s acc
  | (va, n) :: l, acc, k => s.xAcc id x va false fun s p =>
    match p.home with
    | .remote dev =>
      (match farBytes x.farbuf dev p n with
        | some bs => s.xParts id x l (acc ++ bs) k
        | none => s.askXfer id x dev va (piecesOf p n))
    | .dram | .aperture | .regs | .host => s.edge p fun s => s.xParts id x l (acc ++ s.spanRead p n) k

/-- A write of a transfer: runs `k` when it has been performed here, or asks another device for it (R198, R338). -/
def State.xWrite (s : State) (id : Nat) (x : Xfer) (dst : End) (at_ : Nat) (bs : List Byte) (last : Bool) (k : State → State) : State :=
  match dst with
  | .tile t _ => s.edge { pa := sramAddr t at_, home := .aperture, sw := false } fun s => k (s.sramWrite t at_ bs)
  | .mem _ => s.xAcc id x at_ true fun s p =>
    match p.home with
    | .remote dev =>
      (match (s.watchWord p.sw at_).sendPacket dev 0 (some (.xfer id))
          [{ hdr := mkHdr 4 0 0 0 0 0 0 (s.fresh % 2 ^ 14)
             pay := Config.memReqPayload p.wire bs.length 1 (BitVec.ofNat 256 (leNat bs)) }] with
        | some s1 => s1.next.modXfer id fun y => { y with far := .writing, closed := y.closed || last }
        | none => s.endXfer id x cLINK_LOST at_)
    | .dram | .aperture | .regs | .host => s.edge p fun s => k (s.spanWrite none none p at_ bs)

/-! ## Completion sync words (R198, R270) -/

/-- Where a completion sync word lies once it is translated: its place and its address. -/
inductive SyncAt where
  | none
  | here (p : Phys) (va : Nat)
  | there (dev : Nat) (p : Phys) (va : Nat)
  deriving DecidableEq, Repr

/-- Runs `k` with the place of a command's completion sync word, which is translated before the bytes it counts are written. -/
def State.withSync (s : State) (id : Nat) (x : Xfer) (c : Cmd) (k : State → SyncAt → State) : State :=
  match c.csync with
  | none => k s .none
  | some (.tile t off) => k s (.here { pa := sramAddr t off, home := .aperture, sw := false } 0)
  | some (.mem va) => s.xAcc id x va true fun s p =>
    match p.home with
    | .remote dev => k s (.there dev p va)
    | .dram | .aperture | .regs | .host => k s (.here p va)

/-- Raises the byte count of a transfer's sync word, in a cycle of the word's update unit or by a request to another device, of form 4
(R198, R270, R360; log 10). The transfer knows of a count that has not risen yet; with no live path it ends with LINK_LOST. -/
def State.raiseSync (s : State) (id : Nat) (x : Xfer) (a : SyncAt) (n : Nat) : State :=
  match a with
  | .none => s
  | .here p va => ((s.watchWord p.sw va).syncLand p.pa n 0 [.xfer id]).modXfer id fun y => { y with counts := y.counts + 1 }
  | .there dev p va =>
    match (s.watchWord p.sw va).sendPacket dev 0 (some (.count id))
        [{ hdr := mkHdr 4 0 0 0 0 0 0 (s.fresh % 2 ^ 14), pay := Config.memReqPayload p.wire 16 4 (BitVec.ofNat 256 n) }] with
    | some s1 => s1.next.modXfer id fun y => { y with counts := y.counts + 1 }
    | none => s.endXfer id x cLINK_LOST va

/-! ## Entry (R194, R195, R258 to R260) -/

/-- A command from a command route that breaks a rule, or meets a fault on its block: discarded, with a record of its region
(R194, R195). -/
def State.discardCmd (s : State) (xp i : Nat) (a : Arriving) (cause : BitVec 8) (va : Nat) : State :=
  (s.modXport xp fun p => { p with arr := p.arr.eraseIdx i, walked := none }).addNotice (s.originField (some a.gid) (xp / 32))
    { cause := cause, route := a.route, sub := xp % 4, unit := recUnit (xp / 4) 4 0, va := wd va
      pos := wd (bits (a.w.getD 0 0) 0 16), time := s.ctime (xp / 4) }

/-- Changes the i-th arriving command of a port. -/
def State.modArr (s : State) (xp i : Nat) (f : Arriving → Arriving) : State :=
  s.modXport xp fun p => { p with arr := p.arr.modify i f }

/-- A PAGE_NP on a command's block holds it at its port with a future entry, or until it gets one (R195, R311, R314). -/
def State.stallCmd (s : State) (xp i : Nat) (a : Arriving) (va : Nat) : State :=
  let f := s.originField (some a.gid) (xp / 32)
  match (s.clearWalk xp).takeFut f 4 (.cmd xp) (wd va) []
      { cause := cPAGE_NP, route := a.route, sub := xp % 4, unit := recUnit (xp / 4) 4 0, va := wd va
        pos := wd (bits (a.w.getD 0 0) 0 16), time := s.ctime (xp / 4) } with
  | some s1 => s1.modArr xp i fun y => { y with stall := some f, want := none }
  | none => (s.clearWalk xp).modArr xp i fun y => { y with want := some va }

/-- Asks for the pieces of a command's block in another device's memory. -/
def State.askCmd (s : State) (xp i : Nat) (a : Arriving) (dev va : Nat) : List Nat → State
  | [] => s
  | p :: l =>
    if a.farbuf.any fun e => e.1 == dev && e.2.1 == p then s.askCmd xp i a dev va l
    else
      match s.sendPacket dev 0 (some (.cmd xp dev p))
          [{ hdr := mkHdr 4 0 0 0 0 0 0 (s.fresh % 2 ^ 14), pay := Config.memReqPayload p 32 0 0 }] with
      | some s1 => ((s1.next).modArr xp i fun y => { y with farbuf := y.farbuf ++ [(dev, p, none)] }).askCmd xp i a dev va l
      | none => s.discardCmd xp i a cLINK_LOST va

/-- Reads the parts of a command's block. -/
def State.cmdParts (s : State) (xp i : Nat) (a : Arriving) : List (Nat × Nat) → List Byte → (State → List Byte → State) →
    State
  | [], acc, k => k s acc
  | (va, n) :: l, acc, k =>
    match s.xportXl xp va false with
    | .miss => s.startWalk (xp / 4) va .read (.xport xp)
    | .bad c => if c = cPAGE_NP then s.stallCmd xp i a va else s.discardCmd xp i a c va
    | .ok p =>
      match p.home with
      | .remote dev =>
        (match farBytes a.farbuf dev p n with
          | some bs => (s.clearWalkOf xp va).cmdParts xp i a l (acc ++ bs) k
          | none => s.askCmd xp i a dev va (piecesOf p n))
      | .dram | .aperture | .regs | .host =>
        s.edge p fun s => (s.clearWalkOf xp va).cmdParts xp i a l (acc ++ s.spanRead p n) k

/-- The checks of an arriving command whose block has been read: discarded, held while the port is full or its turn has not come, BUSY
while the table has too few free entries, or queued (R194, R258, R260). -/
def State.enterCmd (s : State) (xp i : Nat) (a : Arriving) (pb : List Word) : State :=
  let b := xp / 4
  match cmdOf a.w pb with
  | none => s.discardCmd xp i a cUND 0
  | some c =>
    if c.cmode ≥ 2 || !s.cmdFits b c || !s.gateMapped c then s.discardCmd xp i a cUND 0
    else if (s.xport xp).q.length ≥ 16 then s
    else if s.lockRoom < (c.lockRanges (s.entriesOf c)).length then
      s.next.modArr xp i fun y => { y with busy := true, place := s.fresh }
    else (s.modXport xp fun p => { p with arr := p.arr.eraseIdx i }).takeCmd b (xp % 4) none a.route (some a.gid) a.w pb c

/-- Tries the i-th arriving command of a port: its words first, then its block (R304). -/
def State.tryCmd (s : State) (xp i : Nat) (a : Arriving) : State :=
  let w0 := a.w.getD 0 0
  if !s.wordsOk (xp / 4) a.w then s.discardCmd xp i a cUND 0
  else if cmdPb w0 then
    s.cmdParts xp i a (pageParts (a.w.getD 3 0).toNat (pbLen (cmdKind w0))) [] fun s bs => s.enterCmd xp i a (wordsOf 11 bs)
  else s.enterCmd xp i a []

/-- A command that waits for a future entry asks for one again (R311). -/
def State.wantCmd (s : State) (xp : Nat) : State :=
  let arr := (s.xport xp).arr
  match arr.findIdx? fun a => a.want.isSome with
  | none => s
  | some i =>
    match arr[i]? with
    | none => s
    | some a => s.stallCmd xp i a (a.want.getD 0)

/-- Whether a port may take a command that reached it at time `ns` in the present cycle: it takes one in each, in the device's order
(R258, R260). -/
def State.entryTurn (s : State) (xp ns : Nat) : Bool :=
  decide ((s.xport xp).from_ ≤ (s.blk (xp / 4)).cyc) && s.lockTurn (xp / 4) (xp % 4) ns

/-- A command from a command route enters its port (R194, R258): a stalled command holds the port. -/
def execCommandEntry (blk port : Nat) (s : State) : Out :=
  let xp := 4 * blk + port % 4
  let arr := (s.xport xp).arr
  if s.portsGone blk then .next s
  else if (s.xport xp).held then .next (s.wantCmd xp)
  else
    match nextArr arr with
    | none => .next s
    | some i =>
      match arr[i]? with
      | none => .next s
      | some a => if s.entryTurn xp a.ns then .next (s.tryCmd xp i a) else .next s

/-- The command of a port that was found BUSY before the others. -/
def firstBusy (arr : List Arriving) : Option Nat :=
  (List.range arr.length).foldl (fun best i =>
    match arr[i]?, best.bind fun j => arr[j]? with
    | some a, some b => if a.busy && decide (a.place < b.place) then some i else best
    | some a, none => if a.busy then some i else best
    | none, _ => best) none

/-- A command that found too few free range-lock entries is tried again, at its own place in the order (R260). -/
def execBusyRetry (blk port : Nat) (s : State) : Out :=
  let xp := 4 * blk + port % 4
  let arr := (s.xport xp).arr
  if (s.xport xp).held then .next s
  else
    match firstBusy arr with
    | none => .next s
    | some i =>
      match arr[i]? with
      | none => .next s
      | some a =>
        let s1 := s.modArr xp i fun y => { y with busy := false }
        if (s.xport xp).from_ ≤ (s.blk blk).cyc then .next (s1.tryCmd xp i { a with busy := false }) else .next s1

/-! ## Gates and starts (R194, R197, R262, R273, R362) -/

/-- The command of a transfer. -/
def Xfer.cmd (x : Xfer) : Option Cmd := cmdOf x.w x.pb

/-- The transfer at the head of a port, with its command. -/
def State.portXfer (s : State) (xp : Nat) : Option (Nat × Xfer × Cmd) :=
  match (s.xport xp).q.head? with
  | none => none
  | some id =>
    match s.xfer id with
    | none => none
    | some x => if x.held then none else (x.cmd).map fun c => (id, x, c)

/-- A gate word has been read: the transfer passes when the generation has been reached; otherwise it will read again. -/
def State.gateRead (s : State) (id ggen : Nat) (x : Nat) : State :=
  if genReached (syncOf x).gen ggen then s.modXfer id fun y => { y with phase := .opened, farbuf := [] }
  else s.modXfer id fun y => { y with farbuf := [] }

/-- The gate of the transfer at the head of a port is read (R272, R273). -/
def execGateOpen (blk port : Nat) (s : State) : Out :=
  let xp := 4 * blk + port % 4
  match s.portXfer xp with
  | none => .next s
  | some (id, x, c) =>
    if x.phase = .queued ∧ c.gate = true then
      match c.gsync with
      | none => .next s
      | some (.tile t off) => .next (s.gateRead id c.ggen (s.sramRead t off 16))
      | some (.mem va) => .next (s.xParts id x [(va, 16)] [] fun s bs => s.gateRead id c.ggen (leNat bs))
    else .next s

/-- Every block has acknowledged a transfer's entries once the accesses that passed their check before are performed (R197). -/
def State.acked (s : State) (id : Nat) : Bool :=
  let ls := s.dev.locks.filter fun l => decide (l.id = id)
  ls.isEmpty || ls.all fun l => s.settled l.lo (l.hi - l.lo)

/-- The routes that a via subgraph reaches, with its graph; the route that ends in the destination tile (R262). -/
def State.viaPath (s : State) (b : Nat) (c : Cmd) : Option (Nat × List Nat × Nat) :=
  match s.viaRoute b c.via with
  | none => none
  | some (gid, g, x, _) =>
    let reach := viaReach x x.routes.length [c.via]
    ((x.routes.find? fun r => reach.contains r.num && r.dsts.any fun d =>
      match d.2, c.dst with
      | .sram k, .tile t _ => g.place.getD k 0xFFFF == t
      | _, _ => false).map fun r => (gid, reach, r.num))

/-- Whether an earlier via transfer on a graph's route, from any port, has not finished: one that entered its port before, be it running,
gated or queued (R262). -/
def State.viaBusy (s : State) (id gid via : Nat) : Bool :=
  s.dev.xfers.any fun e =>
    match e.2 with
    | none => false
    | some y => decide (e.1 < id) && y.phase != .moved && y.phase != .ended && bits (y.w.getD 0 0) 44 12 == via &&
        (((y.cmd.bind fun c => s.viaOf y.blk c).map Via.gid) == some gid)

/-- Whether the destination tile still waits for the stop of an earlier via transfer that a fault has ended (R262, log 97). -/
def State.viaOpen (s : State) (c : Cmd) (last : Nat) : Bool :=
  match c.dst with
  | .mem _ => false
  | .tile t _ => (s.tile t).via.any fun v => v.2.1 == last

/-- A converter of the subgraph takes the destination's layout. -/
def handConv (gid off : Nat) (reach : List Nat) (_c : Nat) (x : Option Conv) : Option Conv :=
  match x with
  | none => none
  | some y => if y.gid = gid ∧ reach.contains y.route = true then some { y with off := some off, blkn := 0 } else some y

/-- The hand-off of a via transfer to the converters and the inbound streamer of its subgraph (R262). -/
def State.handOff (s : State) (id : Nat) (c : Cmd) (gid : Nat) (reach : List Nat) (last : Nat) : State :=
  match c.dst with
  | .mem _ => s
  | .tile t off =>
    (s.modDev fun d => { d with convs := Tab.mapVals none (handConv gid off reach) d.convs }).modTile t fun y =>
      { y with via := y.via ++ [(id, last, off, 0)] }

/-- A pattern-compile transfer starts (R362): at once done when the cache holds its identity, waiting for a pending compile,
held at its port while the queue is full, or queued. -/
def State.startCompile (s : State) (id : Nat) (x : Xfer) (c : Cmd) (t : Nat) : State :=
  if ((s.tile t).cached c.pat).isSome then
    s.withSync id x c fun s a => (s.leavePort id x).modXfer id (fun y => { y with phase := .moved }) |>.raiseSync id x a c.len
  else if (s.blk x.blk).pending t c.pat then
    ((s.modBlk x.blk fun b => b.modComp t c.pat fun k => { k with reqs := k.reqs ++ [.xfer id] }).modXfer id fun y =>
      { y with phase := .running, closed := true }).leavePort id x
  else if (s.blk x.blk).compRoom then
    ((s.queueMem x.blk t c.pat c.src.at_ c.len (.xfer id) none).modXfer id fun y => { y with phase := .running }).leavePort id x
  else s

/-- Starts a transfer. -/
def State.startXfer (s : State) (id : Nat) (x : Xfer) (c : Cmd) : State :=
  match c.kind, c.dst with
  | 6, .tile t _ => s.startCompile id x c t
  | _, _ =>
    if c.via = 0 then s.modXfer id fun y => { y with phase := .running }
    else
      match s.viaPath x.blk c with
      | none => s
      | some (gid, reach, last) =>
        if s.viaBusy id gid c.via || s.viaOpen c last then s
        else (s.handOff id c gid reach last).modXfer id fun y => { y with phase := .running, vgid := some gid }

/-- The transfer at the head of a port starts (R194, R197, R273). -/
def execTransferStart (blk port : Nat) (s : State) : Out :=
  let xp := 4 * blk + port % 4
  match s.portXfer xp with
  | none => .next s
  | some (id, x, c) =>
    if (x.phase = .opened ∨ (x.phase = .queued ∧ c.gate = false)) ∧ s.acked id = true then .next (s.startXfer id x c)
    else .next s

/-! ## Moving bytes (R196, R198) -/

/-- A signed place as an address that a walk or a bank can take. -/
def placeAt (x : Int) : Nat := (BitVec.ofInt 64 x).toNat

/-- The bytes of one write event: within a run and within 32 aligned bytes of the destination, so that it holds whole words (R335). A word
that two runs share is written by an event of each (R197, R335 name none; DESIGN CHOICE, log 51). -/
def chunkLen (rest dst : Nat) : Nat := min rest (32 - dst % 32)

/-- The bytes of a fill's pattern from byte `k` on (R196). -/
def fillBytes (pat : Word) (k : Nat) : Nat → List Byte
  | 0 => []
  | n + 1 => BitVec.ofNat 8 (bits pat (8 * (k % 8)) 8) :: fillBytes pat (k + 1) n

/-- Reads `n` source bytes at a place of a run. -/
def State.xSource (s : State) (id : Nat) (x : Xfer) (c : Cmd) (at_ k n : Nat) (f : State → List Byte → State) : State :=
  if c.kind = 4 then f s (fillBytes c.pat k n)
  else
    match c.src with
    | .mem _ => s.xParts id x (pageParts at_ n) [] f
    | .tile t _ => s.edge { pa := sramAddr t at_, home := .aperture, sw := false } fun s =>
        f s (Memory.read s.mem (sramAddr t at_) n)

/-- The entry of a run of a list; it is read before the run's first byte (R195, R196). -/
def State.withEntry (s : State) (id : Nat) (x : Xfer) (c : Cmd) (i : Nat) (k : State → Int → State) : State :=
  if c.kind = 2 ∨ c.kind = 3 then
    match x.list with
    | e :: _ => k s (sgn e)
    | [] => s.xParts id x [(c.list + 8 * i, 8)] [] fun s bs => s.modXfer id fun y => { y with list := [wd (leNat bs)], farbuf := [] }
  else k s 0

/-- `n` more bytes have been written and are counted; the last byte ends the moving. -/
def State.movedOn (s : State) (id : Nat) (x : Xfer) (c : Cmd) (n : Nat) (a : SyncAt) : State :=
  let pos := x.pos + n
  let s1 := s.modXfer id fun y =>
    { y with pos := pos, farbuf := [], far := .idle, list := if pos % c.len = 0 then [] else y.list
             phase := if pos ≥ c.total then .moved else y.phase }
  (if pos ≥ c.total then s1.leavePort id x else s1).raiseSync id x a n

/-- One write event of a transfer without a via route. A write that another device has performed is counted without another read of its
bytes: with the last one on its way, the source and the list have been read (R261). -/
def State.moveChunk (s : State) (id : Nat) (x : Xfer) (c : Cmd) : State :=
  let i := x.pos / c.len
  let k := x.pos % c.len
  s.withEntry id x c i fun s e =>
    let src := placeAt (c.srcAt i e + k)
    let dst := placeAt (c.dstAt i e + k)
    let n := chunkLen (c.len - k) dst
    s.withSync id x c fun s a =>
      match x.far with
      | .wrote => s.movedOn id x c n a
      | .lost _ => s.endXfer id x cLINK_LOST dst
      | .reading | .writing | .read _ => s
      | .idle =>
        s.xSource id x c src k n fun s bs =>
          s.xWrite id x c.dst dst bs (decide (x.pos + n ≥ c.total)) fun s => s.movedOn id x c n a

/-! ## Tokens of a via transfer (R263, R265) -/

/-- The source pieces of bytes `o` to `o + n - 1` of all runs as one sequence, cut at runs and pages. -/
def seqParts (c : Cmd) : Nat → Nat → Nat → List (Nat × Nat)
  | 0, _, _ => []
  | fuel + 1, o, n =>
    if n = 0 then []
    else
      let i := o / c.len
      let at_ := placeAt (c.srcAt i 0 + (o % c.len : Nat))
      let m := min n (c.len - o % c.len)
      pageParts at_ m ++ seqParts c fuel (o + m) (n - m)

/-- The tokens that a via transfer sends in all. -/
def viaTotal (c : Cmd) (first : Option (ConvFrom × ConvTo × Nat)) : Nat :=
  match first with
  | some (.mx f, _, _) => c.runs * mxBlocks (mxWidth f) c.len
  | some (.plain _, _, _) | none => (c.total + 31) / 32

/-- The pieces that token `j` reads. -/
def viaParts (c : Cmd) (first : Option (ConvFrom × ConvTo × Nat)) (j : Nat) : List (Nat × Nat) :=
  match first with
  | some (.mx f, _, _) =>
    let w := mxWidth f
    let n := mxBlocks w c.len
    let base := c.srcAt (j / n) 0
    let k := j % n
    pageParts (placeAt (base + k)) 1 ++ pageParts (placeAt (base + (32 * ((n + 31) / 32) + 4 * w * k : Nat))) (4 * w)
  | some (.plain _, _, _) | none => seqParts c 33 (32 * j) (min 32 (c.total - 32 * j))

/-- Token `j` from its bytes. -/
def viaToken (c : Cmd) (first : Option (ConvFrom × ConvTo × Nat)) (j : Nat) (bs : List Byte) : Flit :=
  let stop := if j + 1 = viaTotal c first then 1 else 0
  match first with
  | some (.mx f, _, _) =>
    { hdr := mkHdr 0 (mxWidth f - 1) stop c.via 0 0 7 ((bs.headD 0).toNat + 31 * 256), pay := BitVec.ofNat 256 (leNat (bs.drop 1)) }
  | some (src, _, _) =>
    { hdr := mkHdr 0 (bs.length / 4 - 1) stop c.via 0 0 src.etype 0, pay := BitVec.ofNat 256 (leNat bs) }
  | none => { hdr := mkHdr 0 (bs.length / 4 - 1) stop c.via 0 0 9 0, pay := BitVec.ofNat 256 (leNat bs) }

/-- Whether a consumer of a route has room for `n` more tokens beside those on their way (R164, R174, R249). -/
def State.viaRoomAt (s : State) (gid via n : Nat) (g : Graph) (d : RouteTo) : Bool :=
  let held (k : Nat) : Nat := ((s.tile (g.place.getD k 0xFFFF)).inbox.filter fun e => hRoute e.2.hdr == via).length
  match d with
  | .node _ | .xq _ _ =>
    (s.dev.convs.all fun e => match e.2 with
      | none => true
      | some y => y.gid != gid || !y.ins.contains via || decide (y.inq.length + n < 16)) &&
    (s.dev.agens.all fun e => match e.2 with
      | none => true
      | some y => y.gid != gid || !y.ins.contains via || decide (y.inq.length + n ≤ Config.linkDepth))
  | .port k c p _ => decide ((Tab.get [] (s.tcore (4 * g.place.getD k 0xFFFF + c)).ports p).length + held k + n < 4)
  | .ring k r => ((s.ring (g.place.getD k 0xFFFF) r).map fun y => y.fits (recSize 8)).getD true && decide (held k + n = 0)
  | .sram k | .place k _ => decide (held k + n ≤ Config.linkDepth)
  | .lp p => decide ((s.port p).waitq.length + n < 64)
  | .lpAdd p => ((s.adderFor p via).map fun y => decide ((y.input via).length + n ≤ Config.linkDepth)).getD true

/-- Whether the first consumer of a via route has room for a token (R265). -/
def State.viaRoom (s : State) (b gid : Nat) (c : Cmd) : Bool :=
  s.linkRoom (xqRouter b) .inject 0 &&
    match s.viaRoute b c.via with
    | none => true
    | some (_, g, _, r) => r.dsts.all fun d => s.viaRoomAt gid c.via (s.meshCount gid c.via) g d.2

/-- Sends the next token of a via transfer; while its route's first consumer has no room it waits, up to the route's stall limit, which
counts for nothing in a faulted region (R265, R316). -/
def State.sendVia (s : State) (id : Nat) (x : Xfer) (c : Cmd) (v : Via) : State :=
  let r := xqRouter x.blk
  if x.sent ≥ viaTotal c v.first then s
  else if !s.viaRoom x.blk v.gid c then
    if x.waited.getD 0 > s.routeLimit r c.via ∧ s.regionFaulted v.gid = false then s.endXfer id x cSTALL_LIMIT 0
    else s.modXfer id fun y => { y with waited := some (y.waited.getD 0) }
  else
    s.xParts id x (viaParts c v.first x.sent) [] fun s bs =>
      (s.inject r (viaToken c v.first x.sent bs)).modXfer id fun y =>
        { y with sent := y.sent + 1, waited := none, farbuf := [], closed := decide (y.sent + 1 ≥ viaTotal c v.first) }

/-- Whether a transfer still waits for a compile. -/
def State.compiling (s : State) (id : Nat) (x : Xfer) : Bool := (s.blk x.blk).comps.any fun c => c.reqs.contains (.xfer id)

/-- A pattern-compile transfer whose compile has ended raises its byte count by len, and has moved everything (R365). -/
def State.compiled (s : State) (id : Nat) (x : Xfer) (c : Cmd) : State :=
  if s.compiling id x then s
  else s.withSync id x c fun s a => (s.modXfer id fun y => { y with phase := .moved }).raiseSync id x a c.len

/-- One step of a transfer: it asks again for a future entry that it waits for, or, when it runs, makes a write event, a token of a via
transfer, or the count of a compile that has ended (R196, R263, R365). -/
def execTransferWrite (id : Nat) (s : State) : Out :=
  match s.xfer id with
  | none => .next s
  | some x =>
    match x.cmd with
    | none => .next s
    | some c =>
      if x.want.isSome then .next (s.stallXfer id x (x.want.getD 0))
      else if x.phase ≠ .running ∨ x.stall.isSome = true then .next s
      else if c.kind = 6 then .next (s.compiled id x c)
      else if c.via = 0 then .next (s.moveChunk id x c)
      else
        match s.viaOf x.blk c with
        | none => .next s
        | some v => .next (s.sendVia id x c v)

/-! ## The end of a transfer (R198, R261, R275, R276) -/

/-- Whether the metadata of a compile has been read, so that its read entry can be released (R261). -/
def Compile.read (c : Compile) : Bool := c.mem.isNone && !c.asked

/-- Whether a range-lock entry can be released (R197, R261, R262, R275): a write entry when its transfer has moved everything and the
last count of its sync word has risen; a read entry after the last read, that is when everything has been read, or the compile has read
its metadata; and those of a via transfer, of either kind, when it has finished (DESIGN CHOICE for its read entry, which R261 would
release earlier; log 97). -/
def State.lockDone (s : State) (l : Lock) : Bool :=
  match s.xfer l.id with
  | some x =>
    ((x.phase == .moved || x.phase == .ended) && (!l.write || x.counts == 0)) ||
      (!l.write && x.closed && ((x.cmd.map Cmd.via).getD 0) == 0) ||
      (x.phase == .running && (x.cmd.map Cmd.kind == some 6) && (s.blk x.blk).comps.all fun c =>
        !c.reqs.contains (.xfer l.id) || c.read)
  | none => s.blks.all fun b => b.2.comps.all fun c => c.lock != some l.id || c.read

/-- Inserts a place and a port by place. -/
def insertPlace (x : Nat × Nat) : List (Nat × Nat) → List (Nat × Nat)
  | [] => [x]
  | y :: l => if x.1 < y.1 then x :: y :: l else y :: insertPlace x l

/-- The retries of the commands that have been found BUSY, in the order of their places (R260). -/
def State.retries (s : State) : List Move :=
  ((s.blks.flatMap fun b => b.2.ports.flatMap fun p => (p.2.arr.filter Arriving.busy).map fun a => (a.place, 4 * b.1 + p.1 % 4)).foldr
    insertPlace []).map fun e => { ns := 0, cycs := [], act := .event (.busyRetry (e.2 / 4) (e.2 % 4)) }

/-- Entries have come free: what has been found BUSY is tried again at once (R260). -/
def State.retryBusy (s : State) : State := { s with agenda := s.retries ++ s.agenda }

/-- The i-th range-lock entry of a transfer is released (R197, R261). -/
def execRangeLockRelease (id i : Nat) (s : State) : Out :=
  match (s.dev.locks.filter fun l => decide (l.id = id))[i]? with
  | none => .next s
  | some l => if s.lockDone l then .next (s.retryBusy.modDev fun d => { d with locks := d.locks.erase l })
    else .next s

/-- A completion reaches a thread in block cycle `cyc`: it is queued, or with the queue full it sets its xfpend bit (R33). -/
def Thread.complete (t : Thread) (c : Completion) (cyc : Nat) : Thread :=
  if t.comps.length < 8 then { t with comps := t.comps ++ [c] }
  else
    let x : Word := 1#64 <<< (c.id.toNat % 64)
    { t with xfpend := t.xfpend ||| x, xfnew := (cyc, if t.xfnew.1 = cyc then t.xfnew.2 ||| x else x) }

/-- A completion reaches a re-admission that waits. -/
def ReAdm.complete (uid : Nat) (c : Completion) (r : ReAdm) : ReAdm :=
  if r.th.uid = uid then { r with th := r.th.complete c 0 } else r

/-- A completion reaches a thread that is a future. -/
def FutEnt.complete (uid : Nat) (c : Completion) (e : FutEnt) : FutEnt :=
  match e.unit with
  | .thread th b => if th.uid = uid then { e with unit := .thread (th.complete c 0) b } else e
  | .agen _ | .xfer _ | .cmd _ => e

def Field.complete (uid : Nat) (c : Completion) (x : Field) : Field :=
  { x with lists := Tab.mapVals [] (fun _ l => l.map (ReAdm.complete uid c)) x.lists
           futs := Tab.mapVals none (fun _ e => e.map (FutEnt.complete uid c)) x.futs }

/-- Whether a thread waits in a rotunda's lists or is a future. -/
def Field.holds (uid : Nat) (x : Field) : Bool :=
  (x.lists.any fun l => l.2.any fun r => decide (r.th.uid = uid)) ||
  (x.futs.any fun e => match e.2.bind FutEnt.holder with
    | some th => decide (th.uid = uid)
    | none => false)

/-- Delivers an interrupt completion to its thread wherever it is; one whose thread has ended, or was saved out of its slot,
goes to the fault queue (R198, R276, R317). -/
def State.deliver (s : State) (uid slot : Nat) (c : Completion) : State :=
  match s.threads.find? fun e => e.2.uid == uid && e.2.run != .free with
  | some e =>
    if s.beingSaved e.1 && decide (e.2.comps.length ≥ 8) then s.compRec e.1 c
    else s.modThread e.1 fun t => t.complete c (s.blk (unitBlk e.1)).cyc
  | none =>
    if s.fields.any fun e => e.2.holds uid then
      { s with fields := Tab.mapVals {} (fun _ x => x.complete uid c) s.fields }
    else s.compRec slot c

/-- A transfer whose last entry has been released queues its interrupt completion and ends (R198, R275). -/
def execTransferCompletion (id : Nat) (s : State) : Out :=
  match s.xfer id with
  | none => .next s
  | some x =>
    if x.phase = .moved ∧ x.counts = 0 ∧ (s.dev.locks.any fun l => decide (l.id = id)) = false then
      match x.uid, x.cmd with
      | some (uid, slot), some c =>
        if c.cmode ≥ 2 then .next ((s.setXfer id none).deliver uid slot { id := c.xid, xst := x.xst, hnd := c.hnd })
        else .next (s.setXfer id none)
      | _, _ => .next (s.setXfer id none)
    else .next s

/-- Whether the first consumer of a via transfer has taken every token that it sends (R262). -/
def State.viaTaken (s : State) (x : Xfer) (c : Cmd) : Bool :=
  x.closed && !((s.viaOf x.blk c).map fun v => s.onRoute v.gid c.via).getD false

/-- A via transfer has finished (R262): its tokens have been taken and the destination's streamer has written the one with the
stop. -/
def execViaTransferFinish (id : Nat) (s : State) : Out :=
  match s.xfer id with
  | none => .next s
  | some x =>
    match x.cmd with
    | none => .next s
    | some c =>
      match c.dst with
      | .mem _ => .next s
      | .tile t _ =>
        if x.phase = .running ∧ c.via ≠ 0 ∧ s.viaTaken x c = true ∧ ((s.tile t).via.any fun v => decide (v.1 = id)) = false then
          .next ((s.modXfer id fun y => { y with phase := .moved }).leavePort id x)
        else .next s

/-! ## Update units (R270, R271) -/

/-- The update unit of a sync word ends a cycle in which byte updates, arrivals or a sync.set have landed (R270, R271). -/
def execSyncUpdateCycle (pa : Nat) (s : State) : Out :=
  let l := s.landed pa
  if (l.bytes ≠ 0 ∨ l.arrs ≠ 0 ∨ l.set ≠ none) ∧ l.cyc < s.syncCyc pa then .next (s.closeSync pa) else .next s

/-- The evaluation in the cycle after one that advanced, with nothing more landing in it (R271). -/
def execSyncCarryEval (pa : Nat) (s : State) : Out :=
  let l := s.landed pa
  if l.bytes = 0 ∧ l.arrs = 0 ∧ l.set = none ∧ l.carry = true ∧ l.cyc < s.syncCyc pa then .next (s.closeSync pa) else .next s

end Sys2Proof.Machine
end

