-- ==== Sys2Proof/Machine/Fabric.lean ====
section
/-!
DEFINITION. Events of the mesh and of what hangs on it: forwarding (R90, R247 to R249, R322, R323, R329), outbound streamers (R241
to R244), ports (R164, R243), rings (R174, R176), placing areas (R326), tile SRAM as a via transfer's destination (R264, R268),
escape re-entry (R179), converters (R266 to R269), adders (R395, R396) and the stall limit (R165, R330).
-/
namespace Sys2Proof.Machine

/-! ## Forwarding (R247 to R249, R322, R323, R329) -/

/-- Whether a flit breaks R87 to R89 (R90). -/
def Flit.broken (f : Flit) : Bool :=
  let k := hKind f.hdr
  decide (k ≥ 9) || hVc f.hdr != vcOfKind k || decide (hEtype f.hdr ≥ 10) || (k != 0 && hEtype f.hdr != 0) ||
    (match k with
      | 0 => !ksOk (hEtype f.hdr) (hKs f.hdr)
      | 1 => bitsN (hKs f.hdr) 2 12 != 0
      | 2 => bitsN (hKs f.hdr) 1 13 != 0
      | 7 => bitsN (hKs f.hdr) 2 12 != 0
      | 8 => bitsN (hKs f.hdr) 8 6 != 0
      | _ => false)

/-- Where a router sends one copy of a flit: to a neighbour, or to a local unit by its code. -/
inductive Hop where
  | go (d : Dir)
  | here (unit : Nat)
  deriving DecidableEq, Repr

/-- Whether the i-th mask of a steer entry takes a flit: every mask does for a stop or a splice marker (R323). -/
def steerTakes (ms : List Word) (f : Flit) (i : Nat) : Bool :=
  ms.isEmpty || f.isMarker || decide (hStop f.hdr ≠ 0) || bit (ms.getD i 0) (hSteer f.hdr)

/-- The hops of a flit at a router; none when it is corrupted (R90, R248). -/
def State.hops (s : State) (r : Nat) (f : Flit) : Option (List Hop) :=
  let route := hRoute f.hdr
  let e := (Tab.get 0 s.mesh.rtab (4096 * r + route)).toNat
  let ms := Tab.get [] s.mesh.steer (4096 * r + route)
  let wx := bitsN e 24 7
  let wy := bitsN e 17 7
  let fork := bitsN e 12 5
  if f.broken || bitsN e 31 1 == 0 then none
  else if fork ≠ 0 then
    some ((forkBits.zipIdx.filter fun x => bitsN fork x.1.1 1 == 1 && steerTakes ms f x.2).map fun x =>
      match x.1.2 with
      | none => .here (bitsN e 8 4)
      | some d => .go d)
  else if routerX r < wx then some [.go .east]
  else if wx < routerX r then some [.go .west]
  else if routerY r < wy then some [.go .south]
  else if wy < routerY r then some [.go .north]
  else none

/-- The tile bound to the site of a router. -/
def State.tileAt (s : State) (r : Nat) : Option Nat :=
  let b := routerY r / 18 * 32 + routerX r / 24 * 8 + routerX r % 24 / 3
  let p := 2 * (routerY r % 18) + routerX r % 3
  if routerX r % 3 = 2 then none
  else ((List.range 32).find? fun t => decide ((s.blk b).tsite.getD t 255 = p)).map fun t => 32 * b + t

/-- The memory port, converter position and block of request ports at a router (R369). -/
def memAt (r : Nat) : Option Nat := (List.range 1024).find? fun m => decide (memRouter m = r)
def convAt (r : Nat) : Option Nat := (List.range 512).find? fun c => decide (convRouter c = r)
def xqAt (r : Nat) : Option Nat := (List.range 128).find? fun b => decide (xqRouter b = r)

/-- The Marold ports at a router. -/
def lpAt (r : Nat) : List Nat := (List.range 16).filter fun p => decide (Config.linkRouter p = r)

/-- Whether a consumer's end takes a token (R323). -/
def InRoute.takes (i : InRoute) (f : Flit) : Bool :=
  match i.steer with
  | none => true
  | some k => f.isMarker || decide (hStop f.hdr ≠ 0) || decide (k = hSteer f.hdr)

/-- The copies of a flit for the consumers that a context binds to its route; it stays whole where there is none (R180). -/
def TileCtx.copies (x : TileCtx) (f : Flit) : List (Option Nat × Flit) :=
  match x.binds (hRoute f.hdr) with
  | [] => [(none, f)]
  | l => (l.zipIdx.filter fun x => x.1.takes f).map fun x => (some x.2, f)

/-- The copies of a flit for a tile's consumers: those of its current context. -/
def State.copies (s : State) (t : Nat) (f : Flit) : List (Option Nat × Flit) :=
  match s.tileCtx t with
  | none => [(none, f)]
  | some x => x.copies f

/-- The Marold ports at a router that a context names as consumers of a route, each with whether it is its adder. -/
def GCtx.lpEnds (x : GCtx) (r route : Nat) : List (Nat × Bool) :=
  ((x.routes.filter fun y => y.num == route).flatMap fun y => (lpAt r).flatMap fun p =>
    (if y.dsts.any fun d => d.2 == .lp p then [(p, false)] else []) ++
      if y.dsts.any fun d => d.2 == .lpAdd p then [(p, true)] else []).eraseDups

/-- The ports whose consumers, or whose adders, a flit reaches at a router: those of a current context of the graph that owns the route
there, if one names any. -/
def State.lpFor (s : State) (r route : Nat) : List (Nat × Bool) :=
  match (s.routeOwner r route).bind fun gid => (s.graph gid).map fun g => (gid, g) with
  | none => []
  | some (gid, g) =>
    (((s.current gid g).filterMap g.ctx ++ g.desc.ctxs.filterMap id).map fun x => x.lpEnds r route).find? (fun l => !l.isEmpty) |>.getD []

/-- A flit that leaves through a Marold port, as a packet of one flit to its peer (R392, R395). -/
def State.sendToken (s : State) (p : Nat) (f : Flit) : State :=
  let dest := (s.port p).peer.toNat
  let e := esnOf (Tab.get 0 s.dev.esn dest)
  let fs := packetFrames 0 e.1 dest s.dev.devnum [f.body]
  let fs := match s.dev.marKey with
    | some k => if s.dev.sealed then sealFrames k e.2 fs else fs
    | none => fs
  (s.modDev fun d => { d with esn := Tab.set 0 d.esn dest (Tab.get 0 d.esn dest + 1) }).portSend p fs

/-- Whether a local unit takes one more flit. -/
def State.hereRoom (s : State) (r unit : Nat) (f : Flit) : Bool :=
  let route := hRoute f.hdr
  match unit with
  | 0 =>
    (match s.tileAt r with
      | none => true
      | some t => decide (((s.tile t).inbox.filter fun e => hRoute e.2.hdr == route).length ≤ Config.linkDepth))
  | 1 =>
    (match (convAt r).bind s.conv with
      | none => false
      | some c => decide (c.inq.length < 16) && !c.halted)
  | 2 =>
    (match (memAt r).bind s.agen with
      | none => false
      | some a => decide (a.inq.length ≤ Config.linkDepth) && a.store)
  | 3 =>
    (match xqAt r with
      | none => true
      | some b => f.isMarker || decide (((s.xport (4 * b + bitsN (hKs f.hdr) 0 2)).arr.filter fun a => a.route == route).length ≤ Config.linkDepth))
  | 4 => true
  | _ =>
    f.isMarker || (s.lpFor r route).all fun e =>
      if e.2 then ((s.adderFor e.1 route).map fun a => decide ((a.input route).length ≤ Config.linkDepth)).getD true
      else decide ((s.port e.1).waitq.length < 64)

/-- The block cycle in which a command counts as having arrived at a port: one that reaches it after a command has entered in the present
cycle arrives in the next (R258). -/
def State.arriveCyc (s : State) (xp : Nat) : Nat := max (s.blk (xp / 4)).cyc (s.xport xp).from_

/-- A command word enters its request port's arrivals with its region, and wakes a gated block (R194, R244, R258 to R260, R420). -/
def State.arriveCmd (s : State) (xp r : Nat) (f : Flit) : State :=
  (s.modXport xp fun p =>
    { p with arr := p.arr ++
        [{ route := hRoute f.hdr, gid := (s.routeOwner r (hRoute f.hdr)).getD 0, w := wordsOf 4 (leBytes 32 f.pay.toNat)
           busy := false, stall := none, cyc := s.arriveCyc xp, ns := s.ns }] }).wakeBlk (xp / 4)

/-- Hands a flit to a local unit. A splice marker at a request port is no command, and at a Marold port no token: it does nothing there
(R241, R256). No route names a swarm core (R245). -/
def State.hereGive (s : State) (r unit : Nat) (f : Flit) : State :=
  let route := hRoute f.hdr
  match unit with
  | 0 =>
    (match s.tileAt r with
      | none => s
      | some t => (s.modTile t fun x => { x with inbox := x.inbox ++ s.copies t f }).wakeBlk (t / 32))
  | 1 =>
    (match convAt r with
      | none => s
      | some c => s.modConv c fun x => { x with inq := x.inq ++ [f] })
  | 2 =>
    (match memAt r with
      | none => s
      | some m => s.modAgen m fun x => { x with inq := x.inq ++ [f] })
  | 3 =>
    (match xqAt r with
      | none => s
      | some b => if f.isMarker then s else s.arriveCmd (4 * b + bitsN (hKs f.hdr) 0 2) r f)
  | 4 => s
  | _ =>
    if f.isMarker then s
    else (s.lpFor r route).foldl (fun s e =>
      if e.2 then ((s.adderFor e.1 route).map fun a => s.setAdder e.1 a (a.put route f)).getD s else s.sendToken e.1 f) s

/-- Whether a hop can take a flit now. -/
def State.hopRoom (s : State) (r : Nat) (f : Flit) : Hop → Bool
  | .here u => s.hereRoom r u f
  | .go d =>
    match neighbour r d with
    | none => true
    | some (q, side) => s.linkRoom q side (hVc f.hdr)

/-- Sends a flit over one hop; a flit that would leave the grid is corrupted and goes nowhere. -/
def State.hop (s : State) (r : Nat) (f : Flit) : Hop → State
  | .here u => s.hereGive r u f
  | .go d =>
    match neighbour r d with
    | none => s
    | some (q, side) => s.setLink q side (hVc f.hdr) (s.link q side (hVc f.hdr) ++ [f])

/-- A corrupted flit is discarded, and the region of its route raises a record (R90): class 6, index 0. -/
def State.badFlit (s : State) (r : Nat) (f : Flit) : State :=
  s.routerNotice (s.routeOwner r (hRoute f.hdr)) r cECC false (hRoute f.hdr)

/-- The field to whose fault unit a notice's flit goes (R309). -/
def State.noticeField (s : State) (f : Flit) : Option Nat :=
  (List.range 16).find? fun i => (s.field i).notices.any fun n => n.flit == f

/-- A notice moves on in dimension order, without the route tables; at its fault unit's router it waits to be taken (R309). -/
def State.noticeHop (s : State) (r : Nat) (dir : Dir) (f : Flit) (l : List Flit) : State :=
  match ((s.noticeField f).bind fun i => dimStep r (faultRouter i)).bind fun d => (neighbour r d).map fun q => (d, q) with
  | none => s
  | some (d, q, side) => if s.linkRoom q side 3 then (s.setLink r dir 3 l).hop r f (.go d) else s

/-- The oldest flit of a link buffer moves on, in every direction at once or not at all (R329). A dead router moves nothing. -/
def execFlitForward (r : Nat) (dir : Dir) (vc : BitVec 2) (s : State) : Out :=
  match s.link r dir vc.toNat with
  | [] => .next s
  | f :: l =>
    if s.routerDead r then .next s
    else if hKind f.hdr = 8 then .next (s.noticeHop r dir f l)
    else
      let s1 := s.setLink r dir vc.toNat l
      match s.hops r f with
      | none => .next (s1.badFlit r f)
      | some hs => if hs.all (s.hopRoom r f) then .next (hs.foldl (fun s h => s.hop r f h) s1) else .next s

/-! ## The outbound streamer (R241, R244) -/

/-- A token of a command route as the command word that the streamer sends (R244). -/
def cmdFlit (port : Nat) (f : Flit) : Flit := { hdr := mkHdr 1 0 0 (hRoute f.hdr) 0 0 0 port, pay := f.pay }

/-- Counts a token of a core that its streamer has sent (R291); `l` stays in its queue. -/
def State.countSent (s : State) (k route : Nat) (l : List Flit) : State :=
  let n := Tab.get 0 (s.tile (coreTile k)).sent route + 1
  (s.modTile (coreTile k) fun x => { x with sent := Tab.set 0 x.sent route n }).modTcore k fun c =>
    { c with outq := l, sentAt := Tab.set 0 c.sentAt route n }

/-- The oldest token of a core leaves its streamer (R241). -/
def execStreamerSend (k : Nat) (s : State) : Out :=
  match (s.tcore k).outq, s.coreCtx k with
  | f :: l, some x =>
    let g := match (x.out (hRoute f.hdr)).bind OutRoute.cmd with
      | none => f
      | some p => cmdFlit p f
    let r := s.tileRouter (coreTile k)
    if s.tileCut (coreTile k) then .next (s.modTcore k fun c => { c with outq := l })
    else if s.linkRoom r .inject (hVc g.hdr) then .next ((s.inject r g).countSent k (hRoute f.hdr) l) else .next s
  | _, _ => .next s

/-! ## Inboxes (R164, R243) -/

/-- The consumer that an inbox entry is for, in the current context of its tile. -/
def State.consumerOf (s : State) (t : Nat) (e : Option Nat × Flit) : Option InRoute :=
  match s.tileCtx t with
  | none => none
  | some x => x.consumer e

/-- The oldest inbox entry for a consumer: its place, its consumer and its token. -/
def State.inboxFor (s : State) (t : Nat) (q : Consumer → Bool) : Option (Nat × InRoute × Flit) :=
  let l := (s.tile t).inbox
  (List.range l.length).findSome? fun i =>
    match l[i]? with
    | none => none
    | some e =>
      match s.consumerOf t e with
      | none => none
      | some c => if q c.dst then some (i, c, e.2) else none

/-- Takes an entry out of an inbox. -/
def State.dropInbox (s : State) (t i : Nat) : State := s.modTile t fun x => { x with inbox := x.inbox.eraseIdx i }

/-- The first piece of a token at a port of width w, and the rest; the last piece carries the stop, and mxblk and plane tokens
stay whole (R243). -/
def splitToken (w : Nat) (f : Flit) : Flit × Option Flit :=
  let n := hLen f.hdr + 1
  let whole := hEtype f.hdr = 7 ∨ hEtype f.hdr = 8
  if n ≤ w ∨ whole ∨ w = 0 then (f, none)
  else
    let hdr (len stop : Nat) : Word :=
      mkHdr (hKind f.hdr) len stop (hRoute f.hdr) (hSteer f.hdr) (hSeq f.hdr) (hEtype f.hdr) (hKs f.hdr)
    ({ hdr := hdr (w - 1) 0, pay := lanesTo f.pay (w - 1) },
     some { hdr := hdr (n - w - 1) (hStop f.hdr), pay := f.pay >>> (32 * w) })

/-- The width of a port. -/
def Consumer.width : Consumer → Nat
  | .port _ _ w => w
  | .ring _ | .sram | .place _ => 8

/-- A token enters an input port that has room for one of its four (R164, R243); a coordinate stream that a pcomp consumes goes
on (R199). -/
def execPortTokenArrival (k port : Nat) (s : State) : Out :=
  let t := coreTile k
  match s.inboxFor t (Consumer.isPort (k % 4) port) with
  | none => .next s
  | some (i, c, f) =>
    if (Tab.get [] (s.tcore k).ports port).length ≥ 4 then .next s
    else
      let x := splitToken c.dst.width f
      let s1 := match x.2 with
        | none => s.dropInbox t i
        | some g => s.modTile t fun y => { y with inbox := y.inbox.modify i fun e => (e.1, g) }
      .next ((s1.modTcore k fun y => { y with ports := Tab.upd [] y.ports port fun q => q ++ [x.1] }).drainPort k port 4)

def Consumer.isRing (r : Nat) : Consumer → Bool
  | .ring x => x == r
  | .port _ _ _ | .sram | .place _ => false

/-- A token that arrives for a ring is placed when the ring has room (R174, R176); a splice marker there is no record, and does nothing
(R241, R256). -/
def execRingPlace (tile ring : Nat) (s : State) : Out :=
  match s.inboxFor tile (Consumer.isRing ring), s.ring tile ring with
  | some (i, _, f), some x =>
    if f.isMarker then .next (s.dropInbox tile i)
    else if x.fits (recSize (hLen f.hdr + 1)) && x.turn (s.blk (tile / 32)).cyc 4 then
      .next ((s.dropInbox tile i).putRing tile ring (x.stamp (s.blk (tile / 32)).cyc 4) f)
    else .next s
  | _, _ => .next s

def Consumer.isPlace : Consumer → Bool
  | .place _ => true
  | .port _ _ _ | .ring _ | .sram => false

/-- What a token does at a placing area with base `b` (R326). -/
def State.placeToken (s : State) (tile b : Nat) (f : Flit) : State :=
  let seq := hSeq f.hdr
  let stop := hStop f.hdr
  let n := hLen f.hdr + 1
  let word := sramAddr tile (b - 16)
  if f.isMarker then s
  else if seq ≠ 0 ∧ b + 32 * seq ≤ 0x80000 then
    (s.sramWrite tile (b + 32 * (seq - 1)) (leBytes (4 * n) f.pay.toNat)).syncLand word (4 * n) (if stop = 0 then 0 else 1)
  else if seq = 0 ∧ stop ≠ 0 then s.syncLand word 0 1
  else s.tileNotice tile 6 0 cUND false (hRoute f.hdr) 0 0 0 0

/-- A token reaches a placing area (R326). -/
def execPlacingAreaWrite (tile : Nat) (s : State) : Out :=
  match s.inboxFor tile Consumer.isPlace with
  | some (i, c, f) =>
    match c.dst with
    | .place b => .next ((s.dropInbox tile i).placeToken tile b f)
    | .port _ _ _ | .ring _ | .sram => .next s
  | none => .next s

/-! ## Tile SRAM as the end of a via transfer (R262, R264, R268) -/

def Consumer.isSram : Consumer → Bool
  | .sram => true
  | .port _ _ _ | .ring _ | .place _ => false

/-- The end of the SRAM area of R166 that holds an offset. -/
def areaEnd (off : Nat) : Nat :=
  if off < 0x80000 then 0x80000
  else if off < 0xC0000 then off / 0x10000 * 0x10000 + 0x10000
  else if off < 0xE0000 then off / 0x8000 * 0x8000 + 0x8000
  else off / 0x4000 * 0x4000 + 0x4000

/-- Where a token of a via transfer is written: offset and bytes; none when it runs past its range or its rows (R264, R268). -/
def viaPlace (off n : Nat) (f : Flit) : Option (Nat × List Byte) :=
  if hEtype f.hdr = 8 then
    let a := bitsN off 16 4
    let w := (planeNb off + 3) / 4
    let r := bitsN (hKs f.hdr) 4 10
    let b := bitsN (hSeq f.hdr) 0 7
    if r ≥ 32 then none
    else if bitsN (hSeq f.hdr) 15 1 = 1 then some (0xC0000 + 0x8000 * (a - 8) + 8 * (128 * r + b), leBytes 8 f.pay.toNat)
    else
      some (a * 0x10000 + 16 * ((32 * bitsN (hKs f.hdr) 0 4 + r) * w + b / 4) + 4 * (b % 4),
        leBytes (4 * (hLen f.hdr + 1)) f.pay.toNat)
  else
    let m := 4 * (hLen f.hdr + 1)
    if off + 4 * n + m > areaEnd off then none else some (off + 4 * n, leBytes m f.pay.toNat)

/-- The destination of the via transfer that route `route` of a tile serves at present. -/
def Tile.viaFor (x : Tile) (route : Nat) : Option (Nat × Nat × Nat × Nat) := x.via.find? fun v => decide (v.2.1 = route)

/-- The inbound streamer takes a token of a via transfer: the elements so far count on, and the last stop ends the transfer's part. -/
def Tile.viaStep (x : Tile) (route n : Nat) (stop : Bool) : Tile :=
  match x.viaFor route with
  | none => x
  | some v => { x with via := if stop then x.via.erase v else x.via.map fun u => if u = v then (v.1, v.2.1, v.2.2.1, v.2.2.2 + n) else u }

/-- Writes a token of a via transfer and counts its bytes; one that has no place ends the transfer with UND (R198, R264). A stop ends its
part only once the first consumer has taken every token of the transfer (R262). -/
def State.viaWrite (s : State) (tile i : Nat) (v : Nat × Nat × Nat × Nat) (f : Flit) (x : Xfer) (c : Cmd) : State :=
  let stop := decide (hStop f.hdr ≠ 0) && s.viaTaken x c
  let next (s : State) : State := (s.dropInbox tile i).modTile tile fun y => y.viaStep v.2.1 (hLen f.hdr + 1) stop
  if x.xst ≠ 0 then next s
  else
    match viaPlace v.2.2.1 v.2.2.2 f with
    | none => next (s.endXfer v.1 x cUND 0)
    | some (at_, bs) => s.withSync v.1 x c fun s a => next ((s.sramWrite tile at_ bs).raiseSync v.1 x a bs.length)

/-- The inbound streamer writes a token of a via transfer to tile SRAM (R264). -/
def execInboundStreamerWrite (tile : Nat) (s : State) : Out :=
  match s.inboxFor tile Consumer.isSram with
  | none => .next s
  | some (i, _, f) =>
    if f.isMarker then .next (s.dropInbox tile i) else
    match (s.tile tile).viaFor (hRoute f.hdr) with
    | none => .next s
    | some v =>
      match s.xfer v.1 with
      | none => .next ((s.dropInbox tile i).modTile tile fun y => y.viaStep v.2.1 0 (decide (hStop f.hdr ≠ 0)))
      | some x =>
        match x.cmd with
        | none => .next s
        | some c => .next (s.viaWrite tile i v f x c)

/-! ## Escape re-entry (R179, R419) -/

/-- The first token of a node that may enter the re-entry queue now. R179 orders no unordered tokens among several whose replies have come:
the lowest ticket goes first (DESIGN CHOICE, log 108). -/
def EscNode.ready (e : EscNode) : Option (Nat × Parked × VWord) :=
  (List.range e.out.length).findSome? fun i =>
    match e.out[i]? with
    | none => none
    | some p =>
      match p.back with
      | none => none
      | some v =>
        let first := i == 0
        let bound := p.ordered || decide (hStop p.tok.hdr ≠ 0)
        let behindStop := (e.out.take i).any fun q => decide (hStop q.tok.hdr ≠ 0)
        if (if bound then first else !behindStop) then some (i, p, v) else none

/-- Whether a bucket still holds a token after `n` have been spent (R419). -/
def Bucket.holds (b : Bucket) (n : Nat) : Bool := decide (n < max b.depth 1)

/-- A re-entering token enters its port's queue, and its ticket returns to the pool (R179). -/
def execEscapeReentry (tile node : Nat) (s : State) : Out :=
  let e := Tab.get {} (s.tile tile).escs node
  let key := 4 * tile + node
  match e.ready with
  | none => .next s
  | some (i, p, v) =>
    if e.queue.length < e.pool ∧ (s.field (tile / 256)).bkesc.holds (Tab.get 0 s.dev.spente key) = true then
      let q : EscNode :=
        { e with out := e.out.eraseIdx i, from_ := (s.blk (tile / 32)).cyc + 1, queue := e.queue ++ [{ hdr := p.tok.hdr, pay := lanesTo v (hLen p.tok.hdr) }] }
      let s1 := (s.modTile tile fun x => { x with escs := Tab.set {} x.escs node q }).modDev fun d =>
        { d with spente := Tab.set 0 d.spente key (Tab.get 0 d.spente key + 1) }
      .next (match (s.tileCtx tile).bind TileCtx.reent with
        | none => s1
        | some c => s1.drainPort (4 * tile + c) (15 - node) 1)
    else .next s

/-! ## Converters (R266 to R269) -/

/-- A converter halts, and its region raises a record (R267, R308): class 3. -/
def State.haltConv (s : State) (c : Nat) (x : Conv) (cause : BitVec 8) : State :=
  (s.setConv c (some { x with halted := true, waited := none })).regionNotice (some x.gid) (c / 4) 3 (c % 4) 0 cause true
    x.route 0 (wd x.count)

/-- A splice marker reaches a converter: with one on every route into it, it is released (R257). -/
def State.markConv (s : State) (c : Nat) (x : Conv) (route : Nat) : State :=
  if x.ins.all (· == route) then s.setConv c none
  else s.setConv c (some { x with inq := x.inq.drop 1, ins := x.ins.filter (· ≠ route) })

/-- A converter emits a token, or waits for room to (R266, R330), or takes its next input token (R267); what it emits for a graph that is
unloaded is discarded (R410). -/
def execConverterFiring (c : Nat) (s : State) : Out :=
  match s.conv c with
  | none => .next s
  | some x =>
    if x.halted then .next s
    else
      match x.outq, x.inq with
      | f :: l, _ =>
        if s.regionCut x.gid then .next (s.setConv c (some { x with outq := l, waited := none }))
        else if s.linkRoom (convRouter c) .inject 0 then
          .next ((s.inject (convRouter c) f).setConv c (some { x with outq := l, waited := none }))
        else .next (s.setConv c (some { x with waited := some (x.waited.getD 0) }))
      | [], f :: _ =>
        if f.isMarker then .next (s.markConv c x (hRoute f.hdr)) else
        (match x.take (x.off.getD (Config.noHandoff c)) f with
          | some y => .next (s.setConv c (some y))
          | none => .next (s.haltConv c { x with count := x.count + 1 } cUND))
      | [], [] => .next s

/-! ## Adders (R395, R396) -/

/-- An adder element halts, with a record of class 6 from its region. -/
def State.haltAdder (s : State) (port : Nat) (a : Adder) (cause : BitVec 8) : State :=
  (s.setAdder port a { a with halted := true }).routerNotice (some a.gid) (Config.linkRouter port) cause true a.upr

/-- An adder element pairs its two oldest tokens (R396); a pair that does not match halts it. Its sum for a graph that is unloaded is
discarded (R410). -/
def execAdderPair (port : Nat) (s : State) : Out :=
  match s.adder port with
  | none => .next s
  | some a =>
    match a.up, a.loc with
    | u :: us, l :: ls =>
      if s.regionCut a.gid then .next (s.setAdder port a { a with up := us, loc := ls })
      else if (s.port port).waitq.length ≥ 64 then .next s
      else
        (match addFlits u l with
          | some f => .next ((s.setAdder port a { a with up := us, loc := ls }).sendToken port f)
          | none => .next (s.haltAdder port a cUND))
    | _, _ => .next s

/-! ## The stall limit (R165, R330) -/

/-- The limit of a core's wait: a ring's is 65,536 cycles, a route's is that of its entry at the tile's router. -/
def State.coreLimit (s : State) (k key : Nat) : Nat :=
  if key ≥ 4096 then 65536 else s.routeLimit (s.tileRouter (coreTile k)) key

/-- The bundle that a core's wait stands at: that of the operation that holds it, or its own. -/
def State.waitPc (s : State) (k : Nat) : Word :=
  match (s.tcore k).run with
  | .held =>
    (match (s.tile (coreTile k)).mq.find? fun m => m.core == k && m.kind.holds with
      | some m => m.ctx.pc
      | none => (s.tcore k).ctx.pc)
  | .idle | .run | .sync _ _ _ | .ctxsw _ | .faulted _ => (s.tcore k).ctx.pc

/-- A wait for room that has run longer than the stall limit halts its core, or stops its node (R165, R277, R330), but not in a region that
is faulted (R316). For a ring the record's route field names the ring. -/
def execStallLimit (p : Producer) (s : State) : Out :=
  match p with
  | .core k =>
    (match (s.tcore k).waited with
      | none => .next s
      | some (n, key) =>
        if n > s.coreLimit k key ∧ (((s.tileCtx (coreTile k)).map fun x => s.regionFaulted x.gid).getD false) = false then
          .next ((s.modTcore k fun c => { c with run := .faulted cSTALL_LIMIT, waited := none }).tileNotice (coreTile k) 0 (k % 4)
            cSTALL_LIMIT true (key % 4096) 0 (s.waitPc k) 0 0)
        else .next s)
  | .agen m =>
    (match s.agen m with
      | none => .next s
      | some a =>
        if a.waited.getD 0 > s.routeLimit (memRouter m) a.route ∧ s.regionFaulted a.gid = false then
          .next ((s.setAgen m (some { a with halted := true, waited := none })).regionNotice (some a.gid) (m / 8) 2 (m % 8) 0
            cSTALL_LIMIT true a.route 0 (wd (8 * a.n)))
        else .next s)
  | .conv c =>
    (match s.conv c with
      | none => .next s
      | some x =>
        if x.waited.getD 0 > s.routeLimit (convRouter c) x.route ∧ s.regionFaulted x.gid = false then .next (s.haltConv c x cSTALL_LIMIT) else .next s)

end Sys2Proof.Machine
end

