-- ==== Sys2Proof/Machine/Matrix.lean ====
section
/-!
DEFINITION. The matrix queue at work: the start and the end of its operations (R182, R184, R186 to R188, R191, R354, R355).
-/
namespace Sys2Proof.Machine

/-- The compiler block of a tile, and the cycle count that its operations are timed by. -/
def State.tileCyc (s : State) (t : Nat) : Nat := (s.blk (t / 32)).cyc

/-- Changes the operation at the head of a tile's queue. -/
def State.modHead (s : State) (t : Nat) (f : MOp → MOp) : State :=
  s.modTile t fun x => { x with mq := x.mq.modify 0 f }

/-- The operation at the head leaves the queue: one that has taken `n` cycles from cycle `c` on has run in cycles `c` to `c + n - 1`, and
the next one starts in cycle `c + n` (R182). -/
def State.leaveMat (s : State) (t : Nat) : State :=
  s.modTile t fun x =>
    { x with mq := x.mq.drop 1, mqFrom := max (s.tileCyc t) (((x.mq.head?.bind MOp.began).getD (s.tileCyc t)) + 1) }

/-- The operation at the head ends: a core that it held goes on (R182). -/
def State.popMat (s : State) (t : Nat) (m : MOp) : State :=
  (s.leaveMat t).modTcore m.core fun c =>
    if m.kind.holds && c.run == .held then { c with run := .run, waited := none } else c

/-- The stream that a sparse form has taken goes back to its port: nothing of its bundle is done (R192). A compile that it was forwarding
its stream into goes too, or yields no program where others wait for it. -/
def State.unstream (s : State) (t : Nat) (m : MOp) : State :=
  match m.kind with
  | .mspx ident port _ =>
    let s1 := s.unpopPort m.core port m.took
    if m.fwd && !m.scan.done then s1.dropStream t ident (.core m.core) else s1
  | .mg | .mzero | .mdrain _ _ _ | .acpy _ _ => s

/-- The operation at the head halts its core at its bundle, with nothing of the bundle done (R192). A gang-issue form that a core no
longer waits for (R182) takes the core back: pc and registers are those of its bundle, while tokens, mdesc, rsel and the queued forms
of the bundles issued since stay (DESIGN CHOICE, log 67). -/
def State.haltOp (s : State) (t : Nat) (m : MOp) (cause : BitVec 8) : State :=
  (((s.unstream t m).leaveMat t).modTcore m.core fun c =>
    { c with run := .faulted cause, ctx := m.ctx, waited := none }).tileNotice t 0 (m.core % 4) cause true 0 0 m.ctx.pc 0 0

/-! ## Starts (R182, R191, R354) -/

/-- A sparse form that misses the cache starts: it waits for a pending compile, or forwards its stream into one that it
queues; mspx.n runs the fallback now (R191, R355, R362). -/
def State.missSparse (s : State) (t : Nat) (m : MOp) (ident : Word) (now : Bool) : State :=
  let b := t / 32
  let go (s : State) (fwd : Bool) : State :=
    s.modHead t fun y => { y with began := some (s.tileCyc t), sp := if now then .fall else .waitc, fwd := fwd }
  if (s.blk b).pending t ident then go s false
  else if (s.blk b).compRoom then go (s.queueStream b t ident (.core m.core)) true
  else if now then go s false
  else s

/-- A sparse form starts: it looks up the cache (R191, R354). -/
def State.startSparse (s : State) (t : Nat) (m : MOp) (ident : Word) (now : Bool) : State :=
  match (s.tile t).cached ident with
  | some e =>
    if e.nb ≠ mdNb m.md then s.haltOp t m cUND
    else
      (s.modTile t fun x => x.useEntry ident).modHead t fun y =>
        { y with began := some (s.tileCyc t), sp := .ready e.nb e.prog }
  | none => s.missSparse t m ident now

/-- Starts the operation at the head of a tile's queue. -/
def State.startOp (s : State) (t : Nat) (m : MOp) : State :=
  match m.kind with
  | .mspx ident _ now => s.startSparse t m ident now
  | .mg | .mzero | .mdrain _ _ _ | .acpy _ _ => s.modHead t fun y => { y with began := some (s.tileCyc t) }

/-- The next operation of a matrix queue starts: not before the block cycle after the previous one's end, or after its issue (R182). -/
def execMatrixOpStart (tile : Nat) (s : State) : Out :=
  match (s.tile tile).mq.head? with
  | none => .next s
  | some m => if m.began.isNone ∧ (s.tile tile).mqFrom ≤ s.tileCyc tile then .next (s.startOp tile m) else .next s

/-! ## Drains (R187) -/

/-- Token `i` of a drain: the block's row, and the first column of its eight cells. -/
def drainRow (arg : Word) (i : Nat) : Nat := drFirst arg + i / 4
def drainCol (i : Nat) : Nat := 8 * (i % 4)

/-- The tokens of a drain. -/
def drainTokens (arg : Word) : Nat := 4 * (drCnt arg + 1)

/-- The token that a drain sends next. -/
def State.drainFlit (s : State) (t : Nat) (m : MOp) (arg : Word) (steers : VWord) (rsel : Word) : Flit :=
  let r := drainRow arg m.sent
  let steer := if drBySteer arg then steerByte steers r else rselSteer rsel
  let stop := if m.sent + 1 = drainTokens arg then drStop arg else 0
  { hdr := mkHdr 0 7 stop (rselRoute rsel) steer 0 1 0
    pay := ofLanes fun i => accRead (s.acc t (32 * mdRowb m.md + r) (32 * mdColb m.md + drainCol m.sent + i)) }

/-- Clears the cells of the token that a drain sends next. -/
def Tile.clearCells (x : Tile) (m : MOp) (arg : Word) : Tile :=
  (List.range 8).foldl (fun (y : Tile) i =>
    y.setAcc (32 * mdRowb m.md + drainRow arg m.sent) (32 * mdColb m.md + drainCol m.sent + i) 0) x

/-- A drain sends its next token, or waits for room to. While its graph is being unloaded, its tokens are discarded here and no
wait begins (R410). -/
def State.drainStep (s : State) (t : Nat) (m : MOp) (arg : Word) (steers : VWord) (rsel : Word) : State :=
  let k := m.core
  if s.tileCut t = false ∧ s.outFull k = true then
    s.modTcore k fun c => { c with waited := some (c.waited.getD (0, rselRoute rsel)) }
  else
    let s0 := if s.tileCut t then s else s.queueOut k false (s.drainFlit t m arg steers rsel)
    let s1 := s0.modTile t fun x =>
      if drClr arg then x.clearCells m arg else x
    s1.modHead t fun y => { y with sent := y.sent + 1 }

/-- Whether a fault has halted a core. -/
def CoreRun.isFaulted : CoreRun → Bool
  | .faulted _ => true
  | .idle | .run | .held | .sync _ _ _ | .ctxsw _ => false

/-- A drain's turn: it reads four cells per block cycle. It stays where it is while the stall limit has halted its core (R187), and
goes on when preempt or an unload has (R319, R410). -/
def State.drainTurn (s : State) (t : Nat) (m : MOp) (began : Nat) (arg : Word) (steers : VWord) (rsel : Word) : State :=
  if m.sent ≥ drainTokens arg then s.popMat t m
  else if (s.tcore m.core).run.isFaulted then s
  else if s.tileCyc t < began + 2 * (m.sent + 1) then s
  else s.drainStep t m arg steers rsel

/-! ## Block copies (R188) -/

def acRowb (x : Word) : Nat := bits x 0 2
def acColb (x : Word) : Nat := bits x 2 2
def acDir (x : Word) : Bool := bit x 4
def acClr (x : Word) : Bool := bit x 5

/-- The bytes of a block's cells in row order, each read as R62 says. -/
def State.blockBytes (s : State) (t : Nat) (arg : Word) : List Byte :=
  (blockCells (acRowb arg) (acColb arg)).flatMap fun c => leBytes 4 (accRead (s.acc t c.1 c.2)).toNat

/-- The block with its cells read from tile SRAM. -/
def State.blockFrom (s : State) (t off : Nat) (arg : Word) : Tile :=
  (blockCells 0 0).foldl (fun (y : Tile) c =>
    y.setAcc (32 * acRowb arg + c.1) (32 * acColb arg + c.2) (BitVec.ofNat 32 (s.sramRead t (off + 128 * c.1 + 4 * c.2) 4))) (s.tile t)

/-- acpy's copy. -/
def State.copyBlock (s : State) (t off : Nat) (arg : Word) : State :=
  if acDir arg then s.setTile t (s.blockFrom t off arg)
  else
    let s1 := s.sramWrite t off (s.blockBytes t arg)
    if acClr arg then s1.modTile t fun x => x.clearBlock (acRowb arg) (acColb arg) else s1

/-! ## Sparse forms (R191, R354, R355) -/

/-- A sparse form takes one token of its coordinate stream, and copies it to the compiler when it forwards. With no token there, it
waits, or ends when its graph is being unloaded (R410; log 40). -/
def State.takeCoord (s : State) (t : Nat) (m : MOp) (ident : Word) (port : Nat) : State :=
  match s.portHead m.core port with
  | none =>
    if s.tileCut t then (if m.fwd then s.cutStream t ident else s).popMat t m
    else s.modTcore m.core fun c => { c with atPort := some port }
  | some f =>
    let s1 := ((s.popPort m.core port).modTcore m.core fun c => { c with atPort := none }).modHead t fun y =>
      { y with scan := y.scan.token f, took := y.took ++ [f] }
    if m.fwd then s1.forwardToken (t / 32) t ident f else s1

/-- The block cycles of the fallback: four words per cycle, then the dense ops of its blocks (R355). -/
def fallTime (md : Word) (c : Scan) : Nat := (c.words.length + 3) / 4 + (blocksOf c.ent).length * mgTime md

/-- The fallback runs; a malformed stream or another nb halts its core (R355). -/
def State.endFall (s : State) (t : Nat) (m : MOp) (began : Nat) : State :=
  if m.scan.bad || m.scan.nb != mdNb m.md then s.haltOp t m cUND
  else if s.tileCyc t < began + fallTime m.md m.scan then s
  else (s.setTile t (s.runFallback t (m.core % 2) m.md m.scan)).popMat t m

/-- The program runs; a corrupted op halts its core (R95, R354). -/
def State.endProgram (s : State) (t : Nat) (m : MOp) (began nb : Nat) (prog : List (BitVec 32)) : State :=
  if s.tileCyc t < began + progTime m.md prog then s
  else
    let r := s.runProgram t (m.core % 2) m.md nb prog
    if r.2 then s.haltOp t m cECC else (s.setTile t r.1).popMat t m

/-- A sparse form's turn: its stream to the outermost stop, then its run. -/
def State.sparseTurn (s : State) (t : Nat) (m : MOp) (began : Nat) (ident : Word) (port : Nat) : State :=
  if !m.scan.done then s.takeCoord t m ident port
  else
    match m.sp with
    | .fresh | .waitc => s
    | .fall => s.endFall t m began
    | .ready nb prog => s.endProgram t m began nb prog

/-! ## Ends (R182, R186 to R188) -/

/-- An operation that takes `n` cycles and then has its whole effect. -/
def State.endAfter (s : State) (t : Nat) (m : MOp) (began n : Nat) (eff : State → State) : State :=
  if s.tileCyc t < began + n then s else (eff s).popMat t m

/-- mzero's effect (R187). -/
def Tile.zeroBlock (x : Tile) (md : Word) : Tile := (x.clearBlock (mdRowb md) (mdColb md)).setKidx (mdRowb md) (mdColb md) 0

/-- The 16-byte words that a gang-issue form reads: planes, scale words and group words of both operands (R53, R54, R167). -/
def mgWords (md : Word) (set : Nat) : List Nat :=
  let span (a n : Nat) : List Nat := (List.range ((n + 15) / 16)).map fun i => a + 16 * i
  span (planeBase false set) (512 * mdW md * (mdApl md + 1)) ++ span (planeBase true set) (512 * mdW md * (mdBpl md + 1)) ++
    span (scaleBase false set) 32768 ++ span (scaleBase true set) 32768 ++ (if isGroup (mdAfmt md) then span (groupBase set) 16384 else [])

/-- A gang-issue form reads one of its words before its end; each word is read once (R186). -/
def State.readWord (s : State) (t i : Nat) : Out :=
  match (s.tile t).mq.head? with
  | none => .next s
  | some m =>
    match m.kind, m.began, (mgWords m.md (m.core % 2))[i]? with
    | .mg, some _, some a =>
      if m.seen.any fun e => e.1 == a then .next s
      else .next (s.modHead t fun y => { y with seen := (a, Memory.read s.mem (sramAddr t a) 16) :: y.seen })
    | _, _, _ => .next s

/-- The first `n` K blocks of a gang-issue form, on the words as it has read them: those not read before are read now (R186). -/
def State.runGang (s : State) (t : Nat) (m : MOp) (n : Nat) : State :=
  let view : State := m.seen.foldl (fun (s : State) e => s.poke (sramAddr t e.1) e.2) s
  let x := (view.partGang t (m.core % 2) m.md n).tile t
  s.setTile t x

/-- The running operation's turn. -/
def State.endOp (s : State) (t : Nat) (m : MOp) (began : Nat) : State :=
  match m.kind with
  | .mg => s.endAfter t m began (mgTime m.md) fun s => s.runGang t m (mdNb m.md)
  | .mzero => s.endAfter t m began 4 fun s => s.modTile t fun x => x.zeroBlock m.md
  | .acpy off arg => s.endAfter t m began 64 fun s => s.copyBlock t off arg
  | .mdrain arg steers rsel => s.drainTurn t m began arg steers rsel
  | .mspx ident port _ => s.sparseTurn t m began ident port

/-- The running operation of a matrix queue goes on, and ends with its effects once its time has passed (R182). -/
def execMatrixOpEnd (tile : Nat) (s : State) : Out :=
  match (s.tile tile).mq.head? with
  | none => .next s
  | some m =>
    match m.began with
    | none => .next s
    | some c => .next (s.endOp tile m c)

end Sys2Proof.Machine
end

