-- ==== Sys2Proof/Machine/Contexts.lean ====
section
/-!
DEFINITION. Contexts of tiles and graphs: what a load puts into tiles, memory ports and converters (R228 to R232), context switches
(R180), splices (R255 to R257), configuration flits (R238) and the end of a graph (R240).
-/
namespace Sys2Proof.Machine

/-! ## What a declared context gives a tile (R228, R230, R291) -/

/-- The consumers that a route has at graph tile `i`. -/
def Route.insAt (r : Route) (i : Nat) : List InRoute :=
  r.dsts.filterMap fun d =>
    match d.2 with
    | .port t c p w => if t = i then some { num := r.num, steer := d.1, dst := .port c p (w.getD 8) } else none
    | .ring t n => if t = i then some { num := r.num, steer := d.1, dst := .ring n } else none
    | .sram t => if t = i then some { num := r.num, steer := d.1, dst := .sram } else none
    | .place t b => if t = i then some { num := r.num, steer := d.1, dst := .place b } else none
    | .node _ | .xq _ _ | .lp _ | .lpAdd _ => none

/-- The request port of a command route (R244). -/
def Route.cmdPort (r : Route) : Option Nat :=
  r.dsts.findSome? fun d =>
    match d.2 with
    | .xq _ p => some p
    | .node _ | .port _ _ _ _ | .ring _ _ | .sram _ | .place _ _ | .lp _ | .lpAdd _ => none

/-- The steer set of a steered route (R322). -/
def Route.steerSet (r : Route) : Option (List Nat) :=
  if r.dsts.any fun d => d.1.isSome then some (r.dsts.filterMap Prod.fst) else none

/-- The tile of a program node. -/
def Node.progTile : Node → Option Nat
  | .prog t _ _ => some t
  | .conv _ _ _ _ | .agen _ _ _ _ _ _ _ | .esc _ _ _ => none

/-- The core and entry of a program node of graph tile `i`. -/
def Node.progAt (i : Nat) : Node → Option (Nat × Word)
  | .prog t c e => if t = i then some (c, e) else none
  | .conv _ _ _ _ | .agen _ _ _ _ _ _ _ | .esc _ _ _ => none

/-- The handler index and pool of an escape node of graph tile `i`. -/
def Node.escAt (i : Nat) : Node → Option (Nat × Nat)
  | .esc t h p => if t = i then some (h, p) else none
  | .prog _ _ _ | .conv _ _ _ _ | .agen _ _ _ _ _ _ _ => none

/-- The program nodes of graph tile `i` in a context. -/
def GCtx.progs (x : GCtx) (i : Nat) : List (Nat × Word) := x.nodes.filterMap (Node.progAt i)

/-- The escape nodes of graph tile `i`, in declared order. -/
def GCtx.escs (x : GCtx) (i : Nat) : List (Nat × Nat) := x.nodes.filterMap (Node.escAt i)

/-- Whether a program node of graph tile `i` produces a route. -/
def GCtx.sends (x : GCtx) (i : Nat) (r : Route) : Bool :=
  match r.src with
  | .node n => (x.nodes[n]?.bind Node.progTile) == some i
  | .xq _ _ | .lp _ => false

/-- The route-table entry for sending on a route. -/
def Route.toOut (r : Route) : OutRoute :=
  { num := r.num, cmd := r.cmdPort, steer := r.steerSet }

/-- The least of a list of numbers. -/
def least : List Nat → Option Nat
  | [] => none
  | a :: l => some (l.foldl min a)

/-- The digest of a context image. -/
def imageDigest (words : Nat) (image : Tab (BitVec 256)) : BitVec 512 :=
  BitVec.ofNat 512 (leNat (shake256 ((List.range words).flatMap fun i => leBytes 32 (Tab.get 0 image i).toNat) 64))

/-- The context image of graph tile `i` for context `c`, with nothing of it arrived yet; an image without words is bad at once when its
measurement is not that of no bytes (R238). An idle context binds no route (R228). -/
def tileCtxOf (gid c i : Nat) (x : GCtx) (args : List Word) : TileCtx :=
  { gid := gid, gctx := c, gtile := i
    code := (x.code.filter fun e => decide (e.1 = i)).foldl (fun m e => Tab.set 0 m e.2.1 e.2.2) []
    entry := x.progs i
    args := args
    inr := if x.idle then [] else x.routes.flatMap fun r => r.insAt i
    outr := if x.idle then [] else (x.routes.filter (x.sends i)).map Route.toOut
    rings := (x.rings.filter fun r => decide (r.tile = i)).map fun r => (r.ring, r.off, r.size)
    escs := x.escs i
    reent := least ((x.progs i).map Prod.fst)
    words := (x.image i).1.length
    digest := (x.image i).2
    got := 0
    bad := (decide (i < x.images.length) || !(x.progs i).isEmpty) && decide ((x.image i).1 = []) && imageDigest 0 [] != (x.image i).2
    idle := x.idle }

/-! ## Nodes outside tiles (R230, R232, R266, R395) -/

def Node.isConv : Node → Bool
  | .conv _ _ _ _ => true
  | .prog _ _ _ | .agen _ _ _ _ _ _ _ | .esc _ _ _ => false

/-- The conv nodes of a graph: context and node index, in declared order. -/
def GraphDesc.convNodes (d : GraphDesc) : List (Nat × Nat) :=
  (List.range d.ctxs.length).flatMap fun c =>
    match d.ctxs.getD c none with
    | none => []
    | some x => ((List.range x.nodes.length).filter fun i => ((x.nodes[i]?).map Node.isConv).getD false).map fun i => (c, i)

/-- The position that the loader gave a conv node. -/
def Graph.convPos (g : Graph) (c i : Nat) : Option Nat :=
  ((g.desc.convNodes.zip g.convs).find? fun e => e.1 == (c, i)).map Prod.snd

/-- The routes into a node, and the route out of it. R245 does not say what each route carries when a converter or load node is named as
producer of several: every token goes out on the first declared one (DESIGN CHOICE, log 110). -/
def GCtx.into (x : GCtx) (i : Nat) : List Nat :=
  (x.routes.filter fun r => r.dsts.any fun d => d.2 == .node i).map Route.num
def GCtx.outOf (x : GCtx) (i : Nat) : Nat :=
  ((x.routes.find? fun r => r.src == .node i).map Route.num).getD 0

/-- The route that an agen node's tokens come by, or leave by. -/
def GCtx.agenRoute (x : GCtx) (i : Nat) (store : Bool) : Nat := if store then (x.into i).headD 0 else x.outOf i

/-- The base of an agen node (R230). -/
def AgenBase.value (args : List Word) : AgenBase → Word
  | .const w => w
  | .arg n off => args.getD n 0 + off

/-- A new agen node at its port. -/
def newAgen (gid c : Nat) (ins : List Nat) (route : Nat) (args : List Word) (store : Bool) (base : AgenBase) (run : Nat)
    (gap : Word) (count : Nat) (et : EType) : Agen :=
  { gid := gid, ins := ins, gctx := c, store := store, base := base.value args, run := run, gap := gap, count := count, et := et
    route := route, active := false, n := 0, part := [], inq := [], outq := [], arrs := 0, stall := none, halted := false
    waited := none, tlb := [], walked := none, far := .idle }

/-- A new converter at its position. -/
def newConv (gid : Nat) (ins : List Nat) (route : Nat) (src : ConvFrom) (dst : ConvTo) (planes : Nat) : Conv :=
  { gid := gid, ins := ins, src := src, dst := dst, planes := planes, route := route, inq := [], outq := [], vals := [], blkn := 0
    off := none, count := 0, halted := false, waited := none }

/-- Whether a store node has written part of a token, or has asked for it. -/
def Agen.midStore (a : Agen) : Bool := a.store && (!a.part.isEmpty || a.far != .idle)

/-- An agen node keeps the tokens that its port already holds for the same graph. A token that is partly written goes on where it
stands (R314), and the count of R232 starts after it; what has been read of a token goes. -/
def Agen.keep (a : Agen) (old : Option Agen) : Agen :=
  match old with
  | none => a
  | some o =>
    if o.gid = a.gid then
      { a with inq := o.inq, outq := o.outq, arrs := o.arrs, stall := o.stall, want := o.want, halted := o.halted, tlb := o.tlb
               walked := o.walked
               part := if o.midStore then o.part else []
               at_ := if o.midStore then some (o.addr 0) else none
               far := if o.midStore || o.far == .reading then o.far else .idle
               ignore := !o.store && o.far == .reading }
    else a

/-- A converter keeps what its position already holds for the same node. -/
def Conv.keep (x : Conv) (old : Option Conv) : Conv :=
  match old with
  | none => x
  | some o => if o.gid = x.gid ∧ o.route = x.route then o else x

/-- Installs a node that stands outside the tiles, active or not. -/
def State.putNode (s : State) (gid : Nat) (g : Graph) (c : Nat) (x : GCtx) (act : Bool) (i : Nat) : State :=
  match x.nodes[i]? with
  | some (.agen m store base run gap count et) =>
    s.setAgen m (some { (newAgen gid c (x.into i) (x.agenRoute i store) g.args store base run gap count et).keep (s.agen m) with
      active := act })
  | some (.conv _ src dst planes) =>
    (match g.convPos c i with
      | none => s
      | some p => s.setConv p (some ((newConv gid (x.into i) (x.outOf i) src dst planes).keep (s.conv p))))
  | some (.prog _ _ _) | some (.esc _ _ _) | none => s

/-- Installs the nodes of a graph's context. -/
def State.putNodes (s : State) (gid : Nat) (g : Graph) (c : Nat) (act : Bool) : State :=
  match g.ctx c with
  | none => s
  | some x => (List.range x.nodes.length).foldl (fun s i => s.putNode gid g c x act i) s

/-- Whether some tile of a graph is current in its context `c`. -/
def State.inCtx (s : State) (gid c : Nat) : Bool :=
  match s.graph gid with
  | none => false
  | some g => (s.current gid g).contains c

/-- An agen node stays active while a tile of its graph is current in its context (R232). -/
def State.idleAgens (s : State) : State :=
  s.modDev fun d => { d with agens := Tab.mapVals none (fun _ x => match x with
    | none => none
    | some a => some { a with active := a.active && s.inCtx a.gid a.gctx }) d.agens }

/-! ## Making a context current (R180, R231) -/

/-- A compute core as a context starts it (R19, R180, R231). -/
def TileCtx.startCore (x : TileCtx) (i : Nat) (c : TCore) : TCore :=
  match x.entry.find? fun e => decide (e.1 = i) with
  | none => { c with run := .idle, ctx := Ctx.zero, mdesc := 0, rsel := 0, ports := [], sentAt := [], waited := none, atPort := none }
  | some e =>
    { c with
      run := .run
      ctx := { Ctx.zero with
        pc := bundleAddr e.2
        s := (List.range 4).foldl (fun v k => v.setIfInBounds (4 + k) (x.args.getD k 0)) Ctx.zero.s }
      mdesc := 0, rsel := 0, ports := [], sentAt := [], waited := none, atPort := none }

/-- The place of a port's consumer among those of a route. -/
def TileCtx.tagOf (x : TileCtx) (core port route : Nat) : Nat :=
  ((x.binds route).findIdx? fun r => r.dst.isPort core port).getD 0

/-- The tokens queued at the ports of a tile go back to their routes, in front of those that wait there; splice markers have
done their work (R180, R256). -/
def State.portTokens (s : State) (t : Nat) (x : TileCtx) : List (Option Nat × Flit) :=
  (List.range 4).flatMap fun i => (s.tcore (4 * t + i)).ports.flatMap fun e =>
    (e.2.filter fun f => !f.isMarker).map fun f => (some (x.tagOf i e.1 (hRoute f.hdr)), f)

/-- The rings that both contexts declare alike keep their offsets; every other ring is empty (R180, R291). -/
def keptRings (old : Option TileCtx) (new : TileCtx) (l : Tab Ring) : Tab Ring :=
  l.filter fun e =>
    match old, new.rings.find? fun d => decide (d.1 = e.1) with
    | some o, some d => o.rings.contains d
    | _, _ => false

/-- Whether two consumers take each other's place when contexts change: a port that of another port, and anything else its like. -/
def Consumer.follows : Consumer → Consumer → Bool
  | .port _ _ _, .port _ _ _ => true
  | a, b => a == b

/-- An inbox entry as a new context finds it: tokens stay on their routes and go to whichever port the new context binds, each once; one
whose route no context has bound so far goes to every consumer that the new context binds (R180, R241). -/
def TileCtx.retag (new : TileCtx) (old : Option TileCtx) (e : Option Nat × Flit) : List (Option Nat × Flit) :=
  match e.1, old.bind fun x => x.consumer e with
  | none, _ => new.copies e.2
  | some _, none => [e]
  | some _, some i =>
    match (new.binds (hRoute e.2.hdr)).findIdx? fun r => i.dst.follows r.dst && i.steer == r.steer with
    | none => [e]
    | some k => [(some k, e.2)]

/-- The inbox of a tile as a new context finds it. -/
def State.switchInbox (s : State) (t : Nat) (old : Option TileCtx) (new : TileCtx) : List (Option Nat × Flit) :=
  ((match old with
    | none => []
    | some x => s.portTokens t x) ++ ((s.tile t).inbox.filter fun e => !e.2.isMarker)).flatMap (new.retag old)

/-- Starts the cores of a tile. -/
def State.startCores (s : State) (t : Nat) (x : TileCtx) : State :=
  (List.range 4).foldl (fun s i => s.modTcore (4 * t + i) (x.startCore i)) s

/-- Makes context `n` of a tile current (R180, R231, R232). -/
def State.switchTo (s : State) (t n : Nat) : State :=
  match Tab.get none (s.tile t).ctxs n with
  | none => s
  | some x =>
    let old := s.tileCtx t
    let first := !s.inCtx x.gid x.gctx
    let s1 := s.modTile t fun y =>
      { y with cur := some n, succ := if y.succ = some n then none else y.succ, rings := keptRings old x y.rings, sent := []
               inbox := s.switchInbox t old x }
    let s2 := (s1.startCores t x)
    (match s.graph x.gid with
      | none => s2
      | some g => if first then s2.putNodes x.gid g x.gctx true else s2).idleAgens

/-! ## When a tile switches (R180, R256) -/

/-- Whether a context of a tile is one of its current graph's idle contexts. -/
def State.idleCtx (s : State) (t n : Nat) : Bool :=
  match s.tileCtx t, Tab.get none (s.tile t).ctxs n with
  | some x, some y => y.idle && y.gid == x.gid
  | _, _ => false

/-- What a switch to context `n` makes current: the loaded successor, in place of an idle context (R256). -/
def State.ctxTarget (s : State) (t n : Nat) : Nat :=
  match (s.tile t).succ with
  | some m => if s.idleCtx t n && s.loaded t m then m else n
  | none => n

/-- Whether a core waits at a port that has a splice marker at its head (R256). -/
def State.atMarker (s : State) (k : Nat) : Bool :=
  match (s.tcore k).atPort with
  | none => false
  | some p => ((s.portQueue k p).head?.map Flit.isMarker).getD false

/-- Where a core waits to switch to: nowhere yet (none), anywhere (some none), or a context. -/
def State.wants (s : State) (t i : Nat) : Option (Option Nat) :=
  let k := 4 * t + i
  match (s.tcore k).run with
  | .idle => some none
  | .ctxsw n => some (some (s.ctxTarget t n))
  | .run => if s.atMarker k then (s.tile t).succ.map some else none
  | .held | .sync _ _ _ | .faulted _ => none

/-- The context that all of a tile's cores wait to switch to; a tile that is idle already switches to a loaded successor. -/
def State.agreed (s : State) (t : Nat) : Option Nat :=
  let ws := (List.range 4).map (s.wants t)
  if ws.any Option.isNone then none
  else
    match ws.filterMap (fun w => w.join) with
    | [] => if ((s.tile t).cur.map (s.idleCtx t)).getD false then (s.tile t).succ.filter (s.loaded t) else none
    | n :: l => if l.all (· == n) then some n else none

/-- Whether a tile has drained: its matrix queue is empty, its tokens have left its streamers, those for its own SRAM having been
written (log 104), and no escape is out (R180). -/
def State.tileDrained (s : State) (t : Nat) : Bool :=
  (s.tile t).mq.isEmpty && ((List.range 4).all fun i => (s.tcore (4 * t + i)).outq.isEmpty) &&
    !s.ownPending t Consumer.isBank && (s.tile t).escs.all fun e => e.2.out.isEmpty

/-- The tile's switch, when every core has issued ctxsw and the tile has drained. -/
def State.switchDue (s : State) (t : Nat) : Option Nat := if s.tileDrained t then s.agreed t else none

/-- A tile switches to the context that its cores have asked for (R180). -/
def execContextSwitch (tile : Nat) (s : State) : Out :=
  match s.switchDue tile with
  | none => .next s
  | some n => if (s.tile tile).succ = some n then .next s else .next (s.switchTo tile n)

/-- A tile switches to its loaded successor, and its streamers have a splice marker to send on every route that the old
context bound (R256). -/
def execSpliceSwitch (tile : Nat) (s : State) : Out :=
  match s.switchDue tile with
  | none => .next s
  | some n =>
    if (s.tile tile).succ = some n then
      let routes := match s.tileCtx tile with
        | none => []
        | some x => x.outr.map OutRoute.num
      .next ((s.switchTo tile n).modTile tile fun y => { y with markers := y.markers ++ routes.map fun r => (r, n) })
    else .next s

/-- Whether a token of a route that a tile's graph sends has not entered its consumer's port yet: it stands in a link, or in the inbound
streamer of a tile. -/
def State.onWay (s : State) (tile route : Nat) : Bool :=
  match s.routeOwner (s.tileRouter tile) route with
  | none => false
  | some gid => s.onRoute gid route

/-- The identity of the graph that a context of a tile belongs to: the address of its section (R87; log 107). -/
def State.graphIdent (s : State) (t n : Nat) : Word :=
  (((Tab.get none (s.tile t).ctxs n).bind fun x => s.graph x.gid).map Graph.gaddr).getD 0

/-- A streamer sends a splice marker once every token of its own route has entered its consumer's port (R256). -/
def execSpliceMarker (tile : Nat) (s : State) : Out :=
  match (s.tile tile).markers.find? fun m => !s.onWay tile m.1 with
  | none => .next s
  | some (route, n) =>
    .next ((s.inject (s.tileRouter tile)
      { hdr := mkHdr 7 0 0 route 0 0 0 (n % 4), pay := (s.graphIdent tile n).setWidth 256 }).modTile tile fun y =>
      { y with markers := y.markers.erase (route, n) })

/-! ## Configuration flits (R238) -/

/-- The flit that brings word `i` of a context image for context `n` (R87, R89). -/
def cfgFlit (n i : Nat) (w : BitVec 256) : Flit := { hdr := mkHdr 6 0 0 0 0 0 0 (n % 4 + i * 4), pay := w }

/-- A context with one more word of its image; the last one completes it, and one that does not match its measurement is bad (R238). -/
def TileCtx.word (x : TileCtx) (i : Nat) (w : BitVec 256) : TileCtx :=
  let image := Tab.set 0 x.image i w
  { x with got := x.got + 1, image := image
           bad := x.bad || (decide (x.got + 1 = x.words) && imageDigest x.words image != x.digest) }

/-- Changes a context of a tile. -/
def State.modCtx (s : State) (t n : Nat) (f : TileCtx → TileCtx) : State :=
  s.modTile t fun y => { y with ctxs := Tab.set none y.ctxs n ((Tab.get none y.ctxs n).map f) }

/-- A configuration flit is corrupted: it is discarded, and its image is bad (R238). -/
def State.badCfg (s : State) (t : Nat) (f : Flit) : State := s.modCtx t (hKs f.hdr % 4) fun x => { x with bad := true }

/-- A configuration flit brings 32 bytes of a context image; one for the current context is not accepted. -/
def execConfigurationFlit (tile : Nat) (s : State) : Out :=
  match (s.tile tile).cfg with
  | [] => .next s
  | f :: l =>
    let s1 := s.modTile tile fun y => { y with cfg := l }
    if f.broken then .next (s1.badCfg tile f)
    else if (s.tile tile).cur == some (hKs f.hdr % 4) then .next s1
    else .next (s1.modCtx tile (hKs f.hdr % 4) fun x => x.word (hKs f.hdr / 4) f.pay)

/-! ## The end of a graph (R240) -/

/-- The route numbers that a graph declares. -/
def Graph.routes (g : Graph) : List Nat :=
  (g.desc.ctxs.flatMap fun c => match c with
    | none => []
    | some x => x.routes.map Route.num).eraseDups

/-- Whether the graph is the predecessor that a graph was spliced behind. -/
def State.follows (s : State) (next gid : Nat) : Bool :=
  match s.graph next with
  | none => false
  | some g => g.pred == some gid

/-- Whether a tile of a graph is done: current in an idle context of it, or in a successor's context. -/
def State.tileDone (s : State) (gid t : Nat) : Bool :=
  match s.tileCtx t with
  | none => false
  | some x => (x.gid == gid && x.idle) || s.follows x.gid gid

/-- Whether a flit is a token of a graph at a router: the route's entry there is the graph's (R237). -/
def State.ownFlit (s : State) (gid r : Nat) (f : Flit) : Bool := !f.isMarker && s.routeOwner r (hRoute f.hdr) == some gid

/-- Whether a token of a graph remains in a router, a port or a node. -/
def State.tokensLeft (s : State) (gid : Nat) (g : Graph) : Bool :=
  (s.mesh.links.any fun e => e.2.any (s.ownFlit gid (e.1 / 20))) ||
  (g.place.any fun t =>
    let own := s.ownFlit gid (s.tileRouter t)
    ((s.tile t).inbox.any fun e => own e.2) ||
      (((s.tileCtx t).map TileCtx.gid == some gid) && (s.tile t).escs.any fun e => !e.2.queue.isEmpty || !e.2.out.isEmpty) ||
      (List.range 4).any fun i => ((s.tcore (4 * t + i)).ports.any fun e => e.2.any own) || (s.tcore (4 * t + i)).outq.any own) ||
  (s.dev.agens.any fun e => match e.2 with
    | none => false
    | some a => a.gid == gid && (!a.inq.isEmpty || !a.outq.isEmpty || a.arrs != 0 || a.halted || (a.active && !a.store))) ||
  (s.dev.convs.any fun e => match e.2 with
    | none => false
    | some c => c.gid == gid && (!c.inq.isEmpty || !c.outq.isEmpty || !c.vals.isEmpty || c.halted)) ||
  (s.dev.adders.any fun e => e.2.any fun a => a.gid == gid && (!a.up.isEmpty || !a.loc.isEmpty || a.halted))

/-- Whether a transfer or a command of a graph is still there. -/
def State.xfersLeft (s : State) (gid : Nat) : Bool :=
  (s.dev.xfers.any fun e => match e.2 with
    | none => false
    | some x => x.gid == some gid) ||
  s.blks.any fun b => b.2.ports.any fun p => p.2.arr.any fun a => a.gid == gid

/-- Whether the resources of a graph that uses them come free. -/
def State.graphDone (s : State) (gid : Nat) (g : Graph) : Bool :=
  g.live && (g.place.all (s.tileDone gid)) && !s.tokensLeft gid g && !s.xfersLeft gid

/-- A tile without the contexts of a graph, and without the tokens and markers of the routes that are the graph's there. -/
def Tile.without (x : Tile) (gid : Nat) (mine : Nat → Bool) : Tile :=
  let gone (c : Option TileCtx) : Bool := (c.map TileCtx.gid) == some gid
  { x with
    cur := if ((x.cur.map fun n => gone (Tab.get none x.ctxs n))).getD false then none else x.cur
    succ := if ((x.succ.map fun n => gone (Tab.get none x.ctxs n))).getD false then none else x.succ
    ctxs := x.ctxs.filter fun e => !gone e.2
    inbox := x.inbox.filter fun e => !mine (hRoute e.2.hdr)
    markers := x.markers.filter fun m => !mine m.1 }

/-- The mesh without the entries of a graph. -/
def Mesh.without (m : Mesh) (gid : Nat) : Mesh :=
  let mine (k : Nat) : Bool := Tab.get 0 m.owner k == gid + 1
  { m with rtab := m.rtab.filter fun e => !mine e.1, steer := m.steer.filter fun e => !mine e.1
           owner := m.owner.filter fun e => e.2 != gid + 1 }

/-- Frees the contexts, converters, memory ports, adders and route-table entries of a graph (R240). -/
def State.freeGraph (s : State) (gid : Nat) (g : Graph) : State :=
  let s1 := g.place.foldl (fun s t => s.modTile t fun x => x.without gid fun r => s.routeOwner (s.tileRouter t) r == some gid) s
  ({ s1 with mesh := s1.mesh.without gid }).modDev fun d =>
    { d with
      agens := d.agens.filter fun e => (e.2.map Agen.gid) != some gid
      convs := d.convs.filter fun e => (e.2.map Conv.gid) != some gid
      adders := Tab.mapVals [] (fun _ l => l.filter fun a => a.gid != gid) d.adders
      graphs := Tab.set none d.graphs gid none }

/-- A graph ends (R240). -/
def execGraphEnd (gid : Nat) (s : State) : Out :=
  match s.graph gid with
  | none => .next s
  | some g => if s.graphDone gid g then .next (s.freeGraph gid g) else .next s

end Sys2Proof.Machine
end

