-- ==== Sys2Proof/Machine/Agens.lean ====
section
/-!
DEFINITION. Address-generator nodes at the memory ports (R232, R233, R277, R314): load nodes, store nodes, and the arrivals at a
graph's done word.
-/
namespace Sys2Proof.Machine

/-! ## Addresses and accesses -/

/-- The element that a node has reached. -/
def Agen.elem (a : Agen) : Nat := 8 * a.n + a.part.length

/-- How a node translates an address, with the rights of user privilege. -/
def State.agenXl (s : State) (m : Nat) (a : Agen) (va : Word) (wr : Bool) : Xl :=
  if va.toNat ≥ 2 ^ 52 then .bad cPAGE_NP
  else if va.toNat % 4 ≠ 0 then .bad cALIGN
  else
    s.xlate [a.tlb, (s.blk (m / 8)).tlb] a.walked va.toNat { rd := !wr, wr := wr, ex := false, sv := false }

/-- A node stops with a cause, and its region gets a record (R277, R308): class 2. -/
def State.stopAgen (s : State) (m : Nat) (a : Agen) (cause : BitVec 8) (va : Word) : State :=
  (s.setAgen m (some { a with halted := true, waited := none, far := .idle, walked := none })).regionNotice (some a.gid) (m / 8) 2
    (m % 8) 0 cause true a.route va (wd a.elem)

/-- PAGE_NP stalls a node with a future entry; while none is free it stays stalled and waits for one (R311, R314). -/
def State.stallAgen (s : State) (m : Nat) (a : Agen) (va : Word) : State :=
  let f := s.originField (some a.gid) (m / 64)
  match s.takeFut f 2 (.agen m) va []
      { cause := cPAGE_NP, route := a.route, unit := recUnit (m / 8) 2 (m % 8), va := va, pos := wd a.elem
        time := s.ctime (m / 8) } with
  | some s1 => s1.setAgen m (some { a with stall := some f, want := none, walked := none })
  | none => s.setAgen m (some { a with want := some va, walked := none })

/-- Runs `k` with the translation of a node's access. -/
def State.agenAcc (s : State) (m : Nat) (a : Agen) (va : Word) (wr : Bool) (k : State → Agen → Phys → State) : State :=
  match s.agenXl m a va wr with
  | .ok p => k s { a with walked := none } p
  | .miss => s.startWalk (m / 8) va.toNat (if wr then .write else .read) (.agen m)
  | .bad c => if c = cPAGE_NP then s.stallAgen m a va else s.stopAgen m a c va

/-- A flit that a node sends through its memory port takes a token of the port's bucket (R419). -/
def State.portToken (s : State) (m : Nat) : Bool := (s.field (m / 64)).bkmem.holds (Tab.get 0 s.dev.spentm m)
def State.spendPort (s : State) (m : Nat) : State :=
  s.modDev fun d => { d with spentm := Tab.set 0 d.spentm m (Tab.get 0 d.spentm m + 1) }

/-- Whether a node may act at all. -/
def Agen.runs (a : Agen) : Bool := !a.halted && a.stall.isNone && a.want.isNone

/-- What a node's event does: a node that waits for a future entry takes one when it can, and a node that may act does `k` (R311). -/
def State.agenRun (s : State) (m : Nat) (a : Agen) (k : Out) : Out :=
  match a.want with
  | some va => if a.halted then .next s else .next (s.stallAgen m a va)
  | none => if a.runs then k else .next s

/-- The elements, from the one reached, that lie in its page: at most `n` in the token. -/
def Agen.span (a : Agen) (n : Nat) : Nat :=
  min (n - a.part.length) ((65536 - (a.addr a.part.length).toNat % 65536) / 4)

/-- Words of 32 bits as a number, and back. -/
def wordsNat (l : List (BitVec 32)) : Nat := leNat (l.flatMap fun w => leBytes 4 w.toNat)
def natWords (x : Nat) (k : Nat) : List (BitVec 32) := (List.range k).map fun i => BitVec.ofNat 32 (bitsN x (32 * i) 32)

/-- Sends a node's memory request to another device (R338). -/
def State.agenAsk (s : State) (m : Nat) (a : Agen) (dev pa n form : Nat) (data : Nat) (va : Word) (far : Far) : State :=
  match s.sendPacket dev 0 (some (.agen m))
      [{ hdr := mkHdr 4 0 0 0 0 0 0 (s.fresh % 2 ^ 14), pay := Config.memReqPayload pa n form (BitVec.ofNat 256 data) }] with
  | some s1 => s1.next.setAgen m (some { a with far := far })
  | none => s.stopAgen m a cLINK_LOST va

/-! ## Load nodes (R232) -/

/-- The elements read so far, with `l` behind them: a whole token goes out, the last one with stop 1. -/
def Agen.gained (a : Agen) (l : List (BitVec 32)) : Agen :=
  let p := a.part ++ l
  if p.length < 8 then { a with part := p, far := .idle }
  else
    { a with
      part := [], far := .idle, n := a.n + 1
      outq := a.outq ++ [{ hdr := mkHdr 0 7 (if a.n + 1 = a.count then 1 else 0) a.route 0 0 (etCode a.et) 0
                           pay := BitVec.ofNat 256 (wordsNat p) }] }

/-- Reads the elements of the page reached: of DRAM through a combining window of its block (R366), of another device by a request (R338);
what either has answered is taken. -/
def State.agenRead (s : State) (m : Nat) (a : Agen) : State :=
  let va := a.addr a.part.length
  let k := a.span 8
  s.agenAcc m a va false fun s a p =>
    match a.far with
    | .read x => s.setAgen m (some (a.gained (natWords x.toNat k)))
    | .lost _ => s.stopAgen m a cLINK_LOST va
    | .reading | .writing | .wrote => s
    | .idle =>
      match p.home with
      | .remote dev => s.agenAsk m a dev p.wire (4 * k) 0 0 va .reading
      | .dram =>
        (s.joinLoad (m / 8) { who := .inr m, va := va.toNat, phys := p, n := 4 * k }).setAgen m (some { a with far := .reading })
      | .aperture | .regs | .host =>
        s.edge p fun s => s.setAgen m (some (a.gained (natWords (leNat (s.spanRead p (4 * k))) k)))

/-- A token that is ready leaves, or the node waits for room (R330, R419); that of a graph which is unloaded is discarded (R410). -/
def State.agenEmit (s : State) (m : Nat) (a : Agen) (f : Flit) (l : List Flit) : State :=
  if s.regionCut a.gid then s.setAgen m (some { a with outq := l, waited := none })
  else if !s.linkRoom (memRouter m) .inject 0 then s.setAgen m (some { a with waited := some (a.waited.getD 0) })
  else if !s.portToken m then s
  else ((s.inject (memRouter m) f).setAgen m (some { a with outq := l, waited := none })).spendPort m

/-- A load node reads and emits its next token (R232). -/
def execAgenLoadToken (m : Nat) (s : State) : Out :=
  match s.agen m with
  | none => .next s
  | some a =>
    if a.store then .next s
    else s.agenRun m a <|
      match a.outq with
      | f :: l => .next (s.agenEmit m a f l)
      | [] => if a.active && decide (a.n < a.count) then .next (s.agenRead m a) else .next s

/-! ## Store nodes (R232) -/

/-- A store node has written `k` more elements of its token; the whole token is handled with its last element. -/
def Agen.stored (a : Agen) (f : Flit) (l : List (BitVec 32)) (arr : Bool) : Agen :=
  let p := a.part ++ l
  if p.length ≤ hLen f.hdr then { a with part := p, far := .idle }
  else
    { a with part := [], far := .idle, at_ := none, n := if a.at_.isSome then a.n else a.n + 1, inq := a.inq.drop 1
             arrs := a.arrs + (if arr && decide (hStop f.hdr ≠ 0) then 1 else 0) }

/-- Whether the node's graph has a done word (R233). -/
def State.hasDone (s : State) (gid : Nat) : Bool :=
  match s.graph gid with
  | none => false
  | some g => g.done != 0

/-- Writes the elements of the page reached. -/
def State.agenWrite (s : State) (m : Nat) (a : Agen) (f : Flit) : State :=
  let va := a.addr a.part.length
  let k := a.span (hLen f.hdr + 1)
  let ws := ((List.range k).map fun i => lane f.pay (a.part.length + i))
  let arr := s.hasDone a.gid
  s.agenAcc m a va true fun s a p =>
    match p.home with
    | .remote dev =>
      (match a.far with
        | .idle => (s.watchWord p.sw va.toNat).agenAsk m a dev p.wire (4 * k) 1 (wordsNat ws) va .writing
        | .wrote => s.setAgen m (some (a.stored f ws arr))
        | .lost _ => s.stopAgen m a cLINK_LOST va
        | .reading | .writing | .read _ => s)
    | .dram | .aperture | .regs | .host =>
      if s.portToken m then
        s.edge p fun s =>
          ((s.spanWrite none none p va.toNat (leBytes (4 * k) (wordsNat ws))).setAgen m (some (a.stored f ws arr))).spendPort m
      else s

/-- A splice marker reaches a memory port: with one on every route into it, it is released (R257), once the arrivals that it still has to
make have been made (R233). -/
def State.markAgen (s : State) (m : Nat) (a : Agen) (route : Nat) : State :=
  if a.arrs ≠ 0 then s
  else if a.ins.all (· == route) then s.setAgen m none
  else s.setAgen m (some { a with inq := a.inq.drop 1, ins := a.ins.filter (· ≠ route) })

/-- A store node writes its next token, one event per page (R232, R314); it handles what its route still brings after its context
has been left. -/
def execAgenStoreToken (m : Nat) (s : State) : Out :=
  match s.agen m with
  | none => .next s
  | some a =>
    if !a.store then .next s
    else s.agenRun m a <|
      match a.inq with
      | [] => .next s
      | f :: _ => if f.isMarker then .next (s.markAgen m a (hRoute f.hdr)) else .next (s.agenWrite m a f)

/-! ## Arrivals at the done word (R233) -/

/-- One arrival has been made. -/
def Agen.arrived (a : Agen) : Agen := { a with arrs := a.arrs - 1, arrFar := false }

/-- Adds an arrival at the done word of a node's graph; one at another device has been made when that has performed it (R338). -/
def State.agenArrive (s : State) (m : Nat) (a : Agen) (done : Word) : State :=
  s.agenAcc m a done true fun s a p =>
    match p.home with
    | .remote dev =>
      (match (s.watchWord p.sw done.toNat).sendPacket dev 0 (some (.done m))
          [{ hdr := mkHdr 4 0 0 0 0 0 0 (s.fresh % 2 ^ 14), pay := Config.memReqPayload p.pa 16 3 1 }] with
        | some s1 => s1.next.setAgen m (some { a with arrFar := true })
        | none => s.stopAgen m a cLINK_LOST done)
    | .dram | .aperture | .regs | .host => ((s.watchWord p.sw done.toNat).syncLand p.pa 0 1).setAgen m (some a.arrived)

/-- A store node adds an arrival to its graph's done word (R233). -/
def execDoneArrival (m : Nat) (s : State) : Out :=
  match s.agen m with
  | none => .next s
  | some a =>
    if a.arrs = 0 ∨ a.arrFar = true then .next s
    else s.agenRun m a <|
      match s.graph a.gid with
      | none => .next s
      | some g => .next (s.agenArrive m a g.done)

/-- An arrival at another device has been made, or its delivery has failed. -/
def State.doneAcked (s : State) (m : Nat) (ok : Bool) : State :=
  match s.agen m with
  | none => s
  | some a =>
    if a.arrFar = false then s
    else if ok then s.setAgen m (some a.arrived)
    else s.stopAgen m { a with arrFar := false } cLINK_LOST (((s.graph a.gid).map Graph.done).getD 0)

end Sys2Proof.Machine
end

