-- ==== Sys2Proof/Machine/Alu.lean ====
section
/-!
DEFINITION. Integer and logic forms, immediates, bit fields, addresses and constants, opcodes 0x01 to 0x1F (R68, R101 to
R106).
-/
namespace Sys2Proof.Machine

/-! ## Values -/

/-- A truth value as a scalar. -/
def flagW (b : Bool) : Word := if b then 1 else 0

/-- A shift amount: s[b][5:0] (R101). -/
def shAmt (x : Word) : Nat := bits x 0 6

/-- Division (R68): by zero, all ones; MIN ÷ −1, MIN; otherwise truncated toward zero. -/
def divS (x y : Word) : Word := if y = 0 then -1 else x.sdiv y
def divU (x y : Word) : Word := if y = 0 then -1 else x.udiv y

/-- Remainders (R68): by zero, the dividend; otherwise with the sign of the dividend. -/
def remS (x y : Word) : Word := if y = 0 then x else x.srem y
def remU (x y : Word) : Word := if y = 0 then x else x.umod y

/-- Bits 127:64 of a product of two extended factors. -/
def mulHigh (x y : BitVec 128) : Word := (x * y).extractLsb' 64 64

/-- Zero bits from bit `n - 1` downwards. -/
def leadZeros (x : Word) : Nat → Nat
  | 0 => 0
  | n + 1 => if bit x n then 0 else leadZeros x n + 1

/-- Zero bits from bit 0 upwards, over `n` bits. -/
def trailZeros : Word → Nat → Nat
  | _, 0 => 0
  | x, n + 1 => if bit x 0 then 0 else trailZeros (x >>> 1) n + 1

/-- One bits of the low `n` bits. -/
def onesIn (x : Word) : Nat → Nat
  | 0 => 0
  | n + 1 => (bit x n).toNat + onesIn x n

/-- Byte k moved to byte 7 − k. -/
def byteSwap (x : Word) : Word := wd (leNat (leBytes 8 x.toNat).reverse)

/-- `w` one bits from bit 0. -/
def onesMask (w : Nat) : Word := wd (2 ^ w - 1)

/-- bins (R103): the low `w` bits of `x` inserted at `pos`. -/
def insertBits (old x : Word) (pos w : Nat) : Word :=
  (old &&& ~~~ (onesMask w <<< pos)) ||| ((x <<< pos) &&& (onesMask w <<< pos))

/-! ## Opcode 0x01 (R101) -/

/-- add (R101). -/
def execAdd (d a b : SReg) (s : State) : Out := .next (s.wS d (s.rS a + s.rS b))

/-- sub (R101). -/
def execSub (d a b : SReg) (s : State) : Out := .next (s.wS d (s.rS a - s.rS b))

/-- and (R101). -/
def execAnd (d a b : SReg) (s : State) : Out := .next (s.wS d (s.rS a &&& s.rS b))

/-- or (R101). -/
def execOr (d a b : SReg) (s : State) : Out := .next (s.wS d (s.rS a ||| s.rS b))

/-- xor (R101). -/
def execXor (d a b : SReg) (s : State) : Out := .next (s.wS d (s.rS a ^^^ s.rS b))

/-- andn: s[a] AND NOT s[b] (R101). -/
def execAndn (d a b : SReg) (s : State) : Out := .next (s.wS d (s.rS a &&& ~~~ s.rS b))

/-- sll (R101). -/
def execSll (d a b : SReg) (s : State) : Out := .next (s.wS d (s.rS a <<< shAmt (s.rS b)))

/-- srl: zeros in (R101). -/
def execSrl (d a b : SReg) (s : State) : Out := .next (s.wS d (s.rS a >>> shAmt (s.rS b)))

/-- sra: sign in (R101). -/
def execSra (d a b : SReg) (s : State) : Out := .next (s.wS d ((s.rS a).sshiftRight (shAmt (s.rS b))))

/-- rol (R101). -/
def execRol (d a b : SReg) (s : State) : Out := .next (s.wS d ((s.rS a).rotateLeft (shAmt (s.rS b))))

/-- ror (R101). -/
def execRor (d a b : SReg) (s : State) : Out := .next (s.wS d ((s.rS a).rotateRight (shAmt (s.rS b))))

/-- mul: bits 63:0 of the product (R101). -/
def execMul (d a b : SReg) (s : State) : Out := .next (s.wS d (s.rS a * s.rS b))

/-- mulh: bits 127:64, both factors signed (R101). -/
def execMulh (d a b : SReg) (s : State) : Out :=
  .next (s.wS d (mulHigh ((s.rS a).signExtend 128) ((s.rS b).signExtend 128)))

/-- mulhu: bits 127:64, both factors unsigned (R101). -/
def execMulhu (d a b : SReg) (s : State) : Out :=
  .next (s.wS d (mulHigh ((s.rS a).setWidth 128) ((s.rS b).setWidth 128)))

/-- mulhsu: bits 127:64, s[a] signed and s[b] unsigned (R101). -/
def execMulhsu (d a b : SReg) (s : State) : Out :=
  .next (s.wS d (mulHigh ((s.rS a).signExtend 128) ((s.rS b).setWidth 128)))

/-- div: signed quotient, a long result (R68, R101). -/
def execDiv (d a b : SReg) (s : State) : Out := .next (s.longS d (divS (s.rS a) (s.rS b)))

/-- divu: unsigned quotient, a long result (R68, R101). -/
def execDivu (d a b : SReg) (s : State) : Out := .next (s.longS d (divU (s.rS a) (s.rS b)))

/-- rem: the remainder of div, a long result (R68, R101). -/
def execRem (d a b : SReg) (s : State) : Out := .next (s.longS d (remS (s.rS a) (s.rS b)))

/-- remu: the remainder of divu, a long result (R68, R101). -/
def execRemu (d a b : SReg) (s : State) : Out := .next (s.longS d (remU (s.rS a) (s.rS b)))

/-- min: the smaller, signed (R101). -/
def execMin (d a b : SReg) (s : State) : Out := .next (s.wS d (if (s.rS b).slt (s.rS a) then s.rS b else s.rS a))

/-- max: the larger, signed (R101). -/
def execMax (d a b : SReg) (s : State) : Out := .next (s.wS d (if (s.rS a).slt (s.rS b) then s.rS b else s.rS a))

/-- minu: the smaller, unsigned (R101). -/
def execMinu (d a b : SReg) (s : State) : Out := .next (s.wS d (if (s.rS b).ult (s.rS a) then s.rS b else s.rS a))

/-- maxu: the larger, unsigned (R101). -/
def execMaxu (d a b : SReg) (s : State) : Out := .next (s.wS d (if (s.rS a).ult (s.rS b) then s.rS b else s.rS a))

/-- slt (R101). -/
def execSlt (d a b : SReg) (s : State) : Out := .next (s.wS d (flagW ((s.rS a).slt (s.rS b))))

/-- sltu (R101). -/
def execSltu (d a b : SReg) (s : State) : Out := .next (s.wS d (flagW ((s.rS a).ult (s.rS b))))

/-- seq (R101). -/
def execSeq (d a b : SReg) (s : State) : Out := .next (s.wS d (flagW (s.rS a == s.rS b)))

/-- sel: s[a] if s[d] ≠ 0, else s[b] (R101). -/
def execSel (d a b : SReg) (s : State) : Out := .next (s.wS d (if s.rS d ≠ 0 then s.rS a else s.rS b))

/-- clz (R101). -/
def execClz (d a : SReg) (s : State) : Out := .next (s.wS d (wd (leadZeros (s.rS a) 64)))

/-- ctz (R101). -/
def execCtz (d a : SReg) (s : State) : Out := .next (s.wS d (wd (trailZeros (s.rS a) 64)))

/-- popc (R101). -/
def execPopc (d a : SReg) (s : State) : Out := .next (s.wS d (wd (onesIn (s.rS a) 64)))

/-- brev: bit k moved to bit 63 − k (R101). -/
def execBrev (d a : SReg) (s : State) : Out := .next (s.wS d (s.rS a).reverse)

/-- bswap: byte k moved to byte 7 − k (R101). -/
def execBswap (d a : SReg) (s : State) : Out := .next (s.wS d (byteSwap (s.rS a)))

/-- sext.b (R101). -/
def execSextB (d a : SReg) (s : State) : Out := .next (s.wS d (sextW (s.rS a) 8))

/-- sext.h (R101). -/
def execSextH (d a : SReg) (s : State) : Out := .next (s.wS d (sextW (s.rS a) 16))

/-- sext.w (R101). -/
def execSextW (d a : SReg) (s : State) : Out := .next (s.wS d (sextW (s.rS a) 32))

/-- zext.b (R101). -/
def execZextB (d a : SReg) (s : State) : Out := .next (s.wS d (zextW (s.rS a) 8))

/-- zext.h (R101). -/
def execZextH (d a : SReg) (s : State) : Out := .next (s.wS d (zextW (s.rS a) 16))

/-- zext.w (R101). -/
def execZextW (d a : SReg) (s : State) : Out := .next (s.wS d (zextW (s.rS a) 32))

/-! ## Immediate forms (R102) -/

/-- addi (R102). -/
def execAddi (d a : SReg) (imm : Imm) (s : State) : Out := .next (s.wS d (s.rS a + immv imm))

/-- andi (R102). -/
def execAndi (d a : SReg) (imm : Imm) (s : State) : Out := .next (s.wS d (s.rS a &&& immv imm))

/-- ori (R102). -/
def execOri (d a : SReg) (imm : Imm) (s : State) : Out := .next (s.wS d (s.rS a ||| immv imm))

/-- xori (R102). -/
def execXori (d a : SReg) (imm : Imm) (s : State) : Out := .next (s.wS d (s.rS a ^^^ immv imm))

/-- slli; a pair and an extended bundle have one effect (R102). -/
def execSlli (d a : SReg) (sh : BitVec 6) (_ext : Bool) (s : State) : Out := .next (s.wS d (s.rS a <<< sh.toNat))

/-- srli: zeros in (R102). -/
def execSrli (d a : SReg) (sh : BitVec 6) (_ext : Bool) (s : State) : Out := .next (s.wS d (s.rS a >>> sh.toNat))

/-- srai: sign in (R102). -/
def execSrai (d a : SReg) (sh : BitVec 6) (_ext : Bool) (s : State) : Out :=
  .next (s.wS d ((s.rS a).sshiftRight sh.toNat))

/-- roli (R102). -/
def execRoli (d a : SReg) (sh : BitVec 6) (_ext : Bool) (s : State) : Out :=
  .next (s.wS d ((s.rS a).rotateLeft sh.toNat))

/-- slti (R102). -/
def execSlti (d a : SReg) (imm : Imm) (s : State) : Out := .next (s.wS d (flagW ((s.rS a).slt (immv imm))))

/-- sltiu: the sign-extended immediate, compared as unsigned (R102). -/
def execSltiu (d a : SReg) (imm : Imm) (s : State) : Out := .next (s.wS d (flagW ((s.rS a).ult (immv imm))))

/-- seqi (R102). -/
def execSeqi (d a : SReg) (imm : Imm) (s : State) : Out := .next (s.wS d (flagW (s.rS a == immv imm)))

/-- muli: bits 63:0 of the product (R102). -/
def execMuli (d a : SReg) (imm : Imm) (s : State) : Out := .next (s.wS d (s.rS a * immv imm))

/-! ## Bit fields (R103) -/

/-- bext: a field of width wm1 + 1 at pos, sign-extended; a field beyond bit 63 is UND (R103). -/
def execBext (d a : SReg) (pos wm1 : BitVec 6) (s : State) : Out :=
  if pos.toNat + (wm1.toNat + 1) > 64 then s.und
  else .next (s.wS d (sextW (s.rS a >>> pos.toNat) (wm1.toNat + 1)))

/-- bextu: a field, zero-extended (R103). -/
def execBextu (d a : SReg) (pos wm1 : BitVec 6) (s : State) : Out :=
  if pos.toNat + (wm1.toNat + 1) > 64 then s.und
  else .next (s.wS d (zextW (s.rS a >>> pos.toNat) (wm1.toNat + 1)))

/-- bins: inserts the low bits of s[a] into s[d] (R103). -/
def execBins (d a : SReg) (pos wm1 : BitVec 6) (s : State) : Out :=
  if pos.toNat + (wm1.toNat + 1) > 64 then s.und
  else .next (s.wS d (insertBits (s.rS d) (s.rS a) pos.toNat (wm1.toNat + 1)))

/-! ## Addresses and constants (R104 to R106) -/

/-- lea: s[a] + (s[b] << sh); shifts 6 and 7 are UND (R104). -/
def execLea (d a b : SReg) (sh : BitVec 3) (s : State) : Out :=
  if sh.toNat > 5 then s.und else .next (s.wS d (s.rS a + s.rS b <<< sh.toNat))

/-- movi (R105). -/
def execMovi (d : SReg) (imm : Imm) (s : State) : Out := .next (s.wS d (immv imm))

/-- movt: imm23 in bits 63:41 above the low 41 bits of s[a] (R105). -/
def execMovt (d a : SReg) (imm23 : BitVec 23) (s : State) : Out :=
  .next (s.wS d (imm23.setWidth 64 <<< 41 ||| (s.rS a &&& onesMask 41)))

/-- lui (R106). -/
def execLui (d : SReg) (off : BitVec 17) (s : State) : Out := .next (s.wS d (off.signExtend 64 <<< 12))

/-- addpc (R106). -/
def execAddpc (d : SReg) (off : BitVec 17) (s : State) : Out := .next (s.wS d (s.pc + off.signExtend 64 <<< 3))

/-- addpg (R106). -/
def execAddpg (d : SReg) (off : BitVec 17) (s : State) : Out :=
  .next (s.wS d ((s.pc &&& ~~~ 0xFFFF#64) + off.signExtend 64 <<< 16))

end Sys2Proof.Machine
end

