-- ==== Sys2Proof/Machine/Atomic.lean ====
section
/-!
DEFINITION. Reservations, atomics, far reductions and fences, opcodes 0x40 to 0x47 (R121 to R134).
-/
namespace Sys2Proof.Machine

/-! ## Reservations (R121 to R124) -/

/-- Places a line in a reservation set of four: a line already there has its lost mark cleared; of four other lines the
earliest leaves (R122). -/
def reserve (l : List Resv) (va pa : Nat) : List Resv :=
  if l.any fun r => decide (r.va = va) then
    l.map fun r => if r.va = va then { r with pa := pa, lost := false } else r
  else (if l.length ≥ 4 then l.drop 1 else l) ++ [{ va := va, pa := pa, lost := false }]

/-- The lowest lost line of a set (R124). -/
def lowestLost (l : List Resv) : Option Nat :=
  (l.filter fun r => r.lost).foldl (fun m r => match m with | none => some r.va | some x => some (min x r.va)) none

/-- acq.l: a full fence at device scope, which waits for earlier loads too (R133); reads the word at its home and reserves its line (R122). -/
def execAcqL (d a : SReg) (imm : Imm) (s : State) : Out :=
  s.swarm fun g => s.plainly fun s =>
    let ea := s.ea a imm
    s.access g ea 8 8 true true .resv true fun p =>
      if !s.drained g then s.wait
      else
        let x := s.homeRead p 8
        .next ((s.modThread g fun t => { t with resv := reserve t.resv (ea.toNat / 64 * 64) (p.pa / 64 * 64) }).longS d (wd x))

/-- rel.l: stores s[d] if the line is still reserved, and answers 0, or 1 when the reservation was lost; the line leaves
the set (R123). On a page that has become an RM page since the acq.l, the home that stores is another device's, and the status arrives with
its response (log 49). -/
def execRelL (d a : SReg) (imm : Imm) (s : State) : Out :=
  s.swarm fun g => s.plainly fun s =>
    let ea := s.ea a imm
    let line := ea.toNat / 64 * 64
    let x := s.rS d
    s.access g ea 8 8 false true .any true fun p =>
      match (s.thread g).resv.find? fun r => decide (r.va = line) with
      | none => s.raise cRESV_LOST (wd line)
      | some r =>
        if !s.drained g then s.wait
        else
          let s1 := s.modThread g fun t => { t with resv := t.resv.filter fun r => decide (r.va ≠ line) }
          if r.lost then .next (s1.longS d 1)
          else
            match p.home with
            | .remote dev =>
              .next ((s1.watchWord p.sw ea.toNat).farLong g p dev 8 1 (x.setWidth 256) (.sreg d) (.scalar 8 false) true)
            | .dram | .aperture | .regs | .host =>
              .next ((s1.performWrite (some g) none p ea.toNat (leBytes 8 x.toNat)).longS d 0)

/-- wait.r: ends at once when a line is lost, with its address, or when the set is empty, with 1; otherwise the thread waits
(R124). -/
def execWaitR (d : SReg) (s : State) : Out :=
  s.swarm fun g => s.plainly fun s =>
    match lowestLost (s.thread g).resv with
    | some a => .next (s.wS d (wd a))
    | none =>
      if (s.thread g).resv = [] then .next (s.wS d 1)
      else .next (s.modThread g fun t => { t with run := .wait (.resv d) })

/-! ## Atomics (R126) -/

/-- amo.add (R126). -/
def execAmoAdd (d a b : SReg) (w32 : Bool) (s : State) : Out :=
  s.amo d a b w32 false 0 fun old x => some ((old + x) % 2 ^ (8 * (if w32 then 4 else 8)))

/-- amo.swap (R126). -/
def execAmoSwap (d a b : SReg) (w32 : Bool) (s : State) : Out :=
  s.amo d a b w32 false 1 fun _ x => some x

/-- amo.cas: the operand when the word equals s[d]; a cas that fails writes nothing (R126). -/
def execAmoCas (d a b : SReg) (w32 : Bool) (s : State) : Out :=
  let cmp := (s.rS d).toNat % 2 ^ (8 * (if w32 then 4 else 8))
  s.amo d a b w32 false 2 fun old x => if old = cmp then some x else none

/-- amo.min (R126). -/
def execAmoMin (d a b : SReg) (w32 uns : Bool) (s : State) : Out :=
  s.amo d a b w32 uns 3 fun old x => some (minBy (if w32 then 4 else 8) uns old x)

/-- amo.max (R126). -/
def execAmoMax (d a b : SReg) (w32 uns : Bool) (s : State) : Out :=
  s.amo d a b w32 uns 4 fun old x => some (maxBy (if w32 then 4 else 8) uns old x)

/-- amo.and (R126). -/
def execAmoAnd (d a b : SReg) (w32 : Bool) (s : State) : Out :=
  s.amo d a b w32 false 5 fun old x => some (old &&& x)

/-- amo.or (R126). -/
def execAmoOr (d a b : SReg) (w32 : Bool) (s : State) : Out :=
  s.amo d a b w32 false 6 fun old x => some (old ||| x)

/-- amo.xor (R126). -/
def execAmoXor (d a b : SReg) (w32 : Bool) (s : State) : Out :=
  s.amo d a b w32 false 7 fun old x => some (old ^^^ x)

/-! ## Far reductions (R127 to R129) -/

/-- red.add (R127). -/
def execRedAdd (a b : SReg) (w32 : Bool) (s : State) : Out := s.red a b w32 false .add

/-- red.min (R127). -/
def execRedMin (a b : SReg) (w32 uns : Bool) (s : State) : Out := s.red a b w32 uns .min

/-- red.max (R127). -/
def execRedMax (a b : SReg) (w32 uns : Bool) (s : State) : Out := s.red a b w32 uns .max

/-- red.and (R127). -/
def execRedAnd (a b : SReg) (w32 : Bool) (s : State) : Out := s.red a b w32 false .and

/-- red.or (R127). -/
def execRedOr (a b : SReg) (w32 : Bool) (s : State) : Out := s.red a b w32 false .or

/-- red.xor (R127). -/
def execRedXor (a b : SReg) (w32 : Bool) (s : State) : Out := s.red a b w32 false .xor

/-- red.fadd.w: an FP32 sum at the home (R127). -/
def execRedFaddW (a b : SReg) (s : State) : Out := s.red a b true false .fadd

/-! ## Fences, acquire and release (R130 to R132) -/

/-- fence: thread scope completes at issue; core to device scope waits for earlier loads and the store buffer; system scope
waits for acknowledgements too, and reports a recorded LINK_LOST (R130, R134). -/
def execFence (sc : Scope) (s : State) : Out :=
  s.swarm fun g => s.plainly fun s =>
    match sc with
    | .thread => .next s
    | .core | .block | .field | .device => if s.drained g then .next s else s.wait
    | .system => s.reportLink g (if s.drained g then .next s else s.wait)

/-- ld.acq: a load of a doubleword that later accesses wait for (R131). -/
def execLdAcq (d a : SReg) (imm : Imm) (s : State) : Out :=
  s.swarm fun g => s.plainly fun s =>
    s.access g (s.ea a imm) 8 8 true false .ordered true fun p =>
      s.loadN g p 8 (fun s x => .next (s.longS d (wd x)))
        fun dev => .next (s.farLong g p dev 8 0 0 (.sreg d) (.scalar 8 false) true)

/-- st.rel: waits for the conditions of a fence at system scope and for the release of the thread's range locks, then
enters the empty store buffer (R132). -/
def execStRel (d a : SReg) (imm : Imm) (s : State) : Out :=
  s.swarm fun g => s.plainly fun s => s.reportLink g <|
    let ea := s.ea a imm
    let x := (s.rS d).toNat
    s.access g ea 8 8 false true .ordered true fun p =>
      if s.drained g && !s.ownsLock g then s.buffer g [sbEntry ea 8 .rel x p] else s.wait

end Sys2Proof.Machine
end

