-- ==== Sys2Proof/Machine/Engine.lean ====
section
/-!
DEFINITION. The engine forms, opcodes 0x59 to 0x5C: pcomp (R199, R362), the sync forms (R200, R201, R270, R291), the work dispenser
(R202, R203) and rlq (R204).
-/
namespace Sys2Proof.Machine

/-! ## Sync words (R200, R201) -/

/-- The result of a sync.set or sync.arrive of the unit in hand: it arrives when the update unit has ended the cycle in which the form
lands, and later accesses wait for it (R201, R270). -/
def State.syncPend (s : State) (d : SReg) : State :=
  s.next.long { dest := .sreg d, left := 0, ready := false, val := 0, tok := s.fresh, fly := .load (.scalar 8 false) true }

/-- Who learns of it. -/
def State.syncMine (s : State) : SyncWho :=
  match s.cur with
  | .thread g => .thread g s.fresh
  | .core k => .core k s.fresh

/-- A sync.set at a home of this device: on a register page its words are plain words. -/
def State.syncSetAt (s : State) (by_ : Option Nat) (p : Phys) (va btgt atgt : Nat) (who : SyncWho) : State :=
  match p.home with
  | .regs => (s.performWrite by_ none p va (leBytes 16 (SyncW.set btgt atgt).word)).tellSync 0 who
  | .dram | .aperture | .host | .remote _ => (s.watchWord p.sw va).syncSet p.pa btgt atgt [who]

/-- A sync.arrive at a home of this device. -/
def State.syncArriveAt (s : State) (by_ : Option Nat) (p : Phys) (va k : Nat) (who : SyncWho) : State :=
  match p.home with
  | .regs =>
    let w := (syncOf (s.homeRead p 16)).land 0 k
    (s.performWrite by_ none p va (leBytes 16 w.eval.word)).tellSync (w.eval.gen + w.ripe.toNat * 65536) who
  | .dram | .aperture | .host | .remote _ => (s.watchWord p.sw va).syncLand p.pa 0 k [who]

/-- The offset of a tile core's sync word (R200). -/
def tileSyncOk (x : Word) : Bool := x.toNat % 16 == 0 && decide (x.toNat < 0x80000)

/-- The bytes of a sync.set or sync.arrive in a request to another device: forms 2 and 3 (log 10). -/
def memFormSync (arrive : Bool) : Nat := if arrive then 3 else 2

/-- sync.set (R200, R201, R291). -/
def execSyncSet (a b : SReg) (s : State) : Out :=
  let x := s.rS b
  if bits x 40 24 ≠ 0 then s.und
  else
    match s.cur with
    | .thread g => s.plainly fun s =>
      s.access g (s.rS a) 16 16 false true .any true fun p =>
        if (s.thread g).sb ≠ [] then s.wait
        else
          match p.home with
          | .remote dev =>
            .next ((s.watchWord p.sw (s.rS a).toNat).farLong g p dev 16 (memFormSync false) (x.setWidth 256) (.sreg 0)
              (.scalar 8 false) true)
          | .dram | .aperture | .regs | .host =>
            .next ((s.syncPend 0).syncSetAt (some g) p (s.rS a).toNat (bits x 0 32) (bits x 32 8) s.syncMine)
    | .core k =>
      if !tileSyncOk (s.rS a) then s.und
      else if !s.released k then s.wait
      else .next ((s.syncPend 0).syncSet (sramAddr (coreTile k) (s.rS a).toNat) (bits x 0 32) (bits x 32 8) [s.syncMine])

/-- sync.arrive: a release (R200, R201, R291). -/
def execSyncArrive (d a b : SReg) (s : State) : Out :=
  let x := s.rS b
  if bits x 8 56 ≠ 0 ∨ bits x 0 8 = 0 then s.und
  else
    match s.cur with
    | .thread g => s.plainly fun s =>
      s.access g (s.rS a) 16 16 false true .any true fun p =>
        if (s.thread g).sb ≠ [] ∨ s.ownsLock g = true then s.wait
        else
          match p.home with
          | .remote dev =>
            .next ((s.watchWord p.sw (s.rS a).toNat).farLong g p dev 16 (memFormSync true) (x.setWidth 256) (.sreg d)
              (.scalar 8 false) true)
          | .dram | .aperture | .regs | .host =>
            .next ((s.syncPend d).syncArriveAt (some g) p (s.rS a).toNat (bits x 0 8) s.syncMine)
    | .core k =>
      if !tileSyncOk (s.rS a) then s.und
      else if !s.released k then s.wait
      else .next ((s.syncPend d).syncLand (sramAddr (coreTile k) (s.rS a).toNat) 0 (bits x 0 8) [s.syncMine])

/-- sync.wait: goes on at once when the generation has been reached, else the unit waits (R200, R201). -/
def execSyncWait (d a b : SReg) (s : State) : Out :=
  let x := s.rS b
  if bits x 16 48 ≠ 0 then s.und
  else
    match s.cur with
    | .thread g => s.plainly fun s =>
      s.access g (s.rS a) 16 16 true false .any true fun p =>
        let w : Out := .next (s.modThread g fun t => { t with run := .wait (.sync d (s.rS a) (x.setWidth 16)) })
        if (s.thread g).sb.any fun e => e.over p 16 then s.wait
        else match p.home with
        | .remote _ => w
        | .dram | .aperture | .regs | .host =>
          let gen := (syncOf (s.homeRead p 16)).gen
          if genReached gen (bits x 0 16) then .next (s.wS d (wd gen)) else w
    | .core k =>
      if !tileSyncOk (s.rS a) then s.und
      else if (s.tcore k).ctx.pend.any Pending.holds then s.wait
      else
        let pa := sramAddr (coreTile k) (s.rS a).toNat
        let gen := (s.syncWord pa).gen
        if genReached gen (bits x 0 16) then .next (s.wS d (wd gen))
        else .next (s.modTcore k fun c => { c with run := .sync d pa (x.setWidth 16) })

/-! ## The work dispenser (R202, R203) -/

/-- The number of chunks of a loaded job. -/
def Job.chunks (j : Job) : Nat :=
  ((bits j.desc 0 16 + bits j.desc 32 8 - 1) / bits j.desc 32 8) * ((bits j.desc 16 16 + bits j.desc 40 8 - 1) / bits j.desc 40 8)

/-- What a take answers: the chunk at q, or fin. -/
def Job.take (j : Job) : Word :=
  let ex := bits j.desc 0 16
  let ey := bits j.desc 16 16
  let cx := bits j.desc 32 8
  let cy := bits j.desc 40 8
  let nx := (ex + cx - 1) / cx
  if j.loaded = true ∧ j.q < j.chunks then
    let x0 := j.q % nx * cx
    let y0 := j.q / nx * cy
    wd (x0 + y0 * 2 ^ 16 + min cx (ex - x0) * 2 ^ 32 + min cy (ey - y0) * 2 ^ 40)
  else wd (2 ^ 63)

/-- The job after a take. -/
def Job.next (j : Job) : Job := if j.loaded = true ∧ j.q < j.chunks then { j with q := j.q + 1 } else j

/-- Chunks not yet taken. -/
def Job.left (j : Job) : Nat := if j.loaded then j.chunks - j.q else 0

/-- The bits of a descriptor that must be zero, and those that must not (R202). -/
def jobOk (x : Word) : Bool :=
  bits x 48 16 == 0 && bits x 40 8 != 0 && bits x 32 8 != 0 && bits x 16 16 != 0 && bits x 0 16 != 0

def State.job (s : State) (b j : Nat) : Job := Tab.get {} (s.blk b).jobs j
def State.setJob (s : State) (b j : Nat) (x : Job) : State := s.modBlk b fun y => { y with jobs := Tab.set {} y.jobs j x }

/-- fetcht: takes the next chunk (R202, R203). -/
def execFetcht (d : SReg) (job : BitVec 4) (_ext : Bool) (s : State) : Out :=
  s.plainly fun s =>
    let j := s.job s.curBlk job.toNat
    .next ((s.setJob s.curBlk job.toNat j.next).longS d j.take)

/-- fetcht.ld: loads a job (R202, R203). -/
def execFetchtLd (a : SReg) (job : BitVec 4) (_ext : Bool) (s : State) : Out :=
  if !jobOk (s.rS a) then s.und
  else s.plainly fun s => .next (s.setJob s.curBlk job.toNat { desc := s.rS a, q := 0, loaded := true })

/-- fetcht.q: the chunks not yet taken (R202). -/
def execFetchtQ (d : SReg) (job : BitVec 4) (_ext : Bool) (s : State) : Out :=
  s.plainly fun s => .next (s.longS d (wd (s.job s.curBlk job.toNat).left))

/-! ## rlq (R204) -/

/-- The entry with the lowest start address, the first registered of those. -/
def lowestLock : List Lock → Option Lock
  | [] => none
  | l :: ls =>
    match lowestLock ls with
    | none => some l
    | some m => if m.lo < l.lo then some m else some l

/-- What rlq answers for a byte range. -/
def rlqAnswer (locks : List Lock) (a n : Nat) : Word :=
  let hit := locks.filter fun l => decide (n ≠ 0) && overlaps a n l.lo (l.hi - l.lo)
  match lowestLock hit with
  | none => 0
  | some l => wd (2 ^ 63 + min hit.length 0xFFFF * 65536 + l.xid.toNat)

/-- rlq (R204). -/
def execRlq (d a b : SReg) (s : State) : Out :=
  s.swarm fun _ => .next (s.wS d (rlqAnswer s.dev.locks (s.rS a).toNat (s.rS b).toNat))

/-! ## pcomp (R199, R362) -/

/-- What pcomp answers without queueing: 1 cached, 2 pending, 3 busy; none when it queues. -/
def State.pcompAnswer (s : State) (b t : Nat) (ident : Word) : Option Nat :=
  if ((s.tile t).cached ident).isSome then some 1
  else if (s.blk b).pending t ident then some 2
  else if !(s.blk b).compRoom then some 3
  else none

/-- A pcomp that finds the identity uses its entry (R356). -/
def State.pcompHit (s : State) (t : Nat) (ident : Word) (r : Option Nat) : State :=
  if r = some 1 then s.modTile t fun x => x.useEntry ident else s

/-- pcomp of a swarm thread: its metadata lies in memory, under a range-lock entry of the thread's (R197, R199). With a full lock
table it answers 3 (log 25). It registers in its turn (R260), and waits at issue until the accesses to the metadata that were checked
before are performed, so that the compiler reads behind them (R197, log 25). The entry has no transfer id, and rlq reports 0 for it
(R204; DESIGN CHOICE, log 25). -/
def State.pcompThread (s : State) (g : Nat) (d : SReg) (t : Nat) (w : List Word) : Out :=
  let ident := w.getD 0 0
  let va := w.getD 1 0
  let n := (w.getD 2 0).toNat
  s.access g va 4 4 true false .any false fun _ =>
    let b := unitBlk g
    match s.pcompAnswer b t ident with
    | some r => .next ((s.pcompHit t ident (some r)).longS d (wd r))
    | none =>
      if s.lockRoom = 0 then .next (s.longS d 3)
      else if !s.lockTurn b 4 s.ns || !s.settled va.toNat n then s.wait
      else
        let s1 := (s.next.lockPlace b 4).addLocks s.fresh 0 (some (s.thread g).uid) [(false, va.toNat, va.toNat + n)]
        .next ((s1.queueMem b t ident va.toNat n (.thread g (s.thread g).ctx.pc (s.thread g).ticket) (some s.fresh)).longS d 0)

/-- pcomp of a tile core: the coordinate stream of a port is consumed in the background (R199). -/
def State.pcompCore (s : State) (k : Nat) (d : SReg) (t : Nat) (w : List Word) : Out :=
  let ident := w.getD 0 0
  let port := bits (w.getD 2 0) 0 4
  match s.coreCtx k with
  | none => s.und
  | some x =>
    if !x.bound (k % 4) port then s.und
    else if s.draining k port then s.wait
    else
      let b := unitBlk k
      let r := s.pcompAnswer b t ident
      let s1 := match r with
        | some _ => s.pcompHit t ident r
        | none => s.queueStream b t ident (.core k)
      let s2 := s1.modTcore k fun c =>
        { c with drains := c.drains ++ [{ port := port, fwd := r.isNone, tile := t, ident := ident, scan := {} }] }
      .next ((s2.longS d (wd (r.getD 0))).drainPort k port (s.portQueue k port).length)

/-- pcomp (R199). -/
def execPcomp (d : SReg) (q : Quad) (tile : BitVec 5) (s : State) : Out :=
  let w := s.quad q
  let t := 32 * s.curBlk + tile.toNat
  if w.getD 3 0 ≠ 0 ∨ s.tileExists t = false then s.und
  else
    match s.cur with
    | .thread g =>
      if w.getD 1 0 = 0 ∨ (w.getD 2 0).toNat = 0 ∨ (w.getD 2 0).toNat ≥ 2 ^ 32 then s.und
      else s.plainly fun s => s.pcompThread g d t w
    | .core k => if w.getD 1 0 ≠ 0 ∨ bits (w.getD 2 0) 4 60 ≠ 0 then s.und else s.pcompCore k d t w

end Sys2Proof.Machine
end

