-- ==== Sys2Proof/Machine/ThreadEvents.lean ====
section
/-!
DEFINITION. Events of threads and cores: the end of walks (R300, R302), the commit of long results (R279 to R281),
completion diversions (R33), halts and PREEMPT traps (R223), the ends of waits (R124, R201, R213, R219), and the performing
of stores and reductions (R113, R127, R337, R338, R366, R367).
-/
namespace Sys2Proof.Machine

/-! ## Walks (R300, R302) -/

/-- Who waits for a walk that ended without a leaf meets its result at its next issue. -/
def State.walkFailed (s : State) (w : Walk) (e : WalkErr) (who : Walker) : State :=
  match who with
  | .thread g => s.modThread g fun t =>
      if t.atIssue || (match t.run with | .wait _ => true | _ => false) then { t with walked := some (w.va, w.kind, e) } else t
  | .agen m => s.modAgen m fun x => { x with walked := some (w.va, w.kind, e) }
  | .xport x => s.modXport x fun p => { p with walked := some (w.va, w.kind, e) }

/-- A translation enters the first tier of a unit that waits for it. -/
def State.walkFill (s : State) (x : TlbEntry) (who : Walker) : State :=
  match who with
  | .thread g => s.modCore (threadCore g) fun c => { c with tlb := tlbAdd 32 c.tlb x }
  | .agen m => s.modAgen m fun a => { a with tlb := tlbAdd 16 a.tlb x }
  | .xport p => s.modXport p fun q => { q with tlb := tlbAdd 16 q.tlb x }

/-- A walk of block `b` ends: a leaf fills every tier on the path back, with A and D set at its home (R300, R302). Only the
first 32 of the walks are in flight. -/
def execTlbWalk (b i : Nat) (s : State) : Out :=
  match (s.blk b).walks[i]? with
  | none => .next s
  | some w =>
    if i ≥ 32 then .next s
    else
      let s0 := s.modBlk b fun x => { x with walks := x.walks.eraseIdx i }
      match s.walk w.va with
      | .err e => .next (w.who.foldl (fun s who => s.walkFailed w e who) s0)
      | .leaf e l a =>
        let r := s0.walkMark e a w.kind
        let x : TlbEntry := { base := w.va / 2 ^ pageLog l * 2 ^ pageLog l, level := l, leaf := r.2 }
        .next (w.who.foldl (fun s who => s.walkFill x who) (r.1.modBlk b fun y => { y with tlb := tlbAdd 1024 y.tlb x }))

/-! ## Long results (R279 to R281) -/

/-- Commits the results whose windows have ended, in issue order. -/
def Ctx.commitExpired (c : Ctx) : Ctx := { c.commitAll c.expired with pend := c.pend.filter fun p => p.left != 0 }

/-- The results of ended windows commit before the next bundle (R279), and so not while the unit waits (R124); a fault that one carries is
taken there, once every result has arrived (R112, R280). -/
def execResultCommit (u : UnitRef) (s : State) : Out :=
  match u with
  | .thread g =>
    let c := (s.thread g).ctx
    if (s.thread g).run = .run ∧ c.expired.all Pending.ready = true then
      match firstFault c.expired with
      | none => .next (s.modThread g fun t => { t with ctx := t.ctx.commitExpired })
      | some _ => if c.pend.all Pending.ready then .next (s.closeThread g).1 else .next s
    else .next s
  | .core k =>
    if (s.tcore k).run = .run ∧ (s.tcore k).ctx.expired.all Pending.ready = true then
      .next (s.modTcore k fun t => { t with ctx := t.ctx.commitExpired })
    else .next s

/-- After 64 bundles with a due event, the thread closes its windows (R281); it takes the event at the bundle it has
reached, with its next turn. -/
def execWindowForcedClose (g : Nat) (s : State) : Out :=
  let t := s.thread g
  if t.run = .run ∧ t.eventDue = true ∧ t.dueN ≥ 64 ∧ t.ctx.pend.all Pending.ready = true then .next (s.closeThread g).1
  else .next s

/-! ## Diversions, halts and PREEMPT traps (R33, R223, R281, R282) -/

/-- Whether a due event can be taken at the thread's bundle: no window is open there, or the bundle waits at issue and
every result has arrived. -/
def Thread.atBoundary (t : Thread) : Bool :=
  t.ctx.pend.isEmpty || (t.atIssue && t.ctx.pend.all Pending.ready)

/-- Runs `k` at a boundary, after closing the windows of a bundle that waits at issue (R282). -/
def State.boundary (s : State) (g : Nat) (k : State → State) : Out :=
  if (s.thread g).atBoundary then
    let r := s.closeThread g
    .next (if r.2 then k r.1 else r.1)
  else .next s

/-- The registers that a diversion changes (R33). -/
def Thread.divert (t : Thread) : Thread :=
  match t.comps with
  | [] => t
  | c :: l =>
    { t with comps := l, xfid := c.xfid, xfh := t.ctx.pc, inuh := true, ctx := { t.ctx with pc := bundleAddr c.hnd }, atIssue := false
             futw := false, walked := none, fetchw := none, farbuf := [], dueN := 0 }

/-- A completion diversion (R33). A due halt comes first (R281), and a speculative task aborts instead (R346). -/
def execCompletionDiversion (g : Nat) (s : State) : Out :=
  let t := s.thread g
  if t.run = .run ∧ t.diverts = true ∧ t.due = [] then
    if t.spec then .next (s.abortPark g)
    else s.boundary g fun s => s.modThread g Thread.divert
  else .next s

/-- A thread halts (R223): it keeps its slot, its reservations are lost, and every halt that was due for it is done. -/
def Thread.haltNow (t : Thread) : Thread :=
  { t with run := .halted, resv := loseAll t.resv, atIssue := false, futw := false, walked := none, fetchw := none, farbuf := []
           due := t.due.filter Due.trap, dueN := 0 }

/-- A due halt of a thread: an ordered task that has not gone plain is aborted first (R346). -/
def State.haltTaken (s : State) (g : Nat) : Out :=
  let t := s.thread g
  if t.spec || t.run == .parked then .next ((s.abortHalt g).modThread g Thread.haltNow)
  else s.boundary g fun s => s.modThread g Thread.haltNow

/-- A due PREEMPT trap of a thread; a speculative task aborts, and meets it as an ordinary thread (R346). -/
def State.preemptTrapTaken (s : State) (g : Nat) (rest : List Due) : Out :=
  let t := s.thread g
  if t.run = .parked then .next s
  else if t.spec then .next (s.abortPark g)
  else s.boundary g fun s => (s.modThread g fun t => { t with due := rest, dueN := 0 }).trapEntry g cPREEMPT 0 false false

/-- The target of a preempt takes its halt or its trap (R223, R281, R282); a compute core halts between tokens (R319). -/
def execPreemptHaltTaken (u : UnitRef) (s : State) : Out :=
  match u with
  | .thread g =>
    let t := s.thread g
    match t.due with
    | [] => .next s
    | d :: l =>
      match t.run with
      | .run | .parked | .finished _ _ _ _ => if d.trap then s.preemptTrapTaken g l else s.haltTaken g
      | .free | .halted | .wait _ => .next s
  | .core k =>
    if (s.tcore k).due = [] then .next s
    else .next (s.modTcore k fun c => { c with halted := true, due := [] })

/-! ## The ends of waits (R124, R201, R213, R219) -/

/-- How a wait ends, given what the waited-for word or header holds: the register and the value; none while it goes on. -/
def Thread.waitEnd (t : Thread) (x : Nat) : Wait → Option (SReg × Word)
  | .resv d =>
    match lowestLost t.resv with
    | some a => some (d, wd a)
    | none => if t.eventDue then some (d, 2) else none
  | .sync d _ n =>
    let gen := (syncOf x).gen
    if genReached gen n.toNat then some (d, wd gen)
    else if t.eventDue then some (d, wd (gen + 0x10000))
    else none
  | .recv d va =>
    let m := mailbox x
    if m.2.2 ≠ m.2.1 then some (d, recordAddr va m.1 m.2.1)
    else if t.eventDue then some (d, 0)
    else none
  | .wfi | .wfit _ => if t.comps ≠ [] ∨ t.due ≠ [] then some (0, 0) else none

/-- Ends a thread's wait if it is over. -/
def Thread.wake (t : Thread) (x : Nat) : Thread :=
  match t.run with
  | .wait w =>
    match t.waitEnd x w with
    | some (d, v) => { t with run := .run, ctx := t.ctx.wS d v, walked := none }
    | none => t
  | .free | .run | .halted | .finished _ _ _ _ | .parked => t

/-- The address that a wait reads, how many bytes of it, and the register that takes the answer. -/
def Wait.place : Wait → Option (Word × Nat × SReg)
  | .sync d va _ => some (va, 16, d)
  | .recv d va => some (va, 32, d)
  | .resv _ | .wfi | .wfit _ => none

/-- A wait whose read meets a fault ends, and its result carries the fault to the next bundle (R2, R112, R220, log 118). -/
def Thread.waitFault (t : Thread) (d : SReg) (cause : BitVec 8) (ev : Word) : Thread :=
  { t with
    run := .run
    walked := none
    ctx := { t.ctx with pend := t.ctx.pend ++ [{ dest := .sreg d, left := 0, ready := true, val := 0, fault := some (cause, ev) }] } }

/-- The read of a wait on another device's memory cannot be delivered (R134). -/
def Thread.pollLost (t : Thread) (ev : Word) : Thread :=
  match t.run with
  | .wait w => (w.place.map fun p => t.waitFault p.2.2 cLINK_LOST ev).getD t
  | .free | .run | .halted | .finished _ _ _ _ | .parked => t

/-- A wait on another device's memory reads it by requests, one at a time (R338). -/
def State.poll (s : State) (g dev pa n : Nat) : State :=
  if s.dev.unans.any fun u => u.kind == .poll g then s
  else
    match s.sendPacket dev (coreName (threadCore g)) (some (.poll g))
        [{ hdr := mkHdr 4 0 0 0 0 0 0 (s.fresh % 2 ^ 14), pay := Config.memReqPayload pa n 0 0 }] with
    | some s1 => s1.next
    | none => s.modThread g fun t => t.pollLost ((s.lostPort dev).setWidth 64)

/-- A thread tests its wait. Every test is a read of its own, through the translations of its time (R220). -/
def State.testWait (s : State) (g : Nat) (w : Wait) : State :=
  match w.place with
  | none => s.modThread g fun t => t.wake 0
  | some (va, n, d) =>
    match s.xlThread g va.toNat (s.need g true false .any) with
    | .miss => s.startWalk (unitBlk g) va.toNat .read (.thread g)
    | .bad c => s.modThread g fun t => t.waitFault d c va
    | .ok p =>
      match p.home with
      | .remote dev => s.poll g dev p.pa n
      | .dram | .aperture | .regs | .host => s.edge p fun s => s.modThread g fun t => t.wake (s.homeRead p n)

/-- A wait ends when its condition holds, or early (R124, R201, R213, R219). A compute core's sync.wait ends only when the
generation has been reached. -/
def execThreadWake (u : UnitRef) (s : State) : Out :=
  match u with
  | .thread g =>
    match (s.thread g).run with
    | .wait w => .next (s.testWait g w)
    | .free | .run | .halted | .finished _ _ _ _ | .parked => .next s
  | .core k =>
    match (s.tcore k).run with
    | .sync d pa n =>
      let gen := (s.syncWord pa).gen
      if genReached gen n.toNat ∧ (s.tcore k).halted = false then
        .next (s.modTcore k fun c => { c with run := .run, ctx := c.ctx.wS d (wd gen) })
      else .next s
    | .idle | .run | .held | .ctxsw _ | .faulted _ => .next s

/-- wfit ends when ctime reaches its deadline (R219), or as wfi does. -/
def execWfitDeadline (g : Nat) (s : State) : Out :=
  match (s.thread g).run with
  | .wait (.wfit x) =>
    if x.ule (s.ctime (unitBlk g)) then .next (s.modThread g fun t => { t with run := .run })
    else .next (s.testWait g (.wfit x))
  | .free | .run | .halted | .finished _ _ _ _ | .parked | .wait (.resv _) | .wait (.sync _ _ _) | .wait (.recv _ _)
  | .wait .wfi => .next s

/-! ## Stores and reductions (R113, R127, R337, R338, R366, R367) -/

/-- The oldest entry of a store buffer leaves it. -/
def State.popStore (s : State) (g : Nat) : State := s.modThread g fun t => { t with sb := t.sb.drop 1 }

/-- The value that a reduction leaves at its home (R127). -/
def redApply (op : RedOp) (n : Nat) (uns : Bool) (old x : Nat) : Nat :=
  match op with
  | .fadd => (fadd fF32 .rne (fF32.value old) (fF32.value x)).1
  | .add | .min | .max | .and | .or | .xor => redValue op n uns old x

/-- The bytes that an entry leaves at its home. -/
def State.entryBytes (s : State) (e : SbEntry) : List Byte :=
  match e.kind with
  | .plain | .rel => leBytes e.size e.data.toNat
  | .red op _ u => leBytes e.size (redApply op e.size u (s.homeRead e.phys e.size) e.data.toNat)

/-- Performs an entry at its home of this device or of the host, and takes it from the buffer. -/
def State.performEntry (s : State) (g : Nat) (e : SbEntry) : State :=
  (s.performWrite (some g) none e.phys e.va.toNat (s.entryBytes e)).popStore g

/-- A store whose delivery failed is recorded in the thread, the earliest failure's port first (R134). -/
def Thread.lost (t : Thread) (port : BitVec 4) : Thread := { t with lkl := some (t.lkl.getD port) }

/-- The oldest entry of a store buffer goes to its destination's acknowledgement. -/
def State.markSent (s : State) (g : Nat) : State :=
  s.modThread g fun t => { t with sb := match t.sb with | [] => [] | e :: l => { e with sent := true } :: l }

/-- The acknowledgement of a thread's oldest entry, or its loss (R134, R338). -/
def State.storeAcked (s : State) (g : Nat) (delivered : Bool) (port : BitVec 4) : State :=
  (if delivered then s else s.modThread g fun t => t.lost port).popStore g

/-- The form of a store-buffer entry in a request to another device. -/
def SbKind.far : SbKind → Nat
  | .plain | .rel => 1
  | .red op w u => memFormRed ((SbKind.red op w u).code - 2) w u

/-- An entry on its way to another device (R338). -/
def State.storeFar (s : State) (g dev : Nat) (e : SbEntry) : State :=
  match (s.watchWord e.phys.sw e.va.toNat).sendMem g s.fresh dev e.phys.pa e.size e.kind.far e.data true with
  | some s1 => s1.next.markSent g
  | none => s.storeAcked g false (s.lostPort dev)

/-- Whether a reduction that arrives in block cycle `cyc` joins an open window (R366, R367). -/
def CombWin.takes (w : CombWin) (p : Phys) (op : RedOp) (w32 uns : Bool) (cyc : Nat) : Bool :=
  w.phys.pa == p.pa && w.op == op && w.w32 == w32 && w.uns == uns && decide (cyc < w.at_ + 32)

/-- Joins thread `g`'s reduction to a window (R367); one that goes through a sparse-watch page leaves its address there (R360). -/
def CombWin.join (w : CombWin) (g : Nat) (e : SbEntry) : CombWin :=
  { w with val := wd (redValue w.op (if w.w32 then 4 else 8) w.uns w.val.toNat (e.data.setWidth 64).toNat), who := w.who ++ [g]
           sws := if e.phys.sw ∧ e.va.toNat ∉ w.sws then w.sws ++ [e.va.toNat] else w.sws }

/-- An integer reduction reaches its block router: it joins a window of its word, op, width and sign, or opens one (R366,
R367). -/
def State.combine (s : State) (g : Nat) (e : SbEntry) (op : RedOp) (w32 uns : Bool) : State :=
  let b := s.blk (unitBlk g)
  let ws :=
    if b.wins.any (fun w => w.takes e.phys op w32 uns b.cyc) then
      b.wins.map fun w => if w.takes e.phys op w32 uns b.cyc then w.join g e else w
    else
      b.wins ++ [{ phys := e.phys, va := e.va.toNat, op := op, w32 := w32, uns := uns, val := e.data.setWidth 64, who := [g]
                   at_ := b.cyc, sws := if e.phys.sw then [e.va.toNat] else [] }]
  (s.modBlk (unitBlk g) fun y => { y with wins := ws }).markSent g

/-- The oldest entry of a thread's store buffer is performed at its home (R113); one at system scope is sent (R338), and an
integer reduction goes through its block router (R367). -/
def execStorePerform (g : Nat) (s : State) : Out :=
  match (s.thread g).sb with
  | [] => .next s
  | e :: _ =>
    if e.sent || s.beingSaved g then .next s
    else
      match e.phys.home, e.kind with
      | .remote dev, _ => .next (s.storeFar g dev e)
      | .host, _ => .next (s.markSent g)
      | .dram, .red .fadd _ _ => .next (s.performEntry g e)
      | .dram, .red op w u => .next (s.combine g e op w u)
      | .dram, .plain | .dram, .rel | .aperture, _ | .regs, _ => .next (s.edge e.phys fun s => s.performEntry g e)

/-- The host acknowledges a thread's oldest entry, which is performed then, or its delivery fails (R134, R338). -/
def execRemoteAck (g : Nat) (delivered : Bool) (port : BitVec 4) (s : State) : Out :=
  match (s.thread g).sb with
  | [] => .next s
  | e :: _ =>
    if e.sent = true ∧ e.phys.home = .host then
      .next (if delivered then s.performEntry g e else s.storeAcked g false port)
    else .next s

/-- One write event performs the reductions of a window, behind the watch steps of every address that its members go through (R337, R360,
R367). -/
def State.closeWin (s : State) (w : CombWin) : State :=
  let n := if w.w32 then 4 else 8
  let new := redValue w.op n w.uns (s.homeRead w.phys n) w.val.toNat
  let by_ := match w.who with | [g] => some g | _ => none
  w.who.foldl (fun s g => s.popStore g)
    ((w.sws.foldl (fun s va => s.watchWord true va) s).performWrite by_ none { w.phys with sw := false } w.va (leBytes n new))

/-- What a member of a load window reads. -/
def State.memberValue (s : State) (l : LoadMember) : Nat := leNat (s.spanRead l.phys l.n)

/-- Gives a member of a load window its value. -/
def State.answerLoad (s : State) (l : LoadMember) (x : VWord) : State :=
  match l.who with
  | .inl g => s.pendDone g l.tok x none
  | .inr m => s.modAgen m fun a => if a.far = .reading ∧ (a.addr a.part.length).toNat = l.va then { a with far := .read x } else a

/-- The loads of a window are performed at one instant (R366). -/
def State.closeLoads (s : State) (w : LoadWin) : State :=
  w.who.foldl (fun s1 l => s1.answerLoad l (BitVec.ofNat 256 (s.memberValue l))) s

/-- A combining window closes 32 block cycles after it opened: windows of reductions are counted first, then those of loads (R366, R367). -/
def execCombineWindowExpiry (b i : Nat) (s : State) : Out :=
  match (s.blk b).wins[i]? with
  | some w =>
    if (s.blk b).cyc < w.at_ + 32 then .next s
    else .next ((s.modBlk b fun x => { x with wins := x.wins.eraseIdx i }).closeWin w)
  | none =>
    let j := i - (s.blk b).wins.length
    match (s.blk b).lwins[j]? with
    | none => .next s
    | some w =>
      if (s.blk b).cyc < w.at_ + 32 then .next s
      else .next ((s.modBlk b fun x => { x with lwins := x.lwins.eraseIdx j }).closeLoads w)

end Sys2Proof.Machine
end

