-- ==== Sys2Proof/Machine/Fault.lean ====
section
/-!
DEFINITION. The fields' fault units: notices and records (R306, R307, R309), the verdicts of page-fault futures (R311, R313, R314,
R277), and the pattern compilers (R361 to R365).
-/
namespace Sys2Proof.Machine

/-! ## Notices and records (R306, R307, R309) -/

/-- The fault unit takes a notice that has come to one side of its router. -/
def State.takeNotice (s : State) (f : Nat) (d : Dir) (n : Notice) : State :=
  ((s.setLink (faultRouter f) d 3 ((s.link (faultRouter f) d 3).drop 1)).modField f fun x =>
    { x with notices := x.notices.erase n }).addRec f n.what

/-- A fault notice has come to its fault unit, which takes it while the queue has room; until then it waits on vc3 (R309). -/
def execFaultNotice (f : Nat) (s : State) : Out :=
  match s.nextNotice f with
  | none => .next s
  | some (d, n) => if s.noticeRoom f n.what then .next (s.takeNotice f d n) else .next s

/-- The record that is written first; of equals the one that came first. -/
def firstRec : List FRec → Option FRec
  | [] => none
  | r :: l =>
    match firstRec l with
    | none => some r
    | some x => if r.before x then some r else some x

/-- Whether the queue has room (R306). -/
def State.fqRoom (s : State) (f : Nat) : Bool :=
  decide (s.fqUsed f < (s.field f).fqsize)

/-- A write event of a fault unit to physical memory. -/
def State.physWrite (s : State) (a : Nat) (l : List Byte) : State :=
  s.performWrite none none { pa := a, home := .dram, sw := false } 0 l

/-- A record's number in its future entry (R311). -/
def State.futSeq (s : State) (f seq : Nat) (r : FRec) : State :=
  match r.fent with
  | none => s
  | some k => s.physWrite ((s.field f).fpbase.toNat + 4096 * k + 0x28) (leBytes 8 seq)

/-- Writes a record: its bytes, then tail, then an arrival at the doorbell (R306). -/
def State.writeRec (s : State) (f : Nat) (r : FRec) : State :=
  let base := (s.field f).fqbase.toNat
  let tail := s.fqTail f
  let seq := (tail + 1) % 2 ^ 64
  let s1 := (s.futSeq f seq r).physWrite (base + 64 + 64 * (tail % (s.field f).fqsize)) (r.bytes seq)
  ((s1.physWrite (base + 24) (leBytes 8 seq)).syncLand base 0 1).modField f fun x => { x with recs := x.recs.erase r }

/-- Whether a notice that has come to the fault unit goes before a record (R306). -/
def State.noticeFirst (s : State) (f : Nat) (r : FRec) : Bool := ((s.nextNotice f).map fun n => !r.before n.2.what).getD false

/-- The fault unit writes its next record when the queue has room (R306). -/
def execFaultRecordWrite (f : Nat) (s : State) : Out :=
  match firstRec (s.field f).recs with
  | none => .next s
  | some r => if s.fqRoom f && !s.noticeFirst f r then .next (s.writeRec f r) else .next s

/-! ## Verdicts (R311, R313) -/

/-- What a verdict asks for. -/
structure FutVerdict where
  cause : BitVec 8
  fin   : Bool
  deriving DecidableEq, Repr

/-- Reads a verdict word: one with a reserved bit, or a cause outside R37, counts as PAGE_NP (R313). -/
def verdictOf (x : Nat) : FutVerdict :=
  if bitsN x 9 55 ≠ 0 ∨ bitsN x 0 8 > 0x0F then { cause := cPAGE_NP, fin := false }
  else { cause := BitVec.ofNat 8 x, fin := bitsN x 8 1 == 1 }

/-- The address of a future entry. -/
def State.futAddr (s : State) (f k : Nat) : Nat := (s.field f).fpbase.toNat + 4096 * k

/-- Writes the state of a future entry, whose class stays (R311). -/
def State.futState (s : State) (f k st : Nat) : State :=
  let a := s.futAddr f k + 0x18
  s.physWrite a (leBytes 8 (bitsN (s.peek a 8) 5 3 * 32 + st))

def State.setFut (s : State) (f k : Nat) (e : Option FutEnt) : State :=
  s.modField f fun x => { x with futs := Tab.set none x.futs k e }

/-- The entry turns free once its unit has acted (R311). -/
def State.freeFut (s : State) (f k : Nat) : State := (s.futState f k 0).setFut f k none

/-- The field of a block's rotunda takes a thread for re-admission (R289). -/
def State.readmit (s : State) (th : Thread) (blk : Nat) : State :=
  s.modField (blk / 8) fun x =>
    { x with lists := Tab.upd [] x.lists th.prio.toNat fun l => l ++ [{ th := th, blk := blk }] }

/-- The record of a future whose pending store has failed, under the name of its old slot (R308, R313). -/
def State.futRec (s : State) (k slot : Nat) (th : Thread) (c : BitVec 8) (va : Word) : FRec :=
  { cause := c, fent := some k, sub := slot % 8, unit := recUnit (unitBlk slot) 5 (threadCore slot % 16), va := va, pos := th.ctx.pc
    time := s.ctime (unitBlk slot), ticket := th.ticket, aux := va }

/-- The entry of such a future returns to pending, with a new record (R313). -/
def State.futAgain (s : State) (f k slot : Nat) (e : FutEnt) (th : Thread) (c : BitVec 8) (va : Word) : State :=
  ((s.futState f k 1).setFut f k (some { e with resolving := false, gen := (syncOf (s.peek (s.futAddr f k) 16)).gen })).addRec f
    (s.futRec k slot th c va)

/-- A future's pending stores are translated afresh before it is re-admitted (R313). -/
def State.futResume (s : State) (f k : Nat) (e : FutEnt) (th : Thread) (slot : Nat) (v : Option (BitVec 8 × Word)) : State :=
  let r := s.translateSb th.sv th.sb
  match r.2 with
  | .ok sb => (r.1.freeFut f k).readmit { th with sb := sb, verdict := v } (unitBlk slot)
  | .error (va, c) => r.1.futAgain f k slot e th c va

/-- An escape thread that an end verdict ends re-enters its parked token unchanged, with no further record (R179, R313). -/
def State.endEscape (s : State) (grp : Option Nat) : State :=
  match grp.bind s.group with
  | none => s
  | some x =>
    match x.path with
    | .escape tile node n =>
      if x.sent then s
      else
        let parked := ((Tab.get {} (s.tile tile).escs node).out.find? fun k => decide (k.n = n)).map fun k => k.tok.pay
        (s.setGroup (grp.getD 0) (some { x with sent := true })).escapeBack tile node n (some (parked.getD 0)) 0
    | .none | .core _ | .remote _ _ | .host _ => s

/-- A future's thread with other pending stores. -/
def State.futStores (s : State) (f k slot : Nat) (e : FutEnt) (th : Thread) (sb : List SbEntry) : State :=
  s.setFut f k (some { e with unit := .thread { th with sb := sb } slot })

/-- The oldest pending store of a thread that an end verdict ends is performed, as quit waits for it (R214, R313): translated afresh, at
its home or by a request to another device. One that does not translate returns the entry to pending with a new record: R313 says so of
stores before re-admission, and nothing of these (DESIGN CHOICE, log 90). -/
def State.futStore (s : State) (f k slot : Nat) (e : FutEnt) (th : Thread) (x : SbEntry) (l : List SbEntry) : State :=
  let r := s.xlMark x.va.toNat { rd := false, wr := true, ex := false, sv := th.sv, form := x.kind.form }
  match r.2 with
  | .bad c => r.1.futAgain f k slot e th c x.va
  | .ok p =>
    match p.home with
    | .remote dev =>
      (match (r.1.watchWord p.sw x.va.toNat).sendPacket dev (coreName (threadCore slot)) (some (.fut f k))
          [{ hdr := mkHdr 4 0 0 0 0 0 0 (s.fresh % 2 ^ 14), pay := Config.memReqPayload p.pa x.size x.kind.far x.data }] with
        | some s1 => s1.next.futStores f k slot e th ({ x with phys := p, sent := true } :: l)
        | none => r.1.futStores f k slot e th l)
    | .dram | .aperture | .regs | .host =>
      r.1.edge p fun s => (s.performWrite none none p x.va.toNat (s.entryBytes { x with phys := p })).futStores f k slot e th l

/-- A store of a future has been performed by another device, or its delivery has failed. -/
def State.futStored (s : State) (f k : Nat) : State :=
  match Tab.get none (s.field f).futs k with
  | none => s
  | some e =>
    match e.unit with
    | .thread th slot => s.futStores f k slot e th (th.sb.drop 1)
    | .agen _ | .xfer _ | .cmd _ => s

/-- An end verdict ends a thread as by quit with s[d] = c: after its stores and the range locks of its transfers (R214, R276, R313). -/
def State.futEnd (s : State) (f k : Nat) (e : FutEnt) (th : Thread) (slot : Nat) (c : BitVec 8) : State :=
  match th.sb with
  | x :: l => if x.sent then s else s.futStore f k slot e th x l
  | [] =>
    if s.dev.locks.any fun l => l.uid == some th.uid then s
    else
      let s1 := match th.task with
        | none => s
        | some n => s.dropTask n.1 n.2
      (((s1.endEscape th.group).endMember th.group false (c.setWidth 64) 0 0 0
        (unitField slot, { cause := cLINK_LOST, unit := recUnit (unitBlk slot) 5 (threadCore slot % 16), sub := slot % 8
                           time := s.ctime (unitBlk slot) })).freeFut f k).compsOut slot th.comps

/-- A fabric unit acts on a verdict: it replays, or stops with the cause (R277, R313, R314). -/
def State.futFabric (s : State) (e : FutEnt) (c : BitVec 8) : State :=
  match e.unit with
  | .thread _ _ => s
  | .agen m =>
    (match s.agen m with
      | none => s
      | some a =>
        if c = 0 then s.setAgen m (some { a with stall := none, walked := none })
        else
          (s.setAgen m (some { a with stall := none, halted := true })).regionNotice (some a.gid) (m / 8) 2 (m % 8) 0 c true a.route
            e.va (wd (8 * a.n + a.part.length)))
  | .xfer id =>
    (match s.xfer id with
      | none => s
      | some x =>
        if c = 0 then s.modXfer id fun y => { y with stall := none }
        else (s.modXfer id fun y => { y with stall := none }).endXfer id x c e.va.toNat)
  | .cmd x =>
    match (s.xport x).arr.findIdx? fun a => a.stall.isSome with
    | none => s
    | some i =>
      match (s.xport x).arr[i]? with
      | none => s
      | some a => if c = 0 then s.modArr x i fun y => { y with stall := none } else s.discardCmd x i a c e.va.toNat

/-- Acts on the verdict of an entry that is resolving (R313). -/
def State.futAct (s : State) (f k : Nat) (e : FutEnt) : State :=
  let v := verdictOf (s.peek (s.futAddr f k + 0x10) 8)
  match e.unit with
  | .thread th slot =>
    if v.fin then s.futEnd f k e th slot v.cause
    else s.futResume f k e th slot (if v.cause = 0 then none else some (v.cause, e.va))
  | .agen _ | .xfer _ | .cmd _ => (s.freeFut f k).futFabric e v.cause

/-- A future entry whose resolution word has advanced turns to resolving, and then its unit acts on the verdict (R311,
R313). -/
def execFutureResolve (f k : Nat) (s : State) : Out :=
  match Tab.get none (s.field f).futs k with
  | none => .next s
  | some e =>
    if e.resolving then .next (s.futAct f k e)
    else if (syncOf (s.peek (s.futAddr f k) 16)).gen = e.gen then .next s
    else .next ((s.futState f k 2).setFut f k (some { e with resolving := true }))

/-! ## The pattern compilers (R361 to R365) -/

/-- Whether the first word of a compile is present, or it has nothing to wait for (R363). -/
def Compile.present (c : Compile) : Bool := c.scan.lev.isSome || c.fail.isSome || (c.mem.isNone && c.va.isSome)

def State.modComp0 (s : State) (b : Nat) (f : Compile → Compile) : State :=
  s.modBlk b fun x => { x with comps := x.comps.modify 0 f }

/-- The oldest compile of a block starts once its first word is present (R363). -/
def execCompileStart (blk : Nat) (s : State) : Out :=
  match (s.blk blk).comps.head? with
  | none => .next s
  | some c =>
    if c.began.isNone ∧ c.present = true then
      .next (s.modComp0 blk fun x => { x with began := some (s.blk blk).cyc })
    else .next s

/-- Whether the last word of a compile has arrived. -/
def Compile.complete (c : Compile) : Bool :=
  c.fail.isSome || (c.va.isSome && c.mem.isNone && !c.asked) || (c.va.isNone && c.scan.done)

/-- What a compile yields: a program, nothing (a stream too long, or a failed read), or a malformed tile (R362, R364). -/
inductive Yield where
  | prog (nb : Nat) (l : List (BitVec 32))
  | nothing
  | malformed
  deriving DecidableEq, Repr

def Compile.result (c : Compile) : Yield :=
  if c.fail.isSome then .nothing
  else if c.long then .nothing
  else if c.scan.bad then .malformed
  else .prog c.scan.nb c.scan.program

/-- Whether the metadata's watch word still is the identity's generation (R357, R361). -/
def State.genHolds (s : State) (c : Compile) : Bool :=
  match c.va with
  | none => true
  | some va =>
    let wt := s.dev.wtbase.toNat
    let gen := if wt = 0 ∨ c.sw = false then 0 else s.peek (wt + 8 * s.watchIdx va) 8
    gen % 2 ^ 18 == bits c.ident 46 18

/-- The target's waiting mspx takes what its compile has yielded (R362 to R364). -/
def MOp.served (m : MOp) (ident : Word) (cyc : Nat) (y : Yield) : MOp :=
  match m.kind, m.sp with
  | .mspx i _ _, .waitc =>
    if i = ident then
      match y with
      | .prog nb l => { m with sp := .ready nb l, began := some cyc }
      | .nothing => { m with sp := .fall, began := some cyc }
      | .malformed => m
    else m
  | _, _ => m

/-- Whether an operation waits for the compile of an identity. -/
def MOp.awaits (m : MOp) (ident : Word) : Bool :=
  match m.kind, m.sp with
  | .mspx i _ _, .waitc => i == ident
  | _, _ => false

/-- Serves the form of a tile that waits for a compile: one of a malformed tile, or of a program with another nb, halts with UND
(R354, R364). -/
def State.serveTile (s : State) (t : Nat) (ident : Word) (y : Yield) : State :=
  match (s.tile t).mq.head? with
  | none => s
  | some m =>
    let go := s.modHead t fun o => o.served ident (s.tileCyc t) y
    if m.awaits ident = false then s
    else
      match y with
      | .malformed => s.haltOp t m cUND
      | .prog nb _ => if nb ≠ mdNb m.md then s.haltOp t m cUND else go
      | .nothing => go

/-- The fault record of a requester that is not a tile core (R308, R364). -/
def State.compileRec (s : State) (b : Nat) (cause : BitVec 8) (va : Word) (r : Requester) : State :=
  match r with
  | .core _ => s
  | .thread g pc ticket => s.addRec (unitField g) { s.threadRec g cause with va := va, pos := pc, ticket := ticket }
  | .xfer id =>
    match s.xfer id with
    | none => s
    | some x => s.addNotice (s.xferField x) (s.xferRec { x with blk := b } cause va.toNat)

/-- The cause that a compile without a program gives its requesters, if any (R364). -/
def Compile.cause (c : Compile) : Option (BitVec 8 × Word) :=
  match c.fail with
  | some x => some x
  | none => if c.long then none else if c.scan.bad then some (cUND, 0) else none

/-- A compile's program enters the target's cache, unless its metadata has been written since (R361, R363). -/
def State.insertProg (s : State) (c : Compile) (y : Yield) : State :=
  match y with
  | .prog nb l =>
    if s.genHolds c then s.modTile c.tile fun x => x.insert { ident := c.ident, nb := nb, prog := l, stale := false } else s
  | .nothing | .malformed => s

/-- A compile ends: its program enters the cache, the form that waits goes on, and its other requesters get their records; a
transfer that waits raises its count next (R363 to R365). -/
def State.endCompile (s : State) (b : Nat) (c : Compile) : State :=
  let y := c.result
  let s1 := ((s.modBlk b fun x => { x with comps := x.comps.drop 1 }).insertProg c y).serveTile c.tile c.ident y
  match c.cause with
  | none => s1
  | some (cause, va) => c.reqs.foldl (fun s r => s.compileRec b cause va r) s1

/-- The running compile of a block ends 64 block cycles and one per coordinate word after its start, and never sooner than 64
after its last word (R363). -/
def execCompileEnd (blk : Nat) (s : State) : Out :=
  match (s.blk blk).comps.head? with
  | none => .next s
  | some c =>
    match c.began with
    | none => .next s
    | some n =>
      let cyc := (s.blk blk).cyc
      if c.complete ∧ cyc ≥ n + 64 + c.scan.coords.length ∧ cyc ≥ c.last + 64 then .next (s.endCompile blk c) else .next s

end Sys2Proof.Machine
end

