-- ==== Sys2Proof/Machine/Rotunda.lean ====
section
/-!
DEFINITION. The rotunda and the commit arbiter: the check of arriving records (R382 to R385), admission, reservation and
promotion (R283 to R288), the entry state of threads (R19, R45, R46), and the abort, restart and commit of ordered tasks
(R345 to R347).
-/
namespace Sys2Proof.Machine

/-! ## Handler entries (R382, R383) -/

/-- Entry `i` of the handler table; none when it is not valid, or when there is no table (R381). -/
def State.handler (s : State) (i : Nat) : Option HEntry :=
  let a := s.dev.htbase.toNat + 32 * i
  let w0 := s.peek a 8
  let w1 := s.peek (a + 8) 8
  let w2 := s.peek (a + 16) 8
  let w3 := s.peek (a + 24) 8
  let ssz := bitsN w2 0 32
  if s.dev.htbase ≠ 0 ∧ bitsN w0 63 1 = 1 ∧ bitsN w0 52 5 = 0 ∧ bitsN w0 0 3 = 0 ∧ bitsN w1 52 12 = 0 ∧ bitsN w1 0 5 = 0 ∧
      bitsN w2 32 16 = 0 ∧ bitsN w3 5 59 = 0 ∧ ssz ≠ 0 ∧ ssz % 32 = 0 then
    some { sv := bitsN w0 62 1 == 1, gsz := bitsN w0 59 3, prio := BitVec.ofNat 2 (bitsN w0 57 2)
           code := wd (bitsN w0 3 49 * 8), sbase := wd (bitsN w1 5 47 * 32), quota := bitsN w2 48 16, ssz := ssz
           snd := BitVec.ofNat 5 w3 }
  else none

/-- The snd bit of a sender (R383). -/
def Sender.bit : Sender → Nat
  | .host _ => 0
  | .fabric _ _ => 1
  | .thread _ => 2
  | .remote _ sv => if sv then 4 else 3

/-- Records that the rotunda never refuses for lack of room or by quota (R287, R385). -/
def Sender.exempt : Sender → Bool
  | .host _ | .fabric _ _ => true
  | .thread _ | .remote _ _ => false

/-- Whether a sender may use the code-address form (R92, R384). -/
def Sender.mayAf : Sender → Bool
  | .thread sv => sv
  | .host _ | .fabric _ _ | .remote _ _ => false

/-! ## The check of an arriving record (R384) -/

/-- Whether a record is a spawn.t record. -/
def Rec.isTask (r : Rec) : Bool :=
  match r.pref with
  | .only _ => true
  | .field | .first _ => false

/-- Row 1: the record breaks R92, or R205 for a record of a creating form, or carries af = 1 without the right. -/
def Rec.denied (r : Rec) : Bool :=
  !recFormOk r.data || (recAf r.data && !r.sender.mayAf) || (!recAf r.data && recGsz r.data != 0) ||
    (recAf r.data && r.isTask && recGsz r.data != 0)

/-- The group size of a record (R45): that of an escape record is 1, whatever its entry says (R46, R290). -/
def Rec.size (r : Rec) : Nat :=
  match r.sender, r.entry with
  | .fabric _ _, _ => 1
  | .host _, some e | .thread _, some e | .remote _ _, some e => e.gsz + 1
  | .host _, none | .thread _, none | .remote _ _, none => recGsz r.data + 1

/-- The priority at which a record is queued: an escape record's from its entry (R290), and 1 for priority 0 of a user
thread of another SD4 (R385). -/
def Rec.queuePrio (r : Rec) : Nat :=
  match r.sender, r.entry with
  | .fabric _ _, some e => e.prio.toNat
  | .remote _ sv, _ => if !sv && recPrio r.data == 0 then 1 else recPrio r.data
  | .fabric _ _, none | .host _, _ | .thread _, _ => recPrio r.data

/-- The groups of an entry that a field holds (R385). -/
def State.heldGroups (s : State) (f hidx : Nat) : Nat :=
  (s.dev.groups.filter fun e => match e.2 with
    | some x => decide (x.field = f) && x.hidx == some hidx
    | none => false).length

/-- What a check decides. -/
inductive Verdict where
  | refuse (code : Nat)
  | wait (r : Rec)
  | queue (r : Rec)
  deriving DecidableEq, Repr

/-- Rows 4 to 6, for a record that names its handler. -/
def State.judgeRoom (s : State) (f : Nat) (r : Rec) : Verdict :=
  let full := decide ((Tab.get [] (s.field f).queues r.queuePrio).length ≥ 256)
  let overQ := match r.entry with
    | none => false
    | some e => decide (e.quota ≠ 0 ∧ s.heldGroups f (recHidx r.data) ≥ e.quota)
  if r.sender.exempt then (if full then .wait r else .queue r)
  else if overQ || full then .refuse 1
  else .queue r

/-- The entry that a record names: as it was read when the record first met its rotunda (R384). -/
def State.entryFor (s : State) (r : Rec) : Option HEntry :=
  match r.entry with
  | some e => some e
  | none => s.handler (recHidx r.data)

/-- The rows of R384 in their order. -/
def State.judge (s : State) (f : Nat) (r : Rec) : Verdict :=
  if r.denied then .refuse 3
  else if recAf r.data then s.judgeRoom f r
  else
    match s.entryFor r with
    | none => .refuse 2
    | some e =>
      if e.snd.getLsbD r.sender.bit = false ∨ (r.isTask = true ∧ e.gsz ≠ 0) then .refuse 3
      else s.judgeRoom f { r with entry := some e }

/-- Tells a record's sender what became of it (R206, R208, R393). -/
def State.notify (s : State) (n : Notify) (code : Nat) : State :=
  match n with
  | .nobody => s
  | .pend g tok => s.pendDone g tok (statusOf 0 0 code) none
  | .inv id => s.invAnswer id code
  | .remote dev esn _ => s.answer dev esn (BitVec.ofNat 8 code)

/-- A refused record: an escape token goes back (R179), a host record gets its reply (R404). -/
def State.refuse (s : State) (r : Rec) (code : Nat) : State :=
  match r.sender with
  | .fabric tile node =>
    (match r.path with
      | .escape _ _ n => s.escapeBack tile node n none (wd code)
      | .none | .core _ | .remote _ _ | .host _ => s)
  | .host q =>
    if recTicket r.data = 0 then s
    else s.modDev fun d =>
      { d with hreps := d.hreps ++ [{ q := q, data := replyData (recTicket r.data) code 0 0 0 0, next := s.ns }] }
  | .thread _ | .remote _ _ => s.notify r.notify code

/-- Queues a record: its group begins, and a spawn.t record takes its number (R342, R385). -/
def State.enqueue (s : State) (f : Nat) (r : Rec) : State :=
  let id := s.fresh
  let p := r.queuePrio
  let grp : Group :=
    { field := f, hidx := if recAf r.data then none else some (recHidx r.data), ticket := recTicket r.data, path := r.path
      left := r.size, sent := decide (recTicket r.data = 0) && !(match r.path with
        | .escape _ _ _ => true
        | .none | .core _ | .remote _ _ | .host _ => false) }
  let r' := { r with prio := p, group := id, since := s.ns, task := if r.isTask then some id else none }
  ((s.next.setGroup id (some grp)).modField f fun x =>
    { x with queues := Tab.upd [] x.queues p fun q => q ++ [r'] }).notify r.notify 0

/-- The oldest record on its way to a rotunda is checked (R384); an escape or host record that finds no room waits, with the
entry that has been read for it. -/
def execRecordArrival (f : Nat) (s : State) : Out :=
  match (s.field f).arr with
  | [] => .next s
  | r :: l =>
    let s1 := s.modField f fun x => { x with arr := l }
    match s.judge f r with
    | .refuse code => .next (s1.refuse r code)
    | .wait r' => .next (s.modField f fun x => { x with arr := l ++ [r'] })
    | .queue r' => .next (s1.enqueue f r')

/-! ## Where a head fits (R285, R286) -/

/-- The head of a queue (keys 0 to 3) or of a re-admission list (keys 4 to 7). -/
inductive Head where
  | record (r : Rec)
  | thread (x : ReAdm)
  deriving DecidableEq, Repr

/-- The heads in the order in which the rotunda looks at them (R284). -/
def headOrder : List Nat := [4, 0, 5, 1, 6, 2, 7, 3]

def Field.headOf (x : Field) (k : Nat) : Option Head :=
  if k < 4 then (Tab.get [] x.queues k).head?.map Head.record
  else (Tab.get [] x.lists (k - 4)).head?.map Head.thread

/-- Whether a thread that is not in slot `g` holds stack index `g` (R383). -/
def State.stackAway (s : State) (g : Nat) : Bool :=
  s.threads.any (fun e => e.1 != g && e.2.run != .free && e.2.stack == some g) ||
  s.dev.away.contains g ||
  s.fields.any (fun e =>
    (e.2.lists.any fun l => l.2.any fun x => x.th.stack == some g) ||
    (e.2.futs.any fun u => match u.2.bind FutEnt.holder with
      | some th => th.stack == some g
      | none => false))

/-- The free slots of a core, lowest first, for a new admission or a re-admission. -/
def State.freeSlots (s : State) (c : Nat) (fresh : Bool) : List Nat :=
  ((List.range 8).map fun i => 8 * c + i).filter fun g =>
    (s.thread g).run == .free && !(fresh && s.stackAway g)

/-- The slots that a head may use on a core: none of a core that another head has reserved (R286). -/
def State.slotsFor (s : State) (f k c : Nat) (fresh : Bool) : List Nat :=
  if ((s.field f).resv.any fun e => e.1 != k && e.2 == c + 1) || !s.coreExists c then [] else s.freeSlots c fresh

/-- The cores of a block, and of a field, by name. -/
def blkCores (b : Nat) : List Nat := (List.range 16).map fun i => 16 * b + i
def fieldCores (f : Nat) : List Nat := (List.range 128).map fun i => 128 * f + i

/-- Whether a head is new, how many slots it needs, and its eligible cores: first set and fallback (R285). -/
def Head.fresh : Head → Bool
  | .record _ => true
  | .thread _ => false
def Head.size : Head → Nat
  | .record r => r.size
  | .thread _ => 1
def Head.cores (f : Nat) : Head → List Nat × List Nat
  | .record r =>
    match r.pref with
    | .field => (fieldCores f, [])
    | .only b => (blkCores b, [])
    | .first b => (blkCores b, fieldCores f)
  | .thread x => (blkCores x.blk, fieldCores f)

/-- Whether a block's commit arbiter has room for a spawn.t record (R342). -/
def State.arbiterRoom (s : State) (h : Head) : Bool :=
  match h with
  | .record r =>
    match r.pref with
    | .only b => decide ((s.blk b).tasks.length < 128)
    | .field | .first _ => true
  | .thread _ => true

/-- The core with the most usable slots, at least `n` of them; ties go to the lowest name. -/
def State.bestCore (s : State) (f k n : Nat) (fresh : Bool) (cs : List Nat) : Option Nat :=
  (cs.foldl (fun (best : Option (Nat × Nat)) c =>
    let m := (s.slotsFor f k c fresh).length
    if m < n then best
    else
      match best with
      | none => some (c, m)
      | some b => if b.2 < m then some (c, m) else best) none).map Prod.fst

/-- The core where a head fits (R285). -/
def State.fits (s : State) (f k : Nat) (h : Head) : Option Nat :=
  if !s.arbiterRoom h then none
  else
    match s.bestCore f k h.size h.fresh (h.cores f).1 with
    | some c => some c
    | none => s.bestCore f k h.size h.fresh (h.cores f).2

/-- The core to reserve for a head that does not fit: existing, and not reserved for another (R286). -/
def State.reserveFor (s : State) (f k : Nat) (h : Head) : Option Nat :=
  let cs := (if (h.cores f).2 = [] then (h.cores f).1 else (h.cores f).2).filter fun c =>
    s.coreExists c && !((s.field f).resv.any fun e => e.1 != k && e.2 == c + 1)
  s.bestCore f k 0 h.fresh cs

/-! ## Entry states (R19, R45, R46) -/

/-- Scalar registers set in order. -/
def setRegs (v : Vector Word 32) : List (Nat × Word) → Vector Word 32
  | [] => v
  | (i, x) :: l => setRegs (v.setIfInBounds i x) l

/-- Lanes 0 to `n` of a register; the others are zero. -/
def lowLanes (x : VWord) (n : Nat) : VWord := BitVec.ofNat 256 (x.toNat % 2 ^ (32 * (n + 1)))

/-- The entry state of member `i` of a record's group in slot `g`. -/
def Rec.start (r : Rec) (i g : Nat) (tvec : Word) (uid : Nat) : Thread :=
  let stack := match r.entry with
    | none => 0
    | some e => e.sbase + wd (e.ssz * (g + 1))
  let regs := match r.token with
    | none => (List.range 4).map fun k => (4 + k, recArg r.data k)
    | some t => [(4, wd (hLen t.hdr + 1)), (5, wd (hEtype t.hdr)), (6, wd (hRoute t.hdr)), (7, wd (hSeq t.hdr))]
  let v := match r.token with
    | none => Ctx.zero.v
    | some t => Ctx.zero.v.set 0 (lowLanes t.pay (hLen t.hdr))
  { run := .run
    ctx := { Ctx.zero with
      pc := bundleAddr (match r.entry with
        | some e => e.code
        | none => recCode r.data)
      s := setRegs Ctx.zero.s (regs ++ [(8, wd i), (9, wd r.size), (2, stack)])
      v := v }
    sv := match r.entry with
      | some e => e.sv
      | none => true
    spec := r.isTask
    prio := BitVec.ofNat 2 r.prio
    ticket := recTicket r.data
    tsval := if recTsp r.data then recTs r.data else 0
    ehand := tvec
    uid := uid
    group := some r.group
    stack := match r.entry with
      | some _ => some g
      | none => none
    task := match r.pref, r.task with
      | .only b, some n => some (b, n)
      | .only _, none | .field, _ | .first _, _ => none }

/-- Places the members of a group in slots (R283). -/
def State.place (s : State) (r : Rec) : Nat → List Nat → State
  | _, [] => s
  | i, g :: gs => ((s.next).setThread g (r.start i g s.dev.tvec s.fresh)).place r (i + 1) gs

/-- A new ordered task, with its entry state. -/
def Rec.newTask (r : Rec) (g n : Nat) (t : Thread) : Task :=
  { g := g, ts := recTs r.data, num := n, entry := t, buf := [], sws := [], marks := [], aborts := 0, hit := false
    plain := false, parent := r.parent.map Prod.snd }

/-- A new ordered task enters its block's arbiter with its entry state (R342, R345). -/
def State.enterTask (s : State) (r : Rec) (g : Nat) : State :=
  match r.pref, r.task with
  | .only b, some n =>
    s.modBlk b fun x => { x with tasks := insertTask (r.newTask g n (s.thread g)) x.tasks }
  | .only _, none | .field, _ | .first _, _ => s

/-- Admits the head of a queue or list on a core, into its lowest free slots (R283, R285). -/
def State.admitHead (s : State) (f k c : Nat) (h : Head) : State :=
  let s1 := s.wakeBlk (c / 16)
  match h with
  | .record r =>
    let gs := (s1.slotsFor f k c true).take r.size
    let s2 := s1.modField f fun x =>
      { x with queues := Tab.upd [] x.queues k fun q => q.drop 1, resv := Tab.set 0 x.resv k 0, lastAdmit := some s.ns }
    (s2.place r 0 gs).enterTask r (gs.getD 0 0)
  | .thread x =>
    let g := (s1.slotsFor f k c false).getD 0 0
    let s2 := s1.modField f fun y =>
      { y with lists := Tab.upd [] y.lists (k - 4) fun q => q.drop 1, resv := Tab.set 0 y.resv k 0, lastAdmit := some s.ns }
    let s3 := s2.setThread g { x.th with run := .run }
    match x.th.task with
    | none => s3
    | some n => s3.modTask n.1 n.2 fun t => { t with g := g }

/-- Whether a head holds a reservation: one on a core that has ceased to exist is none (R286, R377). -/
def State.hasResv (s : State) (f k : Nat) : Bool :=
  let c := Tab.get 0 (s.field f).resv k
  decide (c ≠ 0) && s.coreExists (c - 1)

/-- A head that does not fit gets a reservation, unless it has one (R286). -/
def State.reserveHead (s : State) (f k : Nat) (h : Head) : State :=
  if s.hasResv f k then s
  else
    match s.reserveFor f k h with
    | none => s
    | some c => s.modField f fun x => { x with resv := Tab.set 0 x.resv k (c + 1) }

/-- The heads behind the one that has been admitted: each that does not fit gets a reservation. -/
def State.reserveRest (s : State) (f : Nat) : List Nat → State
  | [] => s
  | k :: ks =>
    match (s.field f).headOf k with
    | none => s.reserveRest f ks
    | some h => (if (s.fits f k h).isSome then s else s.reserveHead f k h).reserveRest f ks

/-- Goes through the heads: the first that fits is admitted, and each that does not fit gets a reservation (R284, R286). -/
def State.admitFirst (s : State) (f : Nat) : List Nat → State
  | [] => s
  | k :: ks =>
    match (s.field f).headOf k with
    | none => s.admitFirst f ks
    | some h =>
      match s.fits f k h with
      | some c => (s.admitHead f k c h).reserveRest f ks
      | none => (s.reserveHead f k h).admitFirst f ks

/-- The rotunda admits the first head that fits, at most one per ns (R284). -/
def execRotundaAdmit (f : Nat) (s : State) : Out :=
  if (s.field f).lastAdmit = some s.ns then .next s else .next (s.admitFirst f headOrder)

/-- A record that has stayed 64,000 ns in queue `q` moves to the tail of the next higher priority's, if that has room
(R288). -/
def execRecordPromotion (f q : Nat) (s : State) : Out :=
  match Tab.get [] (s.field f).queues q with
  | [] => .next s
  | r :: l =>
    if 1 ≤ q ∧ q ≤ 3 ∧ r.since + 64000 ≤ s.ns ∧ (Tab.get [] (s.field f).queues (q - 1)).length < 256 then
      .next (s.modField f fun x =>
        { x with
          queues := Tab.upd [] (Tab.set [] x.queues q l) (q - 1) fun u => u ++ [{ r with prio := q - 1, since := s.ns }]
          resv := Tab.set 0 x.resv q 0 })
    else .next s

/-! ## Ordered tasks (R345 to R347) -/

/-- A write at home to a marked line has aborted a speculative task: it restarts (R345). -/
def execTaskConflictAbort (g : Nat) (s : State) : Out :=
  match s.taskOf g with
  | none => .next s
  | some k =>
    if k.hit ∧ (s.thread g).spec = true then .next (s.abortRestart g)
    else .next (s.modTask (unitBlk g) k.num fun k => { k with hit := false })

/-- An aborted task that waits for an event restarts plain once it is oldest (R346). -/
def execTaskPlainRestart (g : Nat) (s : State) : Out :=
  match s.taskOf g with
  | none => .next s
  | some k =>
    if (s.thread g).run = .parked ∧ s.isOldest g = true then
      .next ((s.modTask (unitBlk g) k.num fun k => { k with plain := true }).modThread g fun t => { t with run := .run, spec := false })
    else .next s

/-- The arbiter commits its oldest task when it is finished, and the task's quit or reply completes (R347). -/
def execTaskCommit (b : Nat) (s : State) : Out :=
  match (s.blk b).tasks with
  | [] => .next s
  | k :: _ =>
    match (s.thread k.g).run with
    | .finished reply d a c =>
      if k.hit ∨ (s.thread k.g).task ≠ some (b, k.num) then .next s else .next ((s.commitBuf b k).endThread k.g reply d a c)
    | .free | .run | .halted | .wait _ | .parked => .next s

end Sys2Proof.Machine
end

