-- ==== Sys2Proof/Machine/Marold.lean ====
section
/-!
DEFINITION. The Marold ports: frames (R386 to R389), lanes and links that die (R390, R397, R398), packets and their answers (R391 to
R395, R415), memory requests of other devices (R338), and the attempts and replies of invocations (R208, R212).
-/
namespace Sys2Proof.Machine

/-! ## Records of the device (R393, R398, R415) -/

/-- A record of class 6, index 0, about a packet or a port (R306). -/
def State.devRec (s : State) (cause : BitVec 8) (ticket : BitVec 32) (va aux : Word) : State :=
  s.addRec 0 { cause := cause, unit := recUnit 0 6 0, va := va, time := wd s.ns, ticket := ticket, aux := aux }

/-! ## Memory requests of other devices (R338) -/

/-- The reductions by their number. -/
def redOpOf (n : Nat) : RedOp :=
  match n with
  | 0 => .add
  | 1 => .min
  | 2 => .max
  | 3 => .and
  | 4 => .or
  | 5 => .xor
  | _ => .fadd

/-- The value that an atomic writes, by the number of its operation: none when a cas fails (R126). -/
def amoNew (op n : Nat) (uns : Bool) (old x cmp : Nat) : Option Nat :=
  match op with
  | 0 => some ((old + x) % 2 ^ (8 * n))
  | 1 => some x
  | 2 => if old = cmp then some x else none
  | 3 => some (minBy n uns old x)
  | 4 => some (maxBy n uns old x)
  | 5 => some (old &&& x)
  | 6 => some (old ||| x)
  | _ => some (old ^^^ x)

/-- A reduction or an atomic at its home: the state and the old value. -/
def State.serveAtomic (s : State) (p : Phys) (form : Nat) (data : BitVec 256) : State × Nat :=
  let n := if bitsN form 1 1 = 1 then 4 else 8
  let uns := bitsN form 0 1 == 1
  let old := s.homeRead p n
  let x := data.toNat % 2 ^ (8 * n)
  if form < 64 then
    (s.performWrite none none p 0 (leBytes n (redApply (redOpOf ((form - 16) / 4)) n uns old x)), old)
  else
    match amoNew ((form - 64) / 4) n uns old x (bitsN data.toNat 64 64 % 2 ^ (8 * n)) with
    | none => (s, old)
    | some new => (s.performWrite none none p 0 (leBytes n new), old)

/-- A reply reaches its mailbox at its home (R211, R212): the record is written and tail follows it, or naks counts. Answers
whether it was written; `record` places a record's bytes. -/
def State.mailAt (s : State) (box : Phys) (va : Nat) (data : BitVec 256) (record : State → Nat → Nat → Except (BitVec 8) State) :
    Except (BitVec 8) (State × Bool) :=
  let x := s.homeRead box 64
  let cap := bitsN x 0 16
  let head := bitsN x 64 64
  let tail := bitsN x 128 64
  if cap = 0 ∨ bitsN x 16 48 ≠ 0 ∨ bitsN x 256 256 ≠ 0 ∨ (tail + 2 ^ 64 - head) % 2 ^ 64 ≥ cap then
    .ok (s.writeAt none none (box.plus 24) (va + 24) (leBytes 8 (min (bitsN x 192 64 + 1) (2 ^ 64 - 1))), false)
  else
    match record s (64 + 40 * (tail % cap)) (data.toNat + s.ns % 2 ^ 64 * 2 ^ 256) with
    | .error c => .error c
    | .ok s1 => .ok (s1.writeAt none none (box.plus 16) (va + 16) (leBytes 8 ((tail + 1) % 2 ^ 64)), true)

/-- The place that a request names: its address, and in bit 48 whether lines are spread (log 10). -/
def wirePlace (addr : Nat) : Option Phys :=
  (homeOf (addr % 2 ^ 48)).map fun h => { pa := addr % 2 ^ 48, home := h, sw := false, hash := bitsN addr 48 1 == 1 }

/-- Performs a memory request of another device: the state and what the response carries (R338, log 10). -/
def State.serveMem (s : State) (addr n form : Nat) (data : BitVec 256) : State × BitVec 256 :=
  match wirePlace addr with
  | none => (s, Config.nowhere addr)
  | some p =>
    match form with
    | 0 => (s, BitVec.ofNat 256 (leNat (s.spanRead p (min n 32))))
    | 1 => (s.spanWrite none none p 0 (leBytes (min n 32) data.toNat), 0)
    | 5 =>
      (match s.mailAt p 0 data (fun s off x => .ok (s.spanWrite none none (p.plus off) 0 (leBytes 40 x))) with
        | .ok r => (r.1, BitVec.ofNat 256 (!r.2).toNat)
        | .error _ => (s, 0))
    | _ =>
      let r := s.serveAtomic p form data
      (r.1, BitVec.ofNat 256 r.2)

/-- The forms of requests about sync words, which are answered when the cycle in which they land has ended: 2 a sync.set, 3 an arrival,
4 a byte count (R270, log 10). -/
def syncForm (addr form : Nat) : Option Phys := if 2 ≤ form ∧ form ≤ 4 then wirePlace addr else none

/-- Such a request lands at its word. -/
def State.serveSync (s : State) (p : Phys) (form : Nat) (data : BitVec 256) (who : SyncWho) : State :=
  match form with
  | 2 => s.syncSetAt none p 0 (bitsN data.toNat 0 32) (bitsN data.toNat 32 8) who
  | 3 => s.syncArriveAt none p 0 (bitsN data.toNat 0 8) who
  | _ => s.syncLand p.pa data.toNat 0 [who]

/-! ## What a response does (R338) -/

/-- A piece of a buffer arrives. -/
def farPut (b : FarBuf) (dev pa : Nat) (x : VWord) : FarBuf :=
  b.map fun e => if e.1 = dev ∧ e.2.1 = pa then (dev, pa, some x) else e

/-- A ctx.save or ctx.load through another device's memory has its last piece (R225). -/
def State.imageDone (s : State) (j : ImgJob) : State :=
  let s1 := s.modDev fun d => { d with imgjobs := d.imgjobs.filter fun k => decide (k.tok ≠ j.tok) }
  if j.save then (s1.farFree (slotName (wd j.slot)) j.comps).pendDone j.g j.tok 0 none
  else
    let n := slotName (wd j.slot)
    let r := s1.loadImage n (n.num * 8 + n.tid) (j.got.flatMap fun x => leBytes 32 (x.getD 0).toNat)
    r.1.pendDone j.g j.tok (BitVec.ofNat 256 r.2) none

/-- A piece of such an image has been performed. -/
def State.imagePiece (s : State) (tok i : Nat) (x : BitVec 256) : State :=
  match s.dev.imgjobs.find? fun j => decide (j.tok = tok) with
  | none => s
  | some j =>
    let k := { j with got := j.got.set i (some x) }
    if k.got.all Option.isSome then s.imageDone k
    else s.modDev fun d => { d with imgjobs := d.imgjobs.map fun y => if y.tok = tok then k else y }

/-- The words of metadata that a piece of 32 bytes holds from an address on. -/
def metaWords (va n : Nat) : Nat := min (min 8 (n / 4)) ((65536 - va % 65536) / 4)

/-- A compile of a tile goes on with a piece of its metadata that has arrived (R351, R362). -/
def State.metaPiece (s : State) (b t : Nat) (ident : Word) (x : BitVec 256) : State :=
  match (s.blk b).comps.find? fun c => c.tile == t && c.ident == ident && c.asked with
  | none => s
  | some c =>
    match c.mem with
    | none => s
    | some (va, n) =>
      let k := metaWords va n
      let scan := (natWords x.toNat k).foldl Scan.word c.scan
      let r := State.readMeta (n / 4 + 1) s (va + 4 * k) (n - 4 * k) scan
      let c1 : Compile := { c with asked := false, mem := r.2.mem, scan := r.2.scan, fail := r.2.fail, last := (s.blk b).cyc }
      let q := r.1.askMeta b c1 r.2.far
      q.1.modBlk b fun y => { y with comps := y.comps.map fun e => if e.ident = ident ∧ e.tile = c.tile then q.2 else e }

/-- A waiting reply has been taken: its ticket's entry is free, and a packet that brought it is answered. -/
def State.mailDone (s : State) (core : Nat) (data : BitVec 256) (src : Option (Nat × BitVec 32 × Nat)) (code : BitVec 8) :
    State :=
  let s1 := if code = 0 then s.freeTicket core (BitVec.ofNat 32 data.toNat) else s
  match src with
  | some (dev, esn, _) => s1.answer dev esn code
  | none =>
    if code = 0 then s1
    else s1.modDev fun d =>
      { d with replies := d.replies ++ [{ core := core, data := data, src := none, to_ := none, again := some (s.ns + 1024) }] }

/-- What the response of a memory request does for its requester. -/
def State.memDone (s : State) (k : PKind) (x : BitVec 256) : State :=
  match k with
  | .mem g tok => s.pendDone g tok x none
  | .store g => s.storeAcked g true 0
  | .fetch g va => s.modThread g fun t =>
      { t with fetchw := match t.fetchw with
          | some (a, none) => if a = va then some (va, some (x.setWidth 64)) else some (a, none)
          | y => y }
  | .image _ tok i => s.imagePiece tok i x
  | .poll g => s.modThread g fun t => t.wake x.toNat
  | .part g dev pa => s.modThread g fun t => { t with farbuf := farPut t.farbuf dev pa x }
  | .cmd xp dev pa => s.modXport xp fun p =>
      { p with arr := p.arr.map fun a => { a with farbuf := farPut a.farbuf dev pa x } }
  | .xfer id => s.modXfer id fun y => { y with far := .wrote }
  | .xpart id dev pa => s.modXfer id fun y => { y with farbuf := farPut y.farbuf dev pa x }
  | .agen m => s.modAgen m fun a => { a with ignore := false, far := if a.ignore then .idle else if a.store then .wrote else .read x }
  | .comp b t ident => s.metaPiece b t ident x
  | .dev dev pa => s.modDev fun d => { d with far := farPut d.far dev pa x }
  | .mail core data src => s.mailDone core data src (if x = 0 then 0 else 1)
  | .count id => s.modXfer id fun y => { y with counts := y.counts - 1 }
  | .done m => s.doneAcked m true
  | .fut f k => s.futStored f k
  | .hostw _ | .note | .inv _ | .reply _ _ _ _ => s

/-- A command that waits for a piece is discarded with LINK_LOST. -/
def State.cmdLost (s : State) (xp dev pa : Nat) : State :=
  let arr := (s.xport xp).arr
  match arr.findIdx? fun a => a.farbuf.any fun e => decide (e.1 = dev ∧ e.2.1 = pa ∧ e.2.2 = none) with
  | none => s
  | some i =>
    match arr[i]? with
    | none => s
    | some a => s.discardCmd xp i a cLINK_LOST 0

/-- No live path remains for an unanswered packet (R134, R208, R398). -/
def State.packetLost (s : State) (k : PKind) (port : Nat) : State :=
  let p4 : BitVec 4 := BitVec.ofNat 4 port
  let ev : Word := p4.setWidth 64
  match k with
  | .inv id => s.invAnswer id 5
  | .reply data _ f unit => s.addRec f
      { cause := cLINK_LOST, unit := unit, time := wd s.ns, ticket := BitVec.ofNat 32 data.toNat }
  | .mem g tok => s.pendDone g tok 0 (some (cLINK_LOST, ev))
  | .store g => s.storeAcked g false p4
  | .fetch g va =>
    if (s.thread g).entry = true ∧ (s.thread g).ctx.pc.toNat = va then s.handlerHalt g
    else s.modThread g fun t => { t with verdict := some (cLINK_LOST, ev), fetchw := none, farbuf := [] }
  | .part g _ _ => s.modThread g fun t => { t with verdict := some (cLINK_LOST, ev), fetchw := none, farbuf := [] }
  | .image g tok _ => (s.modDev fun d => { d with imgjobs := d.imgjobs.filter fun j => decide (j.tok ≠ tok) }).pendDone g tok 0
      (some (cLINK_LOST, ev))
  | .cmd xp dev pa => s.cmdLost xp dev pa
  | .xfer id => s.modXfer id fun y => { y with far := .lost p4 }
  | .xpart id _ _ =>
    (match s.xfer id with
      | none => s
      | some x => s.endXfer id x cLINK_LOST 0)
  | .agen m => s.modAgen m fun a => { a with ignore := false, far := if a.ignore then .idle else .lost p4 }
  | .comp b t ident => s.modBlk b fun y =>
      { y with comps := y.comps.map fun c =>
          if c.tile = t ∧ c.ident = ident ∧ c.asked = true then
            { c with asked := false, mem := none, fail := some (cLINK_LOST, wd (c.mem.getD (0, 0)).1) }
          else c }
  | .mail core data src => (s.mailDone core data src 0).addRec (core / 128)
      { cause := cLINK_LOST, unit := recUnit (core / 16) 5 (core % 16), time := wd s.ns, ticket := BitVec.ofNat 32 data.toNat }
  | .dev dev pa => s.modDev fun d => { d with far := d.far.filter fun e => !(e.1 == dev && e.2.1 == pa) }
  | .count id =>
    (match s.xfer id with
      | none => s
      | some x => (if x.xst = 0 then s.endXfer id x cLINK_LOST 0 else s).modXfer id fun y => { y with counts := y.counts - 1 })
  | .done m => s.doneAcked m false
  | .fut f k => s.futStored f k
  | .poll g => s.modThread g fun t => t.pollLost ev
  | .hostw _ | .note => s

/-! ## Frames at a port (R387 to R389) -/

/-- A frame leaves a port's buffer, and its place goes back to the peer (R388). -/
def MPort.free (p : MPort) (f : Frame) : MPort :=
  { p with
    rxbuf := p.rxbuf.erase f
    freed := match f.vc with
      | none => p.freed
      | some v => p.freed.set v (p.freed.getD v 0 + 1) }

/-- Whether two frames belong to one packet. -/
def Frame.same (a b : Frame) : Bool := a.sdev == b.sdev && a.esn == b.esn && a.ddev == b.ddev

/-- The peer has taken the frames up to `lack`; those of forwarded packets that are answered are kept (R389, R397). -/
def MPort.acked (p : MPort) (own lack : Nat) : MPort :=
  match p.replay.findIdx? fun e => decide (e.1.toNat = lack) with
  | none => p
  | some i =>
    { p with replay := p.replay.drop (i + 1), resends := 0
             kept := p.kept ++ ((p.replay.take (i + 1)).map Prod.snd).filter fun f => f.sdev.toNat != own && f.answered }

/-- Credits that the peer returns (R388). -/
def MPort.credited (p : MPort) (crd : Nat) : MPort :=
  { p with credit := (List.range 4).map fun v => min 64 (p.credit.getD v 0 + bitsN crd (4 * v) 4) }

/-- A frame outside the sequence: it keeps no place and is never retried (R389). Its lseq is 0: R387 says so of idle frames, and gives a
retry request none (DESIGN CHOICE, log 121). -/
def MPort.emitFree (p : MPort) (f : Frame) : MPort :=
  { p with out := f.encode 0 p.rxSeq.toNat (crdOf p.freed) :: p.out, freed := p.freed.map fun n => n - min n 15 }

/-- A frame of the link itself. -/
def linkFrame (ftype : BitVec 2) (own dest : Nat) (body : BitVec 320) : Frame :=
  { ftype := ftype, last := false, fidx := 0, sname := 0, esn := 0, ddev := BitVec.ofNat 10 dest, sdev := BitVec.ofNat 10 own
    body := body }

/-- Counts a frame towards the 65,536 of R390. -/
def MPort.counted (p : MPort) (bad : Bool) : MPort :=
  if p.frames + 1 ≥ 65536 then { p with frames := 0, discards := bad.toNat }
  else { p with frames := p.frames + 1, discards := p.discards + bad.toNat }

/-- A frame is discarded; one retry request goes out for the frame now expected (R389). -/
def MPort.reject (p : MPort) (own : Nat) : MPort :=
  let q := p.counted true
  if q.asked then q else ({ q with asked := true }).emitFree (linkFrame 2 own q.peer.toNat 0)

/-- What a good frame's link fields do. -/
def MPort.linkFields (p : MPort) (own x now : Nat) : MPort :=
  let q := ((p.acked own (bitsN x 408 16)).credited (bitsN x 426 16)).counted false
  ({ q with lastGood := now } : MPort).drain

/-- A frame with a good CRC: an idle frame, a retry request, or one of the sequence (R387, R389). -/
def MPort.take (p : MPort) (own x now : Nat) (f : Frame) : MPort :=
  match f.ftype.toNat with
  | 1 => { p.linkFields own x now with peer := f.sdev, peerTime := wd (bitsN x 0 64), peerAt := some now }
  | 2 => { p.linkFields own x now with reqd := some (BitVec.ofNat 16 (bitsN x 408 16)) }
  | _ =>
    if bitsN x 392 16 = (p.rxSeq.toNat + 1) % 65536 then
      let q := p.linkFields own x now
      { q with rxSeq := q.rxSeq + 1, asked := false, rxbuf := q.rxbuf ++ [f]
               parts := if f.ftype ≠ 0 then q.parts else if f.last then q.parts.filter fun g => !g.same f else f :: q.parts }
    else p.reject own

/-- Whether the 512 bits of a frame carry a good CRC and zeros where they must. -/
def frameGood (x : Nat) : Bool :=
  bitsN x 480 32 == crc32c (leBytes 60 (x % 2 ^ 480)) && bitsN x 442 38 == 0 && bitsN x 391 1 == 0

/-- The packets that a device has sent to another, by the sequence number of one of them: the count nearest to the one known, so that the
count of wraps in its nonce is found though no packet carries it (R392, R415; log 14). -/
def nearCount (known esn : Nat) : Nat :=
  let m := 2 ^ 32 - 1
  let w := known / m
  let at_ (k : Nat) : Nat := k * m + (esn - 1)
  if at_ w + 2 ^ 31 < known then at_ (w + 1) else if known + 2 ^ 31 < at_ w ∧ w ≠ 0 then at_ (w - 1) else at_ w

/-- The key of a pair of devices, and the wraps of the counter that a frame's packet took its number from. -/
def Frame.pair (f : Frame) : Nat := 1024 * f.sdev.toNat + f.ddev.toNat
def State.wrapsOf (s : State) (f : Frame) : Nat := (esnOf (nearCount (Tab.get 0 s.dev.seen f.pair) f.esn.toNat)).2

/-- The kind of a sealed packet's flits: a frame's own, under the cipher, or for the tag frame that of the frames before it. -/
def State.sealedKind (s : State) (port : Nat) (key : List Byte) (f : Frame) : Nat :=
  if f.last then (((s.port port).parts.find? fun g => g.same f).map Frame.kind).getD 0
  else
    let n := 40 * f.fidx.toNat
    let pt := ctrMode (aesKey key) (packetNonce f.sdev.toNat f.ddev.toNat (s.wrapsOf f) f.esn.toNat) ((n + 23) / 16) 2
      (List.replicate n 0 ++ leBytes 8 f.body.toNat)
    bitsN (leNat (pt.drop n)) 60 4

/-- The frame that 512 bits carry to a port. -/
def State.frameIn (s : State) (port x : Nat) : Frame :=
  let f := frameOf x
  match s.dev.marKey, s.dev.sealed with
  | some key, true => if f.ftype = 0 then { f with kind := s.sealedKind port key f } else f
  | _, _ => f

/-- A frame arrives on a port (R389). -/
def execFrameReceive (port : Nat) (frame : BitVec 512) (s : State) : Out :=
  if (s.port port).run = .up then
    .next (s.modPort port fun p =>
      if frameGood frame.toNat then p.take s.dev.devnum frame.toNat s.ns (s.frameIn port frame.toNat) else p.reject s.dev.devnum)
  else .next s

/-- Sends again every frame of the replay buffer after `lack`, in order. -/
def MPort.resendFrom (p : MPort) (lack : BitVec 16) : MPort :=
  let l := match p.replay.findIdx? fun e => e.1 == lack with
    | none => p.replay
    | some i => p.replay.drop (i + 1)
  l.foldl (fun q e => { q with out := e.2.encode e.1.toNat q.rxSeq.toNat (crdOf q.freed) :: q.out
                               freed := q.freed.map fun n => n - min n 15 }) p

/-- The peer's retry request is met: the sender resends from lack + 1 (R389), not while the port retrains (R390). -/
def execRetryRequest (port : Nat) (s : State) : Out :=
  match (s.port port).reqd with
  | none => .next s
  | some lack =>
    if (s.port port).run ≠ .up then .next s
    else .next (s.modPort port fun p =>
      let q := p.acked s.dev.devnum lack.toNat
      ({ q with reqd := none, resends := if q.replay = [] then 0 else q.resends + 1 }).resendFrom lack)

/-- A port sends an idle frame that carries ctime (R387, R389). -/
def execIdleFrame (port : Nat) (s : State) : Out :=
  if (s.port port).run = .up then
    .next (s.modPort port fun p =>
      { p.emitFree (linkFrame 1 s.dev.devnum p.peer.toNat (BitVec.ofNat 320 (s.ns % 2 ^ 64))) with lastIdle := s.ns })
  else .next s

/-! ## Forwarding (R391) -/

/-- The first frame of a port's buffer that is for another device. -/
def State.foreign (s : State) (port : Nat) : Option Frame :=
  (s.port port).rxbuf.find? fun f => decide (f.ddev.toNat ≠ s.dev.devnum)

/-- Forwarded frames go by the forwarding device's live port, or their packets are answered LINK_LOST (R391, R397): every packet is,
with its last frame. -/
def State.reforward (s : State) (f : Frame) : State :=
  match s.livePort f.ddev.toNat with
  | some q => s.portSend q [f]
  | none =>
    if f.ftype = 0 ∧ f.last = true then
      match s.livePort f.sdev.toNat with
      | none => s
      | some q => s.portSend q [answerFrame f.ddev.toNat f.sdev.toNat f.esn 5]
    else s

/-- An answer that passes ends the need to keep the frames of its packet (R397). -/
def State.answerPasses (s : State) (f : Frame) : State :=
  if f.ftype ≠ 3 then s
  else s.modDev fun d =>
    { d with links := Tab.mapVals {} (fun _ p =>
        { p with kept := p.kept.filter fun g => !(g.sdev == f.ddev && g.ddev == f.sdev && g.esn == (f.body.setWidth 32 : BitVec 32)) }) d.links }

/-- A frame for another device goes on towards it, or is answered LINK_LOST on its behalf (R391). -/
def execFrameForward (port : Nat) (s : State) : Out :=
  match s.foreign port with
  | none => .next s
  | some f => .next (((s.answerPasses f).modPort port fun p => p.free f).reforward f)

/-! ## Packets that have arrived (R393, R415, R419) -/

/-- Whether `n` flits have not a token each. -/
def MPort.short (p : MPort) (n : Nat) : Bool := decide (p.paid + p.tokens < n)

/-- As many of them as there are tokens have entered. -/
def MPort.part (p : MPort) : MPort := { p with paid := p.paid + p.tokens, tokens := 0 }

/-- All of them have. -/
def MPort.pay (p : MPort) (n : Nat) : MPort := { p with paid := p.paid - n, tokens := p.tokens - (n - p.paid) }

/-- The frames of a packet in order, the latest of each index, when all of them are among those listed (R393). -/
def wholeOf (fs : List Frame) : Option (List Frame) :=
  match fs.find? Frame.last with
  | none => none
  | some z =>
    let l := (List.range (z.fidx.toNat + 1)).filterMap fun i => fs.reverse.find? fun x => decide (x.fidx.toNat = i)
    if l.length = z.fidx.toNat + 1 then some l else none

/-- The packet that a frame belongs to, when all of it has arrived (R393): its frames in order, and those that leave the buffer with it.
A resend may come behind frames of a first sending that broke off (R397). -/
def wholePacket (l : List Frame) (f : Frame) : Option (List Frame × List Frame) :=
  let fs := l.filter fun x => x.ftype == 0 && x.same f
  (List.range fs.length).findSome? fun k => (wholeOf (fs.take (k + 1))).map fun p => (p, fs.take (k + 1))

/-- The whole packets for this device in a port's buffer, in the order of their first frames. -/
def packetsFor (own : Nat) (l : List Frame) : List (List Frame) :=
  (l.filter fun f => f.ftype == 0 && f.ddev.toNat == own && f.fidx == 0).filterMap fun f => (wholePacket l f).map Prod.fst

/-- A packet leaves a port's buffer. -/
def MPort.freePacket (p : MPort) (fs : List Frame) : MPort :=
  match fs with
  | [] => p
  | f :: _ => (((wholePacket p.rxbuf f).map Prod.snd).getD fs).foldl MPort.free p

/-- The flits of a packet, decrypted in a sealed job: none when the tag fails (R415). -/
def State.packetFlits (s : State) (fs : List Frame) : Option (List Flit) :=
  match s.dev.marKey, s.dev.sealed with
  | some key, true =>
    (match fs with
      | [] => none
      | f :: _ =>
        let n := fs.length - 1
        let ct := (fs.take n).flatMap fun x => leBytes 40 x.body.toNat
        let tag := leBytes 16 (bitsN ((fs.getLast?.map fun x => x.body.toNat).getD 0) 0 128)
        (gcmOpen key (packetNonce f.sdev.toNat f.ddev.toNat (s.wrapsOf f) f.esn.toNat) (packetAad f) ct tag).map fun pt =>
          (bodiesOf n pt).map flitOf)
  | _, _ => some (fs.map fun f => flitOf f.body)

/-! ## Answers (R393) -/

/-- A packet that waited for fewer unanswered ones to its device goes out (R392). -/
def State.releaseHeld (s : State) (dest : Nat) : State :=
  if s.unansTo dest ≥ 4096 then s
  else
    match s.dev.unans.find? fun u => u.held && decide (u.dest = dest) with
    | none => s
    | some u =>
      (s.modDev fun d => { d with unans := d.unans.map fun v =>
        if v.dest = dest ∧ v.esn = u.esn then { v with held := false } else v }).portSend u.port u.frames

/-- A request is answered as performed, and its response was lost with a port: a write is done, and what waits for data meets LINK_LOST
(R134, R393, R397; log 105). -/
def State.responseLost (s : State) (k : PKind) (port : Nat) : State :=
  match k with
  | .store _ | .xfer _ | .count _ | .done _ | .fut _ _ | .hostw _ | .note => s.memDone k 0
  | .agen m => if ((s.agen m).map Agen.store).getD false then s.memDone k 0 else s.packetLost k port
  | .inv _ | .reply _ _ _ _ | .mem _ _ | .fetch _ _ | .image _ _ _ | .poll _ | .part _ _ _ | .cmd _ _ _ | .xpart _ _ _ | .comp _ _ _
  | .dev _ _ | .mail _ _ _ => s.packetLost k port

/-- What an answer's status does for the packet that it ends. -/
def State.answered (s : State) (u : Unans) (st : Nat) : State :=
  match u.kind with
  | .inv id => s.invAnswer id st
  | .reply data sname f unit =>
    if st = 1 then s.modDev fun d =>
      { d with replies := d.replies ++ [{ core := 0, data := data, src := none, to_ := some (u.dest, sname)
                                          again := some (s.ns + 1024), from_ := (f, unit) }] }
    else if st = 5 then s.packetLost u.kind u.port
    else s
  | .mem _ _ | .store _ | .fetch _ _ | .image _ _ _ | .poll _ | .part _ _ _ | .cmd _ _ _ | .xfer _ | .xpart _ _ _ | .agen _
  | .comp _ _ _ | .dev _ _ | .mail _ _ _ | .count _ | .done _ | .fut _ _ | .hostw _
  | .note =>
    if u.got then s else if st = 5 then s.packetLost u.kind u.port else s.responseLost u.kind u.port

/-- Whether a packet asks for a memory response. -/
def PKind.responds : PKind → Bool
  | .inv _ | .reply _ _ _ _ => false
  | .mem _ _ | .store _ | .fetch _ _ | .image _ _ _ | .poll _ | .part _ _ _ | .cmd _ _ _ | .xfer _ | .xpart _ _ _ | .agen _
  | .comp _ _ _ | .dev _ _ | .mail _ _ _ | .count _ | .done _ | .fut _ _ | .hostw _ | .note => true

/-- Whether a memory response of the device that answers stands before its answer in a port's buffer: the response is sent first
(R393), and it is taken first. -/
def State.respBefore (s : State) (port : Nat) (f : Frame) : Bool :=
  (packetsFor s.dev.devnum ((s.port port).rxbuf.takeWhile (· != f))).any fun fs =>
    (fs.head?.map Frame.sdev == some f.sdev) &&
      (match s.packetFlits fs with
        | some [a] => hKind a.hdr == 5
        | some _ | none => false)

/-- An answer frame ends an outstanding packet (R393). -/
def execAnswerFrame (port : Nat) (s : State) : Out :=
  match (s.port port).rxbuf.find? fun f => f.ftype == 3 && decide (f.ddev.toNat = s.dev.devnum) with
  | none => .next s
  | some f =>
    let s1 := s.modPort port fun p => p.free f
    let esn : BitVec 32 := f.body.setWidth 32
    let st := bitsN f.body.toNat 32 8
    match s.dev.unans.find? fun u => u.esn == esn && decide (u.dest = f.sdev.toNat) with
    | none => .next s1
    | some u =>
      if u.kind.responds && !u.got && decide (st = 0) && s.respBefore port f then .next s
      else
        let s2 := s1.modDev fun d => { d with unans := d.unans.filter fun v => !(v.esn == esn && v.dest == u.dest) }
        .next ((s2.answered u st).releaseHeld u.dest)

/-! ## Packets (R392 to R395, R415) -/

/-- Whether a data token that arrives at a port can go on: a current context declares its route with this producer, and the port's router
takes it, from which it reaches the route's consumers, an adder among them (R388, R395). -/
def State.tokenGoes (s : State) (port : Nat) (f : Flit) : Bool :=
  (s.findRoute (hRoute f.hdr) fun _ r => r.src == .lp port).isSome && s.linkRoom (Config.linkRouter port) .inject 0

/-- Whether a packet can be acted on now. -/
def State.canTake (s : State) (port : Nat) (fl : Option (List Flit)) : Bool :=
  match fl with
  | some [f] => if hKind f.hdr = 0 then s.tokenGoes port f else true
  | some _ | none => true

/-- The first packet that can be acted on: tokens of one route keep their order. -/
def State.pickPacket (s : State) (port : Nat) : List Nat → List (List Frame) → Option (List Frame × Option (List Flit))
  | _, [] => none
  | held, fs :: l =>
    let fl := s.packetFlits fs
    match fl with
    | some [f] =>
      if hKind f.hdr = 0 ∧ (held.contains (hRoute f.hdr) = true ∨ s.tokenGoes port f = false) then
        s.pickPacket port (hRoute f.hdr :: held) l
      else some (fs, fl)
    | some _ | none => some (fs, fl)

/-- An invocation record from another device (R384, R393). -/
def State.takeRecord (s : State) (port : Nat) (f : Frame) (a b : Flit) : State :=
  let data : BitVec 512 := b.pay ++ a.pay
  let dev := f.sdev.toNat
  (s.modDev fun d => { d with answers := keepAnswer d.answers dev f.esn unanswered }).sendRec (hRoute a.hdr % 16)
    { data := data, sender := .remote dev (recSvs data)
      path := if recTicket data = 0 then .none else .remote dev f.sname.toNat
      pref := .field, notify := .remote dev f.esn port }

/-- A reply from another device: to its core, or discarded with a record when its ticket has no entry (R393). -/
def State.takeReply (s : State) (port : Nat) (f : Frame) (a : Flit) : State :=
  let dev := f.sdev.toNat
  let core := hRoute a.hdr
  let ticket : BitVec 32 := a.pay.setWidth 32
  if (s.core core).outst.any fun o => o.ticket == ticket then
    s.modDev fun d =>
      { d with answers := keepAnswer d.answers dev f.esn unanswered
               replies := d.replies ++ [{ core := core, data := a.pay, src := some (dev, f.esn, port), to_ := none, again := none }] }
  else (s.devRec 0 ticket 0 (wd dev)).answer dev f.esn 0

/-- A memory request has been performed: its response goes out, and then its answer (R338, R393). -/
def State.respond (s : State) (dev : Nat) (esn : BitVec 32) (tag : Nat) (x : BitVec 256) : State :=
  ((s.sendPacket dev 0 none [{ hdr := mkHdr 5 0 0 0 0 0 0 tag, pay := x }]).getD s).answer dev esn 0

/-- Whether `h` and `k` are the lower and the upper half of one line's request: of one device, one behind the other (R407, log 131). -/
def Half.before (h k : Half) : Bool :=
  h.dev == k.dev && h.form == k.form && h.addr / 64 == k.addr / 64 && decide (h.addr < k.addr) &&
    k.esn.toNat == (esnOf h.esn.toNat).1

/-- Both halves of a line are performed as one event, and answered (R407). -/
def State.serveLine (s : State) (lo hi : Half) : State :=
  match wirePlace lo.addr with
  | none => (s.respond lo.dev lo.esn lo.tag (Config.nowhere lo.addr)).respond hi.dev hi.esn hi.tag (Config.nowhere hi.addr)
  | some p =>
    let bytes (h : Half) : List Byte := leBytes (min h.n 32) h.data.toNat
    let read (h : Half) : BitVec 256 := if h.form = 7 then BitVec.ofNat 256 (leNat (s.spanRead (p.plus (h.addr - lo.addr)) (min h.n 32))) else 0
    let s1 := if lo.form = 7 then s else s.spanWrite none none p 0 (bytes lo ++ bytes hi)
    (s1.respond lo.dev lo.esn lo.tag (read lo)).respond hi.dev hi.esn hi.tag (read hi)

/-- One half of a line's request waits for the other (R407). -/
def State.takeHalf (s : State) (h : Half) : State :=
  match s.dev.halves.find? fun k => h.before k || k.before h with
  | none => s.modDev fun d => { d with halves := d.halves ++ [h], answers := keepAnswer d.answers h.dev h.esn unanswered }
  | some k =>
    let s1 := s.modDev fun d => { d with halves := d.halves.erase k }
    if h.before k then s1.serveLine h k else s1.serveLine k h

/-- A memory request from another device: performed, its response sent, and answered (R338, R393); one about a sync word stands
unanswered until its cycle has ended (R270), and half a line's until the other half has come. -/
def State.takeRequest (s : State) (f : Frame) (a : Flit) : State :=
  let dev := f.sdev.toNat
  let r := Config.memReqOf a.pay
  match syncForm r.1 r.2.2.1 with
  | some p => (s.modDev fun d => { d with answers := keepAnswer d.answers dev f.esn unanswered }).serveSync p r.2.2.1 r.2.2.2
      (.remote dev f.esn (hKs a.hdr))
  | none =>
    if r.2.2.1 = 6 ∨ r.2.2.1 = 7 then
      s.takeHalf { dev := dev, esn := f.esn, tag := hKs a.hdr, addr := r.1, n := r.2.1, form := r.2.2.1, data := r.2.2.2 }
    else
      let x := s.serveMem r.1 r.2.1 r.2.2.1 r.2.2.2
      x.1.respond dev f.esn (hKs a.hdr) x.2

/-- The responses to requests about sync words whose cycles have ended go out. -/
def State.sendSync (s : State) : State :=
  s.dev.sresp.foldl (fun s e => s.respond e.1 e.2.1 e.2.2.1 (BitVec.ofNat 256 e.2.2.2)) (s.modDev fun d => { d with sresp := [] })

/-- A memory response (R338). -/
def State.takeResponse (s : State) (f : Frame) (a : Flit) : State :=
  let mine (u : Unans) : Bool := !u.got && u.dest == f.sdev.toNat && u.tag == hKs a.hdr && u.kind.responds
  match s.dev.unans.find? mine with
  | none => s
  | some u =>
    (s.modDev fun d => { d with unans := d.unans.map fun v =>
      if v.esn = u.esn ∧ v.dest = u.dest then { v with got := true } else v }).memDone u.kind a.pay

/-- A data token that arrives on a link (R395). -/
def State.takeToken (s : State) (port : Nat) (a : Flit) : State :=
  if s.tokenGoes port a then s.inject (Config.linkRouter port) a else s

/-- A corrupted flit that arrives at a port: the region of its route has the record, or the device where no route into the mesh at the port
has its number (R90). -/
def State.badArrival (s : State) (port : Nat) (a : Flit) : State :=
  match s.findRoute (hRoute a.hdr) fun _ r => r.src == .lp port with
  | some (gid, _) => s.routerNotice (some gid) (Config.linkRouter port) cECC false (hRoute a.hdr)
  | none => s.devRec cECC 0 0 0

/-- Acts on a packet's flits (R393). A frame with the body of another kind is corrupted (R90, R387), and so is a packet of more flits than
an invocation's two of kind 0x2. -/
def State.actPacket (s : State) (port : Nat) (f : Frame) (fl : List Flit) : State :=
  match fl with
  | [a] =>
    if a.broken then s.badArrival port a
    else
      (match hKind a.hdr with
        | 0 => s.takeToken port a
        | 3 => s.takeReply port f a
        | 4 => s.takeRequest f a
        | 5 => s.takeResponse f a
        | _ => s.badArrival port a)
  | [a, b] =>
    if a.broken || b.broken || hKind a.hdr != 2 || hKind b.hdr != 2 then s.badArrival port a else s.takeRecord port f a b
  | a :: _ => s.badArrival port a
  | [] => s

/-- The stored answer of a packet that has been received before (R393). -/
def State.answerFor (s : State) (dev : Nat) (esn : BitVec 32) : Option (BitVec 8) :=
  (s.dev.answers.find? fun a => a.1 == dev && a.2.1 == esn).map fun a => a.2.2

/-- Whether a packet is of a kind that is answered. -/
def answeredKind (fl : List Flit) : Bool :=
  match fl with
  | a :: _ => hKind a.hdr == 2 || hKind a.hdr == 3 || hKind a.hdr == 4
  | [] => false

/-- Takes a packet whose flits are known: a duplicate is discarded and its stored answer is sent again. -/
def State.takePacket (s : State) (port : Nat) (f : Frame) (fl : List Flit) : State :=
  if answeredKind fl then
    match s.answerFor f.sdev.toNat f.esn with
    | some st => if st = unanswered then s else s.sendAnswer f.sdev.toNat f.esn st
    | none => s.actPacket port f fl
  else s.actPacket port f fl

/-! ## Ports that go down (R390, R397, R398) -/

/-- Whether a graph has a route through a Marold port. -/
def Graph.uses (g : Graph) (port : Nat) : Bool :=
  g.desc.ctxs.any fun c => match c with
    | none => false
    | some x => x.routes.any fun r => r.src == .lp port || r.dsts.any fun d => d.2 == .lp port || d.2 == .lpAdd port

/-- Every region with a route through a port is faulted (R398). -/
def State.faultRegions (s : State) (p : Graph → Bool) : State :=
  s.modDev fun d => { d with graphs := Tab.mapVals none (fun _ g => g.map fun x => if p x then { x with bad := true } else x) d.graphs }

/-- A packet of this device that was sent on a port that is down goes by the live port, or is lost (R397, R398). -/
def State.reroute (s : State) (port : Nat) (u : Unans) : State :=
  let drop (s : State) : State := s.modDev fun d => { d with unans := d.unans.filter fun v => !(v.esn == u.esn && v.dest == u.dest) }
  if u.port ≠ port then s
  else
    match s.livePort u.dest with
    | some q =>
      let s1 := s.modDev fun d => { d with unans := d.unans.map fun v =>
        if v.esn = u.esn ∧ v.dest = u.dest then { v with port := q } else v }
      if u.held then s1 else s1.portSend q u.frames
    | none => (drop s).packetLost u.kind port

/-- What a buffer keeps: a packet whose last flit has not arrived is discarded (R397), and the rest of one that has been forwarded in part is
not. -/
def wholeOnly (l : List Frame) : List Frame := l.filter fun f => f.ftype != 0 || l.any fun g => g.ftype == 0 && g.last && g.same f

/-- A port that has gone down: its sequence begins anew when it comes up. -/
def MPort.downed (p : MPort) (now : Nat) : MPort :=
  { p with run := .down, downAt := now, txSeq := 0, rxSeq := 0, replay := [], resends := 0, credit := [64, 64, 64, 64]
           freed := [0, 0, 0, 0], waitq := [], rxbuf := wholeOnly p.rxbuf, asked := false, reqd := none, discards := 0, frames := 0
           kept := [], parts := [] }

/-- The frames that a port which goes down leaves to the forwarding device's other port: of those sent, the packets that are answered,
in full, and answers; of those not sent yet, all but data tokens, whose regions the port faults (R397, R398). -/
def MPort.toForward (p : MPort) (own : Nat) : List Frame :=
  ((p.kept ++ p.replay.map Prod.snd).filter fun f => f.answered || f.ftype == 3) ++
    (p.waitq.filter fun f => f.answered || f.ftype == 3 || (f.kind == 5 && p.waitq.any fun g => g.same f && g.fidx == 0)) |>.filter fun f =>
      f.sdev.toNat != own

/-- A port goes down (R390, R397, R398). -/
def State.goDown (s : State) (port : Nat) : State :=
  let p := s.port port
  let fwd := p.toForward s.dev.devnum
  let s1 := ((s.modPort port fun q => q.downed s.ns).devRec cLINK_LOST 0 0 (wd (port % 16 + p.peer.toNat * 65536))).faultRegions
    fun g => g.uses port
  fwd.foldl State.reforward (s.dev.unans.foldl (fun s u => s.reroute port u) s1)

/-- A packet has arrived: its number is the last one known of its sender (R415). -/
def State.sawPacket (s : State) (fs : List Frame) : State :=
  match fs with
  | [] => s
  | f :: _ => s.modDev fun d => { d with seen := Tab.upd 0 d.seen f.pair fun n => max n (nearCount n f.esn.toNat) }

/-- The flits of a packet that enter the fabric: its frames but for the one that carries a tag (R415). -/
def enterFlits (fs : List Frame) (fl : Option (List Flit)) : Nat := (fl.map List.length).getD fs.length

/-- A packet arrives whole (R393), and enters when each of its flits has its token (R419): one whose tag fails takes its port down for the
rest of the job (R415). -/
def execPacketReceive (port : Nat) (s : State) : Out :=
  match s.pickPacket port [] (packetsFor s.dev.devnum (s.port port).rxbuf) with
  | none => .next s
  | some (fs, fl) =>
    if (s.port port).short (enterFlits fs fl) then .next (s.modPort port MPort.part)
    else
      let s1 := (s.modPort port fun p => (p.freePacket fs).pay (enterFlits fs fl)).sawPacket fs
      match fl with
      | some l =>
        (match fs with
          | f :: _ => .next (s1.takePacket port f l)
          | [] => .next s1)
      | none => .next (((s1.devRec cSEAL 0 0 0).modPort port fun p => { p with barred := true }).goDown port)

/-- A port retrains after 16 discarded frames, when a frame that has been resent four times is asked for again, or with its peer, which has
begun (R390). -/
def execPortRetrain (port : RetrainOf) (s : State) : Out :=
  let p := s.port port.port
  if p.run = .up ∧ (port.byPeer = true ∨ p.discards ≥ 16 ∨ p.resends ≥ 4 ∧ p.reqd.isSome = true) then
    .next (s.modPort port.port fun p => { p with run := .retraining s.ns })
  else .next s

/-- A port goes down when no good frame arrives for 8,192 ns while frames are outstanding (R390). -/
def execPortDown (port : Nat) (s : State) : Out :=
  let p := s.port port
  if p.run.live = true ∧ p.replay ≠ [] ∧ s.ns ≥ max p.lastGood p.since + 8192 then .next (s.goDown port) else .next s

/-- A down port retrains every 1 ms (R390). -/
def execDownPortRetrain (port : Nat) (s : State) : Out :=
  let p := s.port port
  if p.run = .down ∧ p.barred = false ∧ s.ns ≥ p.downAt + 1000000 then
    .next (s.modPort port fun p => { p with run := .training })
  else .next s

/-- The lanes that a test keeps: the first 16, 8 or 4 good ones (R390). -/
def keptLanes (good : BitVec 16) : Option (BitVec 16) :=
  let l := (List.range 16).filter fun i => good.getLsbD i
  let n := if l.length ≥ 16 then 16 else if l.length ≥ 8 then 8 else if l.length ≥ 4 then 4 else 0
  if n = 0 then none else some (BitVec.ofNat 16 ((l.take n).map fun i => 2 ^ i).sum)

/-- A training port with enough good lanes comes up, and a port that was up before resends what is not acknowledged (R390). -/
def MPort.trained (p : MPort) (lanes : BitVec 16) (now : Nat) : MPort :=
  let q := { p with run := .up, lanes := lanes, lastGood := now, discards := 0, frames := 0, resends := 0, asked := false, reqd := none }
  ((q.replay.foldl (fun r e => { r with out := e.2.encode e.1.toNat r.rxSeq.toNat (crdOf r.freed) :: r.out
                                        freed := r.freed.map fun n => n - min n 15 }) q)).drain

/-- A retraining port finishes its lane test (R390). -/
def execRetrainComplete (port : Nat) (lanes : BitVec 16) (s : State) : Out :=
  match (s.port port).run, keptLanes lanes with
  | .up, _ | .down, _ => .next s
  | _, some l => .next (s.modPort port fun p => p.trained l s.ns)
  | .training, none => .next (s.modPort port fun p => { p with run := .down, downAt := s.ns })
  | .retraining _, none => .next (s.goDown port)

/-! ## Attempts and replies (R208, R212) -/

/-- invoke.w's next attempt goes out after its backoff (R208). -/
def execInvokeRetry (i : Nat) (s : State) : Out :=
  match s.dev.invs[i]? with
  | none => .next s
  | some x =>
    match x.run with
    | .sent _ => .next s
    | .backoff t => if s.ns ≥ t then .next (s.attempt x) else .next s

/-- An attempt without an answer for 32,768 ns ends with TIMEOUT (R208). -/
def execInvokeTimeout (i : Nat) (s : State) : Out :=
  match s.dev.invs[i]? with
  | none => .next s
  | some x =>
    match x.run with
    | .sent t => if s.ns ≥ t + 32768 then .next (s.invAnswer x.id 6) else .next s
    | .backoff _ => .next s

/-- A reply that was refused as mailbox full is sent again (R212, R394). -/
def execReplyResend (i : Nat) (s : State) : Out :=
  match s.dev.replies[i]? with
  | none => .next s
  | some r =>
    match r.again with
    | none => .next s
    | some t =>
      if s.ns < t then .next s
      else
        match r.to_ with
        | none => .next (s.modDev fun d => { d with replies := d.replies.set i { r with again := none } })
        | some (dev, sname) =>
          .next ((s.modDev fun d => { d with replies := d.replies.eraseIdx i }).replyFar dev sname.toNat r.data
            (r.from_.1, { cause := cLINK_LOST, unit := r.from_.2, time := wd s.ns }))

/-- The pieces of a mailbox record, written through the issuer's translation. -/
def State.mailParts (sv : Bool) : State → List (Nat × Nat) → Nat → Except (BitVec 8) State
  | s, [], _ => .ok s
  | s, (va, n) :: l, x =>
    let r := s.xlMark va { rd := false, wr := true, ex := false, sv := sv }
    match r.2 with
    | .bad c => .error c
    | .ok p => State.mailParts sv (r.1.spanWrite none none p va (leBytes n x)) l (x / 2 ^ (8 * n))

/-- A reply whose mailbox cannot be written: its ticket is free, it is answered as written, and the core's field gets a record
(R212). -/
def State.mailBad (s : State) (r : ReplyMsg) (mbox : Word) (cause : BitVec 8) : State :=
  (s.mailDone r.core r.data r.src 0).addRec (r.core / 128)
    { cause := cause, unit := recUnit (r.core / 16) 5 (r.core % 16), va := mbox, time := s.ctime (r.core / 16)
      ticket := BitVec.ofNat 32 r.data.toNat }

/-- A reply has found its mailbox; what no outstanding ticket names is a mailbox no more. -/
def State.knowMail (s : State) (mbox : Word) (pa : Nat) : State :=
  s.modDev fun d =>
    { d with mails := (mbox, pa) :: d.mails.filter fun m => m != (mbox, pa) && s.cores.any fun c => c.2.outst.any fun o => o.mbox == m.1 }

/-- Writes a reply to its mailbox, or refuses it as full (R212). -/
def State.mailWrite (s : State) (r : ReplyMsg) (o : Outst) : State :=
  let va := o.mbox.toNat
  let x := s.xlMark va { rd := false, wr := true, ex := false, sv := o.sv }
  match x.2 with
  | .bad c => x.1.mailBad r o.mbox c
  | .ok p =>
    match p.home with
    | .remote dev =>
      (match (x.1.watchWord p.sw va).sendPacket dev (coreName r.core) (some (.mail r.core r.data r.src))
          [{ hdr := mkHdr 4 0 0 0 0 0 0 (s.fresh % 2 ^ 14), pay := Config.memReqPayload p.wire 64 5 r.data }] with
        | some s1 => s1.next
        | none => x.1.mailBad r o.mbox cLINK_LOST)
    | .dram | .aperture | .regs | .host =>
      (match (x.1.knowMail o.mbox p.pa).mailAt p va r.data (fun s off y => s.mailParts o.sv (pageParts (va + off) 40) y) with
        | .ok (s1, ok) => s1.mailDone r.core r.data r.src (if ok then 0 else 1)
        | .error c => x.1.mailBad r o.mbox c)

/-- The oldest reply that has reached a core is written to its mailbox (R212); one whose ticket has no entry is dropped. -/
def execMailboxWrite (core : Nat) (s : State) : Out :=
  match s.dev.replies.findIdx? fun r => r.to_.isNone && r.again.isNone && decide (r.core = core) with
  | none => .next s
  | some i =>
    match s.dev.replies[i]? with
    | none => .next s
    | some r =>
      let s1 := s.modDev fun d => { d with replies := d.replies.eraseIdx i }
      match (s.core core).outst.find? fun o => o.ticket == (r.data.setWidth 32 : BitVec 32) with
      | none => .next (s1.mailDone core r.data r.src 0)
      | some o => .next (s1.mailWrite r o)

end Sys2Proof.Machine
end

