-- ==== Sys2Proof/Machine/Power.lean ====
section
/-!
DEFINITION. Clocks and power: the campanile (R26, R380, R399), clock stretching (R379), power gating and inrush tokens (R420), rate
buckets (R418, R419), the thermal shutdown (R417), and the phases of bring-up (R370, R371, R421).
-/
namespace Sys2Proof.Machine

/-! ## The campanile (R380, R399) -/

/-- A block's count catches up with the root. -/
def State.blkSlew (s : State) (b : Nat) (forward : Bool) : State :=
  if forward then s.modBlk b fun x => { x with lag := 0 } else s

/-- The device's count slews by at most 1 ns in 1,024 ns: forward it counts one ns more; backward one ns is not counted, and
the count never runs back. -/
def State.rootSlew (s : State) (forward : Bool) : State :=
  if s.ns < s.dev.lastSlew + 1024 then s
  else
    let s1 := if forward then { s with ns := s.ns + 1 } else s
    s1.modDev fun d => { d with lastSlew := s1.ns }

/-- The port whose peer is the time source's nearest: the live port towards the lowest-numbered device that the route table reaches, when
that is lower than the device's own number. The root itself, and a device cut off from it, has none, and keeps its own count (R391, R399;
log 122). -/
def State.timePort (s : State) : Option Nat := (List.range s.dev.devnum).findSome? s.livePort

/-- The time source's count now, by the peer's last idle frame and half the round trip to it (R399). -/
def State.sourceTime (s : State) : Option Nat :=
  s.timePort.bind fun p => (s.port p).peerAt.map fun at_ => (s.port p).peerTime.toNat + Config.halfTrip p at_ + (s.ns - at_)

/-- Which way the device's count slews: towards its time source's, once the table of routes is fixed (R399, R422). -/
def State.slewTo (s : State) : Option Bool :=
  if s.dev.set then s.sourceTime.bind fun t => if s.ns < t then some true else if t < s.ns then some false else none else none

/-- A block or device count slews towards its time source. -/
def execCampanileSlew (blk : Option Nat) (forward : Bool) (s : State) : Out :=
  match blk with
  | some b => .next (s.blkSlew b forward)
  | none => .next (if s.slewTo = some forward then s.rootSlew forward else s)

/-! ## Clock stretching (R4, R379) -/

/-- A droop stretches a block's period by up to 25 %. -/
def execClockStretch (blk pct : Nat) (s : State) : Out := .next (s.modBlk blk fun x => { x with stretch := min pct 25 })

/-- The droop ends. -/
def execSupplyDroopEnd (blk : Nat) (s : State) : Out := .next (s.modBlk blk fun x => { x with stretch := 0 })

/-! ## Power gating (R420) -/

/-- Whether a tile is current in a context that is not idle, or has work on its way in. -/
def State.tileBusy (s : State) (t : Nat) (x : Tile) : Bool :=
  (match s.tileCtx t with
    | none => false
    | some c => !c.idle) || !x.inbox.isEmpty || !x.cfg.isEmpty || !x.mq.isEmpty

/-- Whether a request port has work. -/
def XPort.busy (p : XPort) : Bool := !p.arr.isEmpty || !p.q.isEmpty

/-- Queued engine work and pending accesses of a block's own units. -/
def Blk.busy (b : Blk) : Bool :=
  !b.walks.isEmpty || !b.comps.isEmpty || !b.wins.isEmpty || !b.tasks.isEmpty || b.ports.any fun e => e.2.busy

/-- Whether a block has any of the work that keeps its power on. -/
def State.blockBusy (s : State) (b : Nat) : Bool :=
  (s.threads.any fun e => unitBlk e.1 == b && e.2.run != .free) ||
  (s.tiles.any fun e => e.1 / 32 == b && s.tileBusy e.1 e.2) ||
  (s.blk b).busy ||
  (s.dev.xfers.any fun e => match e.2 with | none => false | some x => x.blk == b) ||
  (s.dev.agens.any fun e => e.1 / 8 == b && e.2.isSome) ||
  (s.dev.convs.any fun e => e.1 / 4 == b && e.2.isSome)

/-- A block gates its own power after 50 µs without work. -/
def execPowerGate (blk : Nat) (s : State) : Out :=
  if (s.blk blk).power = .on ∧ s.blockBusy blk = false ∧ s.ns ≥ (s.blk blk).quiet + 50000 then
    .next (s.modBlk blk fun x => { x with power := .gated })
  else .next s

/-- When a block asked to wake. -/
def Power.askedAt : Power → Option Nat
  | .asked t => some t
  | .on | .gated | .waking _ => none

/-- Whether no other block of the field asked earlier; ties go to the lower block. -/
def State.wakesFirst (s : State) (b t : Nat) : Bool :=
  (List.range 8).all fun i =>
    let c := b / 8 * 8 + i
    match (s.blk c).power.askedAt with
    | none => true
    | some u => decide (t < u) || (decide (t = u) && decide (b ≤ c))

/-- A block's ctime at waking: it has been awake since it returned its token. -/
def Blk.awake (x : Blk) (now : Nat) : Blk := { x with power := .on, quiet := now }

/-- A waking block takes one of its field's two inrush tokens, holds it for 4 µs, and is awake when it returns it. -/
def execBlockWake (blk : Nat) (s : State) : Out :=
  match (s.blk blk).power with
  | .on | .gated => .next s
  | .asked t =>
    if (s.field (blk / 8)).inrush.length < 2 ∧ s.wakesFirst blk t = true then
      .next ((s.modBlk blk fun x => { x with power := .waking s.ns }).modField (blk / 8) fun x =>
        { x with inrush := x.inrush ++ [s.ns] })
    else .next s
  | .waking t =>
    if s.ns ≥ t + 4000 then
      .next ((s.modBlk blk fun x => x.awake s.ns).modField (blk / 8) fun x => { x with inrush := x.inrush.erase t })
    else .next s

/-- Time passes for a block with work. -/
def State.noteQuiet (s : State) : State :=
  (List.range 128).foldl (fun (s : State) b => if s.blockBusy b then s.modBlk b fun x => { x with quiet := s.ns } else s) s

/-! ## Rate buckets (R418, R419) -/

/-- Adds a rate to a port's tokens, up to the depth. -/
def Bucket.gain (b : Bucket) (n : Nat) : Nat := min (if b.depth = 0 then 1 else b.depth) (n + b.eff)

/-- Every bucket gains eff tokens. -/
def State.refill (s : State) : State :=
  let link := s.dev.bklink
  let host := s.dev.bkhost
  let esc (k : Nat) : Bucket := (s.field (k / 1024)).bkesc
  let mem (m : Nat) : Bucket := (s.field (m / 64)).bkmem
  s.modDev fun d =>
    { d with
      lastFill := d.lastFill + 64
      spentm := Tab.mapVals 0 (fun m n => n - (mem m).eff) d.spentm
      spente := Tab.mapVals 0 (fun k n => n - (esc k).eff) d.spente
      links := (List.range 16).foldl (fun (t : Tab MPort) p =>
        Tab.upd {} t p fun x => { x with tokens := link.gain x.tokens }) d.links
      hosts := (List.range 2).foldl (fun (t : Tab HostPort) p =>
        Tab.upd {} t p fun x => { x with tokens := host.gain x.tokens }) d.hosts }

/-- Every 64 ns. -/
def execBucketRefill (s : State) : Out :=
  if s.ns ≥ s.dev.lastFill + 64 then .next s.refill else .next s

/-- The cap of a bucket: 0 is read as 256. -/
def Bucket.top (b : Bucket) : Nat := if b.cap = 0 then 256 else b.cap

/-- The rate goes down or up, or stays. -/
def Bucket.adjust (b : Bucket) (down up : Bool) : Bucket :=
  if down then { b with eff := max (max (7 * b.eff / 8) ((b.top + 7) / 8)) 1 }
  else if up then { b with eff := min (b.eff + b.eff / 8 + 1) b.top }
  else b

/-- The belvedere's measurements, and its adjustment of every bucket: those of a field by the field's limit, the device's by
every field's (log 30). -/
def State.adjust (s : State) (sens : Sensors) : State :=
  let fs := List.range 16
  let hot := sens.temp.any fun t => decide (t > 1600)
  let cool := sens.temp.all fun t => decide (t < 1568)
  let above (f : Nat) : Bool := decide (sens.mpwr > (s.field f).plim)
  let under (f : Nat) : Bool := decide (100 * sens.mpwr < 95 * (s.field f).plim)
  let s1 := fs.foldl (fun (s : State) f => s.modField f fun x =>
    { x with
      temp := sens.temp.getD f 0
      fpwr := sens.fpwr.getD f 0
      bkmem := x.bkmem.adjust (above f || hot) (under f && cool)
      bkesc := x.bkesc.adjust (above f || hot) (under f && cool) }) s
  let down := fs.any above || hot
  let up := fs.all under && cool
  s1.modDev fun d =>
    { d with mpwr := sens.mpwr, lastEff := d.lastEff + 1024, bklink := d.bklink.adjust down up, bkhost := d.bkhost.adjust down up }

/-- Every 1,024 ns. -/
def execEffAdjust (sens : Sensors) (s : State) : Out :=
  if s.ns ≥ s.dev.lastEff + 1024 then .next (s.adjust sens) else .next s

/-! ## The thermal shutdown (R417) -/

/-- At 115 °C in a field the belvedere halts every unit and removes power from the arrays. -/
def execThermalShutdown (field : Nat) (s : State) : Out :=
  if (s.field field).temp ≥ 1840 then .next (s.modDev fun d => { d with phase := 0xE }) else .next s

/-! ## Bring-up (R370, R371, R421) -/

/-- The host's memory, which a reset of the device leaves alone. -/
def hostMem (m : List Host.Cell) : List Host.Cell :=
  m.filter fun c => decide (0x800000000000 ≤ c.1) && decide (c.1 < 0xA00000000000)

/-- A cold reset starts the phases; what the schedule has still to choose stays (log 3). -/
def execColdReset (s : State) : Out :=
  .next { State.reset with mem := hostMem s.mem, agenda := s.agenda, tick := s.tick, fresh := s.fresh }

/-- The names of R371: a usable site keeps its own name, and others take the pool's sites in order. -/
def bindNames (usable : Nat → Bool) (u : Nat) : List Nat → List Nat → List Nat
  | [], _ => []
  | n :: ns, pool =>
    if n ≥ u then 255 :: bindNames usable u ns pool
    else if usable n then n :: bindNames usable u ns pool
    else
      match pool with
      | [] => 255 :: bindNames usable u ns []
      | p :: l => p :: bindNames usable u ns l

/-- Binds `names` names over `sites` sites (R371). -/
def bindSites (names sites : Nat) (usable : Nat → Bool) : List Nat :=
  let good := (List.range sites).filter usable
  let u := min names good.length
  bindNames usable u (List.range names) (good.filter fun s => decide (s ≥ u))

/-- The numbers below `n` that pass a test, as bits. -/
def bitMask (n : Nat) (p : Nat → Bool) : Nat := (((List.range n).filter p).map fun i => 2 ^ i).sum

/-- The spare map record that a block's test writes (R370). -/
def Blk.tested (x : Blk) (tile core : Nat → Bool × Bool) : Blk :=
  let good (f : Nat → Bool × Bool) (p : Nat) : Bool := (f p).1 && (f p).2
  { x with
    tsite := bindSites 32 36 (good tile)
    csite := bindSites 16 18 (good core)
    tret := BitVec.ofNat 36 (bitMask 36 fun p => !good tile p)
    cret := BitVec.ofNat 18 (bitMask 18 fun p => !good core p)
    tdead := BitVec.ofNat 36 (bitMask 36 fun p => !(tile p).2)
    cdead := BitVec.ofNat 18 (bitMask 18 fun p => !(core p).2)
    bgen := 0 }

/-- Sites are tested and names bound in every block. -/
def State.bindAll (s : State) : State :=
  (List.range 128).foldl (fun (s : State) b => s.modBlk b fun x => x.tested (Config.tileSite b) (Config.coreSite b)) s

/-- The campanile starts at 0; the Marold ports begin to train. -/
def State.startTime (s : State) : State :=
  let s1 := (List.range 128).foldl (fun (s : State) b => s.modBlk b fun x =>
    { x with lag := (Config.lagAt b).toNat, quiet := 0 }) { s with ns := 0 }
  s1.modDev fun d =>
    { d with
      lastSlew := 0, lastFill := 0, lastEff := 0
      links := (List.range 16).foldl (fun (t : Tab MPort) p => Tab.upd {} t p fun x => { x with run := .training }) d.links }

/-- Ports that no peer answered are down. -/
def State.endTraining (s : State) : State :=
  s.modDev fun d =>
    { d with links := Tab.mapVals {} (fun _ x => if x.run = .training then { x with run := .down, downAt := s.ns } else x) d.links }

/-- A measurement extended by a digest (R411, R421). -/
def extendHash (m d : BitVec 512) : BitVec 512 :=
  BitVec.ofNat 512 (leNat (shake256 (leBytes 64 m.toNat ++ leBytes 64 d.toNat) 64))

/-! ### Umaist images (R411) -/

/-- A header's magic, its signer, its zeros, and its key's zeros. -/
def imageHeadOk (signer h : List Byte) : Bool :=
  leAt h 0 8 == 0x545349414D550001 && ((h.take 256).drop 0xC2).all (· == 0) && ((h.drop 0x49).take 7).all (· == 0) &&
    (h.drop 0x10).take 57 == signer

/-- An image's digest: of bytes 0x000 to 0x04F of its header, and its body. -/
def umaistDigest (l : List Byte) : List Byte := shake256 (l.take 0x50 ++ l.drop 256) 64

/-- Whether a whole image verifies against a key. -/
def imageSigned (signer l : List Byte) : Bool :=
  imageHeadOk signer l && decide (l.length = 256 + leAt l 8 8) && edVerify signer (umaistDigest l) ((l.drop 0x50).take 114)

/-- Whether the firmware verifies with the fused Kientair key (R411, R421). -/
def firmwareOk : Bool := imageSigned Config.fusedKey Config.firmware

/-- What the end of a phase does before the next begins. -/
def State.phaseEnd (s : State) : State :=
  match s.dev.phase.toNat with
  | 1 => s.modDev fun d => { d with mfw := extendHash d.mfw (BitVec.ofNat 512 (leNat (umaistDigest Config.firmware))) }
  | 3 => s.bindAll
  | 4 => s.startTime
  | 5 => s.endTraining
  | _ => s

/-- Whether a phase has failed: the firmware, by its verification; the DRAM or the site test, by its outcome `ok`. -/
def State.phaseFails (s : State) (ok : Bool) : Bool :=
  match s.dev.phase.toNat with
  | 1 => !firmwareOk
  | 2 | 3 => !ok
  | _ => false

/-- A bring-up phase ends and the next begins, the first after the phase 0 of reset (R402, log 130); a failure of the firmware, the DRAM or
the site test ends bring-up. Phase 0x6 ends with set (R422). -/
def execPhaseComplete (ok : Bool) (s : State) : Out :=
  let p := s.dev.phase
  if p.toNat > 5 then .next s
  else if s.phaseFails ok then .next (s.modDev fun d => { d with phase := 0xF })
  else .next (s.phaseEnd.modDev fun d => { d with phase := p + 1 })

/-- A hot reset or link-down of one PCIe port resets its link, its MSI-X state and its queue entries. -/
def execPcieHotReset (port : Nat) (s : State) : Out :=
  .next ((s.modHostPort port fun h => { h with linkIde := none, selIde := none, msix := [], pendv := [], rdata := none }).modDev fun d =>
    { d with queues := Tab.mapVals {} (fun _ q => if q.port.toNat = port then { q with en := false, cut := true } else q) d.queues })

end Sys2Proof.Machine
end

