-- ==== Sys2Proof/Machine/Host.lean ====
section
/-!
DEFINITION. The host ports: BAR 0 (R401 to R403, R422), posted records and spill rings (R404), reply rings and MSI-X (R405), the BAR 2
window (R406, R407), and writes to the register pages (R305, R306, R358).
-/
namespace Sys2Proof.Machine

/-! ## Memory of other devices that the belvedere, a port or a rotunda reaches (R338) -/

/-- Bytes cut at multiples of `k`, each piece with its address. -/
def cutAt (k : Nat) : Nat → Nat → List Byte → List (Nat × List Byte)
  | 0, _, _ => []
  | n + 1, a, l => if l = [] then [] else (a, l.take (k - a % k)) :: cutAt k n (a + (k - a % k)) (l.drop (k - a % k))

/-- How such a read stands. -/
inductive FarAns where
  | got (l : List Byte) (s : State)
  | wait (s : State)
  | lost
  deriving DecidableEq, Repr

/-- Asks for pieces, each with the form of its request; none when no live path leads to the device. -/
def State.askEach (s : State) (dev : Nat) : List (Nat × Nat) → Option State
  | [] => some s
  | (a, form) :: l =>
    match s.sendPacket dev 0 (some (.dev dev a))
        [{ hdr := mkHdr 4 0 0 0 0 0 0 (s.fresh % 2 ^ 14), pay := Config.memReqPayload a 32 form 0 }] with
    | some s1 => (s1.next.modDev fun d => { d with far := d.far ++ [(dev, a, none)] }).askEach dev l
    | none => none

/-- The form of the request for a piece among those that are asked for with it: 7 when both halves of its line are, which are read as one
event (R407, log 131). -/
def pieceForm (ps : List Nat) (a : Nat) : Nat := if ps.contains (a / 64 * 64) && ps.contains (a / 64 * 64 + 32) then 7 else 0

/-- Asks for the pieces that have not been asked for. -/
def State.askDev (s : State) (dev : Nat) (l : List Nat) : Option State :=
  let ps := l.filter fun a => !(s.dev.far.any fun e => e.1 == dev && e.2.1 == a)
  s.askEach dev (ps.map fun a => (a, pieceForm ps a))

/-- Reads bytes at a home. -/
def State.farRead (s : State) (p : Phys) (n : Nat) : FarAns :=
  match p.home with
  | .remote dev =>
    (match farBytes s.dev.far dev p n with
      | some l => .got l (s.modDev fun d => { d with far := d.far.filter fun e => !(e.1 == dev && (piecesOf p n).contains e.2.1) })
      | none =>
        match s.askDev dev (piecesOf p n) with
        | some s1 => .wait s1
        | none => .lost)
  | .dram | .aperture | .regs | .host => .got ((p.spans n).flatMap fun e => Memory.read s.mem (p.plus e.1).pa e.2) s

/-- Writes pieces of at most 32 bytes to another device, each with the form of its request. -/
def State.farPieces (s : State) (kind : PKind) (dev : Nat) : List (Nat × Nat × List Byte) → Option State
  | [] => some s
  | (a, form, l) :: ps =>
    match s.sendPacket dev 0 (some kind)
        [{ hdr := mkHdr 4 0 0 0 0 0 0 (s.fresh % 2 ^ 14)
           pay := Config.memReqPayload a l.length form (BitVec.ofNat 256 (leNat l)) }] with
    | some s1 => s1.next.farPieces kind dev ps
    | none => none

/-- The requests that write one line: form 6 when both of its halves are written, which is one event (R407, log 131). -/
def linePieces (p : Phys) (a : Nat) (l : List Byte) : List (Nat × Nat × List Byte) :=
  let ps := cutAt 32 3 a l
  ps.map fun e => ((p.plus (e.1 - p.pa)).pa, if ps.length = 2 then 6 else 1, e.2)

/-- The watch step of each line that is written (R360). -/
def State.watchLines (s : State) (sw : Bool) (va : Nat) (l : List (Nat × List Byte)) : State :=
  l.foldl (fun s e => s.watchWord sw (va + e.1)) s

/-- Writes bytes at a home, as one event for each aligned line, in ascending order (R407); `kind` tells whether one waits for those in
another device. -/
def State.farWrite (s : State) (kind : PKind) (p : Phys) (va : Nat) (l : List Byte) : Option State :=
  match p.home with
  | .remote dev =>
    let ls := cutAt 64 (l.length + 1) p.pa l
    (s.watchLines p.sw va (ls.map fun e => (e.1 - p.pa, e.2))).farPieces kind dev (ls.flatMap fun e => linePieces p e.1 e.2)
  | .dram | .aperture | .regs | .host =>
    some ((cutAt 64 (l.length + 1) p.pa l).foldl (fun s e => s.homePoke (p.plus (e.1 - p.pa)) (va + (e.1 - p.pa)) e.2) s)

/-! ## The queue table (R403) -/

/-- What the belvedere has to write in other devices goes out (R338, R409). -/
def State.sendOut (s : State) : State :=
  s.dev.outw.foldl (fun s e => (s.farPieces .note e.1 [(e.2.1, 1, e.2.2)]).getD s) (s.modDev fun d => { d with outw := [] })

/-- Whether a port's earlier posted write to another device's memory has not been performed (R406). -/
def State.hostWaits (s : State) (port : Nat) : Bool := s.dev.unans.any fun u => u.kind == .hostw port

/-- Records now in a queue's spill ring. -/
def QEnt.spilled (q : QEnt) : Nat := q.app - q.drawn

/-- Reads a word of a queue table entry. -/
def QEnt.word (q : QEnt) (off : Nat) : Nat :=
  match off with
  | 0x00 => q.vec % 2 ^ 11 + q.field % 16 * 2 ^ 52 + q.port.toNat * 2 ^ 62 + q.en.toNat * 2 ^ 63
  | 0x08 => q.sbase.toNat
  | 0x10 => q.scap
  | 0x18 => q.rbase
  | 0x20 => q.rcap
  | 0x28 => q.rtail
  | 0x30 => q.rhead.toNat
  | 0x38 => q.refused % 2 ^ 32 + q.spilled * 2 ^ 32
  | _ => 0

/-- The slot of the i-th record in a ring (R404, R405). -/
def ringSlot (i cap : Nat) : Nat := if cap = 0 then Config.noCapSlot i else i % cap

/-- Writes a word of a queue table entry: while en = 1 only en and rhead take writes. -/
def QEnt.write (q : QEnt) (off : Nat) (v : Word) : QEnt :=
  match off with
  | 0x00 => if q.en then { q with en := bit v 63 }
    else { q with en := bit v 63, cut := q.cut && !bit v 63, port := bit v 62, field := bits v 52 4, vec := bits v 0 11 }
  | 0x30 => { q with rhead := v }
  | 0x08 => if q.en then q else { q with sbase := v &&& ~~~ 0x3F#64 }
  | 0x10 => if q.en then q else { q with scap := bits v 0 16 }
  | 0x18 => if q.en then q else { q with rbase := bits v 6 38 * 64 }
  | 0x20 => if q.en then q else { q with rcap := bits v 0 16 }
  | 0x28 => if q.en then q else { q with rtail := bits v 3 41 * 8 }
  | _ => q

/-! ## MSI-X (R401, R405) -/

/-- What a word of the MSI-X table reads after reset: every vector is masked (log 34). -/
def msixReset (i : Nat) : Word := if i % 2 = 1 then 0x100000000#64 else 0

/-- A word of the MSI-X table: two to a vector, its address, and its data with the mask in bit 32. -/
def HostPort.msixWord (h : HostPort) (i : Nat) : Word := Tab.get 0 h.msix i ^^^ msixReset i
def HostPort.masked (h : HostPort) (v : Nat) : Bool := bit (h.msixWord (2 * v + 1)) 32

/-- Sends a vector, or sets its pending bit if it is masked. -/
def HostPort.signal (h : HostPort) (v : Nat) : HostPort :=
  if h.masked v then { h with pendv := if v ∈ h.pendv then h.pendv else h.pendv ++ [v] } else { h with sentv := h.sentv ++ [v] }

/-- A write to the table; a pending vector that it unmasks is sent. -/
def HostPort.msixWrite (h : HostPort) (i : Nat) (v : Word) : HostPort :=
  let h1 := { h with msix := Tab.set 0 h.msix i (v ^^^ msixReset i) }
  if h1.masked (i / 2) = false ∧ i / 2 ∈ h1.pendv then
    { h1 with pendv := h1.pendv.erase (i / 2), sentv := h1.sentv ++ [i / 2] }
  else h1

/-! ## BAR 0 (R401, R402, R422) -/

/-- Whether an access of a port is outside its IDE stream in a sealed job (R414). -/
def State.outsideIde (s : State) (port : Nat) (ide : Bool) : Bool := s.dev.sealed && !(ide && (s.hostPort port).ide)

/-- Reads a word of the control page (R402). -/
def State.controlWord (s : State) (port off : Nat) : Nat :=
  let h := s.hostPort port
  match off with
  | 0x000 => Config.revision.toNat + 0x53440004 * 2 ^ 32
  | 0x008 => s.dev.phase.toNat + s.dev.job.toNat * 2 ^ 9 + s.dev.sealed.toNat * 2 ^ 10 + h.ide.toNat * 2 ^ 11
  | 0x010 => s.dev.bq.length
  | 0x018 => h.w2base.toNat * 2 ^ 36
  | 0x020 => h.herr.toNat
  | 0x028 => s.dev.devnum + s.dev.set.toNat * 2 ^ 63
  | _ => 0

/-- Reads an aligned 8-byte word of BAR 0. -/
def State.bar0Word (s : State) (port off : Nat) : Nat :=
  if off < 0x1000 then s.controlWord port off
  else if off < 0x2000 then
    let d := (off - 0x1000) / 4
    (Tab.get 0 s.dev.routes d).toNat + (Tab.get 0 s.dev.routes (d + 1)).toNat * 2 ^ 32
  else if off < 0x2200 then
    leNat ((List.range 8).map fun i => Tab.get 0 (s.hostPort port).req (off - 0x2000 + i))
  else if 0x100000 ≤ off ∧ off < 0x200000 then (s.queue ((off - 0x100000) / 64)).word (off % 64)
  else if 0x300000 ≤ off ∧ off < 0x308000 then ((s.hostPort port).msixWord ((off - 0x300000) / 8)).toNat
  else if 0x308000 ≤ off ∧ off < 0x308100 then
    (((List.range 64).filter fun i => decide ((off - 0x308000) * 8 + i ∈ (s.hostPort port).pendv)).map fun i => 2 ^ i).sum
  else 0

/-- The answer of a host's read: data, or Completer Abort, which the port's AER status shows in its bit 15 (R400, R407; log 133). -/
def State.barAnswer (s : State) (port : Nat) (l : Option (List Byte)) : State :=
  s.modHostPort port fun h => { h with rdata := some l, aer := if l.isNone then h.aer ||| 0x8000 else h.aer }

/-- A refused access to the window (R407, R414). -/
def State.barRefused (s : State) (port : Nat) (ide : Bool) : State :=
  if s.outsideIde port ide then (s.hostErr port 2).hostErr port 4 else s.hostErr port 2

/-- A host's read of BAR 0: its aligned word, or outside the IDE stream of a sealed job, but for 0x000 to 0x00F of the control page, the
refusal of R407 and herr bit 4 (R414). -/
def State.bar0Read (s : State) (port off : Nat) (ide : Bool) : State :=
  if 0x10 ≤ off ∧ s.outsideIde port ide = true then (s.barRefused port ide).barAnswer port none
  else s.barAnswer port (some (leBytes 8 (s.bar0Word port (off / 8 * 8))))

/-- Writing set = 1 in phase 0x6 fixes devnum and the route table and moves the SD4 to phase 0x7 (R422). -/
def State.fixSet (s : State) : State :=
  if s.dev.phase = 6 ∧ s.dev.set = false then s.modDev fun d => { d with set := true, phase := 7 } else s

/-- A write to the word that holds devnum and set. -/
def State.writeSet (s : State) (v : Word) : State :=
  let s1 := if s.dev.set then s else s.modDev fun d => { d with devnum := bits v 0 10 }
  if bit v 63 then s1.fixSet else s1

/-- Writes a word of the control page. -/
def State.writeControl (s : State) (port off : Nat) (v : Word) : State :=
  match off with
  | 0x010 => s.postCmd (some port) v
  | 0x018 => s.modHostPort port fun h => { h with w2base := BitVec.ofNat 16 (bits v 36 16) }
  | 0x020 => s.modHostPort port fun h => { h with herr := h.herr &&& ~~~ (v.setWidth 5 : BitVec 5) }
  | 0x028 => s.writeSet v
  | _ => s

/-- Writes a 4-byte word of the device route table, while set = 0. -/
def State.writeRoute (s : State) (d : Nat) (v : BitVec 32) : State :=
  if s.dev.set then s else s.modDev fun x => { x with routes := Tab.set 0 x.routes d (v &&& 0x3FF) }

/-- The error bits of a posting write that is discarded: `whole` tells whether it is one aligned write of 64 bytes (R404, R421). Every case
that holds sets its bit: the table gives them no order (DESIGN CHOICE, log 127). -/
def State.postErrs (s : State) (port q : Nat) (whole ide : Bool) : List Nat :=
  let e := s.queue q
  (if s.dev.phase ≠ 7 ∨ whole = false ∨ e.en = false ∨ s.dev.job = false then [0] else []) ++
    (if e.port.toNat ≠ port then [1] else []) ++ (if s.outsideIde port ide then [4] else [])

/-- A discarded posting write sets its bits. -/
def State.discard (s : State) (port : Nat) (bits_ : List Nat) : State := bits_.foldl (fun s b => s.hostErr port b) s

/-- Writes BAR 0: an aligned word of 8 bytes, or one of 4 in the route table; a write of another form is ignored (log 35). -/
def State.writeBar0 (s : State) (port off : Nat) (v : Word) : State :=
  if 0x1000 ≤ off ∧ off < 0x2000 ∧ off % 4 = 0 then s.writeRoute ((off - 0x1000) / 4) (v.setWidth 32)
  else if off % 8 ≠ 0 then s
  else if off < 0x1000 then s.writeControl port off v
  else if 0x2000 ≤ off ∧ off < 0x2200 then s.reqWrite port (off - 0x2000) (leBytes 8 v.toNat)
  else if 0x100000 ≤ off ∧ off < 0x200000 then s.modQueue ((off - 0x100000) / 64) fun q => q.write (off % 64) v
  else if 0x300000 ≤ off ∧ off < 0x308000 then s.modHostPort port fun h => h.msixWrite ((off - 0x300000) / 8) v
  else s

/-- Whether a port's command word comes after one that it should have come before, being of the same ns (R409): it arrives in a later ns
then (log 115). -/
def State.cmdLate (s : State) (port : Nat) : Bool :=
  match s.dev.cmdLast with
  | some (t, k) => t == s.ns && decide (port < k)
  | none => false

/-- A host's write of 8 bytes to its BAR 0, refused outside its IDE stream in a sealed job (R407, R414); one to a posting slot is a posting
write of another size (R404). -/
def State.hostWrite (s : State) (p : Nat) (ide : Bool) (addr : Nat) (v : Word) : State :=
  if 0x200000 ≤ addr ∧ addr < 0x300000 then s.discard p (s.postErrs p ((addr - 0x200000) / 64) false ide)
  else if s.outsideIde p ide then s.barRefused p ide
  else if addr = 0x010 ∧ s.cmdLate p = true then s
  else s.writeBar0 p addr v

/-- A register access: by a host to its BAR 0, a write of a value or a read, or a write to a device register page, whose fields' pages
follow one another (R305, R401; log 115). -/
def execRegisterWrite (host : Option (Nat × Bool)) (addr : Nat) (val : Option Word) (s : State) : Out :=
  match host, val with
  | some (p, ide), some v => .next (s.hostWrite p ide addr v)
  | some (p, ide), none => .next (s.bar0Read p addr ide)
  | none, some v => if addr < 0x100000 ∧ addr % 8 = 0 then .next (s.regWrite (regBase + addr) 8 v.toNat) else .next s
  | none, none => .next s

/-- Writing set (R422). -/
def execSetWrite (_port : Nat) (s : State) : Out := .next s.fixSet

/-- A write to a field's fqbase sets its doorbell (R305, R306). -/
def execFqbaseWrite (f : Nat) (val : Word) (s : State) : Out := .next (s.writeFqbase f val)

/-- A write to wtbase or wlog marks every cache entry stale (R358). -/
def execWatchConfigWrite (log : Bool) (val : Word) (s : State) : Out := .next (s.writeWatch log val)

/-! ## Posted records (R404) -/

/-- Whether `n` flits of a host port have not a token each (R419). -/
def State.hostShort (s : State) (port n : Nat) : Bool := decide ((s.hostPort port).paid + (s.hostPort port).tokens < n)

/-- As many of them as there are tokens have entered. -/
def State.partHost (s : State) (port : Nat) : State := s.modHostPort port fun h => { h with paid := h.paid + h.tokens, tokens := 0 }

/-- All of them have. -/
def State.spendHost (s : State) (port n : Nat) : State :=
  s.modHostPort port fun h => { h with paid := h.paid - n, tokens := h.tokens - (n - h.paid) }

/-- The flits of an access of `n` bytes: one for each 32 bytes that it touches (R86). -/
def flitsOf (a n : Nat) : Nat := (a % 32 + n + 31) / 32

/-- A reply to a record's ticket, without a group: DENIED is 3, QUEUE_FULL 1 (R206). -/
def State.codeReply (s : State) (q : Nat) (data : BitVec 512) (code : Nat) : State :=
  if recTicket data = 0 then s
  else s.modDev fun d =>
    { d with hreps := d.hreps ++ [{ q := q, data := replyData (recTicket data) code 0 0 0 0, next := s.ns }] }

/-- A refused record: refused counts it, saturating, an error bit is set, and its ticket, if any, gets QUEUE_FULL. -/
def State.refuseRec (s : State) (port q errBit : Nat) (data : BitVec 512) : State :=
  ((s.modQueue q fun e => { e with refused := min (e.refused + 1) (2 ^ 32 - 1) }).hostErr port errBit).codeReply q data 1

/-- Appends a record to its spill ring: a write with the rights of user privilege. -/
def State.appendRec (s : State) (port q : Nat) (data : BitVec 512) : Option State :=
  let e := s.queue q
  let va := e.sbase.toNat + 64 * ringSlot e.app e.scap
  match s.hostLeaf va false true with
  | none => none
  | some (p, leaf, a) =>
    (((s.walkMark leaf a .write).1).farWrite (.hostw port) p va (leBytes 64 data.toNat)).map fun s1 =>
      (s1.modQueue q fun x => { x with app := x.app + 1 }).modDev fun d => { d with spills := d.spills ++ [q] }

/-- Checks an accepted record, in the order of R404. -/
def State.checkRec (s : State) (port q : Nat) (data : BitVec 512) : State :=
  let e := s.queue q
  if recSvs data ∨ recAf data then s.codeReply q data 3
  else if e.spilled = e.scap then s.refuseRec port q 3 data
  else
    match s.appendRec port q data with
    | some s1 => s1
    | none => s.refuseRec port q 2 data

/-- A posting write: discarded, or appended behind the port's earlier posted writes, once its two flits have entered (R404, R406, R419). -/
def execPostingWrite (port q : Nat) (whole ide : Bool) (data : BitVec 512) (s : State) : Out :=
  if s.postErrs port q whole ide ≠ [] then .next (s.discard port (s.postErrs port q whole ide))
  else if s.hostWaits port then .next s
  else if s.hostShort port 2 then .next (s.partHost port)
  else .next ((s.spendHost port 2).checkRec port q data)

/-- A host record as the rotunda takes it. -/
def hostRec (q : Nat) (data : BitVec 512) : Rec :=
  { data := data, sender := .host q, path := if recTicket data = 0 then .none else .host q, pref := .field, notify := .nobody }

/-- What a field's rotunda finds at the head of a queue's spill ring. -/
inductive Draw where
  | later (s : State)
  | now (s : State) (r : Rec) (v : Verdict)
  deriving DecidableEq, Repr

/-- Whether a host record's priority queue has room (R284, R287). -/
def State.roomFor (s : State) (f : Nat) (r : Rec) : Bool := decide ((Tab.get [] (s.field f).queues r.queuePrio).length < 256)

/-- Reads the oldest record of a queue's spill ring, which waits for room in its priority queue, and then checks it; an unmapped page, and an
append that is still on its way, make it wait (R287, R404, R406). -/
def State.headDraw (s : State) (q : Nat) : Draw :=
  let e := s.queue q
  if s.hostWaits e.port.toNat then .later s
  else
  match s.hostLeaf (e.sbase.toNat + 64 * ringSlot e.drawn e.scap) true false with
  | none => .later s
  | some (p, leaf, a) =>
    match ((s.walkMark leaf a .read).1).farRead p 64 with
    | .wait s1 => .later s1
    | .lost => .later s
    | .got l s1 =>
      let r := hostRec q (BitVec.ofNat 512 (leNat l))
      if s1.roomFor e.field r then .now s1 r (s1.judge e.field r) else .later s1

/-- Whether a queue's oldest record can be drawn now. -/
def State.canDraw (s : State) (q : Nat) : Bool :=
  match s.headDraw q with
  | .later _ => false
  | .now _ _ _ => true

/-- Whether an older record of the same field can be drawn before that of queue `q`. -/
def State.olderDraw (s : State) (q : Nat) : Bool :=
  ((s.dev.spills.eraseDups.takeWhile (· ≠ q)).filter fun x => (s.queue x).field == (s.queue q).field).any s.canDraw

/-- A record has left its spill ring. -/
def State.drawn (s : State) (q : Nat) : State :=
  (s.modQueue q fun e => { e with drawn := e.drawn + 1 }).modDev fun d => { d with spills := d.spills.erase q }

/-- The rotunda of a queue's field draws the oldest spilled record when its priority queue has room; it is checked then (R384,
R404). -/
def execSpillDraw (q : Nat) (s : State) : Out :=
  if q ∉ s.dev.spills ∨ s.olderDraw q = true then .next s
  else
    match s.headDraw q with
    | .later s1 => .next s1
    | .now s1 r v =>
      match v with
      | .queue r' => .next ((s1.drawn q).enqueue (s.queue q).field r')
      | .refuse code => .next ((s1.drawn q).refuse r code)
      | .wait _ => .next s1

/-! ## Reply rings (R405) -/

/-- The physical address of a host address of a port, which has 44 bits (R298, R403; log 128). -/
def hostAddr (port : Bool) (a : Nat) : Nat := 0x800000000000 + port.toNat * 2 ^ 44 + a % 2 ^ 44

/-- A posted write to host memory. -/
def State.hostStore (s : State) (port : Bool) (a : Nat) (l : List Byte) : State :=
  s.homePoke { pa := hostAddr port a, home := .host, sw := false } 0 l

/-- The record, the tail and the vector, in this order. -/
def State.writeReply (s : State) (q : Nat) (data : BitVec 256) : State :=
  let e := s.queue q
  let t := e.wrote
  let rec_ := leBytes 64 (data.toNat + s.ns % 2 ^ 64 * 2 ^ 256)
  (((s.hostStore e.port (e.rbase + 64 * ringSlot t e.rcap) rec_).hostStore e.port e.rtail (leBytes 8 (t + 1))).modQueue q fun x =>
    { x with wrote := t + 1 }).modHostPort e.port.toNat fun h => h.signal e.vec

/-- Whether a reply finds its ring full, or its queue reset with the port's link (R405, R421; log 135). -/
def QEnt.noRoom (e : QEnt) : Bool := e.cut || decide ((wd e.wrote - e.rhead).toNat = e.rcap)

/-- Tests a reply's ring: the reply is written, or waits for the next test. -/
def State.tryReply (s : State) (i : Nat) (r : HostReply) : State :=
  if (s.queue r.q).noRoom then
    s.modDev fun d => { d with hreps := d.hreps.set i { r with full := true, next := s.ns + 1024 } }
  else (s.modDev fun d => { d with hreps := d.hreps.eraseIdx i }).writeReply r.q r.data

/-- A host reply is written into its reply ring. -/
def execReplyRingWrite (i : Nat) (s : State) : Out :=
  match s.dev.hreps[i]? with
  | none => .next s
  | some r => if r.full then .next s else .next (s.tryReply i r)

/-- A reply that waits is tested again every 1,024 ns. -/
def execReplyRingRetry (i : Nat) (s : State) : Out :=
  match s.dev.hreps[i]? with
  | none => .next s
  | some r => if r.full = true ∧ s.ns ≥ r.next then .next (s.tryReply i r) else .next s

/-! ## The BAR 2 window (R406, R407) -/

/-- The place that a window access names: DRAM while no job runs, else by the job's tables with user rights; with the state after
the walk's update. -/
def State.barPlace (s : State) (va : Nat) (wr : Bool) : Option (State × Phys) :=
  if s.dev.phase ≠ 7 then none
  else if s.dev.job then
    match s.hostLeaf va (!wr) wr with
    | none => none
    | some (p, e, a) => some ((s.walkMark e a (if wr then .write else .read)).1, p)
  else if homeOf va = some .dram then some (s, { pa := va, home := .dram, sw := false })
  else none

/-- The address of a window access. -/
def State.barAddr (s : State) (port off : Nat) : Nat := (s.hostPort port).w2base.toNat * 2 ^ 36 + off

/-- An access that a PCIe request can make: within the window, and within 4 KiB. -/
def barForm (off n : Nat) : Bool := decide (1 ≤ n) && decide (off % 4096 + n ≤ 4096) && decide (off < 2 ^ 36)

/-- A host read through the window, behind the port's earlier posted writes (R406). -/
def execBar2Read (port off n : Nat) (ide : Bool) (s : State) : Out :=
  if !barForm off n then .next s
  else if s.outsideIde port ide then .next ((s.barRefused port ide).barAnswer port none)
  else if s.hostWaits port then .next s
  else
    match s.barPlace (s.barAddr port off) false with
    | none => .next ((s.barRefused port ide).barAnswer port none)
    | some (s1, p) =>
      if s.hostShort port (flitsOf off n) then .next (s.partHost port)
      else
      match s1.farRead p n with
      | .got l s2 => .next ((s2.spendHost port (flitsOf off n)).barAnswer port (some l))
      | .wait s2 => .next s2
      | .lost => .next ((s1.barRefused port ide).barAnswer port none)

/-- A host write through the window, behind the port's earlier posted writes (R406). -/
def execBar2Write (port off : Nat) (ide : Bool) (data : List Byte) (s : State) : Out :=
  if !barForm off data.length then .next s
  else if s.outsideIde port ide then .next (s.barRefused port ide)
  else if s.hostWaits port then .next s
  else
    match s.barPlace (s.barAddr port off) true with
    | none => .next (s.barRefused port ide)
    | some (s1, p) =>
      if s.hostShort port (flitsOf off data.length) then .next (s.partHost port)
      else
      match s1.farWrite (.hostw port) p (s.barAddr port off) data with
      | some s2 => .next (s2.spendHost port (flitsOf off data.length))
      | none => .next (s1.barRefused port ide)

end Sys2Proof.Machine
end

