-- ==== Sys2Proof/Machine/Belvedere.lean ====
section
/-!
DEFINITION. The belvedere's requests: verifying images (R411), attestation (R412), the start of a job with its keys (R413), its end
(R416), and the SPDM responder (R400).
-/
namespace Sys2Proof.Machine

/-! ## The command in hand (R409) -/

/-- The command that runs now, when it has the kind: commands run one at a time, in arrival order. -/
def State.headCmd (s : State) (kind : Nat) : Option BCmd :=
  match s.dev.bq with
  | [] => none
  | c :: _ => if c.kind.toNat = kind ∧ s.dev.loading = none ∧ s.dev.unloading = none then some c else none

/-- The command has ended. -/
def State.popCmd (s : State) : State := s.modDev fun d => { d with bq := d.bq.drop 1 }

/-- Writes bytes of a request, in memory or in the request block; none when the device that holds it cannot be reached. -/
def State.reqStore (s : State) (c : BCmd) (off : Nat) (l : List Byte) : Option State :=
  match c.at_ with
  | some p => s.farWrite .note (p.plus off) (c.addr + off) l
  | none =>
    match c.host with
    | some q => some (s.reqWrite q off l)
    | none => some s

/-- Ends a command with a result (R409). -/
def State.endCmd (s : State) (c : BCmd) (code : Nat) : State :=
  (match c.at_ with
    | some { home := .remote _, .. } => (s.reqStore c (resultAt c.kind.toNat) (leBytes 2 code)).getD s
    | _ => s.result c code).popCmd

/-- Reads the first `n` bytes of a command's request: in its request block, or where its address names it. -/
def State.reqRead (s : State) (c : BCmd) (n : Nat) : FarAns :=
  match c.at_ with
  | some p => s.farRead p n
  | none =>
    match c.host with
    | some q => .got ((List.range n).map fun i => Tab.get 0 (s.hostPort q).req i) s
    | none => .lost

/-- Runs `k` with a request's bytes; a request that cannot be reached is refused as an address that fails its checks (R408). -/
def State.withReq (s : State) (c : BCmd) (n : Nat) (k : List Byte → State → State) : Out :=
  match s.reqRead c n with
  | .got l s1 => .next (k l s1)
  | .wait s1 => .next s1
  | .lost => .next ((s.badCmd c.host c.addr).popCmd)

/-! ## Images (R411) -/

/-- The bytes of a virtual range, and the ranges of the frames that hold them, with the rights of user privilege; none when a page is
missing or lies in another device. -/
def State.readUser : State → List (Nat × Nat) → Option (List Byte × List (Nat × Nat × Bool))
  | _, [] => some ([], [])
  | s, (va, n) :: l =>
    match s.hostLeaf va true false with
    | none => none
    | some (p, _, _) =>
      match p.home with
      | .remote _ => none
      | .dram | .aperture | .regs | .host =>
        match s.readUser l with
        | none => none
        | some (bs, rs) => some ((p.spans n).flatMap (fun e => Memory.read s.mem (p.plus e.1).pa e.2) ++ bs, (p.linear, n, p.hash) :: rs)

/-- A virtual range in its pages of 64 KiB. -/
def pagesOf : Nat → Nat → Nat → List (Nat × Nat)
  | 0, _, _ => []
  | f + 1, va, n => if n = 0 then [] else
    let k := min n (65536 - va % 65536)
    (va, k) :: pagesOf f (va + k) (n - k)
def userPages (va n : Nat) : List (Nat × Nat) := pagesOf (n / 65536 + 2) va n

/-- The bytes and physical ranges of an image: by its virtual address, or by its physical address in DRAM. -/
def State.imageBytes (s : State) (phys : Bool) (a n : Nat) : Option (List Byte × List (Nat × Nat × Bool)) :=
  if phys then (if homeOf a = some .dram ∧ homeOf (a + n - 1) = some .dram then some (Memory.read s.mem a n, [(a, n, false)]) else none)
  else s.readUser (userPages a n)

/-- The frames that hold byte ranges: 64 KiB each (R297). -/
def framesOf (rs : List (Nat × Nat × Bool)) : List (Nat × Nat × Bool) :=
  rs.map fun r => (r.1 / 65536 * 65536, (r.1 % 65536 + r.2.1 + 65535) / 65536 * 65536, r.2.2)

/-- Verifies an image: its body, digest and frames; none for a bad header, key or signature (R411). -/
def State.verified (s : State) (phys : Bool) (a : Nat) (signer : List Byte) :
    Option (List Byte × BitVec 512 × List (Nat × Nat × Bool)) :=
  match s.imageBytes phys a 256 with
  | none => none
  | some (h, _) =>
    if imageHeadOk signer h = false then none
    else
      match s.imageBytes phys a (256 + leAt h 8 8) with
      | none => none
      | some (l, rs) => if imageSigned signer l then some (l.drop 256, BitVec.ofNat 512 (leNat (umaistDigest l)), framesOf rs) else none

/-- A verified image extends mimg, and its frames are recorded. -/
def State.measured (s : State) (a len : Nat) (digest : BitVec 512) (frames : List (Nat × Nat × Bool)) : State :=
  s.modDev fun d => { d with mimg := extendHash d.mimg digest, images := d.images ++ [(a, len, frames)], imgs := d.imgs + 1 }

/-- A byte string with zeros up to a length. -/
def padTo (n : Nat) (l : List Byte) : List Byte := l.take n ++ zeros (n - l.length)

/-- Copies the handler entries of an image's body into the table, if there is one (R381, R382). -/
def State.putHandlers (s : State) (body : List Byte) : State :=
  if s.dev.htbase = 0 then s
  else (Config.handlersOf body).foldl (fun s e =>
    s.homePoke { pa := s.dev.htbase.toNat + 32 * (e.1 % 65536), home := .dram, sw := false } 0 (padTo 32 e.2)) s

/-- The result of a verify request, and its effect. An image's address is a multiple of 4,096 (log 36). -/
def State.verify (s : State) (a : Nat) : State × Nat :=
  if a % 4096 ≠ 0 then (s, 9)
  else if s.dev.imgs ≥ 256 then (s, 2)
  else
    match s.verified false a s.dev.signer with
    | none => (s, 1)
    | some (body, digest, frames) => ((s.measured a body.length digest frames).putHandlers body, 0)

/-- Command kind 2. -/
def execVerifyImage (s : State) : Out :=
  match s.headCmd 2 with
  | none => .next s
  | some c => s.withReq c 64 fun l s1 => ((s1.verify (leAt l 0 8)).1).endCmd c (s1.verify (leAt l 0 8)).2

/-! ## Attestation (R412) -/

/-- Bytes 0x000 to 0x13F of a report. -/
def State.reportHead (s : State) (nonce eph : List Byte) : List Byte :=
  leBytes 8 1 ++ leBytes 8 s.dev.devnum ++ padTo 32 nonce ++ padTo 64 (edPublic Config.identityPrivate) ++
    leBytes 64 s.dev.mfw.toNat ++ leBytes 64 s.dev.mimg.toNat ++ padTo 64 (x448Public eph) ++
    leBytes 8 (s.dev.sealed.toNat + 2 * s.dev.job.toNat) ++ leBytes 8 s.ns

/-- The whole report. -/
def signedReport (head : List Byte) : List Byte := head ++ padTo 128 (edSign Config.identityPrivate (shake256 head 64))

/-- Writes a range by the user's rights, or in DRAM for a host while no job runs; none when a page of it is not writable. -/
def State.writeUser (s : State) (host : Option Nat) : List (Nat × List Byte) → Option State
  | [] => some s
  | (va, l) :: ps =>
    match s.cmdPlace host va with
    | (_, none) => none
    | (s1, some p) =>
      match s1.farWrite .note p va l with
      | none => none
      | some s2 => s2.writeUser host ps

/-- Writes a report to its address, or to the request block at 0x40; none when the place does not take it (log 37). -/
def State.putReport (s : State) (c : BCmd) (a : Nat) (l : List Byte) : Option State :=
  if a = 0 then c.host.map fun q => s.reqWrite q 0x40 l
  else s.writeUser c.host (cutAt 4096 (l.length + 1) a l)

/-- Makes a fresh key pair and writes the report. -/
def State.attest (s : State) (c : BCmd) (l : List Byte) : State :=
  let eph := Config.ephemeralPrivate s.fresh
  let head := s.reportHead (l.take 32) eph
  let s1 := s.next.modDev fun d => { d with ephem := some eph, report := head }
  match s1.putReport c (leAt l 0x20 8) (signedReport head) with
  | some s2 => s2.endCmd c 0
  | none => s1.endCmd c 9

/-- Command kind 3. -/
def execAttestationReport (s : State) : Out :=
  match s.headCmd 3 with
  | none => .next s
  | some c => s.withReq c 64 fun l s1 => s1.attest c l

/-! ## Job start (R413) -/

/-- The ASCII bytes of a label. -/
def asciiBytes (t : String) : List Byte := t.toList.map fun c => BitVec.ofNat 8 c.toNat

/-- The job key that a sealed start unwraps, with the key of its Marold packets; none without a report, or when the decryption
fails. -/
def State.unwrap (s : State) (l : List Byte) : Option (List Byte × List Byte) :=
  match s.dev.ephem with
  | none => none
  | some e =>
    let sh := x448 e ((l.drop 0x60).take 56)
    let kw := shake256 (asciiBytes "KS-SD4 wrap" ++ sh ++ s.dev.report) 32
    (gcmOpen kw (zeros 12) (l.take 57) ((l.drop 0x98).take 32) ((l.drop 0xB8).take 16)).map fun j =>
      (j, shake256 (asciiBytes "KS-SD4 marold" ++ j) 32)

/-- The job runs: its tables, handler entries, keys and first image. -/
def State.startJob (s : State) (l body : List Byte) (digest : BitVec 512) (frames : List (Nat × Nat × Bool))
    (keys : Option (List Byte × List Byte)) : State :=
  let hb : Word := wd (leAt l 0x48 8) &&& ~~~ 0xFFF#64
  let s1 := (s.measured (leAt l 0x50 8) body.length digest frames).modDev fun d =>
    { d with
      signer := l.take 57, ptroot := wd (leAt l 0x40 8), htbase := hb, job := true, sealed := keys.isSome, ephem := none
      jobKey := keys.map Prod.fst, marKey := keys.map Prod.snd }
  s1.putHandlers body

/-- What a start request comes to. A sealed start whose keys do not unwrap (result 3) leaves the ephemeral key for another: R413 says
nothing of it (DESIGN CHOICE, log 126). -/
def State.jobResult (s : State) (l : List Byte) : State × Nat :=
  let w := leAt l 0x58 8
  if s.dev.job then (s, 4)
  else if w / 2 ≠ 0 ∨ ((l.drop 57).take 7).any (· ≠ 0) then (s, 9)
  else
    match (if leAt l 0x50 8 % 4096 = 0 then s.verified true (leAt l 0x50 8) (l.take 57) else none) with
    | none => (s, 1)
    | some (body, digest, frames) =>
      if w % 2 = 0 then (s.startJob l body digest frames none, 0)
      else
        match s.unwrap l with
        | none => (s, 3)
        | some k => (s.startJob l body digest frames (some k), 0)

/-- Command kind 4. -/
def execJobStart (s : State) : Out :=
  match s.headCmd 4 with
  | none => .next s
  | some c => s.withReq c 256 fun l s1 => ((s1.jobResult l).1).endCmd c (s1.jobResult l).2

/-! ## Job end (R416) -/

/-- The frames of the global leaves that a table at a level reaches (R297, R300). -/
def State.globals (s : State) : List Nat → Nat → List (Nat × Nat × Bool)
  | [], _ => []
  | l :: ls, t =>
    (List.range 512).flatMap fun i =>
      let e := wd (s.peek (t + 8 * i) 8)
      if !leafV e then []
      else if !leafR e && !leafW e && !leafX e then s.globals ls (bits e 12 36 * 4096)
      else if leafG e && l != 0 && !malformedLeaf e l then [(leafFrame e, 2 ^ pageLog l, leafHashed e)]
      else []

/-- Memory after a job: host memory and the global frames stay (R416). -/
def State.keptMem (s : State) : List Host.Cell :=
  let gs := s.globals [0, 1, 2, 3] s.dev.ptroot.toNat
  s.mem.filter fun c =>
    (decide (0x800000000000 ≤ c.1) && decide (c.1 < 0xA00000000000)) ||
      (homeOf c.1 == some .dram && gs.any fun g => overlaps (if g.2.2 then hashAddr c.1 else c.1) 1 g.1 g.2.1)

/-- A block keeps its clock, its power and its names. -/
def Blk.cleared (b : Blk) : Blk :=
  { b with tlb := [], walks := [], jobs := [], comps := [], wins := [], lwins := [], ports := [], tasks := [] }

/-- What of an unanswered packet belongs to a transfer. -/
def PKind.ofXfer : PKind → Bool
  | .xfer _ | .xpart _ _ _ | .count _ | .comp _ _ _ => true
  | .inv _ | .reply _ _ _ _ | .mem _ _ | .store _ | .fetch _ _ | .image _ _ _ | .poll _ | .part _ _ _ | .cmd _ _ _ | .agen _
  | .dev _ _ | .done _ | .fut _ _ | .mail _ _ _ | .hostw _ | .note => false

/-- A compile that a transfer waits for, with its transfers alone. -/
def Compile.ofXfers (c : Compile) : Option Compile :=
  let rs := c.reqs.filter fun r => match r with
    | .xfer _ => true
    | .thread _ _ _ | .core _ => false
  if rs = [] then none else some { c with reqs := rs }

/-- Halts every unit and ends every graph and thread without reply; transfers go on (R416, step 1). -/
def State.haltAll (s : State) : State :=
  { s with
    threads := [], tcores := []
    tiles := Tab.mapVals {} (fun _ x =>
      { x with cur := none, ctxs := [], mq := [], escs := [], inbox := [], cfg := [], succ := none, markers := [] }) s.tiles
    blks := Tab.mapVals {} (fun _ b =>
      { b with
        jobs := [], comps := b.comps.filterMap Compile.ofXfers, wins := [], lwins := [], tasks := []
        ports := Tab.mapVals {} (fun _ p => { p with arr := [] }) b.ports }) s.blks
    fields := Tab.mapVals {} (fun _ f => { f with arr := [], queues := [], lists := [], resv := [], futs := [], notices := [], recs := [] }) s.fields
    mesh := {}
    dev := { s.dev with
      graphs := [], agens := [], convs := [], adders := [], groups := [], invs := [], replies := [], hreps := [], imgjobs := []
      loading := none, unloading := none, away := [], unans := s.dev.unans.filter fun u => u.kind.ofXfer, far := [] } }

/-- Whether anything is left to halt. -/
def State.unitsLeft (s : State) : Bool := s.threads != [] || s.tcores != [] || s.dev.graphs != []

/-- Whether every update of a sync word has been made. -/
def State.syncsQuiet (s : State) : Bool :=
  s.dev.syncq.all fun e => decide (e.2.bytes = 0) && decide (e.2.arrs = 0) && e.2.set.isNone && !e.2.carry

/-- Whether a transfer's gate is shut: its word, in memory of this device, has not reached the generation (R273). -/
def State.gateShut (s : State) (c : Cmd) : Bool :=
  match c.gsync with
  | none => false
  | some (.tile t off) => !genReached (syncOf (s.sramRead t off 16)).gen c.ggen
  | some (.mem va) =>
    match s.xlNow va { rd := true, wr := false, ex := false, sv := false } with
    | .bad _ => true
    | .ok p =>
      match p.home with
      | .remote _ => false
      | .dram | .aperture | .regs | .host => !genReached (syncOf (s.homeRead p 16)).gen c.ggen

/-- Whether a transfer cannot end any more, with every unit halted and every graph ended: it waits for a verdict or a future entry, at a gate
that is shut, for a via route that is gone, or behind such a transfer of its port (log 39). -/
def State.neverEnds (s : State) (id : Nat) (x : Xfer) : Bool :=
  let stuck (y : Xfer) : Bool :=
    y.stall.isSome || y.want.isSome || (match y.cmd with
      | none => true
      | some c => (y.phase == .queued && c.gate && s.syncsQuiet && s.gateShut c) ||
          ((y.phase == .queued || y.phase == .opened || y.phase == .running) && c.via != 0))
  stuck x || (((s.xport (4 * x.blk + x.port)).q.takeWhile (· ≠ id)).any fun i => ((s.xfer i).map stuck).getD false)

/-- Whether a transfer is still to end. -/
def State.xfersGo (s : State) : Bool := s.dev.xfers.any fun e => match e.2 with
  | none => false
  | some x => !s.neverEnds e.1 x

/-- A bucket whose word is zero. -/
def Bucket.zero : Bucket := { depth := 0, eff := 0, cap := 0 }

/-- Zeroes what a job has used and every register of it, destroys its keys, and ends it (log 39). -/
def State.wipe (s : State) : State :=
  { s with
    mem := s.keptMem, threads := [], tcores := [], tiles := [], cores := [], mesh := {}
    blks := Tab.mapVals {} (fun _ b => b.cleared) s.blks
    fields := (List.range 16).foldl (fun (t : Tab Field) f =>
      Tab.set {} t f { plim := 0, bkmem := Bucket.zero, bkesc := Bucket.zero, inrush := (s.field f).inrush }) []
    dev := { s.dev with
      job := false, sealed := false, ptroot := 0, tvec := 0, wtbase := 0, wlog := 0, htbase := 0, bklink := Bucket.zero, bkhost := Bucket.zero
      mpwr := 0, mimg := 0, images := [], imgs := 0, signer := [], jobKey := none, marKey := none, groups := [], xfers := [], locks := []
      syncq := [], sresp := [], invs := [], mails := [], replies := [], hreps := [], queues := [], spills := []
      graphs := [], agens := [], convs := [], adders := [], spentm := [], spente := []
      unans := [], halves := []
      hosts := Tab.mapVals {} (fun _ h => { h with w2base := 0, herr := 0, linkIde := none, selIde := none }) s.dev.hosts
      links := Tab.mapVals {} (fun _ p => { p with barred := false }) s.dev.links } }

/-- Command kind 5: units are halted, transfers end, and then the job's state is zeroed. -/
def execJobEnd (s : State) : Out :=
  match s.headCmd 5 with
  | none => .next s
  | some c =>
    if s.unitsLeft then .next s.haltAll
    else if s.xfersGo then .next s
    else .next (s.wipe.endCmd c 0)

/-! ## SPDM (R400, R402) -/

/-- A message through IDE_KM programs the key of a port's link or selective IDE stream, or tears the stream down (log 133). -/
def execSpdmRequest (port : Nat) (active : IdeStream) (s : State) : Out :=
  .next (s.modHostPort port fun h => if active.sel then { h with selIde := active.key } else { h with linkIde := active.key })

end Sys2Proof.Machine
end

