-- ==== Sys2Proof/Machine/Branch.lean ====
section
/-!
DEFINITION. Branches, jumps and loops, opcodes 0x20 to 0x2B (R107 to R110). A taken transfer makes its target the next
bundle that the unit issues, after the slot-B operation of the same bundle has issued in full.
-/
namespace Sys2Proof.Machine

/-- A relative target: pc + 8 × offset (R107). -/
def State.target (s : State) (off : Word) : Word := s.pc + 8 * off

/-- Transfers control to a relative target when a condition holds. -/
def State.branchIf (s : State) (c : Bool) (off : Word) : State := if c then s.jump (s.target off) else s

/-- beq (R108). -/
def execBeq (a b : SReg) (off : Imm) (s : State) : Out :=
  s.swarm fun _ => .next (s.branchIf (s.rS a == s.rS b) (immv off))

/-- bne (R108). -/
def execBne (a b : SReg) (off : Imm) (s : State) : Out :=
  s.swarm fun _ => .next (s.branchIf (s.rS a != s.rS b) (immv off))

/-- blt: signed (R108). -/
def execBlt (a b : SReg) (off : Imm) (s : State) : Out :=
  s.swarm fun _ => .next (s.branchIf ((s.rS a).slt (s.rS b)) (immv off))

/-- bge: signed (R108). -/
def execBge (a b : SReg) (off : Imm) (s : State) : Out :=
  s.swarm fun _ => .next (s.branchIf (!(s.rS a).slt (s.rS b)) (immv off))

/-- bltu: unsigned (R108). -/
def execBltu (a b : SReg) (off : Imm) (s : State) : Out :=
  s.swarm fun _ => .next (s.branchIf ((s.rS a).ult (s.rS b)) (immv off))

/-- bgeu: unsigned (R108). -/
def execBgeu (a b : SReg) (off : Imm) (s : State) : Out :=
  s.swarm fun _ => .next (s.branchIf (!(s.rS a).ult (s.rS b)) (immv off))

/-- jmp, in both modes (R109). -/
def execJmp (off : BitVec 17) (s : State) : Out := .next (s.jump (s.target (off.signExtend 64)))

/-- jal: links pc + 8 (R109). -/
def execJal (d : SReg) (off : BitVec 17) (s : State) : Out :=
  s.swarm fun _ => .next ((s.wS d (s.pc + 8)).jump (s.target (off.signExtend 64)))

/-- jalr: the target comes from s[a] before s[d] is written; a target that is not 8-byte aligned traps ALIGN (R109). -/
def execJalr (d a : SReg) (imm : Imm) (s : State) : Out :=
  s.swarm fun _ =>
    let t := s.rS a + 8 * immv imm
    if bits t 0 3 ≠ 0 then s.raise cALIGN t else .next ((s.wS d (s.pc + 8)).jump t)

/-- loop: counts s[a] down and branches unless it reaches 0, in both modes (R110). -/
def execLoop (a : SReg) (off : Imm) (s : State) : Out :=
  .next ((s.wS a (s.rS a - 1)).branchIf (s.rS a - 1 != 0) (immv off))

/-- bany: taken when p[a] ≠ 0 (R109). -/
def execBany (p : PReg) (off : Imm) (s : State) : Out := s.swarm fun _ => .next (s.branchIf (s.rP p != 0) (immv off))

/-- bnone: taken when p[a] = 0 (R109). -/
def execBnone (p : PReg) (off : Imm) (s : State) : Out := s.swarm fun _ => .next (s.branchIf (s.rP p == 0) (immv off))

end Sys2Proof.Machine
end

