-- ==== Sys2Proof/Machine/Loader.lean ====
section
/-!
DEFINITION. The graph loader's checks and placements (R229, R235 to R239, R244 to R253, R267, R291, R321, R322, R326, R373, R395): what a
load of a graph section comes to, before anything changes.
-/
namespace Sys2Proof.Machine

/-! ## Requests (R235) -/

/-- A load request: section, origin block counted device-wide, arguments, done word, mode. -/
structure LoadReq where
  gaddr  : Word
  origin : Nat
  args   : List Word
  done   : Word
  mode   : Nat
  deriving DecidableEq, Repr

/-- The request in 64 bytes; none for a nonzero reserved field, mode 3 or a misaligned done address (result REQUEST). -/
def loadReqOf (l : List Byte) : Option LoadReq :=
  let w1 := leAt l 8 8
  let w6 := leAt l 48 8
  let w7 := leAt l 56 8
  if w1 / 65536 ≠ 0 ∨ bitsN w1 11 1 ≠ 0 ∨ bitsN w1 0 8 ≠ 0 ∨ bitsN w7 32 32 ≠ 0 ∨ bitsN w7 2 14 ≠ 0 ∨ bitsN w7 0 2 = 3 ∨
      w6 % 16 ≠ 0 then none
  else
    some { gaddr := wd (leAt l 0 8), origin := bitsN w1 12 4 * 8 + bitsN w1 8 3
           args := (List.range 4).map fun i => wd (leAt l (16 + 8 * i) 8), done := wd w6, mode := bitsN w7 0 2 }

/-! ## The section (R228, R238) -/

/-- The bytes from a section's address to the end of the verified image that holds it. -/
def State.sectionBytes (s : State) (gaddr : Word) : Option (List Byte) :=
  match s.hostLeaf gaddr.toNat true false with
  | none => none
  | some (p, _, _) =>
    if gaddr.toNat % 4096 ≠ 0 then none
    else
      let inFrames (rs : List (Nat × Nat × Bool)) (r : Nat × Nat × Bool) : Bool :=
        rs.any fun x => x.2.2 == r.2.2 && decide (x.1 ≤ r.1) && decide (r.1 + r.2.1 ≤ x.1 + x.2.1)
      s.dev.images.findSome? fun e =>
        let end_ := e.1 + 256 + e.2.1
        let n := if e.1 ≤ gaddr.toNat ∧ gaddr.toNat < end_ then end_ - gaddr.toNat
          else if e.1 ≤ p.linear ∧ p.linear < end_ then end_ - p.linear else 0
        if n = 0 then none
        else
          match s.readUser (userPages gaddr.toNat n) with
          | none => none
          | some (bs, rs) => if rs.all (inFrames e.2.2) then some bs else none

/-- The pairs of formats that a converter takes, with the tokens that a firing consumes and produces (R267). -/
def convRatio (src : ConvFrom) (dst : ConvTo) (planes : Nat) : Option (Nat × Nat) :=
  match src, dst with
  | .mx f, .planes => if f = .e4m3 ∨ f = .e5m2 ∨ f = .e3m2 ∨ f = .e2m3 ∨ f = .e2m1 ∨ f = .mxint8 then some (1, planes + 1) else none
  | .plain .bf16, .bint | .plain .f16, .bint => some (2, planes + 1)
  | .plain .e4m3, .bint | .plain .e5m2, .bint => some (1, planes + 1)
  | .mx _, .elem .f32 => some (1, 4)
  | .mx _, .elem .bf16 | .mx _, .elem .f16 => some (1, 2)
  | .plain .bf16, .elem .f32 | .plain .f16, .elem .f32 => some (1, 2)
  | .plain .f32, .elem .bf16 | .plain .f32, .elem .f16 => some (2, 1)
  | .plain .bf16, .elem .f16 | .plain .f16, .elem .bf16 => some (1, 1)
  | _, _ => none

/-- Whether a node's operands are within their ranges (R230, R267). -/
def Node.formed (tiles : Nat) : Node → Bool
  | .prog t _ _ => decide (t < tiles)
  | .conv _ src dst p => (convRatio src dst p).isSome && decide (1 ≤ p) && decide (p ≤ 16)
  | .agen _ _ base run _ _ _ => decide (1 ≤ run) && decide (run ≤ 65535) && (match base with
    | .const _ => true
    | .arg n _ => decide (n < 4))
  | .esc t h p => decide (t < tiles) && decide (h < 65536) && decide (1 ≤ p) && decide (p ≤ 256)

/-- Whether a section is well formed: at most 4,096 tiles, context 0, images of at most 4,096 words (R228, R229; log 31). -/
def GraphDesc.formed (d : GraphDesc) : Bool :=
  decide (1 ≤ d.tiles.length) && decide (d.tiles.length ≤ 4096) && decide (d.ctxs.length ≤ 4) && (d.ctxs.getD 0 none).isSome &&
    d.ctxs.all fun c => match c with
      | none => true
      | some x => x.nodes.all (Node.formed d.tiles.length) && x.images.all (fun e => decide (e.1.length ≤ 4096)) &&
        x.routes.all fun r => decide (r.num < 4096)

/-- The graph that a load names, or none (result IMAGE). -/
def State.sectionOf (s : State) (gaddr : Word) : Option GraphDesc :=
  match s.sectionBytes gaddr with
  | none => none
  | some l => (Config.graphOf l).filter GraphDesc.formed

/-! ## Placement (R229, R255) -/

/-- The graphs that hold a tile. -/
def State.holders (s : State) (t : Nat) : List Nat :=
  s.dev.graphs.filterMap fun e => match e.2 with
    | none => none
    | some g => if g.place.contains t then some e.1 else none

/-- The graph that a mode-2 load goes behind: the current one of the first named tile that has one. R255 speaks of one predecessor; where
the named tiles are current in several graphs, the others' tiles are held and the load is refused with NAME (DESIGN CHOICE, log 110). -/
def State.predecessor (s : State) (d : GraphDesc) : Option Nat :=
  d.tiles.findSome? fun p => p.bind fun t => (s.tileCtx t).map TileCtx.gid

/-- The first tile at or after the origin block, in its field, that no graph holds. -/
def State.autoTile (s : State) (origin : Nat) (used : List Nat) : Option Nat :=
  ((List.range 256).map fun i => origin / 8 * 256 + i).find? fun t =>
    decide (origin ≤ t / 32) && s.tileExists t && !used.contains t && (s.holders t).isEmpty

/-- Places the tiles in order; none for a name that does not exist or that another graph holds (result NAME), and for an auto tile that finds
no free name at or after the origin block, of which R229 and R239 give no result (DESIGN CHOICE, log 31). -/
def State.placeTiles (s : State) (origin : Nat) (pred : Option Nat) : List (Option Nat) → List Nat → Option (List Nat)
  | [], acc => some acc
  | p :: l, acc =>
    let t := match p with
      | none => s.autoTile origin acc
      | some t => if decide (t < 4096) && s.tileExists t && !acc.contains t && (s.holders t).all (fun g => pred == some g) then some t
        else none
    match t with
    | none => none
    | some t => s.placeTiles origin pred l (acc ++ [t])

/-- Whether every tile whose graph is current has an idle context to leave (result SPLICE otherwise). -/
def State.spliceOk (s : State) (pred : Option Nat) (place : List Nat) : Bool :=
  pred.isSome && place.all fun t =>
    match (s.tileCtx t).bind fun x => s.graph x.gid with
    | none => true
    | some g => g.desc.ctxs.any fun c => (c.map GCtx.idle).getD false

/-- The numbers of the declared contexts. -/
def GraphDesc.ctxNums (d : GraphDesc) : List Nat := (List.range d.ctxs.length).filter fun c => (d.ctxs.getD c none).isSome

/-- The contexts of a tile that take a graph's: the same numbers if they are free, else the lowest free ones (result CONTEXT when too
few are free). -/
def State.ctxSlots (s : State) (d : GraphDesc) (t : Nat) : Option (List (Nat × Nat)) :=
  let free := (List.range 4).filter fun n => (Tab.get none (s.tile t).ctxs n).isNone
  if d.ctxNums.all free.contains then some (d.ctxNums.map fun c => (c, c))
  else if d.ctxNums.length ≤ free.length then some (d.ctxNums.zip free)
  else none

/-- The contexts of every tile. -/
def State.allSlots (s : State) (d : GraphDesc) : List Nat → Option (List (List (Nat × Nat)))
  | [] => some []
  | t :: l =>
    match s.ctxSlots d t, s.allSlots d l with
    | some x, some y => some (x :: y)
    | _, _ => none

/-! ## Converters and memory ports (R236, R237, R370) -/

/-- Whether a resident graph holds a converter position, or a memory port. -/
def State.convHeld (s : State) (p : Nat) : Bool := s.dev.graphs.any fun e => (e.2.map fun g => g.convs.contains p).getD false
def Node.atPort (m : Nat) : Node → Bool
  | .agen q _ _ _ _ _ _ => q == m
  | .prog _ _ _ | .conv _ _ _ _ | .esc _ _ _ => false
def GraphDesc.usesPort (d : GraphDesc) (m : Nat) : Bool := d.ctxs.any fun c => (c.map fun x => x.nodes.any (Node.atPort m)).getD false
def State.memHeld (s : State) (m : Nat) : Bool := s.dev.graphs.any fun e => (e.2.map fun g => g.desc.usesPort m).getD false

/-- A free converter position on a live router. -/
def State.convFree (s : State) (p : Nat) : Bool := decide (p < 512) && !s.convHeld p && !s.routerDead (convRouter p)

/-- The memory ports of a context. -/
def GCtx.memPorts (x : GCtx) : List Nat :=
  x.nodes.filterMap fun n => match n with
    | .agen m _ _ _ _ _ _ => some m
    | .prog _ _ _ | .conv _ _ _ _ | .esc _ _ _ => none

/-- Whether the memory ports of a graph exist, are free, and serve one node of a context each (result NAME otherwise). -/
def State.memsOk (s : State) (d : GraphDesc) : Bool :=
  d.ctxs.all fun c => match c with
    | none => true
    | some x => distinct x.memPorts && x.memPorts.all fun m => decide (m < 1024) && !s.memHeld m && !s.routerDead (memRouter m)

/-! ## Bindings (R163, R164, R173, R239, R245, R291, R321, R326, R395) -/

/-- A ring declaration within the general area. -/
def RingDecl.ok (r : RingDecl) : Bool :=
  decide (r.ring < 16) && decide (r.off % 64 = 0) && decide (r.size % 64 = 0) && decide (64 ≤ r.size) && decide (r.size ≤ 262144) &&
    decide (r.off + r.size ≤ 0x80000)

/-- Whether a producer is well formed: a program, a converter, a load node, a request port or a Marold port. -/
def State.fromOk (s : State) (x : GCtx) : RouteFrom → Bool
  | .node i =>
    (match x.nodes[i]? with
      | some (.prog _ _ _) | some (.conv _ _ _ _) => true
      | some (.agen _ store _ _ _ _ _) => !store
      | some (.esc _ _ _) | none => false)
  | .xq b p => decide (b < 128) && decide (p < 4) && !s.routerDead (xqRouter b)
  | .lp p => decide (p < 16)

/-- Whether a consumer is well formed. -/
def State.toOk (s : State) (tiles : Nat) (x : GCtx) : RouteTo → Bool
  | .node i =>
    (match x.nodes[i]? with
      | some (.conv _ _ _ _) => true
      | some (.agen _ store _ _ _ _ _) => store
      | some (.prog _ _ _) | some (.esc _ _ _) | none => false)
  | .port t c p w => decide (t < tiles) && decide (c < 4) && decide (p < 16) && (match w with
    | none => true
    | some n => decide (1 ≤ n) && decide (n ≤ 7))
  | .ring t r => decide (t < tiles) && x.rings.any fun d => d.tile == t && d.ring == r
  | .sram t => decide (t < tiles)
  | .place t b => decide (t < tiles) && decide (b % 64 = 0) && decide (0x40 ≤ b) && decide (b ≤ 0x7FFC0)
  | .xq b p => decide (b < 128) && decide (p < 4) && !s.routerDead (xqRouter b)
  | .lp p | .lpAdd p => decide (p < 16)

/-- Whether a consumer can end a steered route (R321). -/
def RouteTo.steerable : RouteTo → Bool
  | .port _ _ _ _ | .ring _ _ | .place _ _ => true
  | .node _ | .sram _ | .xq _ _ | .lp _ | .lpAdd _ => false

/-- Whether a route is steered, and whether a producer is a program node. -/
def Route.steered (r : Route) : Bool := r.dsts.any fun d => d.1.isSome
def GCtx.progFrom (x : GCtx) (r : Route) : Bool :=
  match r.src with
  | .node i => ((x.nodes[i]?.map fun n => n.progTile.isSome)).getD false
  | .xq _ _ | .lp _ => false

/-- A steered route's conditions (R321). -/
def GCtx.steerOk (x : GCtx) (r : Route) : Bool :=
  !r.steered ||
    (x.progFrom r && decide (r.dsts.length ≤ 64) && distinct (r.dsts.map Prod.fst) && r.dsts.all fun d => d.2.steerable && (match d.1 with
      | none => false
      | some k => decide (k < 64)))

/-- The port bindings of graph tile `t`: core, port, route. -/
def GCtx.binds (x : GCtx) (t : Nat) : List (Nat × Nat × Nat) :=
  x.routes.flatMap fun r => r.dsts.filterMap fun d => match d.2 with
    | .port u c p _ => if u = t then some (c, p, r.num) else none
    | .node _ | .ring _ _ | .sram _ | .place _ _ | .xq _ _ | .lp _ | .lpAdd _ => none

/-- The checks of a context at one tile: one program node to a core, none on a streamer; ports and routes bound once; at most four
escape nodes, with a program node and free re-entry ports. -/
def GCtx.tileOk (x : GCtx) (t : Nat) : Bool :=
  let ps := (x.progs t).map Prod.fst
  let bs := x.binds t
  let es := (x.escs t).length
  distinct ps && ps.all (fun c => decide (c < 4)) && distinct (bs.map fun b => (b.1, b.2.1)) && distinct (bs.map fun b => b.2.2) &&
    distinct ((x.rings.filter fun r => decide (r.tile = t)).map RingDecl.ring) && decide (es ≤ 4) &&
    (decide (es = 0) || (match least ps with
      | none => false
      | some c => (List.range es).all fun k => !(bs.any fun b => b.1 == c && b.2.1 == 15 - k)))

/-- Every adder has one upstream and one local route, and no two share an upstream (R395). -/
def GCtx.addersOk (x : GCtx) : Bool :=
  x.adders.all (fun a => decide (a.2.1.length = 1) && decide (a.2.2.length = 1)) && distinct (x.adders.flatMap fun a => a.2.1)

/-- The bindings of a context (result BINDING otherwise). -/
def State.bindsOk (s : State) (tiles : Nat) (x : GCtx) : Bool :=
  x.rings.all (fun r => r.ok && decide (r.tile < tiles)) && (List.range tiles).all x.tileOk && x.addersOk &&
    x.routes.all fun r => s.fromOk x r.src && decide (r.dsts ≠ []) && (r.dsts.all fun d => s.toOk tiles x d.2) && x.steerOk r

/-! ## Paths (R246 to R250, R322, R373) -/

/-- The router of a route's producer. -/
def State.fromRouter (s : State) (place convs : List Nat) (d : GraphDesc) (c : Nat) (x : GCtx) : RouteFrom → Nat
  | .node i =>
    (match x.nodes[i]? with
      | some (.prog t _ _) | some (.esc t _ _) => s.tileRouter (place.getD t 0)
      | some (.conv _ _ _ _) => convRouter ((((d.convNodes.zip convs).find? fun e => e.1 == (c, i)).map Prod.snd).getD 0)
      | some (.agen m _ _ _ _ _ _) => memRouter m
      | none => 0)
  | .xq b _ => xqRouter b
  | .lp p => Config.linkRouter p

/-- The unit code of Marold port `p` at its router: one of the reserved codes, since R247 names none (log 70). -/
def linkUnit (p : Nat) : Nat := 5 + Config.linkCode p % 11

/-- The router and the unit of a consumer (R247). -/
def State.toRouter (s : State) (place convs : List Nat) (d : GraphDesc) (c : Nat) (x : GCtx) : RouteTo → Nat × Nat
  | .node i =>
    (match x.nodes[i]? with
      | some (.agen m _ _ _ _ _ _) => (memRouter m, 2)
      | some (.conv _ _ _ _) => (convRouter ((((d.convNodes.zip convs).find? fun e => e.1 == (c, i)).map Prod.snd).getD 0), 1)
      | some (.prog _ _ _) | some (.esc _ _ _) | none => (0, 15))
  | .port t _ _ _ | .ring t _ | .sram t | .place t _ => (s.tileRouter (place.getD t 0), 0)
  | .xq b _ => (xqRouter b, 3)
  | .lp p | .lpAdd p => (Config.linkRouter p, linkUnit p)

/-- The virtual channel of a route: commands travel on vc1, data on vc0 (R87, R244). -/
def Route.vcOf (r : Route) : Nat := if r.cmdPort.isSome then 1 else 0

/-- Whether a context binds routes: an idle one does not (R228). -/
def GCtx.bound (x : GCtx) : List Route := if x.idle then [] else x.routes

/-- A declared route before it is laid. -/
def State.stub (s : State) (place convs : List Nat) (d : GraphDesc) (c : Nat) (x : GCtx) (r : Route) : Laid :=
  { vc := r.vcOf, num := r.num, from_ := s.fromRouter place convs d c x r.src
    to_ := (r.dsts.map fun e => s.toRouter place convs d c x e.2).eraseDups
    keys := r.dsts.filterMap fun e => e.1.map fun k => (k, (s.toRouter place convs d c x e.2).1)
    marks := d.ctxs.any fun y => (y.map fun z => z.bound.any fun q => q.num == r.num && z.progFrom q).getD false }

/-- Two declarations of one number, in contexts of one graph, that lead from one router to the same consumers' routers are one route: a
token queued on it goes to the port that the current context binds (R180). -/
def Laid.same (a b : Laid) : Bool :=
  a.num == b.num && a.vc == b.vc && a.from_ == b.from_ && a.to_.all (fun t => b.to_.contains t) && b.to_.all (fun t => a.to_.contains t) &&
    a.keys.all (fun k => b.keys.contains k) && b.keys.all fun k => a.keys.contains k

/-- The routes of a graph, each once, with what the loader may choose for it. -/
def State.stubs (s : State) (seed : Nat) (d : GraphDesc) (place convs : List Nat) : List (Laid × List (Nat × BitVec 32)) :=
  ((List.range d.ctxs.length).flatMap fun c =>
    match d.ctxs.getD c none with
    | none => []
    | some x => x.bound.map fun r => (s.stub place convs d c x r, Config.routePath seed r)).foldl
      (fun l e => if l.any fun x => x.1.same e.1 then l else l ++ [e]) []

/-- Whether a router is live and free for a route number: no resident graph and none of the laid routes uses it there (R246, R373). -/
def State.freeAt (s : State) (ls : List Laid) (num r : Nat) : Bool :=
  decide (r < 6912) && !s.routerDead r && !(Tab.get 0 s.mesh.rtab (4096 * r + num)).getLsbD 31 &&
    !ls.any fun l => l.num == num && l.passes r

/-- Lays routes one after another, along the loader's choices or, without them, along the search's trees; none when a consumer of one
cannot be reached (R246). -/
def State.layAll (s : State) (own : Bool) : List (Laid × List (Nat × BitVec 32)) → List Laid → Option (List Laid)
  | [], acc => some acc
  | (l, choice) :: rest, acc =>
    match l.lay (s.freeAt acc l.num) (if own then choice else []) with
    | none => none
    | some x => s.layAll own rest (acc ++ [x])

/-- The laid routes of resident graphs, from the route tables. -/
def State.resident (s : State) : List Laid :=
  s.dev.graphs.flatMap fun e =>
    match e.2 with
    | none => []
    | some g => (List.range g.desc.ctxs.length).flatMap fun c =>
      match g.desc.ctxs.getD c none with
      | none => []
      | some x => x.bound.map fun r => { s.stub g.place g.convs g.desc c x r with
          path := (s.mesh.rtab.filter fun k => k.1 % 4096 == r.num && Tab.get 0 s.mesh.owner k.1 == e.1 + 1).map fun k =>
            (k.1 / 4096, k.2) }

/-- The steer entries that a router holds, and those that a graph adds to it (R321). -/
def State.steersAt (s : State) (ls : List Laid) (r : Nat) : Nat :=
  (s.mesh.steer.filter fun e => decide (e.1 / 4096 = r)).length + ((ls.flatMap Laid.steer).filter fun e => decide (e.1 = r)).length

/-- Whether the links that a route's flits hold on one virtual channel wait for each other in no cycle: data on vc0, commands on vc1, and
the splice markers of either on vc3 (R250, R256). -/
def vcAcyclic (ls : List Laid) (on : Laid → Bool) : Bool :=
  let deps := (ls.filter on).flatMap fun l => (followFrom l.path l.from_).deps
  acyclic deps.length deps

/-- Whether laid routes need at most 256 steer entries at each router, and close no cycle of dependencies with those of resident graphs
on any one virtual channel (R250, R321). -/
def State.laidOk (s : State) (ls : List Laid) : Bool :=
  let all := ls ++ s.resident
  ((ls.flatMap Laid.steer).all fun e => decide (s.steersAt ls e.1 ≤ 256)) && vcAcyclic all (fun l => l.vc == 0) &&
    vcAcyclic all (fun l => l.vc == 1) && vcAcyclic all Laid.marks

/-- The laid routes of a graph: along the loader's choices (log 5) where they pass the checks, else along the search's trees; none for
result ROUTE. -/
def State.lay (s : State) (seed : Nat) (d : GraphDesc) (place convs : List Nat) : Option (List Laid) :=
  let l := s.stubs seed d place convs
  match (s.layAll true l []).filter s.laidOk with
  | some x => some x
  | none => (s.layAll false l []).filter s.laidOk

/-! ## Automatic converters (R236) -/

/-- The position that a conv node names. -/
def GraphDesc.convNamed (d : GraphDesc) (c i : Nat) : Option Nat :=
  match ((d.ctxs.getD c none).bind fun x => x.nodes[i]?) with
  | some (.conv p _ _ _) => p
  | some (.prog _ _ _) | some (.agen _ _ _ _ _ _ _) | some (.esc _ _ _) | none => none

/-- The router of a route's end, where that is known: that of an automatic converter is once it has a position. -/
def State.endRouter (s : State) (d : GraphDesc) (place : List Nat) (acc : List ((Nat × Nat) × Nat)) (c : Nat) (x : GCtx) :
    RouteFrom ⊕ RouteTo → Option Nat
  | .inl (.node i) | .inr (.node i) =>
    if ((x.nodes[i]?).map Node.isConv).getD false then (acc.find? fun e => e.1 == (c, i)).map fun e => convRouter e.2
    else
      match x.nodes[i]? with
      | some (.agen m _ _ _ _ _ _) => some (memRouter m)
      | some (.prog t _ _) | some (.esc t _ _) => some (s.tileRouter (place.getD t 0))
      | some (.conv _ _ _ _) | none => none
  | .inl r => some (s.fromRouter place [] d c x r)
  | .inr r => some (s.toRouter place [] d c x r).1

/-- Whether a converter position lies on a path between the ends of the routes of node `i`: it can be reached from every producer, and
every consumer from it, through routers that are free for the route (R236). -/
def State.convFits (s : State) (d : GraphDesc) (place : List Nat) (acc : List ((Nat × Nat) × Nat)) (c i p : Nat) : Bool :=
  match d.ctxs.getD c none with
  | none => false
  | some x => x.routes.all fun r =>
      let meets (a b : Option Nat) : Bool := match a, b with
        | some u, some v => Tab.get 0 (reach (s.freeAt [] r.num) u) v != 0
        | _, _ => true
      (!(r.dsts.any fun e => e.2 == .node i) || meets (s.endRouter d place acc c x (.inl r.src)) (some (convRouter p))) &&
        (r.src != .node i || r.dsts.all fun e => meets (some (convRouter p)) (s.endRouter d place acc c x (.inr e.2)))

/-- The positions that an automatic converter may take: free, named by no node of the graph, and on a path that its routes need. -/
def State.convPicks (s : State) (d : GraphDesc) (place : List Nat) (acc : List ((Nat × Nat) × Nat)) (c i : Nat) : List Nat :=
  let named := d.convNodes.filterMap fun n => d.convNamed n.1 n.2
  (List.range 512).filter fun p =>
    s.convFree p && !(acc.map Prod.snd).contains p && !named.contains p && s.convFits d place acc c i p

/-- Takes positions for the converters in order: a named one, which serves one node of a context, or one of those that an automatic one
may take, by the loader's choice (log 5); none when there is none (result CONVERTER). -/
def State.placeConvs (s : State) (d : GraphDesc) (place : List Nat) (seed : Nat) : List (Nat × Nat) → List ((Nat × Nat) × Nat) →
    Option (List Nat)
  | [], acc => some (acc.map Prod.snd)
  | (c, i) :: l, acc =>
    let pick := match d.convNamed c i with
      | some p => if s.convFree p && !acc.any (fun e => e.1.1 == c && e.2 == p) then some p else none
      | none =>
        let ps := s.convPicks d place acc c i
        ps[Config.autoConv seed acc.length % ps.length]?
    match pick with
    | none => none
    | some p => s.placeConvs d place seed l (acc ++ [((c, i), p)])

/-! ## Rates (R251 to R253, R265, R321) -/

/-- The unit that fires at an end, when rates bind it: a core, a ring or a converter. -/
def coreUnit (t c : Nat) : Nat := 64 * t + c
def ringUnit (t r : Nat) : Nat := 64 * t + 16 + r
def convUnit (i : Nat) : Nat := 2 ^ 32 + i
def viaUnit (num : Nat) : Nat := 2 ^ 33 + num

/-- The firing unit of a producer, with a converter's fixed count. -/
def GCtx.fromUnit (x : GCtx) : RouteFrom → Option (Nat × Option Nat)
  | .node i =>
    (match x.nodes[i]? with
      | some (.prog t c _) => some (coreUnit t c, none)
      | some (.conv _ a b p) => some (convUnit i, (convRatio a b p).map Prod.snd)
      | some (.agen _ _ _ _ _ _ _) | some (.esc _ _ _) | none => none)
  | .xq _ _ | .lp _ => none

/-- The firing unit of a consumer, with a converter's fixed count and the capacity in tokens (R253). -/
def GCtx.toUnit (x : GCtx) : RouteTo → Option (Nat × Option Nat × Nat)
  | .node i =>
    (match x.nodes[i]? with
      | some (.conv _ a b p) => some (convUnit i, (convRatio a b p).map Prod.fst, 16)
      | some (.prog _ _ _) | some (.agen _ _ _ _ _ _ _) | some (.esc _ _ _) | none => none)
  | .port t c _ _ => some (coreUnit t c, none, 20)
  | .ring t r => some (ringUnit t r, none, 16 + (((x.rings.find? fun d => d.tile == t && d.ring == r).map RingDecl.size).getD 0) / 40)
  | .sram _ | .place _ _ | .xq _ _ | .lp _ | .lpAdd _ => none

/-- Whether every end of a route is a program node, a converter or a ring, so that rates bind it. -/
def GCtx.rateBound (x : GCtx) (r : Route) : Bool :=
  !r.steered && (x.fromUnit r.src).isSome && r.dsts.all fun d => (x.toUnit d.2).isSome

/-- The capacity of a route: the smallest of its consumers'. -/
def GCtx.capacity (x : GCtx) (r : Route) : Nat := (least (r.dsts.filterMap fun d => (x.toUnit d.2).map fun u => u.2.2)).getD 0

/-- Whether a count agrees with an end: a converter's is fixed, and an end that no rate binds fires once per token. -/
def countOk (unit : Option (Option Nat)) (n : Nat) : Bool :=
  match unit with
  | none => n == 1
  | some none => true
  | some (some k) => n == k

/-- Whether a route feeds a via subgraph whose first consumers rates bind (R265). -/
def GCtx.viaBound (x : GCtx) (r : Route) : Bool :=
  (match r.src with
    | .xq _ _ => true
    | .node _ | .lp _ => false) && r.dsts.all fun d => (x.toUnit d.2).isSome

/-- The checks of one route's rates: declared when it must be, from 1 to 255, in agreement with its ends, within the capacity; a via
route with rates counts like a rate-bound one (R265). -/
def GCtx.rateOk (x : GCtx) (r : Route) : Bool :=
  match r.rate with
  | none => !x.rateBound r
  | some (p, c) =>
    !r.steered && decide (1 ≤ p) && decide (p ≤ 255) && decide (1 ≤ c) && decide (c ≤ 255) &&
      countOk ((x.fromUnit r.src).map Prod.snd) p && (r.dsts.all fun d => countOk ((x.toUnit d.2).map fun u => u.2.1) c) &&
      (!(x.rateBound r || x.viaBound r) || decide (p + c - Nat.gcd p c ≤ x.capacity r))

/-- The edges of a context that rates bind: producer, consumer, tokens produced and consumed. The request port of a via route with rates
fires once per token, and each such route has firings of its own (R265). -/
def GCtx.edges (x : GCtx) : List (Nat × Nat × Nat × Nat) :=
  x.routes.flatMap fun r =>
    match r.rate, (if x.viaBound r then some (viaUnit r.num) else if x.rateBound r then (x.fromUnit r.src).map Prod.fst else none) with
    | some (p, c), some a => r.dsts.filterMap fun d => (x.toUnit d.2).map fun b => (a, b.1, p, c)
    | _, _ => []

/-- The firing count of a unit, as a fraction. -/
def firing (fs : List (Nat × Nat × Nat)) (u : Nat) : Option (Nat × Nat) := (fs.find? fun f => decide (f.1 = u)).map Prod.snd

/-- Carries known counts over the edges once. -/
def spread (es : List (Nat × Nat × Nat × Nat)) (fs : List (Nat × Nat × Nat)) : List (Nat × Nat × Nat) :=
  es.foldl (fun fs e =>
    match firing fs e.1, firing fs e.2.1 with
    | some (n, d), none => fs ++ [(e.2.1, n * e.2.2.1, d * e.2.2.2)]
    | none, some (n, d) => fs ++ [(e.1, n * e.2.2.2, d * e.2.2.1)]
    | _, _ => fs) fs

/-- Carries them as far as they go. -/
def spreadAll (es : List (Nat × Nat × Nat × Nat)) : Nat → List (Nat × Nat × Nat) → List (Nat × Nat × Nat)
  | 0, fs => fs
  | n + 1, fs => spreadAll es n (spread es fs)

/-- Counts for every unit, one chain of routes after another. -/
def firings (es : List (Nat × Nat × Nat × Nat)) : List (Nat × Nat × Nat) :=
  es.foldl (fun fs e => if (firing fs e.1).isSome then fs else spreadAll es es.length (fs ++ [(e.1, 1, 1)])) []

/-- Whether the counts exist, and the routes close no cycle (R252). -/
def GCtx.balanced (x : GCtx) : Bool :=
  let es := x.edges
  let fs := firings es
  (es.all fun e => match firing fs e.1, firing fs e.2.1 with
    | some (n, d), some (n', d') => n * e.2.2.1 * d' == n' * e.2.2.2 * d
    | _, _ => false) && acyclic es.length (es.map fun e => (e.1, e.2.1))

/-- The rates of a context (result RATE otherwise). -/
def GCtx.ratesOk (x : GCtx) : Bool := x.routes.all x.rateOk && x.balanced

/-! ## The whole check (R239) -/

/-- What a load that is not refused places: the graph, the contexts of its tiles, and its routes. -/
structure Plan where
  graph : Graph
  slots : List (List (Nat × Nat))
  laid  : List Laid
  deriving DecidableEq, Repr

/-- Checks a request in the order REQUEST, IMAGE, NAME, SPLICE, CONTEXT, CONVERTER, BINDING, ROUTE, RATE: the first that fails gives
the result (log 31). -/
def State.planLoad (s : State) (seed : Nat) (l : List Byte) : Except Nat Plan :=
  match loadReqOf l with
  | none => .error 9
  | some q =>
    match s.sectionOf q.gaddr with
    | none => .error 1
    | some d =>
      let pred := if q.mode = 2 then s.predecessor d else none
      match s.placeTiles q.origin pred d.tiles [] with
      | none => .error 2
      | some place =>
        if !s.memsOk d then .error 2
        else if q.mode = 2 ∧ s.spliceOk pred place = false then .error 8
        else
          match s.allSlots d place with
          | none => .error 3
          | some slots =>
            match s.placeConvs d place seed d.convNodes [] with
            | none => .error 5
            | some convs =>
              if !(d.ctxs.all fun c => (c.map (s.bindsOk d.tiles.length)).getD true) then .error 7
              else
                match s.lay seed d place convs with
                | none => .error 4
                | some laid =>
                if !(d.ctxs.all fun c => (c.map GCtx.ratesOk).getD true) then .error 6
                else
                  .ok { graph := { gaddr := q.gaddr, origin := q.origin, place := place, desc := d, done := q.done, args := q.args
                                   convs := convs, mode := q.mode, live := false, pred := pred }
                        slots := slots, laid := laid }

end Sys2Proof.Machine
end

