-- ==== Sys2Proof/Machine/Graphs.lean ====
section
/-!
DEFINITION. Loading a graph (R235 to R239, R255) and unloading one (R410), as the belvedere's commands of kinds 0 and 1.
-/
namespace Sys2Proof.Machine

/-! ## Loading (R236) -/

/-- A declared context in a context of a tile, with its image on the way as configuration flits (R236, R238). -/
def State.putCtx (s : State) (gid : Nat) (g : Graph) (i t : Nat) (slot : Nat × Nat) : State :=
  match g.ctx slot.1 with
  | none => s
  | some x =>
    s.modTile t fun y =>
      { y with ctxs := Tab.set none y.ctxs slot.2 (some (tileCtxOf gid slot.1 i x g.args))
               cfg := y.cfg ++ (x.image i).1.zipIdx.map fun w => cfgFlit slot.2 w.2 w.1 }

/-- The contexts of one tile; configuration flits wake its block (R420). -/
def State.putTile (s : State) (gid : Nat) (g : Graph) (i t : Nat) (slots : List (Nat × Nat)) : State :=
  (slots.foldl (fun s e => s.putCtx gid g i t e) s).wakeBlk (t / 32)

/-- The entries of a laid route (R247, R322). -/
def Mesh.lay (m : Mesh) (gid : Nat) (l : Laid) : Mesh :=
  let m1 := l.path.foldl (fun (m : Mesh) e =>
    { m with rtab := Tab.set 0 m.rtab (4096 * e.1 + l.num) e.2, owner := Tab.set 0 m.owner (4096 * e.1 + l.num) (gid + 1) }) m
  l.steer.foldl (fun (m : Mesh) e => { m with steer := Tab.set [] m.steer (4096 * e.1 + l.num) e.2 }) m1

/-- The adder elements of a graph: each pair of routes that a context of it declares, once. -/
def State.putAdders (s : State) (gid : Nat) (d : GraphDesc) : State :=
  ((d.ctxs.flatMap fun c => (c.map GCtx.adders).getD []).eraseDups).foldl (fun s a => s.modDev fun d =>
    { d with adders := Tab.upd [] d.adders a.1 fun l =>
        l ++ [{ gid := gid, upr := a.2.1.headD 0, locr := a.2.2.headD 0, up := [], loc := [], halted := false }] }) s

/-- Places a graph that has passed its checks. -/
def State.install (s : State) (gid : Nat) (p : Plan) : State :=
  let s1 := (s.next.setGraph gid (some p.graph)).modDev fun d => { d with loading := some gid }
  let s2 := (p.graph.place.zip p.slots).zipIdx.foldl (fun s e => s.putTile gid p.graph e.2 e.1.1 e.1.2) s1
  ({ s2 with mesh := p.laid.foldl (fun m l => m.lay gid l) s2.mesh }).putAdders gid p.graph.desc

/-- The context of a tile that holds a graph's context. -/
def State.slotOf (s : State) (t gid c : Nat) : Option Nat :=
  (s.tile t).ctxs.findSome? fun e => match e.2 with
    | none => none
    | some x => if x.gid = gid ∧ x.gctx = c then some e.1 else none

/-- Whether every tile holds its image (R238). -/
def State.imagesIn (s : State) (gid : Nat) (g : Graph) : Bool :=
  g.place.all fun t => (s.tile t).ctxs.all fun e => match e.2 with
    | none => true
    | some x => x.gid != gid || s.loaded t e.1

/-- A tile starts its graph's context 0, or has it as the successor of the graph that is current on it (R236, R255). -/
def State.beginTile (s : State) (gid : Nat) (g : Graph) (t : Nat) : State :=
  match s.slotOf t gid 0 with
  | none => s
  | some n =>
    match g.mode with
    | 0 => s
    | 1 => s.switchTo t n
    | _ =>
      if (s.tileCtx t).isSome && ((s.tileCtx t).map TileCtx.gid == g.pred) then s.modTile t fun y => { y with succ := some n }
      else s.switchTo t n

/-- Whether the image of a context has failed: a configuration flit was corrupted, or the digest is not the measured one (R238). -/
def State.imagesBad (s : State) (gid : Nat) (g : Graph) : Bool :=
  g.place.any fun t => (s.tile t).ctxs.any fun e => match e.2 with
    | none => false
    | some x => x.gid == gid && x.bad

/-- A load whose image has failed ends with result 1, and nothing of it stays placed (R238, R239). -/
def State.loadFail (s : State) (gid : Nat) (g : Graph) (c : BCmd) : State :=
  let s1 := (s.freeGraph gid g).modDev fun d => { d with loading := none }
  (g.place.foldl (fun s t => s.modTile t fun x => { x with cfg := [] }) s1).endCmd c 1

/-- The load is complete: the mode's action, and the result (R236, R239). -/
def State.loadDone (s : State) (gid : Nat) (g : Graph) (c : BCmd) : State :=
  let s1 := (s.setGraph gid (some { g with live := true })).modDev fun d => { d with loading := none }
  (g.place.foldl (fun s t => s.beginTile gid g t) s1).endCmd c 0

/-- The blocks that a section names: of its tiles, memory ports, converters and request ports. -/
def GraphDesc.blocks (d : GraphDesc) : List Nat :=
  (d.tiles.filterMap fun p => p.map fun t => t / 32) ++ d.ctxs.flatMap fun c => (c.map fun x =>
    (x.memPorts.map fun m => m / 8) ++ (x.nodes.filterMap fun n => match n with
      | .conv p _ _ _ => p.map fun c => c / 4
      | .prog _ _ _ | .agen _ _ _ _ _ _ _ | .esc _ _ _ => none) ++
    x.routes.flatMap fun r => (match r.src with
      | .xq b _ => [b]
      | .node _ | .lp _ => []) ++ r.dsts.filterMap fun e => match e.2 with
        | .xq b _ => some b
        | _ => none).getD []

/-- Whether a request names a block that the placer is at work on, in its section or as its origin: the load waits until it has ended
(R378). -/
def State.loadHeld (s : State) (l : List Byte) : Bool :=
  ((loadReqOf l).map fun q => s.blkStands q.origin || ((s.sectionOf q.gaddr).map fun d => d.blocks.any s.blkStands).getD false).getD false

/-- A request begins: it is refused with its result, or its graph is placed. -/
def State.loadBegin (s : State) (c : BCmd) (l : List Byte) : State :=
  if s.loadHeld l then s else
  match s.planLoad s.fresh l with
  | .error code => s.endCmd c code
  | .ok p => s.install s.fresh p

/-- Command kind 0: a load begins, and ends when every tile holds its image. -/
def execGraphLoad (s : State) : Out :=
  match s.dev.loading, s.dev.bq with
  | some gid, c :: _ =>
    (match s.graph gid with
      | none => .next s
      | some g =>
        if s.imagesBad gid g then .next (s.loadFail gid g c)
        else if s.imagesIn gid g then .next (s.loadDone gid g c) else .next s)
  | some _, [] => .next s
  | none, _ =>
    match s.headCmd 0 with
    | none => .next s
    | some c => s.withReq c 64 fun l s1 => s1.loadBegin c l

/-! ## Unloading (R410) -/

/-- The groups of the escape threads of a graph: those of the tiles that are current in it. -/
def State.escTiles (s : State) (gid : Nat) (g : Graph) : List Nat :=
  g.place.filter fun t => (s.tileCtx t).map TileCtx.gid == some gid
def ReplyPath.fromTiles (p : ReplyPath) (ts : List Nat) : Bool :=
  match p with
  | .escape t _ _ => ts.contains t
  | .none | .core _ | .remote _ _ | .host _ => false
def State.escGroups (s : State) (ts : List Nat) : List Nat :=
  s.dev.groups.filterMap fun e => match e.2 with
    | none => none
    | some x => if x.path.fromTiles ts then some e.1 else none

/-- Whether a thread belongs to one of the listed groups. -/
def Thread.ofGroups (t : Thread) (ids : List Nat) : Bool := (t.group.map ids.contains).getD false

/-- The records, waiting threads and futures of a field that belong to the listed groups go. -/
def Field.dropEsc (x : Field) (ts ids : List Nat) : Field :=
  { x with
    arr := x.arr.filter fun r => !r.path.fromTiles ts
    queues := Tab.mapVals [] (fun _ l => l.filter fun r => !r.path.fromTiles ts) x.queues
    lists := Tab.mapVals [] (fun _ l => l.filter fun r => !r.th.ofGroups ids) x.lists
    resv := Tab.mapVals 0 (fun k c =>
      let gone := match x.headOf k with
        | none => false
        | some (.record r) => r.path.fromTiles ts
        | some (.thread r) => r.th.ofGroups ids
      if gone then 0 else c) x.resv
    futs := Tab.mapVals none (fun _ e => if (((e.bind FutEnt.holder).map fun t => t.ofGroups ids)).getD false then none else e) x.futs }

/-- The future entries of such threads turn free (R311). -/
def State.freeEscFuts (s : State) (ids : List Nat) : State :=
  s.fields.foldl (fun s e => e.2.futs.foldl (fun s k =>
    if (((k.2.bind FutEnt.holder).map fun t => t.ofGroups ids)).getD false then s.futState e.1 k.1 0 else s) s) s

/-- Whether a graph's escape threads can end: as a quit does, each waits until its store buffer is empty and the range locks of its transfers
have been released (R214, R410). -/
def State.escReady (s : State) (gid : Nat) (g : Graph) : Bool :=
  let ids := s.escGroups (s.escTiles gid g)
  s.threads.all fun e => e.2.run == .free || !e.2.ofGroups ids ||
    (e.2.sb.isEmpty && !(s.dev.locks.any fun l => l.uid == some e.2.uid))

/-- Whether a thread is an escape thread that is about to end with its graph's unload: it issues nothing more (R410). -/
def State.escStops (s : State) (g : Nat) : Bool :=
  (((s.thread g).group.bind s.group).map fun x => match x.path with
    | .escape t _ _ => (((s.tileCtx t).bind fun c => s.graph c.gid).map Graph.esc).getD false
    | .none | .core _ | .remote _ _ | .host _ => false).getD false

/-- Ends a graph's escape threads as by quit with s[d] = 0, and discards their re-entry (step 3). -/
def State.endEscapes (s : State) (gid : Nat) (g : Graph) : State :=
  let ts := s.escTiles gid g
  let ids := s.escGroups ts
  let s1 := ids.foldl (fun s i => s.setGroup i ((s.group i).map fun x => { x with sent := true })) s
  let s2 := s1.threads.foldl (fun s e => if e.2.run != .free && e.2.ofGroups ids then s.endThread e.1 false 0 0 0 else s) s1
  let s3 := s2.freeEscFuts ids
  let s4 := { s3 with fields := Tab.mapVals {} (fun _ x => x.dropEsc ts ids) s3.fields }
  let s5 := ids.foldl (fun s i => s.setGroup i none) s4
  ts.foldl (fun s t => s.modTile t fun x => { x with escs := [] }) s5

/-- A halted core of an unloaded graph. -/
def TCore.stopped (c : TCore) : TCore :=
  { c with run := .idle, halted := false, ctx := { c.ctx with pend := [] }, waited := none, atPort := none, drains := [], due := [] }

/-- Whether a transfer of a graph's command routes has not started. -/
def Xfer.unstarted (x : Xfer) (gid : Nat) : Bool := x.gid == some gid && (x.phase == .queued || x.phase == .opened)

/-- Whether a transfer is a via transfer into a graph's routes. -/
def State.viaInto (s : State) (gid : Nat) (x : Xfer) : Bool :=
  match x.cmd with
  | none => false
  | some c => c.via != 0 && ((s.viaOf x.blk c).map Via.gid == some gid)

/-- Discards a transfer with its range locks, and without a completion. -/
def State.cutXfer (s : State) (id : Nat) (x : Xfer) : State :=
  ((s.retryBusy.leavePort id x).setXfer id none).modDev fun d => { d with locks := d.locks.filter fun l => decide (l.id ≠ id) }

/-- Discards the commands and transfers of a graph that have not started, and its via transfers (step 2). -/
def State.cutXfers (s : State) (gid : Nat) : State :=
  let s1 := s.dev.xfers.foldl (fun st e => match e.2 with
    | none => st
    | some x => if x.unstarted gid || s.viaInto gid x then st.cutXfer e.1 x else st) s
  { s1 with blks := Tab.mapVals {} (fun _ b =>
      { b with ports := Tab.mapVals {} (fun _ p => { p with arr := p.arr.filter fun a => a.gid != gid }) b.ports }) s1.blks }

/-- The streams that a core's pcomp forms forward are cut off (log 40). -/
def State.cutDrains (s : State) (k : Nat) : State :=
  (s.tcore k).drains.foldl (fun s d => if d.fwd then s.cutStream d.tile d.ident else s) s

/-- Step 1: the tiles of a graph halt, and what its units send is discarded at its source. -/
def State.haltGraph (s : State) (gid : Nat) (g : Graph) : State :=
  let s1 := (s.escTiles gid g).foldl (fun s t => (List.range 4).foldl (fun s i =>
    (s.cutDrains (4 * t + i)).modTcore (4 * t + i) TCore.stopped) s) s
  s1.setGraph gid (some { g with cut := true })

/-- The graph from a section that is current at an origin. -/
def State.findGraph (s : State) (gaddr : Word) (origin : Nat) : Option (Nat × Graph) :=
  s.dev.graphs.findSome? fun e => match e.2 with
    | none => none
    | some g => if g.gaddr = gaddr ∧ g.origin = origin ∧ (s.current e.1 g).isEmpty = false then some (e.1, g) else none

/-- An unload begins (R410). -/
def State.unloadBegin (s : State) (c : BCmd) (l : List Byte) : State :=
  let w1 := leAt l 8 8
  if w1 / 65536 ≠ 0 ∨ bitsN w1 11 1 ≠ 0 ∨ bitsN w1 0 8 ≠ 0 then s.endCmd c 9
  else
    match s.findGraph (wd (leAt l 0 8)) (bitsN w1 12 4 * 8 + bitsN w1 8 3) with
    | none => s.endCmd c 1
    | some (gid, g) => ((s.haltGraph gid g).cutXfers gid).modDev fun d => { d with unloading := some gid }

/-- Whether the matrix queues and the transfers of a graph have ended. -/
def State.unloadReady (s : State) (gid : Nat) (g : Graph) : Bool :=
  ((s.escTiles gid g).all fun t => (s.tile t).mq.isEmpty) && !s.xfersLeft gid

/-- Tokens of a graph's routes go from every link, port and streamer (step 4). -/
def State.dropTokens (s : State) (gid : Nat) (g : Graph) : State :=
  let l := g.routes
  let ts := s.escTiles gid g
  let gone (r : Nat) (f : Flit) : Bool := l.contains (hRoute f.hdr) && Tab.get 0 s.mesh.owner (4096 * r + hRoute f.hdr) == gid + 1
  let s1 := { s with mesh := { s.mesh with links := Tab.mapVals [] (fun k q => q.filter fun f => !gone (k / 20) f) s.mesh.links } }
  ts.foldl (fun s t => (List.range 4).foldl (fun s i => s.modTcore (4 * t + i) fun c => { c with ports := [], outq := [], waited := none })
    (s.modTile t fun x => { x with via := [] })) s1

/-- A table of free values at the first `n` keys. -/
def freeTab {α : Type} [DecidableEq α] (d : α) (n : Nat) (f : Nat → α) : Tab α :=
  (List.range n).filterMap fun k => if f k = d then none else some (k, f k)

/-- Tile `t` after the unload of its graph: its accumulators hold what the hardware leaves there (R320, log 2). -/
def Tile.lostAcc (x : Tile) (t n : Nat) : Tile :=
  { x with
    acc := freeTab 0 16384 fun k => Config.lostCell n (16384 * t + k)
    kidx := freeTab 0 16 fun k => Config.lostKidx n (16 * t + k) % 1023 }

/-- The accumulators of the tiles that an unload has stopped are not preserved. -/
def State.loseAccs (s : State) (gid : Nat) (g : Graph) : State :=
  { (s.escTiles gid g).foldl (fun st t => st.modTile t fun x => x.lostAcc t s.fresh) s with fresh := s.fresh + 1 }

/-- Steps 3 and 4, and the result. -/
def State.unloadDone (s : State) (gid : Nat) (g : Graph) (c : BCmd) : State :=
  (((((s.loseAccs gid g).endEscapes gid g).dropTokens gid g).freeGraph gid g).modDev fun d => { d with unloading := none }).endCmd c 0

/-- Command kind 1: an unload begins; once the graph's matrix queues and transfers have ended its escape threads issue nothing more, and it
ends when they can end. -/
def execGraphUnload (s : State) : Out :=
  match s.dev.unloading, s.dev.bq with
  | some gid, c :: _ =>
    (match s.graph gid with
      | none => .next s
      | some g =>
        if s.unloadReady gid g = false then .next s
        else if s.escReady gid g then .next (s.unloadDone gid g c)
        else .next (s.setGraph gid (some { g with esc := true })))
  | some _, [] => .next s
  | none, _ =>
    match s.headCmd 1 with
    | none => .next s
    | some c => s.withReq c 64 fun l s1 => s1.unloadBegin c l

end Sys2Proof.Machine
end

