-- ==== Sys2Proof/Machine/LoadStore.lean ====
section
/-!
DEFINITION. Loads, stores, lanes and prefetch, opcodes 0x30 to 0x3F (R117 to R120).
-/
namespace Sys2Proof.Machine

/-- ldb: 1 byte, sign-extended, as a long result (R117). -/
def execLdb (d a : SReg) (imm : Imm) (s : State) : Out := s.loadS d (s.ea a imm) 1 true

/-- ldbu: 1 byte, zero-extended, as a long result (R117). -/
def execLdbu (d a : SReg) (imm : Imm) (s : State) : Out := s.loadS d (s.ea a imm) 1 false

/-- ldh: 2 bytes, sign-extended, as a long result (R117). -/
def execLdh (d a : SReg) (imm : Imm) (s : State) : Out := s.loadS d (s.ea a imm) 2 true

/-- ldhu: 2 bytes, zero-extended, as a long result (R117). -/
def execLdhu (d a : SReg) (imm : Imm) (s : State) : Out := s.loadS d (s.ea a imm) 2 false

/-- ldw: 4 bytes, sign-extended, as a long result (R117). -/
def execLdw (d a : SReg) (imm : Imm) (s : State) : Out := s.loadS d (s.ea a imm) 4 true

/-- ldwu: 4 bytes, zero-extended, as a long result (R117). -/
def execLdwu (d a : SReg) (imm : Imm) (s : State) : Out := s.loadS d (s.ea a imm) 4 false

/-- ldd: 8 bytes, zero-extended, as a long result (R117). -/
def execLdd (d a : SReg) (imm : Imm) (s : State) : Out := s.loadS d (s.ea a imm) 8 false

/-- stb: the low 1 byte of s[d], through the store buffer (R118). -/
def execStb (d a : SReg) (imm : Imm) (s : State) : Out := s.storeN (s.ea a imm) 1 (s.rS d).toNat

/-- sth: the low 2 bytes of s[d], through the store buffer (R118). -/
def execSth (d a : SReg) (imm : Imm) (s : State) : Out := s.storeN (s.ea a imm) 2 (s.rS d).toNat

/-- stw: the low 4 bytes of s[d], through the store buffer (R118). -/
def execStw (d a : SReg) (imm : Imm) (s : State) : Out := s.storeN (s.ea a imm) 4 (s.rS d).toNat

/-- std: the low 8 bytes of s[d], through the store buffer (R118). -/
def execStd (d a : SReg) (imm : Imm) (s : State) : Out := s.storeN (s.ea a imm) 8 (s.rS d).toNat

/-- vld: 32 aligned bytes, as a long result (R119). -/
def execVld (v : VReg) (a : SReg) (imm : Imm) (s : State) : Out :=
  s.swarm fun g => s.access g (s.ea a imm) 32 32 true false .any true fun p => s.unspec p fun s =>
    s.loadN g p 32 (fun s x => .next (s.longV v 0xFF (BitVec.ofNat 256 x) 0))
      fun dev => .next (s.farLong g p dev 32 0 0 (.vreg v 0xFF) .whole false)

/-- vst: 32 aligned bytes through the store buffer (R119). -/
def execVst (v : VReg) (a : SReg) (imm : Imm) (s : State) : Out := s.storeN (s.ea a imm) 32 (s.rV v).toNat

/-- vgather, whose lanes of DRAM have missed L1 or not. -/
def State.vgather (s : State) (v : VReg) (a : SReg) (o : VReg) (sh : BitVec 2) (miss : Bool) : Out :=
  let eas := laneEas (s.rS a) (s.rV o) sh.toNat
  s.swarm fun g => s.lanes g eas true false fun ps => s.unspecAll ps fun s => s.gather g v (eas.zip ps) miss

/-- vgather: eight 4-byte lanes in ascending order, as a long result (R119). -/
def execVgather (v : VReg) (a : SReg) (o : VReg) (sh : BitVec 2) (s : State) : Out := s.vgather v a o sh false

/-- vscatter: eight 4-byte stores, which enter the store buffer in ascending lane order (R119). -/
def execVscatter (v : VReg) (a : SReg) (o : VReg) (sh : BitVec 2) (s : State) : Out :=
  let eas := laneEas (s.rS a) (s.rV o) sh.toNat
  let x := s.rV v
  s.swarm fun g => s.lanes g eas false true fun ps => s.unspecAll ps fun s =>
    s.stores g ((List.range 8).map fun i =>
      sbEntry (eas.getD i 0) 4 .plain (lane x i).toNat (ps.getD i { pa := 0, home := .dram, sw := false }))

/-- pf: changes no register and no memory; one that would fault or miss does nothing; a speculative task marks its line, and goes plain
first for a page at system scope (R116, R120, R343). -/
def execPf (a : SReg) (imm : Imm) (s : State) : Out :=
  s.swarm fun g =>
    match s.check g (s.ea a imm) 1 1 (s.need g true false .any) true with
    | .ok p => s.unspec p fun s => .next (if (s.thread g).spec then s.markLine g p.pa else s)
    | .miss => .next s
    | .bad _ => .next s

end Sys2Proof.Machine
end

