-- ==== Sys2Proof/Machine/Retire.lean ====
section
/-!
DEFINITION. Retiring a site in service (R374 to R378): the incremental placer's new bindings, and what a failed site takes with it.
Everything on a tile or core is held by its name, so it follows the name to a new site.
-/
namespace Sys2Proof.Machine

/-! ## Bindings (R370, R375, R377) -/

/-- The sites of a block's names: tiles or cores. -/
def Blk.sites (x : Blk) (core : Bool) : List Nat := if core then x.csite else x.tsite

/-- Whether a site is retired. -/
def Blk.retired (x : Blk) (core : Bool) (p : Nat) : Bool := if core then x.cret.getLsbD p else x.tret.getLsbD p

/-- The first usable spare, in ascending order of sites. -/
def Blk.spare (x : Blk) (core : Bool) : Option Nat :=
  (List.range (if core then 18 else 36)).find? fun p => !x.retired core p && !(x.sites core).contains p

/-- The number of the block's names. -/
def Blk.named (x : Blk) (core : Bool) : Nat := ((x.sites core).filter (· ≠ 255)).length

/-- Marks a site retired, and its router dead. -/
def Blk.retire (x : Blk) (core : Bool) (p : Nat) (dead : Bool) : Blk :=
  if core then { x with cret := x.cret ||| (1#18 <<< p), cdead := if dead then x.cdead ||| (1#18 <<< p) else x.cdead }
  else { x with tret := x.tret ||| (1#36 <<< p), tdead := if dead then x.tdead ||| (1#36 <<< p) else x.tdead }

/-- Binds a name to a site. -/
def Blk.bind (x : Blk) (core : Bool) (n p : Nat) : Blk :=
  if core then { x with csite := x.csite.set n p } else { x with tsite := x.tsite.set n p }

/-- The new bindings of a retired name, as name and site: the first spare's, or that of the highest name, which ceases to exist. -/
def Blk.rebinds (x : Blk) (core : Bool) (n : Nat) : List (Nat × Nat) :=
  match x.spare core with
  | some p => [(n, p)]
  | none =>
    let m := x.named core - 1
    if m = n then [(n, 255)] else [(n, (x.sites core).getD m 255), (m, 255)]

/-- The name that ceases to exist, if one does. -/
def ceased (bs : List (Nat × Nat)) : Option Nat := (bs.find? fun e => decide (e.2 = 255)).map Prod.fst

/-- The record of a rebind (R378). -/
def State.rebindRec (s : State) (b : Nat) (core : Bool) (n old new : Nat) : State :=
  s.addRec (b / 8) { cause := 0, unit := recUnit b (if core then 5 else 0) n, pos := wd old, time := s.ctime b, aux := wd new }

/-- The bindings `bs` and bgen, with a record for each rebind. -/
def State.rebind (s : State) (b : Nat) (core : Bool) (bs : List (Nat × Nat)) : State :=
  let x := s.blk b
  let x2 := bs.foldl (fun y e => y.bind core e.1 e.2) { x with bgen := x.bgen + BitVec.ofNat 32 bs.length }
  bs.foldl (fun s e => s.rebindRec b core e.1 ((x.sites core).getD e.1 255) e.2) (s.setBlk b x2)

/-- Marks a site of a block retired. -/
def State.retireSite (s : State) (b : Nat) (core : Bool) (p : Nat) (dead : Bool) : State := s.modBlk b fun x => x.retire core p dead

/-! ## Routes (R373, R375) -/

/-- Whether an entry is a graph's, for a route number. -/
def State.ownEntry (s : State) (gid num k : Nat) : Bool := k % 4096 == num && Tab.get 0 s.mesh.owner k == gid + 1

/-- Whether a graph's route of a number has an entry in a block. -/
def State.crosses (s : State) (b gid num : Nat) : Bool :=
  s.mesh.rtab.any fun e => s.ownEntry gid num e.1 && routerBlk (e.1 / 4096) == b

/-- Brings a flit from a router to every consumer that its entries lead to. -/
def State.flush : Nat → State → Nat → Flit → State
  | 0, s, _, _ => s
  | n + 1, s, r, f =>
    match s.hops r f with
    | none => s.badFlit r f
    | some hs => hs.foldl (fun s h => match h with
      | .here u => s.hereGive r u f
      | .go d => match neighbour r d with
        | none => s
        | some (q, _) => State.flush n s q f) s

/-- Brings the flits of a route that stand in the buffers of a router to their consumers, the oldest first. -/
def State.flushRouter (s : State) (num r : Nat) : State :=
  (List.range 20).foldl (fun s i =>
    let k := 20 * r + i
    let q := Tab.get [] s.mesh.links k
    let s1 := { s with mesh := { s.mesh with links := Tab.set [] s.mesh.links k (q.filter fun f => hRoute f.hdr != num) } }
    (q.filter fun f => hRoute f.hdr == num).foldl (fun s f => State.flush 6912 s r f) s1) s

/-- Brings every flit of a laid route to its consumers before its entries change, so that none is lost or repeated (R375): those that
have come furthest go first, which keeps their order (R241). -/
def State.flushRoute (s : State) (l : Laid) : State := (followFrom l.path l.from_).seen.reverse.foldl (fun s r => s.flushRouter l.num r) s

/-- The same for every route that crosses a block. -/
def State.flushBlock (s : State) (b : Nat) : State :=
  s.dev.graphs.foldl (fun s e => match e.2 with
    | none => s
    | some _ => (s.resident.filter fun l => s.crosses b e.1 l.num).foldl State.flushRoute s) s

/-- A graph's routes that cross a block, with the bindings as they are now. -/
def State.crossing (s : State) (b gid : Nat) (g : Graph) : List (Laid × List (Nat × BitVec 32)) :=
  (s.stubs s.fresh g.desc g.place g.convs).filter fun e => s.crosses b gid e.1.num

/-- Lays routes of a graph anew; none when one of them cannot be built. -/
def State.relaySet (s : State) (gid : Nat) (es : List (Laid × List (Nat × BitVec 32))) : Option State :=
  let out (k : Nat) : Bool := es.any fun e => s.ownEntry gid e.1.num k
  let m := { s.mesh with
    rtab := s.mesh.rtab.filter fun e => !out e.1, steer := s.mesh.steer.filter fun e => !out e.1
    owner := s.mesh.owner.filter fun e => !out e.1 }
  let s1 := { s with mesh := m }
  let laid := match (s1.layAll true es []).filter s1.laidOk with
    | some l => some l
    | none => (s1.layAll false es []).filter s1.laidOk
  laid.map fun ls => { s1 with mesh := ls.foldl (fun m l => m.lay gid l) m }.next

/-- Lays a graph's routes that cross a block anew, and no others: all together, or, when one of them cannot be built, each by itself; and
whether all could be built. -/
def State.relayGraph (s : State) (b gid : Nat) (g : Graph) : State × Bool :=
  let es := s.crossing b gid g
  match s.relaySet gid es with
  | some s1 => (s1, true)
  | none => (es.foldl (fun s e => (s.relaySet gid [e]).getD s) s, false)

/-- Lays the routes of every graph that cross a block anew; whether each could be built. -/
def State.relay (s : State) (b : Nat) : State × Bool :=
  s.dev.graphs.foldl (fun acc e => match e.2 with
    | none => acc
    | some g => let r := acc.1.relayGraph b e.1 g
      (r.1, acc.2 && r.2)) (s, true)

/-- The further moves that the placer may make: names of the block to usable sites that no name has, each once (R375). -/
def State.furtherMoves (s : State) (b : Nat) (core : Bool) (bs : List (Nat × Nat)) : List (Nat × Nat) :=
  let x := bs.foldl (fun y e => y.bind core e.1 e.2) (s.blk b)
  ((Config.placerMoves s.fresh).foldl (fun (acc : List (Nat × Nat)) e =>
    if !(bs ++ acc).any (fun u => u.1 == e.1 || u.2 == e.2) && (x.sites core).getD e.1 255 != 255 && !x.retired core e.2 &&
        decide (e.2 < if core then 18 else 36) && !(x.sites core).contains e.2 then acc ++ [e] else acc) []).take
    ((if core then 18 else 36) - bs.length)

/-- What a moved core's threads lose: reservations and cached translations, as by ctx.save and ctx.load (R225, R375). -/
def State.moveUnit (s : State) (b : Nat) (core : Bool) (n : Nat) : State :=
  if core then
    let c := 16 * b + n
    ((List.range 8).foldl (fun s i => s.modThread (8 * c + i) fun t => { t with resv := loseAll t.resv }) s).modCore c
      fun x => { x with tlb := [], ilines := [] }
  else s

/-- The new bindings with the routes through the block: further names move only when some route cannot be built without (R375). A route
that no binding lets the placer build keeps its entries (log 84). -/
def State.rebuild (s : State) (b : Nat) (core : Bool) (bs : List (Nat × Nat)) : State :=
  let s0 := s.flushBlock b
  let one := (s0.rebind b core bs).relay b
  let ms := s0.furtherMoves b core bs
  if one.2 || ms.isEmpty then one.1
  else
    let two := (s0.rebind b core (bs ++ ms)).relay b
    if two.2 then ms.foldl (fun s e => s.moveUnit b core e.1) two.1 else one.1

/-! ## What a failure takes (R376) -/

/-- A region is faulted, with a record of cause ECC and halt = 1 that names a route. -/
def State.faultRegion (s : State) (gid b cls idx route : Nat) : State :=
  match s.graph gid with
  | none => s
  | some g => (s.setGraph gid (some { g with bad := true })).regionNotice (some gid) b cls idx 0 cECC true route 0 0

/-- A tile loses its state: its cores are faulted, and what it held is gone. -/
def State.loseTile (s : State) (t : Nat) : State :=
  let s1 := (s.holders t).foldl (fun s g => s.faultRegion g (t / 32) 0 (t % 32) 0) s
  let s2 := s1.modTile t fun x => { cur := x.cur, ctxs := x.ctxs }
  let s3 := (List.range 4).foldl (fun s i => s.setTcore (4 * t + i) { run := .faulted cECC }) s2
  { s3 with mem := s3.mem.filter fun c => decide (c.1 < sramAddr t 0) || decide (sramAddr t 0 + 2 ^ 20 ≤ c.1) }

/-- A thread of a failed core ends as by quit with s[d] = 0x0B; its completions go to the fault queue (R317). -/
def State.loseThread (s : State) (g : Nat) (t : Thread) : State :=
  if t.run = .free then s else s.endThread g false 0x0B 0 0

/-- A core loses its threads and its state. -/
def State.loseCore (s : State) (c : Nat) : State :=
  ((List.range 8).foldl (fun s i => s.loseThread (8 * c + i) (s.thread (8 * c + i))) s).setCore c {}

/-- A name's unit loses its state. -/
def State.loseUnit (s : State) (b : Nat) (core : Bool) (n : Nat) : State :=
  if core then s.loseCore (16 * b + n) else s.loseTile (32 * b + n)

/-- The router of a site. -/
def siteRouter (b : Nat) (core : Bool) (p : Nat) : Nat := if core then coreSiteRouter b p else tileSiteRouter b p

/-- The units at a router that has died are absent from then on (R370): its memory port's node and its converter go, and with the request ports
their commands and transfers, without a completion (DESIGN CHOICE, log 136). -/
def State.loseUnits (s : State) (r : Nat) : State :=
  let s1 := match memAt r with
    | some m => s.setAgen m none
    | none => s
  let s2 := match convAt r with
    | some c => s1.setConv c none
    | none => s1
  match xqAt r with
  | none => s2
  | some b =>
    let s3 := s2.dev.xfers.foldl (fun s e => match e.2 with
      | none => s
      | some x => if x.blk = b then s.cutXfer e.1 x else s) s2
    (List.range 4).foldl (fun s i => s.modXport (4 * b + i) fun p => { p with arr := [] }) s3

/-- A dead router loses the flits that it buffers, but for notices, of which none is dropped (R309), and the regions of their routes are
faulted; the units at it are absent. -/
def State.loseRouter (s : State) (b r : Nat) : State :=
  let fs := (s.mesh.links.filter fun e => decide (e.1 / 20 = r)).flatMap fun e => e.2.map fun f => hRoute f.hdr
  let s1 := fs.eraseDups.foldl (fun s num => match s.routeOwner r num with
    | none => s
    | some g => s.faultRegion g b 6 0 num) s
  let links := Tab.mapVals [] (fun k l => if k / 20 = r then l.filter fun f => hKind f.hdr == 8 else l) s1.mesh.links
  State.loseUnits { s1 with mesh := { s1.mesh with links := links } } r

/-! ## The two ways (R374) -/

/-- Whether a name exists. -/
def State.nameExists (s : State) (b : Nat) (core : Bool) (n : Nat) : Bool := ((s.blk b).sites core).getD n 255 != 255

/-- The end of the placer's work: a name that has ceased takes its unit's state with it (R377). -/
def State.dropCeased (s : State) (b : Nat) (core : Bool) (bs : List (Nat × Nat)) : State :=
  match ceased bs with
  | none => s
  | some m => s.loseUnit b core m

/-- The bindings that retiring a name makes. -/
def State.newBinds (s : State) (b : Nat) (core : Bool) (n : Nat) (dead : Bool) : List (Nat × Nat) :=
  ((s.blk b).retire core (((s.blk b).sites core).getD n 255) dead).rebinds core n

/-- A site that no name is bound to, and that is not retired yet: an event names site p as 64 + p. -/
def State.freeSite (s : State) (b : Nat) (core : Bool) (name : Nat) : Option Nat :=
  let p := name - 64
  if 64 ≤ name ∧ p < (if core then 18 else 36) ∧ ((s.blk b).sites core).contains p = false ∧ (s.blk b).retired core p = false then some p
  else none

/-- A site without a name is retired: nothing moves, and routes go round its router when that is dead (R373, R374). -/
def State.retireFree (s : State) (b : Nat) (core : Bool) (p : Nat) (dead : Bool) : State :=
  let s1 := if dead then s.loseRouter b (siteRouter b core p) else s
  let s2 := s1.retireSite b core p dead
  if dead then ((s2.flushBlock b).relay b).1 else s2

/-- Whether another retirement of the block is under way: they are handled one at a time, in the order of their detection (R378, log 84). -/
def State.retireWaits (s : State) (b : Nat) (core : Bool) (name : Nat) : Bool :=
  ((s.blk b).moving.map fun x => x != (core, name)).getD false

/-- A planned retirement begins: the block and the regions in it come to a halt (R375, step 1). -/
def State.retireBegin (s : State) (b : Nat) (core : Bool) (name : Nat) : State :=
  s.modBlk b fun x => { x with moving := some (core, name) }

/-- Whether every thread of a block stands at a boundary without an open window, or at a bundle that waits at issue. -/
def State.blockStands (s : State) (b : Nat) : Bool :=
  s.threads.all fun e => unitBlk e.1 != b || e.2.ctx.pend.isEmpty || e.2.atIssue || e.2.run != .run

/-- A planned retirement: the block halts; once it stands, the name's state goes with it to its new site, and the halted units go on
(R375). -/
def execPlannedRetirement (blk : Nat) (core : Bool) (name : Nat) (s : State) : Out :=
  if s.retireWaits blk core name then .next s else
  match s.freeSite blk core name with
  | some p => .next (s.retireFree blk core p false)
  | none =>
    if s.nameExists blk core name = false then .next s
    else if (s.blk blk).moving = none then .next (s.retireBegin blk core name)
    else if s.blockStands blk = false then .next s
    else
      let bs := s.newBinds blk core name false
      let s1 := ((s.moveUnit blk core name).dropCeased blk core bs).modBlk blk fun x => { x with moving := none }
      .next ((s1.retireSite blk core (((s.blk blk).sites core).getD name 255) false).rebuild blk core bs)

/-- A failed retirement: no state moves (R376). One of the name whose planned retirement is under way takes that one's place. -/
def execFailedRetirement (blk : Nat) (core : Bool) (name : Nat) (dead : Bool) (s : State) : Out :=
  if s.retireWaits blk core name then .next s else
  match s.freeSite blk core name with
  | some p => .next (s.retireFree blk core p dead)
  | none =>
    if s.nameExists blk core name then
      let old := ((s.blk blk).sites core).getD name 255
      let bs := s.newBinds blk core name dead
      let s1 := s.loseUnit blk core name
      let s2 := if dead then s1.loseRouter blk (siteRouter blk core old) else s1
      let s3 := (if ceased bs = some name then s2 else s2.dropCeased blk core bs).modBlk blk fun x => { x with moving := none }
      .next ((s3.retireSite blk core old dead).rebuild blk core bs)
    else .next s

end Sys2Proof.Machine
end

