-- ==== Sys2Proof/Machine/Dispatch.lean ====
section
/-!
DEFINITION. The dispatch of instructions and events to their meanings: one arm per constructor of `Instr`.
-/
namespace Sys2Proof.Machine

/-- What instruction or event `i` does. -/
def exec (i : Instr) (s : State) : Host.Outcome State Fault Refusal :=
  match i with
  | .add d a b => Sys2Proof.Machine.execAdd d a b s
  | .sub d a b => Sys2Proof.Machine.execSub d a b s
  | .and d a b => Sys2Proof.Machine.execAnd d a b s
  | .or d a b => Sys2Proof.Machine.execOr d a b s
  | .xor d a b => Sys2Proof.Machine.execXor d a b s
  | .andn d a b => Sys2Proof.Machine.execAndn d a b s
  | .sll d a b => Sys2Proof.Machine.execSll d a b s
  | .srl d a b => Sys2Proof.Machine.execSrl d a b s
  | .sra d a b => Sys2Proof.Machine.execSra d a b s
  | .rol d a b => Sys2Proof.Machine.execRol d a b s
  | .ror d a b => Sys2Proof.Machine.execRor d a b s
  | .mul d a b => Sys2Proof.Machine.execMul d a b s
  | .mulh d a b => Sys2Proof.Machine.execMulh d a b s
  | .mulhu d a b => Sys2Proof.Machine.execMulhu d a b s
  | .mulhsu d a b => Sys2Proof.Machine.execMulhsu d a b s
  | .div d a b => Sys2Proof.Machine.execDiv d a b s
  | .divu d a b => Sys2Proof.Machine.execDivu d a b s
  | .rem d a b => Sys2Proof.Machine.execRem d a b s
  | .remu d a b => Sys2Proof.Machine.execRemu d a b s
  | .min d a b => Sys2Proof.Machine.execMin d a b s
  | .max d a b => Sys2Proof.Machine.execMax d a b s
  | .minu d a b => Sys2Proof.Machine.execMinu d a b s
  | .maxu d a b => Sys2Proof.Machine.execMaxu d a b s
  | .slt d a b => Sys2Proof.Machine.execSlt d a b s
  | .sltu d a b => Sys2Proof.Machine.execSltu d a b s
  | .seq d a b => Sys2Proof.Machine.execSeq d a b s
  | .sel d a b => Sys2Proof.Machine.execSel d a b s
  | .clz d a => Sys2Proof.Machine.execClz d a s
  | .ctz d a => Sys2Proof.Machine.execCtz d a s
  | .popc d a => Sys2Proof.Machine.execPopc d a s
  | .brev d a => Sys2Proof.Machine.execBrev d a s
  | .bswap d a => Sys2Proof.Machine.execBswap d a s
  | .sextB d a => Sys2Proof.Machine.execSextB d a s
  | .sextH d a => Sys2Proof.Machine.execSextH d a s
  | .sextW d a => Sys2Proof.Machine.execSextW d a s
  | .zextB d a => Sys2Proof.Machine.execZextB d a s
  | .zextH d a => Sys2Proof.Machine.execZextH d a s
  | .zextW d a => Sys2Proof.Machine.execZextW d a s
  | .addi d a imm => Sys2Proof.Machine.execAddi d a imm s
  | .andi d a imm => Sys2Proof.Machine.execAndi d a imm s
  | .ori d a imm => Sys2Proof.Machine.execOri d a imm s
  | .xori d a imm => Sys2Proof.Machine.execXori d a imm s
  | .slli d a sh ext => Sys2Proof.Machine.execSlli d a sh ext s
  | .srli d a sh ext => Sys2Proof.Machine.execSrli d a sh ext s
  | .srai d a sh ext => Sys2Proof.Machine.execSrai d a sh ext s
  | .roli d a sh ext => Sys2Proof.Machine.execRoli d a sh ext s
  | .slti d a imm => Sys2Proof.Machine.execSlti d a imm s
  | .sltiu d a imm => Sys2Proof.Machine.execSltiu d a imm s
  | .seqi d a imm => Sys2Proof.Machine.execSeqi d a imm s
  | .muli d a imm => Sys2Proof.Machine.execMuli d a imm s
  | .bext d a pos wm1 => Sys2Proof.Machine.execBext d a pos wm1 s
  | .bextu d a pos wm1 => Sys2Proof.Machine.execBextu d a pos wm1 s
  | .bins d a pos wm1 => Sys2Proof.Machine.execBins d a pos wm1 s
  | .lea d a b sh => Sys2Proof.Machine.execLea d a b sh s
  | .movi d imm => Sys2Proof.Machine.execMovi d imm s
  | .movt d a imm23 => Sys2Proof.Machine.execMovt d a imm23 s
  | .lui d off => Sys2Proof.Machine.execLui d off s
  | .addpc d off => Sys2Proof.Machine.execAddpc d off s
  | .addpg d off => Sys2Proof.Machine.execAddpg d off s
  | .beq a b off => Sys2Proof.Machine.execBeq a b off s
  | .bne a b off => Sys2Proof.Machine.execBne a b off s
  | .blt a b off => Sys2Proof.Machine.execBlt a b off s
  | .bge a b off => Sys2Proof.Machine.execBge a b off s
  | .bltu a b off => Sys2Proof.Machine.execBltu a b off s
  | .bgeu a b off => Sys2Proof.Machine.execBgeu a b off s
  | .jmp off => Sys2Proof.Machine.execJmp off s
  | .jal d off => Sys2Proof.Machine.execJal d off s
  | .jalr d a imm => Sys2Proof.Machine.execJalr d a imm s
  | .loop a off => Sys2Proof.Machine.execLoop a off s
  | .bany p off => Sys2Proof.Machine.execBany p off s
  | .bnone p off => Sys2Proof.Machine.execBnone p off s
  | .ldb d a imm => Sys2Proof.Machine.execLdb d a imm s
  | .ldbu d a imm => Sys2Proof.Machine.execLdbu d a imm s
  | .ldh d a imm => Sys2Proof.Machine.execLdh d a imm s
  | .ldhu d a imm => Sys2Proof.Machine.execLdhu d a imm s
  | .ldw d a imm => Sys2Proof.Machine.execLdw d a imm s
  | .ldwu d a imm => Sys2Proof.Machine.execLdwu d a imm s
  | .ldd d a imm => Sys2Proof.Machine.execLdd d a imm s
  | .stb d a imm => Sys2Proof.Machine.execStb d a imm s
  | .sth d a imm => Sys2Proof.Machine.execSth d a imm s
  | .stw d a imm => Sys2Proof.Machine.execStw d a imm s
  | .std d a imm => Sys2Proof.Machine.execStd d a imm s
  | .vld v a imm => Sys2Proof.Machine.execVld v a imm s
  | .vst v a imm => Sys2Proof.Machine.execVst v a imm s
  | .vgather v a o sh => Sys2Proof.Machine.execVgather v a o sh s
  | .vscatter v a o sh => Sys2Proof.Machine.execVscatter v a o sh s
  | .pf a imm => Sys2Proof.Machine.execPf a imm s
  | .acqL d a imm => Sys2Proof.Machine.execAcqL d a imm s
  | .relL d a imm => Sys2Proof.Machine.execRelL d a imm s
  | .amoAdd d a b w32 => Sys2Proof.Machine.execAmoAdd d a b w32 s
  | .amoSwap d a b w32 => Sys2Proof.Machine.execAmoSwap d a b w32 s
  | .amoCas d a b w32 => Sys2Proof.Machine.execAmoCas d a b w32 s
  | .amoMin d a b w32 uns => Sys2Proof.Machine.execAmoMin d a b w32 uns s
  | .amoMax d a b w32 uns => Sys2Proof.Machine.execAmoMax d a b w32 uns s
  | .amoAnd d a b w32 => Sys2Proof.Machine.execAmoAnd d a b w32 s
  | .amoOr d a b w32 => Sys2Proof.Machine.execAmoOr d a b w32 s
  | .amoXor d a b w32 => Sys2Proof.Machine.execAmoXor d a b w32 s
  | .waitR d => Sys2Proof.Machine.execWaitR d s
  | .redAdd a b w32 => Sys2Proof.Machine.execRedAdd a b w32 s
  | .redMin a b w32 uns => Sys2Proof.Machine.execRedMin a b w32 uns s
  | .redMax a b w32 uns => Sys2Proof.Machine.execRedMax a b w32 uns s
  | .redAnd a b w32 => Sys2Proof.Machine.execRedAnd a b w32 s
  | .redOr a b w32 => Sys2Proof.Machine.execRedOr a b w32 s
  | .redXor a b w32 => Sys2Proof.Machine.execRedXor a b w32 s
  | .redFaddW a b => Sys2Proof.Machine.execRedFaddW a b s
  | .fence sc => Sys2Proof.Machine.execFence sc s
  | .ldAcq d a imm => Sys2Proof.Machine.execLdAcq d a imm s
  | .stRel d a imm => Sys2Proof.Machine.execStRel d a imm s
  | .spawn d a q => Sys2Proof.Machine.execSpawn d a q s
  | .spawnT d a q => Sys2Proof.Machine.execSpawnT d a q s
  | .callat d a q => Sys2Proof.Machine.execCallat d a q s
  | .invoke d a q => Sys2Proof.Machine.execInvoke d a q s
  | .invokeW d a q => Sys2Proof.Machine.execInvokeW d a q s
  | .invokeT d a q => Sys2Proof.Machine.execInvokeT d a q s
  | .quit d a b => Sys2Proof.Machine.execQuit d a b s
  | .reply d a b => Sys2Proof.Machine.execReply d a b s
  | .recv d a imm => Sys2Proof.Machine.execRecv d a imm s
  | .abq d => Sys2Proof.Machine.execAbq d s
  | .xfer d q port => Sys2Proof.Machine.execXfer d q port s
  | .pcomp d q tile => Sys2Proof.Machine.execPcomp d q tile s
  | .syncSet a b => Sys2Proof.Machine.execSyncSet a b s
  | .syncArrive d a b => Sys2Proof.Machine.execSyncArrive d a b s
  | .syncWait d a b => Sys2Proof.Machine.execSyncWait d a b s
  | .fetcht d job ext => Sys2Proof.Machine.execFetcht d job ext s
  | .fetchtLd a job ext => Sys2Proof.Machine.execFetchtLd a job ext s
  | .fetchtQ d job ext => Sys2Proof.Machine.execFetchtQ d job ext s
  | .rlq d a b => Sys2Proof.Machine.execRlq d a b s
  | .acpy a b => Sys2Proof.Machine.execAcpy a b s
  | .srecv v port => Sys2Proof.Machine.execSrecv v port s
  | .ssend v b et => Sys2Proof.Machine.execSsend v b et s
  | .smerge v va vb k => Sys2Proof.Machine.execSmerge v va vb k s
  | .ssplit v va w => Sys2Proof.Machine.execSsplit v va w s
  | .sstop level => Sys2Proof.Machine.execSstop level s
  | .ssteer a => Sys2Proof.Machine.execSsteer a s
  | .speek d port => Sys2Proof.Machine.execSpeek d port s
  | .spred p port => Sys2Proof.Machine.execSpred p port s
  | .rqpush ring v b => Sys2Proof.Machine.execRqpush ring v b s
  | .rqpop v ring b => Sys2Proof.Machine.execRqpop v ring b s
  | .esc d v node => Sys2Proof.Machine.execEsc d v node s
  | .escO d v node => Sys2Proof.Machine.execEscO d v node s
  | .ctxsw n => Sys2Proof.Machine.execCtxsw n s
  | .mgPp => Sys2Proof.Machine.execMgPp s
  | .mgPe => Sys2Proof.Machine.execMgPe s
  | .mgEp => Sys2Proof.Machine.execMgEp s
  | .mgEe => Sys2Proof.Machine.execMgEe s
  | .mgGp => Sys2Proof.Machine.execMgGp s
  | .mgGe => Sys2Proof.Machine.execMgGe s
  | .mzero => Sys2Proof.Machine.execMzero s
  | .mdrain a v => Sys2Proof.Machine.execMdrain a v s
  | .mspx a b => Sys2Proof.Machine.execMspx a b s
  | .mspxN a b => Sys2Proof.Machine.execMspxN a b s
  | .mdset imm => Sys2Proof.Machine.execMdset imm s
  | .mdadv d => Sys2Proof.Machine.execMdadv d s
  | .mdadvR d => Sys2Proof.Machine.execMdadvR d s
  | .trap n => Sys2Proof.Machine.execTrap n s
  | .eret => Sys2Proof.Machine.execEret s
  | .uret => Sys2Proof.Machine.execUret s
  | .csrr d num => Sys2Proof.Machine.execCsrr d num s
  | .csrw num a => Sys2Proof.Machine.execCsrw num a s
  | .wfi => Sys2Proof.Machine.execWfi s
  | .wfit a => Sys2Proof.Machine.execWfit a s
  | .tlbi sc a b => Sys2Proof.Machine.execTlbi sc a b s
  | .icinv sc a b => Sys2Proof.Machine.execIcinv sc a b s
  | .ctxSave d a imm => Sys2Proof.Machine.execCtxSave d a imm s
  | .ctxLoad d a imm => Sys2Proof.Machine.execCtxLoad d a imm s
  | .preemptHalt d a => Sys2Proof.Machine.execPreemptHalt d a s
  | .preemptTrap d a => Sys2Proof.Machine.execPreemptTrap d a s
  | .preemptResume d a => Sys2Proof.Machine.execPreemptResume d a s
  | .halt => Sys2Proof.Machine.execHalt s
  | .vnop => Sys2Proof.Machine.execVnop s
  | .vadd p d a b ty => Sys2Proof.Machine.execVadd p d a b ty s
  | .vsub p d a b ty => Sys2Proof.Machine.execVsub p d a b ty s
  | .vmul p d a b ty => Sys2Proof.Machine.execVmul p d a b ty s
  | .vfma p d a b ty => Sys2Proof.Machine.execVfma p d a b ty s
  | .vmin p d a b ty => Sys2Proof.Machine.execVmin p d a b ty s
  | .vmax p d a b ty => Sys2Proof.Machine.execVmax p d a b ty s
  | .vabs p d a ty => Sys2Proof.Machine.execVabs p d a ty s
  | .vneg p d a ty => Sys2Proof.Machine.execVneg p d a ty s
  | .vdiv p d a b ty => Sys2Proof.Machine.execVdiv p d a b ty s
  | .vsqrt p d a ty => Sys2Proof.Machine.execVsqrt p d a ty s
  | .vrsqrt p d a ty => Sys2Proof.Machine.execVrsqrt p d a ty s
  | .vrcp p d a ty => Sys2Proof.Machine.execVrcp p d a ty s
  | .vexp2 p d a ty => Sys2Proof.Machine.execVexp2 p d a ty s
  | .vlog2 p d a ty => Sys2Proof.Machine.execVlog2 p d a ty s
  | .vcmpEq p pd a b ty => Sys2Proof.Machine.execVcmpEq p pd a b ty s
  | .vcmpNe p pd a b ty => Sys2Proof.Machine.execVcmpNe p pd a b ty s
  | .vcmpLt p pd a b ty => Sys2Proof.Machine.execVcmpLt p pd a b ty s
  | .vcmpLe p pd a b ty => Sys2Proof.Machine.execVcmpLe p pd a b ty s
  | .vcmpUn p pd a b ty => Sys2Proof.Machine.execVcmpUn p pd a b ty s
  | .vsel p d a b => Sys2Proof.Machine.execVsel p d a b s
  | .vand p d a b => Sys2Proof.Machine.execVand p d a b s
  | .vor p d a b => Sys2Proof.Machine.execVor p d a b s
  | .vxor p d a b => Sys2Proof.Machine.execVxor p d a b s
  | .vshl p d a b ty => Sys2Proof.Machine.execVshl p d a b ty s
  | .vshr p d a b ty => Sys2Proof.Machine.execVshr p d a b ty s
  | .vsra p d a b ty => Sys2Proof.Machine.execVsra p d a b ty s
  | .vcvt p d a src dst rtz => Sys2Proof.Machine.execVcvt p d a src dst rtz s
  | .vpack d a b f => Sys2Proof.Machine.execVpack d a b f s
  | .vunpk p d a f => Sys2Proof.Machine.execVunpk p d a f s
  | .vredSum p d a ty => Sys2Proof.Machine.execVredSum p d a ty s
  | .vredMin p d a ty => Sys2Proof.Machine.execVredMin p d a ty s
  | .vredMax p d a ty => Sys2Proof.Machine.execVredMax p d a ty s
  | .vperm p d a b => Sys2Proof.Machine.execVperm p d a b s
  | .vbcast p d ty r => Sys2Proof.Machine.execVbcast p d ty r s
  | .vmovs p d a dir lane ty r => Sys2Proof.Machine.execVmovs p d a dir lane ty r s
  | .vscale p d a b ty => Sys2Proof.Machine.execVscale p d a b ty s
  | .vquantS p d a b fmt => Sys2Proof.Machine.execVquantS p d a b fmt s
  | .vquant p d a b fmt => Sys2Proof.Machine.execVquant p d a b fmt s
  | .vclass p d a ty => Sys2Proof.Machine.execVclass p d a ty s
  | .vgstep d a b => Sys2Proof.Machine.execVgstep d a b s
  | .vgmask p d a b => Sys2Proof.Machine.execVgmask p d a b s
  | .undBundle slotB => Sys2Proof.Machine.execUndBundle slotB s
  | .tlbWalk blk j => Sys2Proof.Machine.execTlbWalk blk j s
  | .resultCommit u => Sys2Proof.Machine.execResultCommit u s
  | .windowForcedClose g => Sys2Proof.Machine.execWindowForcedClose g s
  | .completionDiversion g => Sys2Proof.Machine.execCompletionDiversion g s
  | .preemptHaltTaken u => Sys2Proof.Machine.execPreemptHaltTaken u s
  | .threadWake u => Sys2Proof.Machine.execThreadWake u s
  | .wfitDeadline g => Sys2Proof.Machine.execWfitDeadline g s
  | .storePerform g => Sys2Proof.Machine.execStorePerform g s
  | .remoteAck g delivered port => Sys2Proof.Machine.execRemoteAck g delivered port s
  | .combineWindowExpiry blk j => Sys2Proof.Machine.execCombineWindowExpiry blk j s
  | .recordArrival f => Sys2Proof.Machine.execRecordArrival f s
  | .rotundaAdmit f => Sys2Proof.Machine.execRotundaAdmit f s
  | .recordPromotion f q => Sys2Proof.Machine.execRecordPromotion f q s
  | .taskConflictAbort g => Sys2Proof.Machine.execTaskConflictAbort g s
  | .taskPlainRestart g => Sys2Proof.Machine.execTaskPlainRestart g s
  | .taskCommit blk => Sys2Proof.Machine.execTaskCommit blk s
  | .commandEntry blk port => Sys2Proof.Machine.execCommandEntry blk port s
  | .busyRetry blk port => Sys2Proof.Machine.execBusyRetry blk port s
  | .gateOpen blk port => Sys2Proof.Machine.execGateOpen blk port s
  | .transferStart blk port => Sys2Proof.Machine.execTransferStart blk port s
  | .transferWrite id => Sys2Proof.Machine.execTransferWrite id s
  | .rangeLockRelease id j => Sys2Proof.Machine.execRangeLockRelease id j s
  | .transferCompletion id => Sys2Proof.Machine.execTransferCompletion id s
  | .viaTransferFinish id => Sys2Proof.Machine.execViaTransferFinish id s
  | .syncUpdateCycle pa => Sys2Proof.Machine.execSyncUpdateCycle pa s
  | .syncCarryEval pa => Sys2Proof.Machine.execSyncCarryEval pa s
  | .flitForward r dir vc => Sys2Proof.Machine.execFlitForward r dir vc s
  | .portTokenArrival k port => Sys2Proof.Machine.execPortTokenArrival k port s
  | .streamerSend k => Sys2Proof.Machine.execStreamerSend k s
  | .ringPlace tile ring => Sys2Proof.Machine.execRingPlace tile ring s
  | .placingAreaWrite tile => Sys2Proof.Machine.execPlacingAreaWrite tile s
  | .inboundStreamerWrite tile => Sys2Proof.Machine.execInboundStreamerWrite tile s
  | .converterFiring c => Sys2Proof.Machine.execConverterFiring c s
  | .adderPair port => Sys2Proof.Machine.execAdderPair port s
  | .agenLoadToken m => Sys2Proof.Machine.execAgenLoadToken m s
  | .agenStoreToken m => Sys2Proof.Machine.execAgenStoreToken m s
  | .doneArrival m => Sys2Proof.Machine.execDoneArrival m s
  | .matrixOpStart tile => Sys2Proof.Machine.execMatrixOpStart tile s
  | .matrixOpEnd tile => Sys2Proof.Machine.execMatrixOpEnd tile s
  | .stallLimit p => Sys2Proof.Machine.execStallLimit p s
  | .contextSwitch tile => Sys2Proof.Machine.execContextSwitch tile s
  | .configurationFlit tile => Sys2Proof.Machine.execConfigurationFlit tile s
  | .spliceSwitch tile => Sys2Proof.Machine.execSpliceSwitch tile s
  | .spliceMarker tile => Sys2Proof.Machine.execSpliceMarker tile s
  | .escapeReentry tile node => Sys2Proof.Machine.execEscapeReentry tile node s
  | .graphEnd gid => Sys2Proof.Machine.execGraphEnd gid s
  | .faultNotice f => Sys2Proof.Machine.execFaultNotice f s
  | .faultRecordWrite f => Sys2Proof.Machine.execFaultRecordWrite f s
  | .futureResolve f k => Sys2Proof.Machine.execFutureResolve f k s
  | .compileStart blk => Sys2Proof.Machine.execCompileStart blk s
  | .compileEnd blk => Sys2Proof.Machine.execCompileEnd blk s
  | .mailboxWrite core => Sys2Proof.Machine.execMailboxWrite core s
  | .invokeRetry j => Sys2Proof.Machine.execInvokeRetry j s
  | .invokeTimeout j => Sys2Proof.Machine.execInvokeTimeout j s
  | .replyResend j => Sys2Proof.Machine.execReplyResend j s
  | .answerFrame port => Sys2Proof.Machine.execAnswerFrame port s
  | .packetReceive port => Sys2Proof.Machine.execPacketReceive port s
  | .frameReceive port frame => Sys2Proof.Machine.execFrameReceive port frame s
  | .retryRequest port => Sys2Proof.Machine.execRetryRequest port s
  | .idleFrame port => Sys2Proof.Machine.execIdleFrame port s
  | .frameForward port => Sys2Proof.Machine.execFrameForward port s
  | .portRetrain port => Sys2Proof.Machine.execPortRetrain port s
  | .portDown port => Sys2Proof.Machine.execPortDown port s
  | .downPortRetrain port => Sys2Proof.Machine.execDownPortRetrain port s
  | .campanileSlew blk forward => Sys2Proof.Machine.execCampanileSlew blk forward s
  | .clockStretch blk pct => Sys2Proof.Machine.execClockStretch blk pct s
  | .powerGate blk => Sys2Proof.Machine.execPowerGate blk s
  | .blockWake blk => Sys2Proof.Machine.execBlockWake blk s
  | .bucketRefill => Sys2Proof.Machine.execBucketRefill s
  | .effAdjust sens => Sys2Proof.Machine.execEffAdjust sens s
  | .thermalShutdown field => Sys2Proof.Machine.execThermalShutdown field s
  | .coldReset => Sys2Proof.Machine.execColdReset s
  | .phaseComplete ok => Sys2Proof.Machine.execPhaseComplete ok s
  | .pcieHotReset port => Sys2Proof.Machine.execPcieHotReset port s
  | .postingWrite port q whole ide data => Sys2Proof.Machine.execPostingWrite port q whole ide data s
  | .spillDraw q => Sys2Proof.Machine.execSpillDraw q s
  | .replyRingWrite j => Sys2Proof.Machine.execReplyRingWrite j s
  | .replyRingRetry j => Sys2Proof.Machine.execReplyRingRetry j s
  | .bar2Read port off n ide => Sys2Proof.Machine.execBar2Read port off n ide s
  | .bar2Write port off ide data => Sys2Proof.Machine.execBar2Write port off ide data s
  | .setWrite port => Sys2Proof.Machine.execSetWrite port s
  | .fqbaseWrite f val => Sys2Proof.Machine.execFqbaseWrite f val s
  | .watchConfigWrite log val => Sys2Proof.Machine.execWatchConfigWrite log val s
  | .registerWrite host addr val => Sys2Proof.Machine.execRegisterWrite host addr val s
  | .graphLoad => Sys2Proof.Machine.execGraphLoad s
  | .graphUnload => Sys2Proof.Machine.execGraphUnload s
  | .verifyImage => Sys2Proof.Machine.execVerifyImage s
  | .attestationReport => Sys2Proof.Machine.execAttestationReport s
  | .jobStart => Sys2Proof.Machine.execJobStart s
  | .jobEnd => Sys2Proof.Machine.execJobEnd s
  | .plannedRetirement blk core name => Sys2Proof.Machine.execPlannedRetirement blk core name s
  | .failedRetirement blk core name dead => Sys2Proof.Machine.execFailedRetirement blk core name dead s
  | .supplyDroopEnd blk => Sys2Proof.Machine.execSupplyDroopEnd blk s
  | .retrainComplete port lanes => Sys2Proof.Machine.execRetrainComplete port lanes s
  | .spdmRequest port active => Sys2Proof.Machine.execSpdmRequest port active s

end Sys2Proof.Machine
end

