-- ==== Sys2Proof/Machine/Soft.lean ====
section
/-!
DEFINITION. Uncorrectable soft errors (R2): what a bundle or an event does when data that it consumes hold one. The thread, tile core,
node or transfer that consumes them meets cause ECC, precisely, and passes nothing on (R90, R134, R185, R192, R198, R277, R304, R351).
Which data an error strikes comes with the move (log 86).
-/
namespace Sys2Proof.Machine

/-! ## Bundles -/

/-- Whether a form reads no register of the unit's files; or s0, s0, s0 is the slot A of a bundle without one. -/
def Instr.fileless : Instr → Bool
  | .or _ a b => a == 0 && b == 0
  | .movi _ _ | .lui _ _ | .addpc _ _ | .addpg _ _ | .jmp _ | .jal _ _ | .waitR _ | .fence _ | .abq _ | .fetcht _ _ _ | .fetchtQ _ _ _
  | .srecv _ _ | .sstop _ | .speek _ _ | .spred _ _ | .rqpop _ _ _ | .ctxsw _ | .mgPp | .mgPe | .mgEp | .mgEe | .mgGp | .mgGe | .mzero
  | .mdset _ | .mdadv _ | .mdadvR _ | .trap _ | .eret | .uret | .csrr _ _ | .wfi | .halt | .vnop => true
  | _ => false

/-- Whether a slot of a bundle reads the register files. -/
def Bundle.readsFile (bu : Bundle) (slotB : Bool) : Bool :=
  if slotB then
    match bu.b with
    | none => false
    | some i => !Instr.fileless i
  else !Instr.fileless bu.a

/-- A bundle whose slot reads a struck register raises ECC for that slot (R36, R37). -/
def State.struckFile (s : State) (slotB : Bool) : Out := s.raise cECC 0 slotB

/-- A fault on fetching the bundle at pc: that of a trap handler's first bundle halts the thread (R38). -/
def State.fetchFault (s : State) (cause : BitVec 8) (ev : Word) : Out :=
  match s.cur with
  | .thread g => if (s.thread g).entry then .next (s.handlerHalt g).taken else s.xlFault cause ev
  | .core _ => s.xlFault cause ev

/-- A result that holds datum `k` of its form's data commits no value and carries ECC, with the address (R37, R134, R135); that of an access
of another device carries it when it arrives. -/
def Pending.strike (k : Nat) (ea : Word) (p : Pending) : Pending :=
  let holds := match p.dest with
    | .vreg _ m => m.getLsbD (k % 8)
    | _ => true
  if p.fly != .preempt && p.fault.isNone && holds then { p with fault := some (cECC, ea) } else p

/-- Strikes the results that a bundle has entered since the first `n`. -/
def State.strikeNew (s : State) (n k : Nat) (ea : Word) : State :=
  s.setCtx { s.ctx with pend := s.ctx.pend.take n ++ (s.ctx.pend.drop n).map (Pending.strike k ea) }

/-- A load whose data are struck: its result arrives with the fault (R134). -/
def State.struckLoad (s : State) (k : Nat) (ea : Word) (o : Out) : Out :=
  match o with
  | .next s1 => .next (s1.strikeNew s.ctx.pend.length k ea)
  | .fault r => .fault r
  | .refused r => .refused r

/-- An atomic whose old value is struck writes nothing here, and its result carries the fault (R134, R135). -/
def State.struckAmo (s : State) (k : Nat) (d a : SReg) (i : Instr) : Out :=
  s.plainly fun s =>
    match exec i s with
    | .next s1 =>
      if s1.ctx.pend.length > s.ctx.pend.length ∧ (s1.ctx.pend.drop s.ctx.pend.length).all Pending.ready = true then
        .next ((s.longS d 0).strikeNew s.ctx.pend.length k (s.rS a))
      else .next (s1.strikeNew s.ctx.pend.length k (s.rS a))
    | .fault r => .fault r
    | .refused r => .refused r

/-- A form that takes its data at issue and finds them struck: a precise trap, or a halt of its core, in place of its effect. -/
def State.struckForm (s : State) (ea : Word) (o : Out) : Out :=
  match o with
  | .next s1 => if s1.iss.fate = .issued then s.raise cECC ea else .next s1
  | .fault r => .fault r
  | .refused r => .refused r

/-- The compile that a unit has queued fails at word `k` of the metadata read so far (R351, R364). -/
def Compile.struck (k : Nat) (c : Compile) : Compile :=
  match c.va with
  | none => c
  | some va =>
    if c.scan.words = [] ∨ c.fail.isSome = true then c
    else { c with mem := none, asked := false, fail := some (cECC, wd (va + 4 * (k % c.scan.words.length))) }

/-- Strikes the metadata of a compile that `o` queues in block `b`. -/
def State.struckMeta (s : State) (b k : Nat) (o : Out) : Out :=
  match o with
  | .next s1 =>
    let n := (s.blk b).comps.length
    if (s1.blk b).comps.length > n then
      .next (s1.modBlk b fun x => { x with comps := x.comps.take n ++ (x.comps.drop n).map (Compile.struck k) })
    else .next s1
  | .fault r => .fault r
  | .refused r => .refused r

/-- Slot A when datum `k` of what it takes from memory, tile SRAM or a queue is struck. -/
def State.struckSlot (s : State) (k : Nat) (i : Instr) : Out :=
  match i with
  | .ldb _ a imm | .ldbu _ a imm | .ldh _ a imm | .ldhu _ a imm | .ldw _ a imm | .ldwu _ a imm | .ldd _ a imm | .vld _ a imm
  | .acqL _ a imm | .ldAcq _ a imm => s.struckLoad k (s.ea a imm) (exec i s)
  | .vgather _ a o sh => s.struckLoad k ((laneEas (s.rS a) (s.rV o) sh.toNat).getD (k % 8) 0) (exec i s)
  | .amoAdd d a _ _ | .amoSwap d a _ _ | .amoCas d a _ _ | .amoMin d a _ _ _ | .amoMax d a _ _ _ | .amoAnd d a _ _ | .amoOr d a _ _
  | .amoXor d a _ _ => s.struckAmo k d a i
  | .ctxLoad _ a imm => s.struckForm (s.ea a imm + wd (k % 2048)) (exec i s)
  | .xfer _ q _ => if cmdPb ((s.quad q).getD 0 0) then s.struckForm ((s.quad q).getD 3 0) (exec i s) else exec i s
  | .pcomp _ _ _ => s.struckMeta s.curBlk k (exec i s)
  | .recv _ a imm => s.struckForm (s.ea a imm) (exec i s)
  | .syncWait _ a _ | .syncArrive _ a _ => s.struckForm (s.rS a) (exec i s)
  | .srecv _ _ | .speek _ _ | .spred _ _ | .rqpop _ _ _ => s.struckForm 0 (exec i s)
  | i => exec i s

/-! ## Loads that miss L1, and host memory that the link has lost (R134, R366) -/

/-- The addresses and bytes that a plain load reads, and how its value is taken from them. -/
def State.loadPlaces (s : State) (i : Instr) : List (Word × Nat) × Arrive :=
  match i with
  | .ldb _ a imm => ([(s.ea a imm, 1)], .scalar 1 true)
  | .ldbu _ a imm => ([(s.ea a imm, 1)], .scalar 1 false)
  | .ldh _ a imm => ([(s.ea a imm, 2)], .scalar 2 true)
  | .ldhu _ a imm => ([(s.ea a imm, 2)], .scalar 2 false)
  | .ldw _ a imm => ([(s.ea a imm, 4)], .scalar 4 true)
  | .ldwu _ a imm => ([(s.ea a imm, 4)], .scalar 4 false)
  | .ldd _ a imm => ([(s.ea a imm, 8)], .scalar 8 false)
  | .vld _ a imm => ([(s.ea a imm, 32)], .whole)
  | .vgather _ a o sh => ((laneEas (s.rS a) (s.rV o) sh.toNat).map fun ea => (ea, 4), .lanes [] false)
  | _ => ([], .whole)

/-- The places of a load's accesses; none when one of them does not pass. -/
def State.placesOf (s : State) (g : Nat) : List (Word × Nat) → Option (List (Word × Phys × Nat))
  | [] => some []
  | (ea, n) :: l =>
    match s.check g ea n n (s.need g true false .any) true with
    | .ok p => (s.placesOf g l).map fun ps => (ea, p, n) :: ps
    | .miss | .bad _ => none

/-- Makes the one result that a bundle has entered since the first `n` wait for its token. -/
def Ctx.missed (c : Ctx) (n tok : Nat) (a : Arrive) : Ctx :=
  { c with pend := c.pend.take n ++ (c.pend.drop n).map fun p => { p with ready := false, val := 0, tok := tok, fly := .load a true } }

/-- A plain load of DRAM that misses L1 goes through the combining switch of its block: its thread performs no later access before it
(R333, R366). -/
def State.missLoad (s : State) (g : Nat) (i : Instr) (s1 : State) : State :=
  let n := s.ctx.pend.length
  match s.placesOf g (s.loadPlaces i).1 with
  | some [(ea, p, k)] =>
    if (s1.thread g).spec = false ∧ (s1.ctx.pend.drop n).all (fun p => p.ready && p.fault.isNone) = true ∧
        (s1.ctx.pend.drop n).length = 1 ∧ p.home = .dram ∧ forward (s.thread g).sb p k = .mem then
      ({ s1.setCtx (s1.ctx.missed n s1.fresh (s.loadPlaces i).2) with fresh := s1.fresh + 1 }).joinLoad (unitBlk g)
        { who := .inl g, tok := s1.fresh, va := ea.toNat, phys := p, n := k }
    else s1
  | _ => s1

/-- Slot A when its load misses L1, or the lanes of its gather do. -/
def State.missSlot (s : State) (i : Instr) : Out :=
  match i with
  | .vgather v a o sh => s.vgather v a o sh true
  | i =>
    match s.cur, exec i s with
    | .thread g, .next s1 => .next (if s1.iss.fate = .issued then s.missLoad g i s1 else s1)
    | _, o => o

/-- A load or ld.acq of host memory whose link is lost: its result carries LINK_LOST and the port; one that takes its bytes from the
thread's own store buffer makes no remote access (R114, R134). -/
def State.lostSlot (s : State) (port : BitVec 4) (i : Instr) : Out :=
  let ls := match i with
    | .ldAcq _ a imm => [(s.ea a imm, 8)]
    | i => (s.loadPlaces i).1
  match s.cur, exec i s with
  | .thread g, .next s1 =>
    let n := s.ctx.pend.length
    let host := (s.placesOf g ls).getD [] |>.any fun e => e.2.1.home == .host && forward (s.thread g).sb e.2.1 e.2.2 == .mem
    .next (if host && s1.iss.fate == .issued then
        s1.setCtx { s1.ctx with pend := s1.ctx.pend.take n ++ (s1.ctx.pend.drop n).map fun p =>
          { p with fault := p.fault.or (some (cLINK_LOST, port.setWidth 64)) } }
      else s1)
  | _, o => o

/-- Slot A of a bundle, with what befalls the data of its move. -/
def State.slotA (s : State) (e : Soft) (i : Instr) : Out :=
  match e with
  | .data k => s.struckSlot k i
  | .miss => s.missSlot i
  | .lost port => s.lostSlot port i
  | .clean | .fetch | .file _ | .operand _ => exec i s

/-! ## Transfers (R195, R198, R351) -/

/-- The address of the source data that a transfer takes next; 0 for tile SRAM, which has no virtual address. -/
def Xfer.sourceVa (x : Xfer) (c : Cmd) : Nat :=
  match c.src with
  | .tile _ _ => 0
  | .mem _ =>
    if c.via ≠ 0 then (c.src.at_ + 32 * x.sent)
    else if (c.kind = 2 ∨ c.kind = 3) ∧ x.list = [] then c.list + 8 * (x.pos / c.len)
    else placeAt (c.srcAt (x.pos / c.len) ((x.list.head?.map sgn).getD 0) + (x.pos % c.len : Nat))

/-- A write event or token whose source is struck ends its transfer, before anything is sent to another device. -/
def State.struckTransfer (s : State) (id : Nat) (o : Out) : Out :=
  match s.xfer id, o with
  | some x, .next s1 =>
    (match x.cmd, s1.xfer id with
      | some c, some y =>
        if c.kind ≠ 6 ∧ (c.kind ≠ 4 ∨ x.list ≠ y.list) ∧ x.far = .idle ∧
            ((x.pos, x.sent, x.list) ≠ (y.pos, y.sent, y.list) ∨ y.far = .writing) then
          .next (s.endXfer id x cECC (x.sourceVa c))
        else .next s1
      | _, _ => .next s1)
  | _, o => o

/-- A gate word that is struck ends its transfer. -/
def State.struckGate (s : State) (xp : Nat) (o : Out) : Out :=
  match s.portXfer xp with
  | none => o
  | some (id, x, c) =>
    if x.phase = .queued ∧ c.gate = true then
      match c.gsync with
      | none => o
      | some (.tile _ _) => .next (s.endXfer id x cECC 0)
      | some (.mem va) =>
        (match s.xportXl xp va false with
          | .ok _ => .next (s.endXfer id x cECC va)
          | .miss | .bad _ => o)
    else o

/-- A command whose parameter block is struck is discarded, with a record (R195). -/
def State.struckCmd (s : State) (xp : Nat) (find : List Arriving → Option Nat) (o : Out) : Out :=
  let arr := (s.xport xp).arr
  match find arr, o with
  | some i, .next s1 =>
    (match arr[i]? with
      | none => .next s1
      | some a =>
        let va := (a.w.getD 3 0).toNat
        if cmdPb (a.w.getD 0 0) = true ∧ headOk a.w = true ∧ (s1.xport xp).arr ≠ arr then
          (match s.xportXl xp va false with
            | .ok _ => .next (s.discardCmd xp i a cECC va)
            | .miss | .bad _ => .next s1)
        else .next s1)
  | _, o => o

/-! ## Tiles (R90, R185, R192) -/

/-- A token that arrives struck at a tile's consumer is discarded, with a record (R90); that of a via transfer ends the transfer
(R198). -/
def State.struckInbox (s : State) (t : Nat) (q : Consumer → Bool) : Out :=
  match s.inboxFor t q with
  | none => .next s
  | some (i, _, f) => .next ((s.dropInbox t i).badFlit (s.tileRouter t) f)

/-- A token of a via transfer that arrives struck ends the transfer (R198). -/
def State.struckVia (s : State) (t : Nat) (o : Out) : Out :=
  match s.inboxFor t Consumer.isSram with
  | none => o
  | some (_, _, f) =>
    match ((s.tile t).viaFor (hRoute f.hdr)).bind fun v => (s.xfer v.1).map fun x => (v.1, x) with
    | none => o
    | some (id, x) => if x.xst ≠ 0 then o else .next (s.endXfer id x cECC 0)

/-- A matrix operation halts its core with ECC when a word that it reads is struck; a gang-issue form has added the K blocks before
the struck one (R185). The others leave nothing of their bundle done (R192): a drain meets the ECC before its first token. -/
def State.struckOp (s : State) (t k : Nat) (m : MOp) (began : Nat) : State :=
  match m.kind with
  | .mg =>
    if s.tileCyc t < began + mgTime m.md then s
    else (s.runGang t m (k % mdNb m.md)).haltOp t m cECC
  | .mzero => s.endOp t m began
  | .acpy _ _ => if s.tileCyc t < began + 64 then s else s.haltOp t m cECC
  | .mdrain arg _ _ =>
    if m.sent ≠ 0 ∨ m.sent ≥ drainTokens arg ∨ (s.tcore m.core).run.isFaulted = true ∨ s.tileCyc t < began + 2 * (m.sent + 1) then
      s.endOp t m began
    else s.haltOp t m cECC
  | .mspx _ port _ =>
    if m.scan.done = false ∧ s.portHead m.core port = none then s.endOp t m began
    else if m.scan.done = true ∧ (m.sp = .fresh ∨ m.sp = .waitc) then s
    else s.haltOp t m cECC

/-- The running operation of a matrix queue, with a struck word. -/
def State.struckMatrix (s : State) (t k : Nat) : Out :=
  match (s.tile t).mq.head? with
  | none => .next s
  | some m =>
    match m.began with
    | none => .next s
    | some c => .next (s.struckOp t k m c)

/-! ## Nodes (R277, R308) -/

/-- A load node whose memory words are struck, or a store node whose token is, stops. -/
def State.struckAgen (s : State) (m : Nat) (o : Out) : Out :=
  match s.agen m, o with
  | some a, .next s1 =>
    (match s1.agen m with
      | none => .next s1
      | some b =>
        if a.elem = b.elem ∨ (a.store = true ∧ (a.inq.head?.map Flit.isMarker).getD false = true) then .next s1
        else .next (s.stopAgen m a cECC (if a.store then 0 else a.addr a.part.length)))
  | _, o => o

/-- A converter that takes a struck token halts. -/
def State.struckConv (s : State) (c : Nat) (o : Out) : Out :=
  match s.conv c with
  | none => o
  | some x =>
    match x.outq, x.inq with
    | [], f :: _ =>
      if x.halted || f.isMarker then o else .next (s.haltConv c { x with count := x.count + 1 } cECC)
    | _, _ => o

/-- An adder element that takes a struck token halts. -/
def State.struckAdder (s : State) (port : Nat) (o : Out) : Out :=
  match s.adder port with
  | none => o
  | some a =>
    if (s.port port).waitq.length ≥ 64 then o else .next (s.haltAdder port a cECC)

/-- A flit that reaches a router struck is discarded, with a record (R90). -/
def State.struckFlit (s : State) (r : Nat) (dir : Dir) (vc : Nat) : Out :=
  match s.link r dir vc with
  | [] => .next s
  | f :: l => if s.routerDead r then .next s else .next ((s.setLink r dir vc l).badFlit r f)

/-- A configuration flit that arrives struck is discarded, and its load fails (R238). -/
def State.struckCfg (s : State) (t : Nat) : Out :=
  match (s.tile t).cfg with
  | [] => .next s
  | f :: l => .next ((s.modTile t fun y => { y with cfg := l }).badCfg t f)

/-! ## Walks and combining windows (R300, R366) -/

/-- A walk that reads a struck table entry ends without a leaf, and who waits for it meets ECC (R2, R304). -/
def State.struckWalk (s : State) (b i : Nat) : Out :=
  match (s.blk b).walks[i]? with
  | none => .next s
  | some w =>
    if i ≥ 32 then .next s
    else .next (w.who.foldl (fun s who => s.walkFailed w .struck who) (s.modBlk b fun x => { x with walks := x.walks.eraseIdx i }))

/-- A member of a load window gets ECC. -/
def State.strikeMember (s : State) (l : LoadMember) : State :=
  match l.who with
  | .inl g => s.pendDone g l.tok 0 (some (cECC, wd l.va))
  | .inr m =>
    match s.agen m with
    | none => s
    | some a => if a.far = .reading ∧ (a.addr a.part.length).toNat = l.va then s.stopAgen m a cECC (wd l.va) else s

/-- A window of reductions whose word is struck, or a reduction at its home: nothing is written, and each member's thread meets ECC at its
next bundle (R2, log 86). -/
def State.strikeRed (s : State) (g : Nat) : State :=
  match (s.thread g).sb with
  | [] => s
  | e :: _ => (s.popStore g).modThread g fun t =>
      { t with ctx := { t.ctx with pend := t.ctx.pend ++ [{ dest := .sreg 0, left := 0, ready := true, val := 0
                                                            fault := some (cECC, e.va) }] } }

/-- A window that closes on a struck word: every member consumes it. -/
def State.struckWindow (s : State) (b i : Nat) (o : Out) : Out :=
  let j := i - (s.blk b).wins.length
  match (s.blk b).wins[i]?, (s.blk b).lwins[j]? with
  | none, some w =>
    if (s.blk b).cyc < w.at_ + 32 then .next s
    else .next (w.who.foldl State.strikeMember (s.modBlk b fun x => { x with lwins := x.lwins.eraseIdx j }))
  | some w, _ =>
    if (s.blk b).cyc < w.at_ + 32 then .next s
    else .next (w.who.foldl State.strikeRed (s.modBlk b fun x => { x with wins := x.wins.eraseIdx i }))
  | _, _ => o

/-- A reduction that its home performs on its own. -/
def State.struckStore (s : State) (g : Nat) (o : Out) : Out :=
  match (s.thread g).sb with
  | { kind := .red _ _ _, phys := { home := .dram, .. }, .. } :: _ =>
    (match o with
      | .next s1 => if (s1.thread g).sb.length < (s.thread g).sb.length then .next (s.strikeRed g) else .next s1
      | o => o)
  | _ => o

/-! ## Waits (R124, R201, R213) -/

/-- A wait whose word or header is struck when a test reads it: a thread's wait carries ECC to the next bundle, and a compute core halts
at its sync.wait (R2, R192; log 118). -/
def State.struckWait (s : State) (u : UnitRef) (o : Out) : Out :=
  match u with
  | .thread g =>
    (match (s.thread g).run with
      | .wait w =>
        (match w.place with
          | none => o
          | some (va, _, d) =>
            match s.xlThread g va.toNat (s.need g true false .any) with
            | .ok { home := .remote _, .. } | .miss | .bad _ => o
            | .ok _ => .next (s.modThread g fun t => t.waitFault d cECC va))
      | _ => o)
  | .core k =>
    (match (s.tcore k).run with
      | .sync _ _ _ =>
        .next { (s.modTcore k fun c => { c with ctx := { c.ctx with pc := c.ctx.pc - 8 } }).haltFault k cECC 0 with iss := s.iss }
      | _ => o)

/-! ## Events -/

/-- An event whose datum `k` is struck; an event that consumes no such data is as it would be without. -/
def State.struckEvent (s : State) (k : Nat) (i : Instr) : Out :=
  match i with
  | .commandEntry b p => s.struckCmd (4 * b + p % 4) nextArr (exec i s)
  | .busyRetry b p => s.struckCmd (4 * b + p % 4) firstBusy (exec i s)
  | .gateOpen b p => s.struckGate (4 * b + p % 4) (exec i s)
  | .transferStart b _ => s.struckMeta b k (exec i s)
  | .transferWrite id => s.struckTransfer id (exec i s)
  | .flitForward r dir vc => s.struckFlit r dir vc.toNat
  | .portTokenArrival c port => s.struckInbox (coreTile c) (Consumer.isPort (c % 4) port)
  | .ringPlace t ring => s.struckInbox t (Consumer.isRing ring)
  | .placingAreaWrite t => s.struckInbox t Consumer.isPlace
  | .inboundStreamerWrite t => s.struckVia t (exec i s)
  | .converterFiring c => s.struckConv c (exec i s)
  | .adderPair port => s.struckAdder port (exec i s)
  | .agenLoadToken m | .agenStoreToken m => s.struckAgen m (exec i s)
  | .matrixOpEnd t => s.struckMatrix t k
  | .configurationFlit t => s.struckCfg t
  | .tlbWalk b i => s.struckWalk b i
  | .combineWindowExpiry b j => s.struckWindow b j (exec i s)
  | .storePerform g => s.struckStore g (exec i s)
  | .threadWake u => s.struckWait u (exec i s)
  | i => exec i s

/-- The running operation of a matrix queue reads an operand word now (R186). -/
def State.earlyWord (s : State) (k : Nat) (i : Instr) : Out :=
  match i with
  | .matrixOpEnd t => s.readWord t k
  | i => exec i s

/-- An event, with the soft error of its move. -/
def State.event (s : State) (e : Soft) (i : Instr) : Out :=
  match e with
  | .data k => s.struckEvent k i
  | .operand k => s.earlyWord k i
  | .clean | .fetch | .file _ | .miss | .lost _ => exec i s

end Sys2Proof.Machine
end

