-- ==== Sys2Proof/Machine/Turn.lean ====
section
/-!
DEFINITION. The turn of a unit: the barrel issue of a bundle with its windows (R14, R18, R72, R279 to R282), and a move of
the machine: the time that passes and the agent that acts.
-/
namespace Sys2Proof.Machine

/-! ## A bundle (R18, R69) -/

/-- The form that a preempt is: s[a] names its operation (R222). -/
def State.resolve (s : State) (i : Instr) : Instr :=
  match i with
  | .preemptHalt d a => if bits (s.rS a) 20 2 = 1 then .preemptTrap d a
    else if bits (s.rS a) 20 2 = 2 then .preemptResume d a else .preemptHalt d a
  | i => i

/-- The scalar register that slot B writes, or s0 when it writes none: the target of a vmovs out of a lane that its predicate governs
(R154). -/
def scalarB (pre : Ctx) (b : Option Instr) : SReg :=
  match b with
  | some (.vmovs p _ _ false l _ r) => if (pre.rP p).getLsbD l.toNat then r else 0
  | _ => 0

/-- A register that a wait or a long form of slot A will write is slot B's when slot B of the same bundle wrote it: the later
result is discarded (R18, log 43). -/
def keepDest (r d : SReg) : SReg := if d = r then 0 else d
def Wait.dropDest (r : SReg) : Wait → Wait
  | .resv d => .resv (keepDest r d)
  | .sync d p n => .sync (keepDest r d) p n
  | .recv d v => .recv (keepDest r d) v
  | .wfi => .wfi
  | .wfit x => .wfit x
def Run.dropDest (r : SReg) : Run → Run
  | .wait w => .wait (w.dropDest r)
  | x => x
def CoreRun.dropDest (r : SReg) : CoreRun → CoreRun
  | .sync d p n => .sync (keepDest r d) p n
  | x => x
def Pending.dropDest (r : SReg) (p : Pending) : Pending := if p.dest = .sreg r then { p with dest := .sreg 0 } else p
def Ctx.dropDest (r : SReg) (open_ : Nat) (c : Ctx) : Ctx :=
  { c with pend := c.pend.take open_ ++ (c.pend.drop open_).map (Pending.dropDest r) }
def State.dropDest (s : State) (r : SReg) (open_ : Nat) : State :=
  match s.cur with
  | .thread g => s.modThread g fun t => { t with run := t.run.dropDest r, ctx := t.ctx.dropDest r open_ }
  | .core k => s.modTcore k fun t => { t with run := t.run.dropDest r, ctx := t.ctx.dropDest r open_ }

/-- Applies a function to the next state of an outcome. -/
def Out.after (o : Out) (f : State → State) : Out :=
  match o with
  | .next s => .next (f s)
  | .fault r => .fault r
  | .refused r => .refused r

/-- Runs slot B, which reads the registers as they stood before the bundle (R18). R18 settles two writes of one scalar register; where
both slots write one vector or predicate register, slot B writes after slot A: its inactive lanes keep what slot A wrote, and a result of
slot A that arrives later replaces what slot B wrote (DESIGN CHOICE, log 109). -/
def State.runB (s : State) (pre : Ctx) (b : Option Instr) : Out :=
  match b with
  | none => .next s
  | some i =>
    if s.iss.fate = .issued then
      Out.after (exec i { s with iss := { s.iss with view := some pre } }) fun s1 =>
        if scalarB pre b = 0 then s1 else s1.dropDest (scalarB pre b) pre.pend.length
    else .next s

/-! ## The order of requests (R203, R258, R362) -/

/-- A unit's place in the order of the requests of a block cycle: tile cores by tile and core, then threads by core and tid. -/
def unitRank : UnitRef → Nat
  | .core k => 2 * (k % 128) + 1
  | .thread g => 257 + 2 * (g % 128)

/-- A unit's block. -/
def refBlk : UnitRef → Nat
  | .thread g => unitBlk g
  | .core k => unitBlk k

/-- Whether a place in the order has not been passed in the present cycle. -/
def State.inOrder (s : State) (b rank : Nat) : Bool := (s.blk b).turn.1 != (s.blk b).cyc || decide ((s.blk b).turn.2 ≤ rank)

/-- The order has reached a place. -/
def State.stampTurn (s : State) (b rank : Nat) : State := s.modBlk b fun x => { x with turn := (x.cyc, rank) }

/-- The forms that ask the dispenser, the pattern compiler or a request port of the block, which serve the requests of one cycle in
order. -/
def Instr.asks : Instr → Bool
  | .fetcht .. | .fetchtLd .. | .fetchtQ .. | .pcomp .. | .xfer .. => true
  | _ => false

/-- Runs a decoded bundle of the unit in hand: slot A, then slot B. One that asks an engine of the block behind a later unit of the same
cycle waits for another cycle (R203, R258, R362; log 114). -/
def State.runBundle (s : State) (e : Soft) (w : Word) (bu : Bundle) : Out :=
  let s0 := { s with iss := { word := w, la := bu.la } }
  if Instr.asks bu.a && !s.inOrder (refBlk s.cur) (unitRank s.cur) then s0.wait
  else
    match s0.slotA e (s0.resolve bu.a) with
    | .next s1 => (if Instr.asks bu.a then s1.stampTurn (refBlk s.cur) (unitRank s.cur + 1) else s1).runB s.ctx bu.b
    | .fault r => .fault r
    | .refused r => .refused r

/-- Fetches, decodes and runs the bundle at pc. A bundle that is fetched with a soft error, or reads a register that holds one, meets
ECC before anything that it raises itself (R37, R304, log 86). -/
def State.bundle (s : State) (e : Soft) : Out :=
  match s.fetch with
  | .wait s1 => .next s1
  | .bad c ev => s.fetchFault c ev
  | .got w s1 =>
    if e = .fetch then s.fetchFault cECC s.pc
    else
      match decode w with
      | .error r => exec (.undBundle (s1.undSlotB w r.inB)) { s1 with iss := { word := w } }
      | .ok bu =>
        match e with
        | .file b => if Bundle.readsFile bu b then s1.struckFile b else s1.runBundle e w bu
        | .clean | .fetch | .data _ | .operand _ | .miss | .lost _ => s1.runBundle e w bu

/-- The block and place of an event that asks a pattern compiler for a compile: a tile core's at the start of its sparse form, a transfer
unit's behind all threads (R362). -/
def State.eventRank (s : State) (i : Instr) : Option (Nat × Nat) :=
  match i with
  | .matrixOpStart t =>
    match (s.tile t).mq.head? with
    | none => none
    | some m =>
      (match m.kind, m.began with
        | .mspx _ _ _, none => some (t / 32, unitRank (.core m.core))
        | _, _ => none)
  | .transferStart b port =>
    match s.portXfer (4 * b + port % 4) with
    | none => none
    | some (_, _, c) => if c.kind = 6 then some (b, 513 + port % 4) else none
  | _ => none

/-! ## After a bundle -/

/-- The windows after a bundle issued: a window that was open before it is one bundle shorter; one that it opened is whole
(R72). -/
def Ctx.advance (c : Ctx) (open_ : Nat) (npc : Option Word) : Ctx :=
  { c with
    pc := bundleAddr (npc.getD (c.pc + 8))
    pend := ((c.pend.take open_).map fun p => { p with left := p.left - 1 }) ++ c.pend.drop open_ }

/-- A thread after its bundle has issued in block cycle `cyc`: its slot issues one bundle a turn (R278). Bundles count towards the 64 of
R281 when an event was due before them. -/
def Thread.advance (t : Thread) (open_ : Nat) (npc : Option Word) (cyc : Nat) (due : Bool) : Thread :=
  { t with
    ctx := t.ctx.advance open_ npc
    nextCyc := cyc + 1
    atIssue := false
    walked := none
    fetchw := none
    farbuf := []
    entry := false
    dueN := if due then t.dueN + 1 else 0 }

/-- A compute core after its bundle has issued: it issues at most one in two consecutive block cycles (R163). -/
def TCore.advance (c : TCore) (open_ : Nat) (npc : Option Word) (cyc : Nat) : TCore :=
  { c with ctx := c.ctx.advance open_ npc, waited := none, nextCyc := cyc + 2 }

/-- Ends the turn: the next pc and the windows of a bundle that issued. A thread that its bundle freed has none. The slot's turn in this
block cycle is used (R278). -/
def State.endTurn (s : State) (open_ : Nat) (due : Bool) : State :=
  let s1 :=
    match s.iss.fate with
    | .issued =>
      match s.cur with
      | .thread g => if (s.thread g).run = Run.free then s
        else s.modThread g fun t => t.advance open_ s.iss.npc (s.blk (unitBlk g)).cyc due
      | .core k => s.modTcore k fun c => c.advance open_ s.iss.npc (s.blk (unitBlk k)).cyc
    | .waiting | .taken => s
  { s1 with iss := {} }

/-- Whether an event is due for the unit in hand, or its block is to stand still (R281, R375). -/
def State.eventDue (s : State) : Bool :=
  match s.cur with
  | .thread g => (s.thread g).eventDue || s.blkStands (unitBlk g)
  | .core _ => false

/-- Issues the bundle at the pc of the unit in hand. -/
def State.issueBundle (s : State) (e : Soft) : Out := Out.after (s.bundle e) fun s1 => s1.endTurn s.ctx.pend.length s.eventDue

/-! ## Turns -/

/-- Whether a thread's bundle has just taken a trap: the thread stays in its slot, in its handler or halted by it. -/
def State.tookTrap (s : State) (g : Nat) : Bool :=
  s.iss.fate == .taken && ((s.thread g).run == .run || (s.thread g).run == .halted)

/-- Whether a thread's own halt form has asked for its halt, which no other unit's result waits for (R224). -/
def Thread.haltsSelf (t : Thread) : Bool := t.due.any fun d => !d.trap && d.by_.isNone

/-- A due event at a boundary without open windows, or at a bundle that waits at issue; a trap of the bundle comes first
(R281, R282, R304), except that a halt form halts its thread after its own bundle, before the next (R224). -/
def State.dueTurn (s : State) (g : Nat) (e : Soft) : Out :=
  let ev : Out := exec (if (s.thread g).due ≠ [] then .preemptHaltTaken (.thread g) else .completionDiversion g) s
  if (s.thread g).haltsSelf then ev
  else
    match s.bundle e with
    | .next s1 => if s1.tookTrap g then .next (s1.endTurn 0 false) else ev
    | .fault r => .fault r
    | .refused r => .refused r

/-- Whether the result of a preempt arrives now: none of its requests is due any more (R223). -/
def State.settles (s : State) (p : Pending) : Bool :=
  p.fly == .preempt && !p.ready && !s.threads.any (fun e => e.2.due.any fun d => d.by_ == some p.tok) &&
    !s.tcores.any (fun e => e.2.due.any fun d => d.by_ == some p.tok)

/-- The results of preempts arrive; they commit in a later turn (R279). -/
def State.settle (s : State) (g : Nat) : State :=
  s.modThread g fun t =>
    { t with ctx := { t.ctx with pend := t.ctx.pend.map fun p => if s.settles p then { p with ready := true } else p } }.arriveAt
      (s.blk (unitBlk g)).cyc

/-- A thread tries to issue: it waits for no future entry until its bundle faults again (R305, R311). -/
def State.retried (s : State) (g : Nat) : State :=
  if (s.thread g).futw then s.modThread g fun t => { t with futw := false } else s

/-- The turn of a swarm thread. A completion that is pending while windows are open is taken once they have closed, after uret too: the bundles
at xfh.ret issue until then (R33 items 3 and 6, R14, R281; DESIGN CHOICE, log 119). -/
def State.turnThread (s : State) (g : Nat) (e : Soft) : Out :=
  let t := s.thread g
  if (match s.taskOf g with | none => false | some k => k.hit) then exec (.taskConflictAbort g) s
  else
    match t.run with
    | .run =>
      if t.ctx.expired ≠ [] then exec (.resultCommit (.thread g)) s
      else if t.verdict.isSome then
        match t.verdict with
        | some (c, v) => .next (s.trapThread g c v false)
        | none => .next s
      else if t.eventDue || s.blkStands (unitBlk g) then
        if t.ctx.pend = [] ∨ t.atIssue = true then (if s.blkStands (unitBlk g) then .next s else s.dueTurn g e)
        else if t.dueN ≥ 64 then exec (.windowForcedClose g) s
        else s.issueBundle e
      else s.issueBundle e
    | .wait (.wfit _) => exec (.wfitDeadline g) s
    | .wait _ => s.event e (.threadWake (.thread g))
    | .finished _ _ _ _ => if t.due ≠ [] then exec (.preemptHaltTaken (.thread g)) s else .next s
    | .parked =>
      if s.isOldest g then exec (.taskPlainRestart g) s
      else if t.due ≠ [] then exec (.preemptHaltTaken (.thread g)) s
      else .next s
    | .free | .halted => .next s

/-- The turn of a compute core. -/
def State.turnCore (s : State) (k : Nat) (e : Soft) : Out :=
  let c := s.tcore k
  if c.due ≠ [] then exec (.preemptHaltTaken (.core k)) s
  else if c.halted then .next s
  else
    match c.run with
    | .run => if c.ctx.expired ≠ [] then exec (.resultCommit (.core k)) s else s.issueBundle e
    | .sync _ _ _ => s.event e (.threadWake (.core k))
    | .idle | .held | .ctxsw _ | .faulted _ => .next s

/-- Whether a unit has its turn in its block's present cycle: slot i of a swarm core in the cycles c with c mod 8 = i (R278), a
compute core two cycles after its last bundle (R163); a block without power or clock issues nothing (R420). -/
def State.turnNow (s : State) (u : UnitRef) : Bool :=
  match u with
  | .thread g =>
    let b := s.blk (unitBlk g)
    b.power == .on && decide (b.cyc % 8 = g % 8) && decide ((s.thread g).nextCyc ≤ b.cyc)
  | .core k =>
    (s.blk (unitBlk k)).power == .on && decide ((s.tcore k).nextCyc ≤ (s.blk (unitBlk k)).cyc)

/-- Whether a compute core stands still for a planned retirement: in its block, or in one of its region (R375). -/
def State.coreStands (s : State) (k : Nat) : Bool :=
  s.blkStands (unitBlk k) || (((s.tileCtx (coreTile k)).map fun x => s.regionStands x.gid).getD false)

/-- The turn of a unit. -/
def State.turn (s : State) (u : UnitRef) (e : Soft) : Out :=
  let s0 := { s with cur := u, iss := {} }
  match u with
  | .thread g =>
    if s.turnNow u && !s.escStops g && ((s.thread g).run == .run || !s.blkStands (unitBlk g)) then
      (if (s.thread g).ctx.pend.any s.settles then .next (s0.settle g) else (s0.retried g).turnThread g e)
    else .next s
  | .core k => if s.turnNow u && !s.coreStands k then s0.turnCore k e else .next s

/-! ## Moves -/

/-- Whether a constructor of `Instr` is an event of the part, not an instruction form. -/
def isEvent (i : Instr) : Bool := (encode i).isNone && (match i with | .undBundle _ => false | _ => true)

/-- The move that comes next: a fixed one, or the schedule's choice. -/
def State.takeMove (s : State) : Move × State :=
  match s.agenda with
  | m :: l => (m, { s with agenda := l })
  | [] => (Config.schedule s.tick, { s with tick := s.tick + 1 })

/-- The cycles of a block's sync words that have passed end, all but the last (R270, R271, R326). -/
def State.passSyncs (s : State) (b n : Nat) : State :=
  (s.dev.syncq.filter fun e => syncBlk e.1 == b).foldl (fun s e => s.passSync e.1 (n + 1)) s

/-- The time that a move lets pass: campanile ns, and the cycles of blocks, which drift apart and which their waits count (R4, R11,
R26, R165, R330, R420). -/
def State.elapse (s : State) (m : Move) : State :=
  let s1 := if m.ns = 0 then s else { s with ns := s.ns + m.ns }.noteQuiet
  m.cycs.foldl (fun s e => ((s.modBlk e.1 fun b => { b with cyc := b.cyc + e.2 }).countWaits e.1 e.2).passSyncs e.1 e.2) s1

/-- The block whose power and clock an event needs. -/
def eventBlk (i : Instr) : Option Nat :=
  match i with
  | .tlbWalk b _ | .combineWindowExpiry b _ | .taskCommit b | .compileStart b | .compileEnd b | .commandEntry b _
  | .busyRetry b _ | .gateOpen b _ | .transferStart b _ => some b
  | .storePerform g => some (unitBlk g)
  | .portTokenArrival k _ | .streamerSend k => some (unitBlk k)
  | .ringPlace t _ | .placingAreaWrite t | .inboundStreamerWrite t | .matrixOpStart t | .matrixOpEnd t | .contextSwitch t
  | .configurationFlit t | .spliceSwitch t | .spliceMarker t | .escapeReentry t _ => some (t / 32)
  | .converterFiring c => some (c / 4)
  | .agenLoadToken m | .agenStoreToken m | .doneArrival m => some (m / 8)
  | _ => none

/-- Whether the block of an event has power and clock; work for a gated block waits at its edge (R420). -/
def State.powered (s : State) (i : Instr) : Bool :=
  match eventBlk i with
  | none => true
  | some b => (s.blk b).power == .on

/-- Whether a unit of the fabric stands still for a planned retirement: one of the block, or of a region that has a unit or a route in it, and
the links into it (R375). What a bundle with an open window waits for goes on, and so does an operation in the matrix queue (R319). -/
def State.standing (s : State) (i : Instr) : Bool :=
  match i with
  | .flitForward r _ _ => s.blks.any fun e => e.2.moving.isSome && (routerBlk r == e.1 || [Dir.east, .west, .south, .north].any fun d =>
      ((neighbour r d).map fun q => routerBlk q.1 == e.1).getD false)
  | .streamerSend k | .portTokenArrival k _ => s.coreStands k
  | .ringPlace t _ | .placingAreaWrite t | .inboundStreamerWrite t | .contextSwitch t | .spliceSwitch t | .spliceMarker t
  | .escapeReentry t _ | .matrixOpStart t | .configurationFlit t => s.coreStands (4 * t)
  | .commandEntry b _ | .busyRetry b _ | .gateOpen b _ | .transferStart b _ | .compileStart b | .compileEnd b | .taskCommit b => s.blkStands b
  | .transferWrite id => ((s.xfer id).map fun x => s.blkStands x.blk || (x.gid.map s.regionStands).getD false).getD false
  | .converterFiring c => s.blkStands (c / 4) || ((s.conv c).map fun x => s.regionStands x.gid).getD false
  | .agenLoadToken m | .agenStoreToken m | .doneArrival m => s.blkStands (m / 8) || ((s.agen m).map fun x => s.regionStands x.gid).getD false
  | _ => false

/-- Whether an event is one that a running thread takes in its turn: a diversion, a halt or a PREEMPT trap, which a trap of the bundle at pc
precedes (R304). -/
def State.inTurn (s : State) (i : Instr) : Option Nat :=
  match i with
  | .completionDiversion g | .preemptHaltTaken (.thread g) => if (s.thread g).run = .run ∧ (s.thread g).eventDue = true then some g else none
  | _ => none

/-- What a move does. An event that is not enabled changes nothing. -/
def State.act (s : State) (a : Act) (e : Soft) : Out :=
  match a with
  | .issue u => s.turn u e
  | .event i =>
    match s.inTurn i with
    | some g => s.turn (.thread g) e
    | none =>
    if isEvent i && s.powered i && !s.standing i then
      match s.eventRank i with
      | none => s.event e i
      | some (b, rank) => if s.inOrder b rank then (s.stampTurn b rank).event e i else .next s
    else .next s

/-- What still acts after a thermal shutdown or a failed bring-up: the belvedere's reset and the host ports (R417, R421). -/
def aliveAct (a : Act) : Bool :=
  match a with
  | .issue _ => false
  | .event i =>
    match i with
    | .coldReset | .pcieHotReset _ | .postingWrite _ _ _ _ _ | .bar2Read _ _ _ _ | .bar2Write _ _ _ _ | .registerWrite (some _) _ _
    | .attestationReport | .spdmRequest _ _ => true
    | _ => false

/-- Every unit is halted, and nothing beyond the belvedere and PCIe has power, in phases 0xE and 0xF (R417, R421). -/
def State.gate (s : State) (a : Act) (e : Soft) : Out :=
  if (s.dev.phase = 0xE ∨ s.dev.phase = 0xF) ∧ aliveAct a = false then .next s else s.act a e

/-- What the cycles that have ended tell other devices about sync words goes out (R338), and what the belvedere has to write in other devices
(R409). -/
def State.flushed (s : State) : State :=
  let s1 := if s.dev.sresp = [] then s else s.sendSync
  if s1.dev.outw = [] then s1 else s1.sendOut

/-- One step: the next move, the time it lets pass, and what it does. -/
def State.advance (s : State) : Out :=
  let m := s.takeMove
  Out.after ((m.2.elapse m.1).gate m.1.act m.1.soft) State.flushed

/-! ## A first instruction for the host's question -/

/-- The address that the placed instruction runs from. -/
def placePc : Nat := 0x10000

/-- The leaf that maps it: present, readable, fetchable, accessed, LOCAL, over the same frame (R297). -/
def placeLeaf : Word := wd (0x10000 + 0x001 + 0x002 + 0x008 + 0x040 + 0x200)

/-- The machine with an instruction at the pc of a supervisor thread in slot 0, which takes the next turn. -/
def State.placed (s : State) (w : Nat) : State :=
  let t : Thread := { run := .run, sv := true, ctx := { Ctx.zero with pc := wd placePc } }
  let s1 := (s.setThread 0 t).modCore 0 fun c => { c with tlb := [{ base := placePc, level := 3, leaf := placeLeaf }] }
  let s2 := s1.pokeN placePc 8 w
  let wait := if (s.blk 0).cyc % 8 = 0 then [] else [(0, 8 - (s.blk 0).cyc % 8)]
  { s2 with dev := { s2.dev with phase := 7 }, agenda := [{ ns := 0, cycs := wait, act := .issue (.thread 0) }] }

end Sys2Proof.Machine
end

