-- ==== Sys2Proof/Machine/Step.lean ====
section
/-!
DEFINITION. One step of the machine, and the placing of a first instruction.
-/
namespace Sys2Proof.Machine

/-- One step: the move at the head of the agenda, or the schedule's choice (log 3). -/
def step (s : State) : Host.Outcome State Fault Refusal := s.advance

/-- `s` with the instruction whose bundle is `w` where the next step fetches: it stands for the loading of a program and
the admission of a thread, in a machine that has come up (log 16). -/
def State.withFetchWord (s : State) (_nbits w : Nat) : State := s.placed w

end Sys2Proof.Machine
end

