-- ==== Sys2Proof/Certificates/Slice0/Obligations.lean ====
section
/-!
DEFINITION. The statements for the provers, and the notions they are stated with. A statement about an instruction says
that `exec` answers a next state, what that state holds, and what it leaves as it was; the operands are the registers as they
stood before the bundle issued (`State.rS`, `State.rV`, `State.rP`; R18).
-/
namespace Sys2Proof.Claims

open Sys2Proof.Machine

/-! ## What an instruction leaves alone -/

/-- Two machines are the same outside the unit in hand and the record of the bundle in hand: memory, every other thread and
compute core, tiles, swarm cores, blocks, fields, mesh, device registers, and time. -/
structure SameRest (s t : State) : Prop where
  mem     : t.mem = s.mem
  tiles   : t.tiles = s.tiles
  cores   : t.cores = s.cores
  blks    : t.blks = s.blks
  fields  : t.fields = s.fields
  mesh    : t.mesh = s.mesh
  dev     : t.dev = s.dev
  ns      : t.ns = s.ns
  cur     : t.cur = s.cur
  agenda  : t.agenda = s.agenda
  tick    : t.tick = s.tick
  fresh   : t.fresh = s.fresh
  threads : ∀ g, s.cur ≠ .thread g → t.thread g = s.thread g
  tcores  : ∀ k, s.cur ≠ .core k → t.tcore k = s.tcore k

/-- `t` is `s` with the registers `c` in the unit in hand and the bundle record `iss`, and nothing else changed: no status,
trap register, store buffer, reservation or port of that unit either. -/
structure Became (s t : State) (c : Ctx) (iss : Issue) : Prop where
  rest   : SameRest s t
  iss    : t.iss = iss
  thread : ∀ g, s.cur = .thread g → t.thread g = { s.thread g with ctx := c }
  core   : ∀ k, s.cur = .core k → t.tcore k = { s.tcore k with ctx := c }

/-- The registers `c` differ from `b` in scalar register `d` alone, which holds `x`; s0 stays 0 (R15). -/
structure OnlyS (b c : Ctx) (d : SReg) (x : Word) : Prop where
  s      : ∀ r, c.rS r = if r = d ∧ d ≠ 0#5 then x else b.rS r
  v      : c.v = b.v
  p      : c.p = b.p
  pc     : c.pc = b.pc
  vrm    : c.vrm = b.vrm
  vflags : c.vflags = b.vflags
  pend   : c.pend = b.pend

/-- The registers `c` differ from `b` in vector register `d` alone. -/
structure OnlyV (b c : Ctx) (d : VReg) (x : VWord) : Prop where
  v      : ∀ r, c.rV r = if r = d then x else b.rV r
  s      : c.s = b.s
  p      : c.p = b.p
  pc     : c.pc = b.pc
  vrm    : c.vrm = b.vrm
  vflags : c.vflags = b.vflags
  pend   : c.pend = b.pend

/-- The registers `c` differ from `b` in predicate register `d` alone; p0 stays 0xFF (R17). -/
structure OnlyP (b c : Ctx) (d : PReg) (x : PWord) : Prop where
  p      : ∀ r, c.rP r = if r = d ∧ d ≠ 0#3 then x else b.rP r
  s      : c.s = b.s
  v      : c.v = b.v
  pc     : c.pc = b.pc
  vrm    : c.vrm = b.vrm
  vflags : c.vflags = b.vflags
  pend   : c.pend = b.pend

/-- The instruction writes `x` to scalar register `d` and does nothing else. -/
def WroteS (s t : State) (d : SReg) (x : Word) : Prop := ∃ c, Became s t c s.iss ∧ OnlyS s.ctx c d x

/-- The instruction enters one arrived result in the return buffer, with a window of the bundle's lookahead, and does nothing
else (R72, R279). -/
def Queued (s t : State) (dest : Dest) (val : VWord) (flags : BitVec 5) : Prop :=
  Became s t { s.ctx with pend := s.ctx.pend ++
    [{ dest := dest, left := s.iss.la, ready := true, val := val, flags := flags }] } s.iss

/-! ## Values of the scalar forms -/

/-- Leading, trailing and one bits. -/
def countLead (x : Word) : Nat := ((List.range 64).takeWhile fun k => !x.getLsbD (63 - k)).length
def countTrail (x : Word) : Nat := ((List.range 64).takeWhile fun k => !x.getLsbD k).length
def countOnes (x : Word) : Nat := ((List.range 64).filter fun k => x.getLsbD k).length

/-- 1 or 0. -/
def truth (p : Prop) [Decidable p] : Word := if p then 1 else 0

/-- The short results of opcode 0x01, with u and i as unsigned and signed readings (R101). -/
def shortResult (i : Instr) (s : State) : Option (SReg × Word) :=
  let u := fun (r : SReg) => (s.rS r).toNat
  let n := fun (r : SReg) => (s.rS r).toInt
  let sh := fun (r : SReg) => (s.rS r).toNat % 64
  match i with
  | .add d a b => some (d, BitVec.ofNat 64 (u a + u b))
  | .sub d a b => some (d, BitVec.ofInt 64 (n a - n b))
  | .and d a b => some (d, s.rS a &&& s.rS b)
  | .or d a b => some (d, s.rS a ||| s.rS b)
  | .xor d a b => some (d, s.rS a ^^^ s.rS b)
  | .andn d a b => some (d, s.rS a &&& ~~~ s.rS b)
  | .sll d a b => some (d, BitVec.ofNat 64 (u a * 2 ^ sh b))
  | .srl d a b => some (d, BitVec.ofNat 64 (u a / 2 ^ sh b))
  | .sra d a b => some (d, BitVec.ofInt 64 (n a / 2 ^ sh b))
  | .rol d a b => some (d, BitVec.ofNat 64 (u a * 2 ^ sh b + u a / 2 ^ (64 - sh b)))
  | .ror d a b => some (d, BitVec.ofNat 64 (u a / 2 ^ sh b + u a * 2 ^ (64 - sh b)))
  | .mul d a b => some (d, BitVec.ofNat 64 (u a * u b))
  | .mulh d a b => some (d, BitVec.ofInt 64 (n a * n b / 2 ^ 64))
  | .mulhu d a b => some (d, BitVec.ofNat 64 (u a * u b / 2 ^ 64))
  | .mulhsu d a b => some (d, BitVec.ofInt 64 (n a * u b / 2 ^ 64))
  | .min d a b => some (d, if n a ≤ n b then s.rS a else s.rS b)
  | .max d a b => some (d, if n a ≤ n b then s.rS b else s.rS a)
  | .minu d a b => some (d, if u a ≤ u b then s.rS a else s.rS b)
  | .maxu d a b => some (d, if u a ≤ u b then s.rS b else s.rS a)
  | .slt d a b => some (d, truth (n a < n b))
  | .sltu d a b => some (d, truth (u a < u b))
  | .seq d a b => some (d, truth (s.rS a = s.rS b))
  | .sel d a b => some (d, if s.rS d = 0 then s.rS b else s.rS a)
  | .clz d a => some (d, BitVec.ofNat 64 (countLead (s.rS a)))
  | .ctz d a => some (d, BitVec.ofNat 64 (countTrail (s.rS a)))
  | .popc d a => some (d, BitVec.ofNat 64 (countOnes (s.rS a)))
  | .brev d a => some (d, (s.rS a).reverse)
  | .bswap d a =>
    let x := s.rS a
    some (d, x.extractLsb' 0 8 ++ x.extractLsb' 8 8 ++ x.extractLsb' 16 8 ++ x.extractLsb' 24 8 ++ x.extractLsb' 32 8 ++
      x.extractLsb' 40 8 ++ x.extractLsb' 48 8 ++ x.extractLsb' 56 8)
  | .sextB d a => some (d, BitVec.ofInt 64 ((s.rS a).setWidth 8).toInt)
  | .sextH d a => some (d, BitVec.ofInt 64 ((s.rS a).setWidth 16).toInt)
  | .sextW d a => some (d, BitVec.ofInt 64 ((s.rS a).setWidth 32).toInt)
  | .zextB d a => some (d, BitVec.ofNat 64 (u a % 2 ^ 8))
  | .zextH d a => some (d, BitVec.ofNat 64 (u a % 2 ^ 16))
  | .zextW d a => some (d, BitVec.ofNat 64 (u a % 2 ^ 32))
  | _ => none

/-- The four division forms with the corners of R68. -/
def longResult (i : Instr) (s : State) : Option (SReg × Word) :=
  match i with
  | .div d a b =>
    some (d, if s.rS b = 0 then BitVec.allOnes 64
      else if (s.rS a).toInt = -2 ^ 63 ∧ (s.rS b).toInt = -1 then s.rS a
      else BitVec.ofInt 64 ((s.rS a).toInt.tdiv (s.rS b).toInt))
  | .divu d a b => some (d, if s.rS b = 0 then BitVec.allOnes 64 else BitVec.ofNat 64 ((s.rS a).toNat / (s.rS b).toNat))
  | .rem d a b =>
    some (d, if s.rS b = 0 then s.rS a
      else if (s.rS a).toInt = -2 ^ 63 ∧ (s.rS b).toInt = -1 then 0
      else BitVec.ofInt 64 ((s.rS a).toInt.tmod (s.rS b).toInt))
  | .remu d a b => some (d, if s.rS b = 0 then s.rS a else BitVec.ofNat 64 ((s.rS a).toNat % (s.rS b).toNat))
  | _ => none

/-- The value of an immediate: 12 or 41 bits, sign-extended (R100). -/
def immInt : Imm → Int
  | .pair v => v.toInt
  | .ext v => v.toInt

/-- The immediate forms, bit fields, addresses and constants (R102 to R106). A field of width w at pos that ends beyond bit 63,
and a shift of lea above 5, are not instructions. -/
def immResult (i : Instr) (s : State) : Option (SReg × Word) :=
  let u := fun (r : SReg) => (s.rS r).toNat
  let n := fun (r : SReg) => (s.rS r).toInt
  let m := fun (x : Imm) => BitVec.ofInt 64 (immInt x)
  match i with
  | .addi d a x => some (d, BitVec.ofInt 64 (n a + immInt x))
  | .andi d a x => some (d, s.rS a &&& m x)
  | .ori d a x => some (d, s.rS a ||| m x)
  | .xori d a x => some (d, s.rS a ^^^ m x)
  | .slli d a sh _ => some (d, BitVec.ofNat 64 (u a * 2 ^ sh.toNat))
  | .srli d a sh _ => some (d, BitVec.ofNat 64 (u a / 2 ^ sh.toNat))
  | .srai d a sh _ => some (d, BitVec.ofInt 64 (n a / 2 ^ sh.toNat))
  | .roli d a sh _ => some (d, BitVec.ofNat 64 (u a * 2 ^ sh.toNat + u a / 2 ^ (64 - sh.toNat)))
  | .slti d a x => some (d, truth (n a < immInt x))
  | .sltiu d a x => some (d, truth (u a < (m x).toNat))
  | .seqi d a x => some (d, truth (n a = immInt x))
  | .muli d a x => some (d, BitVec.ofInt 64 (n a * immInt x))
  | .bext d a pos wm1 =>
    let w := wm1.toNat + 1
    let f := u a / 2 ^ pos.toNat % 2 ^ w
    if pos.toNat + w > 64 then none
    else some (d, BitVec.ofInt 64 (if f < 2 ^ (w - 1) then f else (f : Int) - 2 ^ w))
  | .bextu d a pos wm1 =>
    let w := wm1.toNat + 1
    if pos.toNat + w > 64 then none else some (d, BitVec.ofNat 64 (u a / 2 ^ pos.toNat % 2 ^ w))
  | .bins d a pos wm1 =>
    let w := wm1.toNat + 1
    let mask := BitVec.ofNat 64 ((2 ^ w - 1) * 2 ^ pos.toNat)
    if pos.toNat + w > 64 then none
    else some (d, (s.rS d &&& ~~~ mask) ||| (BitVec.ofNat 64 (u a * 2 ^ pos.toNat) &&& mask))
  | .lea d a b sh => if sh.toNat > 5 then none else some (d, BitVec.ofNat 64 (u a + u b * 2 ^ sh.toNat))
  | .movi d x => some (d, m x)
  | .movt d a imm23 => some (d, BitVec.ofNat 64 (imm23.toNat * 2 ^ 41 + u a % 2 ^ 41))
  | .lui d off => some (d, BitVec.ofInt 64 (off.toInt * 2 ^ 12))
  | .addpc d off => some (d, BitVec.ofInt 64 (s.ctx.pc.toInt + off.toInt * 2 ^ 3))
  | .addpg d off => some (d, BitVec.ofInt 64 ((s.ctx.pc.toInt / 2 ^ 16) * 2 ^ 16 + off.toInt * 2 ^ 16))
  | _ => none

/-! ## Control transfer -/

/-- A branch form of swarm mode: its condition and its offset (R108, R109). -/
def branchOf (i : Instr) (s : State) : Option (Prop × Imm) :=
  match i with
  | .beq a b off => some (s.rS a = s.rS b, off)
  | .bne a b off => some (s.rS a ≠ s.rS b, off)
  | .blt a b off => some ((s.rS a).toInt < (s.rS b).toInt, off)
  | .bge a b off => some ((s.rS a).toInt ≥ (s.rS b).toInt, off)
  | .bltu a b off => some ((s.rS a).toNat < (s.rS b).toNat, off)
  | .bgeu a b off => some ((s.rS a).toNat ≥ (s.rS b).toNat, off)
  | .bany p off => some (s.rP p ≠ 0, off)
  | .bnone p off => some (s.rP p = 0, off)
  | _ => none

/-- pc + 8 × offset. -/
def relTarget (s : State) (off : Int) : Word := BitVec.ofInt 64 (s.ctx.pc.toInt + 8 * off)

/-- The bundle record with a transfer to `a`. -/
def goesTo (s : State) (a : Word) : Issue := { s.iss with npc := some a }

/-! ## Exceptions -/

/-- Thread `g` has taken a trap at its bundle (R35): its status is in estat, its pc in epc, the cause, the slot and the value in
ecause and eval; it is at supervisor privilege with completions off, and goes on at ehand. Its registers, its other control
registers and its buffered stores stay, and no byte of memory has changed. -/
structure TookTrap (s t : State) (g : Nat) (cause : BitVec 8) (value : Word) (slotB : Bool) : Prop where
  rest   : SameRest s t
  fate   : t.iss.fate = .taken
  run    : (t.thread g).run = .run
  estat  : (t.thread g).estat = statusWord (s.thread g).spec (s.thread g).inuh (s.thread g).uie (s.thread g).sv false
  epc    : (t.thread g).epc = (s.thread g).ctx.pc
  ecause : (t.thread g).ecause = BitVec.ofNat 64 (cause.toNat + if slotB then 256 else 0)
  eval   : (t.thread g).eval = value
  sv     : (t.thread g).sv = true
  uie    : (t.thread g).uie = false
  inuh   : (t.thread g).inuh = (s.thread g).inuh
  regs   : (t.thread g).ctx = { (s.thread g).ctx with pc := (s.thread g).ehand }
  ehand  : (t.thread g).ehand = (s.thread g).ehand
  escr   : (t.thread g).escr = (s.thread g).escr
  stores : (t.thread g).sb = (s.thread g).sb
  comps  : (t.thread g).comps = (s.thread g).comps
  resv   : ∀ r ∈ (t.thread g).resv, r.lost = true

/-- Thread `g`, in hand, can take a trap at once: it is not speculative, no result of its windows is open, and its handler's
address can be fetched (R38, R280, R346). -/
def CanTrap (s : State) (g : Nat) : Prop :=
  s.cur = .thread g ∧ (s.thread g).spec = false ∧ (s.thread g).ctx.pend = [] ∧
    s.fetchBad g (s.thread g).ehand true = none

/-- The bundle of thread `g` waits at issue, and has changed nothing (R282). -/
def WaitsAtIssue (s t : State) (g : Nat) : Prop :=
  t.iss.fate = .waiting ∧ SameRest s t ∧ t.thread g = { s.thread g with atIssue := true }

/-! ## Words -/

/-- The words of a form whose low twelve bits are an immediate or an offset, alone or extended by slot B (R71, R74). -/
def immWords (op x y : Nat) : Imm → Enc
  | .pair v => .a (BitVec.ofNat 29 (op * 2 ^ 22 + x * 2 ^ 17 + y * 2 ^ 12 + v.toNat)) none
  | .ext v => .a (BitVec.ofNat 29 (op * 2 ^ 22 + x * 2 ^ 17 + y * 2 ^ 12 + v.toNat % 4096)) (some (BitVec.ofNat 29 (v.toNat / 4096)))

end Sys2Proof.Claims

open Sys2Proof Sys2Proof.Machine Sys2Proof.Claims

/-! ## Registers and integer forms -/

/-- s0 reads as zero on every unit, a write to it is discarded, that of a long-latency result as well, and every other number is a
register that holds what is written; p0 reads as all ones, and a write to it is discarded. -/
def Obligations.HardWiredRegisters : Prop :=
  (∀ s : State, s.rS 0 = 0 ∧ s.rP 0 = 0xFF) ∧
  (∀ (i : Instr) (s : State) (x : Word), shortResult i s = some (0, x) →
    ∃ t, exec i s = .next t ∧ ∀ r, t.ctx.rS r = s.ctx.rS r) ∧
  (∀ (s : State) (u : Nat) (p : Pending), (s.thread u).run = .run → (s.thread u).ctx.pend = [p] → p.left = 0 → p.ready = true →
    p.fault = none →
    p.dest = .sreg 0 →
    ∃ t, exec (.resultCommit (.thread u)) s = .next t ∧ ∀ r, (t.thread u).ctx.rS r = (s.thread u).ctx.rS r) ∧
  (∀ (c : Ctx) (r : SReg) (x : Word), r ≠ 0 → (c.wS r x).rS r = x) ∧
  ∀ (c : Ctx) (r : PReg) (x : PWord), (c.wP 0 x).rP r = c.rP r ∧ (r ≠ 0 → (c.wP r x).rP r = x)

/-- Every short form of opcode 0x01 answers, on swarm threads and tile cores alike, a next state in which its destination
holds the value of R101 and nothing else has changed. -/
def Obligations.ShortIntegerForms : Prop :=
  ∀ (i : Instr) (s : State) (d : SReg) (x : Word), shortResult i s = some (d, x) →
    ∃ t, exec i s = .next t ∧ WroteS s t d x

/-- The division forms enter their quotient or remainder, with the corners of R68, in the return buffer. -/
def Obligations.DivisionForms : Prop :=
  ∀ (i : Instr) (s : State) (d : SReg) (x : Word), longResult i s = some (d, x) →
    ∃ t, exec i s = .next t ∧ Queued s t (.sreg d) (x.setWidth 256) 0

/-- The immediate forms, bit fields, addresses and constants write the values of R102 to R106. -/
def Obligations.ImmediateForms : Prop :=
  ∀ (i : Instr) (s : State) (d : SReg) (x : Word), immResult i s = some (d, x) →
    ∃ t, exec i s = .next t ∧ WroteS s t d x

/-- The conditional branches of a swarm thread: the target is the next bundle when the condition holds, and the bundle that
follows otherwise; registers and memory stay. The six compare-and-branch forms have opcodes 0x20 to 0x25, with a short or an extended
offset. -/
def Obligations.BranchForms : Prop :=
  (∀ (i : Instr) (s : State) (g : Nat) (c : Prop) (off : Imm), s.cur = .thread g → branchOf i s = some (c, off) →
    ∃ t, exec i s = .next t ∧
      (c → Became s t s.ctx (goesTo s (relTarget s (immInt off)))) ∧ (¬ c → Became s t s.ctx s.iss)) ∧
  ∀ (a b : SReg) (off : Imm),
    encode (.beq a b off) = some (immWords 0x20 a.toNat b.toNat off) ∧ encode (.bne a b off) = some (immWords 0x21 a.toNat b.toNat off) ∧
    encode (.blt a b off) = some (immWords 0x22 a.toNat b.toNat off) ∧ encode (.bge a b off) = some (immWords 0x23 a.toNat b.toNat off) ∧
    encode (.bltu a b off) = some (immWords 0x24 a.toNat b.toNat off) ∧ encode (.bgeu a b off) = some (immWords 0x25 a.toNat b.toNat off)

/-- jmp, jal and jalr: the link is the address of the next bundle, the target of jalr comes from s[a] before s[d] is written, and one
that is not a multiple of 8 traps ALIGN with the target in eval, on a thread that can trap at once.
loop counts s[a] down by one, wrapping, and branches unless the counter has reached 0; with s0 it always branches. -/
def Obligations.JumpsAndLoop : Prop :=
  (∀ (s : State) (d a : SReg) (off : BitVec 17) (imm : Imm),
    (∃ t, exec (.jmp off) s = .next t ∧ Became s t s.ctx (goesTo s (relTarget s off.toInt))) ∧
    ∀ g, s.cur = .thread g →
      (∃ t c, exec (.jal d off) s = .next t ∧ Became s t c (goesTo s (relTarget s off.toInt)) ∧
        OnlyS s.ctx c d (s.ctx.pc + 8)) ∧
      ((BitVec.ofInt 64 ((s.rS a).toInt + 8 * immInt imm)).toNat % 8 = 0 →
        ∃ t c, exec (.jalr d a imm) s = .next t ∧
          Became s t c (goesTo s (BitVec.ofInt 64 ((s.rS a).toInt + 8 * immInt imm))) ∧ OnlyS s.ctx c d (s.ctx.pc + 8)) ∧
      (CanTrap s g → (BitVec.ofInt 64 ((s.rS a).toInt + 8 * immInt imm)).toNat % 8 ≠ 0 →
        ∃ t, exec (.jalr d a imm) s = .next t ∧
          TookTrap s t g cALIGN (BitVec.ofInt 64 ((s.rS a).toInt + 8 * immInt imm)) false)) ∧
  (∀ (s : State) (a : SReg) (off : Imm), encode (.loop a off) = some (immWords 0x29 a.toNat 0 off) ∧
    ∃ t c, exec (.loop a off) s = .next t ∧ OnlyS s.ctx c a (BitVec.ofInt 64 ((s.rS a).toInt - 1)) ∧
      Became s t c (if s.rS a = 1 then s.iss else goesTo s (relTarget s (immInt off))))

namespace Sys2Proof.Claims

open Sys2Proof.Machine

/-! ## Memory -/

/-- The little-endian number in `n` bytes of memory. -/
def memNat (m : List Host.Cell) (a : Nat) : Nat → Nat
  | 0 => 0
  | n + 1 => (Memory.byte m a).toNat + 256 * memNat m (a + 1) n

/-- A home whose bytes are bytes of `State.mem`: DRAM, a tile's SRAM through the aperture, host memory (R298). -/
def InMemory (p : Phys) : Prop := p.home = .dram ∨ p.home = .aperture ∨ p.home = .host

/-- An access of thread `g` passes its checks with translation `p` (R112, R304), waits for no earlier ordering access, and does
not stand at the edge of a gated block. -/
def Reaches (s : State) (g : Nat) (ea : Word) (n align : Nat) (rd wr : Bool) (form : NeedForm) (p : Phys) : Prop :=
  s.check g ea n align (s.need g rd wr form) true = .ok p ∧ s.heldBack g = false ∧ s.atEdge p = none

/-- Thread `g` is the unit in hand, is not a speculative task, and has nothing in its store buffer. -/
def Plain (s : State) (g : Nat) : Prop := s.cur = .thread g ∧ (s.thread g).spec = false ∧ (s.thread g).sb = []

/-- A scalar load form: destination, address, bytes, sign, and what it asks of its page (R117, R131). -/
def loadOf (i : Instr) : Option (SReg × SReg × Imm × Nat × Bool × NeedForm) :=
  match i with
  | .ldb d a x => some (d, a, x, 1, true, .any)
  | .ldbu d a x => some (d, a, x, 1, false, .any)
  | .ldh d a x => some (d, a, x, 2, true, .any)
  | .ldhu d a x => some (d, a, x, 2, false, .any)
  | .ldw d a x => some (d, a, x, 4, true, .any)
  | .ldwu d a x => some (d, a, x, 4, false, .any)
  | .ldd d a x => some (d, a, x, 8, false, .any)
  | .ldAcq d a x => some (d, a, x, 8, false, .ordered)
  | _ => none

/-- `n` loaded bytes as a 64-bit scalar, with their sign or with zeros. -/
def scalarOf (n : Nat) (sgn : Bool) (x : Nat) : Word :=
  BitVec.ofInt 64 (if sgn = true ∧ x ≥ 2 ^ (8 * n - 1) then (x : Int) - 2 ^ (8 * n) else x)

/-- The address of an RI form: s[a] plus its displacement in bytes (R111). -/
def eaOf (s : State) (a : SReg) (x : Imm) : Word := BitVec.ofInt 64 ((s.rS a).toInt + immInt x)

/-- A store form: its address, its data and its bytes (R118, R119). -/
def storeOf (i : Instr) (s : State) : Option (Word × Nat × Nat) :=
  match i with
  | .stb d a x => some (eaOf s a x, (s.rS d).toNat % 2 ^ 8, 1)
  | .sth d a x => some (eaOf s a x, (s.rS d).toNat % 2 ^ 16, 2)
  | .stw d a x => some (eaOf s a x, (s.rS d).toNat % 2 ^ 32, 4)
  | .std d a x => some (eaOf s a x, (s.rS d).toNat, 8)
  | .vst v a x => some (eaOf s a x, (s.rV v).toNat, 32)
  | _ => none

/-- A far reduction: its address, bytes, operand and kind (R127). -/
def redOf (i : Instr) (s : State) : Option (Word × Nat × Nat × SbKind) :=
  let n := fun (w : Bool) => if w then 4 else 8
  let x := fun (b : SReg) (w : Bool) => (s.rS b).toNat % 2 ^ (8 * n w)
  match i with
  | .redAdd a b w => some (s.rS a, n w, x b w, .red .add w false)
  | .redMin a b w u => some (s.rS a, n w, x b w, .red .min w u)
  | .redMax a b w u => some (s.rS a, n w, x b w, .red .max w u)
  | .redAnd a b w => some (s.rS a, n w, x b w, .red .and w false)
  | .redOr a b w => some (s.rS a, n w, x b w, .red .or w false)
  | .redXor a b w => some (s.rS a, n w, x b w, .red .xor w false)
  | .redFaddW a b => some (s.rS a, 4, x b true, .red .fadd true false)
  | _ => none

/-- `t` is `s` with thread `g`, the one in hand, replaced by `th`, and nothing else changed. -/
def ThreadOnly (s t : State) (g : Nat) (th : Thread) : Prop :=
  SameRest s t ∧ t.iss = s.iss ∧ t.thread g = th ∧ ∀ k, t.tcore k = s.tcore k

/-- The store buffer of thread `g` takes `es` behind what it holds; no byte of memory and no register changes. -/
def Buffered (s t : State) (g : Nat) (es : List SbEntry) : Prop :=
  ThreadOnly s t g { s.thread g with sb := (s.thread g).sb ++ es }

/-- The bytes of the watch word that a write through a sparse-watch page increments (R359, R360). -/
def Watched (s : State) (sw : Bool) (va a : Nat) : Prop :=
  sw = true ∧ s.dev.wtbase ≠ 0 ∧
    s.dev.wtbase.toNat + 8 * (va / 2 ^ 16 % 2 ^ 36 % 2 ^ s.dev.wlog) ≤ a ∧
    a < s.dev.wtbase.toNat + 8 * (va / 2 ^ 16 % 2 ^ 36 % 2 ^ s.dev.wlog) + 8

/-- Nothing has landed at a sync word that meets `n` bytes at `pa`: a plain store ends the cycle of such a word (R272), which
`SyncForms` speaks of. -/
def Calm (s : State) (pa n : Nat) : Prop := ∀ e ∈ s.dev.syncq, overlaps e.1 16 pa n = false

/-- The bytes `l` stand at `pa`, and every other byte of memory reads as before. -/
def PutBytes (s t : State) (pa : Nat) (l : List Byte) : Prop :=
  (∀ k b, l[k]? = some b → Memory.byte t.mem (pa + k) = b) ∧
  ∀ a, (a < pa ∨ pa + l.length ≤ a) → Memory.byte t.mem a = Memory.byte s.mem a

/-- One write event of the bytes `l` at physical address `pa`, made through the sparse-watch pages of the addresses `vas`: those bytes
of memory hold `l`, but for tail and naks of a mailbox in use, which a store leaves as they are (R212), and every other byte of memory,
but for a watch word, reads as before. -/
def WroteThrough (s t : State) (vas : List Nat) (pa : Nat) (l : List Byte) : Prop :=
  (∀ k b, l[k]? = some b → s.mailByte (pa + k) = false → Memory.byte t.mem (pa + k) = b) ∧
  (∀ k, k < l.length → s.mailByte (pa + k) = true → (∀ va ∈ vas, ¬ Watched s true va (pa + k)) →
    Memory.byte t.mem (pa + k) = Memory.byte s.mem (pa + k)) ∧
  ∀ a, (a < pa ∨ pa + l.length ≤ a) → (∀ va ∈ vas, ¬ Watched s true va a) → Memory.byte t.mem a = Memory.byte s.mem a

/-- One write event through a page whose sparse-watch bit is `sw`. -/
def WroteBytes (s t : State) (sw : Bool) (va pa : Nat) (l : List Byte) : Prop :=
  WroteThrough s t (if sw then [va] else []) pa l

/-- The bytes `l` have been written where the `l.length` bytes from place `p` lie, whose lines may be spread (R299); every other
byte reads as before. -/
def WroteSpan (s t : State) (p : Phys) (l : List Byte) : Prop :=
  (∀ k b, l[k]? = some b → s.mailByte (p.plus k).pa = false → Memory.byte t.mem (p.plus k).pa = b) ∧
  ∀ a, (∀ k, k < l.length → a ≠ (p.plus k).pa) → Memory.byte t.mem a = Memory.byte s.mem a

/-- Two writes, of `l` at `a` and then of `k` at `b`: every other byte of memory reads as before. -/
def WroteTwo (s t : State) (a : Nat) (l : List Byte) (b : Nat) (k : List Byte) : Prop :=
  (∀ i x, l[i]? = some x → s.mailByte (a + i) = false → (a + i < b ∨ b + k.length ≤ a + i) → Memory.byte t.mem (a + i) = x) ∧
  (∀ i x, k[i]? = some x → s.mailByte (b + i) = false → Memory.byte t.mem (b + i) = x) ∧
  ∀ y, (y < a ∨ a + l.length ≤ y) → (y < b ∨ b + k.length ≤ y) → Memory.byte t.mem y = Memory.byte s.mem y

/-- Nothing has landed at a sync word that meets the `n` bytes from place `p`. -/
def CalmSpan (s : State) (p : Phys) (n : Nat) : Prop := ∀ k, k < n → Calm s (p.plus k).pa 1

/-- A write leaves every thread as it was, but for lost marks in reservation sets (R121) and what `f` says of thread `g`. -/
def ThreadsKept (s t : State) (g : Nat) (f : Thread → Thread) : Prop :=
  ∀ h, { t.thread h with resv := [] } = { (if h = g then f (s.thread h) else s.thread h) with resv := [] }

/-- An atomic: destination, address, bytes, unsigned mark, and what it leaves in memory given the old word (R126). -/
def amoOf (i : Instr) (s : State) : Option (SReg × SReg × Nat × Bool × (Nat → Option Nat)) :=
  let n := fun (w : Bool) => if w then 4 else 8
  let x := fun (b : SReg) (w : Bool) => (s.rS b).toNat % 2 ^ (8 * n w)
  let sg := fun (w : Bool) (y : Nat) => if y < 2 ^ (8 * n w - 1) then (y : Int) else (y : Int) - 2 ^ (8 * n w)
  match i with
  | .amoAdd d a b w => some (d, a, n w, false, fun old => some ((old + x b w) % 2 ^ (8 * n w)))
  | .amoSwap d a b w => some (d, a, n w, false, fun _ => some (x b w))
  | .amoCas d a b w => some (d, a, n w, false, fun old => if old = (s.rS d).toNat % 2 ^ (8 * n w) then some (x b w) else none)
  | .amoMin d a b w u =>
    some (d, a, n w, u, fun old => some (if u then min old (x b w) else if sg w old ≤ sg w (x b w) then old else x b w))
  | .amoMax d a b w u =>
    some (d, a, n w, u, fun old => some (if u then max old (x b w) else if sg w old ≤ sg w (x b w) then x b w else old))
  | .amoAnd d a b w => some (d, a, n w, false, fun old => some (old &&& x b w))
  | .amoOr d a b w => some (d, a, n w, false, fun old => some (old ||| x b w))
  | .amoXor d a b w => some (d, a, n w, false, fun old => some (old ^^^ x b w))
  | _ => none

/-- A store-buffer entry of plain bytes. -/
def entry (va : Word) (n : Nat) (kind : SbKind) (x : Nat) (p : Phys) : SbEntry :=
  { va := va, size := n, kind := kind, data := BitVec.ofNat 256 x, phys := p }

/-- The return-buffer entry of a scalar result. -/
def arrived (s : State) (d : SReg) (x : Word) : Pending :=
  { dest := .sreg d, left := s.iss.la, ready := true, val := x.setWidth 256 }

end Sys2Proof.Claims

/-! ## Memory forms -/

/-- A scalar load of a thread that runs plain: the youngest buffered store that holds every byte forwards them; with no overlapping entry
the bytes come from memory, or from the register page, in the step that issues the load (log 46: the model's choice). The value is a long
result; nothing else changes. A load takes the bytes of its own thread's youngest overlapping store when that is plain and holds them all,
and no older overlapping entry is a reduction. -/
def Obligations.ScalarLoads : Prop :=
  (∀ (i : Instr) (s : State) (g : Nat) (d a : SReg) (x : Imm) (n : Nat) (sgn : Bool) (form : NeedForm) (p : Phys),
    loadOf i = some (d, a, x, n, sgn, form) → s.cur = .thread g → (s.thread g).spec = false →
    Reaches s g (eaOf s a x) n n true false form p →
    (∀ v, forward (s.thread g).sb p n = .val v →
      ∃ t, exec i s = .next t ∧ Queued s t (.sreg d) ((scalarOf n sgn v).setWidth 256) 0) ∧
    (forward (s.thread g).sb p n = .mem → InMemory p →
      ∃ t, exec i s = .next t ∧ Queued s t (.sreg d) ((scalarOf n sgn (memNat s.mem p.pa n)).setWidth 256) 0) ∧
    (forward (s.thread g).sb p n = .mem → p.home = .regs →
      ∃ t, exec i s = .next t ∧ Queued s t (.sreg d) ((scalarOf n sgn (s.regRead p.pa n)).setWidth 256) 0)) ∧
  (∀ (old : List SbEntry) (e : SbEntry) (p : Phys) (n : Nat), 0 < n → e.kind = .plain → e.phys.home = p.home →
    e.phys.pa ≤ p.pa → p.pa + n ≤ e.phys.pa + e.size →
    (∀ x ∈ old, x.over p n = true → x.kind.isRed = false) →
    forward (old ++ [e]) p n = .val (e.data.toNat / 2 ^ (8 * (p.pa - e.phys.pa)) % 2 ^ (8 * n)))

/-- vld fills a vector register from 32 aligned bytes; vgather gathers eight words, lane i from its own address. Both are performed in
the step that issues them (log 46: the model's choice). -/
def Obligations.VectorLoads : Prop :=
  (∀ (s : State) (g : Nat) (v : VReg) (a : SReg) (x : Imm) (p : Phys), Plain s g →
    Reaches s g (eaOf s a x) 32 32 true false .any p → InMemory p →
    ∃ t, exec (.vld v a x) s = .next t ∧ Queued s t (.vreg v 0xFF) (BitVec.ofNat 256 (memNat s.mem p.pa 32)) 0) ∧
  ∀ (s : State) (g : Nat) (v o : VReg) (a : SReg) (sh : BitVec 2) (ps : List Phys), Plain s g → ps.length = 8 →
    (∀ k p, ps[k]? = some p → k < 8 → InMemory p ∧
      Reaches s g (BitVec.ofInt 64 ((s.rS a).toInt + (lane (s.rV o) k).toInt * 2 ^ sh.toNat)) 4 4 true false .any p) →
    ∃ t x, exec (.vgather v a o sh) s = .next t ∧ Queued s t (.vreg v 0xFF) x 0 ∧
      ∀ k p, ps[k]? = some p → lane x k = BitVec.ofNat 32 (memNat s.mem p.pa 4)

/-- The store forms of a thread that runs plain enter the store buffer with their address, bytes and translation; no byte of
memory changes. A vst takes one entry, a vscatter eight, in lane order. A store that finds too few free entries among the sixteen
waits at issue, a vscatter with more than eight taken, and has changed nothing. -/
def Obligations.StoresEnterTheBuffer : Prop :=
  ((∀ (i : Instr) (s : State) (g : Nat) (ea : Word) (x n : Nat) (p : Phys), storeOf i s = some (ea, x, n) →
    s.cur = .thread g → (s.thread g).spec = false → (s.thread g).sb.length < 16 →
    Reaches s g ea n n false true .any p →
    ∃ t, exec i s = .next t ∧ Buffered s t g [entry ea n .plain x p]) ∧
  ∀ (s : State) (g : Nat) (v o : VReg) (a : SReg) (sh : BitVec 2) (ps : List Phys), s.cur = .thread g →
    (s.thread g).spec = false → (s.thread g).sb.length ≤ 8 → ps.length = 8 →
    (∀ k p, ps[k]? = some p → k < 8 →
      Reaches s g (BitVec.ofInt 64 ((s.rS a).toInt + (lane (s.rV o) k).toInt * 2 ^ sh.toNat)) 4 4 false true .any p) →
    ∃ t es, exec (.vscatter v a o sh) s = .next t ∧ Buffered s t g es ∧ es.length = 8 ∧
      ∀ k p, ps[k]? = some p → es[k]? = some (entry
        (BitVec.ofInt 64 ((s.rS a).toInt + (lane (s.rV o) k).toInt * 2 ^ sh.toNat)) 4 .plain (lane (s.rV v) k).toNat p)) ∧
  (∀ (i : Instr) (s : State) (g : Nat) (ea : Word) (x n : Nat) (p : Phys), storeOf i s = some (ea, x, n) →
    s.cur = .thread g → (s.thread g).spec = false → (s.thread g).sb.length ≥ 16 →
    Reaches s g ea n n false true .any p →
    ∃ t, exec i s = .next t ∧ WaitsAtIssue s t g) ∧
  ∀ (s : State) (g : Nat) (v o : VReg) (a : SReg) (sh : BitVec 2) (ps : List Phys), s.cur = .thread g →
    (s.thread g).spec = false → (s.thread g).sb.length > 8 → ps.length = 8 →
    (∀ k p, ps[k]? = some p → k < 8 →
      Reaches s g (BitVec.ofInt 64 ((s.rS a).toInt + (lane (s.rV o) k).toInt * 2 ^ sh.toNat)) 4 4 false true .any p) →
    ∃ t, exec (.vscatter v a o sh) s = .next t ∧ WaitsAtIssue s t g

/-- The far reductions and st.rel enter the store buffer; the latter waits while the buffer holds an entry, while one of the thread's own
loads at system scope has not been performed and while one of its transfers holds a range lock, and traps LINK_LOST with the port of a
failure that the thread has recorded, which clears the record. -/
def Obligations.ReductionsAndReleaseEnterTheBuffer : Prop :=
  (∀ (i : Instr) (s : State) (g : Nat) (ea : Word) (x n : Nat) (k : SbKind) (p : Phys), redOf i s = some (ea, n, x, k) →
    s.cur = .thread g → (s.thread g).spec = false → (s.thread g).sb.length < 16 →
    Reaches s g ea n n false true .atomic p →
    ∃ t, exec i s = .next t ∧ Buffered s t g [entry ea n k x p]) ∧
  (∀ (s : State) (g : Nat) (d a : SReg) (imm : Imm) (p : Phys), Plain s g → (s.thread g).lkl = none →
    (s.thread g).ctx.pend.any Pending.flying = false → s.ownsLock g = false →
    Reaches s g (eaOf s a imm) 8 8 false true .ordered p →
    (∃ t, exec (.stRel d a imm) s = .next t ∧ Buffered s t g [entry (eaOf s a imm) 8 .rel (s.rS d).toNat p])) ∧
  (∀ (s : State) (g : Nat) (d a : SReg) (imm : Imm) (p : Phys), s.cur = .thread g → (s.thread g).spec = false →
    (s.thread g).lkl = none → Reaches s g (eaOf s a imm) 8 8 false true .ordered p →
    ((s.thread g).sb ≠ [] ∨ (s.thread g).ctx.pend.any Pending.flying = true ∨ s.ownsLock g = true) →
    ∃ t, exec (.stRel d a imm) s = .next t ∧ WaitsAtIssue s t g) ∧
  ∀ (s : State) (g : Nat) (d a : SReg) (imm : Imm) (port : BitVec 4), CanTrap s g → (s.thread g).lkl = some port →
    ∃ t, exec (.stRel d a imm) s = .next t ∧ TookTrap s t g cLINK_LOST (port.setWidth 64) false ∧ (t.thread g).lkl = none

/-- The atomics of a thread whose earlier accesses have been performed: one step reads the word at its home, leaves the form's new value there,
and enters the old word as the result; a cas that fails writes nothing. -/
def Obligations.AtomicsAreOneStep : Prop :=
  ∀ (i : Instr) (s : State) (g : Nat) (d a : SReg) (n : Nat) (u : Bool) (f : Nat → Option Nat) (p : Phys),
    amoOf i s = some (d, a, n, u, f) → Plain s g → (s.thread g).ctx.pend.any Pending.flying = false → p.home = .dram →
    Calm s p.pa n → Reaches s g (s.rS a) n n true true .atomic p →
    ∃ t, exec i s = .next t ∧
      (match f (memNat s.mem p.pa n) with
        | none => t.mem = s.mem
        | some new => WroteBytes s t p.sw (s.rS a).toNat p.pa (leBytes n new)) ∧
      ThreadsKept s t g fun th => { th with ctx := { th.ctx with pend := th.ctx.pend ++
        [arrived s d (scalarOf n (n = 4 && !u) (memNat s.mem p.pa n))] } }

/-- The oldest entry of a store buffer, a store to DRAM or to a powered tile, is performed as one write of exactly its bytes,
and leaves the buffer. A write to a line makes every other thread's reservation on it lost; the writer's own stay. -/
def Obligations.OldestStoreIsPerformed : Prop :=
  (∀ (s : State) (g : Nat) (e : SbEntry) (l : List SbEntry), (s.thread g).sb = e :: l → e.sent = false →
    (e.kind = .plain ∨ e.kind = .rel) → (e.phys.home = .dram ∨ e.phys.home = .aperture) → s.atEdge e.phys = none →
    s.beingSaved g = false → Calm s e.phys.pa e.size →
    ∃ t, exec (.storePerform g) s = .next t ∧
      WroteBytes s t e.phys.sw e.va.toNat e.phys.pa (leBytes e.size e.data.toNat) ∧
      ThreadsKept s t g fun th => { th with sb := l }) ∧
  (∀ (s : State) (g h : Nat) (e : SbEntry) (l : List SbEntry) (r : Resv), (s.thread g).sb = e :: l → e.sent = false →
    e.kind = .plain → e.phys.home = .dram → 0 < e.size → e.phys.sw = false → s.dev.wtbase = 0 →
    s.beingSaved g = false → Calm s e.phys.pa e.size →
    ∃ t, exec (.storePerform g) s = .next t ∧ (t.thread g).resv = (s.thread g).resv ∧
      (h ≠ g → r ∈ (s.thread h).resv → e.phys.pa / 64 ≤ r.pa / 64 → r.pa / 64 ≤ (e.phys.pa + e.size - 1) / 64 →
        { r with lost := true } ∈ (t.thread h).resv))

/-- A store to host memory goes out and is performed when its host acknowledges it; a combining window that has been open for 32
block cycles is performed as one write of the combined value, and one for loads gives each of its threads' loads the bytes that its
word holds then; a gather's next lane that has missed too joins a window only then (R119). -/
def Obligations.SystemStoresAndWindows : Prop :=
  (∀ (s : State) (g : Nat) (e : SbEntry) (l : List SbEntry), (s.thread g).sb = e :: l → e.phys.home = .host →
    (e.sent = false → s.beingSaved g = false → ∃ t, exec (.storePerform g) s = .next t ∧ t.mem = s.mem ∧
      (t.thread g).sb = { e with sent := true } :: l) ∧
    (e.sent = true → e.kind = .plain → Calm s e.phys.pa e.size → ∀ port, ∃ t, exec (.remoteAck g true port) s = .next t ∧
      WroteBytes s t e.phys.sw e.va.toNat e.phys.pa (leBytes e.size e.data.toNat) ∧ (t.thread g).sb = l) ∧
    (e.sent = true → ∀ port, ∃ t, exec (.remoteAck g false port) s = .next t ∧ t.mem = s.mem ∧ (t.thread g).sb = l ∧
      (t.thread g).lkl = some ((s.thread g).lkl.getD port))) ∧
  (∀ (s : State) (b i : Nat) (w : CombWin), (s.blk b).wins[i]? = some w → w.at_ + 32 ≤ (s.blk b).cyc → w.phys.home = .dram →
    Calm s w.phys.pa (if w.w32 then 4 else 8) →
    ∃ t, exec (.combineWindowExpiry b i) s = .next t ∧
      WroteThrough s t w.sws w.phys.pa
        (leBytes (if w.w32 then 4 else 8) (redValue w.op (if w.w32 then 4 else 8) w.uns
          (memNat s.mem w.phys.pa (if w.w32 then 4 else 8)) w.val.toNat)) ∧
      (t.blk b).wins = (s.blk b).wins.eraseIdx i) ∧
  ∀ (s : State) (b j g : Nat) (w : LoadWin) (l : LoadMember), (s.blk b).lwins[j]? = some w → w.at_ + 32 ≤ (s.blk b).cyc →
    w.who = [l] → l.who = .inl g →
    (s.lanesLeft g l.tok = none →
      ∃ t, exec (.combineWindowExpiry b ((s.blk b).wins.length + j)) s = .next t ∧ t.mem = s.mem ∧
        (t.blk b).lwins = (s.blk b).lwins.eraseIdx j ∧
        (t.thread g).ctx.pend = (s.thread g).ctx.pend.map
          (Pending.arrive l.tok (BitVec.ofNat 256 (leNat (s.spanRead l.phys l.n))) none)) ∧
    ∀ k va p rest, s.lanesLeft g l.tok = some ((k, va, p) :: rest, true) → p.home = .dram →
      ∃ t, exec (.combineWindowExpiry b ((s.blk b).wins.length + j)) s = .next t ∧ t.mem = s.mem ∧
        (t.thread g).ctx.pend = (s.thread g).ctx.pend.map
          (Pending.arrive l.tok (BitVec.ofNat 256 (leNat (s.spanRead l.phys l.n))) none) ∧
        ∃ w' ∈ (t.blk (g / 128)).lwins, { who := .inl g, tok := l.tok, va := va, phys := p, n := 4 } ∈ w'.who

/-- acq.l reads the word and reserves its line; rel.l stores its data and answers 0 while the line is reserved, answers 1 and
stores nothing when the reservation was lost, and takes the line out of the set; wait.r answers the lowest lost line. -/
def Obligations.ReservationForms : Prop :=
  ∀ (s : State) (g : Nat) (d a : SReg) (x : Imm) (p : Phys), Plain s g → (s.thread g).ctx.pend.any Pending.flying = false →
    (p.home = .dram → Reaches s g (eaOf s a x) 8 8 true true .resv p →
      ∃ t, exec (.acqL d a x) s = .next t ∧ t.mem = s.mem ∧
        { va := (eaOf s a x).toNat / 64 * 64, pa := p.pa / 64 * 64, lost := false } ∈ (t.thread g).resv ∧
        (t.thread g).ctx.pend = s.ctx.pend ++ [arrived s d (BitVec.ofNat 64 (memNat s.mem p.pa 8))]) ∧
    (∀ r, p.home = .dram → Calm s p.pa 8 → Reaches s g (eaOf s a x) 8 8 false true .any p →
      ((s.thread g).resv.find? fun r => decide (r.va = (eaOf s a x).toNat / 64 * 64)) = some r →
      ∃ t, exec (.relL d a x) s = .next t ∧
        (t.thread g).resv = (s.thread g).resv.filter (fun r => decide (r.va ≠ (eaOf s a x).toNat / 64 * 64)) ∧
        (t.thread g).ctx.pend = s.ctx.pend ++ [arrived s d (if r.lost then 1 else 0)] ∧
        (if r.lost then t.mem = s.mem
          else WroteBytes s t p.sw (eaOf s a x).toNat p.pa (leBytes 8 (s.rS d).toNat))) ∧
    (∀ r ∈ (s.thread g).resv, r.lost = true → (∀ r' ∈ (s.thread g).resv, r'.lost = true → r.va ≤ r'.va) →
      ∃ t, exec (.waitR d) s = .next t ∧ WroteS s t d (BitVec.ofNat 64 r.va)) ∧
    ((s.thread g).resv = [] → ∃ t, exec (.waitR d) s = .next t ∧ WroteS s t d 1) ∧
    ((s.thread g).resv ≠ [] → (∀ r ∈ (s.thread g).resv, r.lost = false) →
      ∃ t, exec (.waitR d) s = .next t ∧ ThreadOnly s t g { s.thread g with run := .wait (.resv d) })

/-- fence completes at issue at thread scope, and at every other scope once the thread's loads at system scope have been performed and its
store buffer is empty; it waits at issue until then. One of system scope traps LINK_LOST with the port of a failure that the thread has
recorded, which clears the record. pf of a thread that runs plain changes nothing, whatever its address. -/
def Obligations.FenceAndPrefetch : Prop :=
  ∀ (s : State) (g : Nat) (sc : Scope) (a : SReg) (x : Imm), s.cur = .thread g → (s.thread g).spec = false →
    (sc = .thread ∨ ((s.thread g).sb = [] ∧ (s.thread g).ctx.pend.any Pending.flying = false ∧
        (sc = .system → (s.thread g).lkl = none)) → exec (.fence sc) s = .next s) ∧
    (sc ≠ .thread → (sc = .system → (s.thread g).lkl = none) →
      ((s.thread g).sb ≠ [] ∨ (s.thread g).ctx.pend.any Pending.flying = true) →
      ∃ t, exec (.fence sc) s = .next t ∧ WaitsAtIssue s t g) ∧
    (∀ port, CanTrap s g → (s.thread g).lkl = some port →
      ∃ t, exec (.fence .system) s = .next t ∧ TookTrap s t g cLINK_LOST (port.setWidth 64) false ∧ (t.thread g).lkl = none) ∧
    exec (.pf a x) s = .next s

namespace Sys2Proof.Claims

open Sys2Proof.Machine

/-! ## Privilege and control registers -/

/-- The operand of a form that names a slot is a slot name of R222 that the form takes. -/
def NameFits (s : State) (i : Instr) : Prop :=
  match i with
  | .preemptHalt _ a | .preemptResume _ a => slotNameOk (s.rS a) = true ∧ (s.rS a).toNat / 2 ^ 20 % 4 ≠ 3
  | .preemptTrap _ a => slotNameOk (s.rS a) = true ∧ (s.rS a).toNat / 2 ^ 20 % 4 ≠ 3 ∧ (s.rS a).getLsbD 7 = true
  | .ctxSave d _ _ => ctxNameOk (s.rS d) true = true
  | .ctxLoad d _ _ => ctxNameOk (s.rS d) false = true
  | _ => True

/-- A privileged form (R21, R217, R220, R223 to R225), or a control register beyond user privilege (R24). -/
def Privileged (i : Instr) : Prop :=
  match i with
  | .eret | .tlbi .. | .ctxSave .. | .ctxLoad .. | .preemptHalt .. | .preemptTrap .. | .preemptResume .. | .halt => True
  | .csrr _ n => n.toNat ∈ [0x100, 0x101, 0x102, 0x103, 0x104, 0x105]
  | .csrw n _ => n.toNat ∈ [0x011, 0x100, 0x101, 0x102, 0x103, 0x104, 0x105]
  | _ => False

/-- What a thread's control register reads as (R24 to R36). -/
def csrValue (s : State) (g n : Nat) : Option Word :=
  let t := s.thread g
  match n with
  | 0x000 => some (BitVec.ofNat 64 (g % 8))
  | 0x001 => some (BitVec.ofNat 64 (g / 1024 * 4096 + g / 128 % 8 * 256 + 128 + g / 8 % 16))
  | 0x002 => some (BitVec.ofNat 64 (s.blk (g / 128)).cyc)
  | 0x003 => some (BitVec.ofNat 64 (s.ns - (s.blk (g / 128)).lag))
  | 0x010 => some (statusWord t.spec t.inuh t.uie t.sv false)
  | 0x011 => some (t.prio.setWidth 64)
  | 0x012 => some (t.ticket.setWidth 64)
  | 0x013 => some t.tsval
  | 0x020 => some (s.view.vrm.setWidth 64)
  | 0x021 => some (s.view.vflags.setWidth 64)
  | 0x030 => some t.xfid
  | 0x031 => some t.xfh
  | 0x032 => some t.xfpend
  | 0x100 => some t.epc
  | 0x101 => some t.ecause
  | 0x102 => some t.eval
  | 0x103 => some t.estat
  | 0x104 => some t.ehand
  | 0x105 => some t.escr
  | _ => none

/-- A thread after a write of `x` to its control register `n`: the writable fields alone (R24, R27 to R36); a bit of xfpend
that the SD4 has set in the same block cycle stays set (R33). -/
def csrWritten (t : Thread) (n : Nat) (x : Word) (cyc : Nat) : Option Thread :=
  match n with
  | 0x010 => some { t with uie := x.getLsbD 4 }
  | 0x011 => some { t with prio := x.setWidth 2 }
  | 0x020 => some { t with ctx := { t.ctx with vrm := x.setWidth 2 } }
  | 0x021 => some { t with ctx := { t.ctx with vflags := x.setWidth 5 } }
  | 0x031 => some { t with xfh := x &&& 0xFFFFFFFFFFFF8#64 }
  | 0x032 => some { t with xfpend := t.xfpend &&& ~~~ (x &&& ~~~ if t.xfnew.1 = cyc then t.xfnew.2 else 0) }
  | 0x100 => some { t with epc := x &&& 0xFFFFFFFFFFFF8#64 }
  | 0x101 => some { t with ecause := x &&& 0x3FF#64 }
  | 0x102 => some { t with eval := x }
  | 0x103 => some { t with estat := x &&& 0xB3#64 }
  | 0x104 => some { t with ehand := x &&& 0xFFFFFFFFFFFF8#64 }
  | 0x105 => some { t with escr := x }
  | _ => none

/-- What a compute core's control register reads as (R24 to R42). -/
def coreCsr (s : State) (k n : Nat) : Option Word :=
  match n with
  | 0x001 => some (BitVec.ofNat 64 (k / 1024 * 4096 + k / 128 % 8 * 256 + k / 4 % 32))
  | 0x002 => some (BitVec.ofNat 64 (s.blk (k / 128)).cyc)
  | 0x003 => some (BitVec.ofNat 64 (s.ns - (s.blk (k / 128)).lag))
  | 0x010 => some 1
  | 0x020 => some (s.view.vrm.setWidth 64)
  | 0x021 => some (s.view.vflags.setWidth 64)
  | 0x200 => some (s.tcore k).mdesc
  | 0x201 => some (s.tcore k).rsel
  | _ => none

/-- A compute core after a write of `x` to its control register `n`: the writable fields alone (R24, R40, R42). -/
def coreCsrWritten (c : TCore) (n : Nat) (x : Word) : Option TCore :=
  match n with
  | 0x010 => some c
  | 0x020 => some { c with ctx := { c.ctx with vrm := x.setWidth 2 } }
  | 0x021 => some { c with ctx := { c.ctx with vflags := x.setWidth 5 } }
  | 0x200 => some { c with mdesc := x &&& 0xF7FFFFFFF#64 }
  | 0x201 => some { c with rsel := x &&& 0x3FFFF#64 }
  | _ => none

/-- A bundle of compute core `k` has halted it with UND, and has changed none of its registers and no byte of memory (R192). -/
def CoreUnd (s t : State) (k : Nat) : Prop :=
  (t.tcore k).run = .faulted cUND ∧ (t.tcore k).ctx = (s.tcore k).ctx ∧ t.mem = s.mem

/-- The blocks, cores and pages that an invalidation of thread `g` covers (R81, R220): scope thread or core is the issuer's core,
scope block its block, field its field, device and system all. -/
def covers (sc : Scope) (g core : Nat) : Bool :=
  match sc with
  | .thread | .core => core == g / 8
  | .block => core / 16 == g / 128
  | .field => core / 128 == g / 1024
  | .device | .system => true

/-- A return-buffer entry whose answer is still to come. -/
def awaited (s : State) (d : SReg) : Pending :=
  { dest := .sreg d, left := s.iss.la, ready := false, val := 0, tok := s.fresh }

/-- A completion diversion or a halt is due for the thread (R33, R281). -/
def EventDue (t : Thread) : Prop := t.due ≠ [] ∨ (t.uie = true ∧ t.inuh = false ∧ t.comps ≠ [])

/-- The test of a wait ends it: the thread issues again, with `x` in the register that takes the answer (R124). -/
def EndsWait (i : Instr) (s : State) (g : Nat) (d : SReg) (x : Word) : Prop :=
  ∃ t, exec i s = .next t ∧ t.mem = s.mem ∧
    t.thread g = { s.thread g with run := .run, ctx := (s.thread g).ctx.wS d x, walked := none }

/-- Where byte `k` of a range lies whose parts have been translated. -/
def partPlace : List (Nat × Nat × Phys) → Nat → Option Nat
  | [], _ => none
  | (_, n, p) :: l, k => if k < n then some (p.plus k).pa else partPlace l (k - n)

/-- The bytes `l` have been written over the parts of a range, in order; every other byte reads as before. -/
def WroteParts (s t : State) (ps : List (Nat × Nat × Phys)) (l : List Byte) : Prop :=
  (∀ k b a, l[k]? = some b → partPlace ps k = some a → s.mailByte a = false →
    (∀ j, k < j → j < l.length → partPlace ps j ≠ some a) → Memory.byte t.mem a = b) ∧
  ∀ a, (∀ k, k < l.length → partPlace ps k ≠ some a) → Memory.byte t.mem a = Memory.byte s.mem a

/-- The parts of an image's place translate for thread `g` and lie in DRAM. -/
structure ImagePlace (s : State) (g : Nat) (ea : Word) (wr : Bool) (ps : List (Nat × Nat × Phys)) : Prop where
  low   : ea.toNat < 2 ^ 52
  align : ea.toNat % 64 = 0
  parts : s.checkParts g (s.need g (!wr) wr .any) true (pageParts ea.toNat 2048) = .ok ps
  free  : s.heldBack g = false
  dram  : ∀ e ∈ ps, e.2.2.home = .dram

/-- Writing an image over the parts does nothing beside: they lie outside sparse-watch pages, and no byte of them belongs to a sync word at
which something has landed. -/
structure PlainParts (s : State) (ps : List (Nat × Nat × Phys)) : Prop where
  watch : s.dev.wtbase = 0 ∧ ∀ e ∈ ps, e.2.2.sw = false
  lines : ∀ e ∈ ps, e.2.2.pa % 64 = 0
  calm  : ∀ k a, k < 2048 → partPlace ps k = some a → Calm s a 1

/-- The result of a preempt that nothing keeps any more: none of its requests is due (R223). -/
def Answered (s : State) (p : Pending) : Prop :=
  p.fly = .preempt ∧ p.ready = false ∧ (∀ e ∈ s.threads, ∀ d ∈ e.2.due, d.by_ ≠ some p.tok) ∧
    ∀ e ∈ s.tcores, ∀ d ∈ e.2.due, d.by_ ≠ some p.tok

/-! ## Records -/

/-- The header of a creating form (R205): the issuer's privilege, the timestamp mark, and priority 1 for a user thread's
priority 0. -/
def headerOf (x : Word) (sv ts : Bool) : Nat :=
  x.toNat + (if sv then 2 ^ 56 else 0) + (if ts then 2 ^ 57 else 0) + (if sv = false ∧ x.toNat / 2 ^ 61 % 4 = 0 then 2 ^ 61 else 0)

/-- The header of an invocation's record (R207): the descriptor's priority, 1 for a user thread's 0, the issuer's privilege and the
handler's index. -/
def invokeHeader (x : Word) (sv : Bool) : Nat :=
  (if sv = false ∧ x.toNat / 2 ^ 34 % 4 = 0 then 1 else x.toNat / 2 ^ 34 % 4) * 2 ^ 61 + (if sv then 2 ^ 56 else 0) + x.toNat % 2 ^ 16

/-- A descriptor and a mailbox address that obey R207. -/
def InvokeOk (x mbox : Word) : Prop :=
  x.toNat / 2 ^ 40 = 0 ∧ x.toNat / 2 ^ 16 % 16 = 0 ∧ mbox.toNat % 64 = 0 ∧ mbox.toNat / 2 ^ 52 = 0

/-- The forms of an invocation, as numbers. -/
def invokeForms (d a : SReg) (q : Quad) : List (Instr × Nat) := [(.invoke d a q, 0), (.invokeW d a q, 1), (.invokeT d a q, 2)]

/-- The ticket that an invocation of thread `g` takes: none without a mailbox, else the core's next (R209). -/
def ticketFor (s : State) (g : Nat) (mbox : Word) : BitVec 32 := if mbox = 0 then 0 else (s.core (g / 8)).ticket

/-- Core `c` has entered the ticket of an invocation in its table, and goes on to the next number, skipping 0; without a mailbox it has
done nothing. -/
def TicketTaken (s t : State) (c : Nat) (mbox : Word) (sv : Bool) : Prop :=
  if mbox = 0 then t.core c = s.core c
  else t.core c = { s.core c with
    ticket := if (s.core c).ticket = BitVec.allOnes 32 then 1 else (s.core c).ticket + 1
    outst := (s.core c).outst ++ [{ ticket := (s.core c).ticket, mbox := mbox, sv := sv }] }

end Sys2Proof.Claims

/-! ## Exceptions, privilege and modes -/

/-- A bundle that is not an instruction takes UND on a swarm thread, with the bundle's word as its value and the faulty slot named; `trap`
takes PRIV at either privilege. A fault that a committing result carries is taken with cm = 1, before the cause of the bundle itself, and
the results without a fault commit in order: a scalar register holds the value of the last of them that is its own. A trap whose handler
cannot be fetched halts the thread and raises a HANDLER_FAULT record whose position is ehand. -/
def Obligations.TrapEntry : Prop :=
  (∀ (s : State) (g : Nat) (slotB : Bool) (n : BitVec 12), CanTrap s g →
    (∃ t, exec (.undBundle slotB) s = .next t ∧ TookTrap s t g cUND s.iss.word slotB) ∧
    (∃ t, exec (.trap n) s = .next t ∧ TookTrap s t g cPRIV s.iss.word false)) ∧
  (∀ (s : State) (g : Nat) (c : BitVec 8) (v : Word), s.cur = .thread g → (s.thread g).spec = false →
    (∀ p ∈ (s.thread g).ctx.pend, p.ready = true) →
    (s.thread g).ctx.pend.findSome? Pending.fault = some (c, v) → s.fetchBad g (s.thread g).ehand true = none →
    ∃ t, exec (.undBundle false) s = .next t ∧ (t.thread g).ecause = BitVec.ofNat 64 (c.toNat + 512) ∧
      (t.thread g).eval = v ∧ (t.thread g).epc = (s.thread g).ctx.pc ∧ (t.thread g).ctx.pend = [] ∧
      (t.thread g).ctx.pc = (s.thread g).ehand ∧
      ∀ l p r d, (s.thread g).ctx.pend = l ++ p :: r → p.fault = none → p.dest = .sreg d → d ≠ 0 →
        (∀ q ∈ r, q.dest ≠ .sreg d) → (t.thread g).ctx.rS d = p.val.setWidth 64) ∧
  (∀ (s : State) (g : Nat) (c : BitVec 8), s.cur = .thread g → (s.thread g).spec = false → (s.thread g).ctx.pend = [] →
    s.fetchBad g (s.thread g).ehand true = some c →
    ∃ t r, exec (.undBundle false) s = .next t ∧ (t.thread g).run = .halted ∧
      (t.field (g / 1024)).recs = (s.field (g / 1024)).recs ++ [r] ∧ r.cause = cHANDLER_FAULT ∧ r.halt = true ∧
      r.pos = (s.thread g).ehand ∧ r.sub = g % 8)

/-- At user privilege the privileged forms and the supervisor control registers trap PRIV; a slot name that breaks R222 traps UND
before that, at either privilege. A form of the other mode: a swarm form halts a tile core, which keeps its registers and raises a
record; a tile form traps UND on a swarm thread. -/
def Obligations.PrivilegeAndMode : Prop :=
  (∀ (i : Instr) (s : State) (g : Nat), Privileged i → CanTrap s g → (s.thread g).sv = false → NameFits s i →
    ∃ t, exec i s = .next t ∧ TookTrap s t g cPRIV s.iss.word false) ∧
  (∀ (i : Instr) (s : State) (g : Nat), Privileged i → CanTrap s g → ¬ NameFits s i →
    ∃ t, exec i s = .next t ∧ TookTrap s t g cUND s.iss.word false) ∧
  (∀ (i : Instr) (s : State),
    (∀ k, Instr.mode i = Mode.swarm → s.cur = .core k →
      ∃ t r, exec i s = .next t ∧ (t.tcore k).run = .faulted cUND ∧ (t.tcore k).ctx = (s.tcore k).ctx ∧ t.mem = s.mem ∧
        (t.field (s.originField ((s.tileCtx (k / 4)).map TileCtx.gid) (k / 4 / 256))).notices =
          (s.field (s.originField ((s.tileCtx (k / 4)).map TileCtx.gid) (k / 4 / 256))).notices ++ [r] ∧
        r.what.cause = cUND ∧ r.what.halt = true ∧ r.what.pos = (s.tcore k).ctx.pc) ∧
    (∀ g, Instr.mode i = Mode.tile → CanTrap s g → ∃ t, exec i s = .next t ∧ TookTrap s t g cUND s.iss.word false))

/-- eret restores sv, uie and inuh from estat and goes on at epc; spec and the rest of the thread stay. uret ends a completion
handler: inuh is cleared and the thread goes on at xfh; outside a handler it traps UND. -/
def Obligations.ReturnForms : Prop :=
  (∀ (s : State) (g : Nat), s.cur = .thread g → (s.thread g).sv = true →
    ∃ t, exec .eret s = .next t ∧ SameRest s t ∧
      t.iss = { s.iss with npc := some ((s.thread g).epc &&& 0xFFFFFFFFFFFF8#64) } ∧
      t.thread g = { s.thread g with
        sv := (s.thread g).estat.getLsbD 1, uie := (s.thread g).estat.getLsbD 4, inuh := (s.thread g).estat.getLsbD 5 }) ∧
  (∀ (s : State) (g : Nat), s.cur = .thread g →
    ((s.thread g).inuh = true → ∃ t, exec .uret s = .next t ∧ SameRest s t ∧
      t.iss = { s.iss with npc := some ((s.thread g).xfh &&& 0xFFFFFFFFFFFF8#64) } ∧
      t.thread g = { s.thread g with inuh := false }) ∧
    ((s.thread g).inuh = false → CanTrap s g → ∃ t, exec .uret s = .next t ∧ TookTrap s t g cUND s.iss.word false))

/-- csrr reads and csrw writes the control registers of a thread: every register of the table that its privilege reaches, each with its
own fields; a number that a thread has no register for, and a write of a register without a writable field, trap UND. A compute core
reads its own eight registers and writes vrm, vflags, mdesc and rsel, and its status ignores a write; every other number halts it with
UND. -/
def Obligations.ControlRegisters : Prop :=
  (∀ (s : State) (g : Nat) (d : SReg) (n : BitVec 12) (x : Word), s.cur = .thread g → csrValue s g n.toNat = some x →
    (n.toNat < 0x100 ∨ (s.thread g).sv = true) → ∃ t, exec (.csrr d n) s = .next t ∧ WroteS s t d x) ∧
  (∀ (s : State) (g : Nat) (a : SReg) (n : BitVec 12) (th : Thread), s.cur = .thread g → (s.thread g).spec = false →
    ((n.toNat < 0x100 ∧ n ≠ 0x011) ∨ (s.thread g).sv = true) →
    csrWritten (s.thread g) n.toNat (s.rS a) (s.blk (g / 128)).cyc = some th →
    ∃ t, exec (.csrw n a) s = .next t ∧ ThreadOnly s t g th) ∧
  (∀ (s : State) (g : Nat) (d a : SReg) (n : BitVec 12), CanTrap s g →
    (csrValue s g n.toNat = none → ∃ t, exec (.csrr d n) s = .next t ∧ TookTrap s t g cUND s.iss.word false) ∧
    (csrWritten (s.thread g) n.toNat (s.rS a) (s.blk (g / 128)).cyc = none →
      ∃ t, exec (.csrw n a) s = .next t ∧ TookTrap s t g cUND s.iss.word false)) ∧
  ∀ (s : State) (k : Nat) (d a : SReg) (n : BitVec 12), s.cur = .core k →
    (∀ x, coreCsr s k n.toNat = some x → ∃ t, exec (.csrr d n) s = .next t ∧ WroteS s t d x) ∧
    (∀ c, coreCsrWritten (s.tcore k) n.toNat (s.rS a) = some c →
      ∃ t, exec (.csrw n a) s = .next t ∧ SameRest s t ∧ t.tcore k = c) ∧
    (coreCsr s k n.toNat = none → ∃ t, exec (.csrr d n) s = .next t ∧ CoreUnd s t k) ∧
    (coreCsrWritten (s.tcore k) n.toNat (s.rS a) = none → ∃ t, exec (.csrw n a) s = .next t ∧ CoreUnd s t k)

/-! ## Waiting, invalidation, moving threads -/

/-- wfi and wfit stop the thread; a pending completion or a due halt ends either, ctime reaching s[a] ends wfit; a
reservation that is lost ends wait.r, which writes the reservation's address. An event that falls due ends wait.r with 2, recv with 0, and
sync.wait with the generation and bit 16 set; recv ends with its record, and sync.wait with the generation, once what they wait for has
come. -/
def Obligations.WaitForms : Prop :=
  (∀ (s : State) (g : Nat) (a : SReg), s.cur = .thread g → (s.thread g).spec = false →
    (∃ t, exec .wfi s = .next t ∧ ThreadOnly s t g { s.thread g with run := .wait .wfi }) ∧
    (∃ t, exec (.wfit a) s = .next t ∧ ThreadOnly s t g { s.thread g with run := .wait (.wfit (s.rS a)) })) ∧
  (∀ (s : State) (g : Nat), (s.thread g).run = .wait .wfi → ((s.thread g).comps ≠ [] ∨ (s.thread g).due ≠ []) →
    EndsWait (.threadWake (.thread g)) s g 0 0) ∧
  (∀ (s : State) (g : Nat) (x : Word), (s.thread g).run = .wait (.wfit x) →
    (s.ns - (s.blk (g / 128)).lag) % 2 ^ 64 < x.toNat → ((s.thread g).comps ≠ [] ∨ (s.thread g).due ≠ []) →
    EndsWait (.wfitDeadline g) s g 0 0) ∧
  (∀ (s : State) (g : Nat) (x : Word), (s.thread g).run = .wait (.wfit x) →
    x.toNat ≤ (s.ns - (s.blk (g / 128)).lag) % 2 ^ 64 →
    ∃ t, exec (.wfitDeadline g) s = .next t ∧ t.mem = s.mem ∧ t.thread g = { s.thread g with run := .run }) ∧
  (∀ (s : State) (g : Nat) (d : SReg), (s.thread g).run = .wait (.resv d) →
    (∀ r, (s.thread g).resv = [r] → r.lost = true → EndsWait (.threadWake (.thread g)) s g d (BitVec.ofNat 64 r.va)) ∧
    ((∀ r ∈ (s.thread g).resv, r.lost = false) → EventDue (s.thread g) → EndsWait (.threadWake (.thread g)) s g d 2)) ∧
  ∀ (s : State) (g : Nat) (d : SReg) (va : Word) (p : Phys), s.xlThread g va.toNat (s.need g true false .any) = .ok p → p.home = .dram →
    ((s.thread g).run = .wait (.recv d va) →
      (memNat s.mem (p.pa + 16) 8 = memNat s.mem (p.pa + 8) 8 → EventDue (s.thread g) →
        EndsWait (.threadWake (.thread g)) s g d 0) ∧
      (memNat s.mem (p.pa + 16) 8 ≠ memNat s.mem (p.pa + 8) 8 → memNat s.mem p.pa 2 ≠ 0 →
        EndsWait (.threadWake (.thread g)) s g d
          (BitVec.ofNat 64 (va.toNat + 64 + 40 * (memNat s.mem (p.pa + 8) 8 % memNat s.mem p.pa 2))))) ∧
    ∀ n : BitVec 16, (s.thread g).run = .wait (.sync d va n) →
      ((memNat s.mem (p.pa + 10) 2 + 65536 - n.toNat) % 65536 < 32768 →
        EndsWait (.threadWake (.thread g)) s g d (BitVec.ofNat 64 (memNat s.mem (p.pa + 10) 2))) ∧
      ((memNat s.mem (p.pa + 10) 2 + 65536 - n.toNat) % 65536 ≥ 32768 → EventDue (s.thread g) →
        EndsWait (.threadWake (.thread g)) s g d (BitVec.ofNat 64 (memNat s.mem (p.pa + 10) 2 + 65536)))

/-- tlbi and icinv leave no translation, and no instruction line, of the range in any covered core's cache, and every other one as
it was. tlbi waits at issue while an access of the scope that was translated before has not been performed, and icinv while the store
buffer holds an entry. -/
def Obligations.InvalidationForms : Prop :=
  ∀ (s : State) (g c : Nat) (sc : Scope) (a b : SReg), s.cur = .thread g →
    ((s.thread g).sv = true → s.storesIn g sc (s.rS a) (s.rS b) = false →
      ∃ t, exec (.tlbi sc a b) s = .next t ∧ t.mem = s.mem ∧
        (t.core c).tlb = if covers sc g c then
          (s.core c).tlb.filter (fun e => !inRange (s.rS a) (s.rS b) e.base (2 ^ pageLog e.level)) else (s.core c).tlb) ∧
    ((s.thread g).sv = true → s.storesIn g sc (s.rS a) (s.rS b) = true → ∃ t, exec (.tlbi sc a b) s = .next t ∧ WaitsAtIssue s t g) ∧
    ((s.thread g).spec = false → (s.thread g).sb ≠ [] → ∃ t, exec (.icinv sc a b) s = .next t ∧ WaitsAtIssue s t g) ∧
    ((s.thread g).spec = false → (s.thread g).sb = [] →
      ∃ t, exec (.icinv sc a b) s = .next t ∧ t.mem = s.mem ∧ (t.core c).tlb = (s.core c).tlb ∧
        (t.core c).ilines = if covers sc g c then
          (s.core c).ilines.filter (fun l => !inRange (s.rS a) (s.rS b) l.va 64) else (s.core c).ilines)

/-- preempt of one existing thread: a running one gets a due halt or PREEMPT trap and the result stays awaited; a halted one runs
again; a free slot, or the issuer itself, answers 1. -/
def Obligations.PreemptForms : Prop :=
  ∀ (s : State) (g u : Nat) (d a : SReg), s.cur = .thread g → (s.thread g).sv = true →
    slotNameOk (s.rS a) = true → (slotName (s.rS a)).core = true → (slotName (s.rS a)).all = false →
    (slotName (s.rS a)).op ≠ 3 → s.slotExists (slotName (s.rS a)) = true →
    u = (slotName (s.rS a)).num * 8 + (slotName (s.rS a)).tid →
    (u ≠ g → (s.thread u).run = .run →
      (∃ t, exec (.preemptHalt d a) s = .next t ∧ t.mem = s.mem ∧
        (t.thread u).due = (s.thread u).due ++ [{ trap := false, by_ := some s.fresh }] ∧
        (t.thread g).ctx.pend = s.ctx.pend ++ [{ awaited s d with fly := .preempt }]) ∧
      (∃ t, exec (.preemptTrap d a) s = .next t ∧ t.mem = s.mem ∧
        (t.thread u).due = (s.thread u).due ++ [{ trap := true, by_ := some s.fresh }] ∧
        (t.thread g).ctx.pend = s.ctx.pend ++ [{ awaited s d with fly := .preempt }])) ∧
    (u ≠ g → (s.thread u).run = .halted → s.taskOf u = none →
      ∃ t, exec (.preemptResume d a) s = .next t ∧ t.mem = s.mem ∧ t.thread u = { s.thread u with run := .run }) ∧
    (u = g ∨ (s.thread u).run = .free →
      (∃ t, exec (.preemptHalt d a) s = .next t ∧ Queued s t (.sreg d) 1 0) ∧
      (∃ t, exec (.preemptTrap d a) s = .next t ∧ Queued s t (.sreg d) 1 0) ∧
      (∃ t, exec (.preemptResume d a) s = .next t ∧ Queued s t (.sreg d) 1 0))

/-- halt makes the issuer's own halt due; a due halt of a thread without open windows stops it in its slot with its reservations
lost, and a compute core halts between bundles. The issuer of a preempt whose requests have all been taken has its result in its next
turn. -/
def Obligations.HaltsAreTaken : Prop :=
  (∀ (s : State) (g : Nat), s.cur = .thread g → (s.thread g).sv = true →
    ∃ t, exec .halt s = .next t ∧ ThreadOnly s t g
      { s.thread g with due := (s.thread g).due ++ [{ trap := false, by_ := none }] }) ∧
  (∀ (s : State) (g : Nat) (b : Option Nat) (l : List Due), (s.thread g).run = .run → (s.thread g).spec = false →
    (s.thread g).ctx.pend = [] → (s.thread g).due = { trap := false, by_ := b } :: l →
    ∃ t, exec (.preemptHaltTaken (.thread g)) s = .next t ∧ t.mem = s.mem ∧ (t.thread g).run = .halted ∧
      (t.thread g).ctx = (s.thread g).ctx ∧ (∀ r ∈ (t.thread g).resv, r.lost = true) ∧ ∀ d ∈ (t.thread g).due, d.trap = true) ∧
  (∀ (s : State) (k : Nat), (s.tcore k).due ≠ [] →
    ∃ t, exec (.preemptHaltTaken (.core k)) s = .next t ∧ t.mem = s.mem ∧
      t.tcore k = { s.tcore k with halted := true, due := [] }) ∧
  ∀ (s : State) (g : Nat) (p : Pending), s.turnNow (.thread g) = true → s.escStops g = false → (s.thread g).run = .run →
    (s.thread g).ctx.pend = [p] → Answered s p →
    ∃ t, s.turn (.thread g) .clean = .next t ∧ t.mem = s.mem ∧ (t.thread g).ctx = { (s.thread g).ctx with pend := [{ p with ready := true }] }

/-- ctx.save of a halted thread writes its 2,048-byte image at the issuer's address and answers 0, and frees the slot when its operand
asks for that; of a slot that cannot be saved it answers 1 and writes nothing. It waits at issue while the issuer's store buffer holds an
entry, and while an entry of the saved thread is on its way to another device. ctx.load into an occupied slot answers 1; of bytes that
are no image, or whose group is gone, or whose stores do not translate, it answers 2; of an image it admits a halted thread with the
image's registers and its stores translated anew, and answers 0. -/
def Obligations.ContextForms : Prop :=
  (∀ (s : State) (g u : Nat) (d a : SReg) (imm : Imm) (ps : List (Nat × Nat × Phys)), s.cur = .thread g →
    (s.thread g).spec = false → (s.thread g).sv = true →
    ctxNameOk (s.rS d) true = true → u = (slotName (s.rS d)).num * 8 + (slotName (s.rS d)).tid →
    ImagePlace s g (eaOf s a imm) true ps →
    (s.savable (slotName (s.rS d)) u = false → ∃ t, exec (.ctxSave d a imm) s = .next t ∧ Queued s t (.sreg d) 1 0) ∧
    (s.savable (slotName (s.rS d)) u = true → ((s.thread g).sb ≠ [] ∨ (s.thread u).sb.any SbEntry.sent = true) →
      ∃ t, exec (.ctxSave d a imm) s = .next t ∧ WaitsAtIssue s t g) ∧
    (s.savable (slotName (s.rS d)) u = true → (s.thread g).sb = [] → (s.thread u).sb.any SbEntry.sent = false →
      PlainParts s ps →
      ∃ t, exec (.ctxSave d a imm) s = .next t ∧ WroteParts s t ps ((s.thread u).image.take 2048) ∧
        (u ≠ g → (t.thread g).ctx.pend = s.ctx.pend ++ [arrived s d 0]) ∧
        ((slotName (s.rS d)).op = 1 → u ≠ g → t.thread u = {} ∧ t.dev.away = s.dev.away ++ (s.thread u).stack.toList) ∧
        ((slotName (s.rS d)).op = 0 → u ≠ g → { t.thread u with resv := [] } = { s.thread u with resv := [] }))) ∧
  (∀ (s : State) (g u : Nat) (d a : SReg) (imm : Imm) (ps : List (Nat × Nat × Phys)), Plain s g → (s.thread g).sv = true →
    ctxNameOk (s.rS d) false = true → u = (slotName (s.rS d)).num * 8 + (slotName (s.rS d)).tid → u ≠ g →
    (slotName (s.rS d)).core = true → s.slotExists (slotName (s.rS d)) = true → ImagePlace s g (eaOf s a imm) false ps →
    ((s.thread u).run ≠ .free → ∃ t, exec (.ctxLoad d a imm) s = .next t ∧ Queued s t (.sreg d) 1 0) ∧
    ((s.thread u).run = .free → readImage (s.readParts ps) = none →
      ∃ t, exec (.ctxLoad d a imm) s = .next t ∧ Queued s t (.sreg d) 2 0) ∧
    (∀ th i, (s.thread u).run = .free → readImage (s.readParts ps) = some (th, some i) → s.group i = none →
      ∃ t, exec (.ctxLoad d a imm) s = .next t ∧ Queued s t (.sreg d) 2 0) ∧
    ∀ th grp, (s.thread u).run = .free → readImage (s.readParts ps) = some (th, grp) →
      (∀ i, grp = some i → (s.group i).isSome = true) →
      (∀ e, (s.translateSb th.sv th.sb).2 = .error e →
        ∃ t, exec (.ctxLoad d a imm) s = .next t ∧ Queued s t (.sreg d) 2 0) ∧
      (∀ es, (s.translateSb th.sv th.sb).2 = .ok es →
        ∃ t, exec (.ctxLoad d a imm) s = .next t ∧ (t.thread u).run = .halted ∧ (t.thread u).ctx = th.ctx ∧
          (t.thread u).sv = th.sv ∧ (t.thread u).epc = th.epc ∧ (t.thread u).group = grp ∧ (t.thread u).sb = es ∧
          (t.thread g).ctx.pend = s.ctx.pend ++ [arrived s d 0]))

/-! ## Creating and answering threads -/

/-- spawn, spawn.t and callat send one record to a rotunda, behind those already on their way (log 22: the model's reading), and await its
answer: spawn to the
issuer's field, spawn.t for a core of the issuer's block, callat to the field that homes the line at s[d]. A spawn.t whose timestamp
lies below the issuer's own traps ORDER with the issuer's timestamp. -/
def Obligations.CreatingForms : Prop :=
  (∀ (s : State) (g : Nat) (d a : SReg) (q : Quad), s.cur = .thread g → (s.thread g).spec = false →
    (s.rS a).toNat / 2 ^ 52 % 2 ^ 6 = 0 →
    (∃ t r, exec (.spawn d a q) s = .next t ∧ t.mem = s.mem ∧
      (t.field (g / 1024)).arr = (s.field (g / 1024)).arr ++ [r] ∧ r.pref = .field ∧
      r.data = mkRec (headerOf (s.rS a) (s.thread g).sv false) (s.quad q) 0 0 ∧
      (t.thread g).ctx.pend = s.ctx.pend ++ [awaited s d]) ∧
    ((s.thread g).task = none ∨ (s.thread g).tsval.toNat ≤ (s.rS d).toNat →
      ∃ t r, exec (.spawnT d a q) s = .next t ∧ t.mem = s.mem ∧
        (t.field (g / 1024)).arr = (s.field (g / 1024)).arr ++ [r] ∧ r.pref = .only (g / 128) ∧
        r.data = mkRec (headerOf (s.rS a) (s.thread g).sv true) (s.quad q) 0 (s.rS d) ∧
        (t.thread g).ctx.pend = s.ctx.pend ++ [awaited s d]) ∧
    (∀ f b, s.callatHome g (s.rS d) = .ok f b →
      ∃ t r, exec (.callat d a q) s = .next t ∧ t.mem = s.mem ∧ (t.field f).arr = (s.field f).arr ++ [r] ∧
        r.pref = .first (8 * f + b) ∧ r.data = mkRec (headerOf (s.rS a) (s.thread g).sv false) (s.quad q) 0 0 ∧
        (t.thread g).ctx.pend = s.ctx.pend ++ [awaited s d])) ∧
  (∀ (s : State) (g : Nat) (d a : SReg) (q : Quad), CanTrap s g → (s.rS a).toNat / 2 ^ 52 % 2 ^ 6 = 0 →
    (s.thread g).task ≠ none → (s.rS d).toNat < (s.thread g).tsval.toNat →
    ∃ t, exec (.spawnT d a q) s = .next t ∧ TookTrap s t g cORDER (s.thread g).tsval false)

/-- The invoke forms. With a target on this device one record goes to the named field's rotunda, with the descriptor's priority and
handler, the four arguments, the ticket and the issuer's privilege, behind the records already on their way (log 22: the model's reading);
with a target on another device the record goes out as one packet to it, and with no live path there the status is LINK_LOST at once. The
core's ticket table takes the next ticket when there is a mailbox, and the result is awaited; with 64 tickets outstanding such a bundle
waits. -/
def Obligations.InvokeForms : Prop :=
  ∀ (s : State) (g n : Nat) (d a : SReg) (q : Quad) (i : Instr), (i, n) ∈ invokeForms d a q →
    s.cur = .thread g → (s.thread g).spec = false → InvokeOk (s.rS a) (s.rS d) →
    ((s.rS d = 0 ∨ (s.core (g / 8)).outst.length < 64) →
      ((s.rS a).toNat / 2 ^ 20 % 2 ^ 10 = s.dev.devnum →
        ∃ t r v, exec i s = .next t ∧ t.mem = s.mem ∧
          (t.field ((s.rS a).toNat / 2 ^ 30 % 16)).arr = (s.field ((s.rS a).toNat / 2 ^ 30 % 16)).arr ++ [r] ∧
          r.data = mkRec (invokeHeader (s.rS a) (s.thread g).sv) (s.quad q) (ticketFor s g (s.rS d)) 0 ∧
          r.sender = .thread (s.thread g).sv ∧ r.pref = .field ∧ r.notify = .inv s.fresh ∧
          r.path = (if ticketFor s g (s.rS d) = 0 then .none else .core (g / 8)) ∧
          v ∈ t.dev.invs ∧ v.id = s.fresh ∧ v.g = g ∧ v.tok = s.fresh ∧ v.form = n ∧ v.tries = 0 ∧
          TicketTaken s t (g / 8) (s.rS d) (s.thread g).sv ∧
          (t.thread g).ctx.pend = s.ctx.pend ++ [awaited s d]) ∧
      (∀ port, (s.rS a).toNat / 2 ^ 20 % 2 ^ 10 ≠ s.dev.devnum → s.livePort ((s.rS a).toNat / 2 ^ 20 % 2 ^ 10) = some port →
        ∃ t u v, exec i s = .next t ∧ t.mem = s.mem ∧ t.dev.unans = s.dev.unans ++ [u] ∧
          u.dest = (s.rS a).toNat / 2 ^ 20 % 2 ^ 10 ∧ u.kind = .inv s.fresh ∧ u.port = port ∧
          v ∈ t.dev.invs ∧ v.id = s.fresh ∧
          v.data = mkRec (invokeHeader (s.rS a) (s.thread g).sv) (s.quad q) (ticketFor s g (s.rS d)) 0 ∧
          TicketTaken s t (g / 8) (s.rS d) (s.thread g).sv ∧
          (t.thread g).ctx.pend = s.ctx.pend ++ [awaited s d]) ∧
      ((s.rS a).toNat / 2 ^ 20 % 2 ^ 10 ≠ s.dev.devnum → s.livePort ((s.rS a).toNat / 2 ^ 20 % 2 ^ 10) = none →
        (∀ v ∈ s.dev.invs, v.id ≠ s.fresh) → (∀ p ∈ s.ctx.pend, p.awaits s.fresh = false) →
        ∃ t, exec i s = .next t ∧ t.mem = s.mem ∧ t.dev.invs = s.dev.invs ∧
          TicketTaken s t (g / 8) (s.rS d) (s.thread g).sv ∧
          (t.thread g).ctx.pend = s.ctx.pend ++ [{ awaited s d with
            ready := true, val := BitVec.ofNat 256 ((ticketFor s g (s.rS d)).toNat * 2 ^ 32 + 5) }])) ∧
    (s.rS d ≠ 0 → 64 ≤ (s.core (g / 8)).outst.length →
      ∃ t, exec i s = .next t ∧ WaitsAtIssue s t g)

/-- quit and reply of a thread with nothing left to drain free its slot. The reply of a thread whose group was invoked by a core
of this device: one reply message with the group's ticket and the three values, once; a group that has replied sends nothing more. A quit
with s[d] ≠ 0 answers such an invoker with status 4 and the cause in s[d]; one with s[d] = 0 answers as reply does when its thread is the
last of its group, and sends nothing before. -/
def Obligations.QuitAndReply : Prop :=
  (∀ (s : State) (g : Nat) (d a b : SReg), Plain s g → (s.thread g).ctx.pend = [] → s.ownsLock g = false →
    (s.thread g).lkl = none → (s.thread g).task = none → (s.thread g).group = none →
    ((s.rS d = 0 ∨ (s.thread g).sv = true) →
      ∃ t, exec (.quit d a b) s = .next t ∧ (t.thread g).run = .free ∧ (t.thread g).ctx = Ctx.zero ∧ t.mem = s.mem) ∧
    (∃ t, exec (.reply d a b) s = .next t ∧ (t.thread g).run = .free ∧ (t.thread g).ctx = Ctx.zero ∧ t.mem = s.mem)) ∧
  (∀ (s : State) (g i c : Nat) (d a b : SReg) (x : Group), Plain s g → (s.thread g).ctx.pend = [] → s.ownsLock g = false →
    (s.thread g).lkl = none → (s.thread g).task = none → (s.thread g).group = some i → s.group i = some x →
    x.path = .core c → x.sent = false →
    ∃ t m, exec (.reply d a b) s = .next t ∧ (t.thread g).run = .free ∧ t.dev.replies = s.dev.replies ++ [m] ∧
      m.core = c ∧ m.data = replyData x.ticket 0 0 (s.rS d) (s.rS a) (s.rS b) ∧
      t.group i = if x.left ≤ 1 then none else some { x with sent := true, left := x.left - 1 }) ∧
  (∀ (s : State) (g i : Nat) (d a b : SReg) (x : Group), Plain s g → (s.thread g).ctx.pend = [] → s.ownsLock g = false →
    (s.thread g).lkl = none → (s.thread g).task = none → (s.thread g).group = some i → s.group i = some x → x.sent = true →
    ∃ t, exec (.reply d a b) s = .next t ∧ (t.thread g).run = .free ∧ t.dev.replies = s.dev.replies ∧
      t.group i = if x.left ≤ 1 then none else some { x with left := x.left - 1 }) ∧
  ∀ (s : State) (g i c : Nat) (d a b : SReg) (x : Group), Plain s g → (s.thread g).ctx.pend = [] → s.ownsLock g = false →
    (s.thread g).lkl = none → (s.thread g).task = none → (s.thread g).group = some i → s.group i = some x →
    x.path = .core c →
    (x.sent = false → s.rS d ≠ 0 → (s.thread g).sv = true →
      ∃ t m, exec (.quit d a b) s = .next t ∧ (t.thread g).run = .free ∧ t.dev.replies = s.dev.replies ++ [m] ∧
        m.core = c ∧ m.data = replyData x.ticket 4 ((s.rS d).toNat % 256) 0 0 0 ∧
        t.group i = if x.left ≤ 1 then none else some { x with sent := true, left := x.left - 1 }) ∧
    (x.sent = false → s.rS d = 0 → x.left ≤ 1 →
      ∃ t m, exec (.quit d a b) s = .next t ∧ (t.thread g).run = .free ∧ t.dev.replies = s.dev.replies ++ [m] ∧
        m.core = c ∧ m.data = replyData x.ticket 0 0 0 (s.rS a) (s.rS b) ∧ t.group i = none) ∧
    (x.sent = true ∨ (s.rS d = 0 ∧ x.left > 1) → (s.rS d = 0 ∨ (s.thread g).sv = true) →
      ∃ t, exec (.quit d a b) s = .next t ∧ (t.thread g).run = .free ∧ t.dev.replies = s.dev.replies ∧
        t.group i = if x.left ≤ 1 then none else some { x with left := x.left - 1 })

/-- recv answers the address of the mailbox's head record, or waits while head and tail are equal; abq answers 0 for a thread that
is no ordered task, and count, spec and oldest of the unfinished for one that is. recv waits at issue while a store of the thread
to the header's line is in its buffer. -/
def Obligations.RecvAndAbq : Prop :=
  ∀ (s : State) (g : Nat) (d a : SReg) (x : Imm) (p : Phys), s.cur = .thread g →
    ((s.thread g).spec = false → Reaches s g (eaOf s a x) 64 64 true false .any p →
      ((s.thread g).sb.any fun e => e.over p 64) = true → ∃ t, exec (.recv d a x) s = .next t ∧ WaitsAtIssue s t g) ∧
    ((s.thread g).spec = false → p.home = .dram → Reaches s g (eaOf s a x) 64 64 true false .any p →
      ((s.thread g).sb.any fun e => e.over p 64) = false →
      (memNat s.mem (p.pa + 16) 8 ≠ memNat s.mem (p.pa + 8) 8 → memNat s.mem p.pa 2 ≠ 0 →
        ∃ t, exec (.recv d a x) s = .next t ∧ WroteS s t d
          (BitVec.ofNat 64 ((eaOf s a x).toNat + 64 + 40 * (memNat s.mem (p.pa + 8) 8 % memNat s.mem p.pa 2)))) ∧
      (memNat s.mem (p.pa + 16) 8 = memNat s.mem (p.pa + 8) 8 →
        ∃ t, exec (.recv d a x) s = .next t ∧ ThreadOnly s t g { s.thread g with run := .wait (.recv d (eaOf s a x)) })) ∧
    (s.taskOf g = none → ∃ t, exec (.abq d) s = .next t ∧ WroteS s t d 0) ∧
    (∀ k, s.taskOf g = some k → ∃ t, exec (.abq d) s = .next t ∧
      WroteS s t d (BitVec.ofNat 64
        (k.aborts + (if (s.thread g).spec then 256 else 0) + (if s.isOldestUnfinished g then 512 else 0))))

namespace Sys2Proof.Claims

open Sys2Proof.Machine

/-! ## Engines and tiles -/

/-- The unit in hand runs no speculative task. -/
def NotSpec (s : State) : Prop := ∀ g, s.cur = .thread g → (s.thread g).spec = false

/-- A sync word after `bytes` more bytes and `arrs` more arrivals and one evaluation of its phase (R94, R270, R271): the word and
whether it advanced. -/
def phase (w : SyncW) (bytes arrs : Nat) : SyncW × Bool :=
  let cnt := min (w.cnt + bytes) 0xFFFFFFFF
  let arr := min (w.arr + arrs) 0xFF
  let ovf := w.ovf || decide (w.cnt + bytes > 0xFFFFFFFF ∨ w.arr + arrs > 0xFF)
  if cnt ≥ w.btgt ∧ arr ≥ w.atgt ∧ (w.btgt ≠ 0 ∨ w.atgt ≠ 0) then
    ({ w with cnt := cnt - w.btgt, arr := 0, ovf := ovf, gen := (w.gen + 1) % 65536
              gwrap := w.gwrap || decide (w.gen = 0xFFFF) }, true)
  else ({ w with cnt := cnt, arr := arr, ovf := ovf }, false)

/-- The micro-program cache of tile `t` holds an entry of an identity that is not stale (R356, R360). -/
abbrev IsCached (s : State) (t : Nat) (ident : Word) : Prop := ∃ e ∈ (s.tile t).mcache, e.ident = ident ∧ e.stale = false

/-- A compile of an identity for tile `t` is pending in its block's queue (R362). -/
abbrev IsPending (s : State) (t : Nat) (ident : Word) : Prop := ∃ c ∈ (s.blk (t / 32)).comps, c.tile = t ∧ c.ident = ident

/-- What a pcomp for tile `t` of block `b` answers: 1 cached, 2 pending, 3 when the compiler's queue is full, 0 when it queues (R199). -/
def compCode (s : State) (b t : Nat) (ident : Word) : Nat :=
  if IsCached s t ident then 1 else if IsPending s t ident then 2 else if 16 ≤ (s.blk b).comps.length then 3 else 0

/-- The unit in hand awaits the end of the cycle of a sync word's update unit in which its form lands: `d` is to take the result. -/
def syncAwaited (s : State) (d : SReg) : Pending := { awaited s d with fly := .load (.scalar 8 false) true }

/-- No cycle of the update unit of the sync word at `pa` that has passed waits for its end. -/
def Settled (s : State) (pa : Nat) : Prop := s.landed pa = {} ∨ s.syncCyc pa ≤ (s.landed pa).cyc

/-- Something lands at the sync word at `pa` in the present cycle of its update unit, or in the next when a plain store has ended the
present one (R270, R272), with what stands there already for that cycle: `f` adds it. -/
def Lands (s t : State) (pa : Nat) (f : Landed → Landed) : Prop :=
  t.landed pa = f { s.landed pa with cyc := max (s.landed pa).cyc (s.syncCyc pa) }

/-- The sync word at `pa` after the cycle that `l` stands for (R270, R271), and whether its phase has advanced. -/
def cycleOf (l : Landed) (w : SyncW) : SyncW × Bool :=
  let r := if l.bytes ≠ 0 ∨ l.arrs ≠ 0 ∨ l.carry = true then phase w l.bytes l.arrs else (w, false)
  match l.set with
  | none => r
  | some (b, a) => ({ btgt := b, cnt := 0, atgt := a, arr := 0, gen := 0, ovf := false, gwrap := false, rest := 0 }, r.2)

/-- The update unit of the sync word at `pa` has ended the cycle that stood there: the word holds what `cycleOf` says, and after an advance
the next cycle evaluates again. -/
def CycleEnded (s t : State) (pa : Nat) : Prop :=
  PutBytes s t pa (leBytes 16 (cycleOf (s.landed pa) (syncOf (memNat s.mem pa 16))).1.word) ∧
    t.landed pa = if (cycleOf (s.landed pa) (syncOf (memNat s.mem pa 16))).2 then
      { cyc := (s.landed pa).cyc + 1, carry := true, by_ := (s.landed pa).by_ } else {}

/-- Job `j` of block `b`'s dispenser. -/
def jobAt (s : State) (b j : Nat) : Job := Tab.get {} (s.blk b).jobs j

/-- The block of the unit in hand. -/
def blkOf (s : State) : Nat := match s.cur with | .thread g => g / 128 | .core k => k / 128

/-- The chunks of a descriptor in x and in y (R203). -/
def chunksX (x : Word) : Nat := (x.toNat % 2 ^ 16 + x.toNat / 2 ^ 32 % 2 ^ 8 - 1) / (x.toNat / 2 ^ 32 % 2 ^ 8)
def chunksY (x : Word) : Nat :=
  (x.toNat / 2 ^ 16 % 2 ^ 16 + x.toNat / 2 ^ 40 % 2 ^ 8 - 1) / (x.toNat / 2 ^ 40 % 2 ^ 8)

/-- Chunk `q` of a descriptor (R202, R203). -/
def chunkAt (x : Word) (q : Nat) : Nat :=
  let x0 := q % chunksX x * (x.toNat / 2 ^ 32 % 2 ^ 8)
  let y0 := q / chunksX x * (x.toNat / 2 ^ 40 % 2 ^ 8)
  x0 + y0 * 2 ^ 16 + min (x.toNat / 2 ^ 32 % 2 ^ 8) (x.toNat % 2 ^ 16 - x0) * 2 ^ 32 +
    min (x.toNat / 2 ^ 40 % 2 ^ 8) (x.toNat / 2 ^ 16 % 2 ^ 16 - y0) * 2 ^ 40

/-- A legal job descriptor (R202). -/
def jobLegal (x : Word) : Prop :=
  x.toNat / 2 ^ 48 = 0 ∧ x.toNat / 2 ^ 40 % 2 ^ 8 ≠ 0 ∧ x.toNat / 2 ^ 32 % 2 ^ 8 ≠ 0 ∧
    x.toNat / 2 ^ 16 % 2 ^ 16 ≠ 0 ∧ x.toNat % 2 ^ 16 ≠ 0

/-- The parts of a range translate for a unit, in the order of their addresses, and lie in memory. -/
def Sources (ps : List Phys) (parts : List (Nat × Nat)) (xl : Nat → Phys → Prop) : Prop :=
  ps.length = parts.length ∧
    ∀ (k : Nat) (e : Nat × Nat) (p : Phys), parts[k]? = some e → ps[k]? = some p → xl e.1 p ∧ InMemory p

/-- The bytes of the parts. -/
def sourceBytes (s : State) (ps : List Phys) (parts : List (Nat × Nat)) : List Byte :=
  (parts.zip ps).flatMap fun e => s.spanRead e.2 e.1.2

/-- The parameter block of a command of thread `g`, with the words `w` (R195): none, or the words that its address names, which the thread
reads with the rights of user privilege. -/
def BlockOf (s : State) (g : Nat) (w pb : List Word) : Prop :=
  (cmdPb (w.getD 0 0) = false ∧ pb = []) ∨
  (cmdPb (w.getD 0 0) = true ∧ (w.getD 3 0).toNat < 2 ^ 52 ∧ s.heldBack g = false ∧
    ∃ ps : List (Nat × Nat × Phys), (∀ e ∈ ps, InMemory e.2.2) ∧
      s.checkParts g { rd := true, wr := false, ex := false, sv := false } false
        (pageParts (w.getD 3 0).toNat (pbLen (cmdKind (w.getD 0 0)))) = .ok ps ∧ pb = wordsOf 11 (s.readParts ps))

/-- A port of compute core `k`, the one in hand, is bound, no pcomp consumes it, and its head is the token `f`. -/
def PortHolds (s : State) (k port : Nat) (f : Flit) : Prop :=
  s.cur = .core k ∧ s.draining k port = false ∧ s.portHead k port = some f ∧
    ∃ x, s.coreCtx k = some x ∧ x.bound (k % 4) port = true

/-- A core's context has a route-table entry for the route that rsel selects. -/
def RouteIs (s : State) (k : Nat) (r : OutRoute) : Prop :=
  s.cur = .core k ∧ ∃ x, s.coreCtx k = some x ∧ x.out ((s.tcore k).rsel.toNat % 2 ^ 12) = some r

/-- The elements of a token of `n` + 1 elements. -/
def elements (x : VWord) (n : Nat) : VWord := BitVec.ofNat 256 (x.toNat % 2 ^ (32 * (n + 1)))

/-- Compute core `k` hands one operation of the given kind to its tile's matrix queue, with the descriptor of the moment; a form
that holds its core stops it, another lets it go on. No memory, register or accumulator changes. -/
def Enqueued (s t : State) (k : Nat) (kind : MKind) : Prop :=
  t.mem = s.mem ∧ (t.tcore k).ctx = (s.tcore k).ctx ∧ (t.tcore k).mdesc = (s.tcore k).mdesc ∧
    (t.tcore k).run = (if kind.holds then .held else (s.tcore k).run) ∧
    t.tile (k / 4) = { s.tile (k / 4) with
      mq := (s.tile (k / 4)).mq ++ [{ core := k, kind := kind, md := (s.tcore k).mdesc, ctx := s.view }]
      mqLast := ((s.blk (k / 128)).cyc, k % 4)
      mqFrom := if (s.tile (k / 4)).mq = [] then max (s.tile (k / 4)).mqFrom ((s.blk (k / 128)).cyc + 1) else (s.tile (k / 4)).mqFrom }

end Sys2Proof.Claims

/-! ## Engines -/

/-- xfer with a command of the unit's own bundle, with or without a parameter block: accepted, it stands last in its port, holds its range
locks, and answers 0; with the port's sixteen places taken it answers 2, and with too few free range locks 1, and nothing else changes.
Behind a command that a fault on its block holds at the port, and until its turn in the device's order comes, the bundle waits (the
model's choice, log 113). A command that breaks R91, or a port that is absent, traps UND. -/
def Obligations.XferAnswers : Prop :=
  (∀ (s : State) (g : Nat) (d : SReg) (q : Quad) (port : BitVec 2) (pb : List Word) (c : Cmd), s.cur = .thread g →
    (s.thread g).spec = false → s.portsGone (g / 128) = false → s.wordsOk (g / 128) (s.quad q) = true → BlockOf s g (s.quad q) pb →
    cmdOf (s.quad q) pb = some c → s.cmdFits (g / 128) c = true → s.gateMapped c = true →
    (((s.xport (4 * (g / 128) + port.toNat)).held = true ∨
        ((s.xport (4 * (g / 128) + port.toNat)).q.length < 16 ∧ s.portOpen (g / 128) port.toNat = false)) →
      ∃ t, exec (.xfer d q port) s = .next t ∧ WaitsAtIssue s t g) ∧
    ((s.xport (4 * (g / 128) + port.toNat)).held = false →
      ((s.xport (4 * (g / 128) + port.toNat)).q.length ≥ 16 →
        ∃ t, exec (.xfer d q port) s = .next t ∧ WroteS s t d 2) ∧
      ((s.xport (4 * (g / 128) + port.toNat)).q.length < 16 → s.portOpen (g / 128) port.toNat = true →
        (s.lockRoom < (c.lockRanges (s.entriesOf c)).length →
          ∃ t, exec (.xfer d q port) s = .next t ∧ WroteS s t d 1) ∧
        ((c.lockRanges (s.entriesOf c)).length ≤ s.lockRoom →
          ∃ t x, exec (.xfer d q port) s = .next t ∧ t.mem = s.mem ∧ OnlyS s.ctx t.ctx d 0 ∧
            (t.xport (4 * (g / 128) + port.toNat)).q = (s.xport (4 * (g / 128) + port.toNat)).q ++ [s.fresh] ∧
            t.xfer s.fresh = some x ∧ x.w = s.quad q ∧ x.pb = pb ∧ x.phase = .queued ∧ x.uid = some ((s.thread g).uid, g) ∧
            t.dev.locks.map (fun l => (l.write, l.lo, l.hi)) =
              s.dev.locks.map (fun l => (l.write, l.lo, l.hi)) ++ c.lockRanges (s.entriesOf c))))) ∧
  ∀ (s : State) (g : Nat) (d : SReg) (q : Quad) (port : BitVec 2), CanTrap s g →
    (s.portsGone (g / 128) = true ∨ s.wordsOk (g / 128) (s.quad q) = false) →
    ∃ t, exec (.xfer d q port) s = .next t ∧ TookTrap s t g cUND s.iss.word false

/-- pcomp of a thread and of a tile core: 1 for an identity that the tile's cache holds, 2 for one whose compile is pending, 3 when the
compiler's queue of sixteen is full; else the compile is queued and the answer is 0. A thread's compile holds a read entry over its
metadata in the range-lock table; with no entry free it answers 3, and it waits at issue for its turn among the registrations and for the
accesses to the metadata that were checked before (the model's choices, log 25). A core's consumes the coordinate stream of a port,
whatever it answers: a consumption of that port begins, which takes the tokens that stand there, and which copies them into the compile
that was queued, if one was. -/
def Obligations.PcompAnswers : Prop :=
  (∀ (s : State) (g : Nat) (d : SReg) (q : Quad) (tile : BitVec 5) (p : Phys), s.cur = .thread g → (s.thread g).spec = false →
    s.tileExists (32 * (g / 128) + tile.toNat) = true → s.rS (quadReg q 3) = 0 → s.rS (quadReg q 1) ≠ 0 →
    0 < (s.rS (quadReg q 2)).toNat → (s.rS (quadReg q 2)).toNat < 2 ^ 32 →
    s.check g (s.rS (quadReg q 1)) 4 4 (s.need g true false .any) false = .ok p → s.heldBack g = false → s.atEdge p = none →
    ((IsCached s (32 * (g / 128) + tile.toNat) (s.rS (quadReg q 0)) →
      ∃ t, exec (.pcomp d q tile) s = .next t ∧ t.mem = s.mem ∧ t.blks = s.blks ∧ t.dev = s.dev ∧
        (t.thread g).ctx.pend = s.ctx.pend ++ [arrived s d 1]) ∧
    (¬ IsCached s (32 * (g / 128) + tile.toNat) (s.rS (quadReg q 0)) →
      (IsPending s (32 * (g / 128) + tile.toNat) (s.rS (quadReg q 0)) →
        ∃ t, exec (.pcomp d q tile) s = .next t ∧ Queued s t (.sreg d) 2 0) ∧
      (¬ IsPending s (32 * (g / 128) + tile.toNat) (s.rS (quadReg q 0)) →
        ((16 ≤ (s.blk (g / 128)).comps.length ∨ 512 ≤ s.dev.locks.length) →
          ∃ t, exec (.pcomp d q tile) s = .next t ∧ Queued s t (.sreg d) 3 0) ∧
        ((s.blk (g / 128)).comps.length < 16 → s.dev.locks.length < 512 →
          (s.lockTurn (g / 128) 4 s.ns = false ∨
            s.settled (s.rS (quadReg q 1)).toNat (s.rS (quadReg q 2)).toNat = false) →
          ∃ t, exec (.pcomp d q tile) s = .next t ∧ WaitsAtIssue s t g) ∧
        ((s.blk (g / 128)).comps.length < 16 → s.dev.locks.length < 512 → s.lockTurn (g / 128) 4 s.ns = true →
          s.settled (s.rS (quadReg q 1)).toNat (s.rS (quadReg q 2)).toNat = true →
          ∃ t c l, exec (.pcomp d q tile) s = .next t ∧ (t.blk (g / 128)).comps = (s.blk (g / 128)).comps ++ [c] ∧
            c.tile = 32 * (g / 128) + tile.toNat ∧ c.ident = s.rS (quadReg q 0) ∧ c.lock = some s.fresh ∧
            c.reqs = [.thread g s.ctx.pc (s.thread g).ticket] ∧ t.dev.locks = s.dev.locks ++ [l] ∧ l.id = s.fresh ∧
            l.lo = (s.rS (quadReg q 1)).toNat ∧ l.hi = (s.rS (quadReg q 1)).toNat + (s.rS (quadReg q 2)).toNat ∧
            l.write = false ∧ l.uid = some (s.thread g).uid ∧
            (t.thread g).ctx.pend = s.ctx.pend ++ [arrived s d 0]))))) ∧
  ∀ (s : State) (k : Nat) (d : SReg) (q : Quad) (tile : BitVec 5) (x : TileCtx), s.cur = .core k →
    s.tileExists (32 * (k / 128) + tile.toNat) = true → s.rS (quadReg q 3) = 0 → s.rS (quadReg q 1) = 0 →
    (s.rS (quadReg q 2)).toNat < 16 → s.coreCtx k = some x → x.bound (k % 4) (s.rS (quadReg q 2)).toNat = true →
    s.draining k (s.rS (quadReg q 2)).toNat = false →
    ∃ t, exec (.pcomp d q tile) s = .next t ∧ t.mem = s.mem ∧
      (t.tcore k).ctx.pend = s.ctx.pend ++ [arrived s d
        (BitVec.ofNat 64 (compCode s (k / 128) (32 * (k / 128) + tile.toNat) (s.rS (quadReg q 0))))] ∧
      (s.portQueue k (s.rS (quadReg q 2)).toNat = [] →
        (t.tcore k).drains = (s.tcore k).drains ++ [{
          port := (s.rS (quadReg q 2)).toNat
          fwd := decide (compCode s (k / 128) (32 * (k / 128) + tile.toNat) (s.rS (quadReg q 0)) = 0)
          tile := 32 * (k / 128) + tile.toNat, ident := s.rS (quadReg q 0), scan := {} }] ∧
        if compCode s (k / 128) (32 * (k / 128) + tile.toNat) (s.rS (quadReg q 0)) = 0 then
          ∃ c, (t.blk (k / 128)).comps = (s.blk (k / 128)).comps ++ [c] ∧ c.tile = 32 * (k / 128) + tile.toNat ∧
            c.ident = s.rS (quadReg q 0) ∧ c.mem = none ∧ c.reqs = [.core k]
        else (t.blk (k / 128)).comps = (s.blk (k / 128)).comps) ∧
      ∀ f, s.portQueue k (s.rS (quadReg q 2)).toNat = [f] → hKind f.hdr ≠ 7 →
        t.portQueue k (s.rS (quadReg q 2)).toNat = []

/-- sync.set and sync.arrive land at their sync word in the present cycle of its update unit, after everything else of that cycle is
known, and await its end in the return buffer, a sync.set of a thread too (logs 52, 53 and 58: the model's readings): no byte of memory
changes before, but for a watch word. sync.wait goes on at once with a generation that has been reached, and else stops its unit; a
thread's waits at issue while a store of its own to the word is in its buffer. What has landed is applied when the cycle has passed, with
one evaluation of the phase: byte counts and arrivals first, then the phase, then a sync.set; a cycle after one that advanced evaluates
again. Who waits gets the generation and the mark of an advance. The forms of a tile core name a word of its own SRAM. -/
def Obligations.SyncForms : Prop :=
  (∀ (s : State) (g : Nat) (d a b : SReg) (p : Phys), Plain s g → InMemory p →
    ((s.rS b).toNat / 2 ^ 40 = 0 → Settled s p.pa → Reaches s g (s.rS a) 16 16 false true .any p →
      ∃ t, exec (.syncSet a b) s = .next t ∧
        (∀ x, ¬ Watched s p.sw (s.rS a).toNat x → Memory.byte t.mem x = Memory.byte s.mem x) ∧
        (t.thread g).ctx = { s.ctx with pend := s.ctx.pend ++ [syncAwaited s 0] } ∧
        Lands s t p.pa fun l =>
          { l with set := some ((s.rS b).toNat % 2 ^ 32, (s.rS b).toNat / 2 ^ 32 % 2 ^ 8), who := l.who ++ [.thread g s.fresh]
                   by_ := mixBy l.by_ (some g) }) ∧
    ((s.rS b).toNat / 2 ^ 8 = 0 → s.rS b ≠ 0 → s.ownsLock g = false → Settled s p.pa → Reaches s g (s.rS a) 16 16 false true .any p →
      ∃ t, exec (.syncArrive d a b) s = .next t ∧
        (∀ x, ¬ Watched s p.sw (s.rS a).toNat x → Memory.byte t.mem x = Memory.byte s.mem x) ∧
        (t.thread g).ctx = { s.ctx with pend := s.ctx.pend ++ [syncAwaited s d] } ∧
        Lands s t p.pa fun l =>
          { l with arrs := l.arrs + (s.rS b).toNat, who := l.who ++ [.thread g s.fresh], by_ := mixBy l.by_ (some g) }) ∧
    ((s.rS b).toNat / 2 ^ 16 = 0 → Reaches s g (s.rS a) 16 16 true false .any p →
      ((memNat s.mem (p.pa + 10) 2 + 65536 - (s.rS b).toNat) % 65536 < 32768 →
        ∃ t, exec (.syncWait d a b) s = .next t ∧ WroteS s t d (BitVec.ofNat 64 (memNat s.mem (p.pa + 10) 2))) ∧
      (32768 ≤ (memNat s.mem (p.pa + 10) 2 + 65536 - (s.rS b).toNat) % 65536 →
        ∃ t, exec (.syncWait d a b) s = .next t ∧
          ThreadOnly s t g { s.thread g with run := .wait (.sync d (s.rS a) ((s.rS b).setWidth 16)) }))) ∧
  (∀ (s : State) (g : Nat) (d a b : SReg) (p : Phys), s.cur = .thread g → (s.thread g).spec = false → (s.rS b).toNat / 2 ^ 16 = 0 →
    Reaches s g (s.rS a) 16 16 true false .any p → ((s.thread g).sb.any fun e => e.over p 16) = true →
    ∃ t, exec (.syncWait d a b) s = .next t ∧ WaitsAtIssue s t g) ∧
  (∀ (s : State) (k : Nat) (d a b : SReg), s.cur = .core k → (s.rS a).toNat % 16 = 0 → (s.rS a).toNat < 0x80000 →
    ((s.rS b).toNat / 2 ^ 40 = 0 → s.released k = true → Settled s (sramAddr (k / 4) (s.rS a).toNat) →
      ∃ t, exec (.syncSet a b) s = .next t ∧ (t.tcore k).ctx = { s.ctx with pend := s.ctx.pend ++ [syncAwaited s 0] } ∧
        Lands s t (sramAddr (k / 4) (s.rS a).toNat) fun l =>
          { l with set := some ((s.rS b).toNat % 2 ^ 32, (s.rS b).toNat / 2 ^ 32 % 2 ^ 8), who := l.who ++ [.core k s.fresh]
                   by_ := some none }) ∧
    ((s.rS b).toNat / 2 ^ 8 = 0 → s.rS b ≠ 0 → s.released k = true → Settled s (sramAddr (k / 4) (s.rS a).toNat) →
      ∃ t, exec (.syncArrive d a b) s = .next t ∧ (t.tcore k).ctx = { s.ctx with pend := s.ctx.pend ++ [syncAwaited s d] } ∧
        Lands s t (sramAddr (k / 4) (s.rS a).toNat) fun l =>
          { l with arrs := l.arrs + (s.rS b).toNat, who := l.who ++ [.core k s.fresh], by_ := some none }) ∧
    ((s.rS b).toNat / 2 ^ 16 = 0 → s.ctx.pend.any Pending.holds = false →
      ((memNat s.mem (sramAddr (k / 4) (s.rS a).toNat + 10) 2 + 65536 - (s.rS b).toNat) % 65536 < 32768 →
        ∃ t, exec (.syncWait d a b) s = .next t ∧
          WroteS s t d (BitVec.ofNat 64 (memNat s.mem (sramAddr (k / 4) (s.rS a).toNat + 10) 2))) ∧
      (32768 ≤ (memNat s.mem (sramAddr (k / 4) (s.rS a).toNat + 10) 2 + 65536 - (s.rS b).toNat) % 65536 →
        ∃ t, exec (.syncWait d a b) s = .next t ∧ SameRest s t ∧ t.tcore k = { s.tcore k with
          run := .sync d (sramAddr (k / 4) (s.rS a).toNat) ((s.rS b).setWidth 16) }))) ∧
  (∀ (s : State) (pa : Nat), (s.landed pa).cyc < s.syncCyc pa →
    ((s.landed pa).bytes ≠ 0 ∨ (s.landed pa).arrs ≠ 0 ∨ (s.landed pa).set ≠ none →
      ∃ t, exec (.syncUpdateCycle pa) s = .next t ∧ CycleEnded s t pa) ∧
    ((s.landed pa).bytes = 0 → (s.landed pa).arrs = 0 → (s.landed pa).set = none → (s.landed pa).carry = true →
      ∃ t, exec (.syncCarryEval pa) s = .next t ∧ CycleEnded s t pa)) ∧
  ∀ (s : State) (pa g tok : Nat), (s.landed pa).cyc < s.syncCyc pa → (s.landed pa).arrs ≠ 0 → (s.landed pa).who = [.thread g tok] →
    ∃ t, exec (.syncUpdateCycle pa) s = .next t ∧
      (t.thread g).ctx.pend = (s.thread g).ctx.pend.map fun p => if p.tok = tok ∧ p.ready = false then
        { p with ready := true
                 val := BitVec.ofNat 256 ((phase (syncOf (memNat s.mem pa 16)) (s.landed pa).bytes (s.landed pa).arrs).1.gen +
                   if (phase (syncOf (memNat s.mem pa 16)) (s.landed pa).bytes (s.landed pa).arrs).2 then 65536 else 0) } else p

/-- The dispenser, on threads and tile cores: a load sets a job and its counter to 0, a take hands out chunk q and steps q, and
past the last chunk or before any load answers fin; fetcht.q answers the chunks left. rlq answers 0 when no registered range overlaps
the asked one, or when that is empty; else bit 63, the number of overlapping entries, and the xid of the one that starts lowest, the
first registered of those. -/
def Obligations.DispenserAndLockQuery : Prop :=
  (∀ (s : State) (a d : SReg) (j : BitVec 4) (ext : Bool), NotSpec s →
    (jobLegal (s.rS a) → ∃ t, exec (.fetchtLd a j ext) s = .next t ∧ t.mem = s.mem ∧ t.ctx = s.ctx ∧
      jobAt t (blkOf s) j.toNat = { desc := s.rS a, q := 0, loaded := true }) ∧
    ((jobAt s (blkOf s) j.toNat).loaded = true →
      (jobAt s (blkOf s) j.toNat).q < chunksX (jobAt s (blkOf s) j.toNat).desc * chunksY (jobAt s (blkOf s) j.toNat).desc →
      ∃ t, exec (.fetcht d j ext) s = .next t ∧ t.mem = s.mem ∧
        t.ctx.pend = s.ctx.pend ++
          [arrived s d (BitVec.ofNat 64 (chunkAt (jobAt s (blkOf s) j.toNat).desc (jobAt s (blkOf s) j.toNat).q))] ∧
        jobAt t (blkOf s) j.toNat = { jobAt s (blkOf s) j.toNat with q := (jobAt s (blkOf s) j.toNat).q + 1 }) ∧
    (((jobAt s (blkOf s) j.toNat).loaded = false ∨
        chunksX (jobAt s (blkOf s) j.toNat).desc * chunksY (jobAt s (blkOf s) j.toNat).desc ≤ (jobAt s (blkOf s) j.toNat).q) →
      ∃ t, exec (.fetcht d j ext) s = .next t ∧ t.mem = s.mem ∧
        t.ctx.pend = s.ctx.pend ++ [arrived s d (BitVec.ofNat 64 (2 ^ 63))] ∧
        jobAt t (blkOf s) j.toNat = jobAt s (blkOf s) j.toNat) ∧
    (∃ t, exec (.fetchtQ d j ext) s = .next t ∧ Queued s t (.sreg d)
      ((BitVec.ofNat 64 (if (jobAt s (blkOf s) j.toNat).loaded then
        chunksX (jobAt s (blkOf s) j.toNat).desc * chunksY (jobAt s (blkOf s) j.toNat).desc - (jobAt s (blkOf s) j.toNat).q
        else 0)).setWidth 256) 0)) ∧
  (∀ (s : State) (g : Nat) (d a b : SReg), s.cur = .thread g →
    ((s.rS b = 0 ∨ ∀ l ∈ s.dev.locks, (s.rS a).toNat + (s.rS b).toNat ≤ l.lo ∨ l.lo + (l.hi - l.lo) ≤ (s.rS a).toNat) →
      ∃ t, exec (.rlq d a b) s = .next t ∧ WroteS s t d 0) ∧
    (∀ pre l post, s.dev.locks = pre ++ l :: post → s.rS b ≠ 0 →
      l.lo < (s.rS a).toNat + (s.rS b).toNat → (s.rS a).toNat < l.lo + (l.hi - l.lo) →
      (∀ m ∈ pre, (s.rS a).toNat + (s.rS b).toNat ≤ m.lo ∨ m.lo + (m.hi - m.lo) ≤ (s.rS a).toNat ∨ l.lo < m.lo) →
      (∀ m ∈ post, (s.rS a).toNat + (s.rS b).toNat ≤ m.lo ∨ m.lo + (m.hi - m.lo) ≤ (s.rS a).toNat ∨ l.lo ≤ m.lo) →
      ∃ t x, exec (.rlq d a b) s = .next t ∧ WroteS s t d x ∧ x.toNat / 2 ^ 63 = 1 ∧ x.toNat % 2 ^ 16 = l.xid.toNat ∧
        x.toNat / 2 ^ 16 % 2 ^ 16 = min 0xFFFF (s.dev.locks.filter fun m =>
          decide (m.lo < (s.rS a).toNat + (s.rS b).toNat ∧ (s.rS a).toNat < m.lo + (m.hi - m.lo))).length))

/-! ## Tiles -/

/-- srecv and spred take the head token of a port, speek reads its header and leaves it. ssend and sstop build a token of rsel's route and
hand it to the streamer's queue, at most joining its last token. ssteer replaces the steer value of rsel; smerge and ssplit move lanes. -/
def Obligations.StreamForms : Prop :=
  (∀ (s : State) (k : Nat) (v : VReg) (p : PReg) (d : SReg) (port : BitVec 4) (f : Flit), PortHolds s k port.toNat f →
    (∃ t, exec (.srecv v port) s = .next t ∧ t.mem = s.mem ∧ OnlyV s.ctx t.ctx v (elements f.pay (hLen f.hdr)) ∧
      t.portQueue k port.toNat = (s.portQueue k port.toNat).drop 1) ∧
    (∃ t, exec (.spred p port) s = .next t ∧ t.mem = s.mem ∧ OnlyP s.ctx t.ctx p (f.pay.setWidth 8) ∧
      t.portQueue k port.toNat = (s.portQueue k port.toNat).drop 1) ∧
    (∃ t, exec (.speek d port) s = .next t ∧ t.mem = s.mem ∧ OnlyS s.ctx t.ctx d f.hdr ∧
      t.portQueue k port.toNat = s.portQueue k port.toNat)) ∧
  (∀ (s : State) (k : Nat) (v : VReg) (b : SReg) (et : EType) (level : BitVec 3) (r : OutRoute), RouteIs s k r →
    (s.tcore k).outq.length < 16 → r.cmd = none →
    ((s.rS b).toNat / 2 ^ 46 = 0 → (s.rS b).toNat / 2 ^ 4 % 2 ^ 12 = 0 → 1 ≤ (s.rS b).toNat % 2 ^ 4 →
      (s.rS b).toNat % 2 ^ 4 ≤ 8 → ksOk (etCode et) ((s.rS b).toNat / 2 ^ 32 % 2 ^ 14) = true →
      (∀ l, r.steer = some l → (s.tcore k).rsel.toNat / 2 ^ 12 % 2 ^ 6 ∈ l) →
      ∃ t f, exec (.ssend v b et) s = .next t ∧ t.mem = s.mem ∧ (t.tcore k).ctx = (s.tcore k).ctx ∧
        (t.tcore k).outq = enqueueFlit false (s.tcore k).outq f ∧
        hKind f.hdr = 0 ∧ hVc f.hdr = 0 ∧ hLen f.hdr = (s.rS b).toNat % 2 ^ 4 - 1 ∧ hStop f.hdr = 0 ∧
        hRoute f.hdr = (s.tcore k).rsel.toNat % 2 ^ 12 ∧ hSteer f.hdr = (s.tcore k).rsel.toNat / 2 ^ 12 % 2 ^ 6 ∧
        hSeq f.hdr = (s.rS b).toNat / 2 ^ 16 % 2 ^ 16 ∧ hEtype f.hdr = etCode et ∧
        hKs f.hdr = (s.rS b).toNat / 2 ^ 32 % 2 ^ 14 ∧ f.pay = elements (s.rV v) ((s.rS b).toNat % 2 ^ 4 - 1)) ∧
    (∃ t f, exec (.sstop level) s = .next t ∧ t.mem = s.mem ∧ (t.tcore k).ctx = (s.tcore k).ctx ∧
      (t.tcore k).outq = enqueueFlit false (s.tcore k).outq f ∧ hKind f.hdr = 0 ∧ hStop f.hdr = level.toNat ∧
      hLen f.hdr = 0 ∧ hRoute f.hdr = (s.tcore k).rsel.toNat % 2 ^ 12 ∧ f.pay = 0)) ∧
  (∀ (s : State) (k : Nat) (a : SReg) (v va vb : VReg) (n : BitVec 3) (w : BitVec 4), s.cur = .core k →
    ((s.rS a).toNat < 64 → ∃ t, exec (.ssteer a) s = .next t ∧ t.mem = s.mem ∧
      t.tcore k = { s.tcore k with
        rsel := BitVec.ofNat 64 ((s.tcore k).rsel.toNat % 2 ^ 12 + (s.rS a).toNat * 2 ^ 12) }) ∧
    (∃ t x c, exec (.smerge v va vb n) s = .next t ∧ Became s t c s.iss ∧ OnlyV s.ctx c v x ∧
      ∀ i, i < 8 → lane x i = if i < n.toNat then lane (s.rV va) i else lane (s.rV vb) (i - n.toNat)) ∧
    (∃ t x c, exec (.ssplit v va w) s = .next t ∧ Became s t c s.iss ∧ OnlyV s.ctx c v x ∧
      ∀ i, i < 8 → lane x i = if i + w.toNat < 8 then lane (s.rV va) (i + w.toNat) else 0))

/-- rqpush places a record that fits at H, and rqpop takes the record at T: header and elements. A record that does not fit behind H
stands at the ring's start, behind a pad record at H; a pad record at T is skipped by the pop that finds it. -/
def Obligations.RingForms : Prop :=
  ∀ (s : State) (k : Nat) (ring : BitVec 4) (v : VReg) (b : SReg) (x : Ring), s.cur = .core k →
    s.ring (k / 4) ring.toNat = some x →
    (hKind (s.rS b) = 0 → hVc (s.rS b) = 0 → x.h + recSize (hLen (s.rS b) + 1) ≤ x.size →
      x.u + recSize (hLen (s.rS b) + 1) ≤ x.size → s.waitedLonger k ring.toNat = false →
      x.turn (s.blk (k / 4 / 32)).cyc (5 + k % 4) = true →
      Calm s (sramAddr (k / 4) (x.off + x.h)) (recSize (hLen (s.rS b) + 1)) →
      ∃ t, exec (.rqpush ring v b) s = .next t ∧
        WroteBytes s t false 0 (sramAddr (k / 4) (x.off + x.h))
          (leBytes 8 (s.rS b).toNat ++
            leBytes (8 * ((hLen (s.rS b) + 2) / 2)) (elements (s.rV v) (hLen (s.rS b))).toNat) ∧
        t.ring (k / 4) ring.toNat = some { x with
          h := (x.h + recSize (hLen (s.rS b) + 1)) % x.size, u := x.u + recSize (hLen (s.rS b) + 1)
          cyc := (s.blk (k / 4 / 32)).cyc, ord := 5 + k % 4 }) ∧
    (hKind (s.rS b) = 0 → hVc (s.rS b) = 0 → x.size < x.h + recSize (hLen (s.rS b) + 1) → x.h ≤ x.size →
      x.u + (x.size - x.h) + recSize (hLen (s.rS b) + 1) ≤ x.size → s.waitedLonger k ring.toNat = false →
      x.turn (s.blk (k / 4 / 32)).cyc (5 + k % 4) = true →
      Calm s (sramAddr (k / 4) (x.off + x.h)) 8 → Calm s (sramAddr (k / 4) x.off) (recSize (hLen (s.rS b) + 1)) →
      ∃ t, exec (.rqpush ring v b) s = .next t ∧
        WroteTwo s t (sramAddr (k / 4) (x.off + x.h)) (leBytes 8 (2 ^ 64 - 1)) (sramAddr (k / 4) x.off)
          (leBytes 8 (s.rS b).toNat ++
            leBytes (8 * ((hLen (s.rS b) + 2) / 2)) (elements (s.rV v) (hLen (s.rS b))).toNat) ∧
        t.ring (k / 4) ring.toNat = some { x with
          h := recSize (hLen (s.rS b) + 1) % x.size, u := x.u + (x.size - x.h) + recSize (hLen (s.rS b) + 1)
          cyc := (s.blk (k / 4 / 32)).cyc, ord := 5 + k % 4 }) ∧
    (∀ hdr, memNat s.mem (sramAddr (k / 4) (x.off + x.t)) 8 = 2 ^ 64 - 1 → x.u ≠ 0 → x.u - (x.size - x.t) ≠ 0 →
      hdr = BitVec.ofNat 64 (memNat s.mem (sramAddr (k / 4) x.off) 8) → x.turn (s.blk (k / 4 / 32)).cyc (k % 4) = true →
      ∃ t, exec (.rqpop v ring b) s = .next t ∧ t.mem = s.mem ∧
        t.ctx.rV v = elements (BitVec.ofNat 256 (memNat s.mem (sramAddr (k / 4) (x.off + 8)) (4 * (hLen hdr + 1)))) (hLen hdr) ∧
        (b ≠ 0#5 → t.ctx.rS b = hdr) ∧
        t.ring (k / 4) ring.toNat = some { x with
          t := recSize (hLen hdr + 1) % x.size, u := x.u - (x.size - x.t) - recSize (hLen hdr + 1)
          cyc := (s.blk (k / 4 / 32)).cyc, ord := k % 4 }) ∧
    (∀ hdr, x.u ≠ 0 → hdr = BitVec.ofNat 64 (memNat s.mem (sramAddr (k / 4) (x.off + x.t)) 8) → hdr ≠ -1 →
      x.turn (s.blk (k / 4 / 32)).cyc (k % 4) = true →
      ∃ t, exec (.rqpop v ring b) s = .next t ∧ t.mem = s.mem ∧
        t.ctx.rV v = elements (BitVec.ofNat 256 (memNat s.mem (sramAddr (k / 4) (x.off + x.t + 8)) (4 * (hLen hdr + 1))))
          (hLen hdr) ∧
        (b ≠ 0#5 → t.ctx.rS b = hdr) ∧
        t.ring (k / 4) ring.toNat = some { x with
          t := (x.t + recSize (hLen hdr + 1)) % x.size, u := x.u - recSize (hLen hdr + 1)
          cyc := (s.blk (k / 4 / 32)).cyc, ord := k % 4 })

/-- esc and esc.o park the token under the node's next number, start an escape thread, and answer the ticket; ctxsw stops its core
for the switch to a loaded context. -/
def Obligations.EscapeAndSwitchForms : Prop :=
  (∀ (s : State) (k : Nat) (d : SReg) (v : VReg) (node : BitVec 2) (o : Bool) (x : TileCtx) (hidx pool : Nat),
    s.cur = .core k → s.coreCtx k = some x → x.escs[node.toNat]? = some (hidx, pool) →
    hKind (s.rS d) = 0 → hVc (s.rS d) = 0 → (Tab.get {} (s.tile (k / 4)).escs node.toNat).out.length < pool →
    ((s.tcore k).waited = none ∨ (Tab.get {} (s.tile (k / 4)).escs node.toNat).from_ ≤ (s.blk (k / 4 / 32)).cyc) →
    ∃ t r, exec (if o then .escO d v node else .esc d v node) s = .next t ∧ t.mem = s.mem ∧
      OnlyS s.ctx t.ctx d ((BitVec.ofNat 32 (x.gtile * 2 ^ 20 + node.toNat * 2 ^ 18 +
        (Tab.get {} (s.tile (k / 4)).escs node.toNat).next)).setWidth 64) ∧
      (t.field (k / 4 / 256)).arr = (s.field (k / 4 / 256)).arr ++ [r] ∧ r.pref = .first (k / 4 / 32) ∧
      r.token = some { hdr := s.rS d, pay := elements (s.rV v) (hLen (s.rS d)) } ∧
      (Tab.get {} (t.tile (k / 4)).escs node.toNat).out = (Tab.get {} (s.tile (k / 4)).escs node.toNat).out ++
        [{ n := (Tab.get {} (s.tile (k / 4)).escs node.toNat).next
           tok := { hdr := s.rS d, pay := elements (s.rV v) (hLen (s.rS d)) }, ordered := o }] ∧
      (Tab.get {} (t.tile (k / 4)).escs node.toNat).next =
        ((Tab.get {} (s.tile (k / 4)).escs node.toNat).next + 1) % 65536) ∧
  ∀ (s : State) (k : Nat) (n : BitVec 2), s.cur = .core k → s.loaded (k / 4) n.toNat = true →
    s.otherSwitch k n.toNat = false →
    ∃ t, exec (.ctxsw n) s = .next t ∧ SameRest s t ∧ t.tcore k = { s.tcore k with run := .ctxsw n.toNat }

/-- The forms of the matrix queue enter it, in issue order, while it has a place and no higher core has entered in the same cycle; each with
its own checks at issue. An operation that enters an empty queue starts in a later block cycle. mdset writes the descriptor; mdadv and
mdadv.r step its output block and say when they are back at block (0, 0). -/
def Obligations.MatrixForms : Prop :=
  (∀ (s : State) (k : Nat) (a b : SReg) (v : VReg), s.cur = .core k → (s.tile (k / 4)).mq.length < 8 →
    ((s.tile (k / 4)).mqLast.1 = (s.blk (k / 128)).cyc → (s.tile (k / 4)).mqLast.2 ≤ k % 4) →
    (∃ t, exec .mzero s = .next t ∧ Enqueued s t k .mzero) ∧
    (∀ i fa fb, (i, fa, fb) ∈ [(Instr.mgPp, Family.plane, Family.plane), (.mgPe, .plane, .bint), (.mgEp, .bint, .plane),
        (.mgEe, .bint, .bint), (.mgGp, .group, .plane), (.mgGe, .group, .bint)] → mgOk (s.tcore k).mdesc fa fb = true →
      ∃ t, exec i s = .next t ∧ Enqueued s t k .mg) ∧
    (∀ r, RouteIs s k r → r.cmd = none → (s.rS a).toNat < 2 ^ 15 → (s.rS a).toNat % 32 + (s.rS a).toNat / 32 % 32 ≤ 31 →
      ((s.rS a).getLsbD 10 = true → ∀ i, i ≤ (s.rS a).toNat / 32 % 32 →
        (s.rV v).toNat / 2 ^ (8 * ((s.rS a).toNat % 32 + i)) % 2 ^ 8 < 64) →
      (∀ l, r.steer = some l → (s.rS a).toNat / 2 ^ 12 = 0 ∧
        ((s.rS a).getLsbD 10 = false → (s.tcore k).rsel.toNat / 2 ^ 12 % 2 ^ 6 ∈ l) ∧
        ((s.rS a).getLsbD 10 = true → ∀ i, i ≤ (s.rS a).toNat / 32 % 32 →
          (s.rV v).toNat / 2 ^ (8 * ((s.rS a).toNat % 32 + i)) % 2 ^ 8 ∈ l)) →
      ∃ t, exec (.mdrain a v) s = .next t ∧ Enqueued s t k (.mdrain (s.rS a) (s.rV v) (s.tcore k).rsel)) ∧
    ((s.rS a).toNat % 16 = 0 → (s.rS a).toNat + 4096 ≤ 0x80000 → (s.rS b).toNat < 2 ^ 6 →
      (s.rS b).toNat / 2 ^ 4 ≠ 3 →
      ∃ t, exec (.acpy a b) s = .next t ∧ Enqueued s t k (.acpy (s.rS a).toNat (s.rS b))) ∧
    (∀ x, s.coreCtx k = some x → (s.rS b).toNat < 16 → x.bound (k % 4) (s.rS b).toNat = true → mdOk (s.tcore k).mdesc = true →
      s.draining k (s.rS b).toNat = false →
      (∃ t, exec (.mspx a b) s = .next t ∧ Enqueued s t k (.mspx (s.rS a) (s.rS b).toNat false)) ∧
      (∃ t, exec (.mspxN a b) s = .next t ∧ Enqueued s t k (.mspx (s.rS a) (s.rS b).toNat true)))) ∧
  (∀ (s : State) (k : Nat) (d : SReg) (imm : Imm), s.cur = .core k →
    (mdsetOk imm = true → ∃ t, exec (.mdset imm) s = .next t ∧ SameRest s t ∧
      t.tcore k = { s.tcore k with mdesc := match imm with | .pair v => v.setWidth 64 | .ext v => v.setWidth 64 }) ∧
    (∃ t, exec (.mdadv d) s = .next t ∧ t.mem = s.mem ∧ bits (t.tcore k).mdesc 0 32 = bits (s.tcore k).mdesc 0 32 ∧
      bits (t.tcore k).mdesc 36 28 = bits (s.tcore k).mdesc 36 28 ∧
      bits (t.tcore k).mdesc 34 2 = (bits (s.tcore k).mdesc 34 2 + 1) % 4 ∧
      bits (t.tcore k).mdesc 32 2 =
        (if bits (s.tcore k).mdesc 34 2 = 3 then (bits (s.tcore k).mdesc 32 2 + 1) % 4 else bits (s.tcore k).mdesc 32 2) ∧
      OnlyS s.ctx t.ctx d (truth (bits (s.tcore k).mdesc 32 4 = 15))) ∧
    (∃ t, exec (.mdadvR d) s = .next t ∧ t.mem = s.mem ∧ bits (t.tcore k).mdesc 0 32 = bits (s.tcore k).mdesc 0 32 ∧
      bits (t.tcore k).mdesc 32 2 = (bits (s.tcore k).mdesc 32 2 + 1) % 4 ∧
      bits (t.tcore k).mdesc 34 2 =
        (if bits (s.tcore k).mdesc 32 2 = 3 then (bits (s.tcore k).mdesc 34 2 + 1) % 4 else bits (s.tcore k).mdesc 34 2) ∧
      OnlyS s.ctx t.ctx d (truth (bits (s.tcore k).mdesc 32 4 = 15))))

namespace Sys2Proof.Claims

open Sys2Proof.Machine

/-! ## Vectors -/

/-- Element `j` of width `w` of a vector register, counted from bit 0 (R16, R76). -/
def element (v : VWord) (w j : Nat) : Nat := v.toNat / 2 ^ (w * j) % 2 ^ w

/-- The integer types of slot B with their widths (R76). -/
def intTypes : List (Ty × Nat) := [(.i32, 32), (.i16, 16), (.i8, 8), (.u8, 8)]

/-- An element as a number: unsigned for u8, else signed (R76). -/
def reading (ty : Ty) (w : Nat) (x : Nat) : Int := if ty = .u8 ∨ x < 2 ^ (w - 1) then x else (x : Int) - 2 ^ w

/-- The integer forms: predicate, destination, type and width, and the exact result of element `j` before it is taken modulo
the width (R140, R141, R146). -/
def vecInt (i : Instr) (s : State) (w : Nat) : Option (PReg × VReg × Ty × (Nat → Int)) :=
  let n := fun (r : VReg) (ty : Ty) (j : Nat) => reading ty w (element (s.rV r) w j)
  let u := fun (r : VReg) (j : Nat) => element (s.rV r) w j
  match i with
  | .vadd p d a b ty => some (p, d, ty, fun j => n a ty j + n b ty j)
  | .vsub p d a b ty => some (p, d, ty, fun j => n a ty j - n b ty j)
  | .vmul p d a b ty => some (p, d, ty, fun j => n a ty j * n b ty j)
  | .vfma p d a b ty => some (p, d, ty, fun j => n a ty j * n b ty j + n d ty j)
  | .vmin p d a b ty => some (p, d, ty, fun j => if n a ty j ≤ n b ty j then n a ty j else n b ty j)
  | .vmax p d a b ty => some (p, d, ty, fun j => if n a ty j ≤ n b ty j then n b ty j else n a ty j)
  | .vabs p d a ty => some (p, d, ty, fun j => if n a ty j < 0 then -n a ty j else n a ty j)
  | .vneg p d a ty => some (p, d, ty, fun j => -n a ty j)
  | .vshl p d a b ty => some (p, d, ty, fun j => (u a j : Int) * 2 ^ (u b j % w))
  | .vshr p d a b ty => some (p, d, ty, fun j => (u a j : Int) / 2 ^ (u b j % w))
  | .vsra p d a b ty => some (p, d, ty, fun j => n a ty j / 2 ^ (u b j % w))
  | _ => none

/-- The instruction writes vector register `d` with `x`, ORs `fl` into vflags, and does nothing else. -/
def WroteV (s t : State) (d : VReg) (x : VWord) (fl : BitVec 5) : Prop :=
  ∃ c, Became s t c s.iss ∧ (∀ r, c.rV r = if r = d then x else s.ctx.rV r) ∧ c.s = s.ctx.s ∧ c.p = s.ctx.p ∧
    c.pc = s.ctx.pc ∧ c.vrm = s.ctx.vrm ∧ c.vflags = s.ctx.vflags ||| fl ∧ c.pend = s.ctx.pend

/-- The lanes of `x` that the mask names hold `f`'s values, and `fl` is the OR of those lanes' flags. -/
def Lanes (mask : PWord) (f : Nat → BitVec 32 × BitVec 5) (x : VWord) (fl : BitVec 5) : Prop :=
  (∀ i, i < 8 → mask.getLsbD i = true → lane x i = (f i).1) ∧
  ∀ b, fl.getLsbD b = true ↔ ∃ i, i < 8 ∧ mask.getLsbD i = true ∧ (f i).2.getLsbD b = true

/-- A short form of the lanes: those of the predicate take `f`'s values, the others keep theirs (R17, R31). -/
def WroteLanes (s t : State) (p : PReg) (d : VReg) (f : Nat → BitVec 32 × BitVec 5) : Prop :=
  ∃ x fl, WroteV s t d x fl ∧ Lanes (s.rP p) f x fl ∧
    ∀ i, i < 8 → (s.rP p).getLsbD i = false → lane x i = lane (s.ctx.rV d) i

/-- A long form of the lanes: the values of the predicate's lanes and their flags enter the return buffer (R137). -/
def QueuedLanes (s t : State) (p : PReg) (d : VReg) (f : Nat → BitVec 32 × BitVec 5) : Prop :=
  ∃ x fl, Queued s t (.vreg d (s.rP p)) x fl ∧ Lanes (s.rP p) f x fl

/-- One lane of an operation on elements: every element's result modulo its width, and the elements' flags together. -/
def laneOf (w : Nat) (f : Nat → Nat × BitVec 5) : BitVec 32 × BitVec 5 :=
  if w = 32 then (BitVec.ofNat 32 (f 0).1, (f 0).2)
  else (BitVec.ofNat 32 ((f 0).1 % 2 ^ 16 + (f 1).1 % 2 ^ 16 * 2 ^ 16), (f 0).2 ||| (f 1).2)

/-- Element `j` of lane `i` of a register as a value of a format. -/
def valueAt (f : FFmt) (v : VWord) (i j : Nat) : FVal := f.value (element (lane v i |>.setWidth 256) f.width j)

/-- The floating-point types with their formats (R76). -/
def floatTypes : List (Ty × FFmt) := [(.f32, fF32), (.bf16, fBF16), (.f16, fF16)]

/-- The short floating-point forms: predicate, destination, type, and the result of an element of each lane (R140). -/
def vecFloat (i : Instr) (s : State) (f : FFmt) : Option (PReg × VReg × Ty × (Nat → Nat → Nat × BitVec 5)) :=
  let x := fun (r : VReg) (l j : Nat) => valueAt f (s.rV r) l j
  let raw := fun (r : VReg) (l j : Nat) => element ((lane (s.rV r) l).setWidth 256) f.width j
  match i with
  | .vadd p d a b ty => some (p, d, ty, fun l j => fadd f s.rm (x a l j) (x b l j))
  | .vsub p d a b ty => some (p, d, ty, fun l j => fsub f s.rm (x a l j) (x b l j))
  | .vmul p d a b ty => some (p, d, ty, fun l j => fmul f s.rm (x a l j) (x b l j))
  | .vfma p d a b ty => some (p, d, ty, fun l j => ffma f s.rm (x a l j) (x b l j) (x d l j))
  | .vmin p d a b ty => some (p, d, ty, fun l j => fminmax f false (raw a l j) (raw b l j))
  | .vmax p d a b ty => some (p, d, ty, fun l j => fminmax f true (raw a l j) (raw b l j))
  | .vabs p d a ty => some (p, d, ty, fun l j => (raw a l j % 2 ^ (f.width - 1), 0))
  | .vneg p d a ty => some (p, d, ty, fun l j => ((raw a l j + 2 ^ (f.width - 1)) % 2 ^ f.width, 0))
  | .vclass p d a ty => some (p, d, ty, fun l j => (fclass f (raw a l j), 0))
  | _ => none

/-- The long floating-point forms (R142). -/
def vecDeep (i : Instr) (s : State) (f : FFmt) : Option (PReg × VReg × Ty × (Nat → Nat → Nat × BitVec 5)) :=
  let x := fun (r : VReg) (l j : Nat) => valueAt f (s.rV r) l j
  match i with
  | .vdiv p d a b ty => some (p, d, ty, fun l j => fdiv f s.rm (x a l j) (x b l j))
  | .vsqrt p d a ty => some (p, d, ty, fun l j => fsqrt f s.rm (x a l j))
  | .vrsqrt p d a ty => some (p, d, ty, fun l j => frsqrt f s.rm (x a l j))
  | .vrcp p d a ty => some (p, d, ty, fun l j => frcp f s.rm (x a l j))
  | .vexp2 p d a ty => some (p, d, ty, fun l j => fexp2 f s.rm (x a l j))
  | .vlog2 p d a ty => some (p, d, ty, fun l j => flog2 f s.rm (x a l j))
  | _ => none

/-- The whole-register forms that only move or combine bits: predicate, destination, and lane `i` of the result (R144, R145,
R152, R153). -/
def vecBits (i : Instr) (s : State) : Option (PReg × VReg × (Nat → BitVec 32)) :=
  match i with
  | .vand p d a b => some (p, d, fun i => lane (s.rV a) i &&& lane (s.rV b) i)
  | .vor p d a b => some (p, d, fun i => lane (s.rV a) i ||| lane (s.rV b) i)
  | .vxor p d a b => some (p, d, fun i => lane (s.rV a) i ^^^ lane (s.rV b) i)
  | .vperm p d a b => some (p, d, fun i =>
    if (lane (s.rV b) i).toNat ≥ 2 ^ 31 then 0 else lane (s.rV a) ((lane (s.rV b) i).toNat % 8))
  | .vbcast p d .f32 r | .vbcast p d .i32 r => some (p, d, fun _ => (s.rS r).setWidth 32)
  | .vbcast p d .bf16 r | .vbcast p d .f16 r | .vbcast p d .i16 r =>
    some (p, d, fun _ => (s.rS r).extractLsb' 0 16 ++ (s.rS r).extractLsb' 0 16)
  | .vbcast p d .i8 r | .vbcast p d .u8 r =>
    some (p, d, fun _ => (s.rS r).extractLsb' 0 8 ++ (s.rS r).extractLsb' 0 8 ++ (s.rS r).extractLsb' 0 8 ++ (s.rS r).extractLsb' 0 8)
  | .vbcast p d .x r => some (p, d, fun i => (s.rS r).extractLsb' (32 * (i % 2)) 32)
  | _ => none

/-- A compare form: predicate, destination, sources, type and condition on the signed or unsigned integers (R143). -/
def vecCmp (i : Instr) : Option (PReg × PReg × VReg × VReg × Ty × Cmp × (Int → Int → Bool)) :=
  match i with
  | .vcmpEq p pd a b ty => some (p, pd, a, b, ty, .eq, fun x y => decide (x = y))
  | .vcmpNe p pd a b ty => some (p, pd, a, b, ty, .ne, fun x y => decide (x ≠ y))
  | .vcmpLt p pd a b ty => some (p, pd, a, b, ty, .lt, fun x y => decide (x < y))
  | .vcmpLe p pd a b ty => some (p, pd, a, b, ty, .le, fun x y => decide (x ≤ y))
  | .vcmpUn p pd a b ty => some (p, pd, a, b, ty, .un, fun _ _ => false)
  | _ => none

/-- The elements of width `w` of the predicate's lanes, in ascending order (R151). -/
def foldedElements (m : PWord) (v : VWord) (w : Nat) : List Nat :=
  ((List.range (256 / w)).filter fun j => m.getLsbD (j * w / 32)).map (element v w)

/-- A left fold that its first element starts, with the flags of every combination; without an element, `z` (R151). -/
def folded (op : Nat → Nat → Nat × BitVec 5) (z : Nat) : List Nat → Nat × BitVec 5
  | [] => (z, 0)
  | x :: l => l.foldl (fun acc y => ((op acc.1 y).1, acc.2 ||| (op acc.1 y).2)) (x, 0)

/-- The instruction enters a reduction's result and flags: lane 0 the result, lanes 1 to 7 zero (R151). -/
def QueuedFold (s t : State) (d : VReg) (r : Nat × BitVec 5) : Prop :=
  Queued s t (.vreg d 0xFF) ((BitVec.ofNat 32 r.1).setWidth 256) r.2

/-- The instruction writes `x` to the bits of predicate register `d` that the mask names, ORs `fl` into vflags, and does nothing
else; p0 stays (R17). -/
def WroteP (s t : State) (d : PReg) (mask x : PWord) (fl : BitVec 5) : Prop :=
  ∃ c, Became s t c s.iss ∧
    (∀ r, c.rP r = if r = d ∧ d ≠ 0#3 then (s.ctx.rP d &&& ~~~ mask) ||| (x &&& mask) else s.ctx.rP r) ∧ c.s = s.ctx.s ∧
    c.v = s.ctx.v ∧ c.pc = s.ctx.pc ∧ c.vrm = s.ctx.vrm ∧ c.vflags = s.ctx.vflags ||| fl ∧ c.pend = s.ctx.pend

end Sys2Proof.Claims

/-! ## Vector forms -/

/-- The integer forms of slot B write, in every lane of the predicate, each element's exact result modulo its width; the other lanes, and
every flag, stay. Logic, permutation and broadcast under a predicate, select over all lanes, moves between a lane and a scalar register,
vnop, and the guard's mask. -/
def Obligations.VectorIntegerForms : Prop :=
  (∀ (i : Instr) (s : State) (ty : Ty) (w : Nat) (p : PReg) (d : VReg) (f : Nat → Int), (ty, w) ∈ intTypes →
    vecInt i s w = some (p, d, ty, f) →
    ∃ t x, exec i s = .next t ∧ WroteV s t d x 0 ∧ ∀ j, j < 256 / w →
      element x w j = if (s.rP p).getLsbD (j * w / 32) then (f j % 2 ^ w).toNat else element (s.ctx.rV d) w j) ∧
  ((∀ (s : State), exec .vnop s = .next s) ∧
  (∀ (i : Instr) (s : State) (p : PReg) (d : VReg) (f : Nat → BitVec 32), vecBits i s = some (p, d, f) →
    ∃ t, exec i s = .next t ∧ WroteLanes s t p d fun i => (f i, 0)) ∧
  (∀ (s : State) (p : PReg) (d a b : VReg), ∃ t x, exec (.vsel p d a b) s = .next t ∧ WroteV s t d x 0 ∧
    ∀ i, i < 8 → lane x i = if (s.rP p).getLsbD i then lane (s.rV a) i else lane (s.rV b) i) ∧
  (∀ (s : State) (p : PReg) (d a : VReg) (l : BitVec 3) (r : SReg),
    ((s.rP p).getLsbD l.toNat = true →
      (∃ t, exec (.vmovs p d a false l .f32 r) s = .next t ∧ WroteS s t r ((lane (s.rV a) l.toNat).setWidth 64)) ∧
      (∃ t, exec (.vmovs p d a false l .i32 r) s = .next t ∧ WroteS s t r ((lane (s.rV a) l.toNat).signExtend 64)) ∧
      (∀ ty, ty = .i32 ∨ ty = .f32 → ∃ t x, exec (.vmovs p d a true l ty r) s = .next t ∧ WroteV s t d x 0 ∧
        ∀ i, i < 8 → lane x i = if i = l.toNat then (s.rS r).setWidth 32 else lane (s.ctx.rV d) i) ∧
      (l.toNat % 2 = 0 →
        (∃ t, exec (.vmovs p d a false l .x r) s = .next t ∧
          WroteS s t r (lane (s.rV a) (l.toNat + 1) ++ lane (s.rV a) l.toNat)) ∧
        ∃ t x, exec (.vmovs p d a true l .x r) s = .next t ∧ WroteV s t d x 0 ∧
          ∀ i, i < 8 → lane x i = if i / 2 = l.toNat / 2 then (s.rS r).extractLsb' (32 * (i % 2)) 32
            else lane (s.ctx.rV d) i)) ∧
    ((s.rP p).getLsbD l.toNat = false → ∀ dir ty, exec (.vmovs p d a dir l ty r) s = .next s)) ∧
  ∀ (s : State) (p : PReg) (d a b : VReg),
    (bitsN (lane (s.rV a) 0).toNat 8 2 = 0 ∨ (guardOf (s.rV a)).invalid = true → exec (.vgmask p d a b) s = .next s) ∧
    ((guardOf (s.rV a)).invalid = false → bitsN (lane (s.rV a) 0).toNat 8 2 ≠ 0 →
      ∃ t x, exec (.vgmask p d a b) s = .next t ∧ WroteV s t d x 0 ∧ ∀ i, i < 8 →
        lane x i = if (s.rP p).getLsbD i ∧ guardForbids (guardOf (s.rV a)) (s.rV b) (((lane (s.rV a) 6).toNat + i) % 2 ^ 32) = true
          then 0xFF800000#32 else lane (s.ctx.rV d) i))

/-- The short floating-point forms round each element of the predicate's lanes once, in the mode of vrm; so do vcvt, with its own
mode, vscale and vunpk. Other lanes stay, and vflags gathers the flags of the lanes written. -/
def Obligations.VectorFloatForms : Prop :=
  (∀ (i : Instr) (s : State) (ty : Ty) (f : FFmt) (p : PReg) (d : VReg) (g : Nat → Nat → Nat × BitVec 5), (ty, f) ∈ floatTypes →
    vecFloat i s f = some (p, d, ty, g) → ∃ t, exec i s = .next t ∧ WroteLanes s t p d fun l => laneOf f.width (g l)) ∧
  (∀ (s : State) (p : PReg) (d a : VReg) (src dst : CFmt) (z : Bool),
    ∃ t, exec (.vcvt p d a src dst z) s = .next t ∧
      WroteLanes s t p d fun l => cvtLane src dst (if z then .rtz else s.rm) (lane (s.rV a) l)) ∧
  (∀ (s : State) (p : PReg) (d a b : VReg) (ty : Ty) (f : FFmt), (ty, f) ∈ floatTypes →
    ∃ t, exec (.vscale p d a b ty) s = .next t ∧ WroteLanes s t p d fun l => laneOf f.width fun j =>
      scaleElt f s.rm ((lane (s.rV b) l).toNat % 256) (element ((lane (s.rV a) l).setWidth 256) f.width j)) ∧
  ∀ (s : State) (p : PReg) (d a : VReg) (k : PackForm),
    ∃ t, exec (.vunpk p d a k) s = .next t ∧ WroteLanes s t p d fun l => (unpacked (s.rV a) l k, 0)

/-- Divisions, roots, reciprocals, powers, logarithms, quantization, reductions and guard steps are long: their lanes and flags enter
the return buffer, and no register changes before their window ends. -/
def Obligations.VectorLongForms : Prop :=
  (∀ (i : Instr) (s : State) (ty : Ty) (f : FFmt) (p : PReg) (d : VReg) (g : Nat → Nat → Nat × BitVec 5), (ty, f) ∈ floatTypes →
    vecDeep i s f = some (p, d, ty, g) → ∃ t, exec i s = .next t ∧ QueuedLanes s t p d fun l => laneOf f.width (g l)) ∧
  (∀ (s : State) (p : PReg) (d a b : VReg) (k : CFmt),
    ∃ t, exec (.vquant p d a b k) s = .next t ∧ QueuedLanes s t p d fun l => quantLane k (lane (s.rV a) l) (s.rV b)) ∧
  (∀ (s : State) (p : PReg) (d a b : VReg) (k : CFmt),
    ∃ t x, exec (.vquantS p d a b k) s = .next t ∧ Queued s t (.vreg d 0xFF) x 0 ∧
      (lane x 1).toNat = quantScale k (lane x 0).toNat ∧ ∀ i, 2 ≤ i → i < 8 → lane x i = 0) ∧
  (∀ (s : State) (p : PReg) (d a : VReg) (ty : Ty) (w : Nat), (ty, w) ∈ intTypes →
    ∃ t x, exec (.vredSum p d a ty) s = .next t ∧ Queued s t (.vreg d 0xFF) x 0 ∧ (∀ i, 1 ≤ i → i < 8 → lane x i = 0) ∧
      lane x 0 = BitVec.ofInt 32 (((List.range (256 / w)).map fun j =>
        if (s.rP p).getLsbD (j * w / 32) then reading ty w (element (s.rV a) w j) else 0).sum)) ∧
  (∀ (s : State) (p : PReg) (d a : VReg) (ty : Ty) (w : Nat), (ty, w) ∈ intTypes → s.rP p ≠ 0 →
    (∃ t x, exec (.vredMin p d a ty) s = .next t ∧ Queued s t (.vreg d 0xFF) x 0 ∧
      (∀ j, j < 256 / w → (s.rP p).getLsbD (j * w / 32) = true → (lane x 0).toInt ≤ reading ty w (element (s.rV a) w j)) ∧
      ∃ j, j < 256 / w ∧ (s.rP p).getLsbD (j * w / 32) = true ∧ (lane x 0).toInt = reading ty w (element (s.rV a) w j)) ∧
    (∃ t x, exec (.vredMax p d a ty) s = .next t ∧ Queued s t (.vreg d 0xFF) x 0 ∧
      (∀ j, j < 256 / w → (s.rP p).getLsbD (j * w / 32) = true → reading ty w (element (s.rV a) w j) ≤ (lane x 0).toInt) ∧
      ∃ j, j < 256 / w ∧ (s.rP p).getLsbD (j * w / 32) = true ∧ (lane x 0).toInt = reading ty w (element (s.rV a) w j))) ∧
  (∀ (s : State) (p : PReg) (d a : VReg) (ty : Ty) (w : Nat), (ty, w) ∈ intTypes → s.rP p = 0 →
    (∃ t, exec (.vredMin p d a ty) s = .next t ∧ QueuedFold s t d (if ty = .u8 then 255 else 2 ^ (w - 1) - 1, 0)) ∧
    ∃ t, exec (.vredMax p d a ty) s = .next t ∧ QueuedFold s t d (if ty = .u8 then 0 else 2 ^ 32 - 2 ^ (w - 1), 0)) ∧
  (∀ (s : State) (p : PReg) (d a : VReg) (ty : Ty) (f : FFmt), (ty, f) ∈ floatTypes →
    (∃ t, exec (.vredSum p d a ty) s = .next t ∧ QueuedFold s t d
      (folded (fun x y => fadd f s.rm (f.value x) (f.value y)) 0 (foldedElements (s.rP p) (s.rV a) f.width))) ∧
    (∃ t, exec (.vredMin p d a ty) s = .next t ∧ QueuedFold s t d
      (folded (fminmax f false) f.infCode (foldedElements (s.rP p) (s.rV a) f.width))) ∧
    ∃ t, exec (.vredMax p d a ty) s = .next t ∧ QueuedFold s t d
      (folded (fminmax f true) (2 ^ (f.width - 1) + f.infCode) (foldedElements (s.rP p) (s.rV a) f.width))) ∧
  ∀ (s : State) (d a b : VReg), ∃ t, exec (.vgstep d a b) s = .next t ∧
    Queued s t (.vreg d 0xFF) (guardStep (s.rV d) (s.rV a) (s.rV b)) 0

/-- The compares write one predicate bit per lane of the mask: the condition over every element of the lane. vpack writes sixteen
halves, or eight saturated bytes or raw fields and leaves every other bit. -/
def Obligations.VectorCompareAndPack : Prop :=
  (∀ (i : Instr) (s : State) (p pd : PReg) (a b : VReg) (ty : Ty) (w : Nat) (c : Cmp) (f : Int → Int → Bool),
    vecCmp i = some (p, pd, a, b, ty, c, f) → (ty, w) ∈ intTypes →
    ∃ t x, exec i s = .next t ∧ WroteP s t pd (s.rP p) x 0 ∧ ∀ l, l < 8 → (x.getLsbD l = true ↔
      ∀ j, j < 256 / w → j * w / 32 = l →
        f (reading ty w (element (s.rV a) w j)) (reading ty w (element (s.rV b) w j)) = true)) ∧
  (∀ (i : Instr) (s : State) (p pd : PReg) (a b : VReg) (ty : Ty) (g : FFmt) (c : Cmp) (f : Int → Int → Bool),
    vecCmp i = some (p, pd, a, b, ty, c, f) → (ty, g) ∈ floatTypes →
    ∃ t x fl, exec i s = .next t ∧ WroteP s t pd (s.rP p) x fl ∧ ∀ l, l < 8 → (x.getLsbD l = true ↔
      ∀ j, j < 32 / g.width → (fcmp c (valueAt g (s.rV a) l j) (valueAt g (s.rV b) l j)).1 = true)) ∧
  (∀ (s : State) (d a b : VReg) (ty : Ty) (h : Bool),
    ∃ t x, exec (.vpack d a b (.half ty h)) s = .next t ∧ WroteV s t d x 0 ∧ ∀ j, j < 16 →
      element x 16 j = if ty = .i16
        then (max (-32768) (min 32767 (lane (s.rV (if j < 8 then a else b)) (j % 8)).toInt) % 65536).toNat
        else (lane (s.rV (if j < 8 then a else b)) (j % 8)).toNat % 65536) ∧
  (∀ (s : State) (d a b : VReg) (k q : BitVec 2) (w : Nat), (k, w) ∈ [(0#2, 8), (1#2, 6), (2#2, 4)] →
    ∃ t x, exec (.vpack d a b (.raw k q)) s = .next t ∧ WroteV s t d x 0 ∧ ∀ n, n < 256 →
      x.getLsbD n = if 8 * w * q.toNat ≤ n ∧ n < 8 * w * (q.toNat + 1)
        then (lane (s.rV a) ((n - 8 * w * q.toNat) / w)).getLsbD ((n - 8 * w * q.toNat) % w)
        else (s.ctx.rV d).getLsbD n) ∧
  ∀ (s : State) (d a b : VReg) (q : BitVec 2) (u : Bool),
    ∃ t x, exec (.vpack d a b (.byte u q)) s = .next t ∧ WroteV s t d x 0 ∧ ∀ j, j < 32 →
      element x 8 j = if j / 8 = q.toNat then
          ((if u then max 0 (min 255 (lane (s.rV a) (j % 8)).toInt) else max (-128) (min 127 (lane (s.rV a) (j % 8)).toInt)) %
            256).toNat
        else element (s.ctx.rV d) 8 j
namespace Sys2Proof.Claims

open Sys2Proof.Machine

/-! ## Events -/

/-- The registers `c` are `b` after one result `p` has been committed and the window list is `rest` (R279). -/
def Committed (b c : Ctx) (p : Pending) (rest : List Pending) : Prop :=
  c.pend = rest ∧ c.p = b.p ∧ c.pc = b.pc ∧ c.vrm = b.vrm ∧
    match p.dest with
    | .sreg r => c.v = b.v ∧ c.vflags = b.vflags ∧ ∀ x, c.rS x = if x = r ∧ r ≠ 0#5 then p.val.setWidth 64 else b.rS x
    | .vreg r m => c.s = b.s ∧ c.vflags = b.vflags ||| p.flags ∧ (∀ x, x ≠ r → c.rV x = b.rV x) ∧
        ∀ i, i < 8 → lane (c.rV r) i = if m.getLsbD i then lane p.val i else lane (b.rV r) i

/-- Transfer `id` with command `c` stands at the head of a port and is not stalled. -/
def AtHead (s : State) (xp id : Nat) (x : Xfer) (c : Cmd) : Prop :=
  (s.xport xp).q.head? = some id ∧ s.xfer id = some x ∧ x.stall = none ∧ x.want = none ∧ cmdOf x.w x.pb = some c

/-- How request port `xp` translates the parts of a range that it reads (R301): no walk of the port's has ended, and no part lies in a gated
block. -/
def PortReads (s : State) (xp : Nat) (va : Nat) (p : Phys) : Prop :=
  (s.xport xp).walked = none ∧ s.xportXl xp va false = .ok p ∧ s.atEdge p = none

/-- The parameter block of a command with the words `w` that request port `xp` takes from a command route (R195). -/
def PortBlock (s : State) (xp : Nat) (w pb : List Word) : Prop :=
  (cmdPb (w.getD 0 0) = false ∧ pb = []) ∨
  (cmdPb (w.getD 0 0) = true ∧ ∃ ps : List Phys,
    Sources ps (pageParts (w.getD 3 0).toNat (pbLen (cmdKind (w.getD 0 0)))) (PortReads s xp) ∧
    pb = wordsOf 11 (sourceBytes s ps (pageParts (w.getD 3 0).toNat (pbLen (cmdKind (w.getD 0 0))))))

/-- The one command that waits at port `xp` obeys every rule of R91, R194, R195 and R196, with its block. -/
def Enters (s : State) (xp : Nat) (a : Arriving) (pb : List Word) (c : Cmd) : Prop :=
  (s.xport xp).arr = [a] ∧ a.stall = none ∧ a.want = none ∧ s.wordsOk (xp / 4) a.w = true ∧ PortBlock s xp a.w pb ∧
    cmdOf a.w pb = some c ∧ c.cmode < 2 ∧ s.cmdFits (xp / 4) c = true ∧ s.gateMapped c = true

/-- Port `xp` has taken the command `a` as its last transfer, which is queued; the range-lock table holds its entries (R194, R260). -/
def TookCommand (s t : State) (xp : Nat) (a : Arriving) (pb : List Word) (c : Cmd) : Prop :=
  t.mem = s.mem ∧ (t.xport xp).arr = [] ∧ (t.xport xp).q = (s.xport xp).q ++ [s.fresh] ∧
    (∃ x, t.xfer s.fresh = some x ∧ x.w = a.w ∧ x.pb = pb ∧ x.uid = none ∧ x.route = a.route ∧ x.gid = some a.gid ∧ x.phase = .queued) ∧
    (c.kind ≠ 2 → c.kind ≠ 3 → t.dev.locks.map (fun l => (l.write, l.lo, l.hi)) =
      s.dev.locks.map (fun l => (l.write, l.lo, l.hi)) ++ c.lockRanges [])

/-- The place of the next write event of a transfer without a list: where it reads, where it writes, and how many bytes (R196, R335). -/
def nextSrc (x : Xfer) (c : Cmd) : Nat := placeAt (c.srcAt (x.pos / c.len) 0 + (x.pos % c.len : Nat))
def nextDst (x : Xfer) (c : Cmd) : Nat := placeAt (c.dstAt (x.pos / c.len) 0 + (x.pos % c.len : Nat))
def nextLen (x : Xfer) (c : Cmd) : Nat := min (c.len - x.pos % c.len) (32 - nextDst x c % 32)

/-- Transfer `id` runs, waits for nothing, counts at no sync word, and writes next to tile `tl`, whose block is on. -/
def RunsTo (s : State) (id : Nat) (x : Xfer) (c : Cmd) (tl off : Nat) : Prop :=
  s.xfer id = some x ∧ cmdOf x.w x.pb = some c ∧ x.phase = .running ∧ x.stall = none ∧ x.want = none ∧ x.far = .idle ∧ c.via = 0 ∧
    c.dst = .tile tl off ∧ c.csync = none ∧ s.atEdge { pa := sramAddr tl (nextDst x c), home := .aperture, sw := false } = none ∧
    Calm s (sramAddr tl (nextDst x c)) (nextLen x c)

/-- Transfer `id` has moved on by `n` bytes, and has moved everything when its last byte is written (R198). -/
def MovedOn (t : State) (id : Nat) (x : Xfer) (c : Cmd) (n : Nat) : Prop :=
  ∃ y, t.xfer id = some y ∧ y.pos = x.pos + n ∧ y.phase = if c.total ≤ x.pos + n then .moved else .running

end Sys2Proof.Claims

/-! ## Events of threads, rotundas and transfers -/

/-- A result whose window has ended commits, on a thread and on a compute core that issue; 64 bundles after an event fell due every window
closes; a diversion saves the pc and goes to the completion's handler; a walk that reached a leaf leaves the list of walks and fills its
block's tier. -/
def Obligations.ThreadEvents : Prop :=
  (∀ (s : State) (g : Nat) (p : Pending) (rest : List Pending), (s.thread g).run = .run → (s.thread g).ctx.pend = p :: rest →
    p.left = 0 → p.ready = true → p.fault = none → (∀ q ∈ rest, q.left ≠ 0) →
    ∃ t c, exec (.resultCommit (.thread g)) s = .next t ∧ t.mem = s.mem ∧ t.thread g = { s.thread g with ctx := c } ∧
      Committed (s.thread g).ctx c p rest) ∧
  (∀ (s : State) (k : Nat) (p : Pending) (rest : List Pending), (s.tcore k).run = .run → (s.tcore k).ctx.pend = p :: rest →
    p.left = 0 → p.ready = true → p.fault = none → (∀ q ∈ rest, q.left ≠ 0) →
    ∃ t c, exec (.resultCommit (.core k)) s = .next t ∧ t.mem = s.mem ∧ t.tcore k = { s.tcore k with ctx := c } ∧
      Committed (s.tcore k).ctx c p rest) ∧
  (∀ (s : State) (g : Nat), (s.thread g).run = .run → (s.thread g).eventDue = true → (s.thread g).dueN ≥ 64 →
    (∀ p ∈ (s.thread g).ctx.pend, p.ready = true ∧ p.fault = none) →
    ∃ t, exec (.windowForcedClose g) s = .next t ∧ t.mem = s.mem ∧ (t.thread g).ctx.pend = [] ∧
      (t.thread g).ctx.pc = (s.thread g).ctx.pc ∧ (t.thread g).run = .run) ∧
  (∀ (s : State) (g : Nat) (c : Completion) (l : List Completion), (s.thread g).run = .run → (s.thread g).uie = true →
    (s.thread g).inuh = false → (s.thread g).comps = c :: l → (s.thread g).due = [] → (s.thread g).spec = false →
    (s.thread g).ctx.pend = [] →
    ∃ t, exec (.completionDiversion g) s = .next t ∧ t.mem = s.mem ∧ (t.thread g).comps = l ∧
      (t.thread g).xfid = BitVec.ofNat 64 (c.xst.toNat * 2 ^ 16 + c.id.toNat) ∧ (t.thread g).xfh = (s.thread g).ctx.pc ∧
      (t.thread g).inuh = true ∧ (t.thread g).ctx = { (s.thread g).ctx with pc := c.hnd &&& 0xFFFFFFFFFFFF8#64 }) ∧
  ∀ (s : State) (b i : Nat) (w : Walk) (e : Word) (l a : Nat), (s.blk b).walks[i]? = some w → i < 32 → s.walk w.va = .leaf e l a →
    ∃ t, exec (.tlbWalk b i) s = .next t ∧ (t.blk b).walks = (s.blk b).walks.eraseIdx i ∧
      ∃ x ∈ (t.blk b).tlb, x.base = w.va / 2 ^ pageLog l * 2 ^ pageLog l ∧ x.level = l

/-- A record that passes its checks is queued at its priority, and one that fails them is answered with its code; the head of the first
queue that fits is admitted with its entry state; a record that waited 64,000 ns moves up when the next queue has room; a task whose line
was written restarts, speculative unless it is the oldest at its restart (log 88: the model's reading); a parked task that is oldest runs
plain; a finished oldest task commits its buffer and ends. -/
def Obligations.RotundaAndArbiterEvents : Prop :=
  (∀ (s : State) (f : Nat) (r x : Rec) (l : List Rec), (s.field f).arr = r :: l → s.judge f r = .queue x → x.notify = .nobody →
    ∃ t y, exec (.recordArrival f) s = .next t ∧ t.mem = s.mem ∧ (t.field f).arr = l ∧
      Tab.get [] (t.field f).queues x.queuePrio = Tab.get [] (s.field f).queues x.queuePrio ++ [y] ∧
      y.data = x.data ∧ y.entry = x.entry ∧ y.since = s.ns ∧ ∃ grp, t.group y.group = some grp ∧ grp.left = x.size ∧
        grp.ticket = recTicket x.data) ∧
  (∀ (s : State) (f g tok code : Nat) (r : Rec) (l : List Rec) (sv : Bool), (s.field f).arr = r :: l → s.judge f r = .refuse code →
    r.sender = .thread sv → r.notify = .pend g tok → s.lanesLeft g tok = none →
    ∃ t, exec (.recordArrival f) s = .next t ∧ t.mem = s.mem ∧ (t.field f).arr = l ∧
      (t.thread g).ctx.pend = (s.thread g).ctx.pend.map (Pending.arrive tok (BitVec.ofNat 256 (code % 256)) none)) ∧
  (∀ (s : State) (f c g : Nat) (r : Rec) (l : List Rec) (e : HEntry), (s.field f).lastAdmit ≠ some s.ns →
    Tab.get [] (s.field f).lists 0 = [] → Tab.get [] (s.field f).queues 0 = r :: l → s.fits f 0 (.record r) = some c →
    (s.slotsFor f 0 c true).head? = some g → r.entry = some e → e.gsz = 0 → r.token = none → r.pref = .field →
    ∃ t, exec (.rotundaAdmit f) s = .next t ∧ t.mem = s.mem ∧ (t.field f).lastAdmit = some s.ns ∧
      Tab.get [] (t.field f).queues 0 = l ∧ (t.thread g).run = .run ∧ (t.thread g).sv = e.sv ∧ (t.thread g).ctx.pc = e.code &&& 0xFFFFFFFFFFFF8#64 ∧
      (∀ k, k < 4 → (t.thread g).ctx.rS (BitVec.ofNat 5 (4 + k)) = recArg r.data k) ∧
      (t.thread g).ctx.rS 2 = BitVec.ofNat 64 (e.sbase.toNat + e.ssz * (g + 1)) ∧ (t.thread g).ctx.rS 8 = 0 ∧
      (t.thread g).ctx.rS 9 = 1 ∧ (t.thread g).ctx.v = Ctx.zero.v ∧ (t.thread g).ehand = s.dev.tvec) ∧
  (∀ (s : State) (f q : Nat) (r : Rec) (l : List Rec), Tab.get [] (s.field f).queues q = r :: l → 1 ≤ q → q ≤ 3 →
    r.since + 64000 ≤ s.ns → (Tab.get [] (s.field f).queues (q - 1)).length < 256 →
    ∃ t, exec (.recordPromotion f q) s = .next t ∧ t.mem = s.mem ∧ Tab.get [] (t.field f).queues q = l ∧
      Tab.get [] (t.field f).queues (q - 1) =
        Tab.get [] (s.field f).queues (q - 1) ++ [{ r with prio := q - 1, since := s.ns }]) ∧
  (∀ (s : State) (f q : Nat), (Tab.get [] (s.field f).queues (q - 1)).length ≥ 256 → exec (.recordPromotion f q) s = .next s) ∧
  (∀ (s : State) (g : Nat) (k : Task), s.taskOf g = some k → k.hit = true → (s.thread g).spec = true →
    ∃ t, exec (.taskConflictAbort g) s = .next t ∧ t.mem = s.mem ∧ (t.thread g).run = .run ∧ (t.thread g).ctx = k.entry.ctx ∧
      (t.thread g).spec = !s.isOldest g) ∧
  (∀ (s : State) (g : Nat) (k : Task), s.taskOf g = some k → (s.thread g).run = .parked → s.isOldest g = true →
    ∃ t, exec (.taskPlainRestart g) s = .next t ∧ t.mem = s.mem ∧ t.thread g = { s.thread g with run := .run, spec := false }) ∧
  ∀ (s : State) (b : Nat) (k : Task) (l : List Task) (reply : Bool) (d a c : Word), (s.blk b).tasks = k :: l → k.hit = false →
    k.sws = [] → (s.thread k.g).run = .finished reply d a c → (s.thread k.g).group = none → (s.thread k.g).task = some (b, k.num) →
    (∀ e ∈ k.buf, homeOf e.1 ≠ some .regs) → (∀ e ∈ k.buf, Calm s (e.1 / 64 * 64) 64) →
    ∃ t, exec (.taskCommit b) s = .next t ∧ t.mem = writeBuf s.mem (k.buf.filter fun e => !s.mailByte e.1) ∧
      (t.thread k.g).run = .free

/-- A command word, with its block, enters its port from a command route when the port takes one and its turn has come; it is held while
the port is full, found BUSY while the range-lock table has too few free entries, and discarded with a record when it breaks R91. A BUSY
command is tried again after a release. A gate whose generation is reached lets its transfer pass. A transfer whose entries are
acknowledged starts: it runs, or hands its via route over, or has its compile done, pending or queued. A fill and a copy to a tile move
their next bytes, one run of at most 32 a step in ascending order (log 51: the model's choice); entries are released once everything is
moved and counted, or read, and wake the BUSY commands; the last release ends the transfer and queues its completion; a via transfer has
finished when its last token is written. -/
def Obligations.TransferEvents : Prop :=
  (∀ (s : State) (b port : Nat) (a : Arriving) (pb : List Word) (c : Cmd), port < 4 → Enters s (4 * b + port) a pb c →
    (a.busy = false → s.portsGone b = false → s.entryTurn (4 * b + port) a.ns = true →
      ((s.xport (4 * b + port)).q.length < 16 →
        ((c.lockRanges (s.entriesOf c)).length ≤ s.lockRoom → c.kind ≠ 2 → c.kind ≠ 3 →
          ∃ t, exec (.commandEntry b port) s = .next t ∧ TookCommand s t (4 * b + port) a pb c) ∧
        (s.lockRoom < (c.lockRanges []).length → c.kind ≠ 2 → c.kind ≠ 3 →
          ∃ t, exec (.commandEntry b port) s = .next t ∧ t.mem = s.mem ∧ t.dev.locks = s.dev.locks ∧
            (t.xport (4 * b + port)).arr = [{ a with busy := true, place := s.fresh }] ∧
            (t.xport (4 * b + port)).q = (s.xport (4 * b + port)).q)) ∧
      (16 ≤ (s.xport (4 * b + port)).q.length →
        ∃ t, exec (.commandEntry b port) s = .next t ∧ t.mem = s.mem ∧ (t.xport (4 * b + port)).arr = [a] ∧
          (t.xport (4 * b + port)).q = (s.xport (4 * b + port)).q)) ∧
    (a.busy = true →
      ((s.xport (4 * b + port)).from_ ≤ (s.blk b).cyc → (s.xport (4 * b + port)).q.length < 16 →
        (c.lockRanges (s.entriesOf c)).length ≤ s.lockRoom → c.kind ≠ 2 → c.kind ≠ 3 →
        ∃ t, exec (.busyRetry b port) s = .next t ∧ TookCommand s t (4 * b + port) a pb c) ∧
      ((s.blk b).cyc < (s.xport (4 * b + port)).from_ →
        ∃ t, exec (.busyRetry b port) s = .next t ∧ t.mem = s.mem ∧
          (t.xport (4 * b + port)).arr = [{ a with busy := false }]))) ∧
  (∀ (s : State) (b port : Nat) (a : Arriving), port < 4 → (s.xport (4 * b + port)).arr = [a] → a.stall = none → a.want = none →
    a.busy = false → s.portsGone b = false → s.entryTurn (4 * b + port) a.ns = true → s.wordsOk b a.w = false →
    ∃ t r, exec (.commandEntry b port) s = .next t ∧ t.mem = s.mem ∧ (t.xport (4 * b + port)).arr = [] ∧
      (t.xport (4 * b + port)).q = (s.xport (4 * b + port)).q ∧ r.what.cause = cUND ∧
      (t.field (s.originField (some a.gid) (b / 8))).notices = (s.field (s.originField (some a.gid) (b / 8))).notices ++ [r]) ∧
  (∀ (s : State) (b port id : Nat) (x : Xfer) (c : Cmd), port < 4 → AtHead s (4 * b + port) id x c →
    x.phase = .queued → c.gate = true →
    (∀ tl off, c.gsync = some (.tile tl off) → ∃ t, exec (.gateOpen b port) s = .next t ∧ t.mem = s.mem ∧ t.xfer id = some { x with
      farbuf := []
      phase := if (memNat s.mem (sramAddr tl off + 10) 2 + 65536 - c.ggen % 65536) % 65536 < 32768 then .opened else .queued }) ∧
    (∀ va p, c.gsync = some (.mem va) → x.blk = b → x.port = port → PortReads s (4 * b + port) va p → InMemory p → p.hash = false →
      ∃ t, exec (.gateOpen b port) s = .next t ∧ t.mem = s.mem ∧ t.xfer id = some { x with
        farbuf := []
        phase := if (memNat s.mem (p.pa + 10) 2 + 65536 - c.ggen % 65536) % 65536 < 32768 then .opened else .queued })) ∧
  (∀ (s : State) (b port id : Nat) (x : Xfer) (c : Cmd), port < 4 → AtHead s (4 * b + port) id x c →
    (x.phase = .opened ∨ (x.phase = .queued ∧ c.gate = false)) → s.acked id = true →
    (c.kind ≠ 6 → c.via = 0 →
      ∃ t, exec (.transferStart b port) s = .next t ∧ t.mem = s.mem ∧ t.xfer id = some { x with phase := .running }) ∧
    (∀ gid reach last tl off, c.kind ≠ 6 → c.via ≠ 0 → c.dst = .tile tl off → s.viaPath x.blk c = some (gid, reach, last) →
      s.viaBusy id gid c.via = false → s.viaOpen c last = false →
      ∃ t, exec (.transferStart b port) s = .next t ∧ t.mem = s.mem ∧ t.xfer id = some { x with phase := .running, vgid := some gid } ∧
        (t.tile tl).via = (s.tile tl).via ++ [(id, last, off, 0)]) ∧
    (∀ tl off, c.kind = 6 → c.dst = .tile tl off → c.csync = none →
      (IsCached s tl c.pat →
        ∃ t, exec (.transferStart b port) s = .next t ∧ t.mem = s.mem ∧ t.xfer id = some { x with phase := .moved }) ∧
      (¬ IsCached s tl c.pat → tl / 32 = x.blk →
        (IsPending s tl c.pat →
          ∃ t, exec (.transferStart b port) s = .next t ∧ t.mem = s.mem ∧
            t.xfer id = some { x with phase := .running, closed := true }) ∧
        (¬ IsPending s tl c.pat → (s.blk x.blk).comps.length < 16 →
          ∃ t k, exec (.transferStart b port) s = .next t ∧ t.xfer id = some { x with phase := .running } ∧
            (t.blk x.blk).comps = (s.blk x.blk).comps ++ [k] ∧ k.tile = tl ∧ k.ident = c.pat ∧ k.reqs = [.xfer id]) ∧
        (¬ IsPending s tl c.pat → 16 ≤ (s.blk x.blk).comps.length → exec (.transferStart b port) s = .next s)))) ∧
  (∀ (s : State) (id : Nat) (x : Xfer) (c : Cmd) (tl off : Nat), RunsTo s id x c tl off →
    (c.kind = 4 →
      ∃ t l, exec (.transferWrite id) s = .next t ∧ l.length = nextLen x c ∧ WroteBytes s t false 0 (sramAddr tl (nextDst x c)) l ∧
        (∀ k b, l[k]? = some b → b = BitVec.ofNat 8 (c.pat.toNat / 2 ^ (8 * ((x.pos % c.len + k) % 8)))) ∧
        MovedOn t id x c (nextLen x c)) ∧
    (∀ va ps, c.kind ≤ 1 → c.src = .mem va →
      Sources ps (pageParts (nextSrc x c) (nextLen x c)) (PortReads s (4 * x.blk + x.port)) →
      ∃ t, exec (.transferWrite id) s = .next t ∧
        WroteBytes s t false 0 (sramAddr tl (nextDst x c)) (sourceBytes s ps (pageParts (nextSrc x c) (nextLen x c))) ∧
        MovedOn t id x c (sourceBytes s ps (pageParts (nextSrc x c) (nextLen x c))).length)) ∧
  (∀ (s : State) (id i : Nat) (l : Lock) (x : Xfer), (s.dev.locks.filter fun m => decide (m.id = id))[i]? = some l →
    s.xfer id = some x →
    ((x.phase = .moved ∧ (l.write = true → x.counts = 0)) ∨
        (l.write = false ∧ x.closed = true ∧ ∃ c, cmdOf x.w x.pb = some c ∧ c.via = 0) →
      ∃ t, exec (.rangeLockRelease id i) s = .next t ∧
        t = { s with agenda := s.retries ++ s.agenda, dev := { s.dev with locks := s.dev.locks.erase l } }) ∧
    (x.phase = .running → l.write = true → (∃ c, cmdOf x.w x.pb = some c ∧ c.kind ≠ 6) →
      exec (.rangeLockRelease id i) s = .next s)) ∧
  (∀ (s : State) (id : Nat) (x : Xfer), s.xfer id = some x → x.phase = .moved → x.counts = 0 → (∀ l ∈ s.dev.locks, l.id ≠ id) →
    (x.uid = none → ∃ t, exec (.transferCompletion id) s = .next t ∧ t.mem = s.mem ∧ t.xfer id = none) ∧
    (∀ u slot c g, x.uid = some (u, slot) → cmdOf x.w x.pb = some c → c.cmode ≥ 2 → (s.thread g).comps.length < 8 →
      s.threads.find? (fun e => e.2.uid == u && e.2.run != .free) = some (g, s.thread g) →
      ∃ t, exec (.transferCompletion id) s = .next t ∧ t.mem = s.mem ∧ t.xfer id = none ∧
        (t.thread g).comps = (s.thread g).comps ++ [{ id := c.xid, xst := x.xst, hnd := c.hnd }])) ∧
  ∀ (s : State) (id : Nat) (x : Xfer) (c : Cmd) (tl off : Nat), s.xfer id = some x → cmdOf x.w x.pb = some c → c.dst = .tile tl off →
    x.phase = .running → c.via ≠ 0 → x.closed = true → (∀ v ∈ (s.tile tl).via, v.1 ≠ id) →
    (∀ v, s.viaOf x.blk c = some v → s.onRoute v.gid c.via = false) →
    ∃ t, exec (.viaTransferFinish id) s = .next t ∧ t.mem = s.mem ∧ t.xfer id = some { x with phase := .moved }
namespace Sys2Proof.Claims

open Sys2Proof.Machine

/-- A context of a tile consumes the oldest inbox entry that passes a test: its place and its token. -/
def Arrived (s : State) (t i : Nat) (c : InRoute) (f : Flit) (q : Consumer → Bool) : Prop := s.inboxFor t q = some (i, c, f)

/-- No sync update stands for the `n` bytes at `pa`, and none of them is tail or naks of a mailbox in use. -/
def Unheld (s : State) (pa n : Nat) : Prop := Calm s pa n ∧ ∀ k, k < n → s.mailByte (pa + k) = false

/-- An address-generator node may act: it is not halted, stalled, or waiting for a future entry. -/
def Idles (a : Agen) : Prop := a.halted = false ∧ a.stall = none ∧ a.want = none

/-- The tile's inbox has lost entry `i`. -/
def Taken (s t : State) (tl i : Nat) : Prop := (t.tile tl).inbox = (s.tile tl).inbox.eraseIdx i

end Sys2Proof.Claims

/-! ## Events of the mesh and the tiles -/

/-- A flit moves to the neighbour that its route names, when that has room, and a flit without a way is dropped with a notice, whose
flit enters the mesh there; a fault notice moves a step in dimension order towards its fault unit, whatever the route tables say (log
112); a streamer puts its oldest token into the mesh; tokens enter ports, rings, placing areas and via destinations. -/
def Obligations.MeshEvents : Prop :=
  (∀ (s : State) (r q : Nat) (dir d side : Dir) (vc : BitVec 2) (f : Flit) (l : List Flit), s.link r dir vc.toNat = f :: l →
    s.routerDead r = false → hKind f.hdr ≠ 8 → s.hops r f = some [.go d] → neighbour r d = some (q, side) → s.linkRoom q side (hVc f.hdr) = true →
    ∃ t, exec (.flitForward r dir vc) s = .next t ∧ t.mem = s.mem ∧ t.link r dir vc.toNat = l ∧
      t.link q side (hVc f.hdr) = s.link q side (hVc f.hdr) ++ [f]) ∧
  (∀ (s : State) (r : Nat) (dir : Dir) (vc : BitVec 2) (f : Flit) (l : List Flit), s.link r dir vc.toNat = f :: l →
    s.routerDead r = false → hKind f.hdr ≠ 8 → s.hops r f = none →
    ∃ t x, exec (.flitForward r dir vc) s = .next t ∧ t.mem = s.mem ∧
      t.link r dir vc.toNat = (if dir = .inject ∧ vc = 3 then l ++ [x.flit] else l) ∧
      (¬ (dir = .inject ∧ vc = 3) → t.link r .inject 3 = s.link r .inject 3 ++ [x.flit]) ∧ hKind x.flit.hdr = 8 ∧
      x.what.cause = cECC ∧ x.what.route = hRoute f.hdr ∧ (t.field (s.originField (s.routeOwner r (hRoute f.hdr)) (routerBlk r / 8))).notices =
        (s.field (s.originField (s.routeOwner r (hRoute f.hdr)) (routerBlk r / 8))).notices ++ [x]) ∧
  (∀ (s : State) (r q i : Nat) (dir d side : Dir) (f : Flit) (l : List Flit), s.link r dir 3 = f :: l → s.routerDead r = false →
    hKind f.hdr = 8 → hVc f.hdr = 3 → s.noticeField f = some i → dimStep r (faultRouter i) = some d →
    neighbour r d = some (q, side) →
    (s.linkRoom q side 3 = true →
      ∃ t, exec (.flitForward r dir 3) s = .next t ∧ t.mem = s.mem ∧ t.link r dir 3 = l ∧
        t.link q side 3 = s.link q side 3 ++ [f] ∧ (t.field i).notices = (s.field i).notices) ∧
    (s.linkRoom q side 3 = false → exec (.flitForward r dir 3) s = .next s)) ∧
  (∀ (s : State) (k : Nat) (f : Flit) (l : List Flit) (x : TileCtx) (r : OutRoute), (s.tcore k).outq = f :: l →
    s.coreCtx k = some x → x.out (hRoute f.hdr) = some r → r.cmd = none → s.tileCut (k / 4) = false →
    s.linkRoom (s.tileRouter (k / 4)) .inject (hVc f.hdr) = true →
    ∃ t, exec (.streamerSend k) s = .next t ∧ t.mem = s.mem ∧ (t.tcore k).outq = l ∧
      t.link (s.tileRouter (k / 4)) .inject (hVc f.hdr) = s.link (s.tileRouter (k / 4)) .inject (hVc f.hdr) ++ [f]) ∧
  (∀ (s : State) (k port i : Nat) (c : InRoute) (f : Flit), Arrived s (k / 4) i c f (Consumer.isPort (k % 4) port) →
    (Tab.get [] (s.tcore k).ports port).length < 4 → hLen f.hdr + 1 ≤ c.dst.width → (∀ d ∈ (s.tcore k).drains, d.port ≠ port) →
    ∃ t, exec (.portTokenArrival k port) s = .next t ∧ t.mem = s.mem ∧ Taken s t (k / 4) i ∧
      Tab.get [] (t.tcore k).ports port = Tab.get [] (s.tcore k).ports port ++ [f]) ∧
  (∀ (s : State) (tl ring i : Nat) (c : InRoute) (f : Flit) (x : Ring), Arrived s tl i c f (Consumer.isRing ring) →
    s.ring tl ring = some x → x.h + recSize (hLen f.hdr + 1) ≤ x.size → x.u + recSize (hLen f.hdr + 1) ≤ x.size →
    hKind f.hdr ≠ 7 → x.turn (s.blk (tl / 32)).cyc 4 = true → Calm s (sramAddr tl (x.off + x.h)) (recSize (hLen f.hdr + 1)) →
    ∃ t, exec (.ringPlace tl ring) s = .next t ∧ Taken s t tl i ∧
      WroteBytes s t false 0 (sramAddr tl (x.off + x.h)) (leBytes 8 f.hdr.toNat ++
        leBytes (8 * ((hLen f.hdr + 2) / 2)) (elements f.pay (hLen f.hdr)).toNat) ∧
      Tab.get {} (t.tile tl).rings ring = { x with
        h := (x.h + recSize (hLen f.hdr + 1)) % x.size, u := x.u + recSize (hLen f.hdr + 1)
        cyc := (s.blk (tl / 32)).cyc, ord := 4 }) ∧
  (∀ (s : State) (tl i b : Nat) (c : InRoute) (f : Flit), Arrived s tl i c f Consumer.isPlace → c.dst = .place b →
    hKind f.hdr ≠ 7 → hSeq f.hdr ≠ 0 → b + 32 * hSeq f.hdr ≤ 0x80000 →
    Calm s (sramAddr tl (b + 32 * (hSeq f.hdr - 1))) (4 * (hLen f.hdr + 1)) → Settled s (sramAddr tl (b - 16)) →
    ∃ t, exec (.placingAreaWrite tl) s = .next t ∧ Taken s t tl i ∧
      WroteBytes s t false 0 (sramAddr tl (b + 32 * (hSeq f.hdr - 1))) (leBytes (4 * (hLen f.hdr + 1)) f.pay.toNat) ∧
      (t.landed (sramAddr tl (b - 16))).bytes = (s.landed (sramAddr tl (b - 16))).bytes + 4 * (hLen f.hdr + 1) ∧
      (t.landed (sramAddr tl (b - 16))).arrs = (s.landed (sramAddr tl (b - 16))).arrs + (if hStop f.hdr = 0 then 0 else 1)) ∧
  ∀ (s : State) (tl i id off n at_ : Nat) (c : InRoute) (f : Flit) (x : Xfer) (cm : Cmd) (bs : List Byte),
    Arrived s tl i c f Consumer.isSram → (s.tile tl).viaFor (hRoute f.hdr) = some (id, hRoute f.hdr, off, n) →
    s.xfer id = some x → cmdOf x.w x.pb = some cm → cm.csync = none → x.xst = 0 → viaPlace off n f = some (at_, bs) →
    hKind f.hdr ≠ 7 → Calm s (sramAddr tl at_) bs.length →
    ∃ t, exec (.inboundStreamerWrite tl) s = .next t ∧ Taken s t tl i ∧ WroteBytes s t false 0 (sramAddr tl at_) bs

/-- A converter sends what it has made, or discards it for a graph that is unloaded, and takes its next token: the token joins the firing,
completes it, or halts the converter. The pair of routes of an adder that has a token from either side sends their sum, or halts. A parked
token re-enters when its reply has come and its bucket holds a token. A wait past the stall limit halts its core or stops its node. -/
def Obligations.FabricNodeEvents : Prop :=
  (∀ (s : State) (c : Nat) (x : Conv) (f : Flit) (l : List Flit), s.conv c = some x → x.halted = false → x.outq = f :: l →
    (s.regionCut x.gid = false → s.linkRoom (convRouter c) .inject 0 = true →
      ∃ t, exec (.converterFiring c) s = .next t ∧ t.mem = s.mem ∧ t.conv c = some { x with outq := l, waited := none } ∧
        t.link (convRouter c) .inject (hVc f.hdr) = s.link (convRouter c) .inject (hVc f.hdr) ++ [f]) ∧
    (s.regionCut x.gid = true →
      ∃ t, exec (.converterFiring c) s = .next t ∧ t.mem = s.mem ∧ t.mesh = s.mesh ∧
        t.conv c = some { x with outq := l, waited := none })) ∧
  (∀ (s : State) (c : Nat) (x : Conv) (f : Flit) (l : List Flit), s.conv c = some x → x.halted = false → x.outq = [] →
    x.inq = f :: l → hKind f.hdr ≠ 7 →
    (tokenCodes x.src f = none → ∃ t y, exec (.converterFiring c) s = .next t ∧ t.mem = s.mem ∧ t.conv c = some y ∧
      y.halted = true ∧ y.outq = []) ∧
    (∀ xs, tokenCodes x.src f = some xs →
      ((∀ g, x.src ≠ .mx g) → hStop f.hdr = 0 → x.vals.length + xs.length < firingSize x.src x.dst →
        ∃ t, exec (.converterFiring c) s = .next t ∧ t.mem = s.mem ∧
          t.conv c = some { x with inq := l, count := x.count + 1, vals := x.vals ++ xs.map (BitVec.ofNat 32) }) ∧
      (((∃ g, x.src = .mx g) ∨ hStop f.hdr ≠ 0 ∨ firingSize x.src x.dst ≤ x.vals.length + xs.length) →
        ∃ t y, exec (.converterFiring c) s = .next t ∧ t.mem = s.mem ∧ t.conv c = some y ∧ y.inq = l ∧ y.count = x.count + 1 ∧
          y.vals = [] ∧ y.blkn = x.blkn + 1 ∧ y.outq = x.fire (x.off.getD (Config.noHandoff c)) (hKs f.hdr % 2 ^ 8) (hStop f.hdr)
            ((x.vals ++ xs.map (BitVec.ofNat 32)).map BitVec.toNat)))) ∧
  (∀ (s : State) (p : Nat) (a : Adder) (u v : Flit) (us vs : List Flit), s.adder p = some a → a.up = u :: us → a.loc = v :: vs →
    s.regionCut a.gid = false → (s.port p).waitq.length < 64 →
    (hEtype u.hdr = hEtype v.hdr → hLen u.hdr = hLen v.hdr → hStop u.hdr = hStop v.hdr → (hEtype u.hdr = 1 ∨ hEtype u.hdr = 2) →
      ∃ t, exec (.adderPair p) s = .next t ∧ t.mem = s.mem ∧ t.adders p = (s.adders p).replace a { a with up := us, loc := vs } ∧
        Tab.get 0 t.dev.esn (s.port p).peer.toNat = Tab.get 0 s.dev.esn (s.port p).peer.toNat + 1) ∧
    ((hEtype u.hdr ≠ hEtype v.hdr ∨ hLen u.hdr ≠ hLen v.hdr ∨ hStop u.hdr ≠ hStop v.hdr) →
      ∃ t, exec (.adderPair p) s = .next t ∧ t.mem = s.mem ∧ t.adders p = (s.adders p).replace a { a with halted := true })) ∧
  (∀ (s : State) (tl node i : Nat) (p : Parked) (v : VWord), (Tab.get {} (s.tile tl).escs node).ready = some (i, p, v) →
    (Tab.get {} (s.tile tl).escs node).queue.length < (Tab.get {} (s.tile tl).escs node).pool →
    (s.field (tl / 256)).bkesc.holds (Tab.get 0 s.dev.spente (4 * tl + node)) = true →
    (∀ c, (s.tileCtx tl).bind TileCtx.reent = some c → ∀ d ∈ (s.tcore (4 * tl + c)).drains, d.port ≠ 15 - node) →
    ∃ t, exec (.escapeReentry tl node) s = .next t ∧ t.mem = s.mem ∧
      (Tab.get {} (t.tile tl).escs node).queue = (Tab.get {} (s.tile tl).escs node).queue ++
        [{ hdr := p.tok.hdr, pay := elements v (hLen p.tok.hdr) }] ∧
      (Tab.get {} (t.tile tl).escs node).out = (Tab.get {} (s.tile tl).escs node).out.eraseIdx i ∧
      Tab.get 0 t.dev.spente (4 * tl + node) = Tab.get 0 s.dev.spente (4 * tl + node) + 1) ∧
  (∀ (s : State) (k n key : Nat), (s.tcore k).waited = some (n, key) → s.coreLimit k key < n →
    (∀ x, s.tileCtx (k / 4) = some x → s.regionFaulted x.gid = false) →
    ∃ t, exec (.stallLimit (.core k)) s = .next t ∧ t.mem = s.mem ∧ (t.tcore k).run = .faulted cSTALL_LIMIT) ∧
  (∀ (s : State) (m n : Nat) (a : Agen), s.agen m = some a → a.waited = some n → s.routeLimit (memRouter m) a.route < n →
    s.regionFaulted a.gid = false →
    ∃ t, exec (.stallLimit (.agen m)) s = .next t ∧ t.mem = s.mem ∧ t.agen m = some { a with halted := true, waited := none }) ∧
  ∀ (s : State) (c n : Nat) (x : Conv), s.conv c = some x → x.waited = some n → s.routeLimit (convRouter c) x.route < n →
    s.regionFaulted x.gid = false →
    ∃ t, exec (.stallLimit (.conv c)) s = .next t ∧ t.mem = s.mem ∧ t.conv c = some { x with halted := true, waited := none }

/-- A load node joins the load window of its block with the elements of its next token, sends the token when they have come, and the token
enters the mesh, or is discarded while its graph is unloaded; a store node writes its token; an arrival lands at the done word. The oldest
matrix operation starts and ends, and the next may start in the block cycle after the last that it took (R182); a tile switches to another
context, or to its successor; a splice marker leaves once every token of its own route has entered its consumer's port (R256); a
configuration flit enters its word of a context's image. A graph ends; a load ends with its graph live, or with nothing of it placed when
an image is bad; an unload ends once its escape threads can end, which issue nothing more before (R410). -/
def Obligations.GraphEvents : Prop :=
  (∀ (s : State) (m : Nat) (a : Agen) (p : Phys), s.agen m = some a → a.store = false → Idles a →
    a.active = true → a.n < a.count → a.outq = [] → a.part = [] → (a.addr 0).toNat % 65536 + 32 ≤ 65536 →
    s.agenXl m a (a.addr 0) false = .ok p → a.route < 4096 →
    (a.far = .idle → p.home = .dram →
      ∃ t w, exec (.agenLoadToken m) s = .next t ∧ t.mem = s.mem ∧ t.agen m = some { a with walked := none, far := .reading } ∧
        w ∈ (t.blk (m / 8)).lwins ∧ w.word = p.pa / 8 ∧
        { who := .inr m, va := (a.addr 0).toNat, phys := p, n := 32 } ∈ w.who) ∧
    (∀ x, a.far = .read x → ∃ t y f, exec (.agenLoadToken m) s = .next t ∧ t.mem = s.mem ∧ t.agen m = some y ∧ y.n = a.n + 1 ∧
      y.part = [] ∧ y.far = .idle ∧ y.outq = [f] ∧ f.pay = x ∧ hLen f.hdr = 7 ∧ hRoute f.hdr = a.route ∧
      hStop f.hdr = if a.n + 1 = a.count then 1 else 0)) ∧
  (∀ (s : State) (m : Nat) (a : Agen) (f : Flit) (l : List Flit), s.agen m = some a → a.store = false → Idles a →
    a.outq = f :: l →
    (s.regionCut a.gid = false → s.linkRoom (memRouter m) .inject 0 = true → s.portToken m = true →
      ∃ t, exec (.agenLoadToken m) s = .next t ∧ t.mem = s.mem ∧ t.agen m = some { a with outq := l, waited := none } ∧
        t.link (memRouter m) .inject (hVc f.hdr) = s.link (memRouter m) .inject (hVc f.hdr) ++ [f]) ∧
    (s.regionCut a.gid = true →
      ∃ t, exec (.agenLoadToken m) s = .next t ∧ t.mem = s.mem ∧ t.mesh = s.mesh ∧
        t.agen m = some { a with outq := l, waited := none })) ∧
  (∀ (s : State) (m : Nat) (a : Agen) (p : Phys) (f : Flit) (l : List Flit), s.agen m = some a → a.store = true → Idles a →
    a.inq = f :: l → a.part = [] → a.at_ = none → hKind f.hdr ≠ 7 → p.home = .dram →
    (a.addr 0).toNat % 65536 + 4 * (hLen f.hdr + 1) ≤ 65536 → s.agenXl m a (a.addr 0) true = .ok p → s.portToken m = true →
    (p.hash = true → p.pa % 64 + 4 * (hLen f.hdr + 1) ≤ 64) → Calm s p.pa (4 * (hLen f.hdr + 1)) →
    ∃ t y, exec (.agenStoreToken m) s = .next t ∧
      WroteBytes s t p.sw (a.addr 0).toNat p.pa (leBytes (4 * (hLen f.hdr + 1)) f.pay.toNat) ∧
      t.agen m = some y ∧ y.n = a.n + 1 ∧ y.inq = l) ∧
  (∀ (s : State) (m : Nat) (a : Agen) (g : Graph) (p : Phys), s.agen m = some a → a.arrs ≠ 0 → a.arrFar = false → Idles a →
    s.graph a.gid = some g → s.agenXl m a g.done true = .ok p → p.home = .dram → Settled s p.pa →
    ∃ t y, exec (.doneArrival m) s = .next t ∧ t.agen m = some y ∧ y.arrs = a.arrs - 1 ∧
      (∀ x, ¬ Watched s p.sw g.done.toNat x → Memory.byte t.mem x = Memory.byte s.mem x) ∧
      Lands s t p.pa fun x => { x with arrs := x.arrs + 1, by_ := some none }) ∧
  (∀ (s : State) (tl n : Nat) (m : MOp) (l : List MOp), (s.tile tl).mq = m :: l → m.kind = .mzero →
    (m.began = none → (s.tile tl).mqFrom ≤ (s.blk (tl / 32)).cyc → ∃ t, exec (.matrixOpStart tl) s = .next t ∧ t.mem = s.mem ∧
      (t.tile tl).mq = { m with began := some (s.blk (tl / 32)).cyc } :: l) ∧
    (m.began = some n → n + 4 ≤ (s.blk (tl / 32)).cyc →
      ∃ t, exec (.matrixOpEnd tl) s = .next t ∧ t.mem = s.mem ∧ (t.tile tl).mq = l ∧
        (t.tile tl).mqFrom = (s.blk (tl / 32)).cyc ∧
        ∀ r c, r < 128 → c < 128 → t.acc tl r c =
          if r / 32 = m.md.toNat / 2 ^ 32 % 4 ∧ c / 32 = m.md.toNat / 2 ^ 34 % 4 then 0 else s.acc tl r c)) ∧
  (∀ (s : State) (tl n : Nat) (x : TileCtx), s.switchDue tl = some n → Tab.get none (s.tile tl).ctxs n = some x →
    ((s.tile tl).succ ≠ some n → ∃ t, exec (.contextSwitch tl) s = .next t ∧ t.mem = s.mem ∧ (t.tile tl).cur = some n) ∧
    ((s.tile tl).succ = some n → ∃ t, exec (.spliceSwitch tl) s = .next t ∧ t.mem = s.mem ∧ (t.tile tl).cur = some n ∧
      (t.tile tl).succ = none)) ∧
  (∀ (s : State) (tl route n : Nat) (b l : List (Nat × Nat)), (s.tile tl).markers = b ++ (route, n) :: l →
    (∀ m ∈ b, s.onWay tl m.1 = true) → s.onWay tl route = false → route < 4096 →
    ∃ t f, exec (.spliceMarker tl) s = .next t ∧ t.mem = s.mem ∧ (t.tile tl).markers = b ++ l ∧ hKind f.hdr = 7 ∧
      hRoute f.hdr = route ∧ hKs f.hdr = n % 4 ∧
      t.link (s.tileRouter tl) .inject (hVc f.hdr) = s.link (s.tileRouter tl) .inject (hVc f.hdr) ++ [f]) ∧
  (∀ (s : State) (tl : Nat) (f : Flit) (l : List Flit) (x : TileCtx), (s.tile tl).cfg = f :: l → f.broken = false →
    (s.tile tl).cur ≠ some (hKs f.hdr % 4) → Tab.get none (s.tile tl).ctxs (hKs f.hdr % 4) = some x →
    ∃ t y, exec (.configurationFlit tl) s = .next t ∧ t.mem = s.mem ∧ (t.tile tl).cfg = l ∧
      Tab.get none (t.tile tl).ctxs (hKs f.hdr % 4) = some y ∧ y.got = x.got + 1 ∧ Tab.get 0 y.image (hKs f.hdr / 4) = f.pay ∧
      (x.got + 1 ≠ x.words → y.bad = x.bad)) ∧
  (∀ (s : State) (gid : Nat) (g : Graph), s.graph gid = some g → s.graphDone gid g = true →
    ∃ t, exec (.graphEnd gid) s = .next t ∧ t.mem = s.mem ∧ t.graph gid = none) ∧
  (∀ (s : State) (gid : Nat) (g : Graph) (c : BCmd) (l : List BCmd), s.dev.loading = some gid → s.dev.bq = c :: l →
    s.graph gid = some g →
    (s.imagesBad gid g = false → s.imagesIn gid g = true → g.mode = 0 →
      ∃ t, exec .graphLoad s = .next t ∧ t.graph gid = some { g with live := true } ∧ t.dev.loading = none ∧ t.dev.bq = l) ∧
    (s.imagesBad gid g = true →
      ∃ t, exec .graphLoad s = .next t ∧ t.graph gid = none ∧ t.dev.loading = none ∧ t.dev.bq = l)) ∧
  ∀ (s : State) (gid : Nat) (g : Graph) (c : BCmd) (l : List BCmd), s.dev.unloading = some gid → s.dev.bq = c :: l →
    s.graph gid = some g → s.unloadReady gid g = true →
    (s.escReady gid g = true →
      ∃ t, exec .graphUnload s = .next t ∧ t.graph gid = none ∧ t.dev.unloading = none ∧ t.dev.bq = l) ∧
    (s.escReady gid g = false → exec .graphUnload s = .next (s.setGraph gid (some { g with esc := true })))

/-- The earliest notice that has come to a fault unit becomes a record while the queue has room, and waits on vc3 while it has none (R309,
log 112); records are written with their numbers and an arrival at the doorbell, and none before an earlier notice at the unit; a
resolution word that advances makes its entry resolving; a verdict of 0 re-admits the thread; compiles start, and end with their program
in the tile's cache and in the form that waits for it. -/
def Obligations.FaultAndCompileEvents : Prop :=
  (∀ (s : State) (f : Nat) (d : Dir) (r : Notice), s.nextNotice f = some (d, r) →
    ((s.fqUsed f + (s.field f).recs.length < (s.field f).fqsize ∨
        (s.fqUsed f < (s.field f).fqsize ∧ ∀ x ∈ (s.field f).recs, x.before r.what = false)) →
      ∃ t, exec (.faultNotice f) s = .next t ∧ t.mem = s.mem ∧ (t.field f).notices = (s.field f).notices.erase r ∧
        (t.field f).recs = (s.field f).recs ++ [r.what] ∧
        t.link (faultRouter f) d 3 = (s.link (faultRouter f) d 3).drop 1) ∧
    ((s.field f).fqsize ≤ s.fqUsed f → exec (.faultNotice f) s = .next s) ∧
    ((s.field f).fqsize ≤ s.fqUsed f + (s.field f).recs.length → (∃ x ∈ (s.field f).recs, x.before r.what = true) →
      exec (.faultNotice f) s = .next s)) ∧
  (∀ (s : State) (f : Nat) (d : Dir) (n : Notice) (r : FRec), firstRec (s.field f).recs = some r → s.nextNotice f = some (d, n) →
    r.before n.what = false → exec (.faultRecordWrite f) s = .next s) ∧
  (∀ (s : State) (f : Nat) (r : FRec), firstRec (s.field f).recs = some r → s.fqRoom f = true → r.fent = none →
    (∀ d n, s.nextNotice f = some (d, n) → r.before n.what = true) →
    Unheld s ((s.field f).fqbase.toNat + 24) 8 →
    Unheld s ((s.field f).fqbase.toNat + 64 + 64 * (s.fqTail f % (s.field f).fqsize)) 64 →
    Settled s (s.field f).fqbase.toNat →
    ∃ t, exec (.faultRecordWrite f) s = .next t ∧ (t.field f).recs = (s.field f).recs.erase r ∧
      memNat t.mem ((s.field f).fqbase.toNat + 24) 8 = (s.fqTail f + 1) % 2 ^ 64 ∧
      (∀ k b, (r.bytes ((s.fqTail f + 1) % 2 ^ 64))[k]? = some b →
        Memory.byte t.mem ((s.field f).fqbase.toNat + 64 + 64 * (s.fqTail f % (s.field f).fqsize) + k) = b) ∧
      (∀ a, (a < (s.field f).fqbase.toNat + 24 ∨
          ((s.field f).fqbase.toNat + 32 ≤ a ∧ a < (s.field f).fqbase.toNat + 64 + 64 * (s.fqTail f % (s.field f).fqsize)) ∨
          (s.field f).fqbase.toNat + 128 + 64 * (s.fqTail f % (s.field f).fqsize) ≤ a) →
        Memory.byte t.mem a = Memory.byte s.mem a) ∧
      Lands s t (s.field f).fqbase.toNat fun x => { x with arrs := x.arrs + 1, by_ := some none }) ∧
  (∀ (s : State) (f k : Nat) (e : FutEnt), Tab.get none (s.field f).futs k = some e →
    (e.resolving = false → memNat s.mem ((s.field f).fpbase.toNat + 4096 * k + 10) 2 ≠ e.gen →
      Unheld s ((s.field f).fpbase.toNat + 4096 * k + 24) 8 →
      ∃ t, exec (.futureResolve f k) s = .next t ∧ Tab.get none (t.field f).futs k = some { e with resolving := true } ∧
        memNat t.mem ((s.field f).fpbase.toNat + 4096 * k + 24) 1 % 32 = 2) ∧
    (∀ th slot, e.resolving = true → e.unit = .thread th slot → th.sb = [] →
      memNat s.mem ((s.field f).fpbase.toNat + 4096 * k + 16) 8 = 0 →
      ∃ t, exec (.futureResolve f k) s = .next t ∧ Tab.get none (t.field f).futs k = none ∧
        Tab.get [] (t.field (slot / 1024)).lists th.prio.toNat = Tab.get [] (s.field (slot / 1024)).lists th.prio.toNat ++
          [{ th := { th with sb := [], verdict := none }, blk := slot / 128 }])) ∧
  (∀ (s : State) (b : Nat) (c : Compile) (l : List Compile), (s.blk b).comps = c :: l → c.began = none → c.present = true →
    ∃ t, exec (.compileStart b) s = .next t ∧ t.mem = s.mem ∧
      (t.blk b).comps = { c with began := some (s.blk b).cyc } :: l) ∧
  ∀ (s : State) (b n nb : Nat) (c : Compile) (l : List Compile) (prog : List (BitVec 32)), (s.blk b).comps = c :: l →
    c.began = some n → c.complete = true → n + 64 + c.scan.coords.length ≤ (s.blk b).cyc → c.last + 64 ≤ (s.blk b).cyc →
    c.result = .prog nb prog → s.genHolds c = true →
    (∀ m, (s.tile c.tile).mq.head? = some m → m.awaits c.ident = true → mdNb m.md = nb) →
    ∃ t, exec (.compileEnd b) s = .next t ∧ t.mem = s.mem ∧ (t.blk b).comps = l ∧
      (∃ e ∈ (t.tile c.tile).mcache, e.ident = c.ident ∧ e.prog = prog ∧ e.nb = nb) ∧
      ∀ m ml, (s.tile c.tile).mq = m :: ml → m.awaits c.ident = true →
        ∃ y, (t.tile c.tile).mq = y :: ml ∧ y.sp = .ready nb prog

/-! ## Events of the links, the clocks, the host ports and the belvedere -/

/-- An attempt goes out again, and ends after 32,768 ns without an answer; a refused reply is sent again; a reply is written to
its mailbox; an answer ends its packet; a packet enters when each of its flits has a token (R419), a record packet then reaching its field,
and a packet whose tag fails taking its port down. -/
def Obligations.PacketEvents : Prop :=
  (∀ (s : State) (i n : Nat) (x : Inv), s.dev.invs[i]? = some x → x.run = .backoff n → n ≤ s.ns →
    bits x.desc 20 10 = s.dev.devnum →
    ∃ t, ∃ r : Rec, exec (.invokeRetry i) s = .next t ∧ t.mem = s.mem ∧
      t.dev.invs = s.dev.invs.map (fun y => if y.id = x.id then { y with run := .sent s.ns } else y) ∧
      (t.field (bits x.desc 30 4)).arr = (s.field (bits x.desc 30 4)).arr ++ [r] ∧ r.data = x.data ∧ r.notify = .inv x.id) ∧
  (∀ (s : State) (i n : Nat) (x : Inv), s.dev.invs[i]? = some x → x.run = .sent n → n + 32768 ≤ s.ns → s.inv x.id = some x →
    s.lanesLeft x.g x.tok = none →
    ∃ t, exec (.invokeTimeout i) s = .next t ∧ t.mem = s.mem ∧ t.dev.invs = s.dev.invs.filter (fun y => decide (y.id ≠ x.id)) ∧
      (t.thread x.g).ctx.pend = (s.thread x.g).ctx.pend.map (Pending.arrive x.tok (statusOf (recTicket x.data) x.tries 6) none)) ∧
  (∀ (s : State) (i n : Nat) (r : ReplyMsg), s.dev.replies[i]? = some r → r.again = some n → n ≤ s.ns → r.to_ = none →
    exec (.replyResend i) s =
      .next { s with dev := { s.dev with replies := s.dev.replies.set i { r with again := none } } }) ∧
  (∀ (s u v : State) (core i cap head tail off : Nat) (r : ReplyMsg) (o : Outst) (p q : Phys),
    (s.dev.replies.findIdx? fun r => r.to_.isNone && r.again.isNone && decide (r.core = core)) = some i →
    s.dev.replies[i]? = some r → r.src = none →
    ((s.core core).outst.find? fun o => o.ticket == (r.data.setWidth 32 : BitVec 32)) = some o →
    u = { s with dev := { s.dev with replies := s.dev.replies.eraseIdx i } } →
    u.xlMark o.mbox.toNat { rd := false, wr := true, ex := false, sv := o.sv } = (u, .ok p) → p.home = .dram → p.sw = false →
    (p.plus 16).pa = p.pa + 16 → (p.hash = true → p.pa % 64 = 0) →
    cap = memNat s.mem p.pa 2 → head = memNat s.mem (p.pa + 8) 8 → tail = memNat s.mem (p.pa + 16) 8 →
    memNat s.mem (p.pa + 2) 6 = 0 → memNat s.mem (p.pa + 32) 32 = 0 → (tail + 2 ^ 64 - head) % 2 ^ 64 < cap →
    off = 64 + 40 * (tail % cap) → (o.mbox.toNat + off) % 65536 + 40 ≤ 65536 → v = u.knowMail o.mbox p.pa →
    v.xlMark (o.mbox.toNat + off) { rd := false, wr := true, ex := false, sv := o.sv } = (v, .ok q) → q.home = .dram → q.sw = false →
    CalmSpan s q 40 → Calm s (p.pa + 16) 8 → (∀ k, k < 40 → v.mailByte (q.plus k).pa = false) →
    (∀ k, k < 40 → (q.plus k).pa < p.pa + 16 ∨ p.pa + 24 ≤ (q.plus k).pa) →
    ∃ t, exec (.mailboxWrite core) s = .next t ∧ t.dev.replies = s.dev.replies.eraseIdx i ∧
      (∀ k b, (leBytes 40 (r.data.toNat + s.ns % 2 ^ 64 * 2 ^ 256))[k]? = some b → Memory.byte t.mem (q.plus k).pa = b) ∧
      (∀ k b, (leBytes 8 ((tail + 1) % 2 ^ 64))[k]? = some b → Memory.byte t.mem (p.pa + 16 + k) = b) ∧
      (∀ a, (a < p.pa + 16 ∨ p.pa + 24 ≤ a) → (∀ k, k < 40 → a ≠ (q.plus k).pa) → Memory.byte t.mem a = Memory.byte s.mem a) ∧
      (t.core r.core).outst = (s.core r.core).outst.filter fun o => o.ticket ≠ (r.data.setWidth 32 : BitVec 32)) ∧
  (∀ (s : State) (port : Nat) (f : Frame) (u : Unans) (x : Inv),
    ((s.port port).rxbuf.find? fun f => f.ftype == 3 && decide (f.ddev.toNat = s.dev.devnum)) = some f →
    (s.dev.unans.find? fun u => u.esn == (f.body.setWidth 32 : BitVec 32) && decide (u.dest = f.sdev.toNat)) = some u →
    f.body.toNat / 2 ^ 32 % 256 = 0 → u.kind = .inv x.id → s.inv x.id = some x →
    s.lanesLeft x.g x.tok = none →
    ∃ t, exec (.answerFrame port) s = .next t ∧ t.mem = s.mem ∧ t.dev.invs = s.dev.invs.filter (fun y => decide (y.id ≠ x.id)) ∧
      (∀ v ∈ t.dev.unans, ¬ (v.esn = u.esn ∧ v.dest = u.dest)) ∧
      (t.thread x.g).ctx.pend = (s.thread x.g).ctx.pend.map (Pending.arrive x.tok (statusOf (recTicket x.data) x.tries 0) none)) ∧
  (∀ (s : State) (port : Nat) (fs : List Frame) (f : Frame) (a b : Flit),
    2 ≤ (s.port port).paid + (s.port port).tokens →
    s.pickPacket port [] (packetsFor s.dev.devnum (s.port port).rxbuf) = some (fs, some [a, b]) → fs.head? = some f →
    a.broken = false → b.broken = false → hKind a.hdr = 2 → hKind b.hdr = 2 → s.answerFor f.sdev.toNat f.esn = none →
    ∃ t, ∃ r : Rec, exec (.packetReceive port) s = .next t ∧ t.mem = s.mem ∧ (t.port port).tokens = (s.port port).tokens - (2 - (s.port port).paid) ∧
      (t.field (hRoute a.hdr % 16)).arr = (s.field (hRoute a.hdr % 16)).arr ++ [r] ∧ r.data = b.pay ++ a.pay) ∧
  (∀ (s : State) (port : Nat) (fs : List Frame) (fl : Option (List Flit)),
    s.pickPacket port [] (packetsFor s.dev.devnum (s.port port).rxbuf) = some (fs, fl) →
    (s.port port).paid + (s.port port).tokens < enterFlits fs fl →
    ∃ t, exec (.packetReceive port) s = .next t ∧ t.mem = s.mem ∧ t.port port =
      { s.port port with paid := (s.port port).paid + (s.port port).tokens, tokens := 0 }) ∧
  ∀ (s : State) (port : Nat) (fs : List Frame), fs.length ≤ (s.port port).paid + (s.port port).tokens →
    s.pickPacket port [] (packetsFor s.dev.devnum (s.port port).rxbuf) = some (fs, none) → s.dev.unans = [] →
    (s.port port).kept = [] → (s.port port).replay = [] → (s.port port).waitq = [] →
    ∃ t, exec (.packetReceive port) s = .next t ∧ t.mem = s.mem ∧ (t.port port).run = .down ∧ (t.port port).barred = true

/-- A bad frame is discarded and the frame in sequence is kept; a retry request has the frames after it sent again while the port is up; an
idle frame carries the time; a frame of another device goes on by its live port; a port retrains after 16 discards, when a frame that was
resent four times is asked for again, or with its peer; it goes down 8,192 ns after the last good frame, or after its frames went out if that
is later, and comes up with its good lanes. -/
def Obligations.LinkEvents : Prop :=
  (∀ (s : State) (port : Nat) (x : BitVec 512), (s.port port).run = .up → frameGood x.toNat = false →
    ∃ t, exec (.frameReceive port x) s = .next t ∧ t.mem = s.mem ∧ (t.port port).rxbuf = (s.port port).rxbuf ∧
      (t.port port).rxSeq = (s.port port).rxSeq ∧ (t.port port).asked = true) ∧
  (∀ (s : State) (port : Nat) (x : BitVec 512), (s.port port).run = .up → frameGood x.toNat = true → (frameOf x.toNat).ftype = 0 →
    x.toNat / 2 ^ 392 % 2 ^ 16 = ((s.port port).rxSeq + 1).toNat →
    ∃ t, exec (.frameReceive port x) s = .next t ∧ t.mem = s.mem ∧ (t.port port).rxbuf = (s.port port).rxbuf ++ [s.frameIn port x.toNat] ∧
      (t.port port).rxSeq = (s.port port).rxSeq + 1 ∧ (t.port port).asked = false) ∧
  (∀ (s : State) (port : Nat), (s.port port).run ≠ .up → exec (.retryRequest port) s = .next s) ∧
  (∀ (s : State) (port : Nat) (lack q : BitVec 16) (f : Frame), (s.port port).run = .up → (s.port port).reqd = some lack →
    (s.port port).replay = [(q, f)] → q ≠ lack →
    ∃ t, exec (.retryRequest port) s = .next t ∧ t.mem = s.mem ∧ (t.port port).reqd = none ∧
      (t.port port).out = f.encode q.toNat (s.port port).rxSeq.toNat (crdOf (s.port port).freed) :: (s.port port).out) ∧
  (∀ (s : State) (port : Nat), (s.port port).run = .up →
    ∃ t, ∃ f : Frame, exec (.idleFrame port) s = .next t ∧ t.mem = s.mem ∧ (t.port port).lastIdle = s.ns ∧
      (t.port port).out = f.encode 0 (s.port port).rxSeq.toNat (crdOf (s.port port).freed) :: (s.port port).out ∧
      f.ftype = 1 ∧ f.body = BitVec.ofNat 320 (s.ns % 2 ^ 64)) ∧
  (∀ (s : State) (port q : Nat) (f : Frame), ((s.port port).rxbuf.find? fun f => decide (f.ddev.toNat ≠ s.dev.devnum)) = some f →
    s.livePort f.ddev.toNat = some q → q ≠ port → (s.port q).run = .up → (s.port q).waitq = [] → (s.port q).replay.length < 256 →
    (∀ v, f.vc = some v → 0 < (s.port q).credit.getD v 0) →
    ∃ t, exec (.frameForward port) s = .next t ∧ t.mem = s.mem ∧ (t.port port).rxbuf = (s.port port).rxbuf.erase f ∧
      (t.port q).replay = (s.port q).replay ++ [((s.port q).txSeq + 1, f)] ∧
      (t.port q).out = f.encode ((s.port q).txSeq + 1).toNat (s.port q).rxSeq.toNat (crdOf (s.port q).freed) :: (s.port q).out) ∧
  (∀ (s : State) (port : Nat) (byPeer : Bool), (s.port port).run = .up →
    (byPeer = true ∨ 16 ≤ (s.port port).discards ∨ (4 ≤ (s.port port).resends ∧ (s.port port).reqd ≠ none) →
      ∃ t, exec (.portRetrain { port := port, byPeer := byPeer }) s = .next t ∧ t.mem = s.mem ∧
        t.port port = { s.port port with run := .retraining s.ns }) ∧
    (byPeer = false → (s.port port).discards < 16 → ((s.port port).resends < 4 ∨ (s.port port).reqd = none) →
      exec (.portRetrain { port := port, byPeer := byPeer }) s = .next s)) ∧
  (∀ (s : State) (port : Nat), ((s.port port).run = .up ∨ ∃ n, (s.port port).run = .retraining n) → (s.port port).replay ≠ [] →
    max (s.port port).lastGood (s.port port).since + 8192 ≤ s.ns → s.dev.unans = [] → (s.port port).kept = [] → (s.port port).waitq = [] →
    (∀ e ∈ (s.port port).replay, e.2.sdev.toNat = s.dev.devnum) →
    ∃ t, ∃ r : FRec, exec (.portDown port) s = .next t ∧ t.mem = s.mem ∧ (t.port port).run = .down ∧ (t.port port).replay = [] ∧
      (t.field 0).recs = (s.field 0).recs ++ [r] ∧ r.cause = cLINK_LOST ∧
      r.aux = BitVec.ofNat 64 (port % 16 + (s.port port).peer.toNat * 65536)) ∧
  (∀ (s : State) (port : Nat), (s.port port).run = .down → (s.port port).barred = false → (s.port port).downAt + 1000000 ≤ s.ns →
    ∃ t, exec (.downPortRetrain port) s = .next t ∧ t.mem = s.mem ∧ t.port port = { s.port port with run := .training }) ∧
  ∀ (s : State) (port : Nat) (lanes : BitVec 16), (s.port port).run = .training →
    (∀ l, keptLanes lanes = some l → ∃ t, exec (.retrainComplete port lanes) s = .next t ∧ t.mem = s.mem ∧
      (t.port port).run = .up ∧ (t.port port).lanes = l) ∧
    (keptLanes lanes = none → ∃ t, exec (.retrainComplete port lanes) s = .next t ∧ t.mem = s.mem ∧ (t.port port).run = .down)

/-- The device's count slews towards its time source's by one ns in 1,024, a block's catches up, a droop stretches a block's period, a
block without work gates its power and wakes with a token, buckets refill and their rates adjust, heat shuts the device down, bring-up
goes through its phases, and resets leave what they must: after a cold reset the device's memory is as one that nothing has written, and
host memory stays (logs 1 and 45: the model's choices). -/
def Obligations.PowerEvents : Prop :=
  (∀ (s : State) (b : Nat), ∃ t, exec (.campanileSlew (some b) true) s = .next t ∧ t.mem = s.mem ∧ (t.blk b).lag = 0) ∧
  (∀ (s : State) (fwd : Bool),
    (s.slewTo = some fwd → s.dev.lastSlew + 1024 ≤ s.ns →
      ∃ t, exec (.campanileSlew none fwd) s = .next t ∧ t.mem = s.mem ∧ t.ns = (if fwd then s.ns + 1 else s.ns) ∧
        t.dev = { s.dev with lastSlew := t.ns }) ∧
    ((s.slewTo ≠ some fwd ∨ s.ns < s.dev.lastSlew + 1024) → exec (.campanileSlew none fwd) s = .next s)) ∧
  (∀ (s : State) (p k : Nat), s.dev.set = true → s.timePort = some p → (s.port p).peerAt = some k →
    s.slewTo = if s.ns < (s.port p).peerTime.toNat + Config.halfTrip p k + (s.ns - k) then some true
      else if (s.port p).peerTime.toNat + Config.halfTrip p k + (s.ns - k) < s.ns then some false else none) ∧
  (∀ (s : State) (b pct : Nat), ∃ t, exec (.clockStretch b pct) s = .next t ∧ t.mem = s.mem ∧
    (t.blk b) = { s.blk b with stretch := min pct 25 }) ∧
  (∀ (s : State) (b : Nat), ∃ t, exec (.supplyDroopEnd b) s = .next t ∧ t.mem = s.mem ∧ t.blk b = { s.blk b with stretch := 0 }) ∧
  (∀ (s : State) (b : Nat), (s.blk b).power = .on → s.blockBusy b = false → (s.blk b).quiet + 50000 ≤ s.ns →
    ∃ t, exec (.powerGate b) s = .next t ∧ t.mem = s.mem ∧ t.blk b = { s.blk b with power := .gated }) ∧
  (∀ (s : State) (b n : Nat), (s.blk b).power = .asked n → (s.field (b / 8)).inrush.length < 2 → s.wakesFirst b n = true →
    ∃ t, exec (.blockWake b) s = .next t ∧ t.mem = s.mem ∧ t.blk b = { s.blk b with power := .waking s.ns } ∧
      (t.field (b / 8)).inrush = (s.field (b / 8)).inrush ++ [s.ns]) ∧
  (∀ (s : State) (b n : Nat), (s.blk b).power = .waking n → n + 4000 ≤ s.ns →
    ∃ t, exec (.blockWake b) s = .next t ∧ t.mem = s.mem ∧ (t.blk b).power = .on ∧
      (t.field (b / 8)).inrush = (s.field (b / 8)).inrush.erase n) ∧
  (∀ (s : State), s.dev.lastFill + 64 ≤ s.ns →
    ∃ t, exec .bucketRefill s = .next t ∧ t.mem = s.mem ∧ t.dev.lastFill = s.dev.lastFill + 64 ∧
      (∀ m, Tab.get 0 t.dev.spentm m = Tab.get 0 s.dev.spentm m - (s.field (m / 64)).bkmem.eff) ∧
      ∀ p, p < 16 → (t.port p).tokens = min (if s.dev.bklink.depth = 0 then 1 else s.dev.bklink.depth)
        ((s.port p).tokens + s.dev.bklink.eff)) ∧
  (∀ (s : State) (x : Sensors) (f : Nat), s.dev.lastEff + 1024 ≤ s.ns → f < 16 →
    ∃ t, exec (.effAdjust x) s = .next t ∧ t.mem = s.mem ∧ t.dev.mpwr = x.mpwr ∧ (t.field f).temp = x.temp.getD f 0 ∧
      (x.mpwr > (s.field f).plim → (t.field f).bkmem.eff =
        max (max (7 * (s.field f).bkmem.eff / 8)
          (((if (s.field f).bkmem.cap = 0 then 256 else (s.field f).bkmem.cap) + 7) / 8)) 1)) ∧
  (∀ (s : State) (f : Nat), 1840 ≤ (s.field f).temp →
    exec (.thermalShutdown f) s = .next { s with dev := { s.dev with phase := 0xE } }) ∧
  (∀ (s : State), ∃ t, exec .coldReset s = .next t ∧ t.dev = State.reset.dev ∧ t.threads = [] ∧ t.tcores = [] ∧
    ∀ a, Memory.byte t.mem a = if 0x800000000000 ≤ a ∧ a < 0xA00000000000 then Memory.byte s.mem a else Memory.byte [] a) ∧
  (∀ (s : State) (ok : Bool), s.dev.phase.toNat ≤ 5 →
    ∃ t, exec (.phaseComplete ok) s = .next t ∧ t.mem = s.mem ∧
      t.dev.phase = if (s.dev.phase = 1 ∧ firmwareOk = false) ∨ ((s.dev.phase = 2 ∨ s.dev.phase = 3) ∧ ok = false) then 0xF
        else s.dev.phase + 1) ∧
  ∀ (s : State) (port : Nat), ∃ t, exec (.pcieHotReset port) s = .next t ∧ t.mem = s.mem ∧
    (t.hostPort port).linkIde = none ∧ (t.hostPort port).selIde = none ∧
    (t.hostPort port).msix = [] ∧ (t.hostPort port).pendv = [] ∧
    ∀ q, (t.queue q).en = ((s.queue q).en && decide ((s.queue q).port.toNat ≠ port))

/-- A posted record is appended to its spill ring and drawn by its rotunda, or discarded with the bits of every case that holds; its flits, and
those of the window, wait for tokens (R419); a reply is written to its ring with its tail and its vector, or waits for the next test; the
window reads and writes memory, or is refused; the registers are read and take their writes. -/
def Obligations.HostEvents : Prop :=
  (∀ (s u : State) (port q : Nat) (ide : Bool) (data : BitVec 512) (p : Phys) (e : Word) (a : Nat), s.dev.phase = 7 → s.dev.job = true →
    (s.queue q).en = true → (s.queue q).port.toNat = port → s.outsideIde port ide = false → s.hostWaits port = false →
    2 ≤ (s.hostPort port).paid + (s.hostPort port).tokens → recSvs data = false → recAf data = false →
    (s.queue q).app - (s.queue q).drawn ≠ (s.queue q).scap → (s.queue q).scap ≠ 0 → u = s.spendHost port 2 →
    u.hostLeaf ((s.queue q).sbase.toNat + 64 * ((s.queue q).app % (s.queue q).scap)) false true = some (p, e, a) →
    p.home = .dram → p.sw = false → p.pa % 64 = 0 → Calm s p.pa 64 →
    ∃ t, exec (.postingWrite port q true ide data) s = .next t ∧
      WroteBytes (u.walkMark e a .write).1 t false 0 p.pa (leBytes 64 data.toNat) ∧
      (t.queue q).app = (s.queue q).app + 1 ∧ t.dev.spills = s.dev.spills ++ [q]) ∧
  (∀ (s : State) (port q : Nat) (whole ide : Bool) (data : BitVec 512) (a b : Bool),
    (a = true ↔ s.dev.phase ≠ 7 ∨ whole = false ∨ (s.queue q).en = false ∨ s.dev.job = false) →
    (b = true ↔ (s.queue q).port.toNat ≠ port) → a = true ∨ b = true ∨ s.outsideIde port ide = true →
    ∃ t, exec (.postingWrite port q whole ide data) s = .next t ∧ t.mem = s.mem ∧ t.dev.spills = s.dev.spills ∧
      (t.hostPort port).herr = (s.hostPort port).herr ||| (if a then 1#5 else 0) ||| (if b then 2#5 else 0) |||
        (if s.outsideIde port ide then 16#5 else 0)) ∧
  (∀ (s : State) (port q : Nat) (ide : Bool) (data : BitVec 512), s.dev.phase = 7 → s.dev.job = true → (s.queue q).en = true →
    (s.queue q).port.toNat = port → s.outsideIde port ide = false → s.hostWaits port = false →
    (s.hostPort port).paid + (s.hostPort port).tokens < 2 →
    ∃ t, exec (.postingWrite port q true ide data) s = .next t ∧ t.mem = s.mem ∧ t.dev.spills = s.dev.spills ∧ t.hostPort port =
      { s.hostPort port with paid := (s.hostPort port).paid + (s.hostPort port).tokens, tokens := 0 }) ∧
  (∀ (s u : State) (q : Nat) (r x : Rec), q ∈ s.dev.spills → s.olderDraw q = false → s.headDraw q = .now u r (.queue x) →
    ∃ t y, exec (.spillDraw q) s = .next t ∧ t.mem = u.mem ∧ (t.queue q).drawn = (u.queue q).drawn + 1 ∧
      t.dev.spills = u.dev.spills.erase q ∧ y.data = x.data ∧
      Tab.get [] (t.field (s.queue q).field).queues x.queuePrio = Tab.get [] (u.field (s.queue q).field).queues x.queuePrio ++ [y]) ∧
  (∀ (s : State) (i : Nat) (r : HostReply) (e : QEnt), s.dev.hreps[i]? = some r → e = s.queue r.q →
    (e.cut = false → (BitVec.ofNat 64 e.wrote - e.rhead).toNat ≠ e.rcap → (s.hostPort e.port.toNat).masked e.vec = false →
      (r.full = false ∨ r.next ≤ s.ns) → Calm s (hostAddr e.port (e.rbase + 64 * ringSlot e.wrote e.rcap)) 64 →
      Calm s (hostAddr e.port e.rtail) 8 →
      ∃ t, exec (if r.full then .replyRingRetry i else .replyRingWrite i) s = .next t ∧ t.dev.hreps = s.dev.hreps.eraseIdx i ∧
        WroteTwo s t (hostAddr e.port (e.rbase + 64 * ringSlot e.wrote e.rcap))
          (leBytes 64 (r.data.toNat + s.ns % 2 ^ 64 * 2 ^ 256)) (hostAddr e.port e.rtail) (leBytes 8 (e.wrote + 1)) ∧
        (t.queue r.q).wrote = e.wrote + 1 ∧ (t.hostPort e.port.toNat).sentv = (s.hostPort e.port.toNat).sentv ++ [e.vec]) ∧
    ((e.cut = true ∨ (BitVec.ofNat 64 e.wrote - e.rhead).toNat = e.rcap) → (r.full = false ∨ r.next ≤ s.ns) →
      ∃ t, exec (if r.full then .replyRingRetry i else .replyRingWrite i) s = .next t ∧ t.mem = s.mem ∧
        t.dev.hreps = s.dev.hreps.set i { r with full := true, next := s.ns + 1024 })) ∧
  (∀ (s : State) (port off n : Nat) (ide : Bool), 1 ≤ n → off % 4096 + n ≤ 4096 → off < 2 ^ 36 → s.hostWaits port = false →
    s.outsideIde port ide = false → s.dev.phase = 7 → s.dev.job = false →
    (homeOf ((s.hostPort port).w2base.toNat * 2 ^ 36 + off) = some .dram →
      (flitsOf off n ≤ (s.hostPort port).paid + (s.hostPort port).tokens →
        ∃ t, exec (.bar2Read port off n ide) s = .next t ∧ t.mem = s.mem ∧
          (t.hostPort port).rdata = some (some (Memory.read s.mem ((s.hostPort port).w2base.toNat * 2 ^ 36 + off) n)) ∧
          (t.hostPort port).tokens = (s.hostPort port).tokens - (flitsOf off n - (s.hostPort port).paid)) ∧
      ((s.hostPort port).paid + (s.hostPort port).tokens < flitsOf off n →
        ∃ t, exec (.bar2Read port off n ide) s = .next t ∧ t.mem = s.mem ∧ t.hostPort port =
          { s.hostPort port with paid := (s.hostPort port).paid + (s.hostPort port).tokens, tokens := 0 })) ∧
    (homeOf ((s.hostPort port).w2base.toNat * 2 ^ 36 + off) ≠ some .dram →
      ∃ t, exec (.bar2Read port off n ide) s = .next t ∧ t.mem = s.mem ∧ (t.hostPort port).rdata = some none ∧
        (t.hostPort port).herr = (s.hostPort port).herr ||| 4#5)) ∧
  (∀ (s : State) (port off : Nat) (ide : Bool) (l : List Byte), 1 ≤ l.length → off % 4096 + l.length ≤ 4096 → off < 2 ^ 36 →
    s.hostWaits port = false → s.outsideIde port ide = false → s.dev.phase = 7 → s.dev.job = false →
    (homeOf ((s.hostPort port).w2base.toNat * 2 ^ 36 + off) = some .dram →
      Calm s ((s.hostPort port).w2base.toNat * 2 ^ 36 + off) l.length →
      flitsOf off l.length ≤ (s.hostPort port).paid + (s.hostPort port).tokens →
      ∃ t, exec (.bar2Write port off ide l) s = .next t ∧
        WroteBytes s t false 0 ((s.hostPort port).w2base.toNat * 2 ^ 36 + off) l) ∧
    (homeOf ((s.hostPort port).w2base.toNat * 2 ^ 36 + off) ≠ some .dram →
      ∃ t, exec (.bar2Write port off ide l) s = .next t ∧ t.mem = s.mem ∧
        (t.hostPort port).herr = (s.hostPort port).herr ||| 4#5)) ∧
  (∀ (s : State) (port off : Nat) (ide : Bool) (l : List Byte), 1 ≤ l.length → off % 4096 + l.length ≤ 4096 → off < 2 ^ 36 →
    s.outsideIde port ide = true →
    (∃ t, exec (.bar2Write port off ide l) s = .next t ∧ t.mem = s.mem ∧
      (t.hostPort port).herr = (s.hostPort port).herr ||| 4#5 ||| 16#5) ∧
    ∃ t, exec (.bar2Read port off l.length ide) s = .next t ∧ t.mem = s.mem ∧ (t.hostPort port).rdata = some none ∧
      (t.hostPort port).herr = (s.hostPort port).herr ||| 4#5 ||| 16#5) ∧
  (∀ (s : State) (port : Nat), s.dev.phase = 6 → s.dev.set = false →
    exec (.setWrite port) s = .next { s with dev := { s.dev with set := true, phase := 7 } }) ∧
  (∀ (s : State) (f : Nat) (v : Word), s.fqBusy f = false →
    ∃ t, exec (.fqbaseWrite f v) s = .next t ∧ (t.field f).fqbase = v &&& ~~~ 0xFFF#64 ∧
      PutBytes s t (v &&& ~~~ 0xFFF#64).toNat (leBytes 16 (2 ^ 64)) ∧ t.landed (v &&& ~~~ 0xFFF#64).toNat = {}) ∧
  (∀ (s : State) (log : Bool) (v : Word), ∃ t, exec (.watchConfigWrite log v) s = .next t ∧ t.mem = s.mem ∧
    t.dev = (if log then { s.dev with wlog := min (bits v 0 5) 16 } else { s.dev with wtbase := v &&& ~~~ 0xFFF#64 }) ∧
    ∀ i, ∀ e ∈ (t.tile i).mcache, e.stale = true) ∧
  (∀ (s : State) (port : Nat) (ide : Bool) (v : Word),
    ∃ t, exec (.registerWrite (some (port, ide)) 0x18 (some v)) s = .next t ∧ t.mem = s.mem ∧
      if s.outsideIde port ide then (t.hostPort port).herr = (s.hostPort port).herr ||| 4#5 ||| 16#5
      else t.hostPort port = { s.hostPort port with w2base := v.extractLsb' 36 16 }) ∧
  (∀ (s : State) (f : Nat) (v : Word), f < 16 →
    ∃ t, exec (.registerWrite none (65536 * f + 0x60) (some v)) s = .next t ∧ t.mem = s.mem ∧
      t.field f = { s.field f with plim := max 1000 (min 16000 (v.extractLsb' 0 16).toNat) }) ∧
  (∀ (s : State) (port : Nat) (ide : Bool),
    ∃ t, exec (.registerWrite (some (port, ide)) 0x28 none) s = .next t ∧ t.mem = s.mem ∧
      (s.outsideIde port ide = false →
        (t.hostPort port).rdata = some (some (leBytes 8 (s.dev.devnum + if s.dev.set then 2 ^ 63 else 0)))) ∧
      (s.outsideIde port ide = true → (t.hostPort port).rdata = some none ∧
        (t.hostPort port).herr = (s.hostPort port).herr ||| 4#5 ||| 16#5)) ∧
  ∀ (s : State) (port : Nat) (k : Option (BitVec 256)),
    (∃ t, exec (.spdmRequest port { sel := true, key := k }) s = .next t ∧ t.mem = s.mem ∧
      t.hostPort port = { s.hostPort port with selIde := k }) ∧
    ∃ t, exec (.spdmRequest port { sel := false, key := k }) s = .next t ∧ t.mem = s.mem ∧
      t.hostPort port = { s.hostPort port with linkIde := k }

/-- Verifying an image answers 9, 1 or 0, measures what it verified and writes its handler entries where there is a table; a report makes
a fresh key, and one that is written answers 0 (log 37: the model's reading); a job starts with its tables, but for a first image that is
not aligned, and ends once its units are halted and its transfers have ended, with nothing of it left; a planned retirement halts its
block, and once that stands gives the name of the site to the first spare, while a site without a name is only marked; a failed one does
so at once, and the unit's state is gone: a core's threads have ended, a tile's cores are faulted and its memory is as an unwritten one.
-/
def Obligations.BelvedereEvents : Prop :=
  (∀ (s : State) (c : BCmd) (p : Phys) (a : Nat), s.headCmd 2 = some c → c.at_ = some p → p.home = .dram → p.sw = false →
    (p.hash = true → p.pa % 64 = 0) → a = memNat s.mem p.pa 8 → Calm s (p.plus 56).pa 2 →
    (a % 4096 ≠ 0 → ∃ t, exec .verifyImage s = .next t ∧ WroteBytes s t false 0 (p.plus 56).pa (leBytes 2 9) ∧
      t.dev.mimg = s.dev.mimg ∧ t.dev.bq = s.dev.bq.drop 1) ∧
    (a % 4096 = 0 → s.dev.imgs < 256 → s.verified false a s.dev.signer = none →
      ∃ t, exec .verifyImage s = .next t ∧ WroteBytes s t false 0 (p.plus 56).pa (leBytes 2 1) ∧
        t.dev.mimg = s.dev.mimg ∧ t.dev.bq = s.dev.bq.drop 1) ∧
    ∀ body digest frames, a % 4096 = 0 → s.dev.imgs < 256 → s.verified false a s.dev.signer = some (body, digest, frames) →
      ∃ t, exec .verifyImage s = .next t ∧ (s.dev.htbase = 0 → WroteBytes s t false 0 (p.plus 56).pa (leBytes 2 0)) ∧
        (Calm s s.dev.htbase.toNat (2 ^ 21) → ∀ x, (x < (p.plus 56).pa ∨ (p.plus 56).pa + 2 ≤ x) →
          (x < s.dev.htbase.toNat ∨ s.dev.htbase.toNat + 2 ^ 21 ≤ x) → Memory.byte t.mem x = Memory.byte s.mem x) ∧
        t.dev.mimg = extendHash s.dev.mimg digest ∧ t.dev.imgs = s.dev.imgs + 1 ∧ t.dev.bq = s.dev.bq.drop 1) ∧
  (∀ (s : State) (c : BCmd) (q : Nat) (nonce : List Byte), s.headCmd 3 = some c → c.at_ = none → c.host = some q →
    (∀ k, k < 8 → Tab.get 0 (s.hostPort q).req (0x20 + k) = 0) →
    nonce = (List.range 32).map (fun k => Tab.get 0 (s.hostPort q).req k) →
    ∃ t, exec .attestationReport s = .next t ∧ t.mem = s.mem ∧ t.dev.ephem = some (Config.ephemeralPrivate s.fresh) ∧
      t.dev.report = s.reportHead nonce (Config.ephemeralPrivate s.fresh) ∧ t.dev.bq = s.dev.bq.drop 1 ∧
      (∀ k b, (signedReport t.dev.report)[k]? = some b → Tab.get 0 (t.hostPort q).req (0x40 + k) = b) ∧
      Tab.get 0 (t.hostPort q).req 0x38 = 0 ∧ Tab.get 0 (t.hostPort q).req 0x39 = 0) ∧
  (∀ (s : State) (c : BCmd) (q : Nat) (l : List Byte), s.headCmd 4 = some c → c.at_ = none → c.host = some q →
    l = (List.range 256).map (fun k => Tab.get 0 (s.hostPort q).req k) →
    (s.dev.job = true → ∃ t, exec .jobStart s = .next t ∧ t.mem = s.mem ∧ t.dev.bq = s.dev.bq.drop 1 ∧
      Tab.get 0 (t.hostPort q).req 0xF8 = 4 ∧ Tab.get 0 (t.hostPort q).req 0xF9 = 0) ∧
    (s.dev.job = false → leAt l 0x58 8 < 2 → (∀ b ∈ (l.drop 57).take 7, b = 0) → leAt l 0x50 8 % 4096 ≠ 0 →
      ∃ t, exec .jobStart s = .next t ∧ t.mem = s.mem ∧ t.dev.job = false ∧ t.dev.bq = s.dev.bq.drop 1 ∧
        Tab.get 0 (t.hostPort q).req 0xF8 = 1) ∧
    ∀ body digest frames, s.dev.job = false → leAt l 0x58 8 = 0 → (∀ b ∈ (l.drop 57).take 7, b = 0) → leAt l 0x50 8 % 4096 = 0 →
      s.verified true (leAt l 0x50 8) (l.take 57) = some (body, digest, frames) →
      ∃ t, exec .jobStart s = .next t ∧ t.dev.bq = s.dev.bq.drop 1 ∧ t.dev.job = true ∧ t.dev.sealed = false ∧
        t.dev.signer = l.take 57 ∧ t.dev.ptroot = BitVec.ofNat 64 (leAt l 0x40 8) ∧ t.dev.mimg = extendHash s.dev.mimg digest ∧
        Tab.get 0 (t.hostPort q).req 0xF8 = 0) ∧
  (∀ (s : State) (c : BCmd), s.headCmd 5 = some c →
    (s.unitsLeft = true → ∃ t, exec .jobEnd s = .next t ∧ t.mem = s.mem ∧ t.threads = [] ∧ t.tcores = [] ∧ t.dev.graphs = [] ∧
      t.dev.xfers = s.dev.xfers ∧ t.dev.locks = s.dev.locks ∧ t.dev.bq = s.dev.bq ∧ t.dev.job = s.dev.job) ∧
    (s.unitsLeft = false → s.xfersGo = true → exec .jobEnd s = .next s) ∧
    (s.unitsLeft = false → s.xfersGo = false → c.at_ = none →
      ∃ t, exec .jobEnd s = .next t ∧ t.threads = [] ∧ t.dev.job = false ∧ t.dev.sealed = false ∧ t.dev.jobKey = none ∧
        t.dev.marKey = none ∧ t.dev.mimg = 0 ∧ t.dev.images = [] ∧ t.dev.ptroot = 0 ∧ t.dev.bq = s.dev.bq.drop 1 ∧ t.dev.xfers = [] ∧
        (∀ f, f < 16 → (t.field f).plim = 0) ∧ (∀ q, (t.hostPort q).w2base = 0 ∧ (t.hostPort q).herr = 0) ∧
        ∀ a, 0x800000000000 ≤ a → a < 0xA00000000000 → Memory.byte t.mem a = Memory.byte s.mem a)) ∧
  (∀ (s : State) (b n p : Nat) (core : Bool), s.freeSite b core n = none → s.nameExists b core n = true →
    ((s.blk b).retire core (((s.blk b).sites core).getD n 255) false).spare core = some p →
    ((s.blk b).moving = none →
      ∃ t, exec (.plannedRetirement b core n) s = .next t ∧ t.mem = s.mem ∧ t.blk b = { s.blk b with moving := some (core, n) }) ∧
    ((s.blk b).moving = some (core, n) → s.blockStands b = false → exec (.plannedRetirement b core n) s = .next s) ∧
    ((s.blk b).moving = some (core, n) → s.blockStands b = true →
      ∃ t, ∃ r : FRec, exec (.plannedRetirement b core n) s = .next t ∧ t.mem = s.mem ∧ (t.blk b).moving = none ∧
        ((t.blk b).sites core).getD n 255 = p ∧ (t.blk b).retired core (((s.blk b).sites core).getD n 255) = true ∧
        r ∈ (t.field (b / 8)).recs ∧ r.aux = BitVec.ofNat 64 p ∧ r.pos = BitVec.ofNat 64 (((s.blk b).sites core).getD n 255) ∧
        (s.dev.graphs = [] → (t.blk b).sites core = ((s.blk b).sites core).set n p ∧ (t.blk b).bgen = (s.blk b).bgen + 1 ∧
          (t.field (b / 8)).recs = (s.field (b / 8)).recs ++ [r]))) ∧
  (∀ (s : State) (b n p : Nat) (core : Bool), s.freeSite b core n = some p → (s.blk b).moving = none →
    ∃ t, exec (.plannedRetirement b core n) s = .next t ∧ t.mem = s.mem ∧ (t.blk b).sites core = (s.blk b).sites core ∧
      (t.blk b).retired core p = true) ∧
  (∀ (s : State) (b n p : Nat) (core dead : Bool), s.freeSite b core n = some p → (s.blk b).moving = none →
    ∃ t, exec (.failedRetirement b core n dead) s = .next t ∧ (t.blk b).sites core = (s.blk b).sites core ∧
      (t.blk b).retired core p = true) ∧
  (∀ (s : State) (b n p : Nat) (dead : Bool), s.freeSite b true n = none → s.nameExists b true n = true → (s.blk b).moving = none →
    ((s.blk b).retire true (((s.blk b).sites true).getD n 255) dead).spare true = some p →
    ∃ t, exec (.failedRetirement b true n dead) s = .next t ∧ t.mem = s.mem ∧ ((t.blk b).sites true).getD n 255 = p ∧
      (t.blk b).retired true (((s.blk b).sites true).getD n 255) = true ∧
      ∀ i, i < 8 → (t.thread (8 * (16 * b + n) + i)).run = .free) ∧
  ∀ (s : State) (b n p : Nat), s.freeSite b false n = none → s.nameExists b false n = true → (s.blk b).moving = none →
    ((s.blk b).retire false (((s.blk b).sites false).getD n 255) false).spare false = some p →
    ∃ t, exec (.failedRetirement b false n false) s = .next t ∧ (t.blk b).tsite.getD n 255 = p ∧
      (t.blk b).tret.getLsbD (((s.blk b).sites false).getD n 255) = true ∧
      (∀ i, i < 4 → t.tcore (4 * (32 * b + n) + i) = { run := .faulted cECC }) ∧
      (∀ a, Memory.byte t.mem a =
        if sramAddr (32 * b + n) 0 ≤ a ∧ a < sramAddr (32 * b + n) 0 + 2 ^ 20 then Memory.byte [] a else Memory.byte s.mem a) ∧
      (s.dev.graphs = [] → (t.blk b).tsite = (s.blk b).tsite.set n p)

namespace Sys2Proof.Claims

open Sys2Proof.Machine

/-- Slot A of a bundle, and slot B where there is one, answer `u`; slot B sees the registers as they stood before the bundle, and a
scalar register that it writes is no longer the target of slot A's later result (the model's reading, log 43). A bundle that asks an engine
of its block passes the unit's place `rank` in the order of block `b` (log 114). -/
def BundleRuns (s : State) (b rank : Nat) (w : Word) (bu : Bundle) (u : State) : Prop :=
  ∃ v0 v, exec (State.resolve { s with iss := { word := w, la := bu.la } } bu.a) { s with iss := { word := w, la := bu.la } } = .next v0 ∧
    v0.iss.fate = .issued ∧ v = (if Instr.asks bu.a then v0.stampTurn b (rank + 1) else v0) ∧
    match bu.b with
    | none => u = v
    | some b => ∃ x, exec b { v with iss := { v.iss with view := some s.ctx } } = .next x ∧
      u = (if scalarB s.ctx (some b) = 0 then x else x.dropDest (scalarB s.ctx (some b)) s.ctx.pend.length) ∧ u.iss.fate = .issued

/-- The registers after the turn: those of `c`, with the pc at the bundle's target or behind the bundle, in the 52
bits that a pc has (R13), and the `n` windows that were open
before it one bundle shorter (R72, R108). -/
def TurnEnds (c d : Ctx) (n : Nat) (npc : Option Word) : Prop :=
  d.s = c.s ∧ d.v = c.v ∧ d.p = c.p ∧ d.vrm = c.vrm ∧ d.vflags = c.vflags ∧ d.pc = npc.getD (c.pc + 8) &&& 0xFFFFFFFFFFFF8#64 ∧
    d.pend = (c.pend.take n).map (fun p => { p with left := p.left - 1 }) ++ c.pend.drop n

/-- A place in the order of block `b`'s present cycle has not been passed (log 114). -/
def NotPassed (s : State) (b rank : Nat) : Prop := (s.blk b).turn.1 = (s.blk b).cyc → (s.blk b).turn.2 ≤ rank

/-- A move that lets no time pass stands at the head of the agenda, in a part whose units have power. -/
def NextMove (s : State) (a : Act) (l : List Move) : Prop :=
  s.agenda = { ns := 0, cycs := [], act := a } :: l ∧ s.dev.phase ≠ 0xE ∧ s.dev.phase ≠ 0xF

end Sys2Proof.Claims

/-! ## The whole machine -/

/-- The machine after reset: bring-up in phase 0 (log 130), no job, no thread, empty queues, and the registers at the values of R305, R381,
R402, R403, R418 and R422, the route table among them; the bytes of memory that nothing has written read as 0, which is the model's choice
(log 1). -/
def Obligations.ResetMachine : Prop :=
  State.reset.dev.phase = 0 ∧ State.reset.dev.set = false ∧ State.reset.dev.devnum = 0 ∧
    (∀ d, Tab.get 0 State.reset.dev.routes d = 0) ∧ State.reset.dev.job = false ∧ State.reset.dev.sealed = false ∧
    State.reset.dev.tvec = 0 ∧ State.reset.dev.ptroot = 0 ∧ State.reset.dev.wtbase = 0 ∧ State.reset.dev.wlog = 0 ∧
    State.reset.dev.htbase = 0 ∧ State.reset.dev.bq = [] ∧
    (∀ g, (State.reset.thread g).run = .free) ∧ (∀ k, (State.reset.tcore k).run = .idle) ∧
    (∀ f, (State.reset.field f).fqbase = 0 ∧ (State.reset.field f).fqsize = 0 ∧ (State.reset.field f).fpbase = 0 ∧
      (State.reset.field f).fpcount = 0 ∧ (State.reset.field f).plim = 16000 ∧
      (State.reset.field f).temp = 0 ∧ (State.reset.field f).fpwr = 0 ∧
      (State.reset.field f).bkmem = { depth := 256, eff := 256, cap := 0 } ∧
      (State.reset.field f).bkesc = { depth := 256, eff := 256, cap := 0 }) ∧
    State.reset.dev.bklink = { depth := 256, eff := 256, cap := 0 } ∧ State.reset.dev.bkhost = { depth := 256, eff := 256, cap := 0 } ∧
    State.reset.dev.mpwr = 0 ∧
    (∀ q, (State.reset.queue q).en = false) ∧ (∀ p, (State.reset.hostPort p).w2base = 0 ∧ (State.reset.hostPort p).herr = 0) ∧
    ∀ a, Memory.byte State.reset.mem a = 0

/-- The memory of the machine after reset has the canonical form. -/
def Obligations.MemoryCanonicalAtReset : Prop :=
  Memory.wf State.reset.mem = true ∧ ∀ n w, Memory.wf (State.reset.withFetchWord n w).mem = true

/-- Every step keeps the canonical form of memory: strictly rising addresses, and no byte listed that an unlisted address would read as. -/
def Obligations.MemoryCanonicalUnderStep : Prop :=
  ∀ s t : State, Memory.wf s.mem = true → step s = .next t → Memory.wf t.mem = true

/-- Every instruction, in every state, answers a next state: there is no instruction on which a run stops. -/
def Obligations.NoStepStops : Prop :=
  (∀ (i : Instr) (s : State), ∃ t, exec i s = .next t) ∧ ∀ s : State, ∃ t, step s = .next t

/-- Decoding the words of a well-formed instruction gives the instruction, every operand as it was, alone and in a bundle with any
lookahead; the three forms of preempt share one word (R222), which decodes to the first of them. -/
def Obligations.DecodeOfEncode : Prop :=
  ∀ (i : Instr) (e : Enc), i.wf = true → encode i = some e →
    decodeEnc e = .ok i.asDecoded ∧
    ∀ la, la < 16 → ∃ bu, decode (e.bundle la) = .ok bu ∧ bu.la = la ∧
      match e with
      | .a _ none => bu.a = i.asDecoded ∧ bu.b = some .vnop
      | .a _ (some _) => bu.a = i.asDecoded ∧ bu.b = none
      | .b _ => bu.a = .or 0 0 0 ∧ bu.b = some i.asDecoded

/-- A word that decodes to an instruction is the only word of it, and the instruction is well formed: no two words mean the same, and no
bit of a word is ignored. -/
def Obligations.WordsHaveOneMeaning : Prop :=
  (∀ (w : SlotWord) (x : Option SlotWord) (i : Instr), decodeA w x = .ok i → i.wf = true ∧ encode i = some (.a w x)) ∧
    ∀ (w : SlotWord) (i : Instr), decodeB w = .ok i → i.wf = true ∧ encode i = some (.b w)

/-- Words of the spec's worked examples decode to the instructions that the spec writes beside them. -/
def Obligations.DecodeWords : Prop :=
  decodeA 0x16184001#29 none = .ok (.xfer 12 1 1) ∧ decodeA 0x18020003#29 none = .ok (.srecv 1 3) ∧
    decodeA 0x19980003#29 none = .ok (.speek 12 3) ∧ decodeA 0x1A061600#29 none = .ok (.rqpush 3 1 12) ∧
    decodeA 0x1A581000#29 none = .ok (.esc 12 1 0) ∧ decodeA 0x1AC00000#29 none = .ok .mgPp ∧
    decodeA 0x109CC682#29 none = .ok (.amoCas 14 12 13 false) ∧
    decode 0x0770002EC0000009#64 = .ok { la := 0, a := .mdset (.ext 0x9176#41), b := none }

/-- A step runs the bundle that it fetches: when a thread or a compute core has the turn, runs, and has no result to commit and no event due,
and its block does not stand still for a retirement, the step is its fetched and decoded bundle, slot A and then slot B, and moves the pc on;
a bundle that asks an engine of its block does so in its place in the order of the block cycle (log 114). The bundle of a thread comes from
memory at the translation of its pc. An event of the agenda is run as it stands, in its place in the order of its block cycle where it has
one; one that a running thread takes in its turn is the thread's turn (R304). What the cycles that ended tell other devices about sync words
goes out behind it. -/
def Obligations.StepRunsTheBundle : Prop :=
  (∀ (s s1 s2 u : State) (l : List Move) (g : Nat) (w : Word) (bu : Bundle), NextMove s (.issue (.thread g)) l →
    (s.blk (unitBlk g)).power = .on → (s.blk (unitBlk g)).cyc % 8 = g % 8 → (s.thread g).nextCyc ≤ (s.blk (unitBlk g)).cyc →
    (s.blk (unitBlk g)).moving = none → s.escStops g = false →
    (s.thread g).run = .run → (∀ k, s.taskOf g = some k → k.hit = false) → (s.thread g).ctx.expired = [] →
    (s.thread g).verdict = none → (s.thread g).eventDue = false → (∀ p ∈ (s.thread g).ctx.pend, p.fly ≠ .preempt) →
    s1 = State.retried { s with agenda := l, cur := .thread g, iss := {} } g → s1.fetch = .got w s2 → decode w = .ok bu →
    (Instr.asks bu.a = true → NotPassed s2 (g / 128) (257 + 2 * (g % 128))) → BundleRuns s2 (g / 128) (257 + 2 * (g % 128)) w bu u →
    u.cur = .thread g → (u.thread g).run ≠ .free →
    ∃ t, step s = .next t ∧ t.mem = u.mem ∧ t.ns = u.ns ∧ t.iss = {} ∧ (t.thread g).run = (u.thread g).run ∧
      (t.thread g).nextCyc = (u.blk (unitBlk g)).cyc + 1 ∧
      TurnEnds (u.thread g).ctx (t.thread g).ctx s2.ctx.pend.length u.iss.npc ∧ ∀ h, h ≠ g → t.thread h = u.thread h) ∧
  (∀ (s s1 s2 u : State) (l : List Move) (k : Nat) (w : Word) (bu : Bundle), NextMove s (.issue (.core k)) l →
    (s.blk (unitBlk k)).power = .on → (s.tcore k).nextCyc ≤ (s.blk (unitBlk k)).cyc →
    s.coreStands k = false → (s.tcore k).run = .run →
    (s.tcore k).halted = false → (s.tcore k).due = [] → (s.tcore k).ctx.expired = [] →
    s1 = { s with agenda := l, cur := .core k, iss := {} } → s1.fetch = .got w s2 → decode w = .ok bu →
    (Instr.asks bu.a = true → NotPassed s2 (k / 128) (2 * (k % 128) + 1)) → BundleRuns s2 (k / 128) (2 * (k % 128) + 1) w bu u →
    u.cur = .core k →
    ∃ t, step s = .next t ∧ t.mem = u.mem ∧ t.ns = u.ns ∧ t.iss = {} ∧ (t.tcore k).run = (u.tcore k).run ∧
      (t.tcore k).nextCyc = (u.blk (unitBlk k)).cyc + 2 ∧
      TurnEnds (u.tcore k).ctx (t.tcore k).ctx s2.ctx.pend.length u.iss.npc ∧ ∀ h, h ≠ k → t.tcore h = u.tcore h) ∧
  (∀ (s : State) (g : Nat) (p : Phys), s.cur = .thread g → (s.thread g).ctx.pc.toNat < 2 ^ 52 → (s.thread g).ctx.pc.toNat % 8 = 0 →
    s.xlThread g (s.thread g).ctx.pc.toNat { rd := false, wr := false, ex := true, sv := (s.thread g).sv } = .ok p →
    p.home = .dram → p.pa % 64 = (s.thread g).ctx.pc.toNat % 64 → (s.core (threadCore g)).ilines = [] →
    ∃ t, s.fetch = .got (BitVec.ofNat 64 (memNat s.mem p.pa 8)) t ∧ t.mem = s.mem ∧ t.threads = s.threads) ∧
  (∀ (s : State) (i : Instr) (l : List Move) (g : Nat), NextMove s (.event i) l → State.inTurn { s with agenda := l } i = some g →
    step s = step { s with agenda := { ns := 0, cycs := [], act := .issue (.thread g) } :: l }) ∧
  ∀ (s : State) (i : Instr) (l : List Move), NextMove s (.event i) l → State.inTurn { s with agenda := l } i = none →
    isEvent i = true → State.powered { s with agenda := l } i = true →
    State.standing { s with agenda := l } i = false →
    (State.eventRank { s with agenda := l } i = none →
      ∃ u, exec i { s with agenda := l } = .next u ∧ step s = .next u.flushed) ∧
    ∀ b rank, State.eventRank { s with agenda := l } i = some (b, rank) → NotPassed s b rank →
      ∃ u, exec i (State.stampTurn { s with agenda := l } b rank) = .next u ∧ step s = .next u.flushed
end

