-- ==== Sys2Proof/Laws/Tab.lean ====
section
/-!
SUPPORT. The laws of sparse tables: a read after a write, and that writing keeps the canonical form.
-/
namespace Sys2Proof.Machine

variable {α : Type} [DecidableEq α] {d : α}

/-- A key below every listed key reads as the default. -/
theorem Tab.get_of_lt : ∀ {t : Tab α} {lo k : Nat}, Tab.wfFrom d lo t = true → k < lo → Tab.get d t k = d
  | [], _, _, _, _ => rfl
  | (i, x) :: t, lo, k, h, hk => by
    simp only [Tab.wfFrom, Bool.and_eq_true, decide_eq_true_eq] at h
    have hne : i ≠ k := by omega
    simp only [Tab.get, hne, if_false]
    exact Tab.get_of_lt h.2 (by omega)

/-- Lowering the bound keeps the canonical form. -/
theorem Tab.wfFrom_mono : ∀ {t : Tab α} {lo lo' : Nat}, lo' ≤ lo → Tab.wfFrom d lo t = true → Tab.wfFrom d lo' t = true
  | [], _, _, _, _ => rfl
  | (i, x) :: t, lo, lo', hl, h => by
    simp only [Tab.wfFrom, Bool.and_eq_true, decide_eq_true_eq] at h ⊢
    exact ⟨⟨by omega, h.1.2⟩, h.2⟩

/-- A key that was taken out reads as the default. -/
@[simp] theorem Tab.get_without_same : ∀ (t : Tab α) (k : Nat), Tab.get d (Tab.without t k) k = d
  | [], _ => rfl
  | (i, x) :: t, k => by
    simp only [Tab.without]
    split
    · exact Tab.get_without_same t k
    · rename_i h
      simp only [Tab.get, h, if_false]
      exact Tab.get_without_same t k

/-- Other keys read as before. -/
theorem Tab.get_without_other : ∀ (t : Tab α) (k j : Nat), j ≠ k → Tab.get d (Tab.without t k) j = Tab.get d t j
  | [], _, _, _ => rfl
  | (i, x) :: t, k, j, hj => by
    simp only [Tab.without]
    split
    · rename_i h
      simp only [Tab.get, show i ≠ j by omega, if_false]
      exact Tab.get_without_other t k j hj
    · simp only [Tab.get]
      split
      · rfl
      · exact Tab.get_without_other t k j hj

/-- Taking a key out of a table that does not list it changes nothing. -/
theorem Tab.without_of_wfFrom : ∀ {t : Tab α} {lo k : Nat}, Tab.wfFrom d lo t = true → k < lo → Tab.without t k = t
  | [], _, _, _, _ => rfl
  | (i, x) :: t, lo, k, h, hk => by
    simp only [Tab.wfFrom, Bool.and_eq_true, decide_eq_true_eq] at h
    simp only [Tab.without, show i ≠ k by omega, if_false]
    rw [Tab.without_of_wfFrom h.2 (by omega)]

/-- A read of the key just written gives the value written. -/
@[simp] theorem Tab.get_set_same : ∀ (t : Tab α) (k : Nat) (x : α), Tab.get d (Tab.set d t k x) k = x
  | [], k, x => by
    by_cases hx : x = d <;> simp [Tab.set, Tab.get, hx]
  | (i, y) :: t, k, x => by
    unfold Tab.set
    split
    · split
      · rename_i hx
        rw [hx, Tab.get_without_same]
      · simp [Tab.get]
    · split
      · split
        · rename_i hx
          rw [hx, Tab.get_without_same]
        · simp [Tab.get]
      · rename_i hik
        simp only [Tab.get, hik, if_false]
        exact Tab.get_set_same t k x

/-- A read of another key is unchanged by a write. -/
theorem Tab.get_set_other : ∀ (t : Tab α) (k j : Nat) (x : α), j ≠ k →
    Tab.get d (Tab.set d t k x) j = Tab.get d t j
  | [], k, j, x, hj => by
    by_cases hx : x = d <;> simp [Tab.set, Tab.get, hx, Ne.symm hj]
  | (i, y) :: t, k, j, x, hj => by
    unfold Tab.set
    split
    · split
      · exact Tab.get_without_other _ k j hj
      · simp [Tab.get, Ne.symm hj]
    · split
      · rename_i hik
        split
        · rw [Tab.get_without_other _ k j hj]
          simp [Tab.get, show i ≠ j by omega]
        · simp [Tab.get, hik, Ne.symm hj]
      · simp only [Tab.get]
        split
        · rfl
        · exact Tab.get_set_other t k j x hj

/-- A read after a write, for any pair of keys. -/
theorem Tab.get_set (t : Tab α) (k j : Nat) (x : α) :
    Tab.get d (Tab.set d t k x) j = if j = k then x else Tab.get d t j := by
  split
  · rename_i h
    rw [h, Tab.get_set_same]
  · rename_i h
    exact Tab.get_set_other t k j x h

/-- Writing keeps the canonical form. -/
theorem Tab.wfFrom_set : ∀ {t : Tab α} {lo : Nat} (k : Nat) (x : α), lo ≤ k → Tab.wfFrom d lo t = true →
    Tab.wfFrom d lo (Tab.set d t k x) = true
  | [], _, k, x, hk, _ => by
    by_cases hx : x = d <;> simp [Tab.set, Tab.wfFrom, hx, hk]
  | (i, y) :: t, lo, k, x, hk, h => by
    simp only [Tab.wfFrom, Bool.and_eq_true, decide_eq_true_eq] at h
    unfold Tab.set
    split
    · split
      · rename_i hlt hx
        rw [Tab.without_of_wfFrom (d := d) (lo := i)]
        · simp [Tab.wfFrom, h]
        · simp [Tab.wfFrom, h]
        · exact hlt
      · rename_i hlt hx
        simp only [Tab.wfFrom, Bool.and_eq_true, decide_eq_true_eq]
        exact ⟨⟨hk, hx⟩, ⟨by omega, h.1.2⟩, h.2⟩
    · split
      · split
        · rw [Tab.without_of_wfFrom h.2 (by omega)]
          exact Tab.wfFrom_mono (by omega) h.2
        · rename_i _ hik hx
          simp only [Tab.wfFrom, Bool.and_eq_true, decide_eq_true_eq]
          exact ⟨⟨hk, hx⟩, hik ▸ h.2⟩
      · simp only [Tab.wfFrom, Bool.and_eq_true, decide_eq_true_eq]
        exact ⟨h.1, Tab.wfFrom_set k x (by omega) h.2⟩

/-- Writing keeps the canonical form of a whole table. -/
theorem Tab.wf_set {t : Tab α} (k : Nat) (x : α) (h : Tab.wf d t = true) : Tab.wf d (Tab.set d t k x) = true :=
  Tab.wfFrom_set k x (Nat.zero_le k) h

/-- Taking a key out keeps the canonical form. -/
theorem Tab.wfFrom_without : ∀ {t : Tab α} {lo : Nat} (k : Nat), Tab.wfFrom d lo t = true →
    Tab.wfFrom d lo (Tab.without t k) = true
  | [], _, _, _ => rfl
  | (i, x) :: t, lo, k, h => by
    simp only [Tab.wfFrom, Bool.and_eq_true, decide_eq_true_eq] at h
    simp only [Tab.without]
    split
    · exact Tab.wfFrom_mono (by omega) (Tab.wfFrom_without k h.2)
    · simp only [Tab.wfFrom, Bool.and_eq_true, decide_eq_true_eq]
      exact ⟨h.1, Tab.wfFrom_without k h.2⟩

/-- Mapping the values keeps the canonical form. -/
theorem Tab.wfFrom_mapVals (f : Nat → α → α) : ∀ {t : Tab α} {lo : Nat}, Tab.wfFrom d lo t = true →
    Tab.wfFrom d lo (Tab.mapVals d f t) = true
  | [], _, _ => rfl
  | (i, x) :: t, lo, h => by
    simp only [Tab.wfFrom, Bool.and_eq_true, decide_eq_true_eq] at h
    simp only [Tab.mapVals]
    split
    · exact Tab.wfFrom_without i (Tab.wfFrom_mono (by omega) (Tab.wfFrom_mapVals f h.2))
    · rename_i hy
      simp only [Tab.wfFrom, Bool.and_eq_true, decide_eq_true_eq]
      exact ⟨⟨h.1.1, hy⟩, Tab.wfFrom_mapVals f h.2⟩

/-- A read of a mapped table, for a function that leaves the default alone. -/
theorem Tab.get_mapVals (f : Nat → α → α) (hf : ∀ k, f k d = d) : ∀ (t : Tab α) (k : Nat),
    Tab.get d (Tab.mapVals d f t) k = f k (Tab.get d t k)
  | [], k => (hf k).symm
  | (i, x) :: t, k => by
    simp only [Tab.mapVals]
    by_cases hi : i = k
    · subst hi
      split
      · rename_i hy
        rw [Tab.get_without_same, Tab.get, if_pos rfl, hy]
      · simp [Tab.get]
    · have hk : k ≠ i := fun h => hi h.symm
      split
      · rw [Tab.get_without_other _ _ _ hk, Tab.get_mapVals f hf t k]
        simp [Tab.get, hi]
      · simp only [Tab.get, if_neg hi]
        exact Tab.get_mapVals f hf t k

end Sys2Proof.Machine
end

