-- ==== Sys2Proof/Laws/State.lean ====
section
/-!
SUPPORT. What each update of State leaves, field by field, so that no later proof unfolds a record update; and what each table's
accessor reads after it.
-/
namespace Sys2Proof.Machine

variable (s : State)

/-! ## threads -/

@[simp] theorem State.setThread_mem (g : Nat) (t : Thread) : (s.setThread g t).mem = s.mem := rfl
@[simp] theorem State.modThread_mem (g : Nat) (h : Thread → Thread) : (s.modThread g h).mem = s.mem := rfl
@[simp] theorem State.setThread_tcores (g : Nat) (t : Thread) : (s.setThread g t).tcores = s.tcores := rfl
@[simp] theorem State.modThread_tcores (g : Nat) (h : Thread → Thread) : (s.modThread g h).tcores = s.tcores := rfl
@[simp] theorem State.setThread_tiles (g : Nat) (t : Thread) : (s.setThread g t).tiles = s.tiles := rfl
@[simp] theorem State.modThread_tiles (g : Nat) (h : Thread → Thread) : (s.modThread g h).tiles = s.tiles := rfl
@[simp] theorem State.setThread_cores (g : Nat) (t : Thread) : (s.setThread g t).cores = s.cores := rfl
@[simp] theorem State.modThread_cores (g : Nat) (h : Thread → Thread) : (s.modThread g h).cores = s.cores := rfl
@[simp] theorem State.setThread_blks (g : Nat) (t : Thread) : (s.setThread g t).blks = s.blks := rfl
@[simp] theorem State.modThread_blks (g : Nat) (h : Thread → Thread) : (s.modThread g h).blks = s.blks := rfl
@[simp] theorem State.setThread_fields (g : Nat) (t : Thread) : (s.setThread g t).fields = s.fields := rfl
@[simp] theorem State.modThread_fields (g : Nat) (h : Thread → Thread) : (s.modThread g h).fields = s.fields := rfl
@[simp] theorem State.setThread_mesh (g : Nat) (t : Thread) : (s.setThread g t).mesh = s.mesh := rfl
@[simp] theorem State.modThread_mesh (g : Nat) (h : Thread → Thread) : (s.modThread g h).mesh = s.mesh := rfl
@[simp] theorem State.setThread_dev (g : Nat) (t : Thread) : (s.setThread g t).dev = s.dev := rfl
@[simp] theorem State.modThread_dev (g : Nat) (h : Thread → Thread) : (s.modThread g h).dev = s.dev := rfl
@[simp] theorem State.setThread_ns (g : Nat) (t : Thread) : (s.setThread g t).ns = s.ns := rfl
@[simp] theorem State.modThread_ns (g : Nat) (h : Thread → Thread) : (s.modThread g h).ns = s.ns := rfl
@[simp] theorem State.setThread_cur (g : Nat) (t : Thread) : (s.setThread g t).cur = s.cur := rfl
@[simp] theorem State.modThread_cur (g : Nat) (h : Thread → Thread) : (s.modThread g h).cur = s.cur := rfl
@[simp] theorem State.setThread_iss (g : Nat) (t : Thread) : (s.setThread g t).iss = s.iss := rfl
@[simp] theorem State.modThread_iss (g : Nat) (h : Thread → Thread) : (s.modThread g h).iss = s.iss := rfl
@[simp] theorem State.setThread_agenda (g : Nat) (t : Thread) : (s.setThread g t).agenda = s.agenda := rfl
@[simp] theorem State.modThread_agenda (g : Nat) (h : Thread → Thread) : (s.modThread g h).agenda = s.agenda := rfl
@[simp] theorem State.setThread_tick (g : Nat) (t : Thread) : (s.setThread g t).tick = s.tick := rfl
@[simp] theorem State.modThread_tick (g : Nat) (h : Thread → Thread) : (s.modThread g h).tick = s.tick := rfl
@[simp] theorem State.setThread_fresh (g : Nat) (t : Thread) : (s.setThread g t).fresh = s.fresh := rfl
@[simp] theorem State.modThread_fresh (g : Nat) (h : Thread → Thread) : (s.modThread g h).fresh = s.fresh := rfl
@[simp] theorem State.setThread_same (g : Nat) (t : Thread) : (s.setThread g t).thread g = t :=
  Tab.get_set_same _ _ _
theorem State.setThread_other (g j : Nat) (t : Thread) (h : j ≠ g) : (s.setThread g t).thread j = s.thread j :=
  Tab.get_set_other _ _ _ _ h
@[simp] theorem State.modThread_same (g : Nat) (h : Thread → Thread) : (s.modThread g h).thread g = h (s.thread g) :=
  Tab.get_set_same _ _ _
theorem State.modThread_other (g j : Nat) (f : Thread → Thread) (h : j ≠ g) : (s.modThread g f).thread j = s.thread j :=
  Tab.get_set_other _ _ _ _ h
@[simp] theorem State.setThread_tcore (g j : Nat) (t : Thread) : (s.setThread g t).tcore j = s.tcore j := rfl
@[simp] theorem State.modThread_tcore (g j : Nat) (f : Thread → Thread) : (s.modThread g f).tcore j = s.tcore j := rfl
@[simp] theorem State.setThread_tile (g j : Nat) (t : Thread) : (s.setThread g t).tile j = s.tile j := rfl
@[simp] theorem State.modThread_tile (g j : Nat) (f : Thread → Thread) : (s.modThread g f).tile j = s.tile j := rfl
@[simp] theorem State.setThread_core (g j : Nat) (t : Thread) : (s.setThread g t).core j = s.core j := rfl
@[simp] theorem State.modThread_core (g j : Nat) (f : Thread → Thread) : (s.modThread g f).core j = s.core j := rfl
@[simp] theorem State.setThread_blk (g j : Nat) (t : Thread) : (s.setThread g t).blk j = s.blk j := rfl
@[simp] theorem State.modThread_blk (g j : Nat) (f : Thread → Thread) : (s.modThread g f).blk j = s.blk j := rfl
@[simp] theorem State.setThread_field (g j : Nat) (t : Thread) : (s.setThread g t).field j = s.field j := rfl
@[simp] theorem State.modThread_field (g j : Nat) (f : Thread → Thread) : (s.modThread g f).field j = s.field j := rfl

/-! ## tcores -/

@[simp] theorem State.setTcore_mem (k : Nat) (c : TCore) : (s.setTcore k c).mem = s.mem := rfl
@[simp] theorem State.modTcore_mem (k : Nat) (h : TCore → TCore) : (s.modTcore k h).mem = s.mem := rfl
@[simp] theorem State.setTcore_threads (k : Nat) (c : TCore) : (s.setTcore k c).threads = s.threads := rfl
@[simp] theorem State.modTcore_threads (k : Nat) (h : TCore → TCore) : (s.modTcore k h).threads = s.threads := rfl
@[simp] theorem State.setTcore_tiles (k : Nat) (c : TCore) : (s.setTcore k c).tiles = s.tiles := rfl
@[simp] theorem State.modTcore_tiles (k : Nat) (h : TCore → TCore) : (s.modTcore k h).tiles = s.tiles := rfl
@[simp] theorem State.setTcore_cores (k : Nat) (c : TCore) : (s.setTcore k c).cores = s.cores := rfl
@[simp] theorem State.modTcore_cores (k : Nat) (h : TCore → TCore) : (s.modTcore k h).cores = s.cores := rfl
@[simp] theorem State.setTcore_blks (k : Nat) (c : TCore) : (s.setTcore k c).blks = s.blks := rfl
@[simp] theorem State.modTcore_blks (k : Nat) (h : TCore → TCore) : (s.modTcore k h).blks = s.blks := rfl
@[simp] theorem State.setTcore_fields (k : Nat) (c : TCore) : (s.setTcore k c).fields = s.fields := rfl
@[simp] theorem State.modTcore_fields (k : Nat) (h : TCore → TCore) : (s.modTcore k h).fields = s.fields := rfl
@[simp] theorem State.setTcore_mesh (k : Nat) (c : TCore) : (s.setTcore k c).mesh = s.mesh := rfl
@[simp] theorem State.modTcore_mesh (k : Nat) (h : TCore → TCore) : (s.modTcore k h).mesh = s.mesh := rfl
@[simp] theorem State.setTcore_dev (k : Nat) (c : TCore) : (s.setTcore k c).dev = s.dev := rfl
@[simp] theorem State.modTcore_dev (k : Nat) (h : TCore → TCore) : (s.modTcore k h).dev = s.dev := rfl
@[simp] theorem State.setTcore_ns (k : Nat) (c : TCore) : (s.setTcore k c).ns = s.ns := rfl
@[simp] theorem State.modTcore_ns (k : Nat) (h : TCore → TCore) : (s.modTcore k h).ns = s.ns := rfl
@[simp] theorem State.setTcore_cur (k : Nat) (c : TCore) : (s.setTcore k c).cur = s.cur := rfl
@[simp] theorem State.modTcore_cur (k : Nat) (h : TCore → TCore) : (s.modTcore k h).cur = s.cur := rfl
@[simp] theorem State.setTcore_iss (k : Nat) (c : TCore) : (s.setTcore k c).iss = s.iss := rfl
@[simp] theorem State.modTcore_iss (k : Nat) (h : TCore → TCore) : (s.modTcore k h).iss = s.iss := rfl
@[simp] theorem State.setTcore_agenda (k : Nat) (c : TCore) : (s.setTcore k c).agenda = s.agenda := rfl
@[simp] theorem State.modTcore_agenda (k : Nat) (h : TCore → TCore) : (s.modTcore k h).agenda = s.agenda := rfl
@[simp] theorem State.setTcore_tick (k : Nat) (c : TCore) : (s.setTcore k c).tick = s.tick := rfl
@[simp] theorem State.modTcore_tick (k : Nat) (h : TCore → TCore) : (s.modTcore k h).tick = s.tick := rfl
@[simp] theorem State.setTcore_fresh (k : Nat) (c : TCore) : (s.setTcore k c).fresh = s.fresh := rfl
@[simp] theorem State.modTcore_fresh (k : Nat) (h : TCore → TCore) : (s.modTcore k h).fresh = s.fresh := rfl
@[simp] theorem State.setTcore_same (k : Nat) (c : TCore) : (s.setTcore k c).tcore k = c :=
  Tab.get_set_same _ _ _
theorem State.setTcore_other (k j : Nat) (c : TCore) (h : j ≠ k) : (s.setTcore k c).tcore j = s.tcore j :=
  Tab.get_set_other _ _ _ _ h
@[simp] theorem State.modTcore_same (k : Nat) (h : TCore → TCore) : (s.modTcore k h).tcore k = h (s.tcore k) :=
  Tab.get_set_same _ _ _
theorem State.modTcore_other (k j : Nat) (f : TCore → TCore) (h : j ≠ k) : (s.modTcore k f).tcore j = s.tcore j :=
  Tab.get_set_other _ _ _ _ h
@[simp] theorem State.setTcore_thread (k j : Nat) (c : TCore) : (s.setTcore k c).thread j = s.thread j := rfl
@[simp] theorem State.modTcore_thread (k j : Nat) (f : TCore → TCore) : (s.modTcore k f).thread j = s.thread j := rfl
@[simp] theorem State.setTcore_tile (k j : Nat) (c : TCore) : (s.setTcore k c).tile j = s.tile j := rfl
@[simp] theorem State.modTcore_tile (k j : Nat) (f : TCore → TCore) : (s.modTcore k f).tile j = s.tile j := rfl
@[simp] theorem State.setTcore_core (k j : Nat) (c : TCore) : (s.setTcore k c).core j = s.core j := rfl
@[simp] theorem State.modTcore_core (k j : Nat) (f : TCore → TCore) : (s.modTcore k f).core j = s.core j := rfl
@[simp] theorem State.setTcore_blk (k j : Nat) (c : TCore) : (s.setTcore k c).blk j = s.blk j := rfl
@[simp] theorem State.modTcore_blk (k j : Nat) (f : TCore → TCore) : (s.modTcore k f).blk j = s.blk j := rfl
@[simp] theorem State.setTcore_field (k j : Nat) (c : TCore) : (s.setTcore k c).field j = s.field j := rfl
@[simp] theorem State.modTcore_field (k j : Nat) (f : TCore → TCore) : (s.modTcore k f).field j = s.field j := rfl

/-! ## tiles -/

@[simp] theorem State.setTile_mem (n : Nat) (x : Tile) : (s.setTile n x).mem = s.mem := rfl
@[simp] theorem State.modTile_mem (n : Nat) (h : Tile → Tile) : (s.modTile n h).mem = s.mem := rfl
@[simp] theorem State.setTile_threads (n : Nat) (x : Tile) : (s.setTile n x).threads = s.threads := rfl
@[simp] theorem State.modTile_threads (n : Nat) (h : Tile → Tile) : (s.modTile n h).threads = s.threads := rfl
@[simp] theorem State.setTile_tcores (n : Nat) (x : Tile) : (s.setTile n x).tcores = s.tcores := rfl
@[simp] theorem State.modTile_tcores (n : Nat) (h : Tile → Tile) : (s.modTile n h).tcores = s.tcores := rfl
@[simp] theorem State.setTile_cores (n : Nat) (x : Tile) : (s.setTile n x).cores = s.cores := rfl
@[simp] theorem State.modTile_cores (n : Nat) (h : Tile → Tile) : (s.modTile n h).cores = s.cores := rfl
@[simp] theorem State.setTile_blks (n : Nat) (x : Tile) : (s.setTile n x).blks = s.blks := rfl
@[simp] theorem State.modTile_blks (n : Nat) (h : Tile → Tile) : (s.modTile n h).blks = s.blks := rfl
@[simp] theorem State.setTile_fields (n : Nat) (x : Tile) : (s.setTile n x).fields = s.fields := rfl
@[simp] theorem State.modTile_fields (n : Nat) (h : Tile → Tile) : (s.modTile n h).fields = s.fields := rfl
@[simp] theorem State.setTile_mesh (n : Nat) (x : Tile) : (s.setTile n x).mesh = s.mesh := rfl
@[simp] theorem State.modTile_mesh (n : Nat) (h : Tile → Tile) : (s.modTile n h).mesh = s.mesh := rfl
@[simp] theorem State.setTile_dev (n : Nat) (x : Tile) : (s.setTile n x).dev = s.dev := rfl
@[simp] theorem State.modTile_dev (n : Nat) (h : Tile → Tile) : (s.modTile n h).dev = s.dev := rfl
@[simp] theorem State.setTile_ns (n : Nat) (x : Tile) : (s.setTile n x).ns = s.ns := rfl
@[simp] theorem State.modTile_ns (n : Nat) (h : Tile → Tile) : (s.modTile n h).ns = s.ns := rfl
@[simp] theorem State.setTile_cur (n : Nat) (x : Tile) : (s.setTile n x).cur = s.cur := rfl
@[simp] theorem State.modTile_cur (n : Nat) (h : Tile → Tile) : (s.modTile n h).cur = s.cur := rfl
@[simp] theorem State.setTile_iss (n : Nat) (x : Tile) : (s.setTile n x).iss = s.iss := rfl
@[simp] theorem State.modTile_iss (n : Nat) (h : Tile → Tile) : (s.modTile n h).iss = s.iss := rfl
@[simp] theorem State.setTile_agenda (n : Nat) (x : Tile) : (s.setTile n x).agenda = s.agenda := rfl
@[simp] theorem State.modTile_agenda (n : Nat) (h : Tile → Tile) : (s.modTile n h).agenda = s.agenda := rfl
@[simp] theorem State.setTile_tick (n : Nat) (x : Tile) : (s.setTile n x).tick = s.tick := rfl
@[simp] theorem State.modTile_tick (n : Nat) (h : Tile → Tile) : (s.modTile n h).tick = s.tick := rfl
@[simp] theorem State.setTile_fresh (n : Nat) (x : Tile) : (s.setTile n x).fresh = s.fresh := rfl
@[simp] theorem State.modTile_fresh (n : Nat) (h : Tile → Tile) : (s.modTile n h).fresh = s.fresh := rfl
@[simp] theorem State.setTile_same (n : Nat) (x : Tile) : (s.setTile n x).tile n = x :=
  Tab.get_set_same _ _ _
theorem State.setTile_other (n j : Nat) (x : Tile) (h : j ≠ n) : (s.setTile n x).tile j = s.tile j :=
  Tab.get_set_other _ _ _ _ h
@[simp] theorem State.modTile_same (n : Nat) (h : Tile → Tile) : (s.modTile n h).tile n = h (s.tile n) :=
  Tab.get_set_same _ _ _
theorem State.modTile_other (n j : Nat) (f : Tile → Tile) (h : j ≠ n) : (s.modTile n f).tile j = s.tile j :=
  Tab.get_set_other _ _ _ _ h
@[simp] theorem State.setTile_thread (n j : Nat) (x : Tile) : (s.setTile n x).thread j = s.thread j := rfl
@[simp] theorem State.modTile_thread (n j : Nat) (f : Tile → Tile) : (s.modTile n f).thread j = s.thread j := rfl
@[simp] theorem State.setTile_tcore (n j : Nat) (x : Tile) : (s.setTile n x).tcore j = s.tcore j := rfl
@[simp] theorem State.modTile_tcore (n j : Nat) (f : Tile → Tile) : (s.modTile n f).tcore j = s.tcore j := rfl
@[simp] theorem State.setTile_core (n j : Nat) (x : Tile) : (s.setTile n x).core j = s.core j := rfl
@[simp] theorem State.modTile_core (n j : Nat) (f : Tile → Tile) : (s.modTile n f).core j = s.core j := rfl
@[simp] theorem State.setTile_blk (n j : Nat) (x : Tile) : (s.setTile n x).blk j = s.blk j := rfl
@[simp] theorem State.modTile_blk (n j : Nat) (f : Tile → Tile) : (s.modTile n f).blk j = s.blk j := rfl
@[simp] theorem State.setTile_field (n j : Nat) (x : Tile) : (s.setTile n x).field j = s.field j := rfl
@[simp] theorem State.modTile_field (n j : Nat) (f : Tile → Tile) : (s.modTile n f).field j = s.field j := rfl

/-! ## cores -/

@[simp] theorem State.setCore_mem (n : Nat) (x : Core) : (s.setCore n x).mem = s.mem := rfl
@[simp] theorem State.modCore_mem (n : Nat) (h : Core → Core) : (s.modCore n h).mem = s.mem := rfl
@[simp] theorem State.setCore_threads (n : Nat) (x : Core) : (s.setCore n x).threads = s.threads := rfl
@[simp] theorem State.modCore_threads (n : Nat) (h : Core → Core) : (s.modCore n h).threads = s.threads := rfl
@[simp] theorem State.setCore_tcores (n : Nat) (x : Core) : (s.setCore n x).tcores = s.tcores := rfl
@[simp] theorem State.modCore_tcores (n : Nat) (h : Core → Core) : (s.modCore n h).tcores = s.tcores := rfl
@[simp] theorem State.setCore_tiles (n : Nat) (x : Core) : (s.setCore n x).tiles = s.tiles := rfl
@[simp] theorem State.modCore_tiles (n : Nat) (h : Core → Core) : (s.modCore n h).tiles = s.tiles := rfl
@[simp] theorem State.setCore_blks (n : Nat) (x : Core) : (s.setCore n x).blks = s.blks := rfl
@[simp] theorem State.modCore_blks (n : Nat) (h : Core → Core) : (s.modCore n h).blks = s.blks := rfl
@[simp] theorem State.setCore_fields (n : Nat) (x : Core) : (s.setCore n x).fields = s.fields := rfl
@[simp] theorem State.modCore_fields (n : Nat) (h : Core → Core) : (s.modCore n h).fields = s.fields := rfl
@[simp] theorem State.setCore_mesh (n : Nat) (x : Core) : (s.setCore n x).mesh = s.mesh := rfl
@[simp] theorem State.modCore_mesh (n : Nat) (h : Core → Core) : (s.modCore n h).mesh = s.mesh := rfl
@[simp] theorem State.setCore_dev (n : Nat) (x : Core) : (s.setCore n x).dev = s.dev := rfl
@[simp] theorem State.modCore_dev (n : Nat) (h : Core → Core) : (s.modCore n h).dev = s.dev := rfl
@[simp] theorem State.setCore_ns (n : Nat) (x : Core) : (s.setCore n x).ns = s.ns := rfl
@[simp] theorem State.modCore_ns (n : Nat) (h : Core → Core) : (s.modCore n h).ns = s.ns := rfl
@[simp] theorem State.setCore_cur (n : Nat) (x : Core) : (s.setCore n x).cur = s.cur := rfl
@[simp] theorem State.modCore_cur (n : Nat) (h : Core → Core) : (s.modCore n h).cur = s.cur := rfl
@[simp] theorem State.setCore_iss (n : Nat) (x : Core) : (s.setCore n x).iss = s.iss := rfl
@[simp] theorem State.modCore_iss (n : Nat) (h : Core → Core) : (s.modCore n h).iss = s.iss := rfl
@[simp] theorem State.setCore_agenda (n : Nat) (x : Core) : (s.setCore n x).agenda = s.agenda := rfl
@[simp] theorem State.modCore_agenda (n : Nat) (h : Core → Core) : (s.modCore n h).agenda = s.agenda := rfl
@[simp] theorem State.setCore_tick (n : Nat) (x : Core) : (s.setCore n x).tick = s.tick := rfl
@[simp] theorem State.modCore_tick (n : Nat) (h : Core → Core) : (s.modCore n h).tick = s.tick := rfl
@[simp] theorem State.setCore_fresh (n : Nat) (x : Core) : (s.setCore n x).fresh = s.fresh := rfl
@[simp] theorem State.modCore_fresh (n : Nat) (h : Core → Core) : (s.modCore n h).fresh = s.fresh := rfl
@[simp] theorem State.setCore_same (n : Nat) (x : Core) : (s.setCore n x).core n = x :=
  Tab.get_set_same _ _ _
theorem State.setCore_other (n j : Nat) (x : Core) (h : j ≠ n) : (s.setCore n x).core j = s.core j :=
  Tab.get_set_other _ _ _ _ h
@[simp] theorem State.modCore_same (n : Nat) (h : Core → Core) : (s.modCore n h).core n = h (s.core n) :=
  Tab.get_set_same _ _ _
theorem State.modCore_other (n j : Nat) (f : Core → Core) (h : j ≠ n) : (s.modCore n f).core j = s.core j :=
  Tab.get_set_other _ _ _ _ h
@[simp] theorem State.setCore_thread (n j : Nat) (x : Core) : (s.setCore n x).thread j = s.thread j := rfl
@[simp] theorem State.modCore_thread (n j : Nat) (f : Core → Core) : (s.modCore n f).thread j = s.thread j := rfl
@[simp] theorem State.setCore_tcore (n j : Nat) (x : Core) : (s.setCore n x).tcore j = s.tcore j := rfl
@[simp] theorem State.modCore_tcore (n j : Nat) (f : Core → Core) : (s.modCore n f).tcore j = s.tcore j := rfl
@[simp] theorem State.setCore_tile (n j : Nat) (x : Core) : (s.setCore n x).tile j = s.tile j := rfl
@[simp] theorem State.modCore_tile (n j : Nat) (f : Core → Core) : (s.modCore n f).tile j = s.tile j := rfl
@[simp] theorem State.setCore_blk (n j : Nat) (x : Core) : (s.setCore n x).blk j = s.blk j := rfl
@[simp] theorem State.modCore_blk (n j : Nat) (f : Core → Core) : (s.modCore n f).blk j = s.blk j := rfl
@[simp] theorem State.setCore_field (n j : Nat) (x : Core) : (s.setCore n x).field j = s.field j := rfl
@[simp] theorem State.modCore_field (n j : Nat) (f : Core → Core) : (s.modCore n f).field j = s.field j := rfl

/-! ## blks -/

@[simp] theorem State.setBlk_mem (b : Nat) (x : Blk) : (s.setBlk b x).mem = s.mem := rfl
@[simp] theorem State.modBlk_mem (b : Nat) (h : Blk → Blk) : (s.modBlk b h).mem = s.mem := rfl
@[simp] theorem State.setBlk_threads (b : Nat) (x : Blk) : (s.setBlk b x).threads = s.threads := rfl
@[simp] theorem State.modBlk_threads (b : Nat) (h : Blk → Blk) : (s.modBlk b h).threads = s.threads := rfl
@[simp] theorem State.setBlk_tcores (b : Nat) (x : Blk) : (s.setBlk b x).tcores = s.tcores := rfl
@[simp] theorem State.modBlk_tcores (b : Nat) (h : Blk → Blk) : (s.modBlk b h).tcores = s.tcores := rfl
@[simp] theorem State.setBlk_tiles (b : Nat) (x : Blk) : (s.setBlk b x).tiles = s.tiles := rfl
@[simp] theorem State.modBlk_tiles (b : Nat) (h : Blk → Blk) : (s.modBlk b h).tiles = s.tiles := rfl
@[simp] theorem State.setBlk_cores (b : Nat) (x : Blk) : (s.setBlk b x).cores = s.cores := rfl
@[simp] theorem State.modBlk_cores (b : Nat) (h : Blk → Blk) : (s.modBlk b h).cores = s.cores := rfl
@[simp] theorem State.setBlk_fields (b : Nat) (x : Blk) : (s.setBlk b x).fields = s.fields := rfl
@[simp] theorem State.modBlk_fields (b : Nat) (h : Blk → Blk) : (s.modBlk b h).fields = s.fields := rfl
@[simp] theorem State.setBlk_mesh (b : Nat) (x : Blk) : (s.setBlk b x).mesh = s.mesh := rfl
@[simp] theorem State.modBlk_mesh (b : Nat) (h : Blk → Blk) : (s.modBlk b h).mesh = s.mesh := rfl
@[simp] theorem State.setBlk_dev (b : Nat) (x : Blk) : (s.setBlk b x).dev = s.dev := rfl
@[simp] theorem State.modBlk_dev (b : Nat) (h : Blk → Blk) : (s.modBlk b h).dev = s.dev := rfl
@[simp] theorem State.setBlk_ns (b : Nat) (x : Blk) : (s.setBlk b x).ns = s.ns := rfl
@[simp] theorem State.modBlk_ns (b : Nat) (h : Blk → Blk) : (s.modBlk b h).ns = s.ns := rfl
@[simp] theorem State.setBlk_cur (b : Nat) (x : Blk) : (s.setBlk b x).cur = s.cur := rfl
@[simp] theorem State.modBlk_cur (b : Nat) (h : Blk → Blk) : (s.modBlk b h).cur = s.cur := rfl
@[simp] theorem State.setBlk_iss (b : Nat) (x : Blk) : (s.setBlk b x).iss = s.iss := rfl
@[simp] theorem State.modBlk_iss (b : Nat) (h : Blk → Blk) : (s.modBlk b h).iss = s.iss := rfl
@[simp] theorem State.setBlk_agenda (b : Nat) (x : Blk) : (s.setBlk b x).agenda = s.agenda := rfl
@[simp] theorem State.modBlk_agenda (b : Nat) (h : Blk → Blk) : (s.modBlk b h).agenda = s.agenda := rfl
@[simp] theorem State.setBlk_tick (b : Nat) (x : Blk) : (s.setBlk b x).tick = s.tick := rfl
@[simp] theorem State.modBlk_tick (b : Nat) (h : Blk → Blk) : (s.modBlk b h).tick = s.tick := rfl
@[simp] theorem State.setBlk_fresh (b : Nat) (x : Blk) : (s.setBlk b x).fresh = s.fresh := rfl
@[simp] theorem State.modBlk_fresh (b : Nat) (h : Blk → Blk) : (s.modBlk b h).fresh = s.fresh := rfl
@[simp] theorem State.setBlk_same (b : Nat) (x : Blk) : (s.setBlk b x).blk b = x :=
  Tab.get_set_same _ _ _
theorem State.setBlk_other (b j : Nat) (x : Blk) (h : j ≠ b) : (s.setBlk b x).blk j = s.blk j :=
  Tab.get_set_other _ _ _ _ h
@[simp] theorem State.modBlk_same (b : Nat) (h : Blk → Blk) : (s.modBlk b h).blk b = h (s.blk b) :=
  Tab.get_set_same _ _ _
theorem State.modBlk_other (b j : Nat) (f : Blk → Blk) (h : j ≠ b) : (s.modBlk b f).blk j = s.blk j :=
  Tab.get_set_other _ _ _ _ h
@[simp] theorem State.setBlk_thread (b j : Nat) (x : Blk) : (s.setBlk b x).thread j = s.thread j := rfl
@[simp] theorem State.modBlk_thread (b j : Nat) (f : Blk → Blk) : (s.modBlk b f).thread j = s.thread j := rfl
@[simp] theorem State.setBlk_tcore (b j : Nat) (x : Blk) : (s.setBlk b x).tcore j = s.tcore j := rfl
@[simp] theorem State.modBlk_tcore (b j : Nat) (f : Blk → Blk) : (s.modBlk b f).tcore j = s.tcore j := rfl
@[simp] theorem State.setBlk_tile (b j : Nat) (x : Blk) : (s.setBlk b x).tile j = s.tile j := rfl
@[simp] theorem State.modBlk_tile (b j : Nat) (f : Blk → Blk) : (s.modBlk b f).tile j = s.tile j := rfl
@[simp] theorem State.setBlk_core (b j : Nat) (x : Blk) : (s.setBlk b x).core j = s.core j := rfl
@[simp] theorem State.modBlk_core (b j : Nat) (f : Blk → Blk) : (s.modBlk b f).core j = s.core j := rfl
@[simp] theorem State.setBlk_field (b j : Nat) (x : Blk) : (s.setBlk b x).field j = s.field j := rfl
@[simp] theorem State.modBlk_field (b j : Nat) (f : Blk → Blk) : (s.modBlk b f).field j = s.field j := rfl

/-! ## fields -/

@[simp] theorem State.setField_mem (n : Nat) (x : Field) : (s.setField n x).mem = s.mem := rfl
@[simp] theorem State.modField_mem (n : Nat) (h : Field → Field) : (s.modField n h).mem = s.mem := rfl
@[simp] theorem State.setField_threads (n : Nat) (x : Field) : (s.setField n x).threads = s.threads := rfl
@[simp] theorem State.modField_threads (n : Nat) (h : Field → Field) : (s.modField n h).threads = s.threads := rfl
@[simp] theorem State.setField_tcores (n : Nat) (x : Field) : (s.setField n x).tcores = s.tcores := rfl
@[simp] theorem State.modField_tcores (n : Nat) (h : Field → Field) : (s.modField n h).tcores = s.tcores := rfl
@[simp] theorem State.setField_tiles (n : Nat) (x : Field) : (s.setField n x).tiles = s.tiles := rfl
@[simp] theorem State.modField_tiles (n : Nat) (h : Field → Field) : (s.modField n h).tiles = s.tiles := rfl
@[simp] theorem State.setField_cores (n : Nat) (x : Field) : (s.setField n x).cores = s.cores := rfl
@[simp] theorem State.modField_cores (n : Nat) (h : Field → Field) : (s.modField n h).cores = s.cores := rfl
@[simp] theorem State.setField_blks (n : Nat) (x : Field) : (s.setField n x).blks = s.blks := rfl
@[simp] theorem State.modField_blks (n : Nat) (h : Field → Field) : (s.modField n h).blks = s.blks := rfl
@[simp] theorem State.setField_mesh (n : Nat) (x : Field) : (s.setField n x).mesh = s.mesh := rfl
@[simp] theorem State.modField_mesh (n : Nat) (h : Field → Field) : (s.modField n h).mesh = s.mesh := rfl
@[simp] theorem State.setField_dev (n : Nat) (x : Field) : (s.setField n x).dev = s.dev := rfl
@[simp] theorem State.modField_dev (n : Nat) (h : Field → Field) : (s.modField n h).dev = s.dev := rfl
@[simp] theorem State.setField_ns (n : Nat) (x : Field) : (s.setField n x).ns = s.ns := rfl
@[simp] theorem State.modField_ns (n : Nat) (h : Field → Field) : (s.modField n h).ns = s.ns := rfl
@[simp] theorem State.setField_cur (n : Nat) (x : Field) : (s.setField n x).cur = s.cur := rfl
@[simp] theorem State.modField_cur (n : Nat) (h : Field → Field) : (s.modField n h).cur = s.cur := rfl
@[simp] theorem State.setField_iss (n : Nat) (x : Field) : (s.setField n x).iss = s.iss := rfl
@[simp] theorem State.modField_iss (n : Nat) (h : Field → Field) : (s.modField n h).iss = s.iss := rfl
@[simp] theorem State.setField_agenda (n : Nat) (x : Field) : (s.setField n x).agenda = s.agenda := rfl
@[simp] theorem State.modField_agenda (n : Nat) (h : Field → Field) : (s.modField n h).agenda = s.agenda := rfl
@[simp] theorem State.setField_tick (n : Nat) (x : Field) : (s.setField n x).tick = s.tick := rfl
@[simp] theorem State.modField_tick (n : Nat) (h : Field → Field) : (s.modField n h).tick = s.tick := rfl
@[simp] theorem State.setField_fresh (n : Nat) (x : Field) : (s.setField n x).fresh = s.fresh := rfl
@[simp] theorem State.modField_fresh (n : Nat) (h : Field → Field) : (s.modField n h).fresh = s.fresh := rfl
@[simp] theorem State.setField_same (n : Nat) (x : Field) : (s.setField n x).field n = x :=
  Tab.get_set_same _ _ _
theorem State.setField_other (n j : Nat) (x : Field) (h : j ≠ n) : (s.setField n x).field j = s.field j :=
  Tab.get_set_other _ _ _ _ h
@[simp] theorem State.modField_same (n : Nat) (h : Field → Field) : (s.modField n h).field n = h (s.field n) :=
  Tab.get_set_same _ _ _
theorem State.modField_other (n j : Nat) (f : Field → Field) (h : j ≠ n) : (s.modField n f).field j = s.field j :=
  Tab.get_set_other _ _ _ _ h
@[simp] theorem State.setField_thread (n j : Nat) (x : Field) : (s.setField n x).thread j = s.thread j := rfl
@[simp] theorem State.modField_thread (n j : Nat) (f : Field → Field) : (s.modField n f).thread j = s.thread j := rfl
@[simp] theorem State.setField_tcore (n j : Nat) (x : Field) : (s.setField n x).tcore j = s.tcore j := rfl
@[simp] theorem State.modField_tcore (n j : Nat) (f : Field → Field) : (s.modField n f).tcore j = s.tcore j := rfl
@[simp] theorem State.setField_tile (n j : Nat) (x : Field) : (s.setField n x).tile j = s.tile j := rfl
@[simp] theorem State.modField_tile (n j : Nat) (f : Field → Field) : (s.modField n f).tile j = s.tile j := rfl
@[simp] theorem State.setField_core (n j : Nat) (x : Field) : (s.setField n x).core j = s.core j := rfl
@[simp] theorem State.modField_core (n j : Nat) (f : Field → Field) : (s.modField n f).core j = s.core j := rfl
@[simp] theorem State.setField_blk (n j : Nat) (x : Field) : (s.setField n x).blk j = s.blk j := rfl
@[simp] theorem State.modField_blk (n j : Nat) (f : Field → Field) : (s.modField n f).blk j = s.blk j := rfl

/-! ## The device record, memory, and the small updates -/

@[simp] theorem State.modDev_mem (h : Dev → Dev) : (s.modDev h).mem = s.mem := rfl
@[simp] theorem State.modDev_threads (h : Dev → Dev) : (s.modDev h).threads = s.threads := rfl
@[simp] theorem State.modDev_tcores (h : Dev → Dev) : (s.modDev h).tcores = s.tcores := rfl
@[simp] theorem State.modDev_tiles (h : Dev → Dev) : (s.modDev h).tiles = s.tiles := rfl
@[simp] theorem State.modDev_cores (h : Dev → Dev) : (s.modDev h).cores = s.cores := rfl
@[simp] theorem State.modDev_blks (h : Dev → Dev) : (s.modDev h).blks = s.blks := rfl
@[simp] theorem State.modDev_fields (h : Dev → Dev) : (s.modDev h).fields = s.fields := rfl
@[simp] theorem State.modDev_mesh (h : Dev → Dev) : (s.modDev h).mesh = s.mesh := rfl
@[simp] theorem State.modDev_ns (h : Dev → Dev) : (s.modDev h).ns = s.ns := rfl
@[simp] theorem State.modDev_cur (h : Dev → Dev) : (s.modDev h).cur = s.cur := rfl
@[simp] theorem State.modDev_iss (h : Dev → Dev) : (s.modDev h).iss = s.iss := rfl
@[simp] theorem State.modDev_agenda (h : Dev → Dev) : (s.modDev h).agenda = s.agenda := rfl
@[simp] theorem State.modDev_tick (h : Dev → Dev) : (s.modDev h).tick = s.tick := rfl
@[simp] theorem State.modDev_fresh (h : Dev → Dev) : (s.modDev h).fresh = s.fresh := rfl
@[simp] theorem State.modDev_dev (h : Dev → Dev) : (s.modDev h).dev = h s.dev := rfl
@[simp] theorem State.modDev_thread (h : Dev → Dev) (j : Nat) : (s.modDev h).thread j = s.thread j := rfl
@[simp] theorem State.modDev_tcore (h : Dev → Dev) (j : Nat) : (s.modDev h).tcore j = s.tcore j := rfl
@[simp] theorem State.modDev_tile (h : Dev → Dev) (j : Nat) : (s.modDev h).tile j = s.tile j := rfl
@[simp] theorem State.modDev_core (h : Dev → Dev) (j : Nat) : (s.modDev h).core j = s.core j := rfl
@[simp] theorem State.modDev_blk (h : Dev → Dev) (j : Nat) : (s.modDev h).blk j = s.blk j := rfl
@[simp] theorem State.modDev_field (h : Dev → Dev) (j : Nat) : (s.modDev h).field j = s.field j := rfl
@[simp] theorem State.poke_threads (a : Nat) (l : List Byte) : (s.poke a l).threads = s.threads := rfl
@[simp] theorem State.poke_tcores (a : Nat) (l : List Byte) : (s.poke a l).tcores = s.tcores := rfl
@[simp] theorem State.poke_tiles (a : Nat) (l : List Byte) : (s.poke a l).tiles = s.tiles := rfl
@[simp] theorem State.poke_cores (a : Nat) (l : List Byte) : (s.poke a l).cores = s.cores := rfl
@[simp] theorem State.poke_blks (a : Nat) (l : List Byte) : (s.poke a l).blks = s.blks := rfl
@[simp] theorem State.poke_fields (a : Nat) (l : List Byte) : (s.poke a l).fields = s.fields := rfl
@[simp] theorem State.poke_mesh (a : Nat) (l : List Byte) : (s.poke a l).mesh = s.mesh := rfl
@[simp] theorem State.poke_dev (a : Nat) (l : List Byte) : (s.poke a l).dev = s.dev := rfl
@[simp] theorem State.poke_ns (a : Nat) (l : List Byte) : (s.poke a l).ns = s.ns := rfl
@[simp] theorem State.poke_cur (a : Nat) (l : List Byte) : (s.poke a l).cur = s.cur := rfl
@[simp] theorem State.poke_iss (a : Nat) (l : List Byte) : (s.poke a l).iss = s.iss := rfl
@[simp] theorem State.poke_agenda (a : Nat) (l : List Byte) : (s.poke a l).agenda = s.agenda := rfl
@[simp] theorem State.poke_tick (a : Nat) (l : List Byte) : (s.poke a l).tick = s.tick := rfl
@[simp] theorem State.poke_fresh (a : Nat) (l : List Byte) : (s.poke a l).fresh = s.fresh := rfl
@[simp] theorem State.poke_mem (a : Nat) (l : List Byte) : (s.poke a l).mem = Memory.write s.mem a l := rfl
@[simp] theorem State.poke_thread (a j : Nat) (l : List Byte) : (s.poke a l).thread j = s.thread j := rfl
@[simp] theorem State.poke_tcore (a j : Nat) (l : List Byte) : (s.poke a l).tcore j = s.tcore j := rfl
@[simp] theorem State.poke_tile (a j : Nat) (l : List Byte) : (s.poke a l).tile j = s.tile j := rfl
@[simp] theorem State.poke_core (a j : Nat) (l : List Byte) : (s.poke a l).core j = s.core j := rfl
@[simp] theorem State.poke_blk (a j : Nat) (l : List Byte) : (s.poke a l).blk j = s.blk j := rfl
@[simp] theorem State.poke_field (a j : Nat) (l : List Byte) : (s.poke a l).field j = s.field j := rfl
@[simp] theorem State.jump_mem (a : Word) : (s.jump a).mem = s.mem := rfl
@[simp] theorem State.jump_threads (a : Word) : (s.jump a).threads = s.threads := rfl
@[simp] theorem State.jump_tcores (a : Word) : (s.jump a).tcores = s.tcores := rfl
@[simp] theorem State.jump_tiles (a : Word) : (s.jump a).tiles = s.tiles := rfl
@[simp] theorem State.jump_cores (a : Word) : (s.jump a).cores = s.cores := rfl
@[simp] theorem State.jump_blks (a : Word) : (s.jump a).blks = s.blks := rfl
@[simp] theorem State.jump_fields (a : Word) : (s.jump a).fields = s.fields := rfl
@[simp] theorem State.jump_mesh (a : Word) : (s.jump a).mesh = s.mesh := rfl
@[simp] theorem State.jump_dev (a : Word) : (s.jump a).dev = s.dev := rfl
@[simp] theorem State.jump_ns (a : Word) : (s.jump a).ns = s.ns := rfl
@[simp] theorem State.jump_cur (a : Word) : (s.jump a).cur = s.cur := rfl
@[simp] theorem State.jump_agenda (a : Word) : (s.jump a).agenda = s.agenda := rfl
@[simp] theorem State.jump_tick (a : Word) : (s.jump a).tick = s.tick := rfl
@[simp] theorem State.jump_fresh (a : Word) : (s.jump a).fresh = s.fresh := rfl
@[simp] theorem State.jump_npc (a : Word) : (s.jump a).iss.npc = some a := rfl
@[simp] theorem State.jump_fate (a : Word) : (s.jump a).iss.fate = s.iss.fate := rfl
@[simp] theorem State.jump_thread (a : Word) (j : Nat) : (s.jump a).thread j = s.thread j := rfl
@[simp] theorem State.jump_tcore (a : Word) (j : Nat) : (s.jump a).tcore j = s.tcore j := rfl
@[simp] theorem State.jump_tile (a : Word) (j : Nat) : (s.jump a).tile j = s.tile j := rfl
@[simp] theorem State.jump_core (a : Word) (j : Nat) : (s.jump a).core j = s.core j := rfl
@[simp] theorem State.jump_blk (a : Word) (j : Nat) : (s.jump a).blk j = s.blk j := rfl
@[simp] theorem State.jump_field (a : Word) (j : Nat) : (s.jump a).field j = s.field j := rfl
@[simp] theorem State.next_mem : s.next.mem = s.mem := rfl
@[simp] theorem State.next_threads : s.next.threads = s.threads := rfl
@[simp] theorem State.next_tcores : s.next.tcores = s.tcores := rfl
@[simp] theorem State.next_tiles : s.next.tiles = s.tiles := rfl
@[simp] theorem State.next_cores : s.next.cores = s.cores := rfl
@[simp] theorem State.next_blks : s.next.blks = s.blks := rfl
@[simp] theorem State.next_fields : s.next.fields = s.fields := rfl
@[simp] theorem State.next_mesh : s.next.mesh = s.mesh := rfl
@[simp] theorem State.next_dev : s.next.dev = s.dev := rfl
@[simp] theorem State.next_ns : s.next.ns = s.ns := rfl
@[simp] theorem State.next_cur : s.next.cur = s.cur := rfl
@[simp] theorem State.next_iss : s.next.iss = s.iss := rfl
@[simp] theorem State.next_agenda : s.next.agenda = s.agenda := rfl
@[simp] theorem State.next_tick : s.next.tick = s.tick := rfl
@[simp] theorem State.next_thread (j : Nat) : s.next.thread j = s.thread j := rfl
@[simp] theorem State.next_tcore (j : Nat) : s.next.tcore j = s.tcore j := rfl
@[simp] theorem State.next_tile (j : Nat) : s.next.tile j = s.tile j := rfl
@[simp] theorem State.next_core (j : Nat) : s.next.core j = s.core j := rfl
@[simp] theorem State.next_blk (j : Nat) : s.next.blk j = s.blk j := rfl
@[simp] theorem State.next_field (j : Nat) : s.next.field j = s.field j := rfl

/-! ## The registers of the unit in hand -/

@[simp] theorem State.setCtx_mem (c : Ctx) : (s.setCtx c).mem = s.mem := by
  unfold State.setCtx; split <;> rfl
@[simp] theorem State.setCtx_tiles (c : Ctx) : (s.setCtx c).tiles = s.tiles := by
  unfold State.setCtx; split <;> rfl
@[simp] theorem State.setCtx_cores (c : Ctx) : (s.setCtx c).cores = s.cores := by
  unfold State.setCtx; split <;> rfl
@[simp] theorem State.setCtx_blks (c : Ctx) : (s.setCtx c).blks = s.blks := by
  unfold State.setCtx; split <;> rfl
@[simp] theorem State.setCtx_fields (c : Ctx) : (s.setCtx c).fields = s.fields := by
  unfold State.setCtx; split <;> rfl
@[simp] theorem State.setCtx_mesh (c : Ctx) : (s.setCtx c).mesh = s.mesh := by
  unfold State.setCtx; split <;> rfl
@[simp] theorem State.setCtx_dev (c : Ctx) : (s.setCtx c).dev = s.dev := by
  unfold State.setCtx; split <;> rfl
@[simp] theorem State.setCtx_ns (c : Ctx) : (s.setCtx c).ns = s.ns := by
  unfold State.setCtx; split <;> rfl
@[simp] theorem State.setCtx_cur (c : Ctx) : (s.setCtx c).cur = s.cur := by
  unfold State.setCtx; split <;> rfl
@[simp] theorem State.setCtx_iss (c : Ctx) : (s.setCtx c).iss = s.iss := by
  unfold State.setCtx; split <;> rfl
@[simp] theorem State.setCtx_agenda (c : Ctx) : (s.setCtx c).agenda = s.agenda := by
  unfold State.setCtx; split <;> rfl
@[simp] theorem State.setCtx_tick (c : Ctx) : (s.setCtx c).tick = s.tick := by
  unfold State.setCtx; split <;> rfl
@[simp] theorem State.setCtx_fresh (c : Ctx) : (s.setCtx c).fresh = s.fresh := by
  unfold State.setCtx; split <;> rfl
@[simp] theorem State.setCtx_tile (c : Ctx) (j : Nat) : (s.setCtx c).tile j = s.tile j := by
  unfold State.setCtx; split <;> rfl
@[simp] theorem State.setCtx_core (c : Ctx) (j : Nat) : (s.setCtx c).core j = s.core j := by
  unfold State.setCtx; split <;> rfl
@[simp] theorem State.setCtx_blk (c : Ctx) (j : Nat) : (s.setCtx c).blk j = s.blk j := by
  unfold State.setCtx; split <;> rfl
@[simp] theorem State.setCtx_field (c : Ctx) (j : Nat) : (s.setCtx c).field j = s.field j := by
  unfold State.setCtx; split <;> rfl

/-- The registers just placed are those in hand. -/
@[simp] theorem State.setCtx_ctx (c : Ctx) : (s.setCtx c).ctx = c := by
  cases h : s.cur <;> simp [State.setCtx, State.ctx, h]

/-- Only the thread in hand is changed, and of it only its registers. -/
theorem State.setCtx_thread (c : Ctx) (g : Nat) :
    (s.setCtx c).thread g = if s.cur = .thread g then { s.thread g with ctx := c } else s.thread g := by
  unfold State.setCtx
  split
  · rename_i g' h
    by_cases hg : g = g'
    · simp [h, hg]
    · rw [State.modThread_other _ _ _ _ hg, if_neg]
      simp [h, Ne.symm hg]
  · rename_i k h
    simp [h]

/-- Only the compute core in hand is changed, and of it only its registers. -/
theorem State.setCtx_tcore (c : Ctx) (k : Nat) :
    (s.setCtx c).tcore k = if s.cur = .core k then { s.tcore k with ctx := c } else s.tcore k := by
  unfold State.setCtx
  split
  · rename_i g h
    simp [h]
  · rename_i k' h
    by_cases hk : k = k'
    · simp [h, hk]
    · rw [State.modTcore_other _ _ _ _ hk, if_neg]
      simp [h, Ne.symm hk]

end Sys2Proof.Machine
end

