-- ==== Sys2Proof/Laws/Mem.lean ====
section
/-!
SUPPORT. Memory: every operation that writes it keeps its canonical form, writes the bytes it is given, and leaves every other
address alone (R298, log 1).
-/
namespace Sys2Proof.Machine

/-- Nothing listed is a canonical memory. -/
@[simp] theorem Memory.wf_nil : Memory.wf [] = true := rfl

theorem Memory.wf_setByte {m : List Host.Cell} (a : Nat) (b : Byte) (h : Memory.wf m = true) :
    Memory.wf (Memory.setByte m a b) = true := Tab.wf_set a b h

/-- Writing a byte string keeps the canonical form. -/
theorem Memory.wf_write : ∀ (l : List Byte) {m : List Host.Cell} (a : Nat), Memory.wf m = true →
    Memory.wf (Memory.write m a l) = true
  | [], _, _, h => h
  | b :: l, _, a, h => Memory.wf_write l (a + 1) (Memory.wf_setByte a b h)

/-- Committing a speculative buffer keeps the canonical form. -/
theorem Memory.wf_writeBuf : ∀ (l : Tab (Option Byte)) {m : List Host.Cell}, Memory.wf m = true →
    Memory.wf (writeBuf m l) = true
  | [], _, h => h
  | (a, some x) :: l, _, h => by
    simp only [writeBuf]
    split
    · exact Memory.wf_writeBuf l h
    · exact Memory.wf_writeBuf l (Memory.wf_setByte a x h)
  | (_, none) :: l, _, h => by
    simp only [writeBuf]
    exact Memory.wf_writeBuf l h

@[simp] theorem Memory.byte_setByte_same (m : List Host.Cell) (a : Nat) (b : Byte) :
    Memory.byte (Memory.setByte m a b) a = b := Tab.get_set_same _ _ _

theorem Memory.byte_setByte_other (m : List Host.Cell) (a j : Nat) (b : Byte) (h : j ≠ a) :
    Memory.byte (Memory.setByte m a b) j = Memory.byte m j := Tab.get_set_other _ _ _ _ h

/-- A byte outside a written range reads as before. -/
theorem Memory.byte_write_other : ∀ (l : List Byte) (m : List Host.Cell) (a j : Nat), j < a ∨ a + l.length ≤ j →
    Memory.byte (Memory.write m a l) j = Memory.byte m j
  | [], _, _, _, _ => rfl
  | b :: l, m, a, j, h => by
    have hl : (b :: l).length = l.length + 1 := rfl
    rw [Memory.write, Memory.byte_write_other l _ (a + 1) j (by omega), Memory.byte_setByte_other _ _ _ _ (by omega)]

/-- A byte of a written range reads as written. -/
theorem Memory.byte_write : ∀ (l : List Byte) (m : List Host.Cell) (a k : Nat) (b : Byte), l[k]? = some b →
    Memory.byte (Memory.write m a l) (a + k) = b
  | [], _, _, _, _, h => by simp at h
  | c :: l, m, a, 0, b, h => by
    have hb : c = b := by simpa using h
    rw [Memory.write, Memory.byte_write_other _ _ _ _ (by omega)]
    exact (Memory.byte_setByte_same m a c).trans hb
  | c :: l, m, a, k + 1, b, h => by
    rw [Memory.write, show a + (k + 1) = a + 1 + k by omega]
    exact Memory.byte_write l _ (a + 1) k b (by simpa using h)

/-- What was written is what is read. -/
theorem Memory.read_write : ∀ (l : List Byte) (m : List Host.Cell) (a : Nat),
    Memory.read (Memory.write m a l) a l.length = l
  | [], _, _ => rfl
  | b :: l, m, a => by
    rw [List.length_cons, Memory.read, Memory.write, Memory.read_write l _ (a + 1),
      Memory.byte_write_other _ _ _ _ (by omega), Memory.byte_setByte_same]

/-- The bytes of a number. -/
@[simp] theorem leBytes_length : ∀ (n x : Nat), (leBytes n x).length = n
  | 0, _ => rfl
  | n + 1, x => by simp [leBytes, leBytes_length n]

/-- A number that fits comes back from its bytes (R69). -/
theorem leNat_leBytes : ∀ (n x : Nat), leNat (leBytes n x) = x % 256 ^ n
  | 0, x => by simp [leBytes, leNat, Nat.mod_one]
  | n + 1, x => by
    rw [leBytes, leNat, leNat_leBytes n, Nat.pow_succ', Nat.mod_mul]
    simp

end Sys2Proof.Machine
end

