-- ==== Sys2Proof/Laws/Ops.lean ====
section
/-!
SUPPORT. What the shared operations of Machine/Ops.lean and Machine/Mem.lean can do, said once each: the guards, waiting, taking an
exception, the checks of an access, loads, the store buffer, and a write at its home.
-/
namespace Sys2Proof.Machine

variable (s : State)

/-! ## Guards -/

theorem State.swarm_of_thread {g : Nat} (h : s.cur = .thread g) (k : Nat → Out) : s.swarm k = k g := by
  simp [State.swarm, h]

theorem State.swarm_of_core {c : Nat} (h : s.cur = .core c) (k : Nat → Out) : s.swarm k = s.und := by
  simp [State.swarm, h]

theorem State.tileMode_of_core {c : Nat} (h : s.cur = .core c) (k : Nat → Out) : s.tileMode k = k c := by
  simp [State.tileMode, h]

theorem State.tileMode_of_thread {g : Nat} (h : s.cur = .thread g) (k : Nat → Out) : s.tileMode k = s.und := by
  simp [State.tileMode, h]

theorem State.super_of_sv {g : Nat} (h : s.cur = .thread g) (hv : (s.thread g).sv = true) (k : Nat → Out) :
    s.super k = k g := by
  simp [State.super, h, hv]

theorem State.super_of_user {g : Nat} (h : s.cur = .thread g) (hv : (s.thread g).sv = false) (k : Nat → Out) :
    s.super k = s.priv := by
  simp [State.super, h, hv]

theorem State.super_of_core {c : Nat} (h : s.cur = .core c) (k : Nat → Out) : s.super k = s.und := by
  simp [State.super, h]

/-- A form that does not run speculatively goes on at once, goes plain first, or waits (R116, R344). -/
theorem State.plainly_cases (k : State → Out) :
    s.plainly k = k s ∨ (∃ g, s.cur = .thread g ∧ s.isOldest g = true ∧ s.plainly k = k (s.goPlain g)) ∨ s.plainly k = s.wait := by
  unfold State.plainly
  split
  · rename_i g h
    split
    · split
      · rename_i ho
        exact .inr (.inl ⟨g, h, ho, rfl⟩)
      · exact .inr (.inr rfl)
    · exact .inl rfl
  · exact .inl rfl

theorem State.plainly_of_plain {g : Nat} (h : s.cur = .thread g) (hs : (s.thread g).spec = false) (k : State → Out) :
    s.plainly k = k s := by
  simp [State.plainly, h, hs]

/-! ## Waiting (R282) -/

@[simp] theorem State.markWait_mem : s.markWait.mem = s.mem := by
  unfold State.markWait; split <;> rfl
@[simp] theorem State.markWait_dev : s.markWait.dev = s.dev := by
  unfold State.markWait; split <;> rfl
@[simp] theorem State.markWait_blks : s.markWait.blks = s.blks := by
  unfold State.markWait; split <;> rfl
@[simp] theorem State.markWait_fields : s.markWait.fields = s.fields := by
  unfold State.markWait; split <;> rfl
@[simp] theorem State.markWait_tcores : s.markWait.tcores = s.tcores := by
  unfold State.markWait; split <;> rfl
@[simp] theorem State.markWait_tiles : s.markWait.tiles = s.tiles := by
  unfold State.markWait; split <;> rfl
@[simp] theorem State.markWait_fate : s.markWait.iss.fate = .waiting := by
  unfold State.markWait; split <;> rfl

/-- Waiting changes no register of any thread. -/
@[simp] theorem State.markWait_ctx (g : Nat) : (s.markWait.thread g).ctx = (s.thread g).ctx := by
  unfold State.markWait
  split
  · rename_i g' h
    by_cases hg : g = g'
    · subst hg; rw [State.modThread_same]; rfl
    · rw [State.modThread_other _ _ _ _ hg]; rfl
  · rfl

/-! ## Register writes of the unit in hand leave memory and the rest -/

@[simp] theorem State.wS_mem (d : SReg) (x : Word) : (s.wS d x).mem = s.mem := by simp [State.wS]
@[simp] theorem State.wV_mem (d : VReg) (x : VWord) : (s.wV d x).mem = s.mem := by simp [State.wV]
@[simp] theorem State.wVm_mem (d : VReg) (m : PWord) (x : VWord) : (s.wVm d m x).mem = s.mem := by simp [State.wVm]
@[simp] theorem State.wP_mem (d : PReg) (x : PWord) : (s.wP d x).mem = s.mem := by simp [State.wP]
@[simp] theorem State.orFlags_mem (f : BitVec 5) : (s.orFlags f).mem = s.mem := by simp [State.orFlags]
@[simp] theorem State.long_mem (p : Pending) : (s.long p).mem = s.mem := by simp [State.long]
@[simp] theorem State.longS_mem (d : SReg) (x : Word) : (s.longS d x).mem = s.mem := by simp [State.longS]
@[simp] theorem State.longV_mem (d : VReg) (m : PWord) (x : VWord) (f : BitVec 5) : (s.longV d m x f).mem = s.mem := by
  simp [State.longV]

/-- A long result enters the return buffer behind those that are there, with the bundle's window (R72, R279). -/
@[simp] theorem State.long_pend (p : Pending) : (s.long p).ctx.pend = s.ctx.pend ++ [{ p with left := s.iss.la }] := by
  simp [State.long]

@[simp] theorem State.long_s (p : Pending) : (s.long p).ctx.s = s.ctx.s := by simp [State.long]
@[simp] theorem State.long_v (p : Pending) : (s.long p).ctx.v = s.ctx.v := by simp [State.long]
@[simp] theorem State.long_p (p : Pending) : (s.long p).ctx.p = s.ctx.p := by simp [State.long]

/-! ## Taking an exception (R35, R192) -/

@[simp] theorem State.taken_mem : s.taken.mem = s.mem := rfl
@[simp] theorem State.taken_fate : s.taken.iss.fate = .taken := rfl
@[simp] theorem State.taken_thread (g : Nat) : s.taken.thread g = s.thread g := rfl
@[simp] theorem State.addRec_mem (f : Nat) (r : FRec) : (s.addRec f r).mem = s.mem := rfl
@[simp] theorem State.addRec_thread (f g : Nat) (r : FRec) : (s.addRec f r).thread g = s.thread g := rfl
@[simp] theorem State.addNotice_mem (f : Nat) (r : FRec) : (s.addNotice f r).mem = s.mem := rfl

@[simp] theorem State.tileNotice_mem (t cls sub : Nat) (cause : BitVec 8) (halt : Bool) (route : Nat) (va pos : Word)
    (ticket : BitVec 32) (aux : Word) : (s.tileNotice t cls sub cause halt route va pos ticket aux).mem = s.mem := rfl

@[simp] theorem State.haltFault_mem (k : Nat) (cause : BitVec 8) (route : Nat) : (s.haltFault k cause route).mem = s.mem := rfl

@[simp] theorem State.handlerHalt_mem (g : Nat) : (s.handlerHalt g).mem = s.mem := rfl

@[simp] theorem State.handlerFetch_mem (g : Nat) : (s.handlerFetch g).mem = s.mem := by
  unfold State.handlerFetch; split <;> rfl

@[simp] theorem State.reported_mem (g : Nat) (cm : Bool) : (s.reported g cm).mem = s.mem := by
  unfold State.reported; split <;> rfl

/-- A trap writes no memory. -/
@[simp] theorem State.trapEntry_mem (g : Nat) (cause : BitVec 8) (ev : Word) (slotB cm : Bool) :
    (s.trapEntry g cause ev slotB cm).mem = s.mem := by
  simp [State.trapEntry]

/-- A thread that a fetch fault of its handler halts (R38). -/
def Thread.handlerHalted (t : Thread) : Thread := { t with run := .halted, atIssue := false, walked := none, fetchw := none }

/-- A handler that cannot be fetched halts the thread and changes no register of it (R38). -/
theorem State.handlerFetch_thread (g : Nat) :
    (s.handlerFetch g).thread g = s.thread g ∨ (s.handlerFetch g).thread g = (s.thread g).handlerHalted := by
  unfold State.handlerFetch State.handlerHalt
  split
  · exact .inl rfl
  · exact .inr (by simp [Thread.handlerHalted])

/-- A trap's report leaves the thread or clears its record of a lost link (R134). -/
theorem State.reported_thread (g : Nat) (cm : Bool) :
    (s.reported g cm).thread g = { s.thread g with lkl := if s.iss.report && !cm then none else (s.thread g).lkl } := by
  unfold State.reported
  split <;> simp_all

/-- The registers of a thread after a trap: those of Thread.trapped, running or halted for want of a handler (R35, R38). -/
theorem State.trapEntry_thread (g : Nat) (cause : BitVec 8) (ev : Word) (slotB cm : Bool) :
    ∃ t : Thread,
      t = { (s.thread g).trapped cause ev slotB cm with lkl := if s.iss.report && !cm then none else (s.thread g).lkl } ∧
      ((s.trapEntry g cause ev slotB cm).thread g = t ∨ (s.trapEntry g cause ev slotB cm).thread g = t.handlerHalted) := by
  refine ⟨_, rfl, ?_⟩
  have h := ((s.modThread g fun t => t.trapped cause ev slotB cm).reported g cm).handlerFetch_thread g
  rw [State.reported_thread] at h
  simpa [State.trapEntry, Thread.trapped] using h

/-- A precise trap: a speculative task aborts, a thread whose results are all there takes its trap (the first that a result carries,
else its own), and any other thread waits. -/
theorem State.trapThread_cases (g : Nat) (cause : BitVec 8) (ev : Word) (slotB : Bool) :
    ((s.thread g).spec = true ∧ s.trapThread g cause ev slotB = (s.abortPark g).taken) ∨
    ((s.thread g).spec = false ∧ (s.thread g).ctx.pend.all Pending.ready = false ∧ s.trapThread g cause ev slotB = s.markWait) ∨
    (∃ c e b m, (s.thread g).spec = false ∧ (s.thread g).ctx.pend.all Pending.ready = true ∧
      (firstFault (s.thread g).ctx.pend = some (c, e) ∧ b = false ∧ m = true ∨
        firstFault (s.thread g).ctx.pend = none ∧ c = cause ∧ e = ev ∧ b = slotB ∧ m = false) ∧
      s.trapThread g cause ev slotB = (s.modThread g fun t => { t with ctx := t.ctx.close }).trapEntry g c e b m) := by
  unfold State.trapThread
  simp only
  split
  · rename_i h
    exact .inl ⟨h, rfl⟩
  · rename_i h
    have h' : (s.thread g).spec = false := by simpa using h
    split
    · rename_i hp
      split
      · rename_i c e hf
        exact .inr (.inr ⟨c, e, false, true, h', hp, .inl ⟨hf, rfl, rfl⟩, rfl⟩)
      · rename_i hf
        exact .inr (.inr ⟨cause, ev, slotB, false, h', hp, .inr ⟨hf, rfl, rfl, rfl, rfl⟩, rfl⟩)
    · rename_i hp
      exact .inr (.inl ⟨h', by simpa using hp, rfl⟩)

/-- Raising an exception always answers a next state. -/
theorem State.raise_thread {g : Nat} (h : s.cur = .thread g) (cause : BitVec 8) (ev : Word) (b : Bool) :
    s.raise cause ev b = .next (s.trapThread g cause ev b) := by
  simp [State.raise, h]

theorem State.raise_core {k : Nat} (h : s.cur = .core k) (cause : BitVec 8) (ev : Word) (b : Bool) :
    s.raise cause ev b = .next (s.haltFault k cause 0) := by
  simp [State.raise, h]

/-! ## Accesses (R111, R112, R304, R420) -/

/-- An access that answers has passed its checks and gone on, or waits, or meets the exception of its check. -/
theorem State.access_cases (g : Nat) (ea : Word) (n align : Nat) (rd wr : Bool) (form : NeedForm) (locks : Bool) (k : Phys → Out) :
    (∃ p, s.check g ea n align (s.need g rd wr form) locks = .ok p ∧ s.heldBack g = false ∧ s.atEdge p = none ∧
      s.access g ea n align rd wr form locks k = k p) ∨
    s.access g ea n align rd wr form locks k = s.wait ∨
    (∃ b, s.access g ea n align rd wr form locks k = (s.wakeBlk b).wait) ∨
    s.access g ea n align rd wr form locks k = s.waitWalk g ea.toNat (if wr then .write else .read) ∨
    (∃ c, s.check g ea n align (s.need g rd wr form) locks = .bad c ∧
      s.access g ea n align rd wr form locks k = s.xlFault c ea) := by
  unfold State.access
  split
  · rename_i p hp
    split
    · exact .inr (.inl rfl)
    · rename_i hh
      split
      · rename_i b _
        exact .inr (.inr (.inl ⟨b, rfl⟩))
      · rename_i he
        exact .inl ⟨p, hp, by simpa using hh, he, rfl⟩
  · exact .inr (.inr (.inr (.inl rfl)))
  · rename_i c hc
    exact .inr (.inr (.inr (.inr ⟨c, hc, rfl⟩)))

theorem State.access_of_ok {g : Nat} {ea : Word} {n align : Nat} {rd wr : Bool} {form : NeedForm} {locks : Bool} {p : Phys}
    (h : s.check g ea n align (s.need g rd wr form) locks = .ok p) (hb : s.heldBack g = false) (he : s.atEdge p = none)
    (k : Phys → Out) : s.access g ea n align rd wr form locks k = k p := by
  simp [State.access, h, hb, he]

/-- An access whose checks pass is below 2^52, aligned, and overlaps no range lock that holds it (R111, R112). -/
theorem State.check_ok {g : Nat} {ea : Word} {n align : Nat} {need : Need} {locks : Bool} {p : Phys}
    (h : s.check g ea n align need locks = .ok p) :
    ea.toNat < 2 ^ 52 ∧ ea.toNat % align = 0 ∧ s.xlThread g ea.toNat need = .ok p ∧
      (locks = true → s.locked ea.toNat n = false) := by
  unfold State.check at h
  split at h
  · cases h
  · rename_i h1
    split at h
    · cases h
    · rename_i h2
      split at h
      · cases h
      · cases h
      · rename_i q hq
        split at h
        · cases h
        · rename_i hl
          injection h with h
          subst h
          refine ⟨by omega, by omega, hq, fun ht => ?_⟩
          subst ht
          simpa using hl

/-- An unaligned access below 2^52 meets ALIGN (R304). -/
theorem State.check_align {g : Nat} {ea : Word} {n align : Nat} {need : Need} {locks : Bool} (h : ea.toNat < 2 ^ 52)
    (ha : ea.toNat % align ≠ 0) : s.check g ea n align need locks = .bad cALIGN := by
  have h' : ¬ ea.toNat ≥ 2 ^ 52 := by omega
  simp only [State.check, if_neg h', if_pos ha]

/-! ## Loads and the store buffer (R113 to R115) -/

/-- A load of a thread that is not speculative: it waits, or takes the forwarded value, or is performed at its home, here or by another
device. -/
theorem State.loadN_plain {g : Nat} (hs : (s.thread g).spec = false) (p : Phys) (n : Nat) (k : State → Nat → Out) (far : Nat → Out) :
    (forward (s.thread g).sb p n = .wait ∧ s.loadN g p n k far = s.wait) ∨
    (∃ x, forward (s.thread g).sb p n = .val x ∧ s.loadN g p n k far = k s x) ∨
    (forward (s.thread g).sb p n = .mem ∧
      ((∃ d, p.home = .remote d ∧ s.loadN g p n k far = far d) ∨ s.loadN g p n k far = k s (s.homeRead p n))) := by
  have h : s.loadN g p n k far = (match forward (s.thread g).sb p n with
      | .wait => s.wait
      | .val x => k s x
      | .mem => match p.home with
        | .remote dev => far dev
        | .dram | .aperture | .regs | .host => k s (s.homeRead p n)) := by
    unfold State.loadN
    rw [hs]
    split
    · simp_all
    · rfl
  rw [h]
  cases hf : forward (s.thread g).sb p n with
  | wait => exact .inl ⟨rfl, rfl⟩
  | val x => exact .inr (.inl ⟨x, rfl, rfl⟩)
  | mem =>
    refine .inr (.inr ⟨rfl, ?_⟩)
    cases hp : p.home with
    | remote d => exact .inl ⟨d, rfl, rfl⟩
    | dram | aperture | regs | host => exact .inr rfl

/-- With nothing buffered, nothing is forwarded. -/
@[simp] theorem forward_nil (p : Phys) (n : Nat) : forward [] p n = .mem := rfl

/-- Entering stores: all of them, in order, behind those that are there, or the bundle waits (R113). -/
theorem State.buffer_cases (g : Nat) (es : List SbEntry) :
    ((s.thread g).sb.length + es.length ≤ 16 ∧
      s.buffer g es = .next (s.modThread g fun t => { t with sb := t.sb ++ es })) ∨
    ((s.thread g).sb.length + es.length > 16 ∧ s.buffer g es = s.wait) := by
  unfold State.buffer
  split
  · rename_i h
    exact .inr ⟨h, rfl⟩
  · rename_i h
    exact .inl ⟨by omega, rfl⟩

theorem State.stores_of_plain {g : Nat} (hs : (s.thread g).spec = false) (es : List SbEntry) : s.stores g es = s.buffer g es := by
  unfold State.stores
  rw [hs]
  split
  · simp_all
  · rfl

/-! ## Writes at a home (R113, R121, R360) -/

@[simp] theorem State.noteWrite_mem (by_ : Option Nat) (task : Option (Nat × Nat)) (pa n : Nat) :
    (s.noteWrite by_ task pa n).mem = s.mem := rfl
@[simp] theorem State.staleWhere_mem (f : Nat → Bool) : (s.staleWhere f).mem = s.mem := rfl

@[simp] theorem State.forgetMail_mem (touch : Nat → Bool) : (s.forgetMail touch).mem = s.mem := by
  unfold State.forgetMail
  split <;> rfl

/-- A write of no mailbox's header leaves its own bytes. -/
theorem State.shielded_of_no_mails {pa : Nat} {l : List Byte} (h : s.dev.mails = []) : s.shielded pa l = l := by
  simp [State.shielded, h]

theorem State.endSync_of_no_sync {pa n : Nat} (h : s.dev.syncq = []) : s.endSync pa n = s := by simp [State.endSync, h]

/-- With no watch table, no mailbox in use and nothing landing at a sync word, a write at a home other than the registers changes memory
at its bytes alone. -/
theorem State.performWrite_mem {by_ : Option Nat} {task : Option (Nat × Nat)} {p : Phys} {va : Nat} {l : List Byte}
    (h : p.home ≠ .regs) (hw : s.dev.wtbase = 0) (hm : s.dev.mails = []) (hq : s.dev.syncq = []) :
    (s.performWrite by_ task p va l).mem = Memory.write s.mem p.pa l := by
  have hwatch : ∀ a b c d, s.watch a b c d = s := fun a b c d => by simp [State.watch, hw]
  rw [State.performWrite, State.shielded_of_no_mails s hm, State.forgetMail_mem]
  unfold State.writeAt
  split
  · exact absurd ‹_› h
  · simp only [State.endSync_of_no_sync s hq, hwatch]; rfl
  · simp only [State.endSync_of_no_sync s hq, hwatch]; rfl
  · simp only [State.endSync_of_no_sync s hq, hwatch]; rfl
  · simp only [State.endSync_of_no_sync s hq, hwatch]; rfl

end Sys2Proof.Machine
end

