-- ==== Sys2Proof/Laws/PerInstr.lean ====
section
/-!
SUPPORT. One lemma per constructor of `Instr`: where its words stand. A family of R78 to R84 stands in slot A, with or without the
extension, a vector form in slot B, and an event has no words.
-/
namespace Sys2Proof.Laws.Slots

open Sys2Proof

/-- The places of an instruction's words. -/
inductive Place where
  | a | b | none
  deriving DecidableEq, Repr

/-- Where each form stands (R69, R76). -/
def place : Instr → Place
  | .vnop | .vadd .. | .vsub .. | .vmul .. | .vfma .. | .vmin .. | .vmax .. | .vabs .. | .vneg .. | .vdiv .. | .vsqrt ..
  | .vrsqrt .. | .vrcp .. | .vexp2 .. | .vlog2 .. | .vcmpEq .. | .vcmpNe .. | .vcmpLt .. | .vcmpLe .. | .vcmpUn ..
  | .vsel .. | .vand .. | .vor .. | .vxor .. | .vshl .. | .vshr .. | .vsra .. | .vcvt .. | .vpack .. | .vunpk ..
  | .vredSum .. | .vredMin .. | .vredMax .. | .vperm .. | .vbcast .. | .vmovs .. | .vscale .. | .vquantS .. | .vquant ..
  | .vclass .. | .vgstep .. | .vgmask .. => .b
  | .undBundle .. | .tlbWalk .. | .resultCommit .. | .windowForcedClose .. | .completionDiversion ..
  | .preemptHaltTaken .. | .threadWake .. | .wfitDeadline .. | .storePerform .. | .remoteAck .. | .combineWindowExpiry ..
  | .recordArrival .. | .rotundaAdmit .. | .recordPromotion .. | .taskConflictAbort .. | .taskPlainRestart ..
  | .taskCommit .. | .commandEntry .. | .busyRetry .. | .gateOpen .. | .transferStart .. | .transferWrite ..
  | .rangeLockRelease .. | .transferCompletion .. | .viaTransferFinish .. | .syncUpdateCycle .. | .syncCarryEval ..
  | .flitForward .. | .portTokenArrival .. | .streamerSend .. | .ringPlace .. | .placingAreaWrite ..
  | .inboundStreamerWrite .. | .converterFiring .. | .adderPair .. | .agenLoadToken .. | .agenStoreToken ..
  | .doneArrival .. | .matrixOpStart .. | .matrixOpEnd .. | .stallLimit .. | .contextSwitch .. | .configurationFlit ..
  | .spliceSwitch .. | .spliceMarker .. | .escapeReentry .. | .graphEnd .. | .faultNotice .. | .faultRecordWrite ..
  | .futureResolve .. | .compileStart .. | .compileEnd .. | .mailboxWrite .. | .invokeRetry .. | .invokeTimeout ..
  | .replyResend .. | .answerFrame .. | .packetReceive .. | .frameReceive .. | .retryRequest .. | .idleFrame ..
  | .frameForward .. | .portRetrain .. | .portDown .. | .downPortRetrain .. | .campanileSlew .. | .clockStretch ..
  | .powerGate .. | .blockWake .. | .bucketRefill | .effAdjust .. | .thermalShutdown .. | .coldReset | .phaseComplete ..
  | .pcieHotReset .. | .postingWrite .. | .spillDraw .. | .replyRingWrite .. | .replyRingRetry .. | .bar2Read ..
  | .bar2Write .. | .setWrite .. | .fqbaseWrite .. | .watchConfigWrite .. | .registerWrite .. | .graphLoad | .graphUnload
  | .verifyImage | .attestationReport | .jobStart | .jobEnd | .plannedRetirement .. | .failedRetirement ..
  | .supplyDroopEnd .. | .retrainComplete .. | .spdmRequest .. => .none
  | _ => .a

/-- An instruction's words stand where its form puts them. -/
def Statement (i : Instr) : Prop :=
  match place i with
  | .a => ∃ w x, encode i = some (.a w x)
  | .b => ∃ w, encode i = some (.b w)
  | .none => encode i = Option.none

/-- An immediate, short or extended, is a slot-A form. -/
theorem ri_slot (op d a : Nat) (i : Imm) : ∃ w x, some (ri op d a i) = some (Enc.a w x) := by cases i <;> exact ⟨_, _, rfl⟩
/-- A shift, short or extended, is a slot-A form. -/
theorem rx_slot (op d a n : Nat) (e : Bool) : ∃ w x, some (rx op d a n e) = some (Enc.a w x) := by cases e <;> exact ⟨_, _, rfl⟩

theorem add : ∀ d a b, Statement (.add d a b) := fun _ _ _ => ⟨_, _, rfl⟩
theorem sub : ∀ d a b, Statement (.sub d a b) := fun _ _ _ => ⟨_, _, rfl⟩
theorem and : ∀ d a b, Statement (.and d a b) := fun _ _ _ => ⟨_, _, rfl⟩
theorem or : ∀ d a b, Statement (.or d a b) := fun _ _ _ => ⟨_, _, rfl⟩
theorem xor : ∀ d a b, Statement (.xor d a b) := fun _ _ _ => ⟨_, _, rfl⟩
theorem andn : ∀ d a b, Statement (.andn d a b) := fun _ _ _ => ⟨_, _, rfl⟩
theorem sll : ∀ d a b, Statement (.sll d a b) := fun _ _ _ => ⟨_, _, rfl⟩
theorem srl : ∀ d a b, Statement (.srl d a b) := fun _ _ _ => ⟨_, _, rfl⟩
theorem sra : ∀ d a b, Statement (.sra d a b) := fun _ _ _ => ⟨_, _, rfl⟩
theorem rol : ∀ d a b, Statement (.rol d a b) := fun _ _ _ => ⟨_, _, rfl⟩
theorem ror : ∀ d a b, Statement (.ror d a b) := fun _ _ _ => ⟨_, _, rfl⟩
theorem mul : ∀ d a b, Statement (.mul d a b) := fun _ _ _ => ⟨_, _, rfl⟩
theorem mulh : ∀ d a b, Statement (.mulh d a b) := fun _ _ _ => ⟨_, _, rfl⟩
theorem mulhu : ∀ d a b, Statement (.mulhu d a b) := fun _ _ _ => ⟨_, _, rfl⟩
theorem mulhsu : ∀ d a b, Statement (.mulhsu d a b) := fun _ _ _ => ⟨_, _, rfl⟩
theorem div : ∀ d a b, Statement (.div d a b) := fun _ _ _ => ⟨_, _, rfl⟩
theorem divu : ∀ d a b, Statement (.divu d a b) := fun _ _ _ => ⟨_, _, rfl⟩
theorem rem : ∀ d a b, Statement (.rem d a b) := fun _ _ _ => ⟨_, _, rfl⟩
theorem remu : ∀ d a b, Statement (.remu d a b) := fun _ _ _ => ⟨_, _, rfl⟩
theorem min : ∀ d a b, Statement (.min d a b) := fun _ _ _ => ⟨_, _, rfl⟩
theorem max : ∀ d a b, Statement (.max d a b) := fun _ _ _ => ⟨_, _, rfl⟩
theorem minu : ∀ d a b, Statement (.minu d a b) := fun _ _ _ => ⟨_, _, rfl⟩
theorem maxu : ∀ d a b, Statement (.maxu d a b) := fun _ _ _ => ⟨_, _, rfl⟩
theorem slt : ∀ d a b, Statement (.slt d a b) := fun _ _ _ => ⟨_, _, rfl⟩
theorem sltu : ∀ d a b, Statement (.sltu d a b) := fun _ _ _ => ⟨_, _, rfl⟩
theorem seq : ∀ d a b, Statement (.seq d a b) := fun _ _ _ => ⟨_, _, rfl⟩
theorem sel : ∀ d a b, Statement (.sel d a b) := fun _ _ _ => ⟨_, _, rfl⟩
theorem clz : ∀ d a, Statement (.clz d a) := fun _ _ => ⟨_, _, rfl⟩
theorem ctz : ∀ d a, Statement (.ctz d a) := fun _ _ => ⟨_, _, rfl⟩
theorem popc : ∀ d a, Statement (.popc d a) := fun _ _ => ⟨_, _, rfl⟩
theorem brev : ∀ d a, Statement (.brev d a) := fun _ _ => ⟨_, _, rfl⟩
theorem bswap : ∀ d a, Statement (.bswap d a) := fun _ _ => ⟨_, _, rfl⟩
theorem sextB : ∀ d a, Statement (.sextB d a) := fun _ _ => ⟨_, _, rfl⟩
theorem sextH : ∀ d a, Statement (.sextH d a) := fun _ _ => ⟨_, _, rfl⟩
theorem sextW : ∀ d a, Statement (.sextW d a) := fun _ _ => ⟨_, _, rfl⟩
theorem zextB : ∀ d a, Statement (.zextB d a) := fun _ _ => ⟨_, _, rfl⟩
theorem zextH : ∀ d a, Statement (.zextH d a) := fun _ _ => ⟨_, _, rfl⟩
theorem zextW : ∀ d a, Statement (.zextW d a) := fun _ _ => ⟨_, _, rfl⟩
theorem addi : ∀ d a imm, Statement (.addi d a imm) := fun _ _ _ => ri_slot _ _ _ _
theorem andi : ∀ d a imm, Statement (.andi d a imm) := fun _ _ _ => ri_slot _ _ _ _
theorem ori : ∀ d a imm, Statement (.ori d a imm) := fun _ _ _ => ri_slot _ _ _ _
theorem xori : ∀ d a imm, Statement (.xori d a imm) := fun _ _ _ => ri_slot _ _ _ _
theorem slli : ∀ d a sh ext, Statement (.slli d a sh ext) := fun _ _ _ _ => rx_slot _ _ _ _ _
theorem srli : ∀ d a sh ext, Statement (.srli d a sh ext) := fun _ _ _ _ => rx_slot _ _ _ _ _
theorem srai : ∀ d a sh ext, Statement (.srai d a sh ext) := fun _ _ _ _ => rx_slot _ _ _ _ _
theorem roli : ∀ d a sh ext, Statement (.roli d a sh ext) := fun _ _ _ _ => rx_slot _ _ _ _ _
theorem slti : ∀ d a imm, Statement (.slti d a imm) := fun _ _ _ => ri_slot _ _ _ _
theorem sltiu : ∀ d a imm, Statement (.sltiu d a imm) := fun _ _ _ => ri_slot _ _ _ _
theorem seqi : ∀ d a imm, Statement (.seqi d a imm) := fun _ _ _ => ri_slot _ _ _ _
theorem muli : ∀ d a imm, Statement (.muli d a imm) := fun _ _ _ => ri_slot _ _ _ _
theorem bext : ∀ d a pos wm1, Statement (.bext d a pos wm1) := fun _ _ _ _ => ⟨_, _, rfl⟩
theorem bextu : ∀ d a pos wm1, Statement (.bextu d a pos wm1) := fun _ _ _ _ => ⟨_, _, rfl⟩
theorem bins : ∀ d a pos wm1, Statement (.bins d a pos wm1) := fun _ _ _ _ => ⟨_, _, rfl⟩
theorem lea : ∀ d a b sh, Statement (.lea d a b sh) := fun _ _ _ _ => ⟨_, _, rfl⟩
theorem movi : ∀ d imm, Statement (.movi d imm) := fun _ _ => ri_slot _ _ _ _
theorem movt : ∀ d a imm23, Statement (.movt d a imm23) := fun _ _ _ => ri_slot _ _ _ _
theorem lui : ∀ d off, Statement (.lui d off) := fun _ _ => ⟨_, _, rfl⟩
theorem addpc : ∀ d off, Statement (.addpc d off) := fun _ _ => ⟨_, _, rfl⟩
theorem addpg : ∀ d off, Statement (.addpg d off) := fun _ _ => ⟨_, _, rfl⟩
theorem beq : ∀ a b off, Statement (.beq a b off) := fun _ _ _ => ri_slot _ _ _ _
theorem bne : ∀ a b off, Statement (.bne a b off) := fun _ _ _ => ri_slot _ _ _ _
theorem blt : ∀ a b off, Statement (.blt a b off) := fun _ _ _ => ri_slot _ _ _ _
theorem bge : ∀ a b off, Statement (.bge a b off) := fun _ _ _ => ri_slot _ _ _ _
theorem bltu : ∀ a b off, Statement (.bltu a b off) := fun _ _ _ => ri_slot _ _ _ _
theorem bgeu : ∀ a b off, Statement (.bgeu a b off) := fun _ _ _ => ri_slot _ _ _ _
theorem jmp : ∀ off, Statement (.jmp off) := fun _ => ⟨_, _, rfl⟩
theorem jal : ∀ d off, Statement (.jal d off) := fun _ _ => ⟨_, _, rfl⟩
theorem jalr : ∀ d a imm, Statement (.jalr d a imm) := fun _ _ _ => ri_slot _ _ _ _
theorem loop : ∀ a off, Statement (.loop a off) := fun _ _ => ri_slot _ _ _ _
theorem bany : ∀ p off, Statement (.bany p off) := fun _ _ => ri_slot _ _ _ _
theorem bnone : ∀ p off, Statement (.bnone p off) := fun _ _ => ri_slot _ _ _ _
theorem ldb : ∀ d a imm, Statement (.ldb d a imm) := fun _ _ _ => ri_slot _ _ _ _
theorem ldbu : ∀ d a imm, Statement (.ldbu d a imm) := fun _ _ _ => ri_slot _ _ _ _
theorem ldh : ∀ d a imm, Statement (.ldh d a imm) := fun _ _ _ => ri_slot _ _ _ _
theorem ldhu : ∀ d a imm, Statement (.ldhu d a imm) := fun _ _ _ => ri_slot _ _ _ _
theorem ldw : ∀ d a imm, Statement (.ldw d a imm) := fun _ _ _ => ri_slot _ _ _ _
theorem ldwu : ∀ d a imm, Statement (.ldwu d a imm) := fun _ _ _ => ri_slot _ _ _ _
theorem ldd : ∀ d a imm, Statement (.ldd d a imm) := fun _ _ _ => ri_slot _ _ _ _
theorem stb : ∀ d a imm, Statement (.stb d a imm) := fun _ _ _ => ri_slot _ _ _ _
theorem sth : ∀ d a imm, Statement (.sth d a imm) := fun _ _ _ => ri_slot _ _ _ _
theorem stw : ∀ d a imm, Statement (.stw d a imm) := fun _ _ _ => ri_slot _ _ _ _
theorem std : ∀ d a imm, Statement (.std d a imm) := fun _ _ _ => ri_slot _ _ _ _
theorem vld : ∀ v a imm, Statement (.vld v a imm) := fun _ _ _ => ri_slot _ _ _ _
theorem vst : ∀ v a imm, Statement (.vst v a imm) := fun _ _ _ => ri_slot _ _ _ _
theorem vgather : ∀ v a o sh, Statement (.vgather v a o sh) := fun _ _ _ _ => ⟨_, _, rfl⟩
theorem vscatter : ∀ v a o sh, Statement (.vscatter v a o sh) := fun _ _ _ _ => ⟨_, _, rfl⟩
theorem pf : ∀ a imm, Statement (.pf a imm) := fun _ _ => ri_slot _ _ _ _
theorem acqL : ∀ d a imm, Statement (.acqL d a imm) := fun _ _ _ => ri_slot _ _ _ _
theorem relL : ∀ d a imm, Statement (.relL d a imm) := fun _ _ _ => ri_slot _ _ _ _
theorem amoAdd : ∀ d a b w32, Statement (.amoAdd d a b w32) := fun _ _ _ _ => ⟨_, _, rfl⟩
theorem amoSwap : ∀ d a b w32, Statement (.amoSwap d a b w32) := fun _ _ _ _ => ⟨_, _, rfl⟩
theorem amoCas : ∀ d a b w32, Statement (.amoCas d a b w32) := fun _ _ _ _ => ⟨_, _, rfl⟩
theorem amoMin : ∀ d a b w32 uns, Statement (.amoMin d a b w32 uns) := fun _ _ _ _ _ => ⟨_, _, rfl⟩
theorem amoMax : ∀ d a b w32 uns, Statement (.amoMax d a b w32 uns) := fun _ _ _ _ _ => ⟨_, _, rfl⟩
theorem amoAnd : ∀ d a b w32, Statement (.amoAnd d a b w32) := fun _ _ _ _ => ⟨_, _, rfl⟩
theorem amoOr : ∀ d a b w32, Statement (.amoOr d a b w32) := fun _ _ _ _ => ⟨_, _, rfl⟩
theorem amoXor : ∀ d a b w32, Statement (.amoXor d a b w32) := fun _ _ _ _ => ⟨_, _, rfl⟩
theorem waitR : ∀ d, Statement (.waitR d) := fun _ => ⟨_, _, rfl⟩
theorem redAdd : ∀ a b w32, Statement (.redAdd a b w32) := fun _ _ _ => ⟨_, _, rfl⟩
theorem redMin : ∀ a b w32 uns, Statement (.redMin a b w32 uns) := fun _ _ _ _ => ⟨_, _, rfl⟩
theorem redMax : ∀ a b w32 uns, Statement (.redMax a b w32 uns) := fun _ _ _ _ => ⟨_, _, rfl⟩
theorem redAnd : ∀ a b w32, Statement (.redAnd a b w32) := fun _ _ _ => ⟨_, _, rfl⟩
theorem redOr : ∀ a b w32, Statement (.redOr a b w32) := fun _ _ _ => ⟨_, _, rfl⟩
theorem redXor : ∀ a b w32, Statement (.redXor a b w32) := fun _ _ _ => ⟨_, _, rfl⟩
theorem redFaddW : ∀ a b, Statement (.redFaddW a b) := fun _ _ => ⟨_, _, rfl⟩
theorem fence : ∀ sc, Statement (.fence sc) := fun _ => ⟨_, _, rfl⟩
theorem ldAcq : ∀ d a imm, Statement (.ldAcq d a imm) := fun _ _ _ => ri_slot _ _ _ _
theorem stRel : ∀ d a imm, Statement (.stRel d a imm) := fun _ _ _ => ri_slot _ _ _ _
theorem spawn : ∀ d a q, Statement (.spawn d a q) := fun _ _ _ => ⟨_, _, rfl⟩
theorem spawnT : ∀ d a q, Statement (.spawnT d a q) := fun _ _ _ => ⟨_, _, rfl⟩
theorem callat : ∀ d a q, Statement (.callat d a q) := fun _ _ _ => ⟨_, _, rfl⟩
theorem invoke : ∀ d a q, Statement (.invoke d a q) := fun _ _ _ => ⟨_, _, rfl⟩
theorem invokeW : ∀ d a q, Statement (.invokeW d a q) := fun _ _ _ => ⟨_, _, rfl⟩
theorem invokeT : ∀ d a q, Statement (.invokeT d a q) := fun _ _ _ => ⟨_, _, rfl⟩
theorem quit : ∀ d a b, Statement (.quit d a b) := fun _ _ _ => ⟨_, _, rfl⟩
theorem reply : ∀ d a b, Statement (.reply d a b) := fun _ _ _ => ⟨_, _, rfl⟩
theorem recv : ∀ d a imm, Statement (.recv d a imm) := fun _ _ _ => ri_slot _ _ _ _
theorem abq : ∀ d, Statement (.abq d) := fun _ => ⟨_, _, rfl⟩
theorem xfer : ∀ d q port, Statement (.xfer d q port) := fun _ _ _ => ⟨_, _, rfl⟩
theorem pcomp : ∀ d q tile, Statement (.pcomp d q tile) := fun _ _ _ => ⟨_, _, rfl⟩
theorem syncSet : ∀ a b, Statement (.syncSet a b) := fun _ _ => ⟨_, _, rfl⟩
theorem syncArrive : ∀ d a b, Statement (.syncArrive d a b) := fun _ _ _ => ⟨_, _, rfl⟩
theorem syncWait : ∀ d a b, Statement (.syncWait d a b) := fun _ _ _ => ⟨_, _, rfl⟩
theorem fetcht : ∀ d job ext, Statement (.fetcht d job ext) := fun _ _ _ => rx_slot _ _ _ _ _
theorem fetchtLd : ∀ a job ext, Statement (.fetchtLd a job ext) := fun _ _ _ => rx_slot _ _ _ _ _
theorem fetchtQ : ∀ d job ext, Statement (.fetchtQ d job ext) := fun _ _ _ => rx_slot _ _ _ _ _
theorem rlq : ∀ d a b, Statement (.rlq d a b) := fun _ _ _ => ⟨_, _, rfl⟩
theorem acpy : ∀ a b, Statement (.acpy a b) := fun _ _ => ⟨_, _, rfl⟩
theorem srecv : ∀ v port, Statement (.srecv v port) := fun _ _ => ⟨_, _, rfl⟩
theorem ssend : ∀ v b et, Statement (.ssend v b et) := fun _ _ _ => ⟨_, _, rfl⟩
theorem smerge : ∀ v va vb k, Statement (.smerge v va vb k) := fun _ _ _ _ => ⟨_, _, rfl⟩
theorem ssplit : ∀ v va w, Statement (.ssplit v va w) := fun _ _ _ => ⟨_, _, rfl⟩
theorem sstop : ∀ level, Statement (.sstop level) := fun _ => ⟨_, _, rfl⟩
theorem ssteer : ∀ a, Statement (.ssteer a) := fun _ => ⟨_, _, rfl⟩
theorem speek : ∀ d port, Statement (.speek d port) := fun _ _ => ⟨_, _, rfl⟩
theorem spred : ∀ p port, Statement (.spred p port) := fun _ _ => ⟨_, _, rfl⟩
theorem rqpush : ∀ ring v b, Statement (.rqpush ring v b) := fun _ _ _ => ⟨_, _, rfl⟩
theorem rqpop : ∀ v ring b, Statement (.rqpop v ring b) := fun _ _ _ => ⟨_, _, rfl⟩
theorem esc : ∀ d v node, Statement (.esc d v node) := fun _ _ _ => ⟨_, _, rfl⟩
theorem escO : ∀ d v node, Statement (.escO d v node) := fun _ _ _ => ⟨_, _, rfl⟩
theorem ctxsw : ∀ n, Statement (.ctxsw n) := fun _ => ⟨_, _, rfl⟩
theorem mgPp : Statement (.mgPp) := ⟨_, _, rfl⟩
theorem mgPe : Statement (.mgPe) := ⟨_, _, rfl⟩
theorem mgEp : Statement (.mgEp) := ⟨_, _, rfl⟩
theorem mgEe : Statement (.mgEe) := ⟨_, _, rfl⟩
theorem mgGp : Statement (.mgGp) := ⟨_, _, rfl⟩
theorem mgGe : Statement (.mgGe) := ⟨_, _, rfl⟩
theorem mzero : Statement (.mzero) := ⟨_, _, rfl⟩
theorem mdrain : ∀ a v, Statement (.mdrain a v) := fun _ _ => ⟨_, _, rfl⟩
theorem mspx : ∀ a b, Statement (.mspx a b) := fun _ _ => ⟨_, _, rfl⟩
theorem mspxN : ∀ a b, Statement (.mspxN a b) := fun _ _ => ⟨_, _, rfl⟩
theorem mdset : ∀ imm, Statement (.mdset imm) := fun _ => ri_slot _ _ _ _
theorem mdadv : ∀ d, Statement (.mdadv d) := fun _ => ⟨_, _, rfl⟩
theorem mdadvR : ∀ d, Statement (.mdadvR d) := fun _ => ⟨_, _, rfl⟩
theorem trap : ∀ n, Statement (.trap n) := fun _ => ⟨_, _, rfl⟩
theorem eret : Statement (.eret) := ⟨_, _, rfl⟩
theorem uret : Statement (.uret) := ⟨_, _, rfl⟩
theorem csrr : ∀ d num, Statement (.csrr d num) := fun _ _ => ⟨_, _, rfl⟩
theorem csrw : ∀ num a, Statement (.csrw num a) := fun _ _ => ⟨_, _, rfl⟩
theorem wfi : Statement (.wfi) := ⟨_, _, rfl⟩
theorem wfit : ∀ a, Statement (.wfit a) := fun _ => ⟨_, _, rfl⟩
theorem tlbi : ∀ sc a b, Statement (.tlbi sc a b) := fun _ _ _ => ⟨_, _, rfl⟩
theorem icinv : ∀ sc a b, Statement (.icinv sc a b) := fun _ _ _ => ⟨_, _, rfl⟩
theorem ctxSave : ∀ d a imm, Statement (.ctxSave d a imm) := fun _ _ _ => ri_slot _ _ _ _
theorem ctxLoad : ∀ d a imm, Statement (.ctxLoad d a imm) := fun _ _ _ => ri_slot _ _ _ _
theorem preemptHalt : ∀ d a, Statement (.preemptHalt d a) := fun _ _ => ⟨_, _, rfl⟩
theorem preemptTrap : ∀ d a, Statement (.preemptTrap d a) := fun _ _ => ⟨_, _, rfl⟩
theorem preemptResume : ∀ d a, Statement (.preemptResume d a) := fun _ _ => ⟨_, _, rfl⟩
theorem halt : Statement (.halt) := ⟨_, _, rfl⟩
theorem vnop : Statement (.vnop) := ⟨_, rfl⟩
theorem vadd : ∀ p d a b ty, Statement (.vadd p d a b ty) := fun _ _ _ _ _ => ⟨_, rfl⟩
theorem vsub : ∀ p d a b ty, Statement (.vsub p d a b ty) := fun _ _ _ _ _ => ⟨_, rfl⟩
theorem vmul : ∀ p d a b ty, Statement (.vmul p d a b ty) := fun _ _ _ _ _ => ⟨_, rfl⟩
theorem vfma : ∀ p d a b ty, Statement (.vfma p d a b ty) := fun _ _ _ _ _ => ⟨_, rfl⟩
theorem vmin : ∀ p d a b ty, Statement (.vmin p d a b ty) := fun _ _ _ _ _ => ⟨_, rfl⟩
theorem vmax : ∀ p d a b ty, Statement (.vmax p d a b ty) := fun _ _ _ _ _ => ⟨_, rfl⟩
theorem vabs : ∀ p d a ty, Statement (.vabs p d a ty) := fun _ _ _ _ => ⟨_, rfl⟩
theorem vneg : ∀ p d a ty, Statement (.vneg p d a ty) := fun _ _ _ _ => ⟨_, rfl⟩
theorem vdiv : ∀ p d a b ty, Statement (.vdiv p d a b ty) := fun _ _ _ _ _ => ⟨_, rfl⟩
theorem vsqrt : ∀ p d a ty, Statement (.vsqrt p d a ty) := fun _ _ _ _ => ⟨_, rfl⟩
theorem vrsqrt : ∀ p d a ty, Statement (.vrsqrt p d a ty) := fun _ _ _ _ => ⟨_, rfl⟩
theorem vrcp : ∀ p d a ty, Statement (.vrcp p d a ty) := fun _ _ _ _ => ⟨_, rfl⟩
theorem vexp2 : ∀ p d a ty, Statement (.vexp2 p d a ty) := fun _ _ _ _ => ⟨_, rfl⟩
theorem vlog2 : ∀ p d a ty, Statement (.vlog2 p d a ty) := fun _ _ _ _ => ⟨_, rfl⟩
theorem vcmpEq : ∀ p pd a b ty, Statement (.vcmpEq p pd a b ty) := fun _ _ _ _ _ => ⟨_, rfl⟩
theorem vcmpNe : ∀ p pd a b ty, Statement (.vcmpNe p pd a b ty) := fun _ _ _ _ _ => ⟨_, rfl⟩
theorem vcmpLt : ∀ p pd a b ty, Statement (.vcmpLt p pd a b ty) := fun _ _ _ _ _ => ⟨_, rfl⟩
theorem vcmpLe : ∀ p pd a b ty, Statement (.vcmpLe p pd a b ty) := fun _ _ _ _ _ => ⟨_, rfl⟩
theorem vcmpUn : ∀ p pd a b ty, Statement (.vcmpUn p pd a b ty) := fun _ _ _ _ _ => ⟨_, rfl⟩
theorem vsel : ∀ p d a b, Statement (.vsel p d a b) := fun _ _ _ _ => ⟨_, rfl⟩
theorem vand : ∀ p d a b, Statement (.vand p d a b) := fun _ _ _ _ => ⟨_, rfl⟩
theorem vor : ∀ p d a b, Statement (.vor p d a b) := fun _ _ _ _ => ⟨_, rfl⟩
theorem vxor : ∀ p d a b, Statement (.vxor p d a b) := fun _ _ _ _ => ⟨_, rfl⟩
theorem vshl : ∀ p d a b ty, Statement (.vshl p d a b ty) := fun _ _ _ _ _ => ⟨_, rfl⟩
theorem vshr : ∀ p d a b ty, Statement (.vshr p d a b ty) := fun _ _ _ _ _ => ⟨_, rfl⟩
theorem vsra : ∀ p d a b ty, Statement (.vsra p d a b ty) := fun _ _ _ _ _ => ⟨_, rfl⟩
theorem vcvt : ∀ p d a src dst rtz, Statement (.vcvt p d a src dst rtz) := fun _ _ _ _ _ _ => ⟨_, rfl⟩
theorem vpack : ∀ d a b f, Statement (.vpack d a b f) := fun _ _ _ _ => ⟨_, rfl⟩
theorem vunpk : ∀ p d a f, Statement (.vunpk p d a f) := fun _ _ _ _ => ⟨_, rfl⟩
theorem vredSum : ∀ p d a ty, Statement (.vredSum p d a ty) := fun _ _ _ _ => ⟨_, rfl⟩
theorem vredMin : ∀ p d a ty, Statement (.vredMin p d a ty) := fun _ _ _ _ => ⟨_, rfl⟩
theorem vredMax : ∀ p d a ty, Statement (.vredMax p d a ty) := fun _ _ _ _ => ⟨_, rfl⟩
theorem vperm : ∀ p d a b, Statement (.vperm p d a b) := fun _ _ _ _ => ⟨_, rfl⟩
theorem vbcast : ∀ p d ty r, Statement (.vbcast p d ty r) := fun _ _ _ _ => ⟨_, rfl⟩
theorem vmovs : ∀ p d a dir lane ty r, Statement (.vmovs p d a dir lane ty r) := fun _ _ _ _ _ _ _ => ⟨_, rfl⟩
theorem vscale : ∀ p d a b ty, Statement (.vscale p d a b ty) := fun _ _ _ _ _ => ⟨_, rfl⟩
theorem vquantS : ∀ p d a b fmt, Statement (.vquantS p d a b fmt) := fun _ _ _ _ _ => ⟨_, rfl⟩
theorem vquant : ∀ p d a b fmt, Statement (.vquant p d a b fmt) := fun _ _ _ _ _ => ⟨_, rfl⟩
theorem vclass : ∀ p d a ty, Statement (.vclass p d a ty) := fun _ _ _ _ => ⟨_, rfl⟩
theorem vgstep : ∀ d a b, Statement (.vgstep d a b) := fun _ _ _ => ⟨_, rfl⟩
theorem vgmask : ∀ p d a b, Statement (.vgmask p d a b) := fun _ _ _ _ => ⟨_, rfl⟩
theorem undBundle : ∀ slotB, Statement (.undBundle slotB) := fun _ => rfl
theorem tlbWalk : ∀ blk j, Statement (.tlbWalk blk j) := fun _ _ => rfl
theorem resultCommit : ∀ u, Statement (.resultCommit u) := fun _ => rfl
theorem windowForcedClose : ∀ g, Statement (.windowForcedClose g) := fun _ => rfl
theorem completionDiversion : ∀ g, Statement (.completionDiversion g) := fun _ => rfl
theorem preemptHaltTaken : ∀ u, Statement (.preemptHaltTaken u) := fun _ => rfl
theorem threadWake : ∀ u, Statement (.threadWake u) := fun _ => rfl
theorem wfitDeadline : ∀ g, Statement (.wfitDeadline g) := fun _ => rfl
theorem storePerform : ∀ g, Statement (.storePerform g) := fun _ => rfl
theorem remoteAck : ∀ g delivered port, Statement (.remoteAck g delivered port) := fun _ _ _ => rfl
theorem combineWindowExpiry : ∀ blk j, Statement (.combineWindowExpiry blk j) := fun _ _ => rfl
theorem recordArrival : ∀ f, Statement (.recordArrival f) := fun _ => rfl
theorem rotundaAdmit : ∀ f, Statement (.rotundaAdmit f) := fun _ => rfl
theorem recordPromotion : ∀ f q, Statement (.recordPromotion f q) := fun _ _ => rfl
theorem taskConflictAbort : ∀ g, Statement (.taskConflictAbort g) := fun _ => rfl
theorem taskPlainRestart : ∀ g, Statement (.taskPlainRestart g) := fun _ => rfl
theorem taskCommit : ∀ blk, Statement (.taskCommit blk) := fun _ => rfl
theorem commandEntry : ∀ blk port, Statement (.commandEntry blk port) := fun _ _ => rfl
theorem busyRetry : ∀ blk port, Statement (.busyRetry blk port) := fun _ _ => rfl
theorem gateOpen : ∀ blk port, Statement (.gateOpen blk port) := fun _ _ => rfl
theorem transferStart : ∀ blk port, Statement (.transferStart blk port) := fun _ _ => rfl
theorem transferWrite : ∀ id, Statement (.transferWrite id) := fun _ => rfl
theorem rangeLockRelease : ∀ id j, Statement (.rangeLockRelease id j) := fun _ _ => rfl
theorem transferCompletion : ∀ id, Statement (.transferCompletion id) := fun _ => rfl
theorem viaTransferFinish : ∀ id, Statement (.viaTransferFinish id) := fun _ => rfl
theorem syncUpdateCycle : ∀ pa, Statement (.syncUpdateCycle pa) := fun _ => rfl
theorem syncCarryEval : ∀ pa, Statement (.syncCarryEval pa) := fun _ => rfl
theorem flitForward : ∀ r dir vc, Statement (.flitForward r dir vc) := fun _ _ _ => rfl
theorem portTokenArrival : ∀ k port, Statement (.portTokenArrival k port) := fun _ _ => rfl
theorem streamerSend : ∀ k, Statement (.streamerSend k) := fun _ => rfl
theorem ringPlace : ∀ tile ring, Statement (.ringPlace tile ring) := fun _ _ => rfl
theorem placingAreaWrite : ∀ tile, Statement (.placingAreaWrite tile) := fun _ => rfl
theorem inboundStreamerWrite : ∀ tile, Statement (.inboundStreamerWrite tile) := fun _ => rfl
theorem converterFiring : ∀ c, Statement (.converterFiring c) := fun _ => rfl
theorem adderPair : ∀ port, Statement (.adderPair port) := fun _ => rfl
theorem agenLoadToken : ∀ m, Statement (.agenLoadToken m) := fun _ => rfl
theorem agenStoreToken : ∀ m, Statement (.agenStoreToken m) := fun _ => rfl
theorem doneArrival : ∀ m, Statement (.doneArrival m) := fun _ => rfl
theorem matrixOpStart : ∀ tile, Statement (.matrixOpStart tile) := fun _ => rfl
theorem matrixOpEnd : ∀ tile, Statement (.matrixOpEnd tile) := fun _ => rfl
theorem stallLimit : ∀ p, Statement (.stallLimit p) := fun _ => rfl
theorem contextSwitch : ∀ tile, Statement (.contextSwitch tile) := fun _ => rfl
theorem configurationFlit : ∀ tile, Statement (.configurationFlit tile) := fun _ => rfl
theorem spliceSwitch : ∀ tile, Statement (.spliceSwitch tile) := fun _ => rfl
theorem spliceMarker : ∀ tile, Statement (.spliceMarker tile) := fun _ => rfl
theorem escapeReentry : ∀ tile node, Statement (.escapeReentry tile node) := fun _ _ => rfl
theorem graphEnd : ∀ gid, Statement (.graphEnd gid) := fun _ => rfl
theorem faultNotice : ∀ f, Statement (.faultNotice f) := fun _ => rfl
theorem faultRecordWrite : ∀ f, Statement (.faultRecordWrite f) := fun _ => rfl
theorem futureResolve : ∀ f k, Statement (.futureResolve f k) := fun _ _ => rfl
theorem compileStart : ∀ blk, Statement (.compileStart blk) := fun _ => rfl
theorem compileEnd : ∀ blk, Statement (.compileEnd blk) := fun _ => rfl
theorem mailboxWrite : ∀ core, Statement (.mailboxWrite core) := fun _ => rfl
theorem invokeRetry : ∀ j, Statement (.invokeRetry j) := fun _ => rfl
theorem invokeTimeout : ∀ j, Statement (.invokeTimeout j) := fun _ => rfl
theorem replyResend : ∀ j, Statement (.replyResend j) := fun _ => rfl
theorem answerFrame : ∀ port, Statement (.answerFrame port) := fun _ => rfl
theorem packetReceive : ∀ port, Statement (.packetReceive port) := fun _ => rfl
theorem frameReceive : ∀ port frame, Statement (.frameReceive port frame) := fun _ _ => rfl
theorem retryRequest : ∀ port, Statement (.retryRequest port) := fun _ => rfl
theorem idleFrame : ∀ port, Statement (.idleFrame port) := fun _ => rfl
theorem frameForward : ∀ port, Statement (.frameForward port) := fun _ => rfl
theorem portRetrain : ∀ port, Statement (.portRetrain port) := fun _ => rfl
theorem portDown : ∀ port, Statement (.portDown port) := fun _ => rfl
theorem downPortRetrain : ∀ port, Statement (.downPortRetrain port) := fun _ => rfl
theorem campanileSlew : ∀ blk forward, Statement (.campanileSlew blk forward) := fun _ _ => rfl
theorem clockStretch : ∀ blk pct, Statement (.clockStretch blk pct) := fun _ _ => rfl
theorem powerGate : ∀ blk, Statement (.powerGate blk) := fun _ => rfl
theorem blockWake : ∀ blk, Statement (.blockWake blk) := fun _ => rfl
theorem bucketRefill : Statement (.bucketRefill) := rfl
theorem effAdjust : ∀ sens, Statement (.effAdjust sens) := fun _ => rfl
theorem thermalShutdown : ∀ field, Statement (.thermalShutdown field) := fun _ => rfl
theorem coldReset : Statement (.coldReset) := rfl
theorem phaseComplete : ∀ ok, Statement (.phaseComplete ok) := fun _ => rfl
theorem pcieHotReset : ∀ port, Statement (.pcieHotReset port) := fun _ => rfl
theorem postingWrite : ∀ port q whole ide data, Statement (.postingWrite port q whole ide data) := fun _ _ _ _ _ => rfl
theorem spillDraw : ∀ q, Statement (.spillDraw q) := fun _ => rfl
theorem replyRingWrite : ∀ j, Statement (.replyRingWrite j) := fun _ => rfl
theorem replyRingRetry : ∀ j, Statement (.replyRingRetry j) := fun _ => rfl
theorem bar2Read : ∀ port off n ide, Statement (.bar2Read port off n ide) := fun _ _ _ _ => rfl
theorem bar2Write : ∀ port off ide data, Statement (.bar2Write port off ide data) := fun _ _ _ _ => rfl
theorem setWrite : ∀ port, Statement (.setWrite port) := fun _ => rfl
theorem fqbaseWrite : ∀ f val, Statement (.fqbaseWrite f val) := fun _ _ => rfl
theorem watchConfigWrite : ∀ log val, Statement (.watchConfigWrite log val) := fun _ _ => rfl
theorem registerWrite : ∀ host addr val, Statement (.registerWrite host addr val) := fun _ _ _ => rfl
theorem graphLoad : Statement (.graphLoad) := rfl
theorem graphUnload : Statement (.graphUnload) := rfl
theorem verifyImage : Statement (.verifyImage) := rfl
theorem attestationReport : Statement (.attestationReport) := rfl
theorem jobStart : Statement (.jobStart) := rfl
theorem jobEnd : Statement (.jobEnd) := rfl
theorem plannedRetirement : ∀ blk core name, Statement (.plannedRetirement blk core name) := fun _ _ _ => rfl
theorem failedRetirement : ∀ blk core name dead, Statement (.failedRetirement blk core name dead) := fun _ _ _ _ => rfl
theorem supplyDroopEnd : ∀ blk, Statement (.supplyDroopEnd blk) := fun _ => rfl
theorem retrainComplete : ∀ port lanes, Statement (.retrainComplete port lanes) := fun _ _ => rfl
theorem spdmRequest : ∀ port active, Statement (.spdmRequest port active) := fun _ _ => rfl

end Sys2Proof.Laws.Slots
end

