-- ==== Sys2Proof/Laws/Regs.lean ====
section
/-!
SUPPORT. The register files: what a read gives after a write, and what a write leaves (R15 to R17).
-/
namespace Sys2Proof.Machine

variable (c : Ctx)

/-- s0 reads as zero (R15). -/
@[simp] theorem Ctx.rS_zero : c.rS 0#5 = 0 := rfl

/-- p0 reads as 0xFF (R17). -/
@[simp] theorem Ctx.rP_zero : c.rP 0#3 = 0xFF#8 := rfl

/-- A scalar register after a write to one: a write to s0 is discarded. -/
theorem Ctx.rS_wS (d r : SReg) (x : Word) : (c.wS d x).rS r = if r = d ∧ d ≠ 0#5 then x else c.rS r := by
  unfold Ctx.wS Ctx.rS
  by_cases hd : d = 0#5
  · simp [hd]
  · by_cases hr : r = d
    · subst hr
      simp [hd]
    · have hn : d.toNat ≠ r.toNat := fun h => hr (BitVec.eq_of_toNat_eq h).symm
      simp [hd, hr, Vector.getElem_set_ne _ _ hn]

/-- A vector register after a write to one. -/
theorem Ctx.rV_wV (d r : VReg) (x : VWord) : (c.wV d x).rV r = if r = d then x else c.rV r := by
  unfold Ctx.wV Ctx.rV
  by_cases hr : r = d
  · subst hr
    simp
  · have hn : d.toNat ≠ r.toNat := fun h => hr (BitVec.eq_of_toNat_eq h).symm
    simp [hr, Vector.getElem_set_ne _ _ hn]

/-- A predicate register after a write to one: a write to p0 is discarded. -/
theorem Ctx.rP_wP (d r : PReg) (x : PWord) : (c.wP d x).rP r = if r = d ∧ d ≠ 0#3 then x else c.rP r := by
  unfold Ctx.wP Ctx.rP
  by_cases hd : d = 0#3
  · simp [hd]
  · by_cases hr : r = d
    · subst hr
      simp [hd]
    · have hn : d.toNat ≠ r.toNat := fun h => hr (BitVec.eq_of_toNat_eq h).symm
      simp [hd, hr, Vector.getElem_set_ne _ _ hn]

@[simp] theorem Ctx.wS_pc (d : SReg) (x : Word) : (c.wS d x).pc = c.pc := by
  unfold Ctx.wS; split <;> rfl
@[simp] theorem Ctx.wS_v (d : SReg) (x : Word) : (c.wS d x).v = c.v := by
  unfold Ctx.wS; split <;> rfl
@[simp] theorem Ctx.wS_p (d : SReg) (x : Word) : (c.wS d x).p = c.p := by
  unfold Ctx.wS; split <;> rfl
@[simp] theorem Ctx.wS_vrm (d : SReg) (x : Word) : (c.wS d x).vrm = c.vrm := by
  unfold Ctx.wS; split <;> rfl
@[simp] theorem Ctx.wS_vflags (d : SReg) (x : Word) : (c.wS d x).vflags = c.vflags := by
  unfold Ctx.wS; split <;> rfl
@[simp] theorem Ctx.wS_pend (d : SReg) (x : Word) : (c.wS d x).pend = c.pend := by
  unfold Ctx.wS; split <;> rfl
@[simp] theorem Ctx.wS_rV (d : SReg) (x : Word) (r : VReg) : (c.wS d x).rV r = c.rV r := by
  unfold Ctx.wS; split <;> rfl
@[simp] theorem Ctx.wS_rP (d : SReg) (x : Word) (r : PReg) : (c.wS d x).rP r = c.rP r := by
  unfold Ctx.wS; split <;> rfl
@[simp] theorem Ctx.wV_pc (d : VReg) (x : VWord) : (c.wV d x).pc = c.pc := rfl
@[simp] theorem Ctx.wV_s (d : VReg) (x : VWord) : (c.wV d x).s = c.s := rfl
@[simp] theorem Ctx.wV_p (d : VReg) (x : VWord) : (c.wV d x).p = c.p := rfl
@[simp] theorem Ctx.wV_vrm (d : VReg) (x : VWord) : (c.wV d x).vrm = c.vrm := rfl
@[simp] theorem Ctx.wV_vflags (d : VReg) (x : VWord) : (c.wV d x).vflags = c.vflags := rfl
@[simp] theorem Ctx.wV_pend (d : VReg) (x : VWord) : (c.wV d x).pend = c.pend := rfl
@[simp] theorem Ctx.wV_rS (d : VReg) (x : VWord) (r : SReg) : (c.wV d x).rS r = c.rS r := rfl
@[simp] theorem Ctx.wV_rP (d : VReg) (x : VWord) (r : PReg) : (c.wV d x).rP r = c.rP r := rfl
@[simp] theorem Ctx.wP_pc (d : PReg) (x : PWord) : (c.wP d x).pc = c.pc := by
  unfold Ctx.wP; split <;> rfl
@[simp] theorem Ctx.wP_s (d : PReg) (x : PWord) : (c.wP d x).s = c.s := by
  unfold Ctx.wP; split <;> rfl
@[simp] theorem Ctx.wP_v (d : PReg) (x : PWord) : (c.wP d x).v = c.v := by
  unfold Ctx.wP; split <;> rfl
@[simp] theorem Ctx.wP_vrm (d : PReg) (x : PWord) : (c.wP d x).vrm = c.vrm := by
  unfold Ctx.wP; split <;> rfl
@[simp] theorem Ctx.wP_vflags (d : PReg) (x : PWord) : (c.wP d x).vflags = c.vflags := by
  unfold Ctx.wP; split <;> rfl
@[simp] theorem Ctx.wP_pend (d : PReg) (x : PWord) : (c.wP d x).pend = c.pend := by
  unfold Ctx.wP; split <;> rfl
@[simp] theorem Ctx.wP_rS (d : PReg) (x : PWord) (r : SReg) : (c.wP d x).rS r = c.rS r := by
  unfold Ctx.wP; split <;> rfl
@[simp] theorem Ctx.wP_rV (d : PReg) (x : PWord) (r : VReg) : (c.wP d x).rV r = c.rV r := by
  unfold Ctx.wP; split <;> rfl
@[simp] theorem Ctx.raiseFlags_pc (x : BitVec 5) : (c.raiseFlags x).pc = c.pc := rfl
@[simp] theorem Ctx.raiseFlags_s (x : BitVec 5) : (c.raiseFlags x).s = c.s := rfl
@[simp] theorem Ctx.raiseFlags_v (x : BitVec 5) : (c.raiseFlags x).v = c.v := rfl
@[simp] theorem Ctx.raiseFlags_p (x : BitVec 5) : (c.raiseFlags x).p = c.p := rfl
@[simp] theorem Ctx.raiseFlags_vrm (x : BitVec 5) : (c.raiseFlags x).vrm = c.vrm := rfl
@[simp] theorem Ctx.raiseFlags_pend (x : BitVec 5) : (c.raiseFlags x).pend = c.pend := rfl
@[simp] theorem Ctx.raiseFlags_vflags (x : BitVec 5) : (c.raiseFlags x).vflags = c.vflags ||| x := rfl

end Sys2Proof.Machine
end

