-- ==== Sys2Proof/Safety.lean ====
section
/-!
DEFINITION. What counts as a safe step: the machine goes on, its memory and tables keep their canonical form.
-/
namespace Sys2Proof

/-- The form that memory keeps in every state that the machine reaches (R298, log 1). -/
def Machine.State.memOk (s : Machine.State) : Bool := Machine.Memory.wf s.mem

/-- A step is safe when it answers a next state whose memory is in canonical form. -/
def SafeStep (s : Machine.State) : Prop :=
  ∃ s', Machine.step s = .next s' ∧ s'.memOk = true

end Sys2Proof
end

