-- ==== Sys2Proof/Tests/Slice0.lean ====
section
/-!
SUPPORT. Tests of decoding against words written out from the tables of R73 to R84 and from the spec's worked examples, of the
checks of well-formed instructions, and of single steps.
-/
namespace Sys2Proof.Tests

set_option Elab.async false

open Sys2Proof

/-! ## Words written out field by field (R73, R75) -/

/-- RR: opcode, d, a, b, fn. -/
def rrW (op d a b fn : Nat) : SlotWord :=
  BitVec.ofNat 7 op ++ BitVec.ofNat 5 d ++ BitVec.ofNat 5 a ++ BitVec.ofNat 5 b ++ BitVec.ofNat 7 fn
/-- RI, BR and Q: opcode, two registers, twelve bits. -/
def riW (op d a imm : Nat) : SlotWord := BitVec.ofNat 7 op ++ BitVec.ofNat 5 d ++ BitVec.ofNat 5 a ++ BitVec.ofNat 12 imm
/-- J: opcode, d, seventeen bits. -/
def jW (op d off : Nat) : SlotWord := BitVec.ofNat 7 op ++ BitVec.ofNat 5 d ++ BitVec.ofNat 17 off
/-- Slot B: opcode, p, vd, va, vb, ty, fn. -/
def bW (op p d a b ty fn : Nat) : SlotWord :=
  BitVec.ofNat 6 op ++ BitVec.ofNat 3 p ++ BitVec.ofNat 4 d ++ BitVec.ofNat 4 a ++ BitVec.ofNat 4 b ++ BitVec.ofNat 3 ty ++
    BitVec.ofNat 5 fn

/-- Slot-A words without an extension decode to the instructions beside them. -/
def readsA (l : List (SlotWord × Instr)) : Bool := l.all fun e => (decodeA e.1 none).toOption == some e.2
/-- Slot-B words decode to the instructions beside them. -/
def readsB (l : List (SlotWord × Instr)) : Bool := l.all fun e => (decodeB e.1).toOption == some e.2
/-- Words that are no instruction. -/
def refusesA (l : List (SlotWord × Option SlotWord)) : Bool := l.all fun e => (decodeA e.1 e.2).toOption.isNone
def refusesB (l : List SlotWord) : Bool := l.all fun e => (decodeB e).toOption.isNone

/-- Opcode 0x01, fn 0x00 to 0x1A (R79). -/
theorem test_decode_alu : readsA
    [(rrW 0x01 3 4 5 0x00, .add 3 4 5), (rrW 0x01 3 4 5 0x01, .sub 3 4 5), (rrW 0x01 3 4 5 0x02, .and 3 4 5),
     (rrW 0x01 3 4 5 0x03, .or 3 4 5), (rrW 0x01 3 4 5 0x04, .xor 3 4 5), (rrW 0x01 3 4 5 0x05, .andn 3 4 5),
     (rrW 0x01 3 4 5 0x06, .sll 3 4 5), (rrW 0x01 3 4 5 0x07, .srl 3 4 5), (rrW 0x01 3 4 5 0x08, .sra 3 4 5),
     (rrW 0x01 3 4 5 0x09, .rol 3 4 5), (rrW 0x01 3 4 5 0x0A, .ror 3 4 5), (rrW 0x01 3 4 5 0x0B, .mul 3 4 5),
     (rrW 0x01 3 4 5 0x0C, .mulh 3 4 5), (rrW 0x01 3 4 5 0x0D, .mulhu 3 4 5), (rrW 0x01 3 4 5 0x0E, .mulhsu 3 4 5),
     (rrW 0x01 3 4 5 0x0F, .div 3 4 5), (rrW 0x01 3 4 5 0x10, .divu 3 4 5), (rrW 0x01 3 4 5 0x11, .rem 3 4 5),
     (rrW 0x01 3 4 5 0x12, .remu 3 4 5), (rrW 0x01 3 4 5 0x13, .min 3 4 5), (rrW 0x01 3 4 5 0x14, .max 3 4 5),
     (rrW 0x01 3 4 5 0x15, .minu 3 4 5), (rrW 0x01 3 4 5 0x16, .maxu 3 4 5), (rrW 0x01 3 4 5 0x17, .slt 3 4 5),
     (rrW 0x01 3 4 5 0x18, .sltu 3 4 5), (rrW 0x01 3 4 5 0x19, .seq 3 4 5), (rrW 0x01 3 4 5 0x1A, .sel 3 4 5)] = true := by
  decide

/-- The unary forms of opcode 0x01 (R79), and a lea (R78). -/
theorem test_decode_unary : readsA
    [(rrW 0x01 7 8 0 0x1B, .clz 7 8), (rrW 0x01 7 8 0 0x1C, .ctz 7 8), (rrW 0x01 7 8 0 0x1D, .popc 7 8),
     (rrW 0x01 7 8 0 0x1E, .brev 7 8), (rrW 0x01 7 8 0 0x1F, .bswap 7 8), (rrW 0x01 7 8 0 0x20, .sextB 7 8),
     (rrW 0x01 7 8 0 0x21, .sextH 7 8), (rrW 0x01 7 8 0 0x22, .sextW 7 8), (rrW 0x01 7 8 0 0x23, .zextB 7 8),
     (rrW 0x01 7 8 0 0x24, .zextH 7 8), (rrW 0x01 7 8 0 0x25, .zextW 7 8), (rrW 0x1A 7 8 9 5, .lea 7 8 9 5)] = true := by
  decide

/-- The immediate forms and constants (R71, R78); movt is extended. -/
theorem test_decode_immediates : readsA
    [(riW 0x02 3 4 0xFFF, .addi 3 4 (.pair 0xFFF)), (riW 0x03 3 4 1, .andi 3 4 (.pair 1)), (riW 0x04 3 4 2, .ori 3 4 (.pair 2)),
     (riW 0x05 3 4 3, .xori 3 4 (.pair 3)), (riW 0x06 3 4 63, .slli 3 4 63 false), (riW 0x07 3 4 1, .srli 3 4 1 false),
     (riW 0x08 3 4 2, .srai 3 4 2 false), (riW 0x09 3 4 3, .roli 3 4 3 false), (riW 0x0A 3 4 4, .slti 3 4 (.pair 4)),
     (riW 0x0B 3 4 5, .sltiu 3 4 (.pair 5)), (riW 0x0C 3 4 6, .seqi 3 4 (.pair 6)), (riW 0x0D 3 4 7, .muli 3 4 (.pair 7)),
     (riW 0x0E 3 4 (8 * 64 + 15), .bext 3 4 8 15), (riW 0x0F 3 4 (60 * 64 + 3), .bextu 3 4 60 3),
     (riW 0x10 3 4 (0 * 64 + 63), .bins 3 4 0 63), (riW 0x1B 3 0 9, .movi 3 (.pair 9)), (jW 0x1D 3 0x1FFFF, .lui 3 0x1FFFF),
     (jW 0x1E 3 1, .addpc 3 1), (jW 0x1F 3 2, .addpg 3 2)] = true ∧
    decodeA (riW 0x1C 3 4 0x123) (some 0x7FF#29) = .ok (.movt 3 4 0x7FF123) :=
  ⟨by decide, rfl⟩

/-- Control transfer (R78). -/
theorem test_decode_branches : readsA
    [(riW 0x20 3 4 0xFFE, .beq 3 4 (.pair 0xFFE)), (riW 0x21 3 4 1, .bne 3 4 (.pair 1)), (riW 0x22 3 4 1, .blt 3 4 (.pair 1)),
     (riW 0x23 3 4 1, .bge 3 4 (.pair 1)), (riW 0x24 3 4 1, .bltu 3 4 (.pair 1)), (riW 0x25 3 4 1, .bgeu 3 4 (.pair 1)),
     (jW 0x26 0 0x1FFFF, .jmp 0x1FFFF), (jW 0x27 1 5, .jal 1 5), (riW 0x28 1 4 2, .jalr 1 4 (.pair 2)),
     (riW 0x29 6 0 0xFFF, .loop 6 (.pair 0xFFF)), (riW 0x2A 2 0 3, .bany 2 (.pair 3)), (riW 0x2B 7 0 3, .bnone 7 (.pair 3))]
      = true := by
  decide

/-- Loads, stores, reservations, atomics, reductions and fences (R78, R80, R81). -/
theorem test_decode_memory : readsA
    [(riW 0x30 3 4 1, .ldb 3 4 (.pair 1)), (riW 0x31 3 4 1, .ldbu 3 4 (.pair 1)), (riW 0x32 3 4 1, .ldh 3 4 (.pair 1)),
     (riW 0x33 3 4 1, .ldhu 3 4 (.pair 1)), (riW 0x34 3 4 1, .ldw 3 4 (.pair 1)), (riW 0x35 3 4 1, .ldwu 3 4 (.pair 1)),
     (riW 0x36 3 4 1, .ldd 3 4 (.pair 1)), (riW 0x37 3 4 1, .stb 3 4 (.pair 1)), (riW 0x38 3 4 1, .sth 3 4 (.pair 1)),
     (riW 0x39 3 4 1, .stw 3 4 (.pair 1)), (riW 0x3A 3 4 1, .std 3 4 (.pair 1)), (riW 0x3B 15 4 1, .vld 15 4 (.pair 1)),
     (riW 0x3C 3 4 1, .vst 3 4 (.pair 1)), (rrW 0x3D 3 4 5 2, .vgather 3 4 5 2), (rrW 0x3E 3 4 5 3, .vscatter 3 4 5 3),
     (riW 0x3F 0 4 1, .pf 4 (.pair 1)), (riW 0x40 3 4 8, .acqL 3 4 (.pair 8)), (riW 0x41 3 4 8, .relL 3 4 (.pair 8)),
     (rrW 0x42 3 4 5 0, .amoAdd 3 4 5 false), (rrW 0x42 3 4 5 9, .amoSwap 3 4 5 true), (rrW 0x42 3 4 5 2, .amoCas 3 4 5 false),
     (rrW 0x42 3 4 5 0x1B, .amoMin 3 4 5 true true), (rrW 0x42 3 4 5 4, .amoMax 3 4 5 false false),
     (rrW 0x42 3 4 5 5, .amoAnd 3 4 5 false), (rrW 0x42 3 4 5 6, .amoOr 3 4 5 false), (rrW 0x42 3 4 5 15, .amoXor 3 4 5 true),
     (rrW 0x43 3 0 0 0, .waitR 3), (rrW 0x44 0 4 5 0, .redAdd 4 5 false), (rrW 0x44 0 4 5 0x11, .redMin 4 5 false true),
     (rrW 0x44 0 4 5 10, .redMax 4 5 true false), (rrW 0x44 0 4 5 3, .redAnd 4 5 false), (rrW 0x44 0 4 5 4, .redOr 4 5 false),
     (rrW 0x44 0 4 5 13, .redXor 4 5 true), (rrW 0x44 0 4 5 14, .redFaddW 4 5), (riW 0x45 0 0 4, .fence .device),
     (riW 0x46 3 4 8, .ldAcq 3 4 (.pair 8)), (riW 0x47 3 4 8, .stRel 3 4 (.pair 8))] = true := by
  decide

/-- Threads, invocation and engines (R78, R202). -/
theorem test_decode_engines : readsA
    [(rrW 0x50 3 4 8 0, .spawn 3 4 2), (rrW 0x51 3 4 8 0, .spawnT 3 4 2), (rrW 0x52 3 4 5 0, .quit 3 4 5),
     (rrW 0x53 3 4 28 0, .callat 3 4 7), (rrW 0x54 3 4 8 0, .invoke 3 4 2), (rrW 0x54 3 4 8 1, .invokeW 3 4 2),
     (rrW 0x54 3 4 8 2, .invokeT 3 4 2), (rrW 0x55 3 4 5 0, .reply 3 4 5), (riW 0x56 3 4 0x40, .recv 3 4 (.pair 0x40)),
     (rrW 0x57 3 0 0 0, .abq 3), (riW 0x58 3 8 2, .xfer 3 2 2), (riW 0x59 3 8 31, .pcomp 3 2 31), (rrW 0x5A 0 4 5 0, .syncSet 4 5),
     (rrW 0x5A 3 4 5 1, .syncArrive 3 4 5), (rrW 0x5A 3 4 5 2, .syncWait 3 4 5), (riW 0x5B 3 0 9, .fetcht 3 9 false),
     (riW 0x5B 0 4 0x19, .fetchtLd 4 9 false), (riW 0x5B 3 0 0x29, .fetchtQ 3 9 false), (rrW 0x5C 3 4 5 0, .rlq 3 4 5),
     (rrW 0x5D 0 4 5 0, .acpy 4 5)] = true := by
  decide

/-- Tile forms (R78, R82, R175, R177, R187, R190, R191). -/
theorem test_decode_tile : readsA
    [(riW 0x60 2 0 15, .srecv 2 15), (rrW 0x61 0 2 5 9, .ssend 2 5 .raw), (rrW 0x62 2 3 4 5, .smerge 2 3 4 5),
     (riW 0x63 2 3 8, .ssplit 2 3 8), (riW 0x64 0 0 7, .sstop 7), (rrW 0x65 0 4 0 0, .ssteer 4), (riW 0x66 3 0 1, .speek 3 1),
     (riW 0x67 5 0 1, .spred 5 1), (rrW 0x68 3 1 12 0, .rqpush 3 1 12), (rrW 0x68 2 3 13 1, .rqpop 2 3 13),
     (riW 0x69 12 1 3, .esc 12 1 3), (riW 0x69 12 1 7, .escO 12 1 3), (riW 0x6A 0 0 3, .ctxsw 3), (rrW 0x6B 0 0 0 0, .mgPp),
     (rrW 0x6B 0 0 0 1, .mgPe), (rrW 0x6B 0 0 0 2, .mgEp), (rrW 0x6B 0 0 0 3, .mgEe), (rrW 0x6B 0 0 0 4, .mgGp),
     (rrW 0x6B 0 0 0 5, .mgGe), (rrW 0x6C 0 0 0 0, .mzero), (rrW 0x6C 0 4 5 1, .mdrain 4 5), (rrW 0x6D 0 4 5 0, .mspx 4 5),
     (rrW 0x6D 0 4 5 1, .mspxN 4 5), (riW 0x6E 0 0 0x176, .mdset (.pair 0x176)), (rrW 0x6F 3 0 0 0, .mdadv 3),
     (rrW 0x6F 3 0 0 1, .mdadvR 3)] = true := by
  decide

/-- System forms (R78). preempt's operation stands in a register. -/
theorem test_decode_system : readsA
    [(riW 0x70 0 0 0xFFF, .trap 0xFFF), (rrW 0x71 0 0 0 0, .eret), (rrW 0x72 0 0 0 0, .uret), (riW 0x73 3 0 0x101, .csrr 3 0x101),
     (riW 0x74 0 4 0x020, .csrw 0x020 4), (rrW 0x75 0 0 0 0, .wfi), (rrW 0x76 0 4 0 0, .wfit 4), (rrW 0x77 0 4 5 5, .tlbi .system 4 5),
     (rrW 0x78 0 4 5 0, .icinv .thread 4 5), (riW 0x79 3 4 8, .ctxSave 3 4 (.pair 8)), (riW 0x7A 3 4 8, .ctxLoad 3 4 (.pair 8)),
     (rrW 0x7B 3 4 0 0, .preemptHalt 3 4), (rrW 0x7C 0 0 0 0, .halt)] = true ∧
    Instr.asDecoded (.preemptTrap 3 4) = .preemptHalt 3 4 ∧ Instr.asDecoded (.preemptResume 3 4) = .preemptHalt 3 4 ∧
    encode (.preemptTrap 3 4) = some (.a (rrW 0x7B 3 4 0 0) none) ∧ encode (.preemptResume 3 4) = some (.a (rrW 0x7B 3 4 0 0) none) := by
  decide

/-- Slot B, opcodes 0x00 to 0x13 (R76, R83, R84). -/
theorem test_decode_vector : readsB
    [(bW 0x00 0 0 0 0 0 0, .vnop), (bW 0x01 1 2 3 4 0 0, .vadd 1 2 3 4 .f32), (bW 0x02 1 2 3 4 1 0, .vsub 1 2 3 4 .bf16),
     (bW 0x03 1 2 3 4 2 0, .vmul 1 2 3 4 .f16), (bW 0x04 1 2 3 4 3 0, .vfma 1 2 3 4 .i32), (bW 0x05 1 2 3 4 4 0, .vmin 1 2 3 4 .i16),
     (bW 0x06 1 2 3 4 5 0, .vmax 1 2 3 4 .i8), (bW 0x07 1 2 3 0 3 0, .vabs 1 2 3 .i32), (bW 0x08 1 2 3 0 0 0, .vneg 1 2 3 .f32),
     (bW 0x09 1 2 3 4 0 0, .vdiv 1 2 3 4 .f32), (bW 0x0A 1 2 3 0 0 0, .vsqrt 1 2 3 .f32), (bW 0x0B 1 2 3 0 0 0, .vrsqrt 1 2 3 .f32),
     (bW 0x0C 1 2 3 0 0 0, .vrcp 1 2 3 .f32), (bW 0x0D 1 2 3 0 0 0, .vexp2 1 2 3 .f32), (bW 0x0E 1 2 3 0 0 0, .vlog2 1 2 3 .f32),
     (bW 0x0F 1 2 3 4 6 0, .vcmpEq 1 2 3 4 .u8), (bW 0x0F 1 2 3 4 3 1, .vcmpNe 1 2 3 4 .i32), (bW 0x0F 1 2 3 4 3 2, .vcmpLt 1 2 3 4 .i32),
     (bW 0x0F 1 2 3 4 3 3, .vcmpLe 1 2 3 4 .i32), (bW 0x0F 1 2 3 4 0 4, .vcmpUn 1 2 3 4 .f32), (bW 0x10 1 2 3 4 7 0, .vsel 1 2 3 4),
     (bW 0x11 1 2 3 4 7 0, .vand 1 2 3 4), (bW 0x12 1 2 3 4 7 0, .vor 1 2 3 4), (bW 0x13 1 2 3 4 7 0, .vxor 1 2 3 4)] = true := by
  decide

/-- Slot B, opcodes 0x14 to 0x21 (R147, R149, R150, R151, R153, R154, R157). -/
theorem test_decode_vector_moves : readsB
    [(bW 0x14 1 2 3 4 3 0, .vshl 1 2 3 4 .i32), (bW 0x15 1 2 3 4 6 0, .vshr 1 2 3 4 .u8), (bW 0x15 1 2 3 4 4 1, .vsra 1 2 3 4 .i16),
     (bW 0x16 1 2 3 0 0 2, .vcvt 1 2 3 .f32 .bf16 false), (bW 0x16 1 2 3 5 7 1, .vcvt 1 2 3 .e4m3 .f32 true),
     (bW 0x17 0 2 3 4 2 0, .vpack 2 3 4 (.half .f16 false)), (bW 0x17 0 2 3 0 6 3, .vpack 2 3 0 (.byte true 3)),
     (bW 0x17 0 2 3 0 7 6, .vpack 2 3 0 (.raw 1 2)), (bW 0x18 1 2 3 0 4 1, .vunpk 1 2 3 (.half .i16 true)),
     (bW 0x19 1 2 3 0 3 0, .vredSum 1 2 3 .i32), (bW 0x19 1 2 3 0 3 1, .vredMin 1 2 3 .i32), (bW 0x19 1 2 3 0 3 2, .vredMax 1 2 3 .i32),
     (bW 0x1A 1 2 3 4 7 0, .vperm 1 2 3 4), (bW 0x1B 1 2 0 0 3 21, .vbcast 1 2 .i32 21),
     (bW 0x1C 1 0 3 5 3 21, .vmovs 1 0 3 false 5 .i32 21), (bW 0x1C 1 2 0 12 7 21, .vmovs 1 2 0 true 4 .x 21),
     (bW 0x1D 1 2 3 4 0 0, .vscale 1 2 3 4 .f32), (bW 0x1E 1 2 3 4 0 0x10, .vquantS 1 2 3 4 .e2m3),
     (bW 0x1E 1 2 3 4 0 0x17, .vquant 1 2 3 4 .aint4), (bW 0x1F 1 2 3 0 1 0, .vclass 1 2 3 .bf16), (bW 0x20 0 2 3 4 7 0, .vgstep 2 3 4),
     (bW 0x21 1 2 3 4 0 0, .vgmask 1 2 3 4)] = true := by
  decide

/-- The spec's worked examples. -/
theorem test_decode_examples :
    decode 0x00094A6002023400#64 = .ok { la := 0, a := .add 5 5 6, b := some (.vfma 0 2 3 4 .f32) } ∧
    decode 0x04D9C0F120123456#64 = .ok { la := 0, a := .movi 7 (.ext 0x123456789), b := none } ∧
    decode 0x0770002EC0000009#64 = .ok { la := 0, a := .mdset (.ext 0x9176), b := none } ∧
    decodeB 0x0B032003#29 = .ok (.vcvt 0 3 2 .f32 .bf16 true) ∧ decodeA 0x1A061600#29 none = .ok (.rqpush 3 1 12) ∧
    decodeA 0x1A043681#29 none = .ok (.rqpop 2 3 13) ∧ decodeA 0x1A581004#29 none = .ok (.escO 12 1 0) :=
  ⟨rfl, rfl, rfl, rfl, rfl, rfl, rfl⟩

/-- Reserved opcodes, bundle kinds and fields, and registers out of range (R70, R74, R77, R84, R85). -/
theorem test_decode_refuses :
    refusesA [(rrW 0x00 0 0 0 0, none), (rrW 0x7F 0 0 0 0, none), (rrW 0x11 0 0 0 0, none), (rrW 0x01 3 4 5 0x26, none),
      (rrW 0x01 7 8 1 0x1B, none), (rrW 0x1A 1 2 3 6, none), (riW 0x06 3 4 64, none), (riW 0x1C 3 4 1, none), (riW 0x3B 16 4 0, none),
      (rrW 0x42 3 4 5 0x10, none), (rrW 0x44 0 4 5 6, none), (riW 0x45 0 0 6, none), (rrW 0x50 3 4 9 0, none), (riW 0x58 3 8 4, none),
      (riW 0x2A 8 0 0, none), (riW 0x60 2 0 16, none), (riW 0x6A 0 0 4, none), (rrW 0x01 3 4 5 0, some 0#29)] = true ∧
    refusesB [bW 0x22 0 0 0 0 0 0, bW 0x3F 0 0 0 0 0 0, bW 0x00 1 0 0 0 0 0, bW 0x01 1 2 3 4 7 0, bW 0x0F 1 8 3 4 3 0,
      bW 0x10 1 2 3 4 0 0, bW 0x14 1 2 3 4 0 0, bW 0x16 1 2 3 0 0 0, bW 0x17 1 2 3 4 2 0, bW 0x17 0 2 3 0 7 12, bW 0x1E 1 2 3 4 0 0x16] = true ∧
    (decode 0x0#64).toOption.isNone ∧ (decode (BitVec.allOnes 64)).toOption.isNone ∧
      (decode 0x08094A6002023400#64).toOption.isNone := by
  decide

/-! ## Well-formed instructions -/

/-- Each check refuses a term that breaks it. -/
theorem test_wf_refuses :
    ([.bext 1 2 60 10, .bextu 1 2 63 1, .bins 1 2 1 63, .lea 1 2 3 6, .smerge 1 2 3 0, .ssplit 1 2 0, .ssplit 1 2 9, .sstop 0,
      .mdset (.ext 0x80000000), .mdset (.ext 0x1000000000), .csrr 1 0x004, .csrw 0x000 1, .vadd 0 1 2 3 .x, .vabs 0 1 2 .u8,
      .vdiv 0 1 2 3 .i32, .vcmpEq 0 1 2 3 .x, .vcmpUn 0 1 2 3 .i32, .vshl 0 1 2 3 .f32, .vsra 0 1 2 3 .u8,
      .vcvt 0 1 2 .f32 .f32 false, .vcvt 0 1 2 .mxint8 .f32 false, .vcvt 0 1 2 .f32 .i8 false, .vpack 1 2 3 (.half .f16 true),
      .vpack 1 2 3 (.byte false 0), .vpack 1 2 0 (.raw 3 0), .vunpk 0 1 2 (.raw 3 0), .vunpk 0 1 2 (.half .f32 false),
      .vmovs 0 1 2 false 0 .i32 3, .vmovs 0 1 2 true 0 .i32 3, .vmovs 0 0 2 false 1 .x 3, .vmovs 0 0 2 false 0 .f16 3,
      .vquantS 0 1 2 3 .aint4, .vquant 0 1 2 3 .f32, .taskCommit 128, .resultCommit (.thread 16384), .threadWake (.core 16384),
      .storePerform 16384, .rotundaAdmit 16, .commandEntry 0 4, .commandEntry 128 0, .portTokenArrival 0 16, .portTokenArrival 16384 0,
      .streamerSend 16384, .ringPlace 0 16, .ringPlace 4096 0, .matrixOpEnd 4096, .converterFiring 512, .adderPair 16,
      .agenLoadToken 1024, .stallLimit (.core 16384), .stallLimit (.agen 1024), .stallLimit (.conv 512), .escapeReentry 0 4,
      .escapeReentry 4096 0, .mailboxWrite 2048, .campanileSlew (some 128) true, .effAdjust { mpwr := 0, fpwr := [], temp := [] },
      .pcieHotReset 2, .postingWrite 2 0 true true 0, .postingWrite 0 16384 true true 0, .spillDraw 16384, .bar2Read 2 0 8 true,
      .registerWrite (some (2, true)) 0 none, .spdmRequest 2 { sel := true, key := some 5 }] : List Instr).all (fun i => !i.wf) = true := by
  decide

end Sys2Proof.Tests
end

