-- ==== Sys2Proof/Tests/Witness.lean ====
section
/-!
SUPPORT. For each statement with hypotheses, a concrete machine and operands that meet them, clause by clause.
-/
namespace Sys2Proof.Tests

set_option Elab.async false

open Sys2Proof Sys2Proof.Machine Sys2Proof.Claims

/-! ## Small machines -/

/-- Where no sync update stands, nothing meets a write. -/
theorem calm_of_nil {s : State} (h : s.dev.syncq = []) (pa n : Nat) : Calm s pa n := by
  intro e he
  rw [h] at he
  cases he
theorem calmSpan_of_nil {s : State} (h : s.dev.syncq = []) (p : Phys) (n : Nat) : CalmSpan s p n := fun _ _ => calm_of_nil h _ _

/-- A page at 0x10000 that maps to itself, with every right of the supervisor (R297). -/
def page : TlbEntry := { base := 0x10000, level := 3, leaf := 0x102CF#64 }
def phys (a : Nat) : Phys := { pa := a, home := .dram, sw := false }
/-- s4 holds an address in the page, s5 is 1. -/
def regs : Vector Word 32 := ((Vector.replicate 32 0#64).set 4 0x10800#64).set 5 1#64
def ctx0 : Ctx := { Ctx.zero with pc := 0x10000#64, s := regs }
def thr : Thread := { run := .run, sv := true, ctx := ctx0, ehand := 0x10100#64 }
/-- Thread 0, changed by `f`, runs on core 0 with the page in its TLB; the other tables are empty. -/
def withThread (f : Thread → Thread) : State :=
  { State.reset with threads := [(0, f thr)], cores := [(0, { tlb := [page] })], cur := .thread 0 }
def base : State := withThread id
def withReg (r : Fin 32) (x : Word) (t : Thread) : Thread := { t with ctx := { t.ctx with s := t.ctx.s.set r x } }
/-- A plain store of one byte that the thread holds in its buffer. -/
def held : SbEntry := entry 0x10800#64 8 .plain 7 (phys 0x10800)
def gathered : List Phys := List.replicate 8 (phys 0x10800)
/-- A compute core in hand. -/
def onCore (f : TCore → TCore) : State := { State.reset with tcores := [(0, f { run := .run, ctx := ctx0 })], cur := .core 0 }

/-! ## Integer forms and transfers -/

theorem witness_ShortIntegerForms : shortResult (.add 3 4 5) base = some (3, 0x10801) ∧
    shortResult (.popc 3 5) (onCore id) = some (3, 1) := by decide
theorem witness_HardWiredRegisters : shortResult (.add 0 4 5) base = some (0, 0x10801) ∧
    ((withThread fun t => { t with ctx := { t.ctx with pend := [{ dest := .sreg 0, left := 0, ready := true, val := 7 }] } }).thread 0).ctx.pend =
      [{ dest := .sreg 0, left := 0, ready := true, val := 7 }] ∧
    ((withThread fun t => { t with ctx := { t.ctx with pend := [{ dest := .sreg 0, left := 0, ready := true, val := 7 }] } }).thread 0).run =
      .run ∧ (31#5 : SReg) ≠ 0 := by decide
theorem witness_DivisionForms : longResult (.div 3 4 0) base = some (3, BitVec.allOnes 64) := by decide
theorem witness_ImmediateForms : immResult (.addi 3 4 (.pair 0xFFF)) base = some (3, 0x107FF) ∧
    immResult (.lea 3 4 5 5) base = some (3, 0x10820) ∧ immResult (.bext 3 4 0 63) base = some (3, 0x10800) := by decide
theorem witness_BranchForms : base.cur = .thread 0 ∧ branchOf (.beq 4 5 (.pair 1)) base = some (base.rS 4 = base.rS 5, .pair 1) :=
  ⟨rfl, rfl⟩
theorem witness_JumpsAndLoop : base.cur = .thread 0 ∧ (BitVec.ofInt 64 ((base.rS 4).toInt + 8 * immInt (.pair 2))).toNat % 8 = 0 ∧
    CanTrap base 0 ∧ (BitVec.ofInt 64 ((base.rS 5).toInt + 8 * immInt (.pair 2))).toNat % 8 ≠ 0 := by
  unfold CanTrap; decide

/-! ## Memory forms -/

theorem witness_ScalarLoads : loadOf (.ldd 3 4 (.pair 0)) = some (3, 4, .pair 0, 8, false, .any) ∧ base.cur = .thread 0 ∧
    (base.thread 0).spec = false ∧ Reaches base 0 (eaOf base 4 (.pair 0)) 8 8 true false .any (phys 0x10800) ∧
    forward (base.thread 0).sb (phys 0x10800) 8 = .mem ∧ InMemory (phys 0x10800) ∧ forward [held] (phys 0x10800) 8 = .val 7 ∧
    held.kind = .plain ∧ held.phys.home = (phys 0x10800).home ∧ held.phys.pa ≤ 0x10800 :=
  ⟨rfl, by unfold Reaches InMemory; decide⟩
/-- The register page's own clause: a load of a word of the page through a leaf that maps it. -/
def regPage : State :=
  { base with cores := [(0, { tlb := [{ base := 0x10000, level := 3, leaf := 0xF100000002CF#64 }] })] }
theorem witness_ScalarLoads_regs : ∃ p, p.home = .regs ∧
    Reaches regPage 0 (eaOf regPage 4 (.pair 0)) 8 8 true false .any p ∧ forward (regPage.thread 0).sb p 8 = .mem :=
  ⟨{ pa := 0xF10000000800, home := .regs, sw := false }, by unfold Reaches; decide⟩
theorem witness_VectorLoads : Plain base 0 ∧ Reaches base 0 (eaOf base 4 (.pair 0)) 32 32 true false .any (phys 0x10800) ∧
    InMemory (phys 0x10800) ∧ gathered.length = 8 ∧
    Reaches base 0 (BitVec.ofInt 64 ((base.rS 4).toInt + (lane (base.rV 1) 7).toInt * 2 ^ (3#2).toNat)) 4 4 true false .any
      (phys 0x10800) := by
  unfold Plain Reaches InMemory; decide
theorem witness_StoresEnterTheBuffer : storeOf (.std 5 4 (.pair 0)) base = some (0x10800, 1, 8) ∧ (base.thread 0).sb.length < 16 ∧
    Reaches base 0 0x10800 8 8 false true .any (phys 0x10800) ∧ (base.thread 0).sb.length ≤ 8 ∧
    Reaches base 0 (BitVec.ofInt 64 ((base.rS 4).toInt + (lane (base.rV 1) 0).toInt * 2 ^ (0#2).toNat)) 4 4 false true .any
      (phys 0x10800) ∧
    ((withThread fun t => { t with sb := List.replicate 16 held }).thread 0).sb.length ≥ 16 ∧
    Reaches (withThread fun t => { t with sb := List.replicate 16 held }) 0 0x10800 8 8 false true .any (phys 0x10800) := by
  unfold Reaches; decide
/-- Nine stores leave too little room for the eight of a vscatter. -/
def nineHeld : State := withThread fun t => { t with sb := List.replicate 9 held }
theorem witness_StoresEnterTheBuffer_scatter : nineHeld.cur = .thread 0 ∧ (nineHeld.thread 0).spec = false ∧
    (nineHeld.thread 0).sb.length > 8 ∧ gathered.length = 8 ∧ (nineHeld.rV 1) = 0 ∧
    Reaches nineHeld 0 (BitVec.ofInt 64 ((nineHeld.rS 4).toInt + (lane (nineHeld.rV 1) 7).toInt * 2 ^ (0#2).toNat)) 4 4 false true .any
      (phys 0x10800) := by
  unfold Reaches; decide
theorem witness_ReductionsAndReleaseEnterTheBuffer : redOf (.redAdd 4 5 true) base = some (0x10800, 4, 1, .red .add true false) ∧
    Reaches base 0 0x10800 4 4 false true .atomic (phys 0x10800) ∧ Plain base 0 ∧ (base.thread 0).lkl = none ∧
    (base.thread 0).ctx.pend.any Pending.flying = false ∧ base.ownsLock 0 = false ∧
    Reaches base 0 (eaOf base 4 (.pair 0)) 8 8 false true .ordered (phys 0x10800) := by
  unfold Plain Reaches; decide
theorem witness_AtomicsAreOneStep : (∃ f, amoOf (.amoCas 3 4 5 false) base = some (3, 4, 8, false, f)) ∧ Plain base 0 ∧
    (base.thread 0).ctx.pend.any Pending.flying = false ∧ Reaches base 0 (base.rS 4) 8 8 true true .atomic (phys 0x10800) ∧
    Calm base 0x10800 8 :=
  ⟨⟨_, rfl⟩, by unfold Plain; decide, by decide, by unfold Reaches; decide, calm_of_nil rfl _ _⟩
/-- The thread has recorded the failure of a store by port 5. -/
def linkLost : State := withThread fun t => { t with lkl := some 5 }
theorem witness_ReductionsAndReleaseEnterTheBuffer_waits :
    ((withThread fun t => { t with sb := [held] }).thread 0).sb ≠ [] ∧ ((withThread fun t => { t with sb := [held] }).thread 0).lkl = none ∧
    Reaches (withThread fun t => { t with sb := [held] }) 0 (eaOf base 4 (.pair 0)) 8 8 false true .ordered (phys 0x10800) ∧
    (withThread fun t => { t with sb := [held] }).cur = .thread 0 ∧ CanTrap linkLost 0 ∧ (linkLost.thread 0).lkl = some 5 := by
  unfold Reaches CanTrap; decide
def storing : State :=
  { withThread (fun t => { t with sb := [held] }) with
    threads := [(0, { thr with sb := [held] }), (8, { thr with resv := [{ va := 0x10800, pa := 0x10800, lost := false }] })] }
theorem witness_OldestStoreIsPerformed : (storing.thread 0).sb = [held] ∧ held.sent = false ∧ held.kind = .plain ∧
    held.phys.home = .dram ∧ storing.atEdge held.phys = none ∧ 0 < held.size ∧ held.phys.sw = false ∧ storing.dev.wtbase = 0 ∧
    { va := 0x10800, pa := 0x10800, lost := false } ∈ (storing.thread 8).resv ∧ storing.beingSaved 0 = false ∧
    held.phys.pa / 64 ≤ 0x10800 / 64 ∧ 0x10800 / 64 ≤ (held.phys.pa + held.size - 1) / 64 := by decide
theorem witness_OldestStoreIsPerformed_calm : Calm storing held.phys.pa held.size := calm_of_nil rfl _ _
def hostStore : SbEntry := { held with phys := { pa := 0x800000000000, home := .host, sw := false } }
def combining : State :=
  { State.reset with blks := [(0, { cyc := 40, wins := [{ phys := phys 0x10800, va := 0x10800, op := .add, w32 := false, uns := false
                                                          val := 1, at_ := 8, who := [] }],
                                         lwins := [{ word := 0x2100, who := [{ who := .inl 0, phys := phys 0x10800, n := 8 }], at_ := 8 }] })] }
theorem witness_SystemStoresAndWindows : ((withThread fun t => { t with sb := [hostStore] }).thread 0).sb = [hostStore] ∧
    hostStore.phys.home = .host ∧ hostStore.sent = false ∧ hostStore.kind = .plain ∧
    (withThread fun t => { t with sb := [hostStore] }).beingSaved 0 = false ∧
    ((withThread fun t => { t with sb := [{ hostStore with sent := true }] }).thread 0).sb = [{ hostStore with sent := true }] ∧
    (combining.blk 0).wins.length = 1 ∧ (combining.blk 0).wins.all (fun w => w.at_ + 32 ≤ (combining.blk 0).cyc) ∧
    (combining.blk 0).wins.all (fun w => w.phys.home = .dram) ∧
    (combining.blk 0).lwins = [{ word := 0x2100, who := [{ who := .inl 0, phys := phys 0x10800, n := 8 }], at_ := 8 }] ∧
    8 + 32 ≤ (combining.blk 0).cyc := by decide
/-- Thread 0 gathers, has its first missed lane in a window and a second to go. -/
def gathering : State :=
  { combining with
    threads := [(0, { thr with ctx := { ctx0 with pend := [{ dest := .vreg 1 0xFF, left := 1, ready := false, val := 0
                                                             fly := .load (.lanes [(6, 0x10800, phys 0x10800), (7, 0x10800, phys 0x10800)] true) false }] } })] }
theorem witness_SystemStoresAndWindows_lanes : combining.lanesLeft 0 0 = none ∧
    gathering.lanesLeft 0 0 = some ([(7, 0x10800, phys 0x10800)], true) ∧
    (gathering.blk 0).lwins = [{ word := 0x2100, who := [{ who := .inl 0, phys := phys 0x10800, n := 8 }], at_ := 8 }] ∧
    8 + 32 ≤ (gathering.blk 0).cyc ∧ ({ who := .inl 0, phys := phys 0x10800, n := 8 } : LoadMember).tok = 0 := by decide
theorem witness_SystemStoresAndWindows_calm : Calm (withThread fun t => { t with sb := [{ hostStore with sent := true }] }) 0x800000000000 8 ∧
    Calm combining 0x10800 8 := ⟨calm_of_nil rfl _ _, calm_of_nil rfl _ _⟩
def reserved (lost : Bool) : State := withThread fun t => { t with resv := [{ va := 0x10800, pa := 0x10800, lost := lost }] }
theorem witness_ReservationForms : Plain base 0 ∧ (base.thread 0).ctx.pend.any Pending.flying = false ∧
    ((reserved true).thread 0).ctx.pend.any Pending.flying = false ∧ Reaches base 0 (eaOf base 4 (.pair 0)) 8 8 true true .resv (phys 0x10800) ∧
    Plain (reserved true) 0 ∧ Reaches (reserved true) 0 (eaOf (reserved true) 4 (.pair 0)) 8 8 false true .any (phys 0x10800) ∧
    (((reserved true).thread 0).resv.find? fun r => decide (r.va = (eaOf (reserved true) 4 (.pair 0)).toNat / 64 * 64)).isSome ∧
    (∀ r ∈ ((reserved true).thread 0).resv, r.lost = true) ∧ (base.thread 0).resv = [] ∧ Plain (reserved false) 0 ∧
    ((reserved false).thread 0).resv ≠ [] ∧ (∀ r ∈ ((reserved false).thread 0).resv, r.lost = false) := by
  unfold Plain Reaches; decide
theorem witness_ReservationForms_calm : Calm (reserved true) 0x10800 8 := calm_of_nil rfl _ _
theorem witness_FenceAndPrefetch : base.cur = .thread 0 ∧ (base.thread 0).spec = false ∧ (base.thread 0).sb = [] ∧
    (base.thread 0).ctx.pend.any Pending.flying = false ∧ (base.thread 0).lkl = none ∧ (storing.thread 0).sb ≠ [] ∧
    storing.cur = .thread 0 ∧ (storing.thread 0).lkl = none ∧ CanTrap linkLost 0 ∧ (linkLost.thread 0).lkl = some 5 := by
  unfold CanTrap; decide

/-! ## Exceptions, waiting, moving threads -/

def user : State := withThread fun t => { t with sv := false }
/-- A result that carries a fault is in the return buffer, behind two results of s4. -/
def carrying : State := withThread fun t =>
  { t with ctx := { t.ctx with pend := [{ dest := .sreg 4, left := 1, ready := true, val := 9 }, { dest := .sreg 4, left := 1, ready := true, val := 7 },
                                        { dest := .sreg 3, left := 1, ready := true, val := 0, fault := some (cECC, 5) }] } }
/-- The handler's address lies beyond the virtual address space. -/
def noHandler : State := withThread fun t => { t with ehand := 0x10000000000000#64 }
def core4 : State := { onCore id with cur := .core 4, tcores := [(4, { run := .run, ctx := ctx0 })] }
theorem witness_TrapEntry : CanTrap base 0 ∧ carrying.cur = .thread 0 ∧ (carrying.thread 0).spec = false ∧
    (∀ p ∈ (carrying.thread 0).ctx.pend, p.ready = true) ∧
    (carrying.thread 0).ctx.pend.findSome? Pending.fault = some (cECC, 5) ∧
    carrying.fetchBad 0 (carrying.thread 0).ehand true = none ∧
    (carrying.thread 0).ctx.pend = [{ dest := .sreg 4, left := 1, ready := true, val := 9 }] ++
      { dest := .sreg 4, left := 1, ready := true, val := 7 } ::
      [{ dest := .sreg 3, left := 1, ready := true, val := 0, fault := some (cECC, 5) }] ∧ (noHandler.thread 0).spec = false ∧
    (noHandler.thread 0).ctx.pend = [] ∧ noHandler.fetchBad 0 (noHandler.thread 0).ehand true = some cPAGE_NP := by
  unfold CanTrap; decide
theorem witness_PrivilegeAndMode : Privileged .eret ∧ Privileged (.csrw 0x011 4) ∧ CanTrap user 0 ∧ (user.thread 0).sv = false ∧
    Instr.mode (.ldb 1 2 (.pair 0)) = .swarm ∧ core4.cur = .core 4 ∧ Instr.mode .mzero = .tile ∧ CanTrap base 0 := by
  unfold Privileged CanTrap; decide
theorem witness_ReturnForms : base.cur = .thread 0 ∧ (base.thread 0).sv = true ∧
    ((withThread fun t => { t with inuh := true }).thread 0).inuh = true ∧ (base.thread 0).inuh = false ∧ CanTrap base 0 := by
  unfold CanTrap; decide
theorem witness_ControlRegisters : csrValue base 0 0x104 = some 0x10100 ∧ csrValue user 0 0x010 = some 0 ∧ (user.thread 0).sv = false ∧
    (csrWritten (base.thread 0) 0x103 (base.rS 5) 0).isSome ∧ (base.thread 0).spec = false ∧ core4.cur = .core 4 ∧
    user.cur = .thread 0 ∧ (user.thread 0).spec = false ∧ (csrWritten (user.thread 0) 0x031 (user.rS 5) 0).isSome ∧
    (0x031#12).toNat < 0x100 ∧ (0x031#12) ≠ 0x011 ∧ CanTrap base 0 ∧ csrValue base 0 0x200 = none ∧
    csrWritten (base.thread 0) 0x000 (base.rS 5) 0 = none ∧ coreCsr core4 4 0x200 = some 0 ∧ (coreCsrWritten (core4.tcore 4) 0x200 5).isSome ∧
    coreCsr core4 4 0x100 = none ∧ coreCsrWritten (core4.tcore 4) 0x001 5 = none := by
  unfold CanTrap; decide
def waiting (w : Wait) : State := withThread fun t =>
  { t with run := .wait w, comps := [{ id := 1, xst := 0, hnd := 0x10200 }], resv := [{ va := 0x10800, pa := 0x10800, lost := true }] }
theorem witness_WaitForms : base.cur = .thread 0 ∧ (base.thread 0).spec = false ∧
    ((waiting .wfi).thread 0).run = .wait .wfi ∧ ((waiting .wfi).thread 0).comps ≠ [] ∧
    ((waiting (.wfit 0)).thread 0).run = .wait (.wfit 0) ∧
    (0#64).toNat ≤ ((waiting (.wfit 0)).ns - ((waiting (.wfit 0)).blk 0).lag) % 2 ^ 64 ∧
    ((waiting (.resv 3)).thread 0).run = .wait (.resv 3) ∧ ((waiting (.resv 3)).thread 0).resv.length = 1 ∧
    ((waiting (.resv 3)).thread 0).resv.all (fun r => r.lost) := by decide
/-- Thread 0 waits, a completion is pending that its uie lets in, and memory holds `m` at its mailbox or sync word. -/
def waitingAt (w : Wait) (m : List Host.Cell) : State :=
  { withThread (fun t => { t with run := .wait w, uie := true, comps := [{ id := 1, xst := 0, hnd := 0x10200 }]
                                  resv := [{ va := 0x10800, pa := 0x10800, lost := false }] }) with mem := m }
theorem witness_WaitForms_early : EventDue ((waitingAt .wfi []).thread 0) ∧
    ((waitingAt (.wfit 5) []).thread 0).run = .wait (.wfit 5) ∧ ((waitingAt (.wfit 5) []).thread 0).comps ≠ [] ∧
    ((waitingAt (.wfit 5) []).ns - ((waitingAt (.wfit 5) []).blk 0).lag) % 2 ^ 64 < (5#64).toNat ∧
    ((waitingAt (.resv 3) []).thread 0).run = .wait (.resv 3) ∧ (∀ r ∈ ((waitingAt (.resv 3) []).thread 0).resv, r.lost = false) ∧
    ((waiting (.resv 3)).thread 0).resv = [{ va := 0x10800, pa := 0x10800, lost := true }] := by
  unfold EventDue; decide
theorem witness_WaitForms_memory :
    (waitingAt (.recv 3 0x10800) []).xlThread 0 (0x10800#64).toNat ((waitingAt (.recv 3 0x10800) []).need 0 true false .any) =
      .ok (phys 0x10800) ∧
    ((waitingAt (.recv 3 0x10800) []).thread 0).run = .wait (.recv 3 0x10800) ∧ (phys 0x10800).home = .dram ∧
    EventDue ((waitingAt (.recv 3 0x10800) []).thread 0) ∧ memNat [] (0x10800 + 16) 8 = memNat [] (0x10800 + 8) 8 ∧
    (waitingAt (.recv 3 0x10800) [(0x10800, 4), (0x10810, 3)]).xlThread 0 (0x10800#64).toNat
      ((waitingAt (.recv 3 0x10800) [(0x10800, 4), (0x10810, 3)]).need 0 true false .any) = .ok (phys 0x10800) ∧
    memNat [(0x10800, 4), (0x10810, 3)] (0x10800 + 16) 8 ≠ memNat [(0x10800, 4), (0x10810, 3)] (0x10800 + 8) 8 ∧
    memNat [(0x10800, 4), (0x10810, 3)] 0x10800 2 ≠ 0 ∧
    ((waitingAt (.sync 3 0x10800 5) []).thread 0).run = .wait (.sync 3 0x10800 5) ∧
    (waitingAt (.sync 3 0x10800 5) []).xlThread 0 (0x10800#64).toNat ((waitingAt (.sync 3 0x10800 5) []).need 0 true false .any) =
      .ok (phys 0x10800) ∧
    (memNat [] (0x10800 + 10) 2 + 65536 - (0#16).toNat) % 65536 < 32768 ∧
    (memNat [] (0x10800 + 10) 2 + 65536 - (5#16).toNat) % 65536 ≥ 32768 := by
  unfold EventDue; decide
theorem witness_InvalidationForms : base.cur = .thread 0 ∧ (base.thread 0).sv = true ∧
    base.storesIn 0 .system (base.rS 4) (base.rS 5) = false ∧ (base.thread 0).spec = false ∧ (base.thread 0).sb = [] ∧
    (storing.thread 0).sv = true ∧ storing.storesIn 0 .system (storing.rS 4) (storing.rS 5) = true ∧ (storing.thread 0).spec = false ∧
    (storing.thread 0).sb ≠ [] := by decide
/-- Thread 1 stands in the next slot, and s6 names it for preempt, ctx.save and ctx.load. -/
def other (r : Run) (own : Nat) : State :=
  { withThread id with threads := [(0, withReg 6 (BitVec.ofNat 64 (0x80 + 65536 * own)) thr), (1, { thr with run := r })] }
theorem witness_PreemptForms : slotNameOk ((other .run 1).rS 6) = true ∧ (slotName ((other .run 1).rS 6)).core = true ∧
    (slotName ((other .run 1).rS 6)).all = false ∧ (slotName ((other .run 1).rS 6)).op ≠ 3 ∧
    (other .run 1).slotExists (slotName ((other .run 1).rS 6)) = true ∧
    1 = (slotName ((other .run 1).rS 6)).num * 8 + (slotName ((other .run 1).rS 6)).tid ∧ ((other .run 1).thread 1).run = .run ∧
    ((other .halted 1).thread 1).run = .halted ∧ (other .halted 1).taskOf 1 = none ∧ ((other .free 1).thread 1).run = .free ∧
    0 = (slotName ((other .run 0).rS 6)).num * 8 + (slotName ((other .run 0).rS 6)).tid := by decide

theorem witness_HaltsAreTaken : base.cur = .thread 0 ∧ (base.thread 0).sv = true ∧
    ((withThread fun t => { t with due := [{ trap := false, by_ := some 3 }] }).thread 0).run = .run ∧
    ((withThread fun t => { t with due := [{ trap := false, by_ := some 3 }] }).thread 0).ctx.pend = [] ∧
    ((withThread fun t => { t with due := [{ trap := false, by_ := some 3 }] }).thread 0).due = [{ trap := false, by_ := some 3 }] ∧
    ((onCore fun c => { c with due := [{ trap := false, by_ := none }] }).tcore 0).due ≠ [] := by decide
/-- Thread 0 awaits the answer of a preempt. -/
def asking : State := withThread fun t =>
  { t with ctx := { t.ctx with pend := [{ dest := .sreg 3, left := 1, ready := false, val := 0, tok := 7, fly := .preempt }] } }
theorem witness_HaltsAreTaken_issuer : asking.turnNow (.thread 0) = true ∧ asking.escStops 0 = false ∧ (asking.thread 0).run = .run ∧
    (asking.thread 0).ctx.pend = [{ dest := .sreg 3, left := 1, ready := false, val := 0, tok := 7, fly := .preempt }] ∧
    Answered asking { dest := .sreg 3, left := 1, ready := false, val := 0, tok := 7, fly := .preempt } := by
  unfold Answered; decide
/-- The machine of `other` with an image in memory at s4 and the bytes `m` after it. -/
def imaged (r : Run) (m : List Host.Cell) : State := { other r 1 with mem := (0x10800, 1) :: m }
/-- An image's bytes: a link to group 0, a store to an address that nothing maps, and a register. -/
def inGroup : List Host.Cell := [(0x10890, 1)]
def unmapped : List Host.Cell := [(0x10802, 1), (0x10D00, 8), (0x10D08, 8)]
def oneReg : List Host.Cell := [(0x10908, 0xFF)]
/-- The parts of the 2,048 bytes at s4's address. -/
def imageParts : List (Nat × Nat × Phys) := [(0x10800, 2048, phys 0x10800)]
/-- The slot name in s6 asks for the slot to be freed. -/
def freeing : State := { other .halted 1 with threads := [(0, withReg 6 0x110080 thr), (1, { thr with run := .halted })] }
theorem imagePlace_save (s : State) (h : s.rS 4 = 0x10800)
    (hp : s.checkParts 0 (s.need 0 false true .any) true [(0x10800, 2048)] = .ok imageParts) (hb : s.heldBack 0 = false) :
    ImagePlace s 0 (eaOf s 4 (.pair 0)) true imageParts := by
  unfold eaOf
  rw [h]
  exact ⟨by decide, by decide, hp, hb, by decide⟩
theorem imagePlace_load (s : State) (h : s.rS 4 = 0x10800)
    (hp : s.checkParts 0 (s.need 0 true false .any) true [(0x10800, 2048)] = .ok imageParts) (hb : s.heldBack 0 = false) :
    ImagePlace s 0 (eaOf s 4 (.pair 0)) false imageParts := by
  unfold eaOf
  rw [h]
  exact ⟨by decide, by decide, hp, hb, by decide⟩
theorem plainParts_of_nil {s : State} (h : s.dev.syncq = []) (hw : s.dev.wtbase = 0) : PlainParts s imageParts :=
  ⟨⟨hw, by decide⟩, by decide, fun _ _ _ _ => calm_of_nil h _ _⟩
theorem witness_ContextForms_save : (other .halted 1).cur = .thread 0 ∧ ((other .halted 1).thread 0).spec = false ∧
    ((other .halted 1).thread 0).sv = true ∧ ctxNameOk ((other .halted 1).rS 6) true = true ∧
    1 = (slotName ((other .halted 1).rS 6)).num * 8 + (slotName ((other .halted 1).rS 6)).tid ∧
    (other .run 1).savable (slotName ((other .run 1).rS 6)) 1 = false ∧
    (other .halted 1).savable (slotName ((other .halted 1).rS 6)) 1 = true ∧ ((other .halted 1).thread 0).sb = [] ∧
    ((other .halted 1).thread 1).sb.any SbEntry.sent = false ∧ (slotName ((other .halted 1).rS 6)).op = 0 ∧
    ctxNameOk (freeing.rS 6) true = true ∧ 1 = (slotName (freeing.rS 6)).num * 8 + (slotName (freeing.rS 6)).tid ∧
    freeing.savable (slotName (freeing.rS 6)) 1 = true ∧ (slotName (freeing.rS 6)).op = 1 := by decide
def savingBusy : State :=
  { other .halted 1 with threads := [(0, { withReg 6 0x10080 thr with sb := [held] }), (1, { thr with run := .halted })] }
theorem witness_ContextForms_busy : savingBusy.savable (slotName (savingBusy.rS 6)) 1 = true ∧ (savingBusy.thread 0).sb ≠ [] := by decide
theorem witness_ContextForms_places : ImagePlace (other .run 1) 0 (eaOf (other .run 1) 4 (.pair 0)) true imageParts ∧
    ImagePlace (other .halted 1) 0 (eaOf (other .halted 1) 4 (.pair 0)) true imageParts ∧
    ImagePlace savingBusy 0 (eaOf savingBusy 4 (.pair 0)) true imageParts ∧ ImagePlace freeing 0 (eaOf freeing 4 (.pair 0)) true imageParts ∧
    PlainParts (other .halted 1) imageParts ∧ PlainParts freeing imageParts ∧
    ImagePlace (imaged .run []) 0 (eaOf (imaged .run []) 4 (.pair 0)) false imageParts ∧
    ImagePlace (imaged .free oneReg) 0 (eaOf (imaged .free oneReg) 4 (.pair 0)) false imageParts ∧
    ImagePlace (imaged .free inGroup) 0 (eaOf (imaged .free inGroup) 4 (.pair 0)) false imageParts ∧
    ImagePlace (imaged .free unmapped) 0 (eaOf (imaged .free unmapped) 4 (.pair 0)) false imageParts ∧
    ImagePlace (other .free 1) 0 (eaOf (other .free 1) 4 (.pair 0)) false imageParts :=
  ⟨imagePlace_save _ rfl rfl rfl, imagePlace_save _ rfl rfl rfl, imagePlace_save _ rfl rfl rfl, imagePlace_save _ rfl rfl rfl,
    plainParts_of_nil rfl rfl, plainParts_of_nil rfl rfl, imagePlace_load _ rfl rfl rfl, imagePlace_load _ rfl rfl rfl,
    imagePlace_load _ rfl rfl rfl, imagePlace_load _ rfl rfl rfl, imagePlace_load _ rfl rfl rfl⟩
theorem witness_ContextForms_load : Plain (imaged .run []) 0 ∧ ((imaged .run []).thread 0).sv = true ∧
    ctxNameOk ((imaged .run []).rS 6) false = true ∧ (slotName ((imaged .run []).rS 6)).core = true ∧
    (imaged .run []).slotExists (slotName ((imaged .run []).rS 6)) = true ∧ ((imaged .run []).thread 1).run ≠ .free ∧
    Plain (imaged .free oneReg) 0 ∧ ((imaged .free oneReg).thread 1).run = .free ∧ (imaged .free inGroup).group 0 = none := by
  unfold Plain; decide
/-- Group 0 exists. -/
def groupIn : State :=
  { imaged .free inGroup with dev := { groups := [(0, some { field := 0, hidx := none, ticket := 5, path := .none, left := 1, sent := false })] } }
theorem witness_ContextForms_images : readImage ((other .free 1).readParts imageParts) = none ∧
    (readImage ((imaged .free oneReg).readParts imageParts)).map (fun e => (e.2, e.1.sb)) = some (none, []) ∧
    (readImage ((imaged .free inGroup).readParts imageParts)).map (fun e => (e.2, e.1.sb)) = some (some 0, []) ∧
    (readImage (groupIn.readParts imageParts)).map Prod.snd = some (some 0) ∧ (groupIn.group 0).isSome = true ∧
    (readImage ((imaged .free unmapped).readParts imageParts)).map (fun e =>
      (e.2.isNone, e.1.sb.length, ((imaged .free unmapped).translateSb e.1.sv e.1.sb).2.isOk)) = some (true, 1, false) := by
  decide +kernel
theorem witness_ContextForms_ok : ((imaged .free oneReg).translateSb true []).2 = .ok [] := rfl
def task0 : Task :=
  { g := 0, ts := 9, num := 0, entry := thr, buf := [], sws := [], marks := [], aborts := 2, hit := false, plain := false, parent := none }
/-- Thread 0 is an ordered task whose timestamp is 9. -/
def tasked : State := { withThread (fun t => { t with task := some (0, 0), tsval := 9 }) with blks := [(0, { tasks := [task0] })] }
theorem witness_CreatingForms : base.cur = .thread 0 ∧ (base.thread 0).spec = false ∧ (base.rS 4).toNat / 2 ^ 52 % 2 ^ 6 = 0 ∧
    (base.thread 0).task = none ∧ base.callatHome 0 (base.rS 4) = .ok 0 2 ∧ CanTrap tasked 0 ∧
    (tasked.rS 4).toNat / 2 ^ 52 % 2 ^ 6 = 0 ∧ (tasked.thread 0).task ≠ none ∧ (tasked.rS 5).toNat < (tasked.thread 0).tsval.toNat := by
  unfold CanTrap; decide
def ticketed : State := { base with cores := [(0, { tlb := [page], ticket := 1 })] }
/-- Device 5 is reached by port 0, which is up; s6 names a handler there, and s7 one of device 6, which nothing reaches. -/
def invoker : State :=
  { withThread (fun t => withReg 6 (5 * 2 ^ 20) (withReg 7 (6 * 2 ^ 20) t)) with
    cores := [(0, { tlb := [page], ticket := 1 })], dev := { routes := [(5, 0x100)], links := [(0, { run := .up })] } }
theorem witness_InvokeForms : (Instr.invokeT 4 5 2, 2) ∈ invokeForms 4 5 2 ∧ base.cur = .thread 0 ∧ (base.thread 0).spec = false ∧
    (base.rS 5).toNat / 2 ^ 20 % 2 ^ 10 = base.dev.devnum ∧ base.rS 0 = 0 ∧ ticketed.rS 4 ≠ 0 ∧ (ticketed.core 0).outst.length < 64 ∧
    (invoker.rS 6).toNat / 2 ^ 20 % 2 ^ 10 ≠ invoker.dev.devnum ∧ invoker.livePort ((invoker.rS 6).toNat / 2 ^ 20 % 2 ^ 10) = some 0 ∧
    (invoker.rS 7).toNat / 2 ^ 20 % 2 ^ 10 ≠ invoker.dev.devnum ∧ invoker.livePort ((invoker.rS 7).toNat / 2 ^ 20 % 2 ^ 10) = none ∧
    invoker.dev.invs = [] ∧ invoker.ctx.pend = [] := by decide
theorem witness_InvokeForms_words : InvokeOk (base.rS 5) (base.rS 0) ∧ InvokeOk (ticketed.rS 5) (ticketed.rS 4) ∧
    InvokeOk (invoker.rS 6) (invoker.rS 4) ∧ InvokeOk (invoker.rS 7) (invoker.rS 0) := by
  unfold InvokeOk; decide
theorem witness_InvokeForms_full : base.rS 4 ≠ 0 ∧ InvokeOk (base.rS 5) (base.rS 4) := by
  unfold InvokeOk; decide
theorem witness_InvokeForms_waits :
    64 ≤ ({ base with cores := [(0, { tlb := [page], outst := List.replicate 64 { ticket := 1, mbox := 64, sv := true } })] }.core (0 / 8)).outst.length := by
  decide
def grouped : State :=
  { withThread (fun t => { t with group := some 2 }) with
    dev := { groups := [(2, some { field := 0, hidx := none, ticket := 5, path := .core 3, left := 1, sent := false })] } }
theorem witness_QuitAndReply : Plain base 0 ∧ (base.thread 0).ctx.pend = [] ∧ base.ownsLock 0 = false ∧ (base.thread 0).lkl = none ∧
    (base.thread 0).task = none ∧ (base.thread 0).group = none ∧ (base.thread 0).sv = true ∧ Plain grouped 0 ∧
    grouped.ownsLock 0 = false ∧ (grouped.thread 0).group = some 2 ∧
    grouped.group 2 = some { field := 0, hidx := none, ticket := 5, path := .core 3, left := 1, sent := false } := by
  unfold Plain; decide
/-- The group of thread 0 has replied, or has `n` threads left. -/
def groupedAs (sent : Bool) (n : Nat) : State :=
  { grouped with dev := { groups := [(2, some { field := 0, hidx := none, ticket := 5, path := .core 3, left := n, sent := sent })] } }
theorem witness_QuitAndReply_again : Plain (groupedAs true 1) 0 ∧ ((groupedAs true 1).thread 0).ctx.pend = [] ∧
    (groupedAs true 1).ownsLock 0 = false ∧ ((groupedAs true 1).thread 0).lkl = none ∧ ((groupedAs true 1).thread 0).task = none ∧
    ((groupedAs true 1).thread 0).group = some 2 ∧ ((groupedAs true 1).group 2).map Group.sent = some true ∧ (groupedAs true 1).rS 5 ≠ 0 ∧
    ((groupedAs true 1).thread 0).sv = true ∧ Plain (groupedAs false 2) 0 ∧ ((groupedAs false 2).group 2).map Group.left = some 2 ∧
    ((groupedAs false 1).group 2).map (fun x => (x.left, x.sent)) = some (1, false) ∧ (groupedAs false 1).rS 0 = 0 := by
  unfold Plain; decide
/-- A mailbox of four records whose head is `h`, with one record after it. -/
def mailbox (h : Nat) : State := { base with mem := [(0x10800, 4), (0x10808, BitVec.ofNat 8 h), (0x10810, 3)] }
theorem witness_RecvAndAbq : (mailbox 2).cur = .thread 0 ∧ ((mailbox 2).thread 0).spec = false ∧
    Reaches (mailbox 2) 0 (eaOf (mailbox 2) 4 (.pair 0)) 64 64 true false .any (phys 0x10800) ∧
    memNat (mailbox 2).mem (0x10800 + 16) 8 ≠ memNat (mailbox 2).mem (0x10800 + 8) 8 ∧ memNat (mailbox 2).mem 0x10800 2 ≠ 0 ∧
    Reaches (mailbox 3) 0 (eaOf (mailbox 3) 4 (.pair 0)) 64 64 true false .any (phys 0x10800) ∧
    memNat (mailbox 3).mem (0x10800 + 16) 8 = memNat (mailbox 3).mem (0x10800 + 8) 8 ∧ base.taskOf 0 = none ∧
    tasked.taskOf 0 = some task0 ∧ ((mailbox 2).thread 0).sb.any (fun e => e.over (phys 0x10800) 64) = false := by
  unfold Reaches; decide
/-- The header's line has a store of the thread's own before it. -/
def mailHeld : State := withThread fun t => { t with sb := [held] }
theorem witness_RecvAndAbq_waits : mailHeld.cur = .thread 0 ∧ (mailHeld.thread 0).spec = false ∧
    Reaches mailHeld 0 (eaOf mailHeld 4 (.pair 0)) 64 64 true false .any (phys 0x10800) ∧
    ((mailHeld.thread 0).sb.any fun e => e.over (phys 0x10800) 64) = true := by
  unfold Reaches; decide

/-! ## Engines and tiles -/

/-- The words of a copy of 64 bytes in the page, in s8 to s11. -/
def copyWords : List Word := [0, 0x10800, 0x10900, 64]
def copyCmd : Option Cmd := cmdOf copyWords []
def quadRegs : Vector Word 32 := ((regs.set 9 0x10800#64).set 10 0x10900#64).set 11 64#64
def posting (q : List Nat) (locks : Nat) : State :=
  { withThread (fun t => { t with ctx := { t.ctx with s := quadRegs } }) with
    blks := [(0, { ports := [(2, { q := q })] })]
    dev := { locks := List.replicate locks { id := 9, xid := 1, write := false, lo := 0, hi := 64, uid := none } } }
theorem witness_XferAnswers : (posting [] 0).cur = .thread 0 ∧ ((posting [] 0).thread 0).spec = false ∧ (posting [] 0).portsGone 0 = false ∧
    (posting [] 0).wordsOk 0 ((posting [] 0).quad 2) = true ∧ (posting [] 0).quad 2 = copyWords ∧
    BlockOf (posting [] 0) 0 copyWords [] ∧ copyCmd.isSome ∧ (posting [] 0).quad 2 = (posting [] 511).quad 2 ∧
    (∀ c ∈ copyCmd, (posting [] 0).cmdFits 0 c = true ∧ (posting [] 0).gateMapped c = true ∧
      ((posting [] 0).xport 2).q.length < 16 ∧ ((posting [] 0).xport 2).held = false ∧ (posting [] 0).portOpen 0 2 = true ∧
      (c.lockRanges ((posting [] 0).entriesOf c)).length ≤ (posting [] 0).lockRoom ∧
      (posting [] 511).lockRoom < (c.lockRanges ((posting [] 511).entriesOf c)).length) ∧
    ((posting (List.range 16) 0).xport 2).q.length ≥ 16 :=
  ⟨rfl, rfl, by decide +kernel, by decide +kernel, by decide +kernel, .inl ⟨by decide +kernel, rfl⟩, by decide +kernel, by decide +kernel,
    by decide +kernel, by decide +kernel⟩
/-- A thread with a command that has a parameter block at s4's address, where the bytes to copy are 64; before it stand commands at port 2
that `arr` lists. -/
def blockWords : List Word := [0x100000000000000#64, 0x10800, 0x10900, 0x10800]
def withBlock (arr : List Arriving) : State :=
  { withThread (fun t => { t with sv := false, ctx := { t.ctx with s := (((regs.set 8 0x100000000000000#64).set 9 0x10800#64).set 10 0x10900#64).set 11 0x10800#64 } }) with
    mem := [(0x10800, 64)], blks := [(0, { ports := [(2, { arr := arr })] })]
    cores := [(0, { tlb := [{ page with leaf := 0x102DF#64 }] })] }
def waiter (stalled : Bool) : Arriving :=
  { route := 6, gid := 1, w := copyWords, busy := false, stall := if stalled then some 0 else none, cyc := 0 }
theorem witness_XferAnswers_block : (withBlock []).quad 2 = blockWords ∧ (withBlock []).wordsOk 0 blockWords = true ∧
    BlockOf (withBlock []) 0 blockWords (64 :: List.replicate 10 0) ∧
    (cmdOf blockWords (64 :: List.replicate 10 0)).isSome ∧ ((withBlock [waiter true]).xport 2).held = true ∧
    ((withBlock [waiter false]).xport 2).held = false ∧ (withBlock [waiter false]).portOpen 0 2 = false :=
  ⟨by decide +kernel, by decide +kernel,
    .inr ⟨by decide +kernel, by decide +kernel, by decide +kernel, [(0x10800, 32, phys 0x10800)], fun e he => by rw [List.mem_singleton.mp he]; exact .inl rfl, rfl,
      by decide +kernel⟩,
    by decide +kernel, by decide +kernel, by decide +kernel, by decide +kernel⟩
theorem witness_XferAnswers_und : CanTrap base 0 ∧ base.wordsOk 0 (base.quad 1) = false ∧
    { base with blks := [(0, { cdead := 0x100 })] }.portsGone 0 = true := by
  unfold CanTrap; decide +kernel
/-- s8 to s11 of a pcomp: identity 7, metadata of 8 bytes at s4's address; the tile's cache holds `l`. -/
def compiling (l : List McEntry) : State :=
  { withThread (fun t => { t with ctx := { t.ctx with s := ((regs.set 8 7#64).set 9 0x10800#64).set 10 8#64 } }) with
    tiles := [(3, { mcache := l })] }
def entry7 : McEntry := { ident := 7, nb := 1, prog := [], stale := false }
def pending7 : Compile := { tile := 3, ident := 7, reqs := [], va := none, mem := none }
def compFull (n locks : Nat) : State :=
  { compiling [] with
    blks := [(0, { comps := List.replicate n pending7 })]
    dev := { locks := List.replicate locks { id := 9, xid := 1, write := false, lo := 0, hi := 64, uid := none } } }
theorem witness_PcompAnswers : (compiling []).cur = .thread 0 ∧ ((compiling []).thread 0).spec = false ∧
    (compiling []).tileExists (32 * 0 + (3#5).toNat) = true ∧ (compiling []).rS (quadReg 2 3) = 0 ∧
    (compiling []).rS (quadReg 2 1) ≠ 0 ∧ 0 < ((compiling []).rS (quadReg 2 2)).toNat ∧
    ((compiling []).rS (quadReg 2 2)).toNat < 2 ^ 32 ∧
    (compiling []).check 0 ((compiling []).rS (quadReg 2 1)) 4 4 ((compiling []).need 0 true false .any) false = .ok (phys 0x10800) ∧
    (compiling []).heldBack 0 = false ∧ (compiling []).atEdge (phys 0x10800) = none ∧ (compiling []).rS (quadReg 2 0) = 7 ∧
    ((compFull 16 0).blk 0).comps.length = 16 ∧ (compFull 0 512).dev.locks.length = 512 ∧ (compiling []).dev.locks.length < 512 := by
  decide +kernel
theorem witness_PcompAnswers_turns : (compiling []).lockTurn 0 4 (compiling []).ns = true ∧
    (compiling []).settled ((compiling []).rS (quadReg 2 1)).toNat ((compiling []).rS (quadReg 2 2)).toNat = true ∧
    { compiling [] with dev := { lockLast := (0, 1, 0, 0) } }.lockTurn 0 4 (compiling []).ns = false ∧
    { compiling [] with threads := [(0, (compiling []).thread 0), (8, { thr with sb := [held] })] }.settled
      ((compiling []).rS (quadReg 2 1)).toNat ((compiling []).rS (quadReg 2 2)).toNat = false := by
  decide +kernel
theorem witness_PcompAnswers_answers : IsCached (compiling [entry7]) (32 * 0 + 3) 7 ∧ ¬ IsCached (compiling []) (32 * 0 + 3) 7 ∧
    IsPending (compFull 1 0) (32 * 0 + 3) 7 ∧ ¬ IsPending (compiling []) (32 * 0 + 3) 7 ∧ ¬ IsPending (compFull 16 0) (32 * 0 + 3) 8 := by
  decide +kernel
/-- A sync word at s4's address: byte target 0, arrival target 2, generation 5; `l` has landed for it. -/
def syncing (l : Landed) : State :=
  { base with mem := [(0x10808, 2), (0x1080A, 5)], dev := { syncq := Tab.set {} [] 0x10800 l } }
theorem witness_SyncForms : Plain (syncing {}) 0 ∧ (syncing {}).landed 0x10800 = {} ∧ ((syncing {}).rS 5).toNat / 2 ^ 40 = 0 ∧
    ((syncing {}).rS 5).toNat / 2 ^ 8 = 0 ∧ (syncing {}).rS 5 ≠ 0 ∧ (syncing {}).ownsLock 0 = false ∧
    Reaches (syncing {}) 0 ((syncing {}).rS 4) 16 16 false true .any (phys 0x10800) ∧
    Reaches (syncing {}) 0 ((syncing {}).rS 4) 16 16 true false .any (phys 0x10800) ∧
    (memNat (syncing {}).mem (0x10800 + 10) 2 + 65536 - ((syncing {}).rS 5).toNat) % 65536 < 32768 ∧
    32768 ≤ (memNat (syncing {}).mem (0x10800 + 10) 2 + 65536 - ((withThread (withReg 5 6)).rS 5).toNat) % 65536 ∧
    ((syncing { arrs := 1 }).landed 0x10800).arrs ≠ 0 ∧ ((syncing { carry := true }).landed 0x10800).carry = true ∧
    ((syncing { carry := true }).landed 0x10800).bytes = 0 ∧ ((syncing { carry := true }).landed 0x10800).arrs = 0 := by
  unfold Plain Reaches; decide
/-- The same machine in block cycle 1, with what landed in cycle 0. -/
def cycled (l : Landed) : State := { syncing l with blks := [(syncBlk 0x10800, { cyc := 1 })] }
theorem witness_SyncForms_ends : ((cycled { arrs := 1 }).landed 0x10800).cyc < (cycled { arrs := 1 }).syncCyc 0x10800 ∧
    ((cycled { arrs := 1, who := [.thread 0 3] }).landed 0x10800).who = [.thread 0 3] ∧
    ((cycled { carry := true }).landed 0x10800).cyc < (cycled { carry := true }).syncCyc 0x10800 := by decide
theorem witness_SyncForms_settled : Settled (syncing {}) 0x10800 ∧ InMemory (phys 0x10800) ∧
    Settled (onCore id) (sramAddr 0 0x10800) := ⟨.inl rfl, .inl rfl, .inl rfl⟩
theorem witness_SyncForms_waits : Reaches mailHeld 0 (mailHeld.rS 4) 16 16 true false .any (phys 0x10800) ∧
    (mailHeld.rS 5).toNat / 2 ^ 16 = 0 ∧ ((mailHeld.thread 0).sb.any fun e => e.over (phys 0x10800) 16) = true := by
  unfold Reaches; decide
theorem witness_SyncForms_core : (onCore id).cur = .core 0 ∧ ((onCore id).rS 4).toNat % 16 = 0 ∧ ((onCore id).rS 4).toNat < 0x80000 ∧
    ((onCore id).rS 5).toNat / 2 ^ 8 = 0 ∧ (onCore id).rS 5 ≠ 0 ∧ (onCore id).released 0 = true ∧
    (onCore id).ctx.pend.any Pending.holds = false ∧
    (memNat (onCore id).mem (sramAddr 0 0x10800 + 10) 2 + 65536 - ((onCore id).rS 0).toNat) % 65536 < 32768 ∧
    32768 ≤ (memNat (onCore id).mem (sramAddr 0 0x10800 + 10) 2 + 65536 - ((onCore id).rS 5).toNat) % 65536 := by
  decide +kernel
/-- A job of 5 by 1 elements in chunks of 2 by 1, of which `q` chunks are taken, and one registered range lock. -/
def dispensing (q : Nat) (loaded : Bool) : State :=
  { withThread (withReg 7 0x010200010005) with
    blks := [(0, { jobs := [(4, { desc := 0x010200010005, q := q, loaded := loaded })] })]
    dev := { locks := [{ id := 1, xid := 1, lo := 0x10800, hi := 0x10840, write := true, uid := none }] } }
theorem witness_DispenserAndLockQuery : NotSpec (dispensing 2 true) ∧ jobLegal ((dispensing 2 true).rS 7) ∧
    (jobAt (dispensing 2 true) 0 4).loaded = true ∧
    (jobAt (dispensing 2 true) 0 4).q < chunksX (jobAt (dispensing 2 true) 0 4).desc * chunksY (jobAt (dispensing 2 true) 0 4).desc ∧
    chunksX (jobAt (dispensing 3 true) 0 4).desc * chunksY (jobAt (dispensing 3 true) 0 4).desc ≤ (jobAt (dispensing 3 true) 0 4).q ∧
    (jobAt (dispensing 0 false) 0 4).loaded = false ∧ (dispensing 2 true).rS 0 = 0 ∧ (dispensing 2 true).rS 5 ≠ 0 ∧
    (dispensing 2 true).dev.locks = [] ++ { id := 1, xid := 1, lo := 0x10800, hi := 0x10840, write := true, uid := none } :: [] ∧
    0x10800 < ((dispensing 2 true).rS 4).toNat + ((dispensing 2 true).rS 5).toNat ∧
    ((dispensing 2 true).rS 4).toNat < 0x10800 + (0x10840 - 0x10800) := by
  refine ⟨fun g h => ?_, by unfold jobLegal; decide, by decide, by decide, by decide, by decide, by decide, by decide, by decide,
    by decide, by decide⟩
  cases h
  decide

/-- A loaded context: port 3 of core 0 takes route 5, routes 6 and 7 go out, a ring of 64 bytes, an escape node. -/
def tctx : TileCtx :=
  { gid := 1, gctx := 0, gtile := 2, code := [], entry := [], args := [], inr := [{ num := 5, steer := none, dst := .port 0 3 8 }]
    outr := [{ num := 6, cmd := none, steer := none }, { num := 7, cmd := none, steer := some [2] }]
    rings := [(1, 0, 64)], escs := [(4, 2)], reent := none, words := 0, got := 0, idle := false }
def token (route : Nat) : Flit := { hdr := mkHdr 0 1 0 route 0 0 0 0, pay := 0x200000001 }
/-- Compute core 0 of tile 0 in that context, with rsel 7 and steer value 2, and registers s6 for a header word. -/
def tiled (f : TCore → TCore) (g : Tile → Tile) : State :=
  { State.reset with
    tcores := [(0, f { run := .run, ctx := ctx0, rsel := 0x2007 })]
    tiles := [(0, g { cur := some 0, ctxs := [(0, some tctx), (1, some { tctx with idle := true })], rings := [(1, { off := 0, size := 64 })] })]
    cur := .core 0 }
def tiled0 : State := tiled id id
def arrivedAt : State := tiled (fun c => { c with ports := [(3, [token 5])] }) id
theorem witness_StreamForms : arrivedAt.cur = .core 0 ∧ arrivedAt.draining 0 3 = false ∧ arrivedAt.portHead 0 3 = some (token 5) ∧
    arrivedAt.coreCtx 0 = some tctx ∧ tctx.bound 0 3 = true ∧
    tctx.out ((tiled0.tcore 0).rsel.toNat % 2 ^ 12) = some { num := 7, cmd := none, steer := some [2] } ∧
    (tiled0.tcore 0).outq.length < 16 ∧ (tiled0.tcore 0).rsel.toNat / 2 ^ 12 % 2 ^ 6 ∈ [2] ∧ (tiled0.rS 5).toNat / 2 ^ 46 = 0 ∧
    (tiled0.rS 5).toNat / 2 ^ 4 % 2 ^ 12 = 0 ∧ 1 ≤ (tiled0.rS 5).toNat % 2 ^ 4 ∧ (tiled0.rS 5).toNat % 2 ^ 4 ≤ 8 ∧
    ksOk (etCode .f32) ((tiled0.rS 5).toNat / 2 ^ 32 % 2 ^ 14) = true := by decide +kernel
theorem witness_StreamForms_holds : PortHolds arrivedAt 0 3 (token 5) ∧
    RouteIs tiled0 0 { num := 7, cmd := none, steer := some [2] } :=
  ⟨⟨by decide +kernel, by decide +kernel, by decide +kernel, tctx, by decide +kernel, by decide +kernel⟩, by decide +kernel, tctx, by decide +kernel, by decide +kernel⟩
theorem witness_StreamForms_registers : tiled0.cur = .core 0 ∧ (tiled0.rS 5).toNat < 64 := by decide +kernel
/-- Ring 1 of tile 0 with `u` bytes in use from its start; a record of two elements lies there. -/
def ringed (u : Nat) : State :=
  { tiled id (fun x => { x with rings := [(1, { off := 0, size := 64, h := u % 64, t := 0, u := u })] }) with
    mem := [(sramAddr 0 6, 0x80)] }
theorem witness_RingForms : (ringed 0).cur = .core 0 ∧ (ringed 0).ring 0 1 = some { off := 0, size := 64, h := 0, t := 0, u := 0 } ∧
    hKind ((ringed 0).rS 5) = 0 ∧ hVc ((ringed 0).rS 5) = 0 ∧ 0 + recSize (hLen ((ringed 0).rS 5) + 1) ≤ 64 ∧
    (ringed 0).waitedLonger 0 1 = false ∧ (ringed 16).ring 0 1 = some { off := 0, size := 64, h := 16, t := 0, u := 16 } ∧
    BitVec.ofNat 64 (memNat (ringed 16).mem (sramAddr 0 (0 + 0)) 8) ≠ -1#64 := by decide +kernel
theorem witness_RingForms_turn : (Ring.turn { off := 0, size := 64, h := 0, t := 0, u := 0 } ((ringed 0).blk 0).cyc 5) = true ∧
    (Ring.turn { off := 0, size := 64, h := 16, t := 0, u := 16 } ((ringed 16).blk 0).cyc 0) = true ∧ (16 : Nat) ≠ 0 := by decide +kernel
/-- The ring's end: 8 bytes are left behind H, or T stands at a pad record of 8 bytes. -/
def ringEnd : State :=
  tiled id (fun x => { x with rings := [(1, { off := 0, size := 64, h := 56, t := 56, u := 0 })] })
def padded : State :=
  { tiled id (fun x => { x with rings := [(1, { off := 0, size := 64, h := 16, t := 56, u := 24 })] }) with
    mem := (List.range 8).map fun i => (sramAddr 0 56 + i, 0xFF) }
theorem witness_RingForms_pads : ringEnd.ring 0 1 = some { off := 0, size := 64, h := 56, t := 56, u := 0 } ∧
    64 < 56 + recSize (hLen (ringEnd.rS 5) + 1) ∧ 0 + (64 - 56) + recSize (hLen (ringEnd.rS 5) + 1) ≤ 64 ∧
    ringEnd.waitedLonger 0 1 = false ∧ (Ring.turn { off := 0, size := 64, h := 56, t := 56, u := 0 } (ringEnd.blk 0).cyc 5) = true ∧
    padded.ring 0 1 = some { off := 0, size := 64, h := 16, t := 56, u := 24 } ∧ memNat padded.mem (sramAddr 0 (0 + 56)) 8 = 2 ^ 64 - 1 ∧
    24 - (64 - 56) ≠ 0 ∧ (Ring.turn { off := 0, size := 64, h := 16, t := 56, u := 24 } (padded.blk 0).cyc 0) = true := by decide +kernel
theorem witness_RingForms_padsCalm : Calm ringEnd (sramAddr 0 (0 + 56)) 8 ∧
    Calm ringEnd (sramAddr 0 0) (recSize (hLen (ringEnd.rS 5) + 1)) := ⟨calm_of_nil rfl _ _, calm_of_nil rfl _ _⟩
theorem witness_RingForms_calm : Calm (ringed 0) (sramAddr 0 0) (recSize (hLen ((ringed 0).rS 5) + 1)) := calm_of_nil rfl _ _
theorem witness_EscapeAndSwitchForms : tiled0.coreCtx 0 = some tctx ∧ tctx.escs[(0#2).toNat]? = some (4, 2) ∧
    hKind (tiled0.rS 5) = 0 ∧ hVc (tiled0.rS 5) = 0 ∧ (Tab.get {} (tiled0.tile 0).escs 0).out.length < 2 ∧
    tiled0.loaded 0 1 = true ∧ tiled0.otherSwitch 0 1 = false := by decide +kernel
def planes : State := tiled (fun c => { c with rsel := 6 }) id
theorem witness_MatrixForms : planes.cur = .core 0 ∧ (planes.tile 0).mq.length < 8 ∧ mgOk (planes.tcore 0).mdesc .plane .plane = true ∧
    mgOk 0x9900#64 .bint .bint = true ∧ (planes.rS 5).toNat < 2 ^ 10 ∧ (planes.rS 5).toNat % 32 + (planes.rS 5).toNat / 32 % 32 ≤ 31 ∧
    (planes.rS 0).toNat % 16 = 0 ∧ (planes.rS 0).toNat + 4096 ≤ 0x80000 ∧ (planes.rS 5).toNat < 2 ^ 5 ∧
    planes.coreCtx 0 = some tctx ∧ ((withThread (withReg 7 3)).rS 7).toNat < 16 ∧ tctx.bound 0 3 = true ∧
    mdOk (planes.tcore 0).mdesc = true ∧ planes.draining 0 3 = false ∧ mdsetOk (.pair 0x176) = true ∧ mdsetOk (.ext 0x9176) = true := by
  decide +kernel
theorem witness_MatrixForms_order : (planes.tile 0).mqLast.1 = (planes.blk 0).cyc → (planes.tile 0).mqLast.2 ≤ 0 := by decide +kernel
/-- s6 asks mdrain for rows by the steer values that byte 0 of v1 names, and s8 acpy for a clear. -/
def draining : State :=
  tiled (fun c => { c with ctx := { c.ctx with s := ((c.ctx.s.set 6 0x400#64).set 7 0x1000#64).set 8 0x20#64, v := c.ctx.v.set 1 2#256 } }) id
/-- s7 asks for a stop token on route 6, which has no steer values. -/
def stopping : State := tiled (fun c => { c with rsel := 6, ctx := { c.ctx with s := c.ctx.s.set 7 0x1000#64 } }) id
theorem witness_MatrixForms_stop : RouteIs stopping 0 { num := 6, cmd := none, steer := none } :=
  ⟨by decide +kernel, tctx, by decide +kernel, by decide +kernel⟩
theorem witness_MatrixForms_drains : (draining.rS 6).toNat < 2 ^ 15 ∧ (draining.rS 6).getLsbD 10 = true ∧
    (draining.rS 6).toNat / 2 ^ 12 = 0 ∧ (draining.rS 6).toNat % 32 + (draining.rS 6).toNat / 32 % 32 ≤ 31 ∧
    (draining.rV 1).toNat / 2 ^ (8 * 0) % 2 ^ 8 ∈ [2] ∧ (draining.rV 1).toNat / 2 ^ (8 * 0) % 2 ^ 8 < 64 ∧
    (stopping.rS 7).toNat < 2 ^ 15 ∧ (stopping.rS 7).toNat / 2 ^ 12 = 1 ∧ (stopping.rS 7).getLsbD 10 = false ∧ (draining.rS 8).toNat < 2 ^ 6 ∧ (draining.rS 8).toNat / 2 ^ 4 = 2 ∧
    (draining.tcore 0).rsel.toNat / 2 ^ 12 % 2 ^ 6 ∈ [2] := by decide +kernel
theorem witness_MatrixForms_steered : RouteIs draining 0 { num := 7, cmd := none, steer := some [2] } :=
  ⟨by decide +kernel, tctx, by decide +kernel, by decide +kernel⟩
/-- A pcomp of a tile core takes its stream from port 3. -/
def coreCompiling : State := tiled (fun c => { c with ctx := { c.ctx with s := (regs.set 8 7#64).set 10 3#64 } }) id
theorem witness_PcompAnswers_core : coreCompiling.cur = .core 0 ∧ coreCompiling.tileExists (32 * 0 + (0#5).toNat) = true ∧
    coreCompiling.rS (quadReg 2 3) = 0 ∧ coreCompiling.rS (quadReg 2 1) = 0 ∧ (coreCompiling.rS (quadReg 2 2)).toNat < 16 ∧
    coreCompiling.coreCtx 0 = some tctx ∧ tctx.bound 0 (coreCompiling.rS (quadReg 2 2)).toNat = true ∧
    coreCompiling.draining 0 (coreCompiling.rS (quadReg 2 2)).toNat = false := by decide +kernel
/-- A data token stands at its port. -/
def coreFed : State :=
  tiled (fun c => { c with ctx := { c.ctx with s := (regs.set 8 7#64).set 10 3#64 }, ports := [(3, [token 5])] }) id
theorem witness_PcompAnswers_port : coreCompiling.portQueue 0 (coreCompiling.rS (quadReg 2 2)).toNat = [] ∧
    coreFed.portQueue 0 (coreFed.rS (quadReg 2 2)).toNat = [token 5] ∧ hKind (token 5).hdr ≠ 7 ∧ coreFed.coreCtx 0 = some tctx ∧
    compCode coreCompiling 0 0 (coreCompiling.rS (quadReg 2 0)) = 0 := by decide +kernel
theorem witness_MatrixForms_route : RouteIs planes 0 { num := 6, cmd := none, steer := none } :=
  ⟨by decide +kernel, tctx, by decide +kernel, by decide +kernel⟩

/-! ## Vector forms -/

theorem witness_VectorIntegerForms : (Ty.i32, 32) ∈ intTypes ∧ (∃ f, vecInt (.vadd 0 1 2 3 .i32) base 32 = some (0, 1, .i32, f)) ∧
    (∃ f, vecBits (.vperm 0 1 2 3) base = some (0, 1, f)) ∧ (base.rP 0).getLsbD 7 = true ∧ (base.rP 1).getLsbD 7 = false ∧
    (6#3).toNat % 2 = 0 ∧ bitsN (lane (base.rV 1) 0).toNat 8 2 = 0 :=
  ⟨by decide, ⟨_, rfl⟩, ⟨_, rfl⟩, by decide, by decide, by decide, by decide⟩
def guarding : State := { base with threads := [(0, { thr with ctx := { ctx0 with v := ctx0.v.set 1 0x000001000000101#256 } })] }
theorem witness_VectorIntegerForms_guard : (guardOf (guarding.rV 1)).invalid = false ∧ bitsN (lane (guarding.rV 1) 0).toNat 8 2 ≠ 0 := by
  decide
theorem witness_VectorFloatForms : (Ty.bf16, fBF16) ∈ floatTypes ∧
    (∃ g, vecFloat (.vfma 0 1 2 3 .bf16) base fBF16 = some (0, 1, .bf16, g)) :=
  ⟨by simp [floatTypes], ⟨_, rfl⟩⟩
theorem witness_VectorLongForms : (Ty.f16, fF16) ∈ floatTypes ∧ (∃ g, vecDeep (.vdiv 0 1 2 3 .f16) base fF16 = some (0, 1, .f16, g)) ∧
    (Ty.i8, 8) ∈ intTypes ∧ base.rP 0 ≠ 0 ∧ base.rP 1 = 0 :=
  ⟨by simp [floatTypes], ⟨_, rfl⟩, by decide, by decide, by decide⟩
theorem witness_VectorCompareAndPack : ∃ f, vecCmp (.vcmpLt 0 1 2 3 .i16) = some (0, 1, 2, 3, .i16, .lt, f) ∧ (Ty.i16, 16) ∈ intTypes ∧
    (Ty.f32, fF32) ∈ floatTypes ∧ (1#2, 6) ∈ [(0#2, 8), (1#2, 6), (2#2, 4)] :=
  ⟨_, rfl, by decide, by simp [floatTypes], by decide⟩

end Sys2Proof.Tests
end

