-- ==== Sys2Proof/Tests/WitnessEvents.lean ====
section
/-!
SUPPORT. Concrete machines that meet the hypotheses of the statements about events and about the whole machine, clause by clause.
-/
namespace Sys2Proof.Tests

set_option Elab.async false

open Sys2Proof Sys2Proof.Machine Sys2Proof.Claims

/-! ## Threads, rotundas, transfers -/

/-- A result of 0x77 for s3 whose window has ended, and one for v2's lane 0 with a bundle left. -/
def result (left : Nat) : Pending := { dest := .sreg 3, left := left, ready := true, val := 0x77 }
def laneResult (left : Nat) : Pending := { dest := .vreg 2 1, left := left, ready := true, val := 0x55, flags := 16 }
def ended : State := withThread fun t => { t with ctx := { t.ctx with pend := [result 0, laneResult 1] } }
def endedCore : State := onCore fun c => { c with ctx := { c.ctx with pend := [result 0, laneResult 1] } }
/-- Sixty-four bundles have passed since a completion was queued. -/
def overdue : State := withThread fun t =>
  { t with ctx := { t.ctx with pend := [result 3] }, dueN := 64, uie := true, comps := [{ id := 1, xst := 2, hnd := 0x10200 }] }
def diverting : State := withThread fun t => { t with uie := true, comps := [{ id := 1, xst := 2, hnd := 0x10200 }] }
/-- A page table of one page for each of fields 0's uses: T0 at 0x1000 names T1 at 0x2000, that T2 at 0x3000, that T3 at 0x4000; the
page of virtual address 0x10000 is 0x10000. -/
def tables : List Host.Cell :=
  [(0x1000, 1), (0x1001, 0x20), (0x2000, 1), (0x2001, 0x30), (0x3000, 1), (0x3001, 0x40), (0x4008, 0xDF), (0x4009, 2), (0x400A, 1)]
def mapped : State := { withThread id with mem := tables, dev := { ptroot := 0x1000 } }
def walking : State := { mapped with blks := [(0, { walks := [{ va := 0x10800, kind := .read, who := [.thread 0] }] })] }
theorem witness_ThreadEvents : (ended.thread 0).run = .run ∧ (endedCore.tcore 0).run = .run ∧
    (ended.thread 0).ctx.pend = [result 0, laneResult 1] ∧ (∀ q ∈ [laneResult 1], q.left ≠ 0) ∧
    (endedCore.tcore 0).ctx.pend = [result 0, laneResult 1] ∧ (result 0).left = 0 ∧ (result 0).ready = true ∧
    (result 0).fault = none ∧ (overdue.thread 0).run = .run ∧ (overdue.thread 0).eventDue = true ∧ (overdue.thread 0).dueN ≥ 64 ∧
    (∀ p ∈ (overdue.thread 0).ctx.pend, p.ready = true ∧ p.fault = none) ∧ (diverting.thread 0).run = .run ∧
    (diverting.thread 0).uie = true ∧ (diverting.thread 0).inuh = false ∧ (diverting.thread 0).comps.length = 1 ∧
    (diverting.thread 0).due = [] ∧ (diverting.thread 0).spec = false ∧ (diverting.thread 0).ctx.pend = [] ∧
    (walking.blk 0).walks[0]? = some { va := 0x10800, kind := .read, who := [.thread 0] } ∧
    walking.walk 0x10800 = .leaf 0x102DF 3 0x4008 := by decide

/-- Handler 1 at 0x8020: valid, code 0x10200, stacks of 32 bytes from 0x20000, queue priority 0, every sender. -/
def handlers : List Host.Cell :=
  [(0x8021, 2), (0x8022, 1), (0x8027, 0xC0), (0x802A, 2), (0x8030, 32), (0x8038, 0x1F)]
def handler1 : HEntry := { sv := true, gsz := 0, prio := 0, code := 0x10200, sbase := 0x20000, quota := 0, ssz := 32, snd := 0x1F }
def record (h : Nat) (e : Option HEntry) (since : Nat) : Rec :=
  { data := mkRec h [1, 2, 3, 4] 5 0, sender := .thread true, path := .core 0, pref := .field, notify := .pend 0 9, entry := e, since := since }
/-- A field whose rotunda has record `r` on its way in, `l` in its first queue and `m` in its second. -/
def rotunda (r l m : List Rec) : State :=
  { withThread (fun t => { t with ctx := { t.ctx with pend := [{ dest := .sreg 3, left := 4, ready := false, val := 0, tok := 9 }] } }) with
    mem := handlers
    fields := [(0, { arr := r, queues := [(0, l), (1, m)].filter fun e => e.2 ≠ [], recs := [] })]
    dev := { htbase := 0x8000, phase := 7, job := true }, ns := 70000 }
/-- The task of `tasked`, in the state that its arbiter and its slot give. -/
def tasking (k : Task) (f : Thread → Thread) : State :=
  { withThread (fun t => f { t with task := some (0, 0), tsval := 9 }) with blks := [(0, { tasks := [k] })] }
def hitTask0 : Task := { task0 with hit := true }
def doneTask : Task := { task0 with buf := [(0x10800, some 7)] }
theorem witness_RotundaAndArbiterEvents :
    (rotunda [{ record 1 none 0 with notify := .nobody }] [] []).judge 0 { record 1 none 0 with notify := .nobody } =
      .queue { record 1 (some handler1) 0 with notify := .nobody } ∧
    (rotunda [record 2 none 0] [] []).judge 0 (record 2 none 0) = .refuse 2 ∧
    ((rotunda [record 2 none 0] [] []).field 0).arr = [record 2 none 0] ∧ (rotunda [record 2 none 0] [] []).lanesLeft 0 9 = none ∧
    Tab.get [] ((rotunda [] [record 1 (some handler1) 0] []).field 0).queues 0 = [record 1 (some handler1) 0] ∧
    Tab.get [] ((rotunda [] [record 1 (some handler1) 0] []).field 0).lists 0 = [] ∧
    ((rotunda [] [record 1 (some handler1) 0] []).field 0).lastAdmit ≠ some (rotunda [] [record 1 (some handler1) 0] []).ns ∧
    (rotunda [] [record 1 (some handler1) 0] []).fits 0 0 (.record (record 1 (some handler1) 0)) = some 1 ∧
    ((rotunda [] [record 1 (some handler1) 0] []).slotsFor 0 0 1 true).head? = some 8 ∧
    Tab.get [] ((rotunda [] [] [record 1 (some handler1) 6000]).field 0).queues 1 = [record 1 (some handler1) 6000] ∧
    6000 + 64000 ≤ (rotunda [] [] [record 1 (some handler1) 6000]).ns ∧
    (Tab.get [] ((rotunda [] (List.replicate 256 (record 1 none 0)) []).field 0).queues (1 - 1)).length ≥ 256 ∧
    (tasking hitTask0 fun t => { t with spec := true }).taskOf 0 = some hitTask0 ∧
    (tasking task0 fun t => { t with run := .parked }).isOldest 0 = true ∧
    (((tasking doneTask fun t => { t with run := .finished false 0 0 0 }).blk 0).tasks = [doneTask]) ∧
    ((tasking doneTask fun t => { t with run := .finished false 0 0 0 }).thread 0).group = none := by
  decide +kernel
theorem witness_RotundaAndArbiterEvents_commit : doneTask.hit = false ∧ doneTask.sws = [] ∧
    ((tasking doneTask fun t => { t with run := .finished false 0 0 0 }).thread 0).task = some (0, doneTask.num) ∧
    (∀ e ∈ doneTask.buf, homeOf e.1 ≠ some .regs) ∧
    ∀ e ∈ doneTask.buf, Calm (tasking doneTask fun t => { t with run := .finished false 0 0 0 }) (e.1 / 64 * 64) 64 :=
  ⟨by decide, by decide, by decide +kernel, by decide +kernel, fun _ _ => calm_of_nil rfl _ _⟩

/-- A command word that has reached port 1 of block 0 over its route, and the port, which reads memory through the page. -/
def arriving (w : List Word) (busy : Bool) : Arriving := { route := 5, gid := 1, w := w, busy := busy, stall := none }
def userPage : TlbEntry := { base := 0x10000, level := 3, leaf := 0x102DF#64 }
def lock4 : Lock := { id := 4, xid := 7, lo := 0x10800, hi := 0x10840, write := false, uid := none }
def atPort (a : Arriving) (q : List Nat) (locks from_ : Nat) : State :=
  { State.reset with
    mem := [(0x10800, 64)], blks := [(0, { ports := [(1, { arr := [a], q := q, from_ := from_, tlb := [userPage] })] })]
    dev := { locks := List.replicate locks lock4 } }
/-- A place in tile 0's SRAM, as an endpoint of a command. -/
def tileEnd (off : Nat) : Word := BitVec.ofNat 64 (2 ^ 63 + off)
/-- A gated copy of 64 bytes that waits for generation 3 of the sync word at 0x40 of tile 0, or of that at 0x10800, a fill of 40 bytes at
0x108, and a compile of 8 bytes with identity 7. -/
def gated (e : Word) : List Word × List Word := ([0x0300000000000007, 0x10800, 0x10900, 0], [0x0003000000000040, e, 0, 0])
def filling : List Word × List Word := ([0x4100000000000007, 0, tileEnd 0x108, 0], [40, 0, 0, 0, 0x1122334455667788])
def compiling6 : List Word × List Word := ([0x6100000000000007, 0x10800, tileEnd 0, 0], [8, 0, 0, 0, 7])
def copying : List Word × List Word := ([7, 0x10800, tileEnd 0x108, 64], [])
def transfer (wp : List Word × List Word) (ph : XPhase) : Xfer :=
  { blk := 0, port := 1, uid := none, route := 5, gid := some 1, w := wp.1, pb := wp.2, list := [], phase := ph }
/-- Transfer 4 at the head of port 1; graph 1 has a route of number 9 from port 1 of block 0 to the SRAM of its one tile, tile 0. -/
def viaGraph : Graph :=
  { gaddr := 0x40000, origin := 0, place := [0]
    desc := { name := "g", tiles := [some 0]
              ctxs := [some { nodes := [], routes := [{ num := 9, src := .xq 0 1, dsts := [(none, .sram 0)], rate := none }]
                              rings := [], code := [], images := [] }] }
    done := 0, args := [], convs := [], mode := 0, live := true }
def queued (x : Xfer) (l : List Lock) : State :=
  { State.reset with
    blks := [(0, { ports := [(1, { q := [4], tlb := [userPage] })] })]
    tiles := [(0, { cur := some 0, ctxs := [(0, some { tctx with gtile := 0 })] })]
    dev := { xfers := [(4, some x)], locks := l, graphs := [(1, some viaGraph)] } }
def notifying : List Word × List Word := ([0x0900000000000007, 0x10800, 0x10900, 0], [0x40, 0, 0, 0x10200])
/-- A finished copy of thread 0 that leaves a completion. -/
def completing : State :=
  { withThread id with dev := { xfers := [(4, some { transfer notifying .moved with uid := some (0, 0) })] } }
/-- A converted copy over route 9 into tile 0's SRAM, to be started, and all of it sent and written. -/
def viaWords : List Word × List Word := ([0x0000900000000000, 0x10800, tileEnd 0x200, 64], [])
def viaDone : Xfer := { transfer viaWords .running with closed := true }
/-- The port reads its page for itself. -/
theorem portReads_page (s : State) (va : Nat) (p : Phys) (h : (s.xport 1).walked = none ∧ s.xportXl 1 va false = .ok p ∧ s.atEdge p = none) :
    PortReads s 1 va p := h
theorem sources_one (p : Phys) (e : Nat × Nat) (xl : Nat → Phys → Prop) (h : xl e.1 p) (m : InMemory p) : Sources [p] [e] xl := by
  refine ⟨rfl, fun k a q hk hq => ?_⟩
  cases k with
  | zero => cases hk; cases hq; exact ⟨h, m⟩
  | succ n => cases hk
/-- A command without a block and one with a block, as they enter: clause by clause. -/
theorem witness_TransferEvents_entry : ((atPort (arriving copyWords false) [] 0 0).xport 1).arr = [arriving copyWords false] ∧
    ((atPort (arriving copyWords true) [] 0 1).xport 1).arr = [arriving copyWords true] ∧
    (atPort (arriving copyWords false) [] 0 0).wordsOk (1 / 4) copyWords = true ∧ cmdPb (copyWords.getD 0 0) = false ∧
    (∀ c ∈ copyCmd, cmdOf copyWords [] = some c ∧ c.cmode < 2 ∧ c.kind ≠ 2 ∧ c.kind ≠ 3 ∧
      (atPort (arriving copyWords false) [] 0 0).cmdFits (1 / 4) c = true ∧ (atPort (arriving copyWords false) [] 0 0).gateMapped c = true ∧
      (c.lockRanges ((atPort (arriving copyWords false) [] 0 0).entriesOf c)).length ≤ (atPort (arriving copyWords false) [] 0 0).lockRoom ∧
      (atPort (arriving copyWords false) [] 511 0).lockRoom < (c.lockRanges []).length) ∧
    copyCmd.isSome ∧ (atPort (arriving copyWords false) [] 0 0).portsGone 0 = false ∧
    (atPort (arriving copyWords false) [] 0 0).entryTurn (4 * 0 + 1) (arriving copyWords false).ns = true ∧
    16 ≤ ((atPort (arriving copyWords false) (List.range 16) 0 0).xport 1).q.length ∧
    (atPort (arriving copyWords false) (List.range 16) 0 0).entryTurn (4 * 0 + 1) (arriving copyWords false).ns = true ∧
    ((atPort (arriving copyWords true) [] 0 0).xport 1).from_ ≤ ((atPort (arriving copyWords true) [] 0 0).blk 0).cyc ∧
    ((atPort (arriving copyWords true) [] 0 1).blk 0).cyc < ((atPort (arriving copyWords true) [] 0 1).xport 1).from_ ∧
    State.reset.wordsOk 0 [0x7000000000000000] = false := by decide +kernel
theorem witness_TransferEvents_block : (atPort (arriving blockWords false) [] 0 0).wordsOk (1 / 4) blockWords = true ∧
    (∀ c ∈ cmdOf blockWords (64 :: List.replicate 10 0), c.cmode < 2 ∧ (atPort (arriving blockWords false) [] 0 0).cmdFits (1 / 4) c = true ∧
      (atPort (arriving blockWords false) [] 0 0).gateMapped c = true) ∧ (cmdOf blockWords (64 :: List.replicate 10 0)).isSome ∧
    PortBlock (atPort (arriving blockWords false) [] 0 0) 1 blockWords (64 :: List.replicate 10 0) :=
  ⟨by decide +kernel, by decide +kernel, by decide +kernel, .inr ⟨by decide +kernel, [phys 0x10800],
    (show Sources _ [(0x10800, 32)] _ from sources_one _ _ _ ⟨by decide +kernel, by decide +kernel, by decide +kernel⟩ (.inl rfl)),
    by decide +kernel⟩⟩
theorem witness_TransferEvents_gate :
    (cmdOf (gated (tileEnd 0x40)).1 (gated (tileEnd 0x40)).2).map (fun c => (c.gate, c.gsync, c.ggen)) = some (true, some (.tile 0 0x40), 3) ∧
    (cmdOf (gated 0x10840).1 (gated 0x10840).2).map (fun c => (c.gate, c.gsync, c.ggen)) = some (true, some (.mem 0x10840), 3) ∧
    ((queued (transfer (gated 0x10840) .queued) []).xport 1).q.head? = some 4 ∧
    (queued (transfer (gated 0x10840) .queued) []).xfer 4 = some (transfer (gated 0x10840) .queued) ∧
    ((queued (transfer (gated 0x10840) .queued) []).xport 1).walked = none ∧
    (queued (transfer (gated 0x10840) .queued) []).xportXl 1 0x10840 false = .ok (phys 0x10840) ∧
    (queued (transfer (gated 0x10840) .queued) []).atEdge (phys 0x10840) = none ∧ (phys 0x10840).hash = false := by decide +kernel
theorem witness_TransferEvents_start : (cmdOf copying.1 copying.2).map (fun c => (c.kind, c.via, c.gate)) = some (0, 0, false) ∧
    (queued (transfer copying .queued) [lock4]).acked 4 = true ∧
    (cmdOf viaWords.1 viaWords.2).map (fun c => (c.kind, c.via, c.dst)) = some (0, 9, .tile 0 0x200) ∧
    (∀ c ∈ cmdOf viaWords.1 viaWords.2, (queued (transfer viaWords .queued) []).viaPath 0 c = some (1, [9], 9) ∧
      (queued (transfer viaWords .queued) []).viaBusy 4 1 c.via = false ∧ (queued (transfer viaWords .queued) []).viaOpen c 9 = false) ∧
    (cmdOf compiling6.1 compiling6.2).map (fun c => (c.kind, c.dst, c.csync, c.pat)) = some (6, .tile 0 0, none, 7) ∧
    (queued (transfer compiling6 .queued) []).acked 4 = true := by decide +kernel
/-- Tile 0 with `l` in its cache, and `n` compiles queued in block 0. -/
def starting (l : List McEntry) (n : Nat) : State :=
  { queued (transfer compiling6 .queued) [] with
    tiles := [(0, { mcache := l })]
    blks := [(0, { ports := [(1, { q := [4] })], comps := List.replicate n { pending7 with tile := 0 } })] }
theorem witness_TransferEvents_compile : IsCached (starting [entry7] 0) 0 7 ∧ ¬ IsCached (starting [] 0) 0 7 ∧ IsPending (starting [] 1) 0 7 ∧
    ¬ IsPending (starting [] 0) 0 7 ∧ ((starting [] 0).blk 0).comps.length < 16 ∧
    ((starting [] 16).blk 0).comps.length = 16 ∧ ¬ IsPending (starting [] 16) 0 8 := by decide +kernel
theorem witness_TransferEvents_runs : (∀ c ∈ cmdOf filling.1 filling.2, RunsTo (queued (transfer filling .running) []) 4 (transfer filling .running) c 0 0x108 ∧
      c.kind = 4) ∧
    (∀ c ∈ cmdOf copying.1 copying.2, RunsTo (queued (transfer copying .running) []) 4 (transfer copying .running) c 0 0x108 ∧ c.kind ≤ 1 ∧
      c.src = .mem 0x10800 ∧
      Sources [phys 0x10800] (pageParts (nextSrc (transfer copying .running) c) (nextLen (transfer copying .running) c))
        (PortReads (queued (transfer copying .running) []) 1)) ∧
    (cmdOf filling.1 filling.2).isSome ∧ (cmdOf copying.1 copying.2).isSome := by
  refine ⟨fun c h => ?_, fun c h => ?_, by decide +kernel, by decide +kernel⟩
  · have e : cmdOf filling.1 filling.2 = some c := h
    have d : ∀ c ∈ cmdOf filling.1 filling.2, c.via = 0 ∧ c.dst = .tile 0 0x108 ∧ c.csync = none ∧ c.kind = 4 ∧
        (queued (transfer filling .running) []).atEdge { pa := sramAddr 0 (nextDst (transfer filling .running) c), home := .aperture, sw := false } = none := by
      decide +kernel
    obtain ⟨d1, d2, d3, d4, d5⟩ := d c h
    exact ⟨⟨rfl, e, rfl, rfl, rfl, rfl, d1, d2, d3, d5, calm_of_nil rfl _ _⟩, d4⟩
  · have e : cmdOf copying.1 copying.2 = some c := h
    have d : ∀ c ∈ cmdOf copying.1 copying.2, c.via = 0 ∧ c.dst = .tile 0 0x108 ∧ c.csync = none ∧ c.kind ≤ 1 ∧ c.src = .mem 0x10800 ∧
        pageParts (nextSrc (transfer copying .running) c) (nextLen (transfer copying .running) c) = [(0x10800, 24)] ∧
        (queued (transfer copying .running) []).atEdge { pa := sramAddr 0 (nextDst (transfer copying .running) c), home := .aperture, sw := false } = none := by
      decide +kernel
    obtain ⟨d1, d2, d3, d4, d5, d6, d7⟩ := d c h
    refine ⟨⟨rfl, e, rfl, rfl, rfl, rfl, d1, d2, d3, d7, calm_of_nil rfl _ _⟩, d4, d5, ?_⟩
    rw [d6]
    exact sources_one _ _ _ ⟨by decide +kernel, by decide +kernel, by decide +kernel⟩ (.inl rfl)
theorem witness_TransferEvents_ends : ((queued (transfer copying .moved) [lock4]).dev.locks.filter fun m => decide (m.id = 4))[0]? = some lock4 ∧
    (queued (transfer copying .moved) [lock4]).xfer 4 = some (transfer copying .moved) ∧ (transfer copying .moved).counts = 0 ∧
    (queued { transfer copying .running with closed := true } [lock4]).xfer 4 = some { transfer copying .running with closed := true } ∧
    (cmdOf copying.1 copying.2).map (fun c => (c.via, c.kind)) = some (0, 0) ∧ ((queued (transfer copying .running) [{ lock4 with write := true }]).dev.locks.filter fun m => decide (m.id = 4))[0]? =
      some { lock4 with write := true } ∧
    (completing.dev.locks = [] ∧ (cmdOf notifying.1 notifying.2).map (fun c => c.cmode) = some 2) ∧ (completing.thread 0).comps.length < 8 ∧
    completing.threads.find? (fun e => e.2.uid == 0 && e.2.run != .free) = some (0, completing.thread 0) ∧
    (cmdOf viaDone.w viaDone.pb).map (fun c => (c.via, c.dst)) = some (9, .tile 0 0x200) ∧
    ((queued viaDone []).tile 0).via = [] ∧
    (∀ c ∈ cmdOf viaDone.w viaDone.pb, ∀ v ∈ (queued viaDone []).viaOf 0 c, (queued viaDone []).onRoute v.gid c.via = false) ∧
    (∀ c ∈ cmdOf viaDone.w viaDone.pb, ((queued viaDone []).viaOf 0 c).isSome) := by decide +kernel

/-! ## The mesh, the nodes, graphs -/

/-- A route's entry at router 0 towards router 5 of the same row. -/
def east5 : BitVec 32 := 0x85000000
/-- Flit `f` has come to router 0 from the tile, and route 6 goes east. -/
def atRouter (f : Flit) : State := { State.reset.setLink 0 .inject 0 [f] with mesh := { (State.reset.setLink 0 .inject 0 [f]).mesh with rtab := [(6, east5)] } }
/-- A context whose routes end in a port, a ring, a placing area and tile SRAM. -/
def ends : TileCtx :=
  { tctx with
    inr := [{ num := 5, steer := none, dst := .port 0 3 8 }, { num := 8, steer := none, dst := .ring 1 },
      { num := 9, steer := none, dst := .place 0x100 }, { num := 10, steer := none, dst := .sram }] }
def inboxed (f : Flit) (g : Tile → Tile) : State :=
  { State.reset with
    tiles := [(0, g { cur := some 0, ctxs := [(0, some ends)], inbox := [(some 0, f)], rings := [(1, { off := 0, size := 64 })] })] }
/-- A fault notice's flit. -/
def noted : Flit := { hdr := mkHdr 8 0 0 0 0 0 0 1, pay := 0 }
/-- Fault notice `noted` of field 0 has come to router `r` from the unit there. -/
def notedAt (r : Nat) : State :=
  { State.reset with
    fields := [(0, { notices := [{ flit := noted, what := { cause := 1, unit := 0x21, time := 5 } }] })], mesh := { links := [(linkKey r .inject 3, [noted])] } }
theorem dimStep_zero (w : Nat) : (0 < routerX w → dimStep 0 w = some .east) ∧ (routerX w = 0 → dimStep 1 w = some .west) := by
  constructor <;> intro h
  · exact if_pos h
  · show (if routerX 1 < routerX w then _ else if routerX w < routerX 1 then _ else _) = _
    rw [h]
    rfl
/-- Whatever router the fault unit has, router 0 or router 1 has a step to take towards it. -/
theorem witness_MeshEvents_notice : ∃ r q d side, (notedAt r).link r .inject 3 = [noted] ∧ (notedAt r).routerDead r = false ∧
    hKind noted.hdr = 8 ∧ hVc noted.hdr = 3 ∧ (notedAt r).noticeField noted = some 0 ∧ dimStep r (faultRouter 0) = some d ∧
    neighbour r d = some (q, side) ∧ (notedAt r).linkRoom q side 3 = true := by
  rcases Nat.eq_zero_or_pos (routerX (faultRouter 0)) with h | h
  · exact ⟨1, 0, .west, .east, by decide +kernel, by decide +kernel, by decide, by decide, by decide +kernel, (dimStep_zero _).2 h, by decide,
      decide_eq_true (Nat.zero_le _)⟩
  · exact ⟨0, 1, .east, .west, by decide +kernel, by decide +kernel, by decide, by decide, by decide +kernel, (dimStep_zero _).1 h, by decide,
      decide_eq_true (Nat.zero_le _)⟩
/-- A token of two elements for the first place of an area, with the stop; one for a port of width 8; one for SRAM. -/
def placed : Flit := { hdr := mkHdr 0 1 1 9 0 1 0 0, pay := 0x200000001 }
theorem witness_MeshEvents : (atRouter (token 6)).link 0 .inject (0#2).toNat = [token 6] ∧ (atRouter (token 6)).routerDead 0 = false ∧ hKind (token 6).hdr ≠ 8 ∧ hKind (token 7).hdr ≠ 8 ∧
    (atRouter (token 6)).hops 0 (token 6) = some [.go .east] ∧ neighbour 0 .east = some (1, .west) ∧
    (atRouter (token 6)).link 1 .west (hVc (token 6).hdr) = [] ∧ (atRouter (token 7)).hops 0 (token 7) = none ∧
    ((tiled (fun c => { c with outq := [token 6] }) id).tcore 0).outq = [token 6] ∧
    (tiled (fun c => { c with outq := [token 6] }) id).coreCtx 0 = some tctx ∧
    tctx.out (hRoute (token 6).hdr) = some { num := 6, cmd := none, steer := none } ∧
    (tiled (fun c => { c with outq := [token 6] }) id).tileCut 0 = false ∧
    (tiled (fun c => { c with outq := [token 6] }) id).link 0 .inject (hVc (token 6).hdr) = [] ∧
    Arrived (inboxed (token 5) id) 0 0 { num := 5, steer := none, dst := .port 0 3 8 } (token 5) (Consumer.isPort 0 3) ∧
    hLen (token 5).hdr + 1 ≤ Consumer.width (.port 0 3 8) ∧ (∀ d ∈ ((inboxed (token 5) id).tcore 0).drains, d.port ≠ 3) ∧
    Arrived (inboxed (token 8) id) 0 0 { num := 8, steer := none, dst := .ring 1 } (token 8) (Consumer.isRing 1) ∧
    (inboxed (token 8) id).ring 0 1 = some { off := 0, size := 64 } ∧ 0 + recSize (hLen (token 8).hdr + 1) ≤ 64 ∧
    Ring.turn { off := 0, size := 64 } ((inboxed (token 8) id).blk 0).cyc 4 = true ∧ hKind (token 8).hdr ≠ 7 ∧
    Arrived (inboxed placed id) 0 0 { num := 9, steer := none, dst := .place 0x100 } placed Consumer.isPlace ∧
    hKind placed.hdr ≠ 7 ∧ hSeq placed.hdr ≠ 0 ∧ 0x100 + 32 * hSeq placed.hdr ≤ 0x80000 := by
  unfold Arrived; decide +kernel
theorem witness_MeshEvents_calm : Calm (inboxed (token 8) id) (sramAddr 0 0) (recSize (hLen (token 8).hdr + 1)) ∧
    Calm (inboxed placed id) (sramAddr 0 0x100) 8 ∧ Settled (inboxed placed id) (sramAddr 0 (0x100 - 16)) :=
  ⟨calm_of_nil rfl _ _, calm_of_nil rfl _ _, .inl rfl⟩
theorem witness_MeshEvents_room : (atRouter (token 6)).linkRoom 1 .west (hVc (token 6).hdr) = true ∧
    (tiled (fun c => { c with outq := [token 6] }) id).linkRoom 0 .inject (hVc (token 6).hdr) = true :=
  ⟨decide_eq_true (Nat.zero_le _), decide_eq_true (Nat.zero_le _)⟩
/-- Transfer 4 of `viaDone`, still open, writes route 10's tokens from offset 0x200 of tile 0. -/
def viaOpen : State :=
  { inboxed (token 10) (fun x => { x with via := [(4, 10, 0x200, 0)] }) with
    dev := { xfers := [(4, some { viaDone with closed := false })] } }
theorem witness_MeshEvents_via : Arrived viaOpen 0 0 { num := 10, steer := none, dst := .sram } (token 10) Consumer.isSram ∧
    (viaOpen.tile 0).viaFor (hRoute (token 10).hdr) = some (4, hRoute (token 10).hdr, 0x200, 0) ∧
    viaOpen.xfer 4 = some { viaDone with closed := false } ∧ (cmdOf viaDone.w viaDone.pb).map (fun c => c.csync) = some none ∧
    viaDone.xst = 0 ∧ viaPlace 0x200 0 (token 10) = some (0x200, leBytes 8 0x200000001) ∧ hKind (token 10).hdr ≠ 7 := by
  unfold Arrived; decide +kernel
theorem witness_MeshEvents_via_calm : Calm viaOpen (sramAddr 0 0x200) 8 := calm_of_nil rfl _ _

/-- Converter 0 from f32 to bf16, with its queues. -/
def conv0 (i o : List Flit) : Conv :=
  { gid := 1, ins := [], src := .plain .f32, dst := .elem .bf16, planes := 0, route := 6, inq := i, outq := o, vals := [], blkn := 0
    off := none, count := 0, halted := false, waited := some 70000 }
def converting (i o : List Flit) : State := { State.reset with dev := { convs := [(0, some (conv0 i o))] } }
def floats : Flit := { hdr := mkHdr 0 7 0 5 0 0 1 0, pay := 0x3F80000040000000 }
/-- The adder of Marold port 2, with a token from upstream and one of the graph's own. -/
def adding (u v : Flit) : State :=
  { State.reset with dev := { adders := [(2, [{ gid := 1, upr := 5, locr := 6, up := [u], loc := [v], halted := false }])] } }
/-- The converter of a graph that is being unloaded. -/
def cutting : State :=
  { State.reset with dev := { convs := [(0, some (conv0 [] [token 6]))], graphs := [(1, some { viaGraph with cut := true })] } }
/-- A token of 32 codes of four bits with the scale 0x7F, and one of floats that ends its stream. -/
def mxToken : Flit := { hdr := mkHdr 0 3 0 5 0 0 7 (0x7F + 31 * 256), pay := 0x12345678 }
def lastFloats : Flit := { hdr := mkHdr 0 7 1 5 0 0 1 0, pay := 0x3F80000040000000 }
/-- An escaped token has come back to node 0 of tile 0, whose core 1 takes the re-entries. -/
def escaped : State :=
  { State.reset with tiles := [(0, { cur := some 0, ctxs := [(0, some { tctx with reent := some 1 })], escs := [(0, { pool := 2, next := 1, out := [{ n := 0, tok := token 5, ordered := true, back := some 9 }] })] })] }
def agen0 : Agen :=
  { gid := 1, ins := [], gctx := 0, store := false, base := 0x10800, run := 32, gap := 0, count := 2, et := .f32, route := 6, active := true
    n := 0, part := [], inq := [], outq := [], arrs := 0, stall := none, halted := false, waited := none, tlb := [page], walked := none
    far := .idle }
/-- Address generator 0, changed by `f`. -/
def generating (f : Agen → Agen) : State := { State.reset with dev := { agens := [(0, some (f agen0))] } }
theorem witness_FabricNodeEvents : (converting [] [token 6]).conv 0 = some (conv0 [] [token 6]) ∧
    (converting [floats] []).conv 0 = some (conv0 [floats] []) ∧ hKind floats.hdr ≠ 7 ∧
    tokenCodes (.plain .f32) (token 5) = none ∧ hKind (token 5).hdr ≠ 7 ∧
    tokenCodes (.plain .f32) floats = some [0x40000000, 0x3F800000, 0, 0, 0, 0, 0, 0] ∧ hStop floats.hdr = 0 ∧
    0 + [0x40000000, 0x3F800000, 0, 0, 0, 0, 0, 0].length < firingSize (.plain .f32) (.elem .bf16) ∧
    (adding floats floats).adder 2 = some { gid := 1, upr := 5, locr := 6, up := [floats], loc := [floats], halted := false } ∧
    (adding floats floats).regionCut 1 = false ∧ (converting [] [token 6]).regionCut 1 = false ∧ (cutting.regionCut 1 = true ∧ cutting.conv 0 = some (conv0 [] [token 6])) ∧
    ((adding floats floats).port 2).waitq.length < 64 ∧ hEtype floats.hdr = 1 ∧ hEtype floats.hdr ≠ hEtype (token 5).hdr ∧
    (Tab.get {} (escaped.tile 0).escs 0).ready = some (0, { n := 0, tok := token 5, ordered := true, back := some 9 }, 9) ∧
    (Tab.get {} (escaped.tile 0).escs 0).queue.length < (Tab.get {} (escaped.tile 0).escs 0).pool ∧
    (escaped.field 0).bkesc.holds (Tab.get 0 escaped.dev.spente 0) = true ∧
    (escaped.tileCtx 0).bind TileCtx.reent = some 1 ∧ (∀ d ∈ (escaped.tcore 1).drains, d.port ≠ 15 - 0) ∧
    tokenCodes (.mx .e2m1) mxToken = some ([8, 7, 6, 5, 4, 3, 2, 1] ++ List.replicate 24 0) ∧ hKind mxToken.hdr ≠ 7 ∧
    (tokenCodes (.plain .f32) lastFloats).isSome ∧ hStop lastFloats.hdr ≠ 0 ∧ hKind lastFloats.hdr ≠ 7 ∧
    firingSize (.plain .f32) (.elem .bf16) ≤ [0#32, 0, 0, 0, 0, 0, 0, 0].length + [0x40000000, 0x3F800000, 0, 0, 0, 0, 0, 0].length ∧
    (∀ x ∈ (tiled (fun c => { c with waited := some (70000, 6) }) id).tileCtx 0,
      (tiled (fun c => { c with waited := some (70000, 6) }) id).regionFaulted x.gid = false) ∧
    (generating fun a => { a with waited := some 70000 }).regionFaulted 1 = false ∧ (converting [] []).regionFaulted 1 = false ∧
    ((tiled (fun c => { c with waited := some (70000, 6) }) id).tcore 0).waited = some (70000, 6) ∧
    (tiled (fun c => { c with waited := some (70000, 6) }) id).coreLimit 0 6 < 70000 ∧
    (generating fun a => { a with waited := some 70000 }).routeLimit (memRouter 0) 6 < 70000 ∧
    (converting [] []).routeLimit (convRouter 0) 6 < 70000 := by decide +kernel
theorem witness_FabricNodeEvents_room : (converting [] [token 6]).linkRoom (convRouter 0) .inject 0 = true :=
  decide_eq_true (Nat.zero_le _)

def loadNode : Agen → Agen := fun a => { a with tlb := [userPage] }
def storeNode : Agen → Agen := fun a => { a with tlb := [userPage], store := true, inq := [token 6] }
/-- A graph on tile 0 that sends its done arrivals to the page. -/
def graph1 (mode : Nat) (live : Bool) : Graph :=
  { gaddr := 0x20000, origin := 0, place := [0], desc := default, done := 0x10800, args := [], convs := [], mode := mode, live := live }
def arrivalNode : State :=
  { generating (fun a => { a with tlb := [userPage], arrs := 1 }) with
    dev := { agens := [(0, some { agen0 with tlb := [userPage], arrs := 1 })], graphs := [(1, some (graph1 0 true))] } }
/-- A load node of a graph that is being unloaded. -/
def cutNode : State :=
  { State.reset with dev := { agens := [(0, some { loadNode agen0 with outq := [token 6] })], graphs := [(1, some { graph1 0 true with cut := true })] } }
/-- Graph 1, an escape thread of whose group still has a store in its buffer. -/
def lingering : State :=
  { withThread (fun t => { t with group := some 0, sb := [held] }) with
    tiles := [(0, { cur := some 0, ctxs := [(0, some { tctx with idle := true })] })]
    dev := { graphs := [(1, some (graph1 0 true))], unloading := some 1, bq := [{ kind := 1, addr := 0x20000, host := none, at_ := some (phys 0x20000) }]
             groups := [(0, some { ticket := 5, path := .escape 0 0 0, left := 1, sent := false, field := 0, hidx := some 0 })] } }
def zeroing (b : Option Nat) : MOp := { core := 0, kind := .mzero, md := 0x600000000, ctx := ctx0, began := b }
def matrixTile (b : Option Nat) : State :=
  { State.reset with tiles := [(0, { mq := [zeroing b], acc := [(0, 7)] })], blks := [(0, { cyc := 8 })] }
/-- The cores of tile 0 have asked for context 1. -/
def switching (succ : Option Nat) : State :=
  { State.reset with
    tcores := [(0, { run := .ctxsw 1 }), (1, { run := .ctxsw 1 }), (2, { run := .ctxsw 1 }), (3, { run := .ctxsw 1 })]
    tiles := [(0, { cur := some 0, ctxs := [(0, some tctx), (1, some { tctx with words := 2 })], succ := succ })] }
def marking (l : List (Nat × Nat)) (c : List Flit) : State :=
  { State.reset with tiles := [(0, { cur := some 0, ctxs := [(0, some tctx), (1, some { tctx with words := 2 })], markers := l, cfg := c })] }
/-- Graph 1 is declared and idle on tile 0, and a command is in the belvedere's queue. -/
def commanded (g : Graph) (f : Dev → Dev) : State :=
  { State.reset with
    tiles := [(0, { cur := some 0, ctxs := [(0, some { tctx with idle := true })] })]
    dev := f { graphs := [(1, some g)], bq := [{ kind := 0, addr := 0x20000, host := none, at_ := some (phys 0x20000) }] } }
theorem witness_GraphEvents_nodes : (generating loadNode).agen 0 = some (loadNode agen0) ∧ (loadNode agen0).active = true ∧
    (loadNode agen0).n < (loadNode agen0).count ∧ Idles (loadNode agen0) ∧ (loadNode agen0).outq = [] ∧ (loadNode agen0).part = [] ∧
    (loadNode agen0).far = .idle ∧ (phys 0x10800).home = .dram ∧ (generating loadNode).agenXl 0 (loadNode agen0) ((loadNode agen0).addr 0) false =
      .ok (phys 0x10800) ∧ ((loadNode agen0).addr 0).toNat % 65536 + 32 ≤ 65536 ∧ (loadNode agen0).route < 4096 ∧
    (generating storeNode).agenXl 0 (storeNode agen0) ((storeNode agen0).addr 0) true = .ok (phys 0x10800) ∧
    (storeNode agen0).inq = [token 6] ∧ hKind (token 6).hdr ≠ 7 ∧
    ((storeNode agen0).addr 0).toNat % 65536 + 4 * (hLen (token 6).hdr + 1) ≤ 65536 ∧ (generating storeNode).portToken 0 = true ∧
    Idles (storeNode agen0) ∧ (storeNode agen0).part = [] ∧ (storeNode agen0).at_ = none ∧ (phys 0x10800).hash = false ∧
    (generating fun a => { loadNode a with far := .read 7 }).agenXl 0 { loadNode agen0 with far := .read 7 } ((loadNode agen0).addr 0) false =
      .ok (phys 0x10800) ∧ (generating fun a => { loadNode a with far := .read 7 }).agen 0 = some { loadNode agen0 with far := .read 7 } ∧
    (generating fun a => { loadNode a with outq := [token 6] }).agen 0 = some { loadNode agen0 with outq := [token 6] } ∧
    (generating fun a => { loadNode a with outq := [token 6] }).portToken 0 = true ∧
    (generating fun a => { loadNode a with outq := [token 6] }).regionCut 1 = false ∧ cutNode.regionCut 1 = true ∧
    cutNode.agen 0 = some { loadNode agen0 with outq := [token 6] } ∧
    arrivalNode.agen 0 = some { agen0 with tlb := [userPage], arrs := 1 } ∧ arrivalNode.graph 1 = some (graph1 0 true) ∧
    arrivalNode.agenXl 0 { agen0 with tlb := [userPage], arrs := 1 } (graph1 0 true).done true = .ok (phys 0x10800) ∧
    agen0.arrFar = false := by
  unfold Idles; decide +kernel
theorem witness_GraphEvents_calm : Calm (generating storeNode) 0x10800 8 ∧ Settled arrivalNode 0x10800 ∧
    (generating fun a => { loadNode a with outq := [token 6] }).linkRoom (memRouter 0) .inject 0 = true :=
  ⟨calm_of_nil rfl _ _, .inl rfl, decide_eq_true (Nat.zero_le _)⟩
/-- A marker of route 6 behind one of route 7, whose token is still on its way. -/
def behindWay : State :=
  { marking [(7, 1), (6, 1)] [] with mesh := { owner := [(4096 * 0 + 7, 2)], links := [(linkKey 0 .inject 0, [token 7])] } }
theorem witness_GraphEvents : ((matrixTile none).tile 0).mq = [zeroing none] ∧ ((matrixTile (some 4)).tile 0).mq = [zeroing (some 4)] ∧
    4 + 4 ≤ ((matrixTile (some 4)).blk 0).cyc ∧ ((matrixTile none).tile 0).mqFrom ≤ ((matrixTile none).blk 0).cyc ∧ (switching none).switchDue 0 = some 1 ∧ (switching (some 1)).switchDue 0 = some 1 ∧
    (Tab.get none ((switching none).tile 0).ctxs 1) = some { tctx with words := 2 } ∧
    ((marking [(6, 1)] []).tile 0).markers = [] ++ (6, 1) :: [] ∧ (marking [(6, 1)] []).onWay 0 6 = false ∧
    (behindWay.tile 0).markers = [(7, 1)] ++ (6, 1) :: [] ∧ (∀ m ∈ [(7, 1)], behindWay.onWay 0 m.1 = true) ∧ behindWay.onWay 0 6 = false ∧
    ((marking [] [cfgFlit 1 0 9]).tile 0).cfg = [cfgFlit 1 0 9] ∧ (cfgFlit 1 0 9).broken = false ∧ hKs (cfgFlit 1 0 9).hdr % 4 = 1 ∧
    ((marking [] [cfgFlit 1 0 9]).tile 0).cur ≠ some 1 ∧
    Tab.get none ((marking [] [cfgFlit 1 0 9]).tile 0).ctxs 1 = some { tctx with words := 2 } ∧
    (commanded (graph1 0 true) id).graphDone 1 (graph1 0 true) = true ∧
    (commanded (graph1 0 false) fun d => { d with loading := some 1 }).imagesIn 1 (graph1 0 false) = true ∧
    (commanded (graph1 0 false) fun d => { d with loading := some 1 }).imagesBad 1 (graph1 0 false) = false ∧
    ({ commanded (graph1 0 false) fun d => { d with loading := some 1 } with tiles := [(0, { ctxs := [(0, some { tctx with bad := true })] })] }).imagesBad 1 (graph1 0 false) = true ∧
    (commanded (graph1 0 false) fun d => { d with loading := some 1 }).dev.loading = some 1 ∧
    (commanded (graph1 0 false) fun d => { d with loading := some 1 }).dev.bq.length = 1 ∧
    (commanded (graph1 0 true) fun d => { d with unloading := some 1 }).unloadReady 1 (graph1 0 true) = true ∧
    (commanded (graph1 0 true) fun d => { d with unloading := some 1 }).escReady 1 (graph1 0 true) = true ∧
    lingering.unloadReady 1 (graph1 0 true) = true ∧ lingering.escReady 1 (graph1 0 true) = false := by
  decide +kernel

/-! ## Faults, compiles, packets, links -/

def frec : FRec := { cause := 1, unit := 0x21, time := 5 }
def later : FRec := { cause := 1, unit := 0x21, time := 6 }
def notice : Notice := { flit := noted, what := frec }
/-- A field with notices `n`, records `r`, a fault queue of two records at 0x30000, and future entries from 0x40000. -/
def faulting (n : List Notice) (r : List FRec) (fu : Tab (Option FutEnt)) (m : List Host.Cell) : State :=
  { State.reset with
    fields := [(0, { notices := n, recs := r, fqbase := 0x30000, fqsize := 2, fpbase := 0x40000, fpcount := 4, futs := fu })], mem := m }
/-- The same, with the notice at the fault unit of field 0, which takes it from its own router. -/
def atFaultUnit (r : List FRec) (m : List Host.Cell) : State :=
  { faulting [notice] r [] m with mesh := { links := [(linkKey (faultRouter 0) .inject 3, [noted])] } }
theorem nextNotice_atFaultUnit (r : List FRec) (m : List Host.Cell) : (atFaultUnit r m).nextNotice 0 = some (.inject, notice) := by
  have k (d : Dir) (h : d ≠ .inject) : (atFaultUnit r m).link (faultRouter 0) d 3 = [] := by
    show Tab.get [] [(linkKey (faultRouter 0) .inject 3, [noted])] (linkKey (faultRouter 0) d 3) = []
    have : linkKey (faultRouter 0) .inject 3 ≠ linkKey (faultRouter 0) d 3 := by
      cases d <;> simp [linkKey, dirNum] at h ⊢ <;> omega
    simp [Tab.get, this]
  have k0 : (atFaultUnit r m).link (faultRouter 0) .inject 3 = [noted] := by
    show Tab.get [] [(linkKey (faultRouter 0) .inject 3, [noted])] (linkKey (faultRouter 0) .inject 3) = [noted]
    simp [Tab.get]
  have h : (atFaultUnit r m).atUnit 0 = [(.inject, notice)] := by
    simp only [State.atUnit, List.filterMap_cons, List.filterMap_nil, k0, k .east (by decide), k .west (by decide),
      k .north (by decide), k .south (by decide)]
    rfl
  simp [State.nextNotice, h]
def pendingFut (r : Bool) : FutEnt := { unit := .thread thr 1, va := 0x90000, resolving := r, gen := 3 }
/-- A compile of block 0 for tile 3, whose words have all come. -/
def compile3 (b : Option Nat) : Compile :=
  { tile := 3, ident := 7, mem := none, va := none, scan := { lev := some 0, done := true }, reqs := [], began := b }
def compilingBlk (b : Option Nat) (cyc : Nat) : State := { State.reset with blks := [(0, { cyc := cyc, comps := [compile3 b] })] }
theorem witness_FaultAndCompileEvents_notice : (atFaultUnit [] []).fqUsed 0 + ((atFaultUnit [] []).field 0).recs.length < ((atFaultUnit [] []).field 0).fqsize ∧
    ((atFaultUnit [later, later] []).fqUsed 0 < ((atFaultUnit [later, later] []).field 0).fqsize ∧
      ∀ x ∈ ((atFaultUnit [later, later] []).field 0).recs, x.before notice.what = false) ∧
    ((atFaultUnit [] [(0x30018, 2)]).field 0).fqsize ≤ (atFaultUnit [] [(0x30018, 2)]).fqUsed 0 ∧
    ((atFaultUnit [frec, frec] []).field 0).fqsize ≤ (atFaultUnit [frec, frec] []).fqUsed 0 + ((atFaultUnit [frec, frec] []).field 0).recs.length ∧
    (∃ x ∈ ((atFaultUnit [frec, frec] []).field 0).recs, x.before notice.what = true) ∧
    firstRec ((atFaultUnit [later] []).field 0).recs = some later ∧ later.before notice.what = false ∧
    firstRec ((atFaultUnit [frec] []).field 0).recs = some frec ∧ (atFaultUnit [frec] []).fqRoom 0 = true ∧ frec.before notice.what = true := by
  decide +kernel
theorem witness_FaultAndCompileEvents_first (d : Dir) (n : Notice) (h : (atFaultUnit [frec] []).nextNotice 0 = some (d, n)) :
    frec.before n.what = true := by
  rw [nextNotice_atFaultUnit] at h
  cases h
  decide
theorem witness_FaultAndCompileEvents : firstRec ((faulting [] [frec] [] []).field 0).recs = some frec ∧ (faulting [] [frec] [] []).fqRoom 0 = true ∧ frec.fent = none ∧
    Tab.get none ((faulting [] [] [(1, some (pendingFut false))] []).field 0).futs 1 = some (pendingFut false) ∧
    memNat (faulting [] [] [(1, some (pendingFut false))] []).mem (0x40000 + 4096 * 1 + 10) 2 ≠ (pendingFut false).gen ∧
    (pendingFut true).unit = .thread thr 1 ∧ thr.sb = [] ∧
    memNat (faulting [] [] [(1, some (pendingFut true))] []).mem (0x40000 + 4096 * 1 + 16) 8 = 0 ∧
    ((compilingBlk none 4).blk 0).comps = [compile3 none] ∧ (compile3 none).present = true ∧
    (compile3 (some 8)).complete = true ∧ 8 + 64 + (compile3 (some 8)).scan.coords.length ≤ ((compilingBlk (some 8) 90).blk 0).cyc ∧
    (compile3 (some 8)).last + 64 ≤ ((compilingBlk (some 8) 90).blk 0).cyc ∧
    (compile3 (some 8)).result = .prog (compile3 (some 8)).scan.nb (compile3 (some 8)).scan.program ∧
    (compilingBlk (some 8) 90).genHolds (compile3 (some 8)) = true ∧
    ((compilingBlk (some 8) 90).tile 3).mq.head? = none := by
  decide +kernel
theorem witness_FaultAndCompileEvents_unheld : Unheld (faulting [] [frec] [] []) (0x30000 + 24) 8 ∧
    Unheld (faulting [] [frec] [] []) (0x30000 + 64 + 64 * (0 % 2)) 64 ∧ Settled (faulting [] [frec] [] []) 0x30000 ∧
    Unheld (faulting [] [] [(1, some (pendingFut false))] []) (0x40000 + 4096 * 1 + 24) 8 :=
  ⟨⟨calm_of_nil rfl _ _, fun _ _ => rfl⟩, ⟨calm_of_nil rfl _ _, fun _ _ => rfl⟩, .inl rfl, ⟨calm_of_nil rfl _ _, fun _ _ => rfl⟩⟩
/-- The mspx of tile 3 waits for that compile, with one K block in its descriptor. -/
def awaitingBlk : State :=
  { compilingBlk (some 8) 90 with
    tiles := [(3, { mq := [{ core := 0, kind := .mspx 7 3 false, md := 0, ctx := ctx0, sp := .waitc }] })] }
theorem witness_FaultAndCompileEvents_serves : ((awaitingBlk.tile 3).mq.head?).map (fun m => (m.awaits 7, mdNb m.md)) =
    some (true, (compile3 (some 8)).scan.nb) := by decide +kernel

/-- An invocation for field 0 of this device that thread 0's pending result 9 awaits. -/
def inv0 (r : InvRun) : Inv := { id := 3, g := 0, tok := 9, form := 0, desc := 0, data := mkRec 1 [1, 2, 3, 4] 5 0, sv := true, core := 0, tries := 2, run := r }
def awaiting (f : Dev → Dev) (ports : Tab MPort) : State :=
  { withThread (fun t => { t with ctx := { t.ctx with pend := [{ dest := .sreg 3, left := 4, ready := false, val := 0, tok := 9 }] } }) with
    dev := f { links := ports, phase := 7, job := true, ptroot := 0x1000 }, ns := 70000, mem := tables }
def invoking (r : InvRun) : State := awaiting (fun d => { d with invs := [inv0 r] }) []
def reply0 (again : Option Nat) : ReplyMsg := { core := 0, data := replyData 5 0 1 2 3 4, src := none, to_ := none, again := again }
/-- Core 0 awaits the reply to ticket 5 in the mailbox of four records at 0x10800. -/
def mailing : State :=
  { awaiting (fun d => { d with replies := [reply0 none] }) [] with
    cores := [(0, { outst := [{ ticket := 5, mbox := 0x10800, sv := true }] })], mem := tables ++ [(0x10800, 4)] }
def answer0 : Frame := { ftype := 3, last := true, fidx := 0, sname := 0, esn := 8, ddev := 0, sdev := 6, body := 8 }
def unans0 : Unans := { esn := 8, dest := 6, port := 1, kind := .inv 3, frames := [] }
def answering : State := awaiting (fun d => { d with invs := [inv0 (.sent 69000)], unans := [unans0] }) [(1, { run := .up, rxbuf := [answer0] })]
def recFrames : List Frame := packetFrames 0 8 0 6 ((recFlits (mkRec 1 [1, 2, 3, 4] 5 0) 0).map Flit.body)
def receiving (l : List Frame) (f : Dev → Dev) : State := awaiting f [(1, { run := .up, rxbuf := l })]
/-- A record's packet at a port that has one token left. -/
def starved : State := awaiting id [(1, { run := .up, rxbuf := recFrames, tokens := 1 })]
/-- A packet whose tag cannot be right, in a sealed job. -/
def forged : Frame := { ftype := 0, last := true, fidx := 0, sname := 0, esn := 8, ddev := 0, sdev := 6, body := 8 }
def sealedJob : Dev → Dev := fun d => { d with sealed := true, marKey := some (List.replicate 32 0) }
theorem witness_PacketEvents : (invoking (.backoff 69000)).dev.invs[0]? = some (inv0 (.backoff 69000)) ∧
    bits (inv0 (.backoff 69000)).desc 20 10 = (invoking (.backoff 69000)).dev.devnum ∧
    (invoking (.sent 30000)).dev.invs[0]? = some (inv0 (.sent 30000)) ∧ 30000 + 32768 ≤ (invoking (.sent 30000)).ns ∧
    (invoking (.sent 30000)).lanesLeft 0 9 = none ∧ answering.lanesLeft 0 9 = none ∧
    (invoking (.sent 30000)).inv 3 = some (inv0 (.sent 30000)) ∧
    (awaiting (fun d => { d with replies := [reply0 (some 60000)] }) []).dev.replies[0]? = some (reply0 (some 60000)) ∧
    ((answering.port 1).rxbuf.find? fun f => f.ftype == 3 && decide (f.ddev.toNat = answering.dev.devnum)) = some answer0 ∧
    (answering.dev.unans.find? fun u => u.esn == (answer0.body.setWidth 32 : BitVec 32) && decide (u.dest = answer0.sdev.toNat)) = some unans0 ∧
    answer0.body.toNat / 2 ^ 32 % 256 = 0 ∧ answering.inv 3 = some (inv0 (.sent 69000)) ∧
    2 ≤ ((receiving recFrames id).port 1).paid + ((receiving recFrames id).port 1).tokens ∧
    (starved.port 1).paid + (starved.port 1).tokens < enterFlits recFrames (some (recFlits (mkRec 1 [1, 2, 3, 4] 5 0) 0)) ∧
    starved.pickPacket 1 [] (packetsFor 0 (starved.port 1).rxbuf) = some (recFrames, some (recFlits (mkRec 1 [1, 2, 3, 4] 5 0) 0)) ∧ (recFlits (mkRec 1 [1, 2, 3, 4] 5 0) 0).map Flit.broken = [false, false] ∧
    (recFlits (mkRec 1 [1, 2, 3, 4] 5 0) 0).map (fun f => hKind f.hdr) = [2, 2] ∧
    (receiving recFrames id).pickPacket 1 [] (packetsFor 0 ((receiving recFrames id).port 1).rxbuf) =
      some (recFrames, some (recFlits (mkRec 1 [1, 2, 3, 4] 5 0) 0)) ∧
    (receiving recFrames id).answerFor 6 8 = none := by decide +kernel
theorem witness_PacketEvents_mailbox :
    (mailing.dev.replies.findIdx? fun r => r.to_.isNone && r.again.isNone && decide (r.core = 0)) = some 0 ∧
    mailing.dev.replies[0]? = some (reply0 none) ∧
    ((mailing.core 0).outst.find? fun o => o.ticket == ((reply0 none).data.setWidth 32 : BitVec 32)) =
      some { ticket := 5, mbox := 0x10800, sv := true } ∧
    memNat mailing.mem 0x10800 2 = 4 ∧ memNat mailing.mem (0x10800 + 8) 8 = 0 ∧ memNat mailing.mem (0x10800 + 16) 8 = 0 ∧
    memNat mailing.mem (0x10800 + 2) 6 = 0 ∧ memNat mailing.mem (0x10800 + 32) 32 = 0 ∧ (0 + 2 ^ 64 - 0) % 2 ^ 64 < 4 ∧
    (0x10800 + (64 + 40 * (0 % 4))) % 65536 + 40 ≤ 65536 := by decide +kernel
/-- The same machine once the reply is out of the queue: the mailbox's pages translate, and their leaves need no mark. -/
def mailing1 : State := { mailing with dev := { mailing.dev with replies := mailing.dev.replies.eraseIdx 0 } }
def mailing2 : State := mailing1.knowMail 0x10800 0x10800
theorem witness_PacketEvents_pages :
    mailing1.xlMark 0x10800 { rd := false, wr := true, ex := false, sv := true } = (mailing1, .ok (phys 0x10800)) ∧
    mailing2.xlMark 0x10840 { rd := false, wr := true, ex := false, sv := true } = (mailing2, .ok (phys 0x10840)) ∧
    (phys 0x10800).hash = false ∧ ((phys 0x10800).plus 16).pa = (phys 0x10800).pa + 16 ∧
    (∀ k, k < 40 → mailing2.mailByte ((phys 0x10840).plus k).pa = false) ∧
    (∀ k, k < 40 → ((phys 0x10840).plus k).pa < (phys 0x10800).pa + 16 ∨ (phys 0x10800).pa + 24 ≤ ((phys 0x10840).plus k).pa) := by
  decide +kernel
theorem witness_PacketEvents_calm : CalmSpan mailing (phys 0x10840) 40 ∧ Calm mailing (0x10800 + 16) 8 :=
  ⟨calmSpan_of_nil rfl _ _, calm_of_nil rfl _ _⟩
theorem witness_PacketEvents_forged : (receiving [forged] sealedJob).pickPacket 1 [] (packetsFor 0 ((receiving [forged] sealedJob).port 1).rxbuf) =
      some ([forged], none) ∧ [forged].length ≤ ((receiving [forged] sealedJob).port 1).paid + ((receiving [forged] sealedJob).port 1).tokens ∧ (receiving [forged] sealedJob).dev.unans = [] ∧ ((receiving [forged] sealedJob).port 1).kept = [] := by
  decide +kernel

def flitFrame : Frame := { forged with ddev := 5 }
/-- Marold port 1 changed by `f`, and port 2, through which device 5 is reached. -/
def linked (f : MPort → MPort) : State :=
  { State.reset with dev := { links := [(1, f { run := .up }), (2, { run := .up })], routes := [(5, 0x122)] }, ns := 2000000 }
theorem witness_LinkEvents : frameGood (0#512).toNat = false ∧ ((linked id).port 1).run = .up ∧
    frameGood ({ flitFrame with ddev := 0 }.encode 1 0 0).toNat = true ∧ (frameOf ({ flitFrame with ddev := 0 }.encode 1 0 0).toNat).ftype = 0 ∧
    ({ flitFrame with ddev := 0 }.encode 1 0 0).toNat / 2 ^ 392 % 2 ^ 16 = (((linked id).port 1).rxSeq + 1).toNat ∧
    ((linked fun p => { p with reqd := some 6, replay := [(7, answer0)] }).port 1).reqd = some 6 ∧
    ((linked fun p => { p with reqd := some 6, replay := [(7, answer0)] }).port 1).replay = [(7, answer0)] ∧
    (((linked fun p => { p with rxbuf := [flitFrame] }).port 1).rxbuf.find? fun f => decide (f.ddev.toNat ≠ (linked id).dev.devnum)) =
      some flitFrame ∧ (linked fun p => { p with rxbuf := [flitFrame] }).livePort flitFrame.ddev.toNat = some 2 ∧
    ((linked id).port 2).waitq = [] ∧ (∀ v, flitFrame.vc = some v → 0 < ((linked id).port 2).credit.getD v 0) ∧
    16 ≤ ((linked fun p => { p with discards := 16 }).port 1).discards ∧ ((linked id).port 1).discards < 16 ∧ ((linked id).port 1).resends < 4 ∧
    ((linked fun p => { p with run := .down }).port 1).run ≠ .up ∧
    ((linked fun p => { p with replay := [(7, { answer0 with sdev := 0 })] }).port 1).replay ≠ [] ∧
    max ((linked id).port 1).lastGood ((linked id).port 1).since + 8192 ≤ (linked id).ns ∧
    (∀ e ∈ ((linked fun p => { p with replay := [(7, { answer0 with sdev := 0 })] }).port 1).replay, e.2.sdev.toNat = (linked id).dev.devnum) ∧
    ((linked fun p => { p with run := .down }).port 1).downAt + 1000000 ≤ (linked id).ns ∧
    ((linked fun p => { p with run := .training }).port 1).run = .training ∧ keptLanes 0x3FF = some 0xFF ∧ keptLanes 7 = none := by
  refine ⟨by decide +kernel, by decide, by decide +kernel, by decide +kernel, by decide +kernel, by decide, by decide,
    by decide, by decide, by decide, fun v h => ?_, by decide, by decide, by decide, by decide, by decide, by decide, by decide, by decide, by decide, by decide, by decide⟩
  cases h
  decide

/-! ## Clocks, hosts, the belvedere -/

/-- Block 0 changed by `f`, at 100,000 ns. -/
def powered (f : Blk → Blk) (g : Dev → Dev) : State := { State.reset with blks := [(0, f {})], dev := g {}, ns := 100000 }
/-- Device 5 with its routes fixed; port 1, its way to device 0, had an idle frame from ahead of its time. -/
def behind : State :=
  powered id fun d => { d with set := true, devnum := 5, routes := [(0, 0x101)], links := [(1, { run := .up, peerTime := 1000000, peerAt := some 90000 })] }
theorem slews_up {s : State} {p k : Nat} (h1 : s.dev.set = true) (h2 : s.timePort = some p) (h3 : (s.port p).peerAt = some k)
    (h4 : s.ns < (s.port p).peerTime.toNat + Config.halfTrip p k + (s.ns - k)) : s.slewTo = some true := by
  simp only [State.slewTo, State.sourceTime, h1, h2, h3, Option.bind_some, Option.map_some, if_true]
  exact if_pos h4
theorem witness_PowerEvents_slew : behind.dev.set = true ∧ behind.timePort = some 1 ∧ (behind.port 1).peerAt = some 90000 ∧
    behind.slewTo = some true ∧ behind.dev.lastSlew + 1024 ≤ behind.ns := by
  have h1 : behind.dev.set = true := by decide
  have h2 : behind.timePort = some 1 := by decide +kernel
  have h3 : (behind.port 1).peerAt = some 90000 := by decide
  have h4 : (behind.port 1).peerTime.toNat = 1000000 := by decide
  have h5 : behind.ns = 100000 := rfl
  exact ⟨h1, h2, h3, slews_up h1 h2 h3 (by rw [h4, h5]; omega), by decide⟩
theorem witness_PowerEvents : (powered id id).slewTo ≠ some true ∧ ((powered id id).blk 0).power = .on ∧
    (powered id id).blockBusy 0 = false ∧ ((powered id id).blk 0).quiet + 50000 ≤ (powered id id).ns ∧
    ((powered (fun b => { b with power := .asked 9 }) id).blk 0).power = .asked 9 ∧
    ((powered (fun b => { b with power := .asked 9 }) id).field 0).inrush.length < 2 ∧
    (powered (fun b => { b with power := .asked 9 }) id).wakesFirst 0 9 = true ∧
    ((powered (fun b => { b with power := .waking 96000 }) id).blk 0).power = .waking 96000 ∧ 96000 + 4000 ≤ (powered id id).ns ∧
    (powered id id).dev.lastFill + 64 ≤ (powered id id).ns ∧ (powered id id).dev.lastEff + 1024 ≤ (powered id id).ns ∧
    16001 > ((powered id id).field 0).plim ∧
    1840 ≤ ({ State.reset with fields := [(0, { temp := 1840 })] }.field 0).temp ∧ (powered id id).dev.phase.toNat ≤ 5 := by decide

/-- Queue 2 of host port 0, enabled, with rings of four records: the spill ring at the page's 0x10800, the reply ring in host memory. -/
def queue2 : QEnt := { en := true, sbase := 0x10800, scap := 4, rbase := 0x1000, rcap := 4, rtail := 0x2000, vec := 1 }
def posted : BitVec 512 := mkRec 1 [1, 2, 3, 4] 5 0
/-- A running job, with pages, handlers and queue 2. -/
def hosting (q : QEnt) (f : Dev → Dev) : State :=
  { State.reset with
    mem := tables ++ handlers ++ [(0x10800, 1), (0x10828, 5)]
    dev := f { phase := 7, job := true, ptroot := 0x1000, htbase := 0x8000, queues := [(2, q)] }, ns := 5000 }
def hostReply (full : Bool) : HostReply := { q := 2, data := replyData 5 0 1 2 3 4, next := 4000, full := full }
def poor : Dev → Dev := fun d => { d with hosts := [(0, { tokens := 1 })] }
/-- A sealed job without an IDE stream. -/
def sealedHost : State := hosting queue2 fun d => { d with sealed := true, marKey := some (List.replicate 32 0) }
def unmasked : Dev → Dev := fun d => { d with hosts := [(0, { msix := [(3, 0x100000000)] })] }
theorem witness_HostEvents_post : (hosting queue2 id).outsideIde 0 false = false ∧ (hosting queue2 id).hostWaits 0 = false ∧
    2 ≤ ((hosting queue2 id).hostPort 0).paid + ((hosting queue2 id).hostPort 0).tokens ∧ (hosting queue2 poor).outsideIde 0 false = false ∧
    (hosting queue2 poor).hostWaits 0 = false ∧ ((hosting queue2 poor).hostPort 0).paid + ((hosting queue2 poor).hostPort 0).tokens < 2 ∧
    recSvs posted = false ∧ recAf posted = false ∧ ((hosting queue2 id).queue 2).app - ((hosting queue2 id).queue 2).drawn ≠ 4 ∧
    ((hosting queue2 id).spendHost 0 2).hostLeaf (0x10800 + 64 * (0 % 4)) false true = some (phys 0x10800, 0x102DF, 0x4008) ∧
    (phys 0x10800).pa % 64 = 0 ∧ ((hosting {} id).queue 2).en = false := by decide +kernel
theorem witness_HostEvents_calm : Calm (hosting queue2 id) 0x10800 64 ∧
    Calm (hosting queue2 fun d => { d with job := false }) (((hosting queue2 fun d => { d with job := false }).hostPort 0).w2base.toNat * 2 ^ 36 + 0x10800) 1 ∧
    Calm (hosting queue2 unmasked) (hostAddr false (0x1000 + 64 * ringSlot 0 4)) 64 ∧ Calm (hosting queue2 unmasked) (hostAddr false 0x2000) 8 :=
  ⟨calm_of_nil rfl _ _, calm_of_nil rfl _ _, calm_of_nil rfl _ _, calm_of_nil rfl _ _⟩
/-- A record lies in the spill ring. -/
def spilled : State := hosting { queue2 with app := 1 } fun d => { d with spills := [2] }
theorem witness_HostEvents_draw : 2 ∈ spilled.dev.spills ∧ spilled.olderDraw 2 = false ∧
    (match spilled.headDraw 2 with | .now _ _ (.queue x) => x.entry == some handler1 | _ => false) = true := by decide +kernel
theorem witness_HostEvents : queue2.cut = false ∧ (BitVec.ofNat 64 queue2.wrote - queue2.rhead).toNat ≠ queue2.rcap ∧ ((hosting queue2 unmasked).hostPort 0).masked 1 = false ∧
    (hosting queue2 fun d => { d with hreps := [hostReply true] }).dev.hreps[0]? = some (hostReply true) ∧
    (hostReply true).next ≤ (hosting queue2 id).ns ∧ (BitVec.ofNat 64 { queue2 with wrote := 4 }.wrote - queue2.rhead).toNat = queue2.rcap ∧
    (hosting queue2 fun d => { d with job := false }).hostWaits 0 = false ∧ flitsOf 0x10800 1 ≤ ((hosting queue2 id).hostPort 0).paid + ((hosting queue2 id).hostPort 0).tokens ∧
    ((hosting queue2 poor).hostPort 0).paid + ((hosting queue2 poor).hostPort 0).tokens < flitsOf 0x10800 64 ∧ 0x10800 % 4096 + 64 ≤ 4096 ∧
    homeOf ((0x4000#16).toNat * 2 ^ 36 + 0x10800) ≠ some .dram ∧ sealedHost.outsideIde 0 false = true ∧ (hostReply false).full = false ∧
    (hosting queue2 fun d => { d with job := false }).outsideIde 0 true = false ∧ 0x10800 % 4096 + [1#8].length ≤ 4096 ∧
    homeOf ((0#16).toNat * 2 ^ 36 + 0x10800) = some .dram ∧ (hosting queue2 id).fqBusy 0 = false := by decide

/-- A command of kind `k`, in memory at 0x10800 or in the request block of port 1. -/
def bcmd (k : BitVec 4) (blk : Bool) : BCmd :=
  { kind := k, addr := if blk then 0 else 0x10800, host := some 1, at_ := if blk then none else some (phys 0x10800) }
/-- An image of eight bytes at 0x10000: its length at 0x8, its signer at 0x10, its signature at 0x50. The signer is the neutral point, for
which the signature 1, 0 holds of every message. -/
def signer0 : List Byte := leBytes 57 1
def signed0 : List Byte := leBytes 114 1
def imageBytes0 : List Byte :=
  leBytes 8 0x545349414D550001 ++ leBytes 8 8 ++ signer0 ++ List.replicate 7 0 ++ signed0 ++ List.replicate 62 0 ++ List.replicate 8 1
/-- A machine with command `c`; the request block of port 1 has the bytes `l`. -/
def serving (c : BCmd) (l : List Byte) (f : Dev → Dev) : State :=
  { State.reset with
    mem := Memory.write (Memory.write tables 0x10000 imageBytes0) 0x10800 (leBytes 8 0x10000)
    dev := f { phase := 7, ptroot := 0x1000, bq := [c], hosts := [(1, { req := l.zipIdx.map fun e => (e.2, e.1) })] } }
theorem witness_BelvedereEvents : (serving (bcmd 2 false) [] id).headCmd 2 = some (bcmd 2 false) ∧
    memNat (serving (bcmd 2 false) [] id).mem 0x10800 8 % 4096 = 0 ∧ (serving (bcmd 2 false) [] id).dev.imgs < 256 ∧
    (serving (bcmd 2 false) [] id).verified false 0x10000 [] = none ∧ (serving (bcmd 3 true) [] id).headCmd 3 = some (bcmd 3 true) ∧
    (∀ k, k < 8 → Tab.get 0 ((serving (bcmd 3 true) [] id).hostPort 1).req (0x20 + k) = 0) ∧
    (serving (bcmd 4 true) [] fun d => { d with job := true }).headCmd 4 = some (bcmd 4 true) ∧
    (serving (bcmd 5 true) [] fun d => { d with graphs := [(1, some (graph1 0 true))] }).unitsLeft = true ∧
    (serving (bcmd 5 true) [] id).unitsLeft = false ∧ (serving (bcmd 5 true) [] id).xfersGo = false ∧
    (serving (bcmd 5 true) [] fun d => { d with xfers := [(4, some (transfer copying .running))] }).unitsLeft = false ∧
    (serving (bcmd 5 true) [] fun d => { d with xfers := [(4, some (transfer copying .running))] }).xfersGo = true ∧ (serving (bcmd 5 true) [] id).headCmd 5 = some (bcmd 5 true) ∧
    State.reset.nameExists 0 true 3 = true ∧ State.reset.nameExists 0 false 3 = true ∧
    ((State.reset.blk 0).retire true (((State.reset.blk 0).sites true).getD 3 255) false).spare true = some 16 ∧
    ((State.reset.blk 0).retire false (((State.reset.blk 0).sites false).getD 3 255) false).spare false = some 32 := by
  decide +kernel
/-- Block 0 with a planned retirement of tile name 3 under way. -/
def retiring : State := { State.reset with blks := [(0, { moving := some (false, 3) })] }
theorem witness_BelvedereEvents_moves : retiring.freeSite 0 false 3 = none ∧ retiring.nameExists 0 false 3 = true ∧
    ((retiring.blk 0).retire false (((retiring.blk 0).sites false).getD 3 255) false).spare false = some 32 ∧
    (retiring.blk 0).moving = some (false, 3) ∧ retiring.blockStands 0 = true ∧
    ({ retiring with threads := ended.threads } : State).blockStands 0 = false ∧
    (State.reset.blk 0).moving = none ∧ State.reset.freeSite 0 false (64 + 32) = some 32 ∧ State.reset.freeSite 0 true (64 + 16) = some 16 ∧
    State.reset.freeSite 0 true 3 = none ∧
    ((State.reset.blk 0).retire true (((State.reset.blk 0).sites true).getD 3 255) true).spare true = some 16 := by
  decide +kernel
theorem witness_BelvedereEvents_calm : Calm (serving (bcmd 2 false) [] id) ((phys 0x10800).plus 56).pa 2 ∧
    (phys 0x10800).hash = false ∧ memNat (serving (bcmd 2 false) [] fun d => { d with imgs := 256 }).mem 0x10800 8 % 4096 = 0 :=
  ⟨calm_of_nil rfl _ _, rfl, by decide +kernel⟩
theorem witness_BelvedereEvents_table : Calm (serving (bcmd 2 false) [] id) (serving (bcmd 2 false) [] id).dev.htbase.toNat (2 ^ 21) :=
  calm_of_nil rfl _ _
theorem signature0 : edVerify signer0 (shake256 (imageBytes0.take 0x50 ++ imageBytes0.drop 256) 64) ((imageBytes0.drop 0x50).take 114) = true := by
  decide +kernel
theorem signed1 : imageSigned signer0 imageBytes0 = true := by
  have e : imageHeadOk signer0 imageBytes0 = true ∧ imageBytes0.length = 256 + leAt imageBytes0 8 8 := by decide +kernel
  simp only [imageSigned, umaistDigest, e.1, decide_eq_true e.2, signature0, Bool.and_self]
/-- A machine that reads the image verifies it. -/
theorem verified0 (s : State) (ph : Bool) (r r' : List (Nat × Nat × Bool)) (h : s.imageBytes ph 0x10000 256 = some (imageBytes0.take 256, r))
    (h' : s.imageBytes ph 0x10000 264 = some (imageBytes0, r')) : (s.verified ph 0x10000 signer0).isSome := by
  have e : imageHeadOk signer0 (imageBytes0.take 256) = true ∧ leAt (imageBytes0.take 256) 8 8 = 8 := by decide +kernel
  simp only [State.verified, h, e.1, e.2, h', signed1]
  rfl
theorem witness_BelvedereEvents_image : ((serving (bcmd 2 false) [] fun d => { d with signer := signer0 }).verified false 0x10000 signer0).isSome :=
  verified0 _ _ [(0x10000, 256, false)] [(0x10000, 264, false)] (by decide +kernel) (by decide +kernel)
/-- The request block of a job whose image lies at the physical address 0x10000. -/
def jobRequest : List Byte := signer0 ++ List.replicate 7 0 ++ leBytes 8 0x1000 ++ leBytes 8 0 ++ leBytes 8 0x10000
theorem witness_BelvedereEvents_job : ((serving (bcmd 4 true) jobRequest id).verified true 0x10000 signer0).isSome ∧
    leAt jobRequest 0x50 8 = 0x10000 ∧ leAt (jobRequest.take 0x50 ++ leBytes 8 0x10001) 0x50 8 % 4096 ≠ 0 ∧ leAt (jobRequest.take 0x50 ++ leBytes 8 0x10001) 0x58 8 < 2 ∧ jobRequest.take 57 = signer0 ∧
    (serving (bcmd 4 true) jobRequest id).dev.job = false ∧ leAt jobRequest 0x58 8 = 0 ∧ (∀ b ∈ (jobRequest.drop 57).take 7, b = 0) :=
  ⟨verified0 _ _ [(0x10000, 256, false)] [(0x10000, 264, false)] (by decide +kernel) (by decide +kernel), by decide +kernel⟩

/-! ## The whole machine -/

theorem witness_MemoryCanonicalUnderStep : Memory.wf mailing.mem = true ∧ mailing.mem ≠ [] := by decide
theorem witness_DecodeOfEncode : (Instr.addi 3 4 (.ext 0x1FFFFFFFFFF)).wf = true ∧
    encode (.addi 3 4 (.ext 0x1FFFFFFFFFF)) = some (.a 0x00864FFF#29 (some 0x1FFFFFFF#29)) ∧ (Instr.preemptTrap 31 4).wf = true ∧
    (encode (.preemptTrap 31 4)).isSome ∧ (encode (.vsel 15 14 13 7)).isSome := by decide
theorem witness_WordsHaveOneMeaning : decodeA 0x00464280#29 none = .ok (.add 3 4 5) ∧ decodeB 0x087ED7E0#29 = .ok (.vsel 15 14 13 7) :=
  ⟨rfl, rfl⟩
/-- add s3, s4, s5 beside vnop, with lookahead 0. -/
def addWord : Word := 0x0008C85000000000
def addBundle : Bundle := { la := 0, a := .add 3 4 5, b := some .vnop }
/-- A thread with the turn, whose pc is at the bundle; `l` are the lines of its core's L1. -/
def turning (a : List Move) (l : List ILine) : State :=
  { State.reset with
    mem := [(0x10004, 0x50), (0x10005, 0xC8), (0x10006, 8)], threads := [(0, thr)], cores := [(0, { tlb := [page], ilines := l })], agenda := a }
def codeLine : ILine := { va := 0x10000, pa := 0x10000, data := 0x0008C85000000000 }
def turnOf (u : UnitRef) : Move := { ns := 0, cycs := [], act := .issue u }
/-- The machines that the turns start in. -/
def taken0 (l : List ILine) : State :=
  State.retried { turning [] l with cur := .thread 0, iss := {} } 0
theorem witness_StepRunsTheBundle_thread : NextMove (turning [turnOf (.thread 0)] []) (.issue (.thread 0)) [] ∧
    ((turning [turnOf (.thread 0)] []).blk (unitBlk 0)).power = .on ∧ ((turning [] []).blk (unitBlk 0)).cyc % 8 = 0 % 8 ∧
    ((turning [] []).thread 0).nextCyc ≤ ((turning [] []).blk (unitBlk 0)).cyc ∧ NotPassed (taken0 [codeLine]) (0 / 128) (257 + 2 * (0 % 128)) ∧
    ((turning [] []).blk (unitBlk 0)).moving = none ∧ (turning [] []).escStops 0 = false ∧
    ((turning [] []).thread 0).run = .run ∧ (turning [] []).taskOf 0 = none ∧ ((turning [] []).thread 0).ctx.expired = [] ∧
    ((turning [] []).thread 0).verdict = none ∧ ((turning [] []).thread 0).eventDue = false ∧
    (∀ p ∈ ((turning [] []).thread 0).ctx.pend, p.fly ≠ .preempt) ∧
    (taken0 []).fetch = .got addWord (taken0 [codeLine]) ∧ ((turning [] []).core (threadCore 0)).ilines = [] ∧
    (turning [] []).xlThread 0 0x10000 { rd := false, wr := false, ex := true, sv := true } = .ok (phys 0x10000) := by
  unfold NextMove NotPassed; decide +kernel
theorem witness_StepRunsTheBundle_bundle : decode addWord = .ok addBundle ∧ ∃ u, BundleRuns (taken0 [codeLine]) (0 / 128) (257 + 2 * (0 % 128)) addWord addBundle u ∧
    u.cur = .thread 0 ∧ (u.thread 0).run ≠ .free :=
  ⟨rfl, _, ⟨_, _, rfl, rfl, rfl, _, rfl, rfl, rfl⟩, rfl, by decide⟩
/-- Compute core 0 of a tile whose context holds the same bundle. -/
def turningCore (a : List Move) : State :=
  { State.reset with
    tcores := [(0, { run := .run, ctx := ctx0 })]
    tiles := [(0, { cur := some 0, ctxs := [(0, some { tctx with code := [(0x10000, 0x0008C85000000000)] })] })], agenda := a, cur := .core 0 }
def takenCore : State := { turningCore [] with cur := .core 0, iss := {} }
theorem witness_StepRunsTheBundle_core : NextMove (turningCore [turnOf (.core 0)]) (.issue (.core 0)) [] ∧
    ((turningCore []).blk (unitBlk 0)).power = .on ∧ ((turningCore []).tcore 0).nextCyc ≤ ((turningCore []).blk (unitBlk 0)).cyc ∧
    NotPassed takenCore (0 / 128) (2 * (0 % 128) + 1) ∧ (turningCore []).coreStands 0 = false ∧
    ((turningCore []).tcore 0).run = .run ∧ ((turningCore []).tcore 0).halted = false ∧ ((turningCore []).tcore 0).due = [] ∧
    ((turningCore []).tcore 0).ctx.expired = [] ∧ takenCore.fetch = .got addWord takenCore := by
  unfold NextMove NotPassed; decide +kernel
theorem witness_StepRunsTheBundle_corebundle : ∃ u, BundleRuns takenCore (0 / 128) (2 * (0 % 128) + 1) addWord addBundle u ∧ u.cur = .core 0 :=
  ⟨_, ⟨_, _, rfl, rfl, rfl, _, rfl, rfl, rfl⟩, rfl⟩
theorem witness_StepRunsTheBundle_event :
    NextMove { powered id id with agenda := [{ ns := 0, cycs := [], act := .event .coldReset }] } (.event .coldReset) [] ∧
    isEvent .coldReset = true ∧ State.powered (powered id id) .coldReset = true ∧ State.standing (powered id id) .coldReset = false ∧
    State.eventRank (powered id id) .coldReset = none ∧
    isEvent (.transferStart 0 1) = true ∧ State.powered (starting [] 0) (.transferStart 0 1) = true ∧
    State.standing (starting [] 0) (.transferStart 0 1) = false ∧ State.eventRank (starting [] 0) (.transferStart 0 1) = some (0, 514) ∧
    NotPassed (starting [] 0) 0 514 ∧ State.inTurn (powered id id) .coldReset = none ∧ State.inTurn (starting [] 0) (.transferStart 0 1) = none ∧
    State.inTurn diverting (.completionDiversion 0) = some 0 ∧
    NextMove { diverting with agenda := [{ ns := 0, cycs := [], act := .event (.completionDiversion 0) }] } (.event (.completionDiversion 0)) [] := by
  unfold NextMove NotPassed; decide +kernel

/-! ## Soft errors (R2, R37, R134, R192, R304) -/

def nextOf (o : Out) : State :=
  match o with
  | .next s => s
  | .fault _ | .refused _ => State.reset
/-- A bundle that is fetched with an error traps ECC with its address (R37, R304); one that reads a struck register traps with 0. -/
theorem test_ecc_fetch : ((nextOf (State.turn (turning [] []) (.thread 0) .fetch)).thread 0).ecause = 0x0B ∧
    ((nextOf (State.turn (turning [] []) (.thread 0) .fetch)).thread 0).eval = 0x10000 ∧
    ((nextOf (State.turn (turning [] []) (.thread 0) (.file false))).thread 0).ecause = 0x0B ∧
    ((nextOf (State.turn (turning [] []) (.thread 0) (.file false))).thread 0).eval = 0 := by decide +kernel
/-- A load of struck data enters a result that carries ECC and the address, to be taken when its window ends (R134). -/
theorem test_ecc_load : ((nextOf (State.slotA base (.data 0) (.ldd 3 4 (.pair 0)))).thread 0).ctx.pend.map Pending.fault =
    [some (0x0B, 0x10800)] := by decide +kernel
/-- A compute core halts (R192). -/
theorem test_ecc_core : ((nextOf (State.turn (turningCore []) (.core 0) .fetch)).tcore 0).run = .faulted 0x0B := by decide +kernel

end Sys2Proof.Tests
end

section
/-!
PROOFS. A word that decodes is the only word of its instruction (R10, R70 to R85). The decoder's answers are built from a
few combinators; one rule per combinator says when every instruction that the answer accepts is well formed and has the
given words. The formats of R73 and R75 then rebuild a word from its fields, so that each form only has to say where its
operands and its zero fields stand.
-/
namespace Sys2Proof

/-! ## Fields of a slot word -/

theorem fld_lt (w : SlotWord) (lo n : Nat) : fld w lo n < 2 ^ n := Nat.mod_lt _ (Nat.two_pow_pos n)

/-- A field is its low part and its high part side by side. -/
theorem fld_add (w : SlotWord) (lo m n : Nat) : fld w lo (m + n) = fld w lo m + 2 ^ m * fld w (lo + m) n := by
  simp only [fld, Nat.pow_add, Nat.mod_mul, Nat.div_div_eq_div_mul]

/-- The fields inside a zero field are zero. -/
theorem fld_inside {w : SlotWord} {lo n lo' n' : Nat} (h : fld w lo n = 0) (hlo : lo ≤ lo' := by decide)
    (hn : lo' + n' ≤ lo + n := by decide) : fld w lo' n' = 0 := by
  obtain ⟨k, rfl⟩ := Nat.exists_eq_add_of_le hlo
  obtain ⟨r, rfl⟩ : ∃ r, n = k + (n' + r) := ⟨n - k - n', by omega⟩
  simp only [fld_add, Nat.add_eq_zero_iff, Nat.mul_eq_zero, Nat.pow_eq_zero] at h
  omega

theorem toNat_ofNat_of_lt {k n : Nat} (h : n < 2 ^ k) : (BitVec.ofNat k n).toNat = n := by
  rw [BitVec.toNat_ofNat, Nat.mod_eq_of_lt h]

theorem toNat_ofNat_of_le {k n m : Nat} (h : n ≤ m) (hm : m < 2 ^ k := by decide) : (BitVec.ofNat k n).toNat = n :=
  toNat_ofNat_of_lt (Nat.lt_of_le_of_lt h hm)

theorem ofNat_bne_zero {k n m : Nat} (h : 1 ≤ n ∧ n ≤ m) (hm : m < 2 ^ k := by decide) :
    (BitVec.ofNat k n != 0#k) = true := by
  obtain ⟨hpos, hle⟩ := h
  refine bne_iff_ne.mpr fun h0 => ?_
  have hn : n = 0 := calc
    n = (BitVec.ofNat k n).toNat := (toNat_ofNat_of_le hle hm).symm
    _ = 0 := by rw [h0, BitVec.toNat_zero]
  omega

@[simp] theorem toNat_ofNat_fld_self (w : SlotWord) (lo n : Nat) : (BitVec.ofNat n (fld w lo n)).toNat = fld w lo n :=
  toNat_ofNat_of_lt (fld_lt w lo n)

/-- A field whose high part is zero holds the number read from its low part. -/
theorem fld_eq_toNat_of_high {w : SlotWord} {m n : Nat} (h : fld w m n = 0) :
    fld w 0 (m + n) = (BitVec.ofNat m (fld w 0 m)).toNat := by
  rw [toNat_ofNat_fld_self, fld_add, Nat.zero_add, h, Nat.mul_zero, Nat.add_zero]

/-- A bit of the word as a number. -/
theorem toNat_fld_beq_one (w : SlotWord) (lo : Nat) : (fld w lo 1 == 1).toNat = fld w lo 1 := by
  have := fld_lt w lo 1
  obtain h | h : fld w lo 1 = 0 ∨ fld w lo 1 = 1 := by omega
  all_goals rw [h]; rfl

@[simp] theorem toNat_fD (w : SlotWord) : (fD w).toNat = fld w 17 5 := toNat_ofNat_fld_self w 17 5
@[simp] theorem toNat_fA (w : SlotWord) : (fA w).toNat = fld w 12 5 := toNat_ofNat_fld_self w 12 5
@[simp] theorem toNat_fB (w : SlotWord) : (fB w).toNat = fld w 7 5 := toNat_ofNat_fld_self w 7 5
/-- The 12-bit field of an RR form: field b and the sub-function. -/
theorem fld_imm12 (w : SlotWord) : fld w 0 12 = fFn w + 2 ^ 7 * (fB w).toNat := by rw [toNat_fB]; exact fld_add w 0 7 5

@[simp] theorem toNat_bP (w : SlotWord) : (bP w).toNat = fld w 20 3 := toNat_ofNat_fld_self w 20 3
@[simp] theorem toNat_bD (w : SlotWord) : (bD w).toNat = fld w 16 4 := toNat_ofNat_fld_self w 16 4
@[simp] theorem toNat_bA (w : SlotWord) : (bA w).toNat = fld w 12 4 := toNat_ofNat_fld_self w 12 4
@[simp] theorem toNat_bB (w : SlotWord) : (bB w).toNat = fld w 8 4 := toNat_ofNat_fld_self w 8 4

theorem code_tyOf {n : Nat} (h : n < 8) : (tyOf n).code = n := by
  interval_cases n <;> rfl
@[simp] theorem code_bTy (w : SlotWord) : (bTy w).code = fld w 5 3 := code_tyOf (fld_lt w 5 3)

theorem code_of_scopeOf {n : Nat} {sc : Scope} (h : scopeOf n = some sc) : sc.code = n := by
  unfold scopeOf at h
  split at h <;> cases h <;> rfl

theorem code_of_etypeOf {n : Nat} {et : EType} (h : etypeOf n = some et) : et.code = n := by
  unfold etypeOf at h
  split at h <;> cases h <;> rfl

theorem code_of_fmtOf {n : Nat} {fmt : CFmt} (h : fmtOf n = some fmt) : fmt.code = n := by
  unfold fmtOf at h
  split at h <;> cases h <;> rfl

theorem toNat_asV {r : SReg} (h : okV r = true) : (asV r).toNat = r.toNat :=
  toNat_ofNat_of_lt (of_decide_eq_true h)
theorem toNat_asP {r : SReg} (h : okP r = true) : (asP r).toNat = r.toNat :=
  toNat_ofNat_of_lt (of_decide_eq_true h)
/-- The scalar field of a quad holds 4 times its base (R74). -/
theorem toNat_asQ {r : SReg} (h : okQ r = true) : (asQ r).toNat * 4 = r.toNat := by
  have hr : r.toNat % 4 = 0 := of_decide_eq_true h
  have hlt := r.isLt
  simp only [asQ, BitVec.toNat_ofNat]
  omega

/-! ## The formats rebuild the word they are read from -/

/-- A slot-A word from its fields (R73). -/
theorem toNat_eq_fieldsA (w : SlotWord) :
    w.toNat = opA w * 2 ^ 22 + (fD w).toNat * 2 ^ 17 + (fA w).toNat * 2 ^ 12 + (fB w).toNat * 2 ^ 7 + fFn w := by
  have := w.isLt
  simp only [toNat_fD, toNat_fA, toNat_fB, opA, fFn, fld]
  omega

/-- A slot-B word from its fields (R75). -/
theorem toNat_eq_fieldsB (w : SlotWord) :
    w.toNat = opB w * 2 ^ 23 + (bP w).toNat * 2 ^ 20 + (bD w).toNat * 2 ^ 16 + (bA w).toNat * 2 ^ 12 + (bB w).toNat * 2 ^ 8 +
      (bTy w).code * 2 ^ 5 + bFn w := by
  have := w.isLt
  simp only [toNat_bP, toNat_bD, toNat_bA, toNat_bB, code_bTy, opB, bFn, fld]
  omega

theorem ofNat_of_toNat_eq {w : SlotWord} {n : Nat} (h : w.toNat = n) : BitVec.ofNat 29 n = w := by
  rw [← h, BitVec.ofNat_toNat, BitVec.setWidth_eq]

theorem rr_eq {w : SlotWord} {op d a b fn : Nat} (hop : opA w = op) (hd : (fD w).toNat = d) (ha : (fA w).toNat = a)
    (hb : (fB w).toNat = b) (hfn : fFn w = fn) : rr op d a b fn = .a w none := by
  subst hop hd ha hb hfn
  rw [rr, ofNat_of_toNat_eq (toNat_eq_fieldsA w)]

theorem ri0_eq {w : SlotWord} {op d a imm : Nat} (hop : opA w = op) (hd : (fD w).toNat = d) (ha : (fA w).toNat = a)
    (himm : fld w 0 12 = imm) : ri0 op d a imm = .a w none := by
  subst hop hd ha himm
  rw [ri0, fld_imm12, ofNat_of_toNat_eq ((toNat_eq_fieldsA w).trans (by ring))]

theorem jf_eq {w : SlotWord} {op d : Nat} (hop : opA w = op) (hd : (fD w).toNat = d) :
    jf op d (f17 w).toNat = .a w none := by
  subst hop hd
  rw [jf, f17, toNat_ofNat_fld_self, fld_add w 0 12 5, fld_imm12, ← toNat_fA,
    ofNat_of_toNat_eq ((toNat_eq_fieldsA w).trans (by ring))]

/-- Short or extended, the immediate form of a word's immediate is the word with its extension (R71). -/
theorem ri_eq {w : SlotWord} {op d a : Nat} (x : Option SlotWord) (hop : opA w = op) (hd : (fD w).toNat = d)
    (ha : (fA w).toNat = a) : ri op d a (immOf w x) = .a w x := by
  have hw := ri0_eq hop hd ha rfl
  cases x with
  | none => rw [immOf, ri, f12, toNat_ofNat_fld_self, ← hw, ri0]
  | some e =>
    have he := e.isLt
    have hlt := fld_lt w 0 12
    have hv : (BitVec.ofNat 41 (e.toNat * 4096 + fld w 0 12)).toNat = e.toNat * 4096 + fld w 0 12 :=
      toNat_ofNat_of_lt (by omega)
    have hlo : (e.toNat * 4096 + fld w 0 12) % 4096 = fld w 0 12 := by omega
    have hhi : (e.toNat * 4096 + fld w 0 12) / 4096 = e.toNat := by omega
    obtain ⟨hw, -⟩ := Enc.a.inj hw
    rw [immOf, ri, hv, hlo, hhi, hw, ofNat_of_toNat_eq rfl]

/-- A small immediate keeps its word beside an extension of zeros (R102, R202). -/
theorem rx_eq {w : SlotWord} {op d a imm : Nat} {x : Option SlotWord} (hx : x.getD 0 = 0#29) (hop : opA w = op)
    (hd : (fD w).toNat = d) (ha : (fA w).toNat = a) (himm : fld w 0 12 = imm) : rx op d a imm x.isSome = .a w x := by
  have hw := ri0_eq hop hd ha himm
  cases x with
  | none => simpa [rx, ri0] using hw
  | some e =>
    obtain rfl : e = 0#29 := hx
    simpa [rx, ri0] using hw

theorem vb_eq {w : SlotWord} {op p d a b ty fn : Nat} (hop : opB w = op) (hp : (bP w).toNat = p) (hd : (bD w).toNat = d)
    (ha : (bA w).toNat = a) (hb : (bB w).toNat = b) (hty : (bTy w).code = ty) (hfn : bFn w = fn) :
    vb op p d a b ty fn = .b w := by
  subst hop hp hd ha hb hty hfn
  rw [vb, ofNat_of_toNat_eq (toNat_eq_fieldsB w)]

/-! ## What a decoder accepts -/

/-- Every instruction that the answer `r` accepts is well formed, and its words are `e`. -/
def OneMeaning (e : Enc) (r : Except Reject Instr) : Prop := ∀ i, r = .ok i → i.wf = true ∧ encode i = some e

namespace OneMeaning

variable {e : Enc} {r : Except Reject Instr} {i : Instr} {c : Bool} {f : Reject} {w : SlotWord} {x : Option SlotWord}

theorem error : OneMeaning e (.error f) := by
  intro i hi
  cases hi

theorem ok {e' : Enc} (hwf : i.wf = true) (henc : encode i = some e') (he : e' = e) : OneMeaning e (.ok i) := by
  rintro _ ⟨⟩
  exact ⟨hwf, he ▸ henc⟩

theorem accept (h : c = true → OneMeaning e (.ok i)) : OneMeaning e (accept c f i) := by
  cases c with
  | false => exact error
  | true => exact h rfl

/-- A further condition on what an answer accepts. -/
theorem bind (h : c = true → OneMeaning e r) : OneMeaning e (r >>= Sys2Proof.accept c f) := by
  intro i hi
  cases r with
  | error => cases hi
  | ok j =>
    cases c with
    | false => cases hi
    | true => exact h rfl i hi

theorem noExt (h : OneMeaning (.a w none) r) : OneMeaning (.a w x) (noExt x r) := by
  cases x with
  | none => exact h
  | some _ => exact error

end OneMeaning

/-- A conjunction of checks, one hypothesis for each. -/
theorem of_and {c d : Bool} {p : Prop} (h : c = true → d = true → p) (hcd : (c && d) = true) : p :=
  h (Bool.and_eq_true_iff.mp hcd).1 (Bool.and_eq_true_iff.mp hcd).2

/-- A register field that must be zero. -/
theorem toNat_of_beq_zero {n : Nat} {r : BitVec n} (h : (r == 0#n) = true) : r.toNat = 0 := by
  rw [eq_of_beq h, BitVec.toNat_zero]

/-! ## Slot A -/

section
variable {w : SlotWord} {x : Option SlotWord}

/-- A field d, a or b inside a zero field is zero. -/
theorem toNat_fD_of_zero {lo n : Nat} (h : fld w lo n = 0) (hlo : lo ≤ 17 := by decide) (hn : 22 ≤ lo + n := by decide) :
    (fD w).toNat = 0 := (toNat_fD w).trans (fld_inside h hlo hn)
theorem toNat_fA_of_zero {lo n : Nat} (h : fld w lo n = 0) (hlo : lo ≤ 12 := by decide) (hn : 17 ≤ lo + n := by decide) :
    (fA w).toNat = 0 := (toNat_fA w).trans (fld_inside h hlo hn)
theorem toNat_fB_of_zero {lo n : Nat} (h : fld w lo n = 0) (hlo : lo ≤ 7 := by decide) (hn : 12 ≤ lo + n := by decide) :
    (fB w).toNat = 0 := (toNat_fB w).trans (fld_inside h hlo hn)

/-- Opcode 0x01: the register forms, then the unary ones, whose field b is zero. -/
theorem decodeAlu_oneMeaning (hop : opA w = 0x01) : OneMeaning (.a w none) (decodeAlu w) := by
  dsimp only [decodeAlu]
  split
  iterate 27 exact .ok rfl rfl (rr_eq hop rfl rfl rfl ‹_›)
  iterate 11 exact .accept fun hb => .ok rfl rfl (rr_eq hop rfl rfl (toNat_of_beq_zero hb) ‹_›)
  exact .error

theorem decodeShift_oneMeaning {mk : SReg → SReg → BitVec 6 → Bool → Instr} {op : Nat}
    (hwf : ∀ d a n e, (mk d a n e).wf = true)
    (henc : ∀ d a n e, encode (mk d a n e) = some (rx op d.toNat a.toNat n.toNat e)) (hop : opA w = op) :
    OneMeaning (.a w x) (decodeShift mk w x) :=
  .accept <| of_and fun hhi hx => .ok (hwf ..) (henc ..) <| rx_eq (eq_of_beq hx) hop rfl rfl <|
    fld_eq_toNat_of_high (eq_of_beq hhi)

theorem decodeBits_oneMeaning {mk : SReg → SReg → BitVec 6 → BitVec 6 → Instr} {op : Nat}
    (hwf : ∀ d a pos n, (mk d a pos n).wf = decide (pos.toNat + n.toNat + 1 ≤ 64))
    (henc : ∀ d a pos n, encode (mk d a pos n) = some (ri0 op d.toNat a.toNat (pos.toNat * 64 + n.toNat)))
    (hop : opA w = op) : OneMeaning (.a w none) (decodeBits mk w) := by
  refine .accept fun hle => .ok ?_ (henc ..) (ri0_eq hop rfl rfl ?_)
  · simpa only [hwf, toNat_ofNat_fld_self] using hle
  · rw [toNat_ofNat_fld_self, toNat_ofNat_fld_self, fld_add w 0 6 6]
    ring

/-- The 41-bit immediate of movt is its 23 bits above zeros (R105). -/
theorem immOf_of_movt {e : SlotWord} (he : e.toNat < 2048) :
    .ext ((BitVec.ofNat 23 (e.toNat * 4096 + fld w 0 12)).setWidth 41) = immOf w (some e) := by
  have hlt := fld_lt w 0 12
  refine congrArg Imm.ext (BitVec.eq_of_toNat_eq ?_)
  simp only [BitVec.toNat_setWidth, BitVec.toNat_ofNat]
  omega

/-- Opcodes 0x01 to 0x1F. -/
theorem decodeA0_oneMeaning : OneMeaning (.a w x) (decodeA0 w x) := by
  dsimp only [decodeA0]
  split
  · exact .noExt (decodeAlu_oneMeaning ‹_›)
  iterate 4 exact .ok rfl rfl (ri_eq x ‹_› rfl rfl)
  iterate 4 exact decodeShift_oneMeaning (fun _ _ _ _ => rfl) (fun _ _ _ _ => rfl) ‹_›
  iterate 4 exact .ok rfl rfl (ri_eq x ‹_› rfl rfl)
  iterate 3 exact .noExt (decodeBits_oneMeaning (fun _ _ _ _ => rfl) (fun _ _ _ _ => rfl) ‹_›)
  · refine .noExt (.accept fun hle => ?_)
    have hfn : (BitVec.ofNat 3 (fFn w)).toNat = fFn w :=
      toNat_ofNat_of_le (of_decide_eq_true hle)
    exact .ok (by simpa only [Instr.wf, hfn] using hle) rfl (rr_eq ‹_› rfl rfl rfl hfn.symm)
  · exact .accept fun ha => .ok rfl rfl (ri_eq x ‹_› rfl (toNat_of_beq_zero ha))
  · split
    · exact .error
    · exact .accept fun he => .ok rfl rfl (immOf_of_movt (of_decide_eq_true he) ▸ ri_eq _ ‹_› rfl rfl)
  iterate 3 exact .noExt (.ok rfl rfl (jf_eq ‹_› rfl))
  exact .error

/-- Opcodes 0x20 to 0x2F. -/
theorem decodeA2_oneMeaning : OneMeaning (.a w x) (decodeA2 w x) := by
  dsimp only [decodeA2]
  split
  iterate 6 exact .ok rfl rfl (ri_eq x ‹_› rfl rfl)
  · exact .noExt (.accept fun hd => .ok rfl rfl (jf_eq ‹_› (toNat_of_beq_zero hd)))
  · exact .noExt (.ok rfl rfl (jf_eq ‹_› rfl))
  · exact .ok rfl rfl (ri_eq x ‹_› rfl rfl)
  · exact .accept fun hb => .ok rfl rfl (ri_eq x ‹_› rfl (toNat_of_beq_zero hb))
  iterate 2
    exact .bind fun hb => .accept fun hp => .ok rfl rfl (ri_eq x ‹_› (toNat_asP hp).symm (toNat_of_beq_zero hb))
  exact .error

/-- Opcodes 0x30 to 0x3F. -/
theorem decodeA3_oneMeaning : OneMeaning (.a w x) (decodeA3 w x) := by
  dsimp only [decodeA3]
  split
  iterate 11 exact .ok rfl rfl (ri_eq x ‹_› rfl rfl)
  iterate 2 exact .accept fun hd => .ok rfl rfl (ri_eq x ‹_› (toNat_asV hd).symm rfl)
  iterate 2
    exact .noExt <| .bind fun hfn => .accept <| of_and fun hd hb => .ok rfl rfl <|
      rr_eq ‹_› (toNat_asV hd).symm rfl (toNat_asV hb).symm (toNat_ofNat_of_le (of_decide_eq_true hfn)).symm
  · exact .accept fun hd => .ok rfl rfl (ri_eq x ‹_› (toNat_of_beq_zero hd) rfl)
  exact .error

/-- The sub-function of an atomic form: the operation, the width and the signedness below two zero bits (R80). -/
theorem fFn_eq_amoFn {op : Nat} {w32 uns : Bool} (hop : fld w 0 3 = op) (hw : (fld w 3 1 == 1) = w32)
    (hu : (fld w 4 1 == 1) = uns) (hz : (fld w 5 2 == 0) = true) : fFn w = amoFn op w32 uns := by
  have hfn : fFn w = fld w 0 3 + 2 ^ 3 * (fld w 3 1 + 2 ^ 1 * (fld w 4 1 + 2 ^ 1 * fld w 5 2)) := by
    rw [← fld_add w 4 1 2, ← fld_add w 3 1 3, ← fld_add w 0 3 4, fFn]
  rw [amoFn, ← hw, ← hu, toNat_fld_beq_one, toNat_fld_beq_one, hfn, hop, eq_of_beq hz]
  ring

/-- An amo form whose sign bit must be zero (R80). -/
theorem amoPlain_oneMeaning {op : Nat} {i : Instr} (hop : opA w = 0x42) (hop3 : fld w 0 3 = op) (hwf : i.wf = true)
    (henc : encode i = some (rr 0x42 (fD w).toNat (fA w).toNat (fB w).toNat (amoFn op (fld w 3 1 == 1) false))) :
    OneMeaning (.a w none) (accept (!(fld w 4 1 == 1) && fld w 5 2 == 0) (.field false) i) :=
  .accept <| of_and fun hu hz => .ok hwf henc <|
    rr_eq hop rfl rfl rfl (fFn_eq_amoFn hop3 rfl ((Bool.not_eq_true' _).mp hu) hz)

theorem decodeAmo_oneMeaning (hop : opA w = 0x42) : OneMeaning (.a w none) (decodeAmo w) := by
  dsimp only [decodeAmo]
  split
  iterate 3 exact amoPlain_oneMeaning hop ‹_› rfl rfl
  iterate 2 exact .accept fun hz => .ok rfl rfl (rr_eq hop rfl rfl rfl (fFn_eq_amoFn ‹_› rfl rfl hz))
  iterate 2 exact amoPlain_oneMeaning hop ‹_› rfl rfl
  · have h7 : fld w 0 3 = 7 := by
      have := fld_lt w 0 3
      simp only [imp_false] at *
      omega
    exact amoPlain_oneMeaning hop h7 rfl rfl

/-- A red form whose sign bit must be zero (R80). -/
theorem redPlain_oneMeaning {op : Nat} {i : Instr} (hop : opA w = 0x44) (hop3 : fld w 0 3 = op) (hwf : i.wf = true)
    (henc : encode i = some (rr 0x44 0 (fA w).toNat (fB w).toNat (amoFn op (fld w 3 1 == 1) false))) :
    OneMeaning (.a w none) (accept (!(fld w 4 1 == 1) && fld w 5 2 == 0 && fD w == 0#5) (.field false) i) :=
  .accept <| of_and <| of_and fun hu hz hd => .ok hwf henc <|
    rr_eq hop (toNat_of_beq_zero hd) rfl rfl (fFn_eq_amoFn hop3 rfl ((Bool.not_eq_true' _).mp hu) hz)

theorem decodeRed_oneMeaning (hop : opA w = 0x44) : OneMeaning (.a w none) (decodeRed w) := by
  dsimp only [decodeRed]
  split
  · exact redPlain_oneMeaning hop ‹_› rfl rfl
  iterate 2
    exact .accept <| of_and fun hz hd => .ok rfl rfl <|
      rr_eq hop (toNat_of_beq_zero hd) rfl rfl (fFn_eq_amoFn ‹_› rfl rfl hz)
  iterate 3 exact redPlain_oneMeaning hop ‹_› rfl rfl
  · exact .accept <| of_and <| of_and <| of_and fun hu hz hd hw => .ok rfl rfl <|
      rr_eq hop (toNat_of_beq_zero hd) rfl rfl (fFn_eq_amoFn ‹_› hw ((Bool.not_eq_true' _).mp hu) hz)
  exact .error

/-- Opcodes 0x40 to 0x4F. -/
theorem decodeA4_oneMeaning : OneMeaning (.a w x) (decodeA4 w x) := by
  dsimp only [decodeA4]
  split
  iterate 2 exact .ok rfl rfl (ri_eq x ‹_› rfl rfl)
  · exact .noExt (decodeAmo_oneMeaning ‹_›)
  · exact .noExt <| .accept fun hz => .ok rfl rfl <|
      have hz := eq_of_beq hz
      rr_eq ‹_› rfl (toNat_fA_of_zero hz) (toNat_fB_of_zero hz) (fld_inside hz)
  · exact .noExt (decodeRed_oneMeaning ‹_›)
  · refine .noExt ?_
    split
    · exact .accept fun hz => .ok rfl rfl <|
        have hz := eq_of_beq hz
        ri0_eq ‹_› (toNat_fD_of_zero hz) (toNat_fA_of_zero hz) (code_of_scopeOf ‹_›).symm
    · exact .error
  iterate 2 exact .ok rfl rfl (ri_eq x ‹_› rfl rfl)
  exact .error

/-- The immediate of fetcht: the job below the operation, below zeros (R202). -/
theorem fetcht_imm {op : Nat} (hop : fld w 4 2 = op) (hz : (fld w 6 6 == 0) = true) :
    fld w 0 12 = op * 16 + (BitVec.ofNat 4 (fld w 0 4)).toNat := by
  rw [toNat_ofNat_fld_self, fld_add w 0 6 6, fld_add w 0 4 2, Nat.zero_add, Nat.zero_add, hop, eq_of_beq hz]
  ring

theorem decodeFetcht_oneMeaning (hop : opA w = 0x5B) : OneMeaning (.a w x) (decodeFetcht w x) := by
  dsimp only [decodeFetcht]
  split
  · exact .accept <| of_and <| of_and fun hz hx ha => .ok rfl rfl <|
      rx_eq (eq_of_beq hx) hop rfl (toNat_of_beq_zero ha) ((fetcht_imm ‹_› hz).trans (by rw [Nat.zero_mul, Nat.zero_add]))
  · exact .accept <| of_and <| of_and fun hz hx hd => .ok rfl rfl <|
      rx_eq (eq_of_beq hx) hop (toNat_of_beq_zero hd) rfl (fetcht_imm ‹_› hz)
  · exact .accept <| of_and <| of_and fun hz hx ha => .ok rfl rfl <|
      rx_eq (eq_of_beq hx) hop rfl (toNat_of_beq_zero ha) (fetcht_imm ‹_› hz)
  · exact .error

/-- Opcodes 0x50 to 0x5F. -/
theorem decodeA5_oneMeaning : OneMeaning (.a w x) (decodeA5 w x) := by
  dsimp only [decodeA5]
  split
  iterate 2
    exact .noExt <| .bind fun hfn => .accept fun hq => .ok rfl rfl <|
      rr_eq ‹_› rfl rfl (toNat_asQ hq).symm (eq_of_beq hfn)
  · exact .noExt <| .accept fun hfn => .ok rfl rfl (rr_eq ‹_› rfl rfl rfl (eq_of_beq hfn))
  · exact .noExt <| .bind fun hfn => .accept fun hq => .ok rfl rfl <|
      rr_eq ‹_› rfl rfl (toNat_asQ hq).symm (eq_of_beq hfn)
  · refine .noExt ?_
    split
    iterate 3 exact .accept fun hq => .ok rfl rfl (rr_eq ‹_› rfl rfl (toNat_asQ hq).symm ‹_›)
    exact .error
  · exact .noExt <| .accept fun hfn => .ok rfl rfl (rr_eq ‹_› rfl rfl rfl (eq_of_beq hfn))
  · exact .ok rfl rfl (ri_eq x ‹_› rfl rfl)
  · exact .noExt <| .accept fun hz => .ok rfl rfl <|
      have hz := eq_of_beq hz
      rr_eq ‹_› rfl (toNat_fA_of_zero hz) (toNat_fB_of_zero hz) (fld_inside hz)
  · refine .noExt <| .bind fun hz => .accept fun hq => ?_
    exact .ok rfl rfl (ri0_eq ‹_› rfl (toNat_asQ hq).symm (fld_eq_toNat_of_high (m := 2) (n := 10) (eq_of_beq hz)))
  · refine .noExt <| .bind fun hz => .accept fun hq => ?_
    exact .ok rfl rfl (ri0_eq ‹_› rfl (toNat_asQ hq).symm (fld_eq_toNat_of_high (m := 5) (n := 7) (eq_of_beq hz)))
  · refine .noExt ?_
    split
    · exact .accept fun hd => .ok rfl rfl (rr_eq ‹_› (toNat_of_beq_zero hd) rfl rfl ‹_›)
    iterate 2 exact .ok rfl rfl (rr_eq ‹_› rfl rfl rfl ‹_›)
    exact .error
  · exact decodeFetcht_oneMeaning ‹_›
  · exact .noExt <| .accept fun hfn => .ok rfl rfl (rr_eq ‹_› rfl rfl rfl (eq_of_beq hfn))
  · exact .noExt <| .accept <| of_and fun hd hfn => .ok rfl rfl <|
      rr_eq ‹_› (toNat_of_beq_zero hd) rfl rfl (eq_of_beq hfn)
  exact .error

/-- The node of esc and esc.o stands below the bit that tells them apart (R187). -/
theorem esc_imm {o : Nat} (ho : fld w 2 1 = o) (hz : (fld w 3 9 == 0) = true) :
    fld w 0 12 = 4 * o + (BitVec.ofNat 2 (fld w 0 2)).toNat := by
  rw [toNat_ofNat_fld_self, fld_add w 0 3 9, fld_add w 0 2 1, Nat.zero_add, Nat.zero_add, ho, eq_of_beq hz]
  ring

/-- Opcodes 0x60 to 0x6F. -/
theorem decodeA6_oneMeaning : OneMeaning (.a w x) (decodeA6 w x) := by
  dsimp only [decodeA6]
  split
  · -- srecv
    refine .noExt <| .bind <| of_and fun ha hi => .accept fun hd => ?_
    exact .ok rfl rfl (ri0_eq ‹_› (toNat_asV hd).symm (toNat_of_beq_zero ha) (toNat_ofNat_of_lt (of_decide_eq_true hi)).symm)
  · -- ssend
    refine .noExt ?_
    split
    · exact .bind fun hd => .accept fun ha => .ok rfl rfl <|
        rr_eq ‹_› (toNat_of_beq_zero hd) (toNat_asV ha).symm rfl (code_of_etypeOf ‹_›).symm
    · exact .error
  · -- smerge
    refine .noExt <| .bind fun hk => .accept <| of_and <| of_and fun hd ha hb => ?_
    have hk := of_decide_eq_true hk
    exact .ok (ofNat_bne_zero hk) rfl <|
      rr_eq ‹_› (toNat_asV hd).symm (toNat_asV ha).symm (toNat_asV hb).symm (toNat_ofNat_of_le hk.2).symm
  · -- ssplit
    refine .noExt <| .bind fun hi => .accept <| of_and fun hd ha => ?_
    have hn := toNat_ofNat_of_le (k := 4) (of_decide_eq_true hi).2
    exact .ok (by simpa only [Instr.wf, hn] using hi) rfl <|
      ri0_eq ‹_› (toNat_asV hd).symm (toNat_asV ha).symm hn.symm
  · -- sstop
    refine .noExt <| .accept <| of_and fun hz hi => ?_
    have hz := eq_of_beq hz
    have hi := of_decide_eq_true hi
    exact .ok (ofNat_bne_zero hi) rfl <|
      ri0_eq ‹_› (toNat_fD_of_zero hz) (toNat_fA_of_zero hz) (toNat_ofNat_of_le hi.2).symm
  · -- ssteer
    refine .noExt <| .accept <| of_and fun hd hz => ?_
    have hz := eq_of_beq hz
    exact .ok rfl rfl (rr_eq ‹_› (toNat_of_beq_zero hd) rfl (toNat_fB_of_zero hz) (fld_inside hz))
  · -- speek
    refine .noExt <| .accept <| of_and fun ha hi => ?_
    exact .ok rfl rfl (ri0_eq ‹_› rfl (toNat_of_beq_zero ha) (toNat_ofNat_of_lt (of_decide_eq_true hi)).symm)
  · -- spred
    refine .noExt <| .bind <| of_and fun ha hi => .accept fun hd => ?_
    exact .ok rfl rfl (ri0_eq ‹_› (toNat_asP hd).symm (toNat_of_beq_zero ha) (toNat_ofNat_of_lt (of_decide_eq_true hi)).symm)
  · -- rqpush and rqpop
    refine .noExt ?_
    split
    · exact .accept <| of_and fun hd ha => .ok rfl rfl (rr_eq ‹_› (toNat_asV hd).symm (toNat_asV ha).symm rfl ‹_›)
    · exact .accept <| of_and fun hd ha => .ok rfl rfl (rr_eq ‹_› (toNat_asV hd).symm (toNat_asV ha).symm rfl ‹_›)
    · exact .error
  · -- esc and esc.o
    refine .noExt <| .bind fun hz => .accept fun ha => ?_
    split
    · exact .ok rfl rfl (ri0_eq ‹_› rfl (toNat_asV ha).symm (esc_imm (o := 1) (eq_of_beq ‹_›) hz))
    · have ho : fld w 2 1 = 0 := by
        have := fld_lt w 2 1
        simp only [beq_iff_eq] at *
        omega
      exact .ok rfl rfl (ri0_eq ‹_› rfl (toNat_asV ha).symm ((esc_imm ho hz).trans (Nat.zero_add _)))
  · -- ctxsw
    refine .noExt <| .accept <| of_and fun hz hi => ?_
    have hz := eq_of_beq hz
    exact .ok rfl rfl <|
      ri0_eq ‹_› (toNat_fD_of_zero hz) (toNat_fA_of_zero hz) (toNat_ofNat_of_lt (of_decide_eq_true hi)).symm
  · -- mg
    refine .noExt ?_
    split
    · have hz := eq_of_beq ‹(fld w 7 15 == 0) = true›
      split
      iterate 6
        exact .ok rfl rfl (rr_eq ‹_› (toNat_fD_of_zero hz) (toNat_fA_of_zero hz) (toNat_fB_of_zero hz) ‹_›)
      exact .error
    · exact .error
  · -- mzero and mdrain
    refine .noExt ?_
    split
    · refine .accept fun hz => ?_
      have hz := eq_of_beq hz
      exact .ok rfl rfl (rr_eq ‹_› (toNat_fD_of_zero hz) (toNat_fA_of_zero hz) (toNat_fB_of_zero hz) ‹_›)
    · exact .bind fun hd => .accept fun hb => .ok rfl rfl <|
        rr_eq ‹_› (toNat_of_beq_zero hd) rfl (toNat_asV hb).symm ‹_›
    · exact .error
  · -- mspx and mspx.n
    refine .noExt ?_
    split
    iterate 2 exact .accept fun hd => .ok rfl rfl (rr_eq ‹_› (toNat_of_beq_zero hd) rfl rfl ‹_›)
    exact .error
  · -- mdset
    refine .accept <| of_and fun hz hi => ?_
    have hz := eq_of_beq hz
    exact .ok hi rfl (ri_eq x ‹_› (toNat_fD_of_zero hz) (toNat_fA_of_zero hz))
  · -- mdadv and mdadv.r
    refine .noExt ?_
    split
    · have hz := eq_of_beq ‹(fld w 7 10 == 0) = true›
      split
      iterate 2 exact .ok rfl rfl (rr_eq ‹_› rfl (toNat_fA_of_zero hz) (toNat_fB_of_zero hz) ‹_›)
      exact .error
    · exact .error
  · exact .error

/-- A system form without operands is its opcode above zeros. -/
theorem zeroForm_oneMeaning {op : Nat} {i : Instr} (hop : opA w = op) (hwf : i.wf = true)
    (henc : encode i = some (rr op 0 0 0 0)) :
    OneMeaning (.a w none) (accept (fld w 0 22 == 0) (.field false) i) := by
  refine .accept fun hz => ?_
  have hz := eq_of_beq hz
  exact .ok hwf henc (rr_eq hop (toNat_fD_of_zero hz) (toNat_fA_of_zero hz) (toNat_fB_of_zero hz) (fld_inside hz))

/-- Opcodes 0x70 to 0x7F. -/
theorem decodeA7_oneMeaning : OneMeaning (.a w x) (decodeA7 w x) := by
  have hf12 : (f12 w).toNat = fld w 0 12 := toNat_ofNat_fld_self w 0 12
  dsimp only [decodeA7]
  split
  · -- trap
    refine .noExt <| .accept fun hz => ?_
    have hz := eq_of_beq hz
    exact .ok rfl rfl (ri0_eq ‹_› (toNat_fD_of_zero hz) (toNat_fA_of_zero hz) hf12.symm)
  iterate 2 exact .noExt (zeroForm_oneMeaning ‹_› rfl rfl)
  · -- csrr
    exact .noExt <| .accept <| of_and fun ha hn => .ok hn rfl (ri0_eq ‹_› rfl (toNat_of_beq_zero ha) hf12.symm)
  · -- csrw
    exact .noExt <| .accept <| of_and fun hd hn => .ok hn rfl (ri0_eq ‹_› (toNat_of_beq_zero hd) rfl hf12.symm)
  · exact .noExt (zeroForm_oneMeaning ‹_› rfl rfl)
  · -- wfit
    refine .noExt <| .accept <| of_and fun hd hz => ?_
    have hz := eq_of_beq hz
    exact .ok rfl rfl (rr_eq ‹_› (toNat_of_beq_zero hd) rfl (toNat_fB_of_zero hz) (fld_inside hz))
  iterate 2
    -- tlbi and icinv
    refine .noExt ?_
    split
    · exact .accept fun hd => .ok rfl rfl <|
        rr_eq ‹_› (toNat_of_beq_zero hd) rfl rfl (code_of_scopeOf ‹_›).symm
    · exact .error
  iterate 2 exact .ok rfl rfl (ri_eq x ‹_› rfl rfl)
  · -- preempt
    refine .noExt <| .accept fun hz => ?_
    have hz := eq_of_beq hz
    exact .ok rfl rfl (rr_eq ‹_› rfl rfl (toNat_fB_of_zero hz) (fld_inside hz))
  · exact .noExt (zeroForm_oneMeaning ‹_› rfl rfl)
  · exact .error

theorem decodeA_oneMeaning : OneMeaning (.a w x) (decodeA w x) := by
  unfold decodeA
  split
  iterate 2 exact decodeA0_oneMeaning
  · exact decodeA2_oneMeaning
  · exact decodeA3_oneMeaning
  · exact decodeA4_oneMeaning
  · exact decodeA5_oneMeaning
  · exact decodeA6_oneMeaning
  · exact decodeA7_oneMeaning

end

/-! ## Slot B -/

section
variable {w : SlotWord}

/-- The predicate that a compare writes stands in field vd below a zero bit (R84). -/
theorem toNat_bD_of_predicate (h : ¬(fld w 19 1 == 1) = true) :
    (bD w).toNat = (BitVec.ofNat 3 (fld w 16 3) : PReg).toNat := by
  have h0 : fld w 19 1 = 0 := by
    have := fld_lt w 19 1
    rw [beq_iff_eq] at h
    omega
  rw [toNat_bD, toNat_ofNat_fld_self, fld_add w 16 3 1, h0, Nat.mul_zero, Nat.add_zero]

theorem decodeVcmp_oneMeaning (hop : opB w = 0x0F) : OneMeaning (.b w) (decodeVcmp w) := by
  dsimp only [decodeVcmp]
  split
  iterate 5
    split
    · exact .error
    · exact .accept fun hty => .ok hty rfl (vb_eq hop rfl (toNat_bD_of_predicate ‹_›) rfl rfl rfl ‹_›)
  exact .error

/-- The source of vcvt takes its own ty and vb fields (R147). -/
theorem cvtSrcCode_of_cvtSrcOf {ty : Ty} {vb : Nat} {s : CFmt} (h : cvtSrcOf ty vb = some s) :
    s.isCvtSrc = true ∧ cvtSrcCode s = (ty.code, vb) := by
  cases ty with
  | x =>
    dsimp only [cvtSrcOf] at h
    split at h <;> cases h <;> exact ⟨rfl, rfl⟩
  | _ =>
    obtain ⟨rfl, ⟨⟩⟩ := Option.ite_none_right_eq_some.mp h
    exact ⟨rfl, rfl⟩

/-- The sub-function of vcvt and vquant: a code above one bit (R147, R157). -/
theorem bFn_eq_code {fmt : CFmt} (h : fmtOf (fld w 1 4) = some fmt) : bFn w = fmt.code * 2 + fld w 0 1 := by
  rw [bFn, fld_add w 0 1 4, Nat.zero_add, code_of_fmtOf h]
  ring

theorem decodeVcvt_oneMeaning (hop : opB w = 0x16) : OneMeaning (.b w) (decodeVcvt w) := by
  dsimp only [decodeVcvt]
  split
  next s d hs hd =>
    obtain ⟨hsrc, hcode⟩ := cvtSrcCode_of_cvtSrcOf hs
    refine .accept fun hdst => .ok ?_ rfl (vb_eq hop rfl rfl rfl ?_ ?_ ?_)
    · simpa only [Instr.wf, hsrc, Bool.true_and] using hdst
    · rw [hcode, toNat_bB]
    · rw [hcode]
    · rw [toNat_fld_beq_one, bFn_eq_code hd]
  · exact .error

/-- The form of vpack and vunpk takes its own ty and fn fields (R149, R150). -/
theorem code_of_packFormOf {ty : Ty} {fn : Nat} {f : PackForm} (h : packFormOf ty fn = some f) :
    f.code = (ty.code, fn) := by
  unfold packFormOf at h
  split at h
  iterate 6
    obtain ⟨hfn, ⟨⟩⟩ := Option.ite_none_right_eq_some.mp h
    interval_cases fn <;> rfl
  iterate 2 cases h

theorem decodeVquant_oneMeaning (hop : opB w = 0x1E) : OneMeaning (.b w) (decodeVquant w) := by
  dsimp only [decodeVquant]
  split
  · exact .error
  next fmt hfmt =>
    split
    next hs =>
      refine .accept <| of_and fun hty hq => .ok hq rfl ?_
      exact vb_eq hop rfl rfl rfl rfl (congrArg Ty.code (eq_of_beq hty)) (by rw [bFn_eq_code hfmt, eq_of_beq hs]; rfl)
    next hs =>
      have hs : fld w 0 1 = 1 := by
        have := fld_lt w 0 1
        rw [beq_iff_eq] at hs
        omega
      refine .accept <| of_and fun hty hq => .ok hq rfl ?_
      exact vb_eq hop rfl rfl rfl rfl (congrArg Ty.code (eq_of_beq hty)) (by rw [bFn_eq_code hfmt, hs])

/-- The field vb of vmovs: the direction above the lane (R154). -/
theorem toNat_bB_of_vmovs (w : SlotWord) :
    (bB w).toNat = (fld w 11 1 == 1).toNat * 8 + (BitVec.ofNat 3 (fld w 8 3)).toNat := by
  rw [toNat_bB, toNat_fld_beq_one, toNat_ofNat_fld_self, fld_add w 8 3 1]
  ring

theorem decodeB_oneMeaning : OneMeaning (.b w) (decodeB w) := by
  dsimp only [decodeB]
  split
  · -- vnop
    refine .accept fun hw => .ok rfl rfl ?_
    rw [eq_of_beq hw]
    rfl
  iterate 6 exact .accept <| of_and fun hty hfn => .ok hty rfl (vb_eq ‹_› rfl rfl rfl rfl rfl (eq_of_beq hfn))
  iterate 2
    exact .accept <| of_and <| of_and fun hty hfn hb => .ok hty rfl <|
      vb_eq ‹_› rfl rfl rfl (toNat_of_beq_zero hb) rfl (eq_of_beq hfn)
  · exact .accept <| of_and fun hty hfn => .ok hty rfl (vb_eq ‹_› rfl rfl rfl rfl rfl (eq_of_beq hfn))
  iterate 5
    exact .accept <| of_and <| of_and fun hty hfn hb => .ok hty rfl <|
      vb_eq ‹_› rfl rfl rfl (toNat_of_beq_zero hb) rfl (eq_of_beq hfn)
  · exact decodeVcmp_oneMeaning ‹_›
  iterate 4
    exact .accept <| of_and fun hty hfn => .ok rfl rfl <|
      vb_eq ‹_› rfl rfl rfl rfl (congrArg Ty.code (eq_of_beq hty)) (eq_of_beq hfn)
  · exact .accept <| of_and fun hty hfn => .ok hty rfl (vb_eq ‹_› rfl rfl rfl rfl rfl (eq_of_beq hfn))
  · -- vshr and vsra
    split
    iterate 2 exact .accept fun hty => .ok hty rfl (vb_eq ‹_› rfl rfl rfl rfl rfl ‹_›)
    exact .error
  · exact decodeVcvt_oneMeaning ‹_›
  · -- vpack
    split
    next f hf =>
      have hcode := code_of_packFormOf hf
      refine .accept <| of_and <| of_and fun hp hpack hb => .ok (Bool.and_eq_true_iff.mpr ⟨hpack, hb⟩) rfl ?_
      exact vb_eq ‹_› (toNat_of_beq_zero hp) rfl rfl rfl (by rw [hcode]) (by rw [hcode])
    · exact .error
  · -- vunpk
    split
    next f hf =>
      have hcode := code_of_packFormOf hf
      refine .accept <| of_and fun hunpk hb => .ok hunpk rfl ?_
      exact vb_eq ‹_› rfl rfl rfl (toNat_of_beq_zero hb) (by rw [hcode]) (by rw [hcode])
    · exact .error
  · -- vred
    split
    iterate 3
      exact .accept <| of_and fun hty hb => .ok hty rfl <|
        vb_eq ‹_› rfl rfl rfl (toNat_of_beq_zero hb) rfl ‹_›
    exact .error
  · -- vperm
    exact .accept <| of_and fun hty hfn => .ok rfl rfl <|
      vb_eq ‹_› rfl rfl rfl rfl (congrArg Ty.code (eq_of_beq hty)) (eq_of_beq hfn)
  · -- vbcast
    exact .accept <| of_and fun ha hb => .ok rfl rfl <|
      vb_eq ‹_› rfl rfl (toNat_of_beq_zero ha) (toNat_of_beq_zero hb) rfl (toNat_ofNat_fld_self w 0 5).symm
  · -- vmovs
    exact .accept fun hok => .ok hok rfl <|
      vb_eq ‹_› rfl rfl rfl (toNat_bB_of_vmovs w) rfl (toNat_ofNat_fld_self w 0 5).symm
  · exact .accept <| of_and fun hty hfn => .ok hty rfl (vb_eq ‹_› rfl rfl rfl rfl rfl (eq_of_beq hfn))
  · exact decodeVquant_oneMeaning ‹_›
  · -- vclass
    exact .accept <| of_and <| of_and fun hty hfn hb => .ok hty rfl <|
      vb_eq ‹_› rfl rfl rfl (toNat_of_beq_zero hb) rfl (eq_of_beq hfn)
  · -- vgstep
    exact .accept <| of_and <| of_and fun hty hp hfn => .ok rfl rfl <|
      vb_eq ‹_› (toNat_of_beq_zero hp) rfl rfl rfl (congrArg Ty.code (eq_of_beq hty)) (eq_of_beq hfn)
  · -- vgmask
    exact .accept <| of_and fun hty hfn => .ok rfl rfl <|
      vb_eq ‹_› rfl rfl rfl rfl (congrArg Ty.code (eq_of_beq hty)) (eq_of_beq hfn)
  · exact .error

end

/-- Settles O58: both decoders are built from answers that accept an instruction for its own words alone. -/
theorem wordsHaveOneMeaning : Obligations.WordsHaveOneMeaning :=
  ⟨fun _ _ => decodeA_oneMeaning, fun _ => decodeB_oneMeaning⟩

end Sys2Proof
end

section
/-!
PROOFS. Registers and the short integer forms (R15, R17, R101): what placing registers in the unit in hand leaves alone, the
values of opcode 0x01 as functions of its operands' readings, and the return buffer's writes of s0.
-/
namespace Sys2Proof.Claims
open Sys2Proof.Machine

variable {s : State}

/-! ## Placing registers in the unit in hand -/

theorem sameRest_setCtx (c : Ctx) : SameRest s (s.setCtx c) where
  mem := s.setCtx_mem c
  tiles := s.setCtx_tiles c
  cores := s.setCtx_cores c
  blks := s.setCtx_blks c
  fields := s.setCtx_fields c
  mesh := s.setCtx_mesh c
  dev := s.setCtx_dev c
  ns := s.setCtx_ns c
  cur := s.setCtx_cur c
  agenda := s.setCtx_agenda c
  tick := s.setCtx_tick c
  fresh := s.setCtx_fresh c
  threads g h := by rw [State.setCtx_thread, if_neg h]
  tcores k h := by rw [State.setCtx_tcore, if_neg h]

theorem became_setCtx (c : Ctx) : Became s (s.setCtx c) c s.iss where
  rest := sameRest_setCtx c
  iss := s.setCtx_iss c
  thread g h := by rw [State.setCtx_thread, if_pos h]
  core k h := by rw [State.setCtx_tcore, if_pos h]

theorem onlyS_wS (c : Ctx) (d : SReg) (x : Word) : OnlyS c (c.wS d x) d x where
  s r := c.rS_wS d r x
  v := c.wS_v d x
  p := c.wS_p d x
  pc := c.wS_pc d x
  vrm := c.wS_vrm d x
  vflags := c.wS_vflags d x
  pend := c.wS_pend d x

theorem wroteS_wS (d : SReg) (x : Word) : WroteS s (s.wS d x) d x :=
  ⟨_, became_setCtx _, onlyS_wS _ _ _⟩

/-! ## Values of the short forms (R101) -/

theorem shAmt_eq (x : Word) : shAmt x = x.toNat % 64 := by simp [shAmt, bits, bitsN]

theorem shAmt_lt (x : Word) : shAmt x < 64 := Nat.mod_lt _ (by decide)

theorem ofNat_mul_two_pow (x : Word) (n : Nat) : BitVec.ofNat 64 (x.toNat * 2 ^ n) = x <<< n := by
  simp [← BitVec.toNat_inj, Nat.shiftLeft_eq]

theorem ofNat_div_two_pow (x : Word) (n : Nat) : BitVec.ofNat 64 (x.toNat / 2 ^ n) = x >>> n := by
  rw [← BitVec.toNat_inj, BitVec.toNat_ushiftRight, Nat.shiftRight_eq_div_pow, BitVec.toNat_ofNat]
  exact Nat.mod_eq_of_lt (Nat.lt_of_le_of_lt (Nat.div_le_self _ _) x.isLt)

theorem ofInt_div_two_pow (x : Word) (n : Nat) : BitVec.ofInt 64 (x.toInt / 2 ^ n) = x.sshiftRight n := by
  simp [BitVec.sshiftRight, Int.shiftRight_eq_div_pow]

/-- The two parts of a rotation have no bit in common. -/
theorem shiftLeft_add_ushiftRight (x : Word) {m n : Nat} (h : m + n = 64) : x <<< m + x >>> n = x <<< m ||| x >>> n := by
  refine BitVec.add_eq_or_of_and_eq_zero _ _ (BitVec.eq_of_getLsbD_eq fun i hi => ?_)
  by_cases him : i < m
  · simp [him]
  · simp [BitVec.getLsbD_of_ge x (n + i) (by omega)]

theorem rotateLeft_value (x : Word) {n : Nat} (h : n < 64) :
    BitVec.ofNat 64 (x.toNat * 2 ^ n + x.toNat / 2 ^ (64 - n)) = x.rotateLeft n := by
  rw [BitVec.ofNat_add, ofNat_mul_two_pow, ofNat_div_two_pow, shiftLeft_add_ushiftRight x (by omega),
    BitVec.rotateLeft, Nat.mod_eq_of_lt h, BitVec.rotateLeftAux]

theorem rotateRight_value (x : Word) {n : Nat} (h : n < 64) :
    BitVec.ofNat 64 (x.toNat / 2 ^ n + x.toNat * 2 ^ (64 - n)) = x.rotateRight n := by
  rw [Nat.add_comm, BitVec.ofNat_add, ofNat_mul_two_pow, ofNat_div_two_pow, shiftLeft_add_ushiftRight x (by omega),
    BitVec.rotateRight, Nat.mod_eq_of_lt h, BitVec.rotateRightAux, BitVec.or_comm]

/-- The high half of a product depends on the factors as integers alone. -/
theorem mulHigh_ofInt (a b : Int) : mulHigh (BitVec.ofInt 128 a) (BitVec.ofInt 128 b) = BitVec.ofInt 64 (a * b / 2 ^ 64) := by
  rw [mulHigh, ← BitVec.ofInt_mul, ← BitVec.toNat_inj, BitVec.extractLsb'_toNat, Nat.shiftRight_eq_div_pow,
    BitVec.toNat_ofInt, BitVec.toNat_ofInt]
  generalize a * b = p
  omega

theorem setWidth_eq_ofInt (x : Word) : x.setWidth 128 = BitVec.ofInt 128 (x.toNat : Int) := by
  rw [BitVec.ofInt_natCast, BitVec.ofNat_toNat]

theorem mulhu_value (x y : Word) : BitVec.ofNat 64 (x.toNat * y.toNat / 2 ^ 64) = mulHigh (x.setWidth 128) (y.setWidth 128) := by
  rw [setWidth_eq_ofInt, setWidth_eq_ofInt, mulHigh_ofInt, ← BitVec.ofInt_natCast]
  simp

theorem sub_value (x y : Word) : BitVec.ofInt 64 (x.toInt - y.toInt) = x - y := by
  rw [Int.sub_eq_add_neg, BitVec.ofInt_add, BitVec.ofInt_neg, BitVec.ofInt_toInt, BitVec.ofInt_toInt, BitVec.sub_eq_add_neg]

theorem truth_eq_flagW {p : Prop} [Decidable p] {b : Bool} (h : b = true ↔ p) : truth p = flagW b := by
  simp only [truth, flagW, h]

theorem leadZeros_eq (x : Word) : ∀ n, leadZeros x n = ((List.range n).takeWhile fun k => !x.getLsbD (n - 1 - k)).length
  | 0 => rfl
  | n + 1 => by
    have hk : ∀ k, n - 1 - k = n - (k + 1) := by omega
    have ih := leadZeros_eq x n
    simp only [hk] at ih
    rw [List.range_succ_eq_map, List.takeWhile_cons, leadZeros, bit]
    cases h : x.getLsbD n <;> simp [h, ih, List.takeWhile_map, Function.comp_def]

theorem trailZeros_eq : ∀ (n : Nat) (x : Word), trailZeros x n = ((List.range n).takeWhile fun k => !x.getLsbD k).length
  | 0, _ => rfl
  | n + 1, x => by
    have ih := trailZeros_eq n (x >>> 1)
    have hk : ∀ k, (x >>> 1).getLsbD k = x.getLsbD (k + 1) := fun k => by rw [BitVec.getLsbD_ushiftRight, Nat.add_comm]
    rw [List.range_succ_eq_map, List.takeWhile_cons, trailZeros, bit]
    cases x.getLsbD 0 <;> simp [ih, List.takeWhile_map, Function.comp_def, hk]

theorem onesIn_eq (x : Word) : ∀ n, onesIn x n = ((List.range n).filter fun k => x.getLsbD k).length
  | 0 => rfl
  | n + 1 => by
    have ih := onesIn_eq x n
    rw [List.range_succ, List.filter_append, List.length_append, onesIn, ih, bit]
    cases h : x.getLsbD n <;> simp [h, Nat.add_comm]

/-- A little-endian number is its first byte below the others. -/
theorem ofNat_leNat_cons {w : Nat} (b : Byte) (n : Nat) : BitVec.ofNat (w + 8) (b.toNat + 256 * n) = BitVec.ofNat w n ++ b := by
  rw [← BitVec.toNat_inj, BitVec.toNat_append, BitVec.toNat_ofNat, BitVec.toNat_ofNat,
    ← Nat.shiftLeft_add_eq_or_of_lt b.isLt, Nat.shiftLeft_eq, Nat.add_comm, Nat.pow_add, Nat.mul_comm (2 ^ w), Nat.add_comm,
    show (256 : Nat) = 2 ^ 8 from rfl, Nat.mod_mul]
  have hb : (b.toNat + 2 ^ 8 * n) % 2 ^ 8 = b.toNat := by have := b.isLt; omega
  have hn : (b.toNat + 2 ^ 8 * n) / 2 ^ 8 = n := by have := b.isLt; omega
  rw [hb, hn]
  ring

theorem byteSwap_eq (x : Word) : byteSwap x =
    x.extractLsb' 0 8 ++ x.extractLsb' 8 8 ++ x.extractLsb' 16 8 ++ x.extractLsb' 24 8 ++ x.extractLsb' 32 8 ++
      x.extractLsb' 40 8 ++ x.extractLsb' 48 8 ++ x.extractLsb' 56 8 := by
  have hbyte : ∀ n, x.extractLsb' n 8 = BitVec.ofNat 8 (x.toNat / 2 ^ n) := fun n => by
    rw [BitVec.extractLsb', Nat.shiftRight_eq_div_pow]
  simp only [byteSwap, leBytes, List.reverse_cons, List.reverse_nil, List.nil_append, List.cons_append, leNat, wd,
    ofNat_leNat_cons, hbyte, Nat.div_div_eq_div_mul]
  norm_num

/-- Where two words read the same, either is the larger. -/
theorem larger_value {α : Type} [LinearOrder α] {f : Word → α} (hf : Function.Injective f) (x y : Word) :
    (if f x ≤ f y then y else x) = if f x < f y then y else x := by
  by_cases hlt : f x < f y
  · rw [if_pos hlt.le, if_pos hlt]
  · rw [if_neg hlt, ite_eq_right_iff]
    exact fun hle => (hf (hle.antisymm (not_lt.mp hlt))).symm

/-- A short form of opcode 0x01 writes its value of R101 and answers (R101). -/
theorem exec_of_shortResult {i : Instr} {d : SReg} {x : Word} (h : shortResult i s = some (d, x)) :
    exec i s = .next (s.wS d x) := by
  unfold shortResult at h
  split at h
  case h_35 => cases h
  all_goals
    obtain ⟨rfl, rfl⟩ := Prod.mk.inj (Option.some.inj h)
    refine congrArg (fun y => Host.Outcome.next (s.wS _ y)) (Eq.symm ?_)
    beta_reduce
  -- add, sub
  case h_1 => rw [BitVec.ofNat_add, BitVec.ofNat_toNat, BitVec.ofNat_toNat, BitVec.setWidth_eq, BitVec.setWidth_eq]
  case h_2 => exact sub_value _ _
  -- sll, srl, sra, rol, ror
  case h_7 => rw [← shAmt_eq, ofNat_mul_two_pow]
  case h_8 => rw [← shAmt_eq, ofNat_div_two_pow]
  case h_9 => rw [← shAmt_eq, ofInt_div_two_pow]
  case h_10 => rw [← shAmt_eq, rotateLeft_value _ (shAmt_lt _)]
  case h_11 => rw [← shAmt_eq, rotateRight_value _ (shAmt_lt _)]
  -- mul, mulh, mulhu, mulhsu
  case h_12 => rw [BitVec.ofNat_mul, BitVec.ofNat_toNat, BitVec.ofNat_toNat, BitVec.setWidth_eq, BitVec.setWidth_eq]
  case h_13 => exact (mulHigh_ofInt _ _).symm
  case h_14 => exact mulhu_value _ _
  case h_15 => rw [setWidth_eq_ofInt]; exact (mulHigh_ofInt _ _).symm
  -- min, max, minu, maxu
  case h_16 => simp only [BitVec.slt_iff_toInt_lt, ← not_lt, ite_not]
  case h_17 => rw [larger_value fun _ _ => BitVec.eq_of_toInt_eq]; simp only [BitVec.slt_iff_toInt_lt]
  case h_18 => simp only [BitVec.ult_iff_toNat_lt, ← not_lt, ite_not]
  case h_19 => rw [larger_value fun _ _ => BitVec.eq_of_toNat_eq]; simp only [BitVec.ult_iff_toNat_lt]
  -- slt, sltu, seq, sel
  case h_20 => exact truth_eq_flagW BitVec.slt_iff_toInt_lt
  case h_21 => exact truth_eq_flagW BitVec.ult_iff_toNat_lt
  case h_22 => exact truth_eq_flagW beq_iff_eq
  case h_23 => rw [ite_not]
  -- clz, ctz, popc, bswap
  case h_24 => rw [countLead, leadZeros_eq]; rfl
  case h_25 => rw [countTrail, trailZeros_eq]; rfl
  case h_26 => rw [countOnes, onesIn_eq]; rfl
  case h_28 => exact (byteSwap_eq _).symm
  -- zext.b, zext.h, zext.w
  case h_32 | h_33 | h_34 => rw [zextW, ← BitVec.toNat_inj]; simp
  -- and, or, xor, andn, brev, sext.b, sext.h, sext.w
  all_goals rfl

/-- Settles O2: each short form's value is the one of R101, and writing it is all that the form does. -/
theorem shortIntegerForms : Obligations.ShortIntegerForms :=
  fun _ _ _ _ h => ⟨_, exec_of_shortResult h, wroteS_wS _ _⟩

/-! ## Hard-wired registers (R15, R17) -/

theorem wS_zero (c : Ctx) (x : Word) : c.wS 0 x = c := if_pos rfl

theorem commit_zero {p : Pending} (hd : p.dest = .sreg 0) (c : Ctx) : c.commit p = c := by
  unfold Ctx.commit
  cases p.fault with
  | some _ => rfl
  | none => rw [hd]; exact wS_zero c _

section
variable {c : Ctx} {p : Pending} {rest : List Pending}

/-- With one window ended, its result is the one that commits (R279). -/
theorem expired_of_head (hpend : c.pend = p :: rest) (hleft : p.left = 0) (hrest : ∀ q ∈ rest, q.left ≠ 0) :
    c.expired = [p] := by
  have hopen : rest.filter (fun q => q.left == 0) = [] := by simpa using hrest
  rw [Ctx.expired, hpend, List.filter_cons_of_pos (by simpa using hleft), hopen]

theorem commitExpired_of_head (hpend : c.pend = p :: rest) (hleft : p.left = 0) (hrest : ∀ q ∈ rest, q.left ≠ 0) :
    c.commitExpired = { c.commit p with pend := rest } := by
  have hkept : rest.filter (fun q => q.left != 0) = rest := by simpa using hrest
  rw [Ctx.commitExpired, expired_of_head hpend hleft hrest, hpend, List.filter_cons_of_neg (by simpa using hleft), hkept]
  rfl

end

/-- The result of the one window that has ended commits (R279). -/
theorem exec_resultCommit_thread {u : Nat} {p : Pending} {rest : List Pending} (hrun : (s.thread u).run = .run)
    (hpend : (s.thread u).ctx.pend = p :: rest) (hleft : p.left = 0) (hready : p.ready = true) (hfault : p.fault = none)
    (hrest : ∀ q ∈ rest, q.left ≠ 0) :
    exec (.resultCommit (.thread u)) s =
      .next (s.modThread u fun t => { t with ctx := { t.ctx.commit p with pend := rest } }) := by
  change execResultCommit (.thread u) s = _
  simp only [execResultCommit, expired_of_head hpend hleft hrest, firstFault, List.all_cons, List.all_nil,
    List.findSome?_cons, List.findSome?_nil, hready, hfault, hrun, Bool.and_true, and_self, if_true]
  rw [State.modThread, State.modThread, commitExpired_of_head hpend hleft hrest]

/-- The same on a compute core (R279). -/
theorem exec_resultCommit_core {k : Nat} {p : Pending} {rest : List Pending} (hrun : (s.tcore k).run = .run)
    (hpend : (s.tcore k).ctx.pend = p :: rest) (hleft : p.left = 0) (hready : p.ready = true)
    (hrest : ∀ q ∈ rest, q.left ≠ 0) :
    exec (.resultCommit (.core k)) s =
      .next (s.modTcore k fun t => { t with ctx := { t.ctx.commit p with pend := rest } }) := by
  change execResultCommit (.core k) s = _
  simp only [execResultCommit, expired_of_head hpend hleft hrest, List.all_cons, List.all_nil, hready, hrun, Bool.and_true,
    and_self, if_true]
  rw [State.modTcore, State.modTcore, commitExpired_of_head hpend hleft hrest]

/-- Settles O1: a write of s0 or p0 falls away wherever it is made, by the register files' own laws. -/
theorem hardWiredRegisters : Obligations.HardWiredRegisters := by
  refine ⟨fun s => ⟨rfl, rfl⟩, fun i s x h => ⟨_, exec_of_shortResult h, fun r => ?_⟩, ?_, fun c r x hr => ?_, fun c r x => ⟨?_, fun hr => ?_⟩⟩
  · rw [State.wS, State.setCtx_ctx, wS_zero]
  · intro s u p hrun hpend hleft hready hfault hdest
    refine ⟨_, exec_resultCommit_thread hrun hpend hleft hready hfault (by simp), fun r => ?_⟩
    rw [State.modThread_same, commit_zero hdest]
    rfl
  · rw [Ctx.rS_wS, if_pos ⟨rfl, hr⟩]
  · rw [Ctx.rP_wP, if_neg fun h => h.2 rfl]
  · rw [Ctx.rP_wP, if_pos ⟨rfl, hr⟩]

end Sys2Proof.Claims
end

section
/-!
PROOFS. Taking a trap (R35 to R38, R216): where it leads when its handler can be fetched and when it cannot, with the results
that commit before it; and what the guards of mode and privilege make of a form that may not run (R20, R21, R192, R222).
-/
namespace Sys2Proof.Claims
open Sys2Proof.Machine

variable {s t u : State} {g : Nat}

/-! ## Updates of the unit in hand -/

theorem SameRest.trans (h : SameRest s t) (h' : SameRest t u) : SameRest s u where
  mem := h'.mem.trans h.mem
  tiles := h'.tiles.trans h.tiles
  cores := h'.cores.trans h.cores
  blks := h'.blks.trans h.blks
  fields := h'.fields.trans h.fields
  mesh := h'.mesh.trans h.mesh
  dev := h'.dev.trans h.dev
  ns := h'.ns.trans h.ns
  cur := h'.cur.trans h.cur
  agenda := h'.agenda.trans h.agenda
  tick := h'.tick.trans h.tick
  fresh := h'.fresh.trans h.fresh
  threads k hk := (h'.threads k (h.cur ▸ hk)).trans (h.threads k hk)
  tcores k hk := (h'.tcores k (h.cur ▸ hk)).trans (h.tcores k hk)

/-- The record of the bundle in hand is no part of the rest. -/
theorem sameRest_iss (s : State) (i : Issue) : SameRest s { s with iss := i } :=
  ⟨rfl, rfl, rfl, rfl, rfl, rfl, rfl, rfl, rfl, rfl, rfl, rfl, fun _ _ => rfl, fun _ _ => rfl⟩

theorem sameRest_modThread (hc : s.cur = .thread g) (f : Thread → Thread) : SameRest s (s.modThread g f) :=
  ⟨rfl, rfl, rfl, rfl, rfl, rfl, rfl, rfl, rfl, rfl, rfl, rfl,
    fun k hk => s.modThread_other g k f fun hkg => hk (hkg ▸ hc), fun _ _ => rfl⟩

theorem sameRest_modTcore {k : Nat} (hc : s.cur = .core k) (f : TCore → TCore) : SameRest s (s.modTcore k f) :=
  ⟨rfl, rfl, rfl, rfl, rfl, rfl, rfl, rfl, rfl, rfl, rfl, rfl, fun _ _ => rfl,
    fun j hj => s.modTcore_other k j f fun hjk => hj (hjk ▸ hc)⟩

/-! ## The entry of a trap (R35) -/

theorem peek_congr (hmem : t.mem = s.mem) : t.peek = s.peek := by
  funext a n
  rw [State.peek, State.peek, hmem]

theorem walkFrom_congr (hmem : t.mem = s.mem) (va : Nat) : ∀ ls : List Nat, walkFrom t va ls = walkFrom s va ls
  | [] => rfl
  | l :: ls => by
    funext a
    rw [walkFrom, walkFrom, peek_congr hmem, walkFrom_congr hmem va ls]

theorem walk_congr (hmem : t.mem = s.mem) (hdev : t.dev = s.dev) : t.walk = s.walk := by
  funext va
  rw [State.walk, State.walk, walkFrom_congr hmem, hdev]

theorem useLeaf_congr (hblks : t.blks = s.blks) (hdev : t.dev = s.dev) : t.useLeaf = s.useLeaf := by
  have haperture : t.apertureOk = s.apertureOk := by
    funext pa level
    simp only [State.apertureOk, State.tileExists, State.blk, hblks]
  have hport : t.hostPort = s.hostPort := by
    funext p
    rw [State.hostPort, State.hostPort, hdev]
  unfold State.useLeaf
  rw [haperture, hport, hdev]

/-- What a fetch meets is a matter of memory, caches and the device's registers. -/
theorem SameRest.fetchBad (h : SameRest s t) (g : Nat) (pc : Word) (sv : Bool) : t.fetchBad g pc sv = s.fetchBad g pc sv := by
  simp only [State.fetchBad, State.threadTiers, State.core, State.blk, State.xlNow, walk_congr h.mem h.dev,
    useLeaf_congr h.blks h.dev, h.cores, h.blks]

theorem sameRest_reported (hc : s.cur = .thread g) (cm : Bool) : SameRest s (s.reported g cm) := by
  unfold State.reported
  split
  · exact sameRest_modThread hc _
  · exact sameRest_iss s s.iss

section
variable {cause : BitVec 8} {ev : Word} {slotB cm : Bool}

/-- The thread that a trap has been entered on, before its handler is fetched (R35, R134). -/
def trapEntered (s : State) (g : Nat) (cause : BitVec 8) (ev : Word) (slotB cm : Bool) : State :=
  (s.modThread g fun t => t.trapped cause ev slotB cm).reported g cm

theorem trapEntered_thread : (trapEntered s g cause ev slotB cm).thread g =
    { (s.thread g).trapped cause ev slotB cm with lkl := if s.iss.report && !cm then none else (s.thread g).lkl } := by
  rw [trapEntered, State.reported_thread, State.modThread_same]
  rfl

theorem sameRest_trapEntered (hc : s.cur = .thread g) : SameRest s (trapEntered s g cause ev slotB cm) :=
  (sameRest_modThread hc _).trans (sameRest_reported (s := s.modThread g fun t => t.trapped cause ev slotB cm) hc cm)

/-- The handler of a trap is looked for where it stood before. -/
theorem trapEntered_fetchBad (hc : s.cur = .thread g) :
    (trapEntered s g cause ev slotB cm).fetchBad g ((trapEntered s g cause ev slotB cm).thread g).ehand true =
      s.fetchBad g (s.thread g).ehand true := by
  rw [(sameRest_trapEntered hc).fetchBad, trapEntered_thread]
  rfl

/-- A handler that can be fetched is entered. -/
theorem trapEntry_of_fetch (hc : s.cur = .thread g) (hf : s.fetchBad g (s.thread g).ehand true = none) :
    s.trapEntry g cause ev slotB cm = (trapEntered s g cause ev slotB cm).taken := by
  rw [State.trapEntry, State.handlerFetch, ← trapEntered, trapEntered_fetchBad hc, hf]

/-- A handler that cannot be fetched halts its thread (R38). -/
theorem trapEntry_of_fetchBad {c : BitVec 8} (hc : s.cur = .thread g)
    (hf : s.fetchBad g (s.thread g).ehand true = some c) :
    s.trapEntry g cause ev slotB cm = ((trapEntered s g cause ev slotB cm).handlerHalt g).taken := by
  rw [State.trapEntry, State.handlerFetch, ← trapEntered, trapEntered_fetchBad hc, hf]

@[simp] theorem handlerHalt_thread (s : State) (g : Nat) : (s.handlerHalt g).thread g = (s.thread g).handlerHalted := by
  simp [State.handlerHalt, Thread.handlerHalted]

/-- The record of a handler that cannot be fetched goes to the thread's field (R317). -/
theorem handlerHalt_recs (s : State) (g : Nat) : ((s.handlerHalt g).field (g / 1024)).recs = (s.field (g / 1024)).recs ++
    [{ s.threadRec g cHANDLER_FAULT with halt := true, pos := (s.thread g).ehand, aux := (s.thread g).ecause }] :=
  congrArg Field.recs (State.modField_same _ (g / 1024) _)

/-! ## Meeting a trap (R280, R304) -/

/-- The thread's windows closed, before a trap. -/
def windowsClosed (s : State) (g : Nat) : State := s.modThread g fun t => { t with ctx := t.ctx.close }

theorem windowsClosed_thread : (windowsClosed s g).thread g = { s.thread g with ctx := (s.thread g).ctx.close } := s.modThread_same g _

theorem close_of_nil {c : Ctx} (h : c.pend = []) : c.close = c := by
  cases c
  cases h
  rfl

theorem windowsClosed_fetchBad (hc : s.cur = .thread g) :
    (windowsClosed s g).fetchBad g ((windowsClosed s g).thread g).ehand true = s.fetchBad g (s.thread g).ehand true := by
  rw [windowsClosed_thread]
  exact (sameRest_modThread hc _).fetchBad _ _ _

/-- A thread whose results carry no fault takes its bundle's own cause. -/
theorem trapThread_of_sound (hspec : (s.thread g).spec = false) (hready : (s.thread g).ctx.pend.all Pending.ready = true)
    (hsound : firstFault (s.thread g).ctx.pend = none) :
    s.trapThread g cause ev slotB = (windowsClosed s g).trapEntry g cause ev slotB false := by
  obtain ⟨h, -⟩ | ⟨-, h, -⟩ | ⟨c, e, b, m, -, -, ⟨h, -⟩ | ⟨-, rfl, rfl, rfl, rfl⟩, ht⟩ := s.trapThread_cases g cause ev slotB
  · simp [hspec] at h
  · simp [hready] at h
  · simp [hsound] at h
  · exact ht

/-- The first fault that a result carries comes before the bundle's own cause, with cm = 1. -/
theorem trapThread_of_fault {c : BitVec 8} {e : Word} (hspec : (s.thread g).spec = false)
    (hready : (s.thread g).ctx.pend.all Pending.ready = true) (hfault : firstFault (s.thread g).ctx.pend = some (c, e)) :
    s.trapThread g cause ev slotB = (windowsClosed s g).trapEntry g c e false true := by
  obtain ⟨h, -⟩ | ⟨-, h, -⟩ | ⟨c', e', b, m, -, -, ⟨h, rfl, rfl⟩ | ⟨h, -⟩, ht⟩ := s.trapThread_cases g cause ev slotB
  · simp [hspec] at h
  · simp [hready] at h
  · obtain ⟨rfl, rfl⟩ := Prod.mk.inj (Option.some.inj (hfault.symm.trans h))
    exact ht
  · simp [hfault] at h

theorem causeWord_of_bundle (cause : BitVec 8) (slotB : Bool) :
    causeWord cause slotB false = BitVec.ofNat 64 (cause.toNat + if slotB then 256 else 0) := by
  cases slotB <;> rfl

/-- A thread that can trap at once is in its handler. -/
theorem tookTrap_trapThread (h : CanTrap s g) : TookTrap s (s.trapThread g cause ev slotB) g cause ev slotB := by
  obtain ⟨hc, hspec, hpend, hf⟩ := h
  have hs1 : (windowsClosed s g).thread g = s.thread g := by rw [windowsClosed_thread, close_of_nil hpend]
  have hf1 : (windowsClosed s g).fetchBad g ((windowsClosed s g).thread g).ehand true = none := by rw [windowsClosed_fetchBad hc, hf]
  have ht : (s.trapThread g cause ev slotB) = (trapEntered (windowsClosed s g) g cause ev slotB false).taken := by
    rw [trapThread_of_sound hspec (by rw [hpend]; rfl) (by rw [hpend]; rfl), trapEntry_of_fetch (s := windowsClosed s g) hc hf1]
  have hth : (s.trapThread g cause ev slotB).thread g = { (s.thread g).trapped cause ev slotB false with
      lkl := if s.iss.report && !false then none else (s.thread g).lkl } := by
    rw [ht, State.taken_thread, trapEntered_thread, hs1]
    rfl
  constructor
  case rest => rw [ht]; exact ((sameRest_modThread hc _).trans (sameRest_trapEntered hc)).trans (sameRest_iss _ _)
  case fate => rw [ht]; rfl
  case ecause => rw [hth]; exact causeWord_of_bundle cause slotB
  case resv => rw [hth]; simp [Thread.trapped, loseAll]
  all_goals rw [hth]; rfl

theorem raise_tookTrap (h : CanTrap s g) (cause : BitVec 8) (ev : Word) (slotB : Bool) :
    ∃ t, s.raise cause ev slotB = .next t ∧ TookTrap s t g cause ev slotB :=
  ⟨_, s.raise_thread h.1 cause ev slotB, tookTrap_trapThread h⟩

theorem und_tookTrap (h : CanTrap s g) : ∃ t, s.und = .next t ∧ TookTrap s t g cUND s.iss.word false :=
  raise_tookTrap h _ _ _

theorem priv_tookTrap (h : CanTrap s g) : ∃ t, s.priv = .next t ∧ TookTrap s t g cPRIV s.iss.word false :=
  raise_tookTrap h _ _ _

end

/-! ## The results that commit before a trap (R279, R280) -/

section
variable {c : Ctx}

@[simp] theorem commit_pc (p : Pending) : (c.commit p).pc = c.pc := by
  unfold Ctx.commit
  split
  · rfl
  · split
    · exact Ctx.wS_pc _ _ _
    · rfl

@[simp] theorem commitAll_pc : ∀ (l : List Pending) (c : Ctx), (c.commitAll l).pc = c.pc
  | [], _ => rfl
  | p :: l, c => (commitAll_pc l (c.commit p)).trans (commit_pc p)

@[simp] theorem close_pc : c.close.pc = c.pc := commitAll_pc _ _

/-- A result for another register leaves a scalar register. -/
theorem commit_rS_of_ne {p : Pending} {d : SReg} (h : p.dest ≠ .sreg d) : (c.commit p).rS d = c.rS d := by
  unfold Ctx.commit
  split
  · rfl
  · split
    · rename_i r hr
      rw [Ctx.rS_wS, if_neg fun hd : d = r ∧ _ => h (hd.1 ▸ hr)]
    · rfl

theorem commitAll_rS_of_ne {d : SReg} : ∀ (l : List Pending) (c : Ctx), (∀ q ∈ l, q.dest ≠ .sreg d) →
    (c.commitAll l).rS d = c.rS d
  | [], _, _ => rfl
  | p :: l, c, h => (commitAll_rS_of_ne l (c.commit p) fun q hq => h q (List.mem_cons_of_mem p hq)).trans
      (commit_rS_of_ne (h p List.mem_cons_self))

/-- The last result for a scalar register is the one that stays. -/
theorem commitAll_rS_of_last {l r : List Pending} {p : Pending} {d : SReg} (hfault : p.fault = none) (hdest : p.dest = .sreg d)
    (hd : d ≠ 0) (hr : ∀ q ∈ r, q.dest ≠ .sreg d) : (c.commitAll (l ++ p :: r)).rS d = p.val.setWidth 64 := by
  rw [Ctx.commitAll, List.foldl_append, List.foldl_cons, ← Ctx.commitAll, ← Ctx.commitAll, commitAll_rS_of_ne r _ hr, Ctx.commit,
    hfault, hdest]
  exact (Ctx.rS_wS _ _ _ _).trans (if_pos ⟨rfl, hd⟩)

end

/-- Settles O16: the three ways of trapThread, each with its entry. -/
theorem trapEntry : Obligations.TrapEntry := by
  refine ⟨fun s g slotB n h => ⟨raise_tookTrap h _ _ _, ?_⟩, ?_, ?_⟩
  · obtain ⟨hc, hspec, -⟩ := id h
    have hpriv : exec (.trap n) s = s.priv := (s.swarm_of_thread hc _).trans (s.plainly_of_plain hc hspec _)
    rw [hpriv]
    exact priv_tookTrap h
  · intro s g c v hc hspec hready hfault hf
    have ht : s.trapThread g cUND s.iss.word false = (trapEntered (windowsClosed s g) g c v false true).taken := by
      rw [trapThread_of_fault hspec (List.all_eq_true.mpr hready) hfault, trapEntry_of_fetch (s := windowsClosed s g) hc (by rw [windowsClosed_fetchBad hc, hf])]
    refine ⟨_, (s.raise_thread hc _ _ _).trans (congrArg _ ht), ?_⟩
    rw [State.taken_thread, trapEntered_thread, windowsClosed_thread]
    refine ⟨rfl, rfl, close_pc, rfl, rfl, fun l p r d hl hp hd hd0 hr => ?_⟩
    change (Ctx.commitAll _ _).rS d = _
    rw [hl]
    exact commitAll_rS_of_last hp hd hd0 hr
  · intro s g c hc hspec hpend hf
    have ht : s.trapThread g cUND s.iss.word false = ((trapEntered (windowsClosed s g) g cUND s.iss.word false false).handlerHalt g).taken := by
      rw [trapThread_of_sound hspec (by rw [hpend]; rfl) (by rw [hpend]; rfl),
        trapEntry_of_fetchBad (s := windowsClosed s g) (c := c) hc (by rw [windowsClosed_fetchBad hc, hf])]
    have hfield : (trapEntered (windowsClosed s g) g cUND s.iss.word false false).field (g / 1024) = s.field (g / 1024) :=
      congrArg (fun l : Tab Field => Tab.get {} l (g / 1024)) (sameRest_trapEntered (s := windowsClosed s g) hc).fields
    have hrecs := handlerHalt_recs (trapEntered (windowsClosed s g) g cUND s.iss.word false false) g
    rw [hfield, trapEntered_thread, windowsClosed_thread] at hrecs
    refine ⟨_, _, (s.raise_thread hc _ _ _).trans (congrArg _ ht), ?_, hrecs, rfl, rfl, rfl, rfl⟩
    rw [State.taken_thread, handlerHalt_thread]
    rfl

end Sys2Proof.Claims
end

section
/-!
PROOFS. Privilege, mode and control registers (R20 to R42, R217, R218, R222): which forms trap before they do anything, what
the returns restore, and the fields of every control register.
-/
namespace Sys2Proof.Claims
open Sys2Proof.Machine

variable {s : State} {g k : Nat} {i : Instr}

/-! ## Forms of the other mode (R20, R78) -/

theorem exec_swarm_on_core (hm : Instr.mode i = .swarm) (hc : s.cur = .core k) : exec i s = s.und := by
  cases i <;> cases hm
  all_goals exact s.swarm_of_core hc _

theorem exec_tile_on_thread (hm : Instr.mode i = .tile) (hc : s.cur = .thread g) : exec i s = s.und := by
  cases i <;> cases hm
  all_goals exact s.tileMode_of_thread hc _

theorem haltFault_tcore (cause : BitVec 8) (route : Nat) :
    (s.haltFault k cause route).tcore k = { s.tcore k with run := .faulted cause, waited := none } :=
  s.modTcore_same k fun c => { c with run := .faulted cause, waited := none }

theorem noticeFrom_notices (s : State) (router f : Nat) (r : FRec) :
    ((s.noticeFrom router f r).field f).notices = (s.field f).notices ++ [{ flit := noticeFlit r, what := r }] :=
  congrArg Field.notices (s.modField_same f fun x => { x with notices := x.notices ++ [{ flit := noticeFlit r, what := r }] })

/-- A region's record goes to the field of the region's origin (R309). -/
theorem tileNotice_notices (s : State) (t cls sub : Nat) (cause : BitVec 8) (halt : Bool) (route : Nat) (va pos : Word)
    (ticket : BitVec 32) (aux : Word) :
    ∃ r, ((s.tileNotice t cls sub cause halt route va pos ticket aux).field
          (s.originField ((s.tileCtx t).map TileCtx.gid) (t / 256))).notices =
        (s.field (s.originField ((s.tileCtx t).map TileCtx.gid) (t / 256))).notices ++ [r] ∧
      r.what.cause = cause ∧ r.what.halt = halt ∧ r.what.pos = pos := by
  rw [State.tileNotice, State.addNotice]
  exact ⟨_, noticeFrom_notices s _ _ _, rfl, rfl, rfl⟩

theorem tileCtx_modTcore (f : TCore → TCore) (t : Nat) : (s.modTcore k f).tileCtx t = s.tileCtx t := by
  simp only [State.tileCtx, State.modTcore_tile]

theorem originField_modTcore (f : TCore → TCore) (gid : Option Nat) (dflt : Nat) :
    (s.modTcore k f).originField gid dflt = s.originField gid dflt := by
  simp only [State.originField, State.graph, State.modTcore_dev]

/-- The record of a core's fault (R192). -/
theorem haltFault_notices (cause : BitVec 8) (route : Nat) :
    ∃ r, ((s.haltFault k cause route).field (s.originField ((s.tileCtx (k / 4)).map TileCtx.gid) (k / 4 / 256))).notices =
        (s.field (s.originField ((s.tileCtx (k / 4)).map TileCtx.gid) (k / 4 / 256))).notices ++ [r] ∧
      r.what.cause = cause ∧ r.what.halt = true ∧ r.what.pos = (s.tcore k).ctx.pc := by
  have h := tileNotice_notices (s.modTcore k fun c => { c with run := .faulted cause, waited := none }) (k / 4) 0 (k % 4) cause true
    route 0 (s.tcore k).ctx.pc 0 0
  rw [tileCtx_modTcore, originField_modTcore] at h
  exact h

/-! ## Privileged forms (R21, R222, R304) -/

section
variable {d a : SReg} {imm : Imm} {n : BitVec 12} {want : PState} {tile : Bool} {act : State → SlotName → Nat → State}

theorem preempt_of_bad_name (hc : s.cur = .thread g)
    (hbad : (!slotNameOk (s.rS a) || (slotName (s.rS a)).op == 3 || (!tile && !(slotName (s.rS a)).core)) = true) :
    s.preempt d a want tile act = s.und :=
  (s.swarm_of_thread hc _).trans (if_pos hbad)

theorem preempt_of_user (hc : s.cur = .thread g) (hv : (s.thread g).sv = false)
    (hok : (!slotNameOk (s.rS a) || (slotName (s.rS a)).op == 3 || (!tile && !(slotName (s.rS a)).core)) = false) :
    s.preempt d a want tile act = s.priv := by
  refine (s.swarm_of_thread hc _).trans ((if_neg (by simp [hok])).trans ?_)
  rw [State.onlySv, if_neg (by simp [hv])]

theorem inTile_of_thread (hc : s.cur = .thread g) : s.inTile = false := by rw [State.inTile, hc]
theorem inTile_of_core (hc : s.cur = .core k) : s.inTile = true := by rw [State.inTile, hc]
theorem isSv_of_thread (hc : s.cur = .thread g) : s.isSv = (s.thread g).sv := by rw [State.isSv, hc]

/-! ### Control registers beyond user privilege (R24) -/

theorem csrr_supervisor : ∀ n ∈ [0x100, 0x101, 0x102, 0x103, 0x104, 0x105], csrExists false n = true ∧ csrPriv n false = true := by
  decide

theorem csrw_supervisor : ∀ n ∈ [0x011, 0x100, 0x101, 0x102, 0x103, 0x104, 0x105],
    csrExists false n = true ∧ csrWritable.contains n = true ∧ csrPriv n true = true := by
  decide

/-- A privileged form whose slot name is in order traps PRIV at user privilege. -/
theorem exec_privileged_of_user (hp : Privileged i) (hc : s.cur = .thread g) (hv : (s.thread g).sv = false) (hn : NameFits s i) :
    exec i s = s.priv := by
  unfold Privileged at hp
  split at hp
  · exact s.super_of_user hc hv _
  · exact s.super_of_user hc hv _
  · exact (s.swarm_of_thread hc _).trans ((if_neg (by simpa [NameFits] using hn)).trans (if_neg (by simp [hv])))
  · exact (s.swarm_of_thread hc _).trans ((if_neg (by simpa [NameFits] using hn)).trans (if_neg (by simp [hv])))
  · change execPreemptHalt _ _ s = _
    exact preempt_of_user hc hv (by simpa [NameFits, slotName, bits, bitsN] using hn)
  · change execPreemptTrap _ _ s = _
    exact preempt_of_user hc hv (by simpa [NameFits, slotName, bits, bitsN, bit, and_assoc] using hn)
  · change execPreemptResume _ _ s = _
    exact preempt_of_user hc hv (by simpa [NameFits, slotName, bits, bitsN] using hn)
  · exact s.super_of_user hc hv _
  · obtain ⟨hex, hpr⟩ := csrr_supervisor _ hp
    change execCsrr _ _ s = _
    simp only [execCsrr, inTile_of_thread hc, hex, Bool.not_true, Bool.false_eq_true, if_false, hc, hpr, isSv_of_thread hc, hv,
      Bool.not_false, Bool.and_self, if_true]
  · obtain ⟨hex, hw, hpr⟩ := csrw_supervisor _ hp
    change execCsrw _ _ s = _
    simp only [execCsrw, inTile_of_thread hc, hex, hw, Bool.not_true, Bool.or_self, Bool.false_eq_true, if_false, hc, hpr,
      isSv_of_thread hc, hv, Bool.not_false, Bool.and_self, if_true]
  · exact hp.elim

/-- A slot name that breaks R222 comes first (R304). -/
theorem exec_privileged_of_bad_name (hc : s.cur = .thread g) (hn : ¬ NameFits s i) : exec i s = s.und := by
  unfold NameFits at hn
  split at hn
  · change execPreemptHalt _ _ s = _
    exact preempt_of_bad_name hc (by simpa [slotName, bits, bitsN, imp_iff_not_or] using hn)
  · change execPreemptResume _ _ s = _
    exact preempt_of_bad_name hc (by simpa [slotName, bits, bitsN, imp_iff_not_or] using hn)
  · change execPreemptTrap _ _ s = _
    exact preempt_of_bad_name hc (by simpa [slotName, bits, bitsN, bit, imp_iff_not_or, or_assoc] using hn)
  · exact (s.swarm_of_thread hc _).trans (if_pos (by simpa using hn))
  · exact (s.swarm_of_thread hc _).trans (if_pos (by simpa using hn))
  · exact absurd trivial hn

end

/-- Settles O17: the guards of mode and privilege stand before everything else that a form does. -/
theorem privilegeAndMode : Obligations.PrivilegeAndMode := by
  refine ⟨fun i s g hp h hv hn => ?_, fun i s g _ h hn => ?_, fun i s => ⟨fun k hm hc => ?_, fun g hm h => ?_⟩⟩
  · rw [exec_privileged_of_user hp h.1 hv hn]
    exact priv_tookTrap h
  · rw [exec_privileged_of_bad_name h.1 hn]
    exact und_tookTrap h
  · obtain ⟨r, hrec, hwhat⟩ := haltFault_notices (s := s) (k := k) cUND 0
    refine ⟨_, r, (exec_swarm_on_core hm hc).trans (s.raise_core hc _ _ _), ?_, ?_, s.haltFault_mem k cUND 0, hrec, hwhat⟩
    · rw [haltFault_tcore]
    · rw [haltFault_tcore]
  · rw [exec_tile_on_thread hm h.1]
    exact und_tookTrap h

/-! ## Returns (R39, R217) -/

/-- A field of a word in its place is the word under a mask. -/
theorem ofNat_bits_eq_and (x : Word) (lo n : Nat) :
    BitVec.ofNat 64 (bits x lo n * 2 ^ lo) = x &&& BitVec.ofNat 64 ((2 ^ n - 1) * 2 ^ lo) := by
  refine BitVec.eq_of_getLsbD_eq fun i hi => ?_
  simp only [BitVec.getLsbD_and, BitVec.getLsbD_ofNat, hi, decide_true, Bool.true_and, bits, bitsN, Nat.testBit_mul_two_pow,
    Nat.testBit_mod_two_pow, Nat.testBit_div_two_pow, Nat.testBit_two_pow_sub_one, BitVec.testBit_toNat]
  by_cases h : lo ≤ i
  · simp [h, Bool.and_comm]
  · simp [h]

/-- A bundle address as the spec masks it (R13). -/
theorem bundleAddr_eq (x : Word) : bundleAddr x = x &&& 0xFFFFFFFFFFFF8#64 :=
  ofNat_bits_eq_and x 3 49

theorem sameRest_jump (s : State) (a : Word) : SameRest s (s.jump a) := sameRest_iss s _

/-- Settles O18, from the bundle address that both returns go on at. -/
theorem returnForms : Obligations.ReturnForms := by
  refine ⟨fun s g hc hv => ⟨_, s.super_of_sv hc hv _, ?_, ?_, ?_⟩, fun s g hc => ⟨fun hin => ?_, fun hin h => ?_⟩⟩
  · exact (sameRest_modThread hc _).trans (sameRest_jump _ _)
  · rw [← bundleAddr_eq]
    rfl
  · rw [State.trapReturn, State.jump_thread, State.modThread_same]
    rfl
  · refine ⟨_, (s.swarm_of_thread hc _).trans (if_pos hin), ?_, ?_, ?_⟩
    · exact (sameRest_modThread hc _).trans (sameRest_jump _ _)
    · rw [← bundleAddr_eq]
      rfl
    · rw [State.jump_thread, State.modThread_same]
  · have hund : exec .uret s = s.und := (s.swarm_of_thread hc _).trans (if_neg (by simp [hin]))
    rw [hund]
    exact und_tookTrap h

/-! ## Control registers (R24 to R42, R218) -/

section
variable {n : Nat} {x : Word}

/-- A register of a thread's table exists, and reads as the table says. -/
theorem csrThread_of_csrValue (h : csrValue s g n = some x) : csrExists false n = true ∧ s.csrThread g n = x := by
  unfold csrValue at h
  split at h
  case h_20 => cases h
  case h_2 =>
    obtain rfl := Option.some.inj h
    refine ⟨rfl, congrArg (BitVec.ofNat 64) ?_⟩
    simp only [coreName, threadCore]
    omega
  all_goals exact ⟨rfl, Option.some.inj h⟩

/-- A number outside the table is no register of a thread. -/
theorem not_csrExists_of_csrValue (h : csrValue s g n = none) : csrExists false n = false := by
  unfold csrValue at h
  split at h
  case h_20 =>
    rw [Bool.eq_false_iff]
    intro hex
    simp [csrExists, csrListed] at hex
    simp only [imp_false] at *
    omega
  all_goals cases h

/-- A write of a register of a thread's table changes the fields that the table says. -/
theorem csrw_of_csrWritten {t th : Thread} {cyc : Nat} (h : csrWritten t n x cyc = some th) :
    (!csrExists false n || !csrWritable.contains n) = false ∧ t.csrw n x cyc = th := by
  unfold csrWritten at h
  split at h
  case h_13 => cases h
  all_goals
    obtain rfl := Option.some.inj h
    refine ⟨rfl, ?_⟩
  case h_5 | h_7 | h_11 => rw [← bundleAddr_eq]; rfl
  case h_8 =>
    have hfield : wd (bits x 0 10) = x &&& 0x3FF#64 := by simpa [wd] using ofNat_bits_eq_and x 0 10
    rw [← hfield]
    rfl
  all_goals rfl

/-- A register without a writable field, and a number that is none, take no write. -/
theorem not_csrw_of_csrWritten {t : Thread} {cyc : Nat} (h : csrWritten t n x cyc = none) :
    (!csrExists false n || !csrWritable.contains n) = true := by
  unfold csrWritten at h
  split at h
  case h_13 =>
    rw [← Bool.not_and, Bool.not_eq_true', Bool.eq_false_iff]
    intro hex
    simp [csrExists, csrListed, csrWritable] at hex
    simp only [imp_false] at *
    omega
  all_goals cases h

theorem csrCore_of_coreCsr (h : coreCsr s k n = some x) : csrExists true n = true ∧ s.csrCore k n = x := by
  unfold coreCsr at h
  split at h
  case h_9 => cases h
  case h_1 =>
    obtain rfl := Option.some.inj h
    refine ⟨rfl, congrArg (BitVec.ofNat 64) ?_⟩
    simp only [tileName, coreTile]
    omega
  all_goals exact ⟨rfl, Option.some.inj h⟩

theorem not_csrExists_of_coreCsr (h : coreCsr s k n = none) : csrExists true n = false := by
  unfold coreCsr at h
  split at h
  case h_9 =>
    rw [Bool.eq_false_iff]
    intro hex
    simp [csrExists] at hex
    simp only [imp_false] at *
    omega
  all_goals cases h

theorem csrw_of_coreCsrWritten {b c : TCore} (h : coreCsrWritten b n x = some c) :
    (!csrExists true n || !csrWritable.contains n) = false ∧ b.csrw n x = c := by
  unfold coreCsrWritten at h
  split at h
  case h_6 => cases h
  all_goals exact ⟨rfl, Option.some.inj h⟩

theorem not_csrw_of_coreCsrWritten {b : TCore} (h : coreCsrWritten b n x = none) :
    (!csrExists true n || !csrWritable.contains n) = true := by
  unfold coreCsrWritten at h
  split at h
  case h_6 =>
    rw [← Bool.not_and, Bool.not_eq_true', Bool.eq_false_iff]
    intro hex
    simp [csrExists, csrWritable] at hex
    simp only [imp_false] at *
    omega
  all_goals cases h

end

section
variable {d a : SReg} {n : BitVec 12}

/-- The registers that a thread's privilege does not bar (R24). -/
theorem csrPriv_read (h : n.toNat < 0x100 ∨ (s.thread g).sv = true) (hc : s.cur = .thread g) :
    (csrPriv n.toNat false && !s.isSv) = false := by
  rw [isSv_of_thread hc]
  obtain h | h := h
  · simp [csrPriv, Nat.not_le_of_lt h]
  · simp [h]

theorem csrPriv_write (h : (n.toNat < 0x100 ∧ n ≠ 0x011) ∨ (s.thread g).sv = true) (hc : s.cur = .thread g) :
    (csrPriv n.toNat true && !s.isSv) = false := by
  rw [isSv_of_thread hc]
  obtain ⟨h, hn⟩ | h := h
  · have hn : n.toNat ≠ 17 := fun h17 => hn (BitVec.eq_of_toNat_eq h17)
    simp [csrPriv, Nat.not_le_of_lt h, hn]
  · simp [h]

theorem exec_csrr_thread (hc : s.cur = .thread g) (hex : csrExists false n.toNat = true)
    (hp : (csrPriv n.toNat false && !s.isSv) = false) : exec (.csrr d n) s = .next (s.wS d (s.csrThread g n.toNat)) := by
  change execCsrr d n s = _
  simp only [execCsrr, inTile_of_thread hc, hex, hc, hp, Bool.not_true, Bool.false_eq_true, if_false]

theorem exec_csrr_core (hc : s.cur = .core k) (hex : csrExists true n.toNat = true) :
    exec (.csrr d n) s = .next (s.wS d (s.csrCore k n.toNat)) := by
  change execCsrr d n s = _
  simp only [execCsrr, inTile_of_core hc, hex, hc, Bool.not_true, Bool.false_eq_true, if_false]

theorem exec_csrr_und (hex : csrExists s.inTile n.toNat = false) : exec (.csrr d n) s = s.und :=
  if_pos (by rw [hex]; rfl)

theorem exec_csrw_thread (hc : s.cur = .thread g) (hspec : (s.thread g).spec = false)
    (hex : (!csrExists false n.toNat || !csrWritable.contains n.toNat) = false) (hp : (csrPriv n.toNat true && !s.isSv) = false) :
    exec (.csrw n a) s = .next (s.modThread g fun t => t.csrw n.toNat (s.rS a) (s.blk (g / 128)).cyc) := by
  change execCsrw n a s = _
  simp only [execCsrw, inTile_of_thread hc, hex, hc, hp, Bool.false_eq_true, if_false]
  exact s.plainly_of_plain hc hspec _

theorem exec_csrw_core (hc : s.cur = .core k) (hex : (!csrExists true n.toNat || !csrWritable.contains n.toNat) = false) :
    exec (.csrw n a) s = .next (s.modTcore k fun c => c.csrw n.toNat (s.rS a)) := by
  change execCsrw n a s = _
  simp only [execCsrw, inTile_of_core hc, hex, hc, Bool.false_eq_true, if_false]

theorem exec_csrw_und (hex : (!csrExists s.inTile n.toNat || !csrWritable.contains n.toNat) = true) :
    exec (.csrw n a) s = s.und := if_pos hex

theorem threadOnly_modThread (hc : s.cur = .thread g) {f : Thread → Thread} {th : Thread} (h : f (s.thread g) = th) :
    ThreadOnly s (s.modThread g f) g th :=
  ⟨sameRest_modThread hc f, rfl, (s.modThread_same g f).trans h, fun _ => rfl⟩

theorem und_coreUnd (hc : s.cur = .core k) : ∃ t, s.und = .next t ∧ CoreUnd s t k := by
  refine ⟨_, s.raise_core hc _ _ _, ?_, ?_, s.haltFault_mem k cUND 0⟩
  all_goals rw [haltFault_tcore]

end

/-- Settles O19: the tables of the spec and the model's registers agree number by number. -/
theorem controlRegisters : Obligations.ControlRegisters := by
  refine ⟨fun s g d n x hc hx hp => ?_, fun s g a n th hc hspec hp hth => ?_, fun s g d a n h => ⟨fun hx => ?_, fun hw => ?_⟩,
    fun s k d a n hc => ⟨fun x hx => ?_, fun c hcw => ?_, fun hx => ?_, fun hw => ?_⟩⟩
  · obtain ⟨hex, rfl⟩ := csrThread_of_csrValue hx
    exact ⟨_, exec_csrr_thread hc hex (csrPriv_read hp hc), wroteS_wS _ _⟩
  · obtain ⟨hex, hth⟩ := csrw_of_csrWritten hth
    exact ⟨_, exec_csrw_thread hc hspec hex (csrPriv_write hp hc), threadOnly_modThread hc hth⟩
  · rw [exec_csrr_und (inTile_of_thread h.1 ▸ not_csrExists_of_csrValue hx)]
    exact und_tookTrap h
  · rw [exec_csrw_und (inTile_of_thread h.1 ▸ not_csrw_of_csrWritten hw)]
    exact und_tookTrap h
  · obtain ⟨hex, rfl⟩ := csrCore_of_coreCsr hx
    exact ⟨_, exec_csrr_core hc hex, wroteS_wS _ _⟩
  · obtain ⟨hex, hc'⟩ := csrw_of_coreCsrWritten hcw
    exact ⟨_, exec_csrw_core hc hex, sameRest_modTcore hc _, (s.modTcore_same k _).trans hc'⟩
  · rw [exec_csrr_und (inTile_of_core hc ▸ not_csrExists_of_coreCsr hx)]
    exact und_coreUnd hc
  · rw [exec_csrw_und (inTile_of_core hc ▸ not_csrw_of_coreCsrWritten hw)]
    exact und_coreUnd hc

end Sys2Proof.Claims
end

section
/-!
PROOFS. Moving threads (R225 to R227): what a range of plain bytes holds after the writes that a context image is saved by, what
such writes leave alone, and how ctx.save and ctx.load answer.
-/
namespace Sys2Proof.Claims
open Sys2Proof.Machine

variable {s t u : State} {g : Nat}

/-! ## Bytes put at places -/

/-- The bytes `l` have been put one after the other where `place` says, the bytes of a mailbox in use aside; no other byte has
changed. -/
def PutAt (s t : State) (place : Nat → Option Nat) (l : List Byte) : Prop :=
  (∀ k b a, l[k]? = some b → place k = some a → s.mailByte a = false →
    (∀ j, k < j → j < l.length → place j ≠ some a) → Memory.byte t.mem a = b) ∧
  ∀ a, (∀ k, k < l.length → place k ≠ some a) → Memory.byte t.mem a = Memory.byte s.mem a

theorem PutAt.nil (hmem : t.mem = s.mem) (place : Nat → Option Nat) : PutAt s t place [] :=
  ⟨fun k b a h => by simp at h, fun a _ => by rw [hmem]⟩

/-- One string of bytes behind another. -/
theorem PutAt.append {p p1 p2 : Nat → Option Nat} {l1 l2 : List Byte} (hmail : ∀ a, s.mailByte a = false → t.mailByte a = false)
    (h1 : PutAt s t p1 l1) (h2 : PutAt t u p2 l2) (hp1 : ∀ k, k < l1.length → p k = p1 k)
    (hp2 : ∀ k, k < l2.length → p (l1.length + k) = p2 k) : PutAt s u p (l1 ++ l2) := by
  obtain ⟨hput1, hkeep1⟩ := h1
  obtain ⟨hput2, hkeep2⟩ := h2
  refine ⟨fun k b a hk hpk hma hlast => ?_, fun a ha => ?_⟩
  · by_cases hlt : k < l1.length
    · rw [List.getElem?_append_left hlt] at hk
      rw [hkeep2 a fun j hj => hp2 j hj ▸ hlast (l1.length + j) (by omega) (by simp; omega)]
      exact hput1 k b a hk (hp1 k hlt ▸ hpk) hma fun j hkj hj => hp1 j hj ▸ hlast j hkj (by simp; omega)
    · obtain ⟨i, rfl⟩ := Nat.exists_eq_add_of_le (Nat.not_lt.mp hlt)
      rw [List.getElem?_append_right (by omega), Nat.add_sub_cancel_left] at hk
      have hi : i < l2.length := (List.getElem?_eq_some_iff.mp hk).1
      exact hput2 i b a hk (hp2 i hi ▸ hpk) (hmail a hma) fun j hij hj =>
        hp2 j hj ▸ hlast (l1.length + j) (by omega) (by simp; omega)
  · rw [hkeep2 a fun j hj => hp2 j hj ▸ ha (l1.length + j) (by simp; omega)]
    exact hkeep1 a fun j hj => hp1 j hj ▸ ha j (by simp; omega)

theorem shielded_getElem? (pa : Nat) (l : List Byte) (k : Nat) : (s.shielded pa l)[k]? =
    l[k]?.map fun b => if s.mailByte (pa + k) then Memory.byte s.mem (pa + k) else b := by
  unfold State.shielded
  split
  · rename_i hm
    simp [State.mailByte, hm]
  · simp [List.getElem?_map, Function.comp_def]

@[simp] theorem shielded_length (pa : Nat) (l : List Byte) : (s.shielded pa l).length = l.length := by
  unfold State.shielded
  split <;> simp

/-- One write event's bytes. -/
theorem putAt_of_write {pa : Nat} {l : List Byte} (hmem : t.mem = Memory.write s.mem pa (s.shielded pa l)) :
    PutAt s t (fun k => some (pa + k)) l := by
  refine ⟨fun k b a hk hpk hma _ => ?_, fun a ha => ?_⟩
  · obtain rfl := Option.some.inj hpk
    rw [hmem]
    exact Memory.byte_write _ _ _ _ _ (by rw [shielded_getElem?, hk, hma]; rfl)
  · rw [hmem, Memory.byte_write_other _ _ _ _]
    rw [shielded_length]
    by_contra hin
    exact ha (a - pa) (by omega) (congrArg some (by omega))

/-! ## What a write leaves alone -/

/-- What the writes of a range leave: everything of the unit in hand, what has landed at sync words, and every thread but for the
lost marks of its reservations (R121); no mailbox comes into use. -/
structure WriteKept (s t : State) : Prop where
  cur    : t.cur = s.cur
  iss    : t.iss = s.iss
  wtbase : t.dev.wtbase = s.dev.wtbase
  syncq  : t.dev.syncq = s.dev.syncq
  away   : t.dev.away = s.dev.away
  mail   : ∀ a, s.mailByte a = false → t.mailByte a = false
  thread : ∀ h, { t.thread h with resv := [] } = { s.thread h with resv := [] }

theorem WriteKept.rfl : WriteKept s s := ⟨.refl _, .refl _, .refl _, .refl _, .refl _, fun _ h => h, fun _ => .refl _⟩

theorem WriteKept.trans (h : WriteKept s t) (h' : WriteKept t u) : WriteKept s u where
  cur := h'.cur.trans h.cur
  iss := h'.iss.trans h.iss
  wtbase := h'.wtbase.trans h.wtbase
  syncq := h'.syncq.trans h.syncq
  away := h'.away.trans h.away
  mail a ha := h'.mail a (h.mail a ha)
  thread k := (h'.thread k).trans (h.thread k)

theorem WriteKept.calm (h : WriteKept s t) {pa n : Nat} (hc : Calm s pa n) : Calm t pa n := by
  rw [Calm, h.syncq]
  exact hc

theorem noteWrite_thread (by_ : Option Nat) (task : Option (Nat × Nat)) (pa n k : Nat) :
    (s.noteWrite by_ task pa n).thread k = loseResv by_ pa n k (s.thread k) := by
  refine Tab.get_mapVals _ (fun j => ?_) _ _
  unfold loseResv
  split <;> rfl

theorem loseResv_but_resv (by_ : Option Nat) (pa n k : Nat) (t : Thread) :
    { loseResv by_ pa n k t with resv := [] } = { t with resv := [] } := by
  unfold loseResv
  split <;> rfl

theorem writeKept_noteWrite (by_ : Option Nat) (task : Option (Nat × Nat)) (pa n : Nat) : WriteKept s (s.noteWrite by_ task pa n) where
  cur := rfl
  iss := rfl
  wtbase := rfl
  syncq := rfl
  away := rfl
  mail _ h := h
  thread k := by rw [noteWrite_thread, loseResv_but_resv]

theorem writeKept_poke (a : Nat) (l : List Byte) : WriteKept s (s.poke a l) :=
  ⟨rfl, rfl, rfl, rfl, rfl, fun _ h => h, fun _ => rfl⟩

theorem writeKept_forgetMail (touch : Nat → Bool) : WriteKept s (s.forgetMail touch) := by
  unfold State.forgetMail
  split
  · exact .rfl
  · refine ⟨rfl, rfl, rfl, rfl, rfl, fun a ha => ?_, fun _ => rfl⟩
    rw [State.mailByte, List.any_eq_false] at ha ⊢
    exact fun m hm => ha m (List.mem_of_mem_filter hm)

/-! ## One write event without a watch (R113, R270) -/

theorem endSync_of_calm {pa n : Nat} (h : Calm s pa n) : s.endSync pa n = s := by
  have hnone : (s.dev.syncq.filter fun e => overlaps e.1 16 pa n && decide (e.2.cyc ≤ s.syncCyc e.1)) = [] :=
    List.filter_eq_nil_iff.mpr fun e he => by simp [h e he]
  rw [State.endSync, hnone]
  rfl

/-- A range is calm where each of its bytes is. -/
theorem calm_of_bytes {pa n : Nat} (hn : 0 < n) (h : ∀ k, k < n → Calm s (pa + k) 1) : Calm s pa n := by
  intro e he
  have hk := h (max e.1 pa - pa)
  simp only [Calm, overlaps, Bool.and_eq_false_iff, decide_eq_false_iff_not] at hk ⊢
  by_contra hin
  have := hk (by omega) e he
  omega

section
variable {p : Phys} {by_ : Option Nat} {task : Option (Nat × Nat)} {va : Nat} {l : List Byte}

theorem performWrite_of_calm (hhome : p.home = .dram) (hwt : s.dev.wtbase = 0) (hcalm : Calm s p.pa l.length) :
    s.performWrite by_ task p va l = ((s.noteWrite by_ task p.pa l.length).poke p.pa (s.shielded p.pa l)).forgetMail
      fun a => decide (p.pa ≤ a) && decide (a < p.pa + l.length) := by
  have hwatch : ∀ a b c d, s.watch a b c d = s := fun a b c d => if_pos (by rw [hwt]; rfl)
  rw [State.performWrite, State.writeAt, hhome]
  simp only [shielded_length, endSync_of_calm hcalm, hwatch]

theorem writeKept_performWrite (hhome : p.home = .dram) (hwt : s.dev.wtbase = 0) (hcalm : Calm s p.pa l.length) :
    WriteKept s (s.performWrite by_ task p va l) := by
  rw [performWrite_of_calm hhome hwt hcalm]
  exact ((writeKept_noteWrite _ _ _ _).trans (writeKept_poke _ _)).trans (writeKept_forgetMail _)

theorem putAt_performWrite (hhome : p.home = .dram) (hwt : s.dev.wtbase = 0) (hcalm : Calm s p.pa l.length) :
    PutAt s (s.performWrite by_ task p va l) (fun k => some (p.pa + k)) l :=
  putAt_of_write (by rw [performWrite_of_calm hhome hwt hcalm, State.forgetMail_mem]; rfl)

end

end Sys2Proof.Claims
end

section
/-!
PROOFS. Moving threads (R225 to R227): the writes over the parts of a range, ctx.save and ctx.load.
-/
namespace Sys2Proof.Claims
open Sys2Proof.Machine

variable {s t u : State} {g : Nat}

/-! ## Lines of a hashed frame (R299) -/

/-- The home field that an address of a hashed frame is spread to. -/
def spreadField (a : Nat) : Nat := bitsN a 37 4 ^^^ bitsN a 6 4 ^^^ bitsN a 16 4 ^^^ bitsN a 26 4

theorem spreadField_lt (a : Nat) : spreadField a < 16 := by
  have h4 : ∀ lo, bitsN a lo 4 < 2 ^ 4 := fun lo => Nat.mod_lt _ (by decide)
  exact Nat.xor_lt_two_pow (Nat.xor_lt_two_pow (Nat.xor_lt_two_pow (h4 37) (h4 6)) (h4 16)) (h4 26)

/-- Spreading changes the home field alone. -/
theorem hashAddr_eq (a : Nat) : hashAddr a = a / 2 ^ 41 * 2 ^ 41 + spreadField a * 2 ^ 37 + a % 2 ^ 37 := by
  change a - bitsN a 37 4 * 2 ^ 37 + spreadField a * 2 ^ 37 = _
  unfold bitsN
  omega

theorem hashAddr_mod (a : Nat) : hashAddr a % 2 ^ 37 = a % 2 ^ 37 := by rw [hashAddr_eq]; omega

theorem hashAddr_top (a : Nat) : hashAddr a / 2 ^ 41 = a / 2 ^ 41 := by
  have := spreadField_lt a
  rw [hashAddr_eq]; omega

theorem hashAddr_field (a : Nat) : bitsN (hashAddr a) 37 4 = spreadField a := by
  have := spreadField_lt a
  rw [hashAddr_eq, bitsN]; omega

theorem bitsN_hashAddr (a : Nat) {lo : Nat} (h : lo + 4 ≤ 37) : bitsN (hashAddr a) lo 4 = bitsN a lo 4 := by
  have hlow : ∀ x, bitsN x lo 4 = bitsN (x % 2 ^ 37) lo 4 := fun x => by
    obtain ⟨e, he⟩ := Nat.exists_eq_add_of_le h
    rw [bitsN, bitsN, he, Nat.add_assoc, Nat.pow_add, Nat.mod_mul_right_div_self, Nat.pow_add, Nat.mod_mul_right_mod]
  rw [hlow, hashAddr_mod, ← hlow]

@[simp] theorem hashAddr_hashAddr (a : Nat) : hashAddr (hashAddr a) = a := by
  have hfield : spreadField (hashAddr a) = bitsN a 37 4 := by
    rw [spreadField, hashAddr_field, bitsN_hashAddr a (by decide), bitsN_hashAddr a (by decide), bitsN_hashAddr a (by decide), spreadField]
    simp only [Nat.xor_assoc]
    generalize bitsN a 6 4 = x, bitsN a 16 4 = y, bitsN a 26 4 = z
    rw [← Nat.xor_assoc x y, ← Nat.xor_assoc, ← Nat.xor_assoc, ← Nat.xor_assoc]
    simp [Nat.xor_assoc]
  rw [hashAddr_eq (hashAddr a), hfield, hashAddr_top, hashAddr_mod, bitsN]
  omega

/-- Within half a line the bytes stay together. -/
theorem hashAddr_add {a k : Nat} (ha : a % 32 = 0) (hk : k < 32) : hashAddr (a + k) = hashAddr a + k := by
  have hfield : spreadField (a + k) = spreadField a := by
    have hbits : ∀ lo, 6 ≤ lo → bitsN (a + k) lo 4 = bitsN a lo 4 := fun lo h => by
      obtain ⟨e, rfl⟩ := Nat.exists_eq_add_of_le h
      rw [bitsN, bitsN, Nat.pow_add, ← Nat.div_div_eq_div_mul, ← Nat.div_div_eq_div_mul, show (a + k) / 2 ^ 6 = a / 2 ^ 6 by omega]
    simp only [spreadField, hbits 37 (by decide), hbits 6 (by decide), hbits 16 (by decide), hbits 26 (by decide)]
  rw [hashAddr_eq, hashAddr_eq a, hfield]
  omega

theorem plus_plus (p : Phys) (j k : Nat) : (p.plus j).plus k = p.plus (j + k) := by
  cases hh : p.hash <;> simp [Phys.plus, hh, Nat.add_assoc]

theorem hashAddr_mod32 (a : Nat) : hashAddr a % 32 = a % 32 := by have := hashAddr_mod a; omega

theorem plus_pa_add {p : Phys} {k : Nat} (ha : p.pa % 32 = 0) (hk : k < 32) : (p.plus k).pa = p.pa + k := by
  cases hh : p.hash
  · simp [Phys.plus, hh]
  · simp only [Phys.plus, hh, if_true]
    rw [hashAddr_add ((hashAddr_mod32 _).trans ha) hk, hashAddr_hashAddr]

theorem plus_32_pa_mod {p : Phys} (ha : p.pa % 32 = 0) : (p.plus 32).pa % 32 = 0 := by
  have := hashAddr_mod32 p.pa
  cases hh : p.hash
  · simp only [Phys.plus, hh, Bool.false_eq_true, if_false]; omega
  · simp only [Phys.plus, hh, if_true, hashAddr_mod32]; omega

/-! ## The writes of a range -/

/-- The writes of one part put its bytes in its places, and leave what a write leaves. -/
theorem writePart_puts (g : Nat) : ∀ (n : Nat) (l : List Byte) (p : Phys) (s : State) (va : Nat), l.length ≤ 32 * n → p.home = .dram →
    p.pa % 32 = 0 → s.dev.wtbase = 0 → (∀ k, k < l.length → Calm s (p.plus k).pa 1) →
    WriteKept s (s.writePart g va p n l) ∧ PutAt s (s.writePart g va p n l) (fun k => some (p.plus k).pa) l
  | 0, l, p, s, va, hn, _, _, _, _ => by
    obtain rfl : l = [] := List.eq_nil_of_length_eq_zero (by omega)
    exact ⟨.rfl, .nil rfl _⟩
  | n + 1, l, p, s, va, hn, hhome, hpa, hwt, hcalm => by
    rw [State.writePart]
    split
    next h =>
      subst h
      exact ⟨.rfl, .nil rfl _⟩
    next h =>
      have hpos : 0 < l.length := List.length_pos_iff.mpr h
      have htake : (l.take 32).length = min 32 l.length := List.length_take
      have hline : Calm s p.pa (l.take 32).length := calm_of_bytes (by omega) fun k hk =>
        plus_pa_add hpa (k := k) (by omega) ▸ hcalm k (by omega)
      have hkept := writeKept_performWrite (s := s) (by_ := some g) (task := none) (va := va) hhome hwt hline
      obtain ⟨hkept', hput⟩ := writePart_puts g n (l.drop 32) (p.plus 32) (s.performWrite (some g) none p va (l.take 32)) (va + 32)
        (by rw [List.length_drop]; omega) hhome (plus_32_pa_mod hpa) (hkept.wtbase.trans hwt) fun k hk => by
          rw [List.length_drop] at hk
          rw [plus_plus]
          exact hkept.calm (hcalm _ (by omega))
      refine ⟨hkept.trans hkept', ?_⟩
      have hall := (putAt_performWrite hhome hwt hline).append (p := fun k => some (p.plus k).pa) hkept.mail hput
        (fun k hk => congrArg some (plus_pa_add hpa (by omega))) fun k hk => by
          rw [List.length_drop] at hk
          rw [plus_plus, show (l.take 32).length = 32 by omega]
      rwa [List.take_append_drop] at hall

/-- How many bytes the parts of a range hold. -/
def partsLength (ps : List (Nat × Nat × Phys)) : Nat := (ps.map fun e => e.2.1).sum

/-- The writes of a range put its bytes in the places of its parts. -/
theorem writeParts_puts (g : Nat) : ∀ (ps : List (Nat × Nat × Phys)) (l : List Byte) (s : State), s.dev.wtbase = 0 →
    (∀ e ∈ ps, e.2.2.home = .dram) → (∀ e ∈ ps, e.2.2.pa % 64 = 0) →
    (∀ k a, k < partsLength ps → partPlace ps k = some a → Calm s a 1) →
    WriteKept s (s.writeParts g ps l) ∧ PutAt s (s.writeParts g ps l) (partPlace ps) (l.take (partsLength ps))
  | [], l, s, _, _, _, _ => ⟨.rfl, List.take_zero (l := l) ▸ PutAt.nil rfl _⟩
  | (va, n, p) :: ps, l, s, hwt, hdram, hline, hcalm => by
    obtain ⟨hhome, hdram'⟩ := List.forall_mem_cons.mp hdram
    obtain ⟨hpa, hline'⟩ := List.forall_mem_cons.mp hline
    have hsum : partsLength ((va, n, p) :: ps) = n + partsLength ps := by simp [partsLength]
    have hhere : ∀ k, k < n → partPlace ((va, n, p) :: ps) k = some (p.plus k).pa := fun k hk => by rw [partPlace, if_pos hk]
    have hthere : ∀ k, partPlace ((va, n, p) :: ps) (n + k) = partPlace ps k := fun k => by
      rw [partPlace, if_neg (by omega), Nat.add_sub_cancel_left]
    have htake : (l.take n).length = min n l.length := List.length_take
    obtain ⟨hkept, hput⟩ := writePart_puts g (n / 32 + 1) (l.take n) p s va (by omega) hhome (by simp only at hpa; omega) hwt fun k hk =>
      hcalm k _ (by omega) (hhere k (by omega))
    obtain ⟨hkept', hput'⟩ := writeParts_puts g ps (l.drop n) (s.writePart g va p (n / 32 + 1) (l.take n)) (hkept.wtbase.trans hwt) hdram'
      hline' fun k a hk ha => hkept.calm (hcalm (n + k) a (by omega) ((hthere k).trans ha))
    refine ⟨hkept.trans hkept', ?_⟩
    have hall := hput.append (p := partPlace ((va, n, p) :: ps)) hkept.mail hput' (fun k hk => hhere k (by omega)) fun k hk => by
      have hlen : (List.take (partsLength ps) (l.drop n)).length = min (partsLength ps) (l.length - n) := by simp
      rw [show (l.take n).length = n by omega, hthere]
    rwa [← List.take_add, ← hsum] at hall

/-- Checked parts are the parts of the range. -/
theorem checkParts_ranges {need : Need} {locks : Bool} : ∀ {l : List (Nat × Nat)} {ps : List (Nat × Nat × Phys)},
    s.checkParts g need locks l = .ok ps → ps.map (fun e => (e.1, e.2.1)) = l
  | [], ps, h => by
    obtain rfl : [] = ps := by simpa [State.checkParts] using h
    rfl
  | (va, n) :: l, ps, h => by
    rw [State.checkParts] at h
    split at h
    · cases h
    split at h
    · cases h
    · cases h
    split at h
    · cases h
    split at h
    next hps =>
      cases h
      rw [List.map_cons, checkParts_ranges hps]
    next => cases h

theorem pageParts_sum (va n : Nat) : ((pageParts va n).map Prod.snd).sum = n := by
  rw [pageParts]
  split
  · simp
  · simp

theorem ImagePlace.length {ea : Word} {wr : Bool} {ps : List (Nat × Nat × Phys)} (h : ImagePlace s g ea wr ps) : partsLength ps = 2048 := by
  have hmap := congrArg (List.map Prod.snd) (checkParts_ranges h.parts)
  rw [List.map_map] at hmap
  exact (congrArg List.sum hmap).trans (pageParts_sum _ _)

theorem ImagePlace.accessRange {ea : Word} {wr : Bool} {ps : List (Nat × Nat × Phys)} (h : ImagePlace s g ea wr ps)
    (k : List (Nat × Nat × Phys) → Out) : s.accessRange g ea 2048 64 wr true k = k ps := by
  obtain ⟨hlow, halign, hparts, hfree, -⟩ := h
  rw [State.accessRange, if_neg (by omega), if_neg (by omega), hparts]
  simp [hfree]

theorem ImagePlace.remoteOf {ea : Word} {wr : Bool} {ps : List (Nat × Nat × Phys)} (h : ImagePlace s g ea wr ps) : remoteOf ps = none := by
  unfold Sys2Proof.Machine.remoteOf
  match ps, h.dram with
  | [], _ => rfl
  | (_, _, p) :: _, hdram => simp only [show p.home = .dram from hdram _ (List.mem_cons_self ..)]

theorem eaOf_eq_ea (a : SReg) (imm : Imm) : eaOf s a imm = s.ea a imm := by
  have himm : BitVec.ofInt 64 (immInt imm) = immv imm := by cases imm <;> rfl
  rw [eaOf, State.ea, BitVec.ofInt_add, himm, BitVec.ofInt_toInt]

/-! ## Arrived results (R72) -/

theorem ctx_of_thread (hc : s.cur = .thread g) : s.ctx = (s.thread g).ctx := by rw [State.ctx, hc]

theorem longS_thread_other (hc : s.cur = .thread g) (d : SReg) (x : Word) {h : Nat} (hne : h ≠ g) : (s.longS d x).thread h = s.thread h := by
  rw [State.longS, State.long, State.setCtx_thread, if_neg (by rw [hc]; exact fun he => hne (UnitRef.thread.inj he).symm)]

theorem longS_pend (hc : s.cur = .thread g) (d : SReg) (x : Word) :
    ((s.longS d x).thread g).ctx.pend = (s.thread g).ctx.pend ++ [arrived s d x] := by
  rw [State.longS, State.long, State.setCtx_thread, if_pos hc, ctx_of_thread hc]
  rfl

theorem queued_longS (d : SReg) (x : Word) : Queued s (s.longS d x) (.sreg d) (x.setWidth 256) 0 := became_setCtx _

/-- A bundle that waits. -/
theorem wait_waitsAtIssue (hc : s.cur = .thread g) : ∃ t, s.wait = .next t ∧ WaitsAtIssue s t g := by
  have hmark : s.markWait = { s with iss := { s.iss with fate := .waiting } }.modThread g fun t => { t with atIssue := true } := by
    simp only [State.markWait, hc]
  refine ⟨_, rfl, ?_⟩
  rw [hmark]
  exact ⟨rfl, (sameRest_iss s _).trans (sameRest_modThread (s := { s with iss := { s.iss with fate := .waiting } }) hc _), State.modThread_same _ _ _⟩

/-! ## ctx.save (R225) -/

section
variable {d a : SReg} {imm : Imm} {ps : List (Nat × Nat × Phys)} {v : Nat}

/-- ctx.save at a place that translates. -/
theorem exec_ctxSave (hc : s.cur = .thread g) (hspec : (s.thread g).spec = false) (hsv : (s.thread g).sv = true)
    (hname : ctxNameOk (s.rS d) true = true) (hu : v = (slotName (s.rS d)).num * 8 + (slotName (s.rS d)).tid)
    (hp : ImagePlace s g (eaOf s a imm) true ps) : exec (.ctxSave d a imm) s =
      if !s.savable (slotName (s.rS d)) v then .next (s.longS d 1)
      else if (s.thread g).sb ≠ [] ∨ (s.thread v).sb.any SbEntry.sent = true then s.wait
      else .next (((s.writeParts g ps (s.thread v).image).saveFree (slotName (s.rS d)) v).longS d 0) := by
  subst hu
  refine (s.swarm_of_thread hc _).trans ?_
  rw [eaOf_eq_ea] at hp
  simp only [hname, State.onlySv, hsv, s.plainly_of_plain hc hspec, hp.accessRange, hp.remoteOf]
  rfl

theorem saveFree_mem (n : SlotName) : (s.saveFree n v).mem = s.mem := by
  unfold State.saveFree
  split <;> rfl

theorem saveFree_cur (n : SlotName) : (s.saveFree n v).cur = s.cur := by
  unfold State.saveFree
  split <;> rfl

theorem saveFree_iss (n : SlotName) : (s.saveFree n v).iss = s.iss := by
  unfold State.saveFree
  split <;> rfl

theorem saveFree_thread_other (n : SlotName) {h : Nat} (hne : h ≠ v) : (s.saveFree n v).thread h = s.thread h := by
  unfold State.saveFree
  split
  · exact s.setThread_other v h _ hne
  · rfl

/-- A store that is performed leaves the issuer its registers. -/
theorem WriteKept.ctx (h : WriteKept s t) (j : Nat) : (t.thread j).ctx = (s.thread j).ctx := (congrArg Thread.ctx (h.thread j) :)

theorem WriteKept.stack (h : WriteKept s t) (j : Nat) : (t.thread j).stack = (s.thread j).stack :=
  (congrArg Thread.stack (h.thread j) :)

/-- What the writes of an image leave, and what freeing the slot behind them does. -/
theorem ctxSave_written {n : SlotName} (ht : t = ((s.writeParts g ps (s.thread v).image).saveFree n v).longS d 0)
    (hc : s.cur = .thread g) (hp : ImagePlace s g (eaOf s a imm) true ps) (hplain : PlainParts s ps) :
    WroteParts s t ps ((s.thread v).image.take 2048) ∧
      (v ≠ g → (t.thread g).ctx.pend = s.ctx.pend ++ [arrived s d 0]) ∧
      (n.op = 1 → v ≠ g → t.thread v = {} ∧ t.dev.away = s.dev.away ++ (s.thread v).stack.toList) ∧
      (n.op = 0 → v ≠ g → { t.thread v with resv := [] } = { s.thread v with resv := [] }) := by
  obtain ⟨⟨hwt, -⟩, hlines, hcalm⟩ := hplain
  obtain ⟨hkept, hput⟩ := writeParts_puts g ps (s.thread v).image s hwt hp.dram hlines (hp.length.symm ▸ hcalm)
  generalize s.writeParts g ps (s.thread v).image = w at hkept hput ht
  subst ht
  have hcur : (w.saveFree n v).cur = .thread g := (saveFree_cur n).trans (hkept.cur.trans hc)
  refine ⟨?_, fun hv => ?_, fun hop hv => ?_, fun hop hv => ?_⟩
  · rw [hp.length] at hput
    have hmem : ((w.saveFree n v).longS d 0).mem = w.mem := by rw [State.longS, State.long, State.setCtx_mem, saveFree_mem]
    unfold WroteParts
    rw [hmem]
    exact hput
  · rw [longS_pend hcur, saveFree_thread_other n hv.symm, hkept.ctx, ctx_of_thread hc, arrived, saveFree_iss, hkept.iss]
    rfl
  · rw [longS_thread_other hcur _ _ hv, State.longS, State.long, State.setCtx_dev, State.saveFree, if_pos hop, ← hkept.away, ← hkept.stack]
    exact ⟨w.setThread_same v {}, rfl⟩
  · rw [longS_thread_other hcur _ _ hv, State.saveFree, if_neg (by omega)]
    exact hkept.thread v

/-! ## ctx.load (R225, R227) -/

/-- ctx.load at a place that translates. -/
theorem exec_ctxLoad (hplain : Plain s g) (hsv : (s.thread g).sv = true)
    (hname : ctxNameOk (s.rS d) false = true) (hu : v = (slotName (s.rS d)).num * 8 + (slotName (s.rS d)).tid)
    (hp : ImagePlace s g (eaOf s a imm) false ps) : exec (.ctxLoad d a imm) s =
      .next ((s.loadImage (slotName (s.rS d)) v (s.readParts ps)).1.longS d
        (wd (s.loadImage (slotName (s.rS d)) v (s.readParts ps)).2)) := by
  subst hu
  obtain ⟨hc, hspec, hsb⟩ := hplain
  refine (s.swarm_of_thread hc _).trans ?_
  rw [eaOf_eq_ea] at hp
  simp only [hname, State.onlySv, hsv, s.plainly_of_plain hc hspec, hp.accessRange, hp.remoteOf, hsb]
  rfl

end

theorem writeKept_staleWhere (f : Nat → Bool) : WriteKept s (s.staleWhere f) :=
  ⟨rfl, rfl, rfl, rfl, rfl, fun _ h => h, fun _ => rfl⟩

/-- The watch step of a write through an ordinary page leaves all but caches. -/
theorem writeKept_watch_plain (va pa n : Nat) : WriteKept s (s.watch false va pa n) := by
  unfold State.watch State.watchWord
  simp only [Bool.false_and, Bool.false_eq_true, if_false]
  split
  · exact .rfl
  split
  · exact writeKept_staleWhere _
  · exact .rfl

theorem writeKept_walkMark (e : Word) (addr : Nat) (kind : Access) : WriteKept s (s.walkMark e addr kind).1 := by
  unfold State.walkMark
  simp only
  split
  · exact ((writeKept_watch_plain _ _ _).trans (writeKept_noteWrite _ _ _ _)).trans (writeKept_poke _ _)
  · exact .rfl

theorem writeKept_xlMark (va : Nat) (n : Need) : WriteKept s (s.xlMark va n).1 := by
  unfold State.xlMark
  split
  · exact .rfl
  split
  · exact .rfl
  · exact .rfl
  · exact .rfl
  · exact writeKept_walkMark _ _ _

theorem writeKept_translateSb (sv : Bool) : ∀ (l : List SbEntry) (s : State), WriteKept s (s.translateSb sv l).1
  | [], s => .rfl
  | e :: l, s => by
    have hmark := writeKept_xlMark (s := s) e.va.toNat { rd := false, wr := true, ex := false, sv := sv, form := e.kind.form }
    rw [State.translateSb]
    simp only
    split
    · exact hmark
    split
    · exact hmark.trans (writeKept_translateSb sv l _)
    · exact hmark.trans (writeKept_translateSb sv l _)

theorem readImage_halted {l : List Byte} {th : Thread} {grp : Option Nat} (h : readImage l = some (th, grp)) : th.run = .halted := by
  simp only [readImage] at h
  split at h
  · split at h
    · cases h
      rfl
    · cases h
  · cases h

section
variable {n : SlotName} {v : Nat} {l : List Byte} {th : Thread} {grp : Option Nat}

theorem loadImage_of_occupied (h : (s.thread v).run ≠ .free) : s.loadImage n v l = (s, 1) := by
  have hrun : ((s.thread v).run == .free) = false := by simpa using h
  rw [State.loadImage, hrun, Bool.and_false]
  rfl

variable (hcore : n.core = true) (hslot : s.slotExists n = true) (hfree : (s.thread v).run = .free)
include hcore hslot hfree

theorem loadImage_of_none (h : readImage l = none) : s.loadImage n v l = (s, 2) := by
  simp [State.loadImage, hcore, hslot, hfree, h]

theorem loadImage_of_group_gone {i : Nat} (h : readImage l = some (th, some i)) (hi : s.group i = none) : s.loadImage n v l = (s, 2) := by
  simp [State.loadImage, hcore, hslot, hfree, h, hi]

variable (h : readImage l = some (th, grp)) (hgrp : ∀ i, grp = some i → (s.group i).isSome = true)
include h hgrp

theorem loadImage_of_error {e : Word × BitVec 8} (he : (s.translateSb th.sv th.sb).2 = .error e) : s.loadImage n v l = (s, 2) := by
  cases grp with
  | none => simp [State.loadImage, hcore, hslot, hfree, h, he]
  | some i => simp [State.loadImage, hcore, hslot, hfree, h, he, Option.isSome_iff_ne_none.mp (hgrp i rfl)]

/-- The slot of an admitted thread, and what the rest keeps. -/
theorem loadImage_of_ok {es : List SbEntry} (he : (s.translateSb th.sv th.sb).2 = .ok es) :
    ∃ t, s.loadImage n v l = (t, 0) ∧ t.cur = s.cur ∧ t.iss = s.iss ∧
      t.thread v = { th with sb := es, group := grp, uid := s.fresh } ∧ ∀ j, j ≠ v → (t.thread j).ctx = (s.thread j).ctx := by
  have hkept := writeKept_translateSb th.sv th.sb s
  have hthread := State.setThread_same (s.translateSb th.sv th.sb).1.next v { th with sb := es, group := grp, uid := s.fresh }
  have hothers : ∀ j, j ≠ v → (((s.translateSb th.sv th.sb).1.next.setThread v { th with sb := es, group := grp, uid := s.fresh }).thread j).ctx
      = (s.thread j).ctx := fun j hj => by
    rw [State.setThread_other _ _ _ _ hj]
    exact hkept.ctx j
  rw [State.loadImage, hcore, hslot, hfree, if_neg (by decide)]
  simp only [h]
  rw [if_neg]
  · simp only [he]
    split
    · exact ⟨_, rfl, hkept.cur, hkept.iss, hthread, hothers⟩
    · exact ⟨_, rfl, hkept.cur, hkept.iss, hthread, hothers⟩
  · cases grp with
    | none => exact Bool.false_ne_true
    | some i => simpa [Option.isSome_iff_ne_none] using hgrp i rfl

end

/-- Settles O24: a save is the writes of the range's parts, with the slot freed behind them, and a load the cases of reading an image. -/
theorem contextForms : Obligations.ContextForms := by
  refine ⟨fun s g u d a imm ps hc hspec hsv hname hu hp => ?_, fun s g u d a imm ps hplain hsv hname hu hne hcore hslot hp => ?_⟩
  · rw [exec_ctxSave hc hspec hsv hname hu hp]
    refine ⟨fun hsave => ?_, fun hsave hwait => ?_, fun hsave hsb hsent hparts => ?_⟩
    · rw [hsave]
      exact ⟨_, rfl, queued_longS d 1⟩
    · rw [hsave, if_neg (by decide), if_pos hwait]
      exact wait_waitsAtIssue hc
    · rw [hsave, if_neg (by decide), if_neg (by simp [hsb, hsent])]
      exact ⟨_, rfl, ctxSave_written rfl hc hp hparts⟩
  · rw [exec_ctxLoad hplain hsv hname hu hp]
    refine ⟨fun hbusy => ?_, fun hfree hnone => ?_, fun th i hfree himg hgone => ?_, fun th grp hfree himg hgrp => ⟨fun e he => ?_, fun es he => ?_⟩⟩
    · rw [loadImage_of_occupied hbusy]
      exact ⟨_, rfl, queued_longS d 1⟩
    · rw [loadImage_of_none hcore hslot hfree hnone]
      exact ⟨_, rfl, queued_longS d 2⟩
    · rw [loadImage_of_group_gone hcore hslot hfree himg hgone]
      exact ⟨_, rfl, queued_longS d 2⟩
    · rw [loadImage_of_error hcore hslot hfree himg hgrp he]
      exact ⟨_, rfl, queued_longS d 2⟩
    · obtain ⟨t, ht, hcur, hiss, hthread, hothers⟩ := loadImage_of_ok hcore hslot hfree himg hgrp he
      have hc := hcur.trans hplain.1
      rw [ht]
      refine ⟨_, rfl, ?_⟩
      rw [longS_thread_other hc _ _ hne, longS_pend hc, hothers g hne.symm, hthread, ctx_of_thread hplain.1, arrived, hiss]
      exact ⟨(readImage_halted himg :), rfl, rfl, rfl, rfl, rfl, rfl⟩

end Sys2Proof.Claims
end

section
/-!
PROOFS. Events of threads and cores: results that commit, windows that close, diversions, and walks (R33, R279 to R281, R300, R302).
-/
namespace Sys2Proof.Claims
open Sys2Proof.Machine

variable {s t : State} {g : Nat}

/-! ## Committed results (R17, R279) -/

theorem lane_ofLanes (f : Nat → BitVec 32) {i : Nat} (hi : i < 8) : lane (ofLanes f) i = f i := by
  apply BitVec.eq_of_getLsbD_eq
  intro j hj
  simp only [lane, ofLanes, BitVec.getLsbD_extractLsb', BitVec.getLsbD_append, hj, decide_true, Bool.true_and]
  interval_cases i <;> simp [hj] <;> grind

theorem lane_mergeLanes (m : PWord) (x y : VWord) {i : Nat} (hi : i < 8) :
    lane (mergeLanes m x y) i = if m.getLsbD i then lane y i else lane x i := lane_ofLanes _ hi

/-- A result without a fault changes what its destination and its flags say. -/
theorem committed_commit {b : Ctx} {p : Pending} (hfault : p.fault = none) (rest : List Pending) :
    Committed b { b.commit p with pend := rest } p rest := by
  unfold Committed
  cases hdest : p.dest with
  | sreg r =>
    have hcommit : b.commit p = b.wS r (p.val.setWidth 64) := by rw [Ctx.commit, hfault]; simp only [hdest]
    rw [hcommit]
    simp only [Ctx.wS_p, Ctx.wS_v, Ctx.wS_pc, Ctx.wS_vrm, Ctx.wS_vflags, true_and]
    exact fun x => Ctx.rS_wS _ _ _ _
  | vreg r m =>
    have hcommit : b.commit p = (b.wV r (mergeLanes m (b.rV r) p.val)).raiseFlags p.flags := by
      rw [Ctx.commit, hfault]; simp only [hdest]
    rw [hcommit]
    refine ⟨rfl, rfl, rfl, rfl, rfl, rfl, fun x hx => (Ctx.rV_wV _ _ _ _).trans (if_neg hx), fun i hi => ?_⟩
    exact (congrArg (lane · i) ((Ctx.rV_wV _ _ _ _).trans (if_pos rfl))).trans (lane_mergeLanes _ _ _ hi)

/-! ## Closing windows (R280) -/

theorem closeThread_of_sound (h : firstFault (s.thread g).ctx.pend = none) : s.closeThread g = (windowsClosed s g, true) := by
  rw [State.closeThread, h]
  rfl

theorem firstFault_of_sound {l : List Pending} (h : ∀ p ∈ l, p.fault = none) : firstFault l = none := List.findSome?_eq_none_iff.mpr h

/-! ## Walks (R300, R302) -/

theorem noteWrite_blk (by_ : Option Nat) (task : Option (Nat × Nat)) (pa n b : Nat) :
    (s.noteWrite by_ task pa n).blk b = { s.blk b with tasks := (s.blk b).tasks.map (hitTask task pa n b) } :=
  Tab.get_mapVals _ (fun _ => rfl) _ _

theorem watch_plain_blk (va pa n b : Nat) : (s.watch false va pa n).blk b = s.blk b := by
  unfold State.watch State.watchWord
  simp only [Bool.false_and, Bool.false_eq_true, if_false]
  split
  · rfl
  split <;> rfl

theorem walkMark_walks (e : Word) (addr : Nat) (kind : Access) (b : Nat) : ((s.walkMark e addr kind).1.blk b).walks = (s.blk b).walks := by
  unfold State.walkMark
  simp only
  split
  · change (((s.watch false 0 addr 8).noteWrite none none addr 8).blk b).walks = _
    rw [noteWrite_blk, watch_plain_blk]
  · rfl

/-- A walk's translation changes no list of walks and no block's own tier. -/
theorem walkFill_blk (x : TlbEntry) (who : Walker) (b : Nat) :
    ((s.walkFill x who).blk b).walks = (s.blk b).walks ∧ ((s.walkFill x who).blk b).tlb = (s.blk b).tlb := by
  cases who with
  | thread g => exact ⟨rfl, rfl⟩
  | agen m =>
    unfold State.walkFill State.modAgen
    simp only
    split <;> exact ⟨rfl, rfl⟩
  | xport p =>
    by_cases hb : b = p / 4
    · subst hb
      simp [State.walkFill, State.modXport]
    · simp [State.walkFill, State.modXport, State.modBlk_other _ _ _ _ hb]

theorem foldl_walkFill_blk (x : TlbEntry) (b : Nat) : ∀ (l : List Walker) (s : State),
    ((l.foldl (fun s who => s.walkFill x who) s).blk b).walks = (s.blk b).walks ∧
      ((l.foldl (fun s who => s.walkFill x who) s).blk b).tlb = (s.blk b).tlb
  | [], s => ⟨rfl, rfl⟩
  | who :: l, s => by
    obtain ⟨hwalks, htlb⟩ := foldl_walkFill_blk x b l (s.walkFill x who)
    obtain ⟨hwalks', htlb'⟩ := walkFill_blk (s := s) x who b
    exact ⟨hwalks.trans hwalks', htlb.trans htlb'⟩

/-- The entry just made stays, the oldest give way. -/
theorem mem_tlbAdd {cap : Nat} (hcap : 0 < cap) (l : List TlbEntry) (x : TlbEntry) : x ∈ tlbAdd cap l x := by
  rw [tlbAdd, List.drop_append_of_le_length (by omega)]
  exact List.mem_append_right _ (List.mem_singleton_self _)

/-- Settles O41: each event is the one branch of its meaning that its hypotheses leave. -/
theorem threadEvents : Obligations.ThreadEvents := by
  refine ⟨fun s g p rest hrun hpend hleft hready hfault hrest => ?_, fun s k p rest hrun hpend hleft hready hfault hrest => ?_,
    fun s g hrun hdue hn hall => ?_, fun s g c l hrun huie hinuh hcomps hdue hspec hpend => ?_, fun s b i w e l a hw hi hleaf => ?_⟩
  · exact ⟨_, _, exec_resultCommit_thread hrun hpend hleft hready hfault hrest, rfl, State.modThread_same _ _ _,
      committed_commit hfault rest⟩
  · exact ⟨_, _, exec_resultCommit_core hrun hpend hleft hready hrest, rfl, State.modTcore_same _ _ _, committed_commit hfault rest⟩
  · have hready : (s.thread g).ctx.pend.all Pending.ready = true := List.all_eq_true.mpr fun p hp => (hall p hp).1
    refine ⟨windowsClosed s g, ?_, rfl, ?_⟩
    · change execWindowForcedClose g s = _
      rw [execWindowForcedClose, if_pos ⟨hrun, hdue, hn, hready⟩, closeThread_of_sound (firstFault_of_sound fun p hp => (hall p hp).2)]
    · rw [windowsClosed_thread]
      exact ⟨rfl, close_pc, hrun⟩
  · have hdiv : (s.thread g).diverts = true := by simp [Thread.diverts, huie, hinuh, hcomps]
    have hthread : (windowsClosed s g).thread g = s.thread g := by rw [windowsClosed_thread, close_of_nil hpend]
    refine ⟨(windowsClosed s g).modThread g Thread.divert, ?_, rfl, ?_⟩
    · change execCompletionDiversion g s = _
      rw [execCompletionDiversion, if_pos ⟨hrun, hdiv, hdue⟩, if_neg (by simp [hspec]), State.boundary, if_pos (by simp [Thread.atBoundary, hpend]),
        closeThread_of_sound (by rw [hpend]; rfl)]
      rfl
    · rw [State.modThread_same, hthread, Thread.divert, hcomps, ← bundleAddr_eq]
      exact ⟨rfl, rfl, rfl, rfl, rfl⟩
  · change ∃ t, execTlbWalk b i s = .next t ∧ _
    simp only [execTlbWalk, hw, hleaf, if_neg (show ¬ i ≥ 32 by omega)]
    refine ⟨_, rfl, ?_, ?_⟩
    · rw [(foldl_walkFill_blk _ b _ _).1, State.modBlk_same, walkMark_walks, State.modBlk_same]
    · rw [(foldl_walkFill_blk _ b _ _).2, State.modBlk_same]
      dsimp only
      exact ⟨_, mem_tlbAdd (by decide) _ _, rfl, rfl⟩

end Sys2Proof.Claims
end

section
/-!
PROOFS. Events of the rotunda and of the commit arbiter: records that arrive, are admitted and promoted, and ordered tasks that restart and
commit (R283 to R288, R342 to R347, R384, R385).
-/
namespace Sys2Proof.Claims
open Sys2Proof.Machine

variable {s t : State} {f g : Nat}

/-! ## Arriving records (R384, R385) -/

/-- The fields of a state that has queued a record for which nobody waits. -/
theorem enqueue_quiet {x : Rec} (hn : x.notify = .nobody) :
    ∃ y grp, (s.enqueue f x).mem = s.mem ∧ ((s.enqueue f x).field f).arr = (s.field f).arr ∧
      Tab.get [] ((s.enqueue f x).field f).queues x.queuePrio = Tab.get [] (s.field f).queues x.queuePrio ++ [y] ∧
      y.data = x.data ∧ y.entry = x.entry ∧ y.since = s.ns ∧ (s.enqueue f x).group y.group = some grp ∧
      grp.left = x.size ∧ grp.ticket = recTicket x.data := by
  have hgroup := fun grp => Tab.get_set_same (d := (none : Option Group)) s.dev.groups s.fresh (some grp)
  simp only [State.enqueue, hn, State.notify]
  refine ⟨{ x with notify := .nobody, prio := x.queuePrio, group := s.fresh, since := s.ns, task := if x.isTask then some s.fresh else none },
    _, rfl, ?_, ?_, rfl, rfl, rfl, hgroup _, rfl, rfl⟩
  · rw [State.modField_same]
    rfl
  · rw [State.modField_same]
    exact Tab.get_set_same _ _ _

/-- A result that no response is for takes nothing. -/
theorem map_arrive_of_none {l : List Pending} {tok : Nat} {x : VWord} (h : l.any (fun p => p.awaits tok) = false) :
    l.map (Pending.arrive tok x none) = l := by
  refine (List.map_congr_left fun p hp => ?_).trans l.map_id
  rw [Pending.arrive, if_neg (by simpa using List.any_eq_false.mp h p hp)]
  rfl

theorem pendGot_pend (tok : Nat) (x : VWord) :
    ((s.pendGot g tok x none).thread g).ctx.pend = (s.thread g).ctx.pend.map (Pending.arrive tok x none) := by
  rw [State.pendGot, State.modThread_same]
  split
  · rfl
  · rename_i h
    exact (map_arrive_of_none (by simpa using h)).symm

/-! ## Admission (R283 to R286) -/

/-- What the reservations of the heads behind leave. -/
structure Reserved (f : Nat) (s t : State) : Prop where
  mem       : t.mem = s.mem
  threads   : t.threads = s.threads
  queues    : (t.field f).queues = (s.field f).queues
  lastAdmit : (t.field f).lastAdmit = (s.field f).lastAdmit

theorem Reserved.rfl : Reserved f s s := ⟨.refl _, .refl _, .refl _, .refl _⟩

theorem Reserved.trans {u : State} (h : Reserved f s t) (h' : Reserved f t u) : Reserved f s u :=
  ⟨h'.mem.trans h.mem, h'.threads.trans h.threads, h'.queues.trans h.queues, h'.lastAdmit.trans h.lastAdmit⟩

theorem reserved_reserveHead (k : Nat) (h : Head) : Reserved f s (s.reserveHead f k h) := by
  unfold State.reserveHead
  split
  · exact .rfl
  split
  · exact .rfl
  · exact ⟨rfl, rfl, by rw [State.modField_same], by rw [State.modField_same]⟩

theorem reserved_reserveRest : ∀ (ks : List Nat) (s : State), Reserved f s (s.reserveRest f ks)
  | [], s => .rfl
  | k :: ks, s => by
    rw [State.reserveRest]
    split
    · exact reserved_reserveRest ks s
    split
    · exact reserved_reserveRest ks s
    · exact (reserved_reserveHead _ _).trans (reserved_reserveRest ks _)

/-- A block that is asked to wake offers the slots that it offered. -/
theorem wakeBlk_slotsFor (b k c : Nat) (fresh : Bool) : (s.wakeBlk b).slotsFor f k c fresh = s.slotsFor f k c fresh := by
  have hexists : (s.wakeBlk b).coreExists c = s.coreExists c := by
    unfold State.wakeBlk
    split
    · by_cases hb : c / 16 = b
      · simp [State.coreExists, hb]
      · simp only [State.coreExists, State.modBlk_other _ _ _ _ hb]
    all_goals rfl
  have hfree : (s.wakeBlk b).freeSlots c fresh = s.freeSlots c fresh := by
    unfold State.wakeBlk
    split <;> rfl
  have hfield : (s.wakeBlk b).field f = s.field f := by
    unfold State.wakeBlk
    split <;> rfl
  rw [State.slotsFor, State.slotsFor, hexists, hfree, hfield]

theorem wakeBlk_fields (b : Nat) : (s.wakeBlk b).fields = s.fields := by unfold State.wakeBlk; split <;> rfl
theorem wakeBlk_mem (b : Nat) : (s.wakeBlk b).mem = s.mem := by unfold State.wakeBlk; split <;> rfl
theorem wakeBlk_dev (b : Nat) : (s.wakeBlk b).dev = s.dev := by unfold State.wakeBlk; split <;> rfl

/-- The scalar registers of an entry state without a token (R45). -/
theorem setRegs_entry (a : Nat → Word) (i n st : Word) :
    let v := setRegs Ctx.zero.s (((List.range 4).map fun k => (4 + k, a k)) ++ [(8, i), (9, n), (2, st)])
    (∀ k (h : k < 4), v[4 + k]'(by omega) = a k) ∧ v[2] = st ∧ v[8] = i ∧ v[9] = n := by
  simp only [List.range, List.range.loop, List.map_cons, List.map_nil, List.cons_append, List.nil_append, setRegs]
  refine ⟨fun k hk => ?_, ?_, ?_, ?_⟩
  · interval_cases k <;> simp
  · simp
  · simp
  · simp

/-- The state of the one member of an admitted record without a token. -/
theorem start_entry {r : Rec} {e : HEntry} (hentry : r.entry = some e) (hgsz : e.gsz = 0) (htoken : r.token = none) (g : Nat) (tvec : Word)
    (uid : Nat) : (r.start 0 g tvec uid).run = .run ∧ (r.start 0 g tvec uid).sv = e.sv ∧
      (r.start 0 g tvec uid).ctx.pc = e.code &&& 0xFFFFFFFFFFFF8#64 ∧
      (∀ k, k < 4 → (r.start 0 g tvec uid).ctx.rS (BitVec.ofNat 5 (4 + k)) = recArg r.data k) ∧
      (r.start 0 g tvec uid).ctx.rS 2 = BitVec.ofNat 64 (e.sbase.toNat + e.ssz * (g + 1)) ∧
      (r.start 0 g tvec uid).ctx.rS 8 = 0 ∧ (r.start 0 g tvec uid).ctx.rS 9 = 1 ∧ (r.start 0 g tvec uid).ctx.v = Ctx.zero.v ∧
      (r.start 0 g tvec uid).ehand = tvec := by
  have hsize : r.size = 1 := by
    unfold Rec.size
    split <;> simp_all
  obtain ⟨hargs, hstack, hmember, hcount⟩ := setRegs_entry (recArg r.data) (wd 0) (wd 1) (e.sbase + wd (e.ssz * (g + 1)))
  have hstacked : e.sbase + wd (e.ssz * (g + 1)) = BitVec.ofNat 64 (e.sbase.toNat + e.ssz * (g + 1)) := by
    rw [wd, BitVec.ofNat_add, BitVec.ofNat_toNat, BitVec.setWidth_eq]
  simp only [Rec.start, hentry, htoken, hsize, ← bundleAddr_eq, true_and, and_true]
  refine ⟨fun k hk => ?_, hstack.trans hstacked, hmember, hcount⟩
  refine Eq.trans ?_ (hargs k hk)
  interval_cases k <;> rfl

/-- A record of one member without a task is admitted in the lowest slot. -/
theorem admitHead_record {k c : Nat} {r : Rec} {e : HEntry} (hentry : r.entry = some e) (hgsz : e.gsz = 0) (hpref : r.pref = .field)
    (hslot : (s.slotsFor f k c true).head? = some g) :
    (s.admitHead f k c (.record r)).mem = s.mem ∧
      Tab.get [] ((s.admitHead f k c (.record r)).field f).queues k = (Tab.get [] (s.field f).queues k).drop 1 ∧
      ((s.admitHead f k c (.record r)).field f).lastAdmit = some s.ns ∧
      (s.admitHead f k c (.record r)).thread g = r.start 0 g s.dev.tvec s.fresh := by
  have hsize : r.size = 1 := by
    unfold Rec.size
    split <;> simp_all
  have htake : ((s.wakeBlk (c / 16)).slotsFor f k c true).take r.size = [g] := by
    rw [wakeBlk_slotsFor, hsize]
    obtain ⟨l, hl⟩ := List.head?_eq_some_iff.mp hslot
    rw [hl]
    rfl
  have hfield : (s.wakeBlk (c / 16)).field f = s.field f := by rw [State.field, wakeBlk_fields]; rfl
  have hfresh : (s.wakeBlk (c / 16)).fresh = s.fresh := by unfold State.wakeBlk; split <;> rfl
  simp only [State.admitHead, htake, State.place, State.enterTask, hpref]
  refine ⟨wakeBlk_mem _, ?_, ?_, ?_⟩
  · rw [State.setThread_field, State.next_field, State.modField_same, hfield]
    exact Tab.get_set_same _ _ _
  · rw [State.setThread_field, State.next_field, State.modField_same]
  · rw [State.setThread_same]
    simp only [State.modField_dev, State.modField_fresh, wakeBlk_dev, hfresh]

/-! ## Promotion (R288) -/

theorem exec_recordPromotion {q : Nat} {r : Rec} {l : List Rec} (hqueue : Tab.get [] (s.field f).queues q = r :: l) (hq1 : 1 ≤ q)
    (hq3 : q ≤ 3) (hsince : r.since + 64000 ≤ s.ns) (hroom : (Tab.get [] (s.field f).queues (q - 1)).length < 256) :
    exec (.recordPromotion f q) s = .next (s.modField f fun x =>
      { x with
        queues := Tab.upd [] (Tab.set [] x.queues q l) (q - 1) fun u => u ++ [{ r with prio := q - 1, since := s.ns }]
        resv := Tab.set 0 x.resv q 0 }) := by
  change execRecordPromotion f q s = _
  rw [execRecordPromotion, hqueue]
  simp only
  rw [if_pos ⟨hq1, hq3, hsince, hroom⟩]

/-! ## Ordered tasks (R345 to R347) -/

/-- A fold keeps what each of its steps keeps. -/
theorem foldl_keeps {α β : Type} (P : State → β) {F : State → α → State} (h : ∀ s a, P (F s a) = P s) :
    ∀ (l : List α) (s : State), P (l.foldl F s) = P s
  | [], _ => rfl
  | a :: l, s => (foldl_keeps P h l (F s a)).trans (h s a)

theorem leaveGroup_mem (grp : Option Nat) : (s.leaveGroup grp).mem = s.mem := by
  unfold State.leaveGroup
  split
  · rfl
  split <;> rfl

theorem discardTask_mem (b n : Nat) : (s.discardTask b n).mem = s.mem := by
  unfold State.discardTask
  simp only
  refine (foldl_keeps State.mem (fun s k => ?_) _ _).trans (foldl_keeps State.mem (F := fun s i => s.setGroup i none) (fun _ _ => rfl) _ s)
  split
  · exact leaveGroup_mem _
  · rfl

theorem compsOut_mem (l : List Completion) : (s.compsOut g l).mem = s.mem :=
  foldl_keeps State.mem (F := fun s c => s.compRec g c) (fun _ _ => rfl) l s

theorem compsOut_threads (l : List Completion) : (s.compsOut g l).threads = s.threads :=
  foldl_keeps State.threads (F := fun s c => s.compRec g c) (fun _ _ => rfl) l s

/-- A thread without a group ends and leaves its slot free. -/
theorem endThread_alone (hgroup : (s.thread g).group = none) (reply : Bool) (d a c : Word) :
    (s.endThread g reply d a c).mem = s.mem ∧ (s.endThread g reply d a c).thread g = {} := by
  simp only [State.endThread, hgroup, State.endMember]
  constructor
  · rw [compsOut_mem]
    split <;> rfl
  · rw [State.thread, compsOut_threads]
    exact State.setThread_same _ g {}

theorem writeKept_setMem (m : List Host.Cell) : WriteKept s { s with mem := m } :=
  ⟨rfl, rfl, rfl, rfl, rfl, fun _ h => h, fun _ => rfl⟩

theorem writeKept_modTask (b n : Nat) (F : Task → Task) : WriteKept s (s.modTask b n F) :=
  ⟨rfl, rfl, rfl, rfl, rfl, fun _ h => h, fun _ => rfl⟩

/-- What the arbiter does for one line of the buffer that it commits (R347, R360). -/
def commitLine (b : Nat) (k : Task) (s : State) (l : Nat) : State :=
  let sw := k.sws.find? fun e => decide (e.1 = l)
  ((s.endSync (l * 64) 64).watch sw.isSome ((sw.map Prod.snd).getD 0 * 64) (l * 64) 64).noteWrite (some k.g) (some (b, k.num)) (l * 64) 64

theorem commitBuf_eq (b : Nat) (k : Task) : s.commitBuf b k =
    ((({ (bufLines k.buf).foldl (commitLine b k) s with
      mem := writeBuf ((bufLines k.buf).foldl (commitLine b k) s).mem (k.buf.filter fun e => !s.mailByte e.1) }).writeRegs k.buf).forgetMail
        fun a => (Tab.get none k.buf a).isSome).modTask b k.num fun k => { k with buf := [], sws := [], vas := [], marks := [] } := rfl

theorem writeRegs_of_none {l : Tab (Option Byte)} (h : ∀ e ∈ l, homeOf e.1 ≠ some .regs) : s.writeRegs l = s := by
  have hnone : (l.filter fun e => homeOf e.1 == some .regs && e.2.isSome) = [] :=
    List.filter_eq_nil_iff.mpr fun e he => by simp [h e he]
  rw [State.writeRegs, hnone]
  rfl

theorem mem_bufLines {l : Tab (Option Byte)} {i : Nat} (h : i ∈ bufLines l) : ∃ e ∈ l, e.1 / 64 = i := by
  simpa [bufLines, List.mem_eraseDups] using h

section
variable {b : Nat} {k : Task} (hsws : k.sws = [])
include hsws

theorem commitLine_kept {l : Nat} (hcalm : Calm s (l * 64) 64) : WriteKept s (commitLine b k s l) ∧ (commitLine b k s l).mem = s.mem := by
  have hplain : commitLine b k s l = (s.watch false 0 (l * 64) 64).noteWrite (some k.g) (some (b, k.num)) (l * 64) 64 := by
    simp only [commitLine, hsws, endSync_of_calm hcalm, List.find?_nil, Option.isSome_none, Option.map_none, Option.getD_none, Nat.zero_mul]
  rw [hplain]
  refine ⟨(writeKept_watch_plain _ _ _).trans (writeKept_noteWrite _ _ _ _), ?_⟩
  change (s.watch false 0 (l * 64) 64).mem = s.mem
  unfold State.watch State.watchWord
  simp only [Bool.false_and, Bool.false_eq_true, if_false]
  split
  · rfl
  split <;> rfl

theorem commitLines_kept : ∀ (ls : List Nat) (s : State), (∀ l ∈ ls, Calm s (l * 64) 64) →
    WriteKept s (ls.foldl (commitLine b k) s) ∧ (ls.foldl (commitLine b k) s).mem = s.mem
  | [], s, _ => ⟨.rfl, rfl⟩
  | l :: ls, s, h => by
    obtain ⟨hl, hls⟩ := List.forall_mem_cons.mp h
    obtain ⟨hkept, hmem⟩ := commitLine_kept (b := b) hsws hl
    obtain ⟨hkept', hmem'⟩ := commitLines_kept ls (commitLine b k s l) fun i hi => hkept.calm (hls i hi)
    exact ⟨hkept.trans hkept', hmem'.trans hmem⟩

/-- A buffer without words of register pages, whose lines are calm, commits its bytes and nothing else (R347). -/
theorem commitBuf_kept (hregs : ∀ e ∈ k.buf, homeOf e.1 ≠ some .regs) (hcalm : ∀ e ∈ k.buf, Calm s (e.1 / 64 * 64) 64) :
    WriteKept s (s.commitBuf b k) ∧ (s.commitBuf b k).mem = writeBuf s.mem (k.buf.filter fun e => !s.mailByte e.1) := by
  obtain ⟨hkept, hmem⟩ := commitLines_kept (b := b) hsws (bufLines k.buf) s fun l hl => by
    obtain ⟨e, he, rfl⟩ := mem_bufLines hl
    exact hcalm e he
  rw [commitBuf_eq, writeRegs_of_none hregs, hmem]
  exact ⟨((hkept.trans (writeKept_setMem _)).trans (writeKept_forgetMail _)).trans (writeKept_modTask _ _ _), State.forgetMail_mem _ _⟩

end

/-- Settles O42: each event by the law of what it changes. -/
theorem rotundaAndArbiterEvents : Obligations.RotundaAndArbiterEvents := by
  refine ⟨fun s f r x l harr hjudge hn => ?_, fun s f g tok code r l sv harr hjudge hsender hn hlanes => ?_,
    fun s f c g r l e hlast hlists hqueue hfits hslot hentry hgsz htoken hpref => ?_,
    fun s f q r l hqueue hq1 hq3 hsince hroom => ?_, fun s f q hfull => ?_, fun s g k htask hhit hspec => ?_,
    fun s g k htask hrun hold => ?_, fun s b k l reply d a c htasks hhit hsws hrun hgroup htask hregs hcalm => ?_⟩
  · obtain ⟨y, grp, hmem, harr', hqueue, hdata, hentry, hsince, hgroup, hleft, hticket⟩ :=
      enqueue_quiet (s := s.modField f fun x => { x with arr := l }) (f := f) hn
    refine ⟨_, y, ?_, hmem, ?_, ?_, hdata, hentry, hsince, grp, hgroup, hleft, hticket⟩
    · change execRecordArrival f s = _
      rw [execRecordArrival, harr]
      simp only [hjudge]
    · rw [harr', State.modField_same]
    · rw [hqueue, State.modField_same]
  · have hanswer : (s.modField f fun x => { x with arr := l }).refuse r code =
        (s.modField f fun x => { x with arr := l }).pendGot g tok (statusOf 0 0 code) none := by
      rw [State.refuse, hsender]
      simp only [hn, State.notify, State.pendDone]
      rw [show (s.modField f fun x => { x with arr := l }).lanesLeft g tok = none from hlanes]
    refine ⟨(s.modField f fun x => { x with arr := l }).pendGot g tok (statusOf 0 0 code) none, ?_, rfl, ?_, ?_⟩
    · change execRecordArrival f s = _
      rw [execRecordArrival, harr]
      simp only [hjudge, hanswer]
    · rw [State.pendGot, State.modThread_field, State.modField_same]
    · rw [pendGot_pend, State.modField_thread]
      simp [statusOf]
  · obtain ⟨hmem, hqueues, hadmit, hthread⟩ := admitHead_record hentry hgsz hpref hslot
    have hrest := reserved_reserveRest (f := f) [5, 1, 6, 2, 7, 3] (s.admitHead f 0 c (.record r))
    have hnone : (s.field f).headOf 4 = none := by simp [Field.headOf, hlists]
    have hhead : (s.field f).headOf 0 = some (.record r) := by simp [Field.headOf, hqueue]
    obtain ⟨hrun, hsv, hpc, hargs, hstack, hmember, hcount, hv, hehand⟩ := start_entry hentry hgsz htoken g s.dev.tvec s.fresh
    refine ⟨(s.admitHead f 0 c (.record r)).reserveRest f [5, 1, 6, 2, 7, 3], ?_, hrest.mem.trans hmem, hrest.lastAdmit.trans hadmit, ?_, ?_⟩
    · change execRotundaAdmit f s = _
      rw [execRotundaAdmit, if_neg hlast, headOrder, State.admitFirst, hnone]
      simp only
      rw [State.admitFirst, hhead]
      simp only [hfits]
    · rw [hrest.queues, hqueues, hqueue]
      rfl
    · have hthread' : ((s.admitHead f 0 c (.record r)).reserveRest f [5, 1, 6, 2, 7, 3]).thread g = r.start 0 g s.dev.tvec s.fresh := by
        rw [State.thread, hrest.threads]
        exact hthread
      rw [hthread']
      exact ⟨hrun, hsv, hpc, hargs, hstack, hmember, hcount, hv, hehand⟩
  · refine ⟨_, exec_recordPromotion hqueue hq1 hq3 hsince hroom, rfl, ?_, ?_⟩
    · rw [State.modField_same]
      exact (Tab.get_set_other _ _ _ _ (by omega)).trans (Tab.get_set_same _ _ _)
    · rw [State.modField_same]
      refine (Tab.get_set_same _ _ _).trans ?_
      rw [Tab.get_set_other _ _ _ _ (by omega)]
  · change execRecordPromotion f q s = _
    rw [execRecordPromotion]
    split
    · rfl
    · rw [if_neg (by omega)]
  · refine ⟨s.abortRestart g, ?_, ?_, ?_⟩
    · change execTaskConflictAbort g s = _
      simp only [execTaskConflictAbort, htask, hhit, hspec, and_self, if_true]
    · simp only [State.abortRestart, htask]
      exact discardTask_mem _ _
    · simp only [State.abortRestart, htask, State.modThread_same]
      exact ⟨rfl, rfl, rfl⟩
  · refine ⟨(s.modTask (unitBlk g) k.num fun k => { k with plain := true }).modThread g fun t => { t with run := .run, spec := false }, ?_, rfl,
      State.modThread_same _ _ _⟩
    change execTaskPlainRestart g s = _
    simp only [execTaskPlainRestart, htask, hrun, hold, and_self, if_true]
  · obtain ⟨hkept, hmem⟩ := commitBuf_kept (b := b) hsws hregs hcalm
    have hgroup' : ((s.commitBuf b k).thread k.g).group = none := (congrArg Thread.group (hkept.thread k.g) :).trans hgroup
    obtain ⟨hend, hfree⟩ := endThread_alone hgroup' reply d a c
    refine ⟨(s.commitBuf b k).endThread k.g reply d a c, ?_, hend.trans hmem, by rw [hfree]⟩
    change execTaskCommit b s = _
    simp only [execTaskCommit, htasks, hrun]
    rw [if_neg (by simp [hhit, htask])]

end Sys2Proof.Claims
end

section
/-!
PROOFS. Events always answer a next state: no arm of an event refuses.
-/
namespace Sys2Proof.Claims
open Sys2Proof.Machine

variable {s : State} {g : Nat}

theorem boundary_next (k : State → State) : ∃ u, s.boundary g k = .next u := by
  unfold State.boundary
  split <;> exact ⟨_, rfl⟩

theorem haltTaken_next : ∃ u, s.haltTaken g = .next u := by
  unfold State.haltTaken
  simp only
  split
  · exact ⟨_, rfl⟩
  · exact boundary_next _

theorem preemptTrapTaken_next (l : List Due) : ∃ u, s.preemptTrapTaken g l = .next u := by
  unfold State.preemptTrapTaken
  simp only
  split
  · exact ⟨_, rfl⟩
  split
  · exact ⟨_, rfl⟩
  · exact boundary_next _

theorem dueTaken_next (d : Due) (l : List Due) : ∃ u, (if d.trap then s.preemptTrapTaken g l else s.haltTaken g) = .next u := by
  split
  · exact preemptTrapTaken_next _
  · exact haltTaken_next

theorem agenRun_next {m : Nat} {a : Agen} {o : Out} (h : ∃ u, o = .next u) : ∃ u, s.agenRun m a o = .next u := by
  unfold State.agenRun
  split
  · split <;> exact ⟨_, rfl⟩
  · split
    · exact h
    · exact ⟨_, rfl⟩

theorem withReq_next (c : BCmd) (n : Nat) (k : List Byte → State → State) : ∃ u, s.withReq c n k = .next u := by
  unfold State.withReq
  split <;> exact ⟨_, rfl⟩

theorem exec_preemptHaltTaken_next (u : UnitRef) : ∃ t, exec (.preemptHaltTaken u) s = .next t := by
  change ∃ t, execPreemptHaltTaken u s = .next t
  unfold execPreemptHaltTaken
  cases u with
  | thread g =>
    simp only
    split
    · exact ⟨_, rfl⟩
    split
    · exact dueTaken_next _ _
    · exact dueTaken_next _ _
    · exact dueTaken_next _ _
    all_goals exact ⟨_, rfl⟩
  | core k =>
    simp only
    split <;> exact ⟨_, rfl⟩

theorem exec_completionDiversion_next (g : Nat) : ∃ t, exec (.completionDiversion g) s = .next t := by
  change ∃ t, execCompletionDiversion g s = .next t
  unfold execCompletionDiversion
  simp only
  split
  · split
    · exact ⟨_, rfl⟩
    · exact boundary_next _
  · exact ⟨_, rfl⟩

theorem exec_agenLoadToken_next (m : Nat) : ∃ t, exec (.agenLoadToken m) s = .next t := by
  change ∃ t, execAgenLoadToken m s = .next t
  unfold execAgenLoadToken
  split
  · exact ⟨_, rfl⟩
  split
  · exact ⟨_, rfl⟩
  refine agenRun_next ?_
  split
  · exact ⟨_, rfl⟩
  · split <;> exact ⟨_, rfl⟩

theorem exec_agenStoreToken_next (m : Nat) : ∃ t, exec (.agenStoreToken m) s = .next t := by
  change ∃ t, execAgenStoreToken m s = .next t
  unfold execAgenStoreToken
  split
  · exact ⟨_, rfl⟩
  split
  · exact ⟨_, rfl⟩
  refine agenRun_next ?_
  split
  · exact ⟨_, rfl⟩
  · split <;> exact ⟨_, rfl⟩

theorem exec_doneArrival_next (m : Nat) : ∃ t, exec (.doneArrival m) s = .next t := by
  change ∃ t, execDoneArrival m s = .next t
  unfold execDoneArrival
  split
  · exact ⟨_, rfl⟩
  split
  · exact ⟨_, rfl⟩
  refine agenRun_next ?_
  split <;> exact ⟨_, rfl⟩

theorem exec_graphLoad_next : ∃ t, exec .graphLoad s = .next t := by
  change ∃ t, execGraphLoad s = .next t
  unfold execGraphLoad
  split
  · split
    · exact ⟨_, rfl⟩
    split
    · exact ⟨_, rfl⟩
    · split <;> exact ⟨_, rfl⟩
  · exact ⟨_, rfl⟩
  · split
    · exact ⟨_, rfl⟩
    · exact withReq_next _ _ _

theorem exec_graphUnload_next : ∃ t, exec .graphUnload s = .next t := by
  change ∃ t, execGraphUnload s = .next t
  unfold execGraphUnload
  split
  · split
    · exact ⟨_, rfl⟩
    split
    · exact ⟨_, rfl⟩
    · split <;> exact ⟨_, rfl⟩
  · exact ⟨_, rfl⟩
  · split
    · exact ⟨_, rfl⟩
    · exact withReq_next _ _ _

/-- The commands of the belvedere that are done at once, from their request. -/
theorem headCmd_next {n : Nat} {k : BCmd → Out} (h : ∀ c, ∃ t, k c = .next t) :
    ∃ t, (match s.headCmd n with
      | none => .next s
      | some c => k c : Out) = .next t := by
  split
  · exact ⟨_, rfl⟩
  · exact h _

/-- An event leads to a next state, whatever it meets: those that run through a shared operation by its lemma, the others by their
branches. -/
theorem exec_event_next (i : Instr) (s : State) (h : isEvent i = true) : ∃ t, exec i s = .next t := by
  cases i <;> cases h
  case preemptHaltTaken u => exact exec_preemptHaltTaken_next u
  case completionDiversion g => exact exec_completionDiversion_next g
  case agenLoadToken m => exact exec_agenLoadToken_next m
  case agenStoreToken m => exact exec_agenStoreToken_next m
  case doneArrival m => exact exec_doneArrival_next m
  case graphLoad => exact exec_graphLoad_next
  case graphUnload => exact exec_graphUnload_next
  case verifyImage => exact headCmd_next fun c => withReq_next c _ _
  case attestationReport => exact headCmd_next fun c => withReq_next c _ _
  case jobStart => exact headCmd_next fun c => withReq_next c _ _
  all_goals
    unfold exec
    dsimp only
    dsimp only [execTlbWalk, execResultCommit, execWindowForcedClose, execThreadWake, execWfitDeadline, execStorePerform, execRemoteAck,
    execCombineWindowExpiry, execRecordArrival, execRotundaAdmit, execRecordPromotion, execTaskConflictAbort, execTaskPlainRestart,
    execTaskCommit, execCommandEntry, execBusyRetry, execGateOpen, execTransferStart, execTransferWrite, execRangeLockRelease,
    execTransferCompletion, execViaTransferFinish, execSyncUpdateCycle, execSyncCarryEval, execFlitForward, execPortTokenArrival,
    execStreamerSend, execRingPlace, execPlacingAreaWrite, execInboundStreamerWrite, execConverterFiring, execAdderPair,
    execMatrixOpStart, execMatrixOpEnd, execStallLimit, execContextSwitch, execConfigurationFlit, execSpliceSwitch, execSpliceMarker,
    execEscapeReentry, execGraphEnd, execFaultNotice, execFaultRecordWrite, execFutureResolve, execCompileStart, execCompileEnd,
    execMailboxWrite, execInvokeRetry, execInvokeTimeout, execReplyResend, execAnswerFrame, execPacketReceive, execFrameReceive,
    execRetryRequest, execIdleFrame, execFrameForward, execPortRetrain, execPortDown, execDownPortRetrain, execCampanileSlew,
    execClockStretch, execPowerGate, execBlockWake, execBucketRefill, execEffAdjust, execThermalShutdown, execColdReset,
    execPhaseComplete, execPcieHotReset, execPostingWrite, execSpillDraw, execReplyRingWrite, execReplyRingRetry, execBar2Read,
    execBar2Write, execSetWrite, execFqbaseWrite, execWatchConfigWrite, execRegisterWrite, execJobEnd, execPlannedRetirement,
    execFailedRetirement, execSupplyDroopEnd, execRetrainComplete, execSpdmRequest]
    (repeat' split) <;> exact ⟨_, rfl⟩

end Sys2Proof.Claims
end

section
/-!
PROOFS. A step: fetch, bundle and turn (R18, R69, R72, R221, R278, R301), and what goes out behind it.
-/
namespace Sys2Proof.Claims
open Sys2Proof.Machine

variable {s t u : State} {g k : Nat}

/-! ## What goes out behind a step (R338, R409) -/

/-- Packets that are sent change the device's own tables and the numbers handed out, and nothing else. -/
def SentOnly (s t : State) : Prop := ∃ d n, t = { s with dev := d, fresh := n }

theorem SentOnly.rfl : SentOnly s s := ⟨_, _, .refl _⟩

theorem SentOnly.trans (h : SentOnly s t) (h' : SentOnly t u) : SentOnly s u := by
  obtain ⟨d, n, rfl⟩ := h
  obtain ⟨d', n', rfl⟩ := h'
  exact ⟨d', n', .refl _⟩

theorem sentOnly_modDev (f : Dev → Dev) : SentOnly s (s.modDev f) := ⟨_, _, .refl _⟩

theorem sentOnly_next : SentOnly s s.next := ⟨_, _, .refl _⟩

theorem sentOnly_portSend (p : Nat) (fs : List Frame) : SentOnly s (s.portSend p fs) := ⟨_, _, .refl _⟩

theorem sentOnly_sendPacket {dest sname : Nat} {kind : Option PKind} {l : List Flit} (h : s.sendPacket dest sname kind l = some t) :
    SentOnly s t := by
  unfold State.sendPacket at h
  split at h
  · cases h
  · simp only at h
    split at h
    · cases h
      exact (sentOnly_modDev _).trans (sentOnly_portSend _ _)
    · cases h
      split
      · exact (sentOnly_modDev _).trans (sentOnly_modDev _)
      · exact ((sentOnly_modDev _).trans (sentOnly_modDev _)).trans (sentOnly_portSend _ _)

theorem sentOnly_getD {o : Option State} (h : ∀ t, o = some t → SentOnly s t) : SentOnly s (o.getD s) := by
  cases o with
  | none => exact .rfl
  | some t => exact h t (Eq.refl _)

theorem sentOnly_answer (dev : Nat) (esn : BitVec 32) (st : BitVec 8) : SentOnly s (s.answer dev esn st) := by
  unfold State.answer State.sendAnswer
  split
  · exact sentOnly_modDev _
  · exact (sentOnly_modDev _).trans (sentOnly_portSend _ _)

theorem sentOnly_respond (dev : Nat) (esn : BitVec 32) (tag : Nat) (x : BitVec 256) : SentOnly s (s.respond dev esn tag x) :=
  (sentOnly_getD fun _ h => sentOnly_sendPacket h).trans (sentOnly_answer _ _ _)

theorem sentOnly_farPieces (kind : PKind) (dev : Nat) : ∀ (l : List (Nat × Nat × List Byte)) {s t : State},
    s.farPieces kind dev l = some t → SentOnly s t
  | [], s, t, h => by cases h; exact .rfl
  | (a, form, l) :: ps, s, t, h => by
    rw [State.farPieces] at h
    split at h
    next hsend => exact ((sentOnly_sendPacket hsend).trans sentOnly_next).trans (sentOnly_farPieces kind dev ps h)
    next => cases h

theorem sentOnly_foldl {α : Type} {f : State → α → State} (h : ∀ s a, SentOnly s (f s a)) : ∀ (l : List α) (s : State),
    SentOnly s (l.foldl f s)
  | [], _ => .rfl
  | a :: l, s => (h s a).trans (sentOnly_foldl h l (f s a))

theorem sentOnly_flushed (s : State) : SentOnly s s.flushed := by
  have hsync : SentOnly s (if s.dev.sresp = [] then s else s.sendSync) := by
    split
    · exact .rfl
    · exact (sentOnly_modDev _).trans (sentOnly_foldl (fun _ _ => sentOnly_respond _ _ _ _) _ _)
  have hout : ∀ u : State, SentOnly u (if u.dev.outw = [] then u else u.sendOut) := fun u => by
    split
    · exact .rfl
    · exact (sentOnly_modDev _).trans (sentOnly_foldl (fun _ _ => sentOnly_getD fun _ h => sentOnly_farPieces _ _ _ h) _ _)
  exact hsync.trans (hout _)

theorem flushed_mem (s : State) : s.flushed.mem = s.mem := by
  obtain ⟨d, n, h⟩ := sentOnly_flushed s
  rw [h]

theorem flushed_ns (s : State) : s.flushed.ns = s.ns := by
  obtain ⟨d, n, h⟩ := sentOnly_flushed s
  rw [h]

theorem flushed_iss (s : State) : s.flushed.iss = s.iss := by
  obtain ⟨d, n, h⟩ := sentOnly_flushed s
  rw [h]

theorem flushed_thread (s : State) (g : Nat) : s.flushed.thread g = s.thread g := by
  obtain ⟨d, n, h⟩ := sentOnly_flushed s
  rw [h]
  rfl

theorem flushed_tcore (s : State) (k : Nat) : s.flushed.tcore k = s.tcore k := by
  obtain ⟨d, n, h⟩ := sentOnly_flushed s
  rw [h]
  rfl

/-! ## The move at the head of the agenda -/

theorem step_of_nextMove {a : Act} {l : List Move} (h : NextMove s a l) :
    step s = Out.after (State.act { s with agenda := l } a .clean) State.flushed := by
  obtain ⟨hagenda, hE, hF⟩ := h
  rw [step, State.advance, State.takeMove, hagenda]
  simp only [State.elapse, List.foldl_nil, if_true]
  rw [State.gate, if_neg fun hp => hp.1.elim hE hF]

theorem inOrder_of_notPassed {b rank : Nat} (h : NotPassed s b rank) : s.inOrder b rank = true := by
  unfold State.inOrder
  by_cases hb : (s.blk b).turn.1 = (s.blk b).cyc
  · simp [h hb]
  · simp [hb]

/-! ## Fetching (R69, R221) -/

theorem peek_eq_memNat (a : Nat) : ∀ n, s.peek a n = memNat s.mem a n := by
  have hread : ∀ n a, leNat (Memory.read s.mem a n) = memNat s.mem a n := fun n => by
    induction n with
    | zero => exact fun _ => rfl
    | succ n ih => exact fun a => by rw [Memory.read, leNat, ih, memNat]
  exact fun n => hread n a

theorem memNat_lt (m : List Host.Cell) : ∀ (n a : Nat), memNat m a n < 256 ^ n
  | 0, _ => Nat.one_pos
  | n + 1, a => by
    have hrest := memNat_lt m n (a + 1)
    have hbyte := (Memory.byte m a).isLt
    rw [memNat, Nat.pow_succ]
    omega

theorem memNat_add (m : List Host.Cell) (n : Nat) : ∀ (j a : Nat), memNat m a (j + n) = memNat m a j + 256 ^ j * memNat m (a + j) n
  | 0, a => by simp [memNat]
  | j + 1, a => by
    rw [Nat.add_right_comm, memNat, memNat, memNat_add m n j (a + 1), Nat.pow_succ, Nat.add_right_comm a 1 j, ← Nat.add_assoc a j 1]
    ring

/-- A doubleword of a line that has been read from memory. -/
theorem lineWord_of_memNat (m : List Host.Cell) (a : Nat) {off : Nat} (hoff : off ≤ 56) :
    lineWord (BitVec.ofNat 512 (memNat m a 64)) off = BitVec.ofNat 64 (memNat m (a + off) 8) := by
  obtain ⟨r, hr⟩ := Nat.exists_eq_add_of_le hoff
  have hlt : memNat m a 64 < 2 ^ 512 := by
    have hlt := memNat_lt m 64 a
    rwa [show 256 = 2 ^ 8 from rfl, ← Nat.pow_mul, show 8 * 64 = 512 from rfl] at hlt
  have hlow := memNat_lt m off a
  have hword := memNat_lt m 8 (a + off)
  have hsplit : memNat m a 64 = memNat m a off + 256 ^ off * (memNat m (a + off) 8 + 256 ^ 8 * memNat m (a + off + 8) r) := by
    rw [← memNat_add, ← memNat_add, show off + (8 + r) = 64 by omega]
  rw [lineWord, wd, BitVec.toNat_ofNat, Nat.mod_eq_of_lt hlt, bitsN, hsplit, Nat.pow_mul, show 2 ^ 8 = 256 by rfl,
    Nat.add_mul_div_left _ _ (by positivity), Nat.div_eq_of_lt hlow, Nat.zero_add, show 2 ^ 64 = 256 ^ 8 by norm_num,
    Nat.add_mul_mod_self_left, Nat.mod_eq_of_lt hword]

/-- A fetch that ends with a word changes no register. -/
theorem fetch_got {w : Word} (h : s.fetch = .got w t) : t.threads = s.threads ∧ t.tcores = s.tcores ∧ t.cur = s.cur := by
  unfold State.fetch at h
  split at h
  · unfold State.fetchThread at h
    simp only at h
    split at h
    · cases h
    split at h
    · cases h
    · cases h
    split at h
    · unfold State.fetchLine at h
      split at h
      · cases h
        exact ⟨rfl, rfl, rfl⟩
      · cases h
        exact ⟨rfl, rfl, rfl⟩
    · unfold State.fetchFar at h
      simp only at h
      (repeat' split at h) <;> cases h
      exact ⟨rfl, rfl, rfl⟩
    all_goals
      cases h
      exact ⟨rfl, rfl, rfl⟩
  · unfold State.fetchTile at h
    split at h
    · cases h
      exact ⟨rfl, rfl, rfl⟩
    · cases h
      exact ⟨rfl, rfl, rfl⟩

/-- A fetch of a line that the L1 does not hold reads memory (R221). -/
theorem fetch_of_dram {p : Phys} (hc : s.cur = .thread g) (hlow : (s.thread g).ctx.pc.toNat < 2 ^ 52)
    (halign : (s.thread g).ctx.pc.toNat % 8 = 0)
    (hxl : s.xlThread g (s.thread g).ctx.pc.toNat { rd := false, wr := false, ex := true, sv := (s.thread g).sv } = .ok p)
    (hhome : p.home = .dram) (hpa : p.pa % 64 = (s.thread g).ctx.pc.toNat % 64) (hlines : (s.core (threadCore g)).ilines = []) :
    ∃ t, s.fetch = .got (BitVec.ofNat 64 (memNat s.mem p.pa 8)) t ∧ t.mem = s.mem ∧ t.threads = s.threads := by
  have hmiss : s.ilineAt (threadCore g) (s.thread g).ctx.pc.toNat p.pa = none := by
    rw [State.ilineAt, hlines]
    rfl
  have hword := lineWord_of_memNat s.mem (p.pa / 64 * 64) (off := (s.thread g).ctx.pc.toNat % 64) (by omega)
  rw [show p.pa / 64 * 64 + (s.thread g).ctx.pc.toNat % 64 = p.pa by omega] at hword
  unfold State.fetch State.fetchThread
  simp only [hc, if_neg (Nat.not_le.mpr hlow), hxl, hhome, State.fetchLine, hmiss, peek_eq_memNat, hword]
  exact ⟨_, rfl, rfl, rfl⟩

/-! ## A bundle (R18, R69, R72) -/

/-- A bundle that runs in its place in the order of its block's cycle. -/
theorem runBundle_of_runs {w : Word} {bu : Bundle}
    (horder : Instr.asks bu.a = true → NotPassed s (refBlk s.cur) (unitRank s.cur))
    (h : BundleRuns s (refBlk s.cur) (unitRank s.cur) w bu u) : s.runBundle .clean w bu = .next u ∧ u.iss.fate = .issued := by
  obtain ⟨v0, v, hA, hfate, hv, hB⟩ := h
  have hpass : (Instr.asks bu.a && !s.inOrder (refBlk s.cur) (unitRank s.cur)) = false := by
    cases hask : Instr.asks bu.a with
    | false => rfl
    | true => simp [inOrder_of_notPassed (horder hask)]
  have hfate' : v.iss.fate = .issued := by
    rw [hv]
    split <;> exact hfate
  rw [State.runBundle, if_neg (by simp [hpass])]
  simp only [State.slotA, hA, ← hv]
  cases hb : bu.b with
  | none =>
    simp only [hb] at hB
    exact ⟨by rw [hB]; rfl, by rw [hB, hfate']⟩
  | some i =>
    simp only [hb] at hB
    obtain ⟨x, hx, hu, hissued⟩ := hB
    refine ⟨?_, hissued⟩
    rw [State.runB, if_pos hfate', hx, hu]
    rfl

/-- The bundle at the pc, once it has been fetched and decoded. -/
theorem bundle_of_runs {w : Word} {bu : Bundle} (hfetch : s.fetch = .got w t) (hdecode : decode w = .ok bu)
    (horder : Instr.asks bu.a = true → NotPassed t (refBlk s.cur) (unitRank s.cur))
    (h : BundleRuns t (refBlk s.cur) (unitRank s.cur) w bu u) : s.bundle .clean = .next u ∧ u.iss.fate = .issued := by
  rw [← (fetch_got hfetch).2.2] at horder h
  obtain ⟨hrun, hfate⟩ := runBundle_of_runs horder h
  refine ⟨?_, hfate⟩
  rw [State.bundle, hfetch]
  simp only [hdecode, if_neg (show ¬ Soft.clean = Soft.fetch by decide), hrun]

/-! ## The end of a turn (R72, R108) -/

/-- The turn of a thread whose bundle has issued, and that its bundle has not freed. -/
theorem endTurn_thread (hc : u.cur = .thread g) (hfate : u.iss.fate = .issued) (hfree : (u.thread g).run ≠ .free) (n : Nat) (due : Bool) :
    (u.endTurn n due).mem = u.mem ∧ (u.endTurn n due).ns = u.ns ∧ (u.endTurn n due).iss = {} ∧
      (u.endTurn n due).thread g = (u.thread g).advance n u.iss.npc (u.blk (unitBlk g)).cyc due ∧
      ∀ h, h ≠ g → (u.endTurn n due).thread h = u.thread h := by
  have hend : u.endTurn n due = { u.modThread g fun t => t.advance n u.iss.npc (u.blk (unitBlk g)).cyc due with iss := {} } := by
    simp only [State.endTurn, hfate, hc, if_neg hfree]
  have hsame := u.modThread_same g fun t => t.advance n u.iss.npc (u.blk (unitBlk g)).cyc due
  rw [hend]
  exact ⟨rfl, rfl, rfl, hsame, fun h hh => u.modThread_other g h (fun t => t.advance n u.iss.npc _ due) hh⟩

/-- The turn of a compute core whose bundle has issued. -/
theorem endTurn_core (hc : u.cur = .core k) (hfate : u.iss.fate = .issued) (n : Nat) (due : Bool) :
    (u.endTurn n due).mem = u.mem ∧ (u.endTurn n due).ns = u.ns ∧ (u.endTurn n due).iss = {} ∧
      (u.endTurn n due).tcore k = (u.tcore k).advance n u.iss.npc (u.blk (unitBlk k)).cyc ∧
      ∀ h, h ≠ k → (u.endTurn n due).tcore h = u.tcore h := by
  have hend : u.endTurn n due = { u.modTcore k fun c => c.advance n u.iss.npc (u.blk (unitBlk k)).cyc with iss := {} } := by
    simp only [State.endTurn, hfate, hc]
  have hsame := u.modTcore_same k fun c => c.advance n u.iss.npc (u.blk (unitBlk k)).cyc
  rw [hend]
  exact ⟨rfl, rfl, rfl, hsame, fun h hh => u.modTcore_other k h (fun c => c.advance n u.iss.npc _) hh⟩

theorem turnEnds_advance (c : Ctx) (n : Nat) (npc : Option Word) : TurnEnds c (c.advance n npc) n npc :=
  ⟨rfl, rfl, rfl, rfl, rfl, bundleAddr_eq _, rfl⟩

/-! ## Turns (R163, R278, R279, R281) -/

theorem retried_thread (s : State) (g h : Nat) : (s.retried g).thread h =
    if h = g then { s.thread g with futw := false } else s.thread h := by
  unfold State.retried
  split
  · by_cases hh : h = g
    · subst hh
      rw [State.modThread_same, if_pos rfl]
    · rw [State.modThread_other _ _ _ _ hh, if_neg hh]
  · rename_i hf
    split
    · rename_i hh
      subst hh
      generalize s.thread h = t at hf
      cases t
      simp_all
    · rfl

theorem retried_blks (s : State) (g : Nat) : (s.retried g).blks = s.blks := by
  unfold State.retried
  split <;> rfl

theorem retried_cur (s : State) (g : Nat) : (s.retried g).cur = s.cur := by
  unfold State.retried
  split <;> rfl

theorem ctx_of_core (hc : s.cur = .core k) : s.ctx = (s.tcore k).ctx := by rw [State.ctx, hc]

/-- A thread that has no result to commit and no event due issues its bundle. -/
theorem turnThread_of_run (hhit : ∀ k, s.taskOf g = some k → k.hit = false) (hrun : (s.thread g).run = .run)
    (hexpired : (s.thread g).ctx.expired = []) (hverdict : (s.thread g).verdict = none) (hdue : (s.thread g).eventDue = false)
    (hstand : s.blkStands (unitBlk g) = false) : s.turnThread g .clean = s.issueBundle .clean := by
  rw [State.turnThread, if_neg]
  · simp only [hrun, hexpired, hverdict, hdue, hstand]
    rfl
  · split
    · exact Bool.false_ne_true
    · rename_i k hk
      rw [hhit k hk]
      exact Bool.false_ne_true

theorem turnCore_of_run (hrun : (s.tcore k).run = .run) (hhalted : (s.tcore k).halted = false) (hdue : (s.tcore k).due = [])
    (hexpired : (s.tcore k).ctx.expired = []) : s.turnCore k .clean = s.issueBundle .clean := by
  simp [State.turnCore, hrun, hhalted, hdue, hexpired]

/-- The turn of a thread whose block does not stand still. -/
theorem step_issue_thread {l : List Move} (hnext : NextMove s (.issue (.thread g)) l)
    (hpower : (s.blk (unitBlk g)).power = .on) (hslot : (s.blk (unitBlk g)).cyc % 8 = g % 8)
    (hcyc : (s.thread g).nextCyc ≤ (s.blk (unitBlk g)).cyc) (hmoving : (s.blk (unitBlk g)).moving = none)
    (hstop : s.escStops g = false) (hrun : (s.thread g).run = .run) (hhit : ∀ k, s.taskOf g = some k → k.hit = false)
    (hexpired : (s.thread g).ctx.expired = []) (hverdict : (s.thread g).verdict = none) (hdue : (s.thread g).eventDue = false)
    (hpreempt : ∀ p ∈ (s.thread g).ctx.pend, p.fly ≠ .preempt)
    (ht : t = State.retried { s with agenda := l, cur := .thread g, iss := {} } g) (hbundle : t.bundle .clean = .next u) :
    step s = .next (u.endTurn t.ctx.pend.length t.eventDue).flushed := by
  have hnow : State.turnNow { s with agenda := l } (.thread g) = true := by
    simp only [State.turnNow, Bool.and_eq_true, beq_iff_eq, decide_eq_true_eq]
    exact ⟨⟨hpower, hslot⟩, hcyc⟩
  have hsettles : (s.thread g).ctx.pend.any (State.settles { s with agenda := l }) = false :=
    List.any_eq_false.mpr fun p hp => by simp [State.settles, hpreempt p hp]
  have hthread : t.thread g = { s.thread g with futw := false } := by
    rw [ht, retried_thread, if_pos rfl]
    rfl
  have hblks : t.blks = s.blks := ht ▸ retried_blks _ _
  have htask : t.taskOf g = s.taskOf g := by simp only [State.taskOf, hthread, State.blk, hblks]
  have hturn : t.turnThread g .clean = t.issueBundle .clean := by
    refine turnThread_of_run (fun k hk => hhit k (htask ▸ hk)) ?_ ?_ ?_ ?_ ?_
    · rw [hthread]; exact hrun
    · rw [hthread]; exact hexpired
    · rw [hthread]; exact hverdict
    · rw [hthread]; exact hdue
    · rw [State.blkStands, State.blk, hblks]
      exact congrArg Option.isSome hmoving
  have hact : State.act { s with agenda := l } (.issue (.thread g)) .clean = t.turnThread g .clean := by
    change State.turn { s with agenda := l } (.thread g) .clean = _
    rw [State.turn]
    simp only [hnow, show State.escStops { s with agenda := l } g = false from hstop, show (State.thread { s with agenda := l } g) = s.thread g from rfl,
      hrun, hsettles, ht]
    rfl
  rw [step_of_nextMove hnext, hact, hturn, State.issueBundle, hbundle]
  rfl

/-- The turn of a compute core whose block and region do not stand still. -/
theorem step_issue_core {l : List Move} (hnext : NextMove s (.issue (.core k)) l)
    (hpower : (s.blk (unitBlk k)).power = .on) (hcyc : (s.tcore k).nextCyc ≤ (s.blk (unitBlk k)).cyc)
    (hstand : s.coreStands k = false) (hrun : (s.tcore k).run = .run) (hhalted : (s.tcore k).halted = false)
    (hdue : (s.tcore k).due = []) (hexpired : (s.tcore k).ctx.expired = [])
    (ht : t = { s with agenda := l, cur := .core k, iss := {} }) (hbundle : t.bundle .clean = .next u) :
    step s = .next (u.endTurn t.ctx.pend.length t.eventDue).flushed := by
  have hnow : State.turnNow { s with agenda := l } (.core k) = true := by
    simp only [State.turnNow, Bool.and_eq_true, beq_iff_eq, decide_eq_true_eq]
    exact ⟨hpower, hcyc⟩
  have hact : State.act { s with agenda := l } (.issue (.core k)) .clean = t.turnCore k .clean := by
    change State.turn { s with agenda := l } (.core k) .clean = _
    rw [State.turn]
    simp only [hnow, show State.coreStands { s with agenda := l } k = false from hstand, ht]
    rfl
  have hcore : t.tcore k = s.tcore k := by rw [ht]; rfl
  rw [step_of_nextMove hnext, hact, turnCore_of_run (hcore ▸ hrun) (hcore ▸ hhalted) (hcore ▸ hdue) (hcore ▸ hexpired),
    State.issueBundle, hbundle]
  rfl

/-- Settles O60: a step is its move's act, a turn without anything due is the bundle, and what goes out behind it is the device's. -/
theorem stepRunsTheBundle : Obligations.StepRunsTheBundle := by
  refine ⟨fun s s1 s2 u l g w bu hnext hpower hslot hcyc hmoving hstop hrun hhit hexpired hverdict hdue hpreempt h1 hfetch hdecode horder
      hruns hcur hfree => ?_,
    fun s s1 s2 u l k w bu hnext hpower hcyc hstand hrun hhalted hdue hexpired h1 hfetch hdecode horder hruns hcur => ?_,
    fun s g p hc hlow halign hxl hhome hpa hlines => fetch_of_dram hc hlow halign hxl hhome hpa hlines,
    fun s i l g hnext hturn => ?_, fun s i l hnext hturn hevent hpowered hstanding => ⟨fun hrank => ?_, fun b rank hrank hpassed => ?_⟩⟩
  · have hcur1 : s1.cur = .thread g := by rw [h1, retried_cur]
    obtain ⟨hthreads, -, hcur2⟩ := fetch_got hfetch
    obtain ⟨hbundle, hfate⟩ := bundle_of_runs hfetch hdecode (by rw [hcur1]; exact horder) (by rw [hcur1]; exact hruns)
    have hpend : s2.ctx = s1.ctx := by rw [ctx_of_thread (hcur2.trans hcur1), ctx_of_thread hcur1, State.thread, State.thread, hthreads]
    obtain ⟨hmem, hns, hiss, hsame, hother⟩ := endTurn_thread hcur hfate hfree s1.ctx.pend.length s1.eventDue
    refine ⟨_, step_issue_thread hnext hpower hslot hcyc hmoving hstop hrun hhit hexpired hverdict hdue hpreempt h1 hbundle,
      (flushed_mem _).trans hmem, (flushed_ns _).trans hns, (flushed_iss _).trans hiss, ?_⟩
    rw [flushed_thread, hsame, hpend]
    exact ⟨rfl, rfl, turnEnds_advance _ _ _, fun h hh => (flushed_thread _ _).trans (hother h hh)⟩
  · have hcur1 : s1.cur = .core k := by rw [h1]
    obtain ⟨-, htcores, hcur2⟩ := fetch_got hfetch
    obtain ⟨hbundle, hfate⟩ := bundle_of_runs hfetch hdecode (by rw [hcur1]; exact horder) (by rw [hcur1]; exact hruns)
    have hpend : s2.ctx = s1.ctx := by rw [ctx_of_core (hcur2.trans hcur1), ctx_of_core hcur1, State.tcore, State.tcore, htcores]
    obtain ⟨hmem, hns, hiss, hsame, hother⟩ := endTurn_core hcur hfate s1.ctx.pend.length s1.eventDue
    refine ⟨_, step_issue_core hnext hpower hcyc hstand hrun hhalted hdue hexpired h1 hbundle, (flushed_mem _).trans hmem,
      (flushed_ns _).trans hns, (flushed_iss _).trans hiss, ?_⟩
    rw [flushed_tcore, hsame, hpend]
    exact ⟨rfl, rfl, turnEnds_advance _ _ _, fun h hh => (flushed_tcore _ _).trans (hother h hh)⟩
  · have hnext' : NextMove { s with agenda := { ns := 0, cycs := [], act := .issue (.thread g) } :: l } (.issue (.thread g)) l :=
      ⟨rfl, hnext.2.1, hnext.2.2⟩
    have hact : State.act { s with agenda := l } (.event i) .clean = State.act { s with agenda := l } (.issue (.thread g)) .clean := by
      simp only [State.act, hturn]
    rw [step_of_nextMove hnext, step_of_nextMove hnext', hact]
  · obtain ⟨u, hu⟩ := exec_event_next i { s with agenda := l } hevent
    refine ⟨u, hu, ?_⟩
    rw [step_of_nextMove hnext, State.act]
    simp only [hturn, hevent, hpowered, hstanding, hrank, State.event, hu]
    rfl
  · obtain ⟨u, hu⟩ := exec_event_next i (State.stampTurn { s with agenda := l } b rank) hevent
    have horder : State.inOrder { s with agenda := l } b rank = true := inOrder_of_notPassed hpassed
    refine ⟨u, hu, ?_⟩
    rw [step_of_nextMove hnext, State.act]
    simp only [hturn, hevent, hpowered, hstanding, hrank, horder, State.event, hu]
    rfl

end Sys2Proof.Claims
end

section
/-!
PROOFS. The division forms (R68, R101): quotients and remainders as functions of their operands' readings, with the corners that need
no reading of their own.
-/
namespace Sys2Proof.Claims
open Sys2Proof.Machine

/-! ## Quotients and remainders (R68) -/

theorem sdiv_value (x y : Word) : x.sdiv y = BitVec.ofInt 64 (x.toInt.tdiv y.toInt) :=
  BitVec.eq_of_toInt_eq (by rw [BitVec.toInt_sdiv, BitVec.toInt_ofInt])

theorem srem_value (x y : Word) : x.srem y = BitVec.ofInt 64 (x.toInt.tmod y.toInt) := by
  rw [← BitVec.toInt_srem, BitVec.ofInt_toInt]

theorem udiv_value (x y : Word) : x.udiv y = BitVec.ofNat 64 (x.toNat / y.toNat) :=
  BitVec.eq_of_toNat_eq (by simp [Nat.mod_eq_of_lt (Nat.lt_of_le_of_lt (Nat.div_le_self ..) x.isLt)])

theorem umod_value (x y : Word) : x.umod y = BitVec.ofNat 64 (x.toNat % y.toNat) :=
  BitVec.eq_of_toNat_eq (by simp [Nat.mod_eq_of_lt (Nat.lt_of_le_of_lt (Nat.mod_le ..) x.isLt)])

/-- The quotient that overflows is the dividend again. -/
theorem sdiv_overflow {x y : Word} (hx : x.toInt = -2 ^ 63) (hy : y.toInt = -1) : x.sdiv y = x := by
  rw [sdiv_value, hx, hy, BitVec.eq_of_toInt_eq (y := BitVec.intMin 64) (x := x) (by rw [hx]; decide)]
  decide

theorem srem_overflow {x y : Word} (hy : y.toInt = -1) : x.srem y = 0 := by
  rw [srem_value, hy, Int.tmod_neg, Int.tmod_one]
  rfl

theorem divS_value (x y : Word) : divS x y =
    if y = 0 then BitVec.allOnes 64
    else if x.toInt = -2 ^ 63 ∧ y.toInt = -1 then x else BitVec.ofInt 64 (x.toInt.tdiv y.toInt) := by
  rw [divS, ← sdiv_value]
  split
  · rfl
  · split
    case isTrue h => exact sdiv_overflow h.1 h.2
    case isFalse => rfl

theorem remS_value (x y : Word) : remS x y =
    if y = 0 then x
    else if x.toInt = -2 ^ 63 ∧ y.toInt = -1 then 0 else BitVec.ofInt 64 (x.toInt.tmod y.toInt) := by
  rw [remS, ← srem_value]
  split
  · rfl
  · split
    case isTrue h => exact srem_overflow h.2
    case isFalse => rfl

/-- A division form enters its value of R68 in the return buffer. -/
theorem exec_of_longResult {i : Instr} {s : State} {d : SReg} {x : Word} (h : longResult i s = some (d, x)) :
    exec i s = .next (s.longS d x) := by
  unfold longResult at h
  split at h
  case h_5 => cases h
  all_goals
    obtain ⟨rfl, rfl⟩ := Prod.mk.inj (Option.some.inj h)
    refine congrArg (fun y => Host.Outcome.next (s.longS _ y)) ?_
  case h_1 => exact divS_value _ _
  case h_2 => rw [← udiv_value]; rfl
  case h_3 => exact remS_value _ _
  case h_4 => rw [← umod_value]; rfl

/-- Settles O3: a division form's value is the one of R68, and entering it is all that the form does. -/
theorem divisionForms : Obligations.DivisionForms :=
  fun _ _ _ _ h => ⟨_, exec_of_longResult h, queued_longS _ _⟩

end Sys2Proof.Claims
end

section
/-!
PROOFS. Vector forms over lanes (R16, R17, R31, R137, R140 to R142): the elements of a lane, one operation over them, the writes of the
predicate's lanes with their flags, and the short floating-point and conversion forms.
-/
namespace Sys2Proof.Claims
open Sys2Proof.Machine

variable {s : State} {p : PReg} {d a b : VReg} {ty : Ty} {f : FFmt} {i : Instr}

/-! ## Elements of a lane (R16, R76) -/

theorem element_setWidth (x : BitVec 32) (w j : Nat) : element (x.setWidth 256) w j = elt w x j := by
  rw [element, elt, bitsN, BitVec.toNat_setWidth_of_le (by decide)]

theorem valueAt_eq (f : FFmt) (v : VWord) (l j : Nat) : valueAt f v l j = f.value (elt f.width (lane v l) j) := by
  rw [valueAt, element_setWidth]

/-- What the model's functions of a type make of a floating-point one. -/
theorem of_mem_floatTypes (h : (ty, f) ∈ floatTypes) :
    tyIsF ty = true ∧ tyF ty = f ∧ eltW ty = f.width ∧ (f.width = 32 ∨ f.width = 16) := by
  simp only [floatTypes, List.mem_cons, Prod.mk.injEq, List.not_mem_nil, or_false] at h
  obtain ⟨rfl, rfl⟩ | ⟨rfl, rfl⟩ | ⟨rfl, rfl⟩ := h <;> decide

/-- An operation on the one or two elements of a lane. -/
theorem eltOp_eq_laneOf {w : Nat} (hw : w = 32 ∨ w = 16) (F : Nat → Nat → Nat → Nat × BitVec 5) (x y z : BitVec 32) :
    eltOp w F x y z = laneOf w fun j => F (elt w x j) (elt w y j) (elt w z j) := by
  obtain rfl | rfl := hw
  · simp [eltOp, laneOf, packElts, ← BitVec.toNat_inj]
  · simp [eltOp, laneOf, packElts, List.range_succ, Nat.mul_comm]

theorem lanes3_eq_laneOf (hty : (ty, f) ∈ floatTypes) {x y z : VWord} {F : Nat → Nat → Nat → Nat × BitVec 5}
    {g : Nat → Nat → Nat × BitVec 5}
    (hF : ∀ l j, F (elt f.width (lane x l) j) (elt f.width (lane y l) j) (elt f.width (lane z l) j) = g l j) :
    lanes3 (eltW ty) x y z F = fun l => laneOf f.width (g l) := by
  obtain ⟨-, -, hwidth, hcases⟩ := of_mem_floatTypes hty
  funext l
  rw [lanes3, hwidth, eltOp_eq_laneOf hcases]
  exact congrArg _ (funext (hF l))

/-! ## Lanes of a predicate (R17, R31) -/

theorem getLsbD_flagIf (c : Bool) (x : BitVec 5) (k : Nat) : (flagIf c x).getLsbD k = (c && x.getLsbD k) := by
  cases c
  · exact BitVec.getLsbD_zero
  · rfl

theorem getLsbD_foldl_or {α : Type} {w : Nat} (g : α → BitVec w) (k : Nat) : ∀ (l : List α) (z : BitVec w),
    (l.foldl (fun x i => x ||| g i) z).getLsbD k = (z.getLsbD k || l.any fun i => (g i).getLsbD k)
  | [], z => by simp
  | i :: l, z => by rw [List.foldl_cons, getLsbD_foldl_or g k l, BitVec.getLsbD_or, List.any_cons, Bool.or_assoc]

/-- The flags of a lane operation are those of the lanes that the mask names. -/
theorem getLsbD_laneOp_flags (m : PWord) (h : Nat → BitVec 32 × BitVec 5) (k : Nat) :
    (laneOp m h).2.getLsbD k = true ↔ ∃ i, i < 8 ∧ m.getLsbD i = true ∧ (h i).2.getLsbD k = true := by
  rw [laneOp, getLsbD_foldl_or]
  simp [getLsbD_flagIf]

theorem lane_laneOp (m : PWord) (h : Nat → BitVec 32 × BitVec 5) {i : Nat} (hi : i < 8) : lane (laneOp m h).1 i = (h i).1 := by
  rw [laneOp, lane_ofLanes _ hi]

theorem setCtx_setCtx_became (b c : Ctx) : Became s ((s.setCtx b).setCtx c) c s.iss where
  rest := (sameRest_setCtx b).trans (sameRest_setCtx c)
  iss := by rw [State.setCtx_iss, State.setCtx_iss]
  thread g h := by rw [State.setCtx_thread, if_pos (by rw [State.setCtx_cur, h]), State.setCtx_thread, if_pos h]
  core k h := by rw [State.setCtx_tcore, if_pos (by rw [State.setCtx_cur, h]), State.setCtx_tcore, if_pos h]

theorem wroteV_wVm_orFlags (m : PWord) (x : VWord) (fl : BitVec 5) :
    WroteV s ((s.wVm d m x).orFlags fl) d (mergeLanes m (s.ctx.rV d) x) fl := by
  refine ⟨_, setCtx_setCtx_became _ _, ?_⟩
  rw [State.wVm, State.setCtx_ctx]
  exact ⟨fun r => Ctx.rV_wV _ _ _ _, rfl, rfl, rfl, rfl, rfl, rfl⟩

/-- A short form of the lanes writes those of its predicate. -/
theorem vShort_wroteLanes (h : Nat → BitVec 32 × BitVec 5) : ∃ t, s.vShort p d h = .next t ∧ WroteLanes s t p d h := by
  refine ⟨_, rfl, _, _, wroteV_wVm_orFlags _ _ _, ⟨fun i hi hm => ?_, getLsbD_laneOp_flags _ h⟩, fun i hi hm => ?_⟩
  · rw [lane_mergeLanes _ _ _ hi, if_pos hm, lane_laneOp _ _ hi]
  · rw [lane_mergeLanes _ _ _ hi, if_neg (by rw [hm]; decide)]

/-! ## Short floating-point forms (R140, R141, R155) -/

theorem arith_float (hty : (ty, f) ∈ floatTypes) (ff : FFmt → FVal → FVal → FVal → Nat × BitVec 5) (fi : Int → Int → Int → Int)
    (x y z : Nat) : arith ty ff fi x y z = ff f (f.value x) (f.value y) (f.value z) := by
  obtain ⟨hfloat, hformat, -, -⟩ := of_mem_floatTypes hty
  rw [arith, if_pos hfloat, hformat]

theorem eltMinMax_float (hty : (ty, f) ∈ floatTypes) (mx : Bool) (x y : Nat) : eltMinMax ty mx x y = fminmax f mx x y := by
  obtain ⟨hfloat, hformat, -, -⟩ := of_mem_floatTypes hty
  rw [eltMinMax, if_pos hfloat, hformat]

/-- A short floating-point form is its element's operation in every lane of its predicate. -/
theorem exec_of_vecFloat (hty : (ty, f) ∈ floatTypes) {g : Nat → Nat → Nat × BitVec 5}
    (h : vecFloat i s f = some (p, d, ty, g)) : exec i s = s.vShort p d fun l => laneOf f.width (g l) := by
  unfold vecFloat at h
  simp only [valueAt_eq, element_setWidth] at h
  split at h
  case h_10 => cases h
  all_goals
    simp only [Option.some.injEq, Prod.mk.injEq] at h
    obtain ⟨rfl, rfl, rfl, rfl⟩ := h
    refine congrArg (s.vShort _ _) (lanes3_eq_laneOf hty fun l j => ?_)
    obtain ⟨hfloat, hformat, hwidth, -⟩ := of_mem_floatTypes hty
  case h_5 | h_6 => exact eltMinMax_float hty _ _ _
  case h_7 | h_8 => rw [if_pos hfloat, hwidth]; rfl
  case h_9 => rw [hformat]
  all_goals exact arith_float hty _ _ _ _ _

/-- vscale is one operation on the elements of a lane, with the scale of that lane (R156). -/
theorem exec_vscale (hty : (ty, f) ∈ floatTypes) : exec (.vscale p d a b ty) s = s.vShort p d fun l => laneOf f.width fun j =>
    scaleElt f s.rm ((lane (s.rV b) l).toNat % 256) (element ((lane (s.rV a) l).setWidth 256) f.width j) := by
  obtain ⟨-, hformat, hwidth, hcases⟩ := of_mem_floatTypes hty
  change execVscale p d a b ty s = _
  simp only [execVscale, hformat, hwidth, eltOp_eq_laneOf hcases, element_setWidth, scaleOf]

/-- Settles O38: each form is one operation on the lanes of its predicate, which every short form writes in the same way. -/
theorem vectorFloatForms : Obligations.VectorFloatForms := by
  refine ⟨fun i s ty f p d g hty h => ?_, fun s p d a src dst z => vShort_wroteLanes _, fun s p d a b ty f hty => ?_,
    fun s p d a k => vShort_wroteLanes _⟩
  · rw [exec_of_vecFloat hty h]
    exact vShort_wroteLanes _
  · rw [exec_vscale hty]
    exact vShort_wroteLanes _

end Sys2Proof.Claims
end

section
/-!
PROOFS. Long vector forms (R137, R142, R151, R157, R158, R160): their entries in the return buffer, the scale step's two lanes, and
reductions as folds over the elements of the predicate's lanes.
-/
namespace Sys2Proof.Claims
open Sys2Proof.Machine

variable {s : State} {p : PReg} {d a b : VReg} {ty : Ty} {f : FFmt} {w : Nat} {i : Instr}

/-! ## Entries in the return buffer (R137) -/

theorem queued_longV (m : PWord) (x : VWord) (fl : BitVec 5) : Queued s (s.longV d m x fl) (.vreg d m) x fl := became_setCtx _

/-- A long form of the lanes enters those of its predicate. -/
theorem vLong_queuedLanes (h : Nat → BitVec 32 × BitVec 5) : ∃ t, s.vLong p d h = .next t ∧ QueuedLanes s t p d h :=
  ⟨_, rfl, _, _, queued_longV _ _ _, fun _ hi _ => lane_laneOp _ _ hi, getLsbD_laneOp_flags _ h⟩

/-- A long floating-point form is its element's operation in every lane of its predicate (R142). -/
theorem exec_of_vecDeep (hty : (ty, f) ∈ floatTypes) {g : Nat → Nat → Nat × BitVec 5}
    (h : vecDeep i s f = some (p, d, ty, g)) : exec i s = s.vLong p d fun l => laneOf f.width (g l) := by
  obtain ⟨-, hformat, -, -⟩ := of_mem_floatTypes hty
  unfold vecDeep at h
  simp only [valueAt_eq] at h
  split at h
  case h_7 => cases h
  all_goals
    simp only [Option.some.injEq, Prod.mk.injEq] at h
    obtain ⟨rfl, rfl, rfl, rfl⟩ := h
    refine congrArg (s.vLong _ _) (lanes3_eq_laneOf hty fun l j => ?_)
    rw [hformat]

/-! ## The scale step (R157) -/

theorem toNat_lane (v : VWord) (i : Nat) : (lane v i).toNat = v.toNat / 2 ^ (32 * i) % 2 ^ 32 := by
  rw [lane, BitVec.extractLsb'_toNat, Nat.shiftRight_eq_div_pow]

theorem quantMax_lt {acc : Nat} (hacc : acc < 2 ^ 32) (x : Nat) : quantMax acc x < 2 ^ 32 := by
  unfold quantMax
  dsimp only
  split
  · decide
  · split
    · exact Nat.lt_trans (Nat.mod_lt _ (by decide)) (by decide)
    · exact hacc

theorem quantScale_lt (k : CFmt) (acc : Nat) : quantScale k acc < 2 ^ 32 := by
  unfold quantScale
  split
  · decide
  · decide
  · split
    · decide
    · split
      · exact Nat.lt_trans (BitVec.isLt _) (by decide)
      · omega

/-- A lane above those that a register's number fills. -/
theorem lane_of_lt {v : VWord} {k i : Nat} (hi : k ≤ i) (h : v.toNat < 2 ^ (32 * k)) : lane v i = 0 := by
  refine BitVec.eq_of_toNat_eq ?_
  rw [toNat_lane, Nat.div_eq_of_lt (Nat.lt_of_lt_of_le h (Nat.pow_le_pow_right (by decide) (Nat.mul_le_mul_left _ hi)))]
  rfl

/-- A register with two lanes and zeros above them. -/
theorem lane_ofNat_two {m n : Nat} (hm : m < 2 ^ 32) (hn : n < 2 ^ 32) {x : VWord} (hx : x = BitVec.ofNat 256 (m + n * 2 ^ 32)) :
    (lane x 0).toNat = m ∧ (lane x 1).toNat = n ∧ ∀ i, 2 ≤ i → i < 8 → lane x i = 0 := by
  have hval : x.toNat = m + n * 2 ^ 32 := by
    rw [hx, BitVec.toNat_ofNat]
    omega
  exact ⟨by rw [toNat_lane]; omega, by rw [toNat_lane]; omega, fun i hi _ => lane_of_lt hi (by omega)⟩

/-- The scale step enters the running maximum and its scale, each of which fits a lane. -/
theorem vquantS_queued (k : CFmt) : ∃ t x, exec (.vquantS p d a b k) s = .next t ∧ Queued s t (.vreg d 0xFF) x 0 ∧
    (lane x 1).toNat = quantScale k (lane x 0).toNat ∧ ∀ i, 2 ≤ i → i < 8 → lane x i = 0 := by
  refine ⟨_, _, rfl, queued_longV _ _ _, ?_⟩
  generalize hfold : (List.range 8).foldl _ _ = m
  have hm : m < 2 ^ 32 := by
    rw [← hfold]
    refine List.foldlRecOn (motive := (· < 2 ^ 32)) _ _ (BitVec.isLt _) fun acc hacc i _ => ?_
    split
    · exact quantMax_lt (quantMax_lt hacc _) _
    · exact hacc
  obtain ⟨hmax, hscale, hrest⟩ := lane_ofNat_two hm (quantScale_lt k m) rfl
  exact ⟨by rw [hscale, hmax], hrest⟩

/-! ## The elements of a reduction (R151) -/

/-- Every type's lanes are cut into elements without a remainder. -/
theorem exists_elements_per_lane (ty : Ty) : ∃ n, eltW ty * n = 32 := by
  cases ty
  case f32 | i32 | x => exact ⟨1, rfl⟩
  case bf16 | f16 | i16 => exact ⟨2, rfl⟩
  case i8 | u8 => exact ⟨4, rfl⟩

/-- Of a value's bits, those within a field of it. -/
theorem div_mod_of_field (x lo n k w : Nat) (h : k + w ≤ n) : x / 2 ^ lo % 2 ^ n / 2 ^ k % 2 ^ w = x / 2 ^ (lo + k) % 2 ^ w := by
  refine Nat.eq_of_testBit_eq fun i => ?_
  simp only [Nat.testBit_mod_two_pow, Nat.testBit_div_two_pow]
  by_cases hi : i < w
  · simp [hi, show i + k < n by omega, Nat.add_assoc, Nat.add_comm lo]
  · simp [hi]

section
variable {n : Nat} (hn : w * n = 32)
include hn

/-- Element `k` of lane `i` of a register. -/
theorem element_of_lane (v : VWord) {i k : Nat} (hk : k < n) : element v w (n * i + k) = elt w (lane v i) k := by
  have hfit : w * k + w ≤ 32 := by rw [← hn, ← Nat.mul_succ]; exact Nat.mul_le_mul_left _ hk
  rw [element, elt, bitsN, toNat_lane, div_mod_of_field _ _ _ _ _ hfit, Nat.mul_add, ← Nat.mul_assoc, hn]

theorem lane_of_element {i k : Nat} (hk : k < n) : (n * i + k) * w / 32 = i := by
  have hw : 0 < w := Nat.pos_of_ne_zero (by rintro rfl; omega)
  rw [← hn, Nat.mul_comm _ w, Nat.mul_div_mul_left _ _ hw, Nat.mul_add_div (by omega), Nat.div_eq_of_lt hk, Nat.add_zero]

/-- The elements of the first `k` active lanes are the first `n * k` elements whose lane is active. -/
theorem flatMap_lanes (m : PWord) (v : VWord) : ∀ k,
    ((List.range (n * k)).filter fun j => m.getLsbD (j * w / 32)).map (element v w) =
      (List.range k).flatMap fun i => if m.getLsbD i then (List.range n).map (elt w (lane v i)) else []
  | 0 => rfl
  | k + 1 => by
    have hlane : ∀ j ∈ List.range n, m.getLsbD ((n * k + j) * w / 32) = m.getLsbD k := fun j hj => by
      rw [lane_of_element hn (List.mem_range.mp hj)]
    have helement : ∀ j ∈ List.range n, element v w (n * k + j) = elt w (lane v k) j := fun j hj =>
      element_of_lane hn v (List.mem_range.mp hj)
    rw [Nat.mul_succ, List.range_add, List.filter_append, List.map_append, flatMap_lanes m v k, List.range_succ, List.flatMap_append,
      List.filter_map, List.map_map]
    simp only [Function.comp_def, List.filter_congr hlane]
    cases hk : m.getLsbD k with
    | false => simp [hk]
    | true => simp [hk, List.map_congr_left helement]

theorem activeElts_eq_foldedElements (m : PWord) (v : VWord) : activeElts w m v = foldedElements m v w := by
  have hw : 0 < w := Nat.pos_of_ne_zero (by rintro rfl; omega)
  have hlane : 32 / w = n := Nat.div_eq_of_eq_mul_right hw hn.symm
  have hall : 256 / w = n * 8 := Nat.div_eq_of_eq_mul_right hw (by rw [← Nat.mul_assoc, hn])
  rw [foldedElements, hall, flatMap_lanes hn, activeElts]
  simp only [elts, hlane]

end

/-- The elements that a reduction folds (R151). -/
theorem activeElts_eltW (ty : Ty) (m : PWord) (v : VWord) : activeElts (eltW ty) m v = foldedElements m v (eltW ty) := by
  obtain ⟨n, hn⟩ := exists_elements_per_lane ty
  exact activeElts_eq_foldedElements hn m v

theorem mem_foldedElements {m : PWord} {v : VWord} {x : Nat} :
    x ∈ foldedElements m v w ↔ ∃ j, j < 256 / w ∧ m.getLsbD (j * w / 32) = true ∧ element v w j = x := by
  simp [foldedElements, and_assoc]

theorem foldedElements_lt {m : PWord} {v : VWord} {x : Nat} (h : x ∈ foldedElements m v w) : x < 2 ^ w := by
  obtain ⟨j, -, -, rfl⟩ := mem_foldedElements.mp h
  exact Nat.mod_lt _ (Nat.two_pow_pos w)

theorem foldedElements_zero (v : VWord) : foldedElements 0 v w = [] := by
  simp [foldedElements]

/-! ## Folds (R151) -/

theorem foldElts_getD (op : Nat → Nat → Nat × BitVec 5) (z : Nat) : ∀ l, (foldElts op l).getD (z, 0) = folded op z l
  | [] => rfl
  | _ :: _ => rfl

/-- A fold that keeps one of two elements each time keeps the first of all in the order that it keeps by. -/
theorem foldl_keeps_first {op : Nat → Nat → Nat × BitVec 5} {R : Nat → Nat → Prop} (hrefl : ∀ x, R x x)
    (htrans : ∀ {x y z}, R x y → R y z → R x z) (hop : ∀ x y, op x y = (x, 0) ∧ R x y ∨ op x y = (y, 0) ∧ R y x) :
    ∀ (l : List Nat) (x : Nat), ∃ r ∈ x :: l,
      l.foldl (fun acc y => ((op acc.1 y).1, acc.2 ||| (op acc.1 y).2)) (x, 0) = (r, 0) ∧ ∀ y ∈ x :: l, R r y
  | [], x => ⟨x, List.mem_singleton_self x, rfl, by simpa using hrefl x⟩
  | y :: l, x => by
    simp only [List.mem_cons, forall_eq_or_imp, List.foldl_cons]
    obtain ⟨hxy, hR⟩ | ⟨hxy, hR⟩ := hop x y
    · obtain ⟨r, hr, hfold, hfirst⟩ := foldl_keeps_first hrefl htrans hop l x
      simp only [List.mem_cons, forall_eq_or_imp] at hr hfirst
      rw [hxy]
      exact ⟨r, by tauto, by simpa using hfold, hfirst.1, htrans hfirst.1 hR, hfirst.2⟩
    · obtain ⟨r, hr, hfold, hfirst⟩ := foldl_keeps_first hrefl htrans hop l y
      simp only [List.mem_cons, forall_eq_or_imp] at hr hfirst
      rw [hxy]
      exact ⟨r, by tauto, by simpa using hfold, htrans hfirst.1 hR, hfirst.1, hfirst.2⟩

/-- The order that vred.min and vred.max keep by: the first comes before the second. -/
def Precedes : Bool → Int → Int → Prop
  | false, x, y => x ≤ y
  | true, x, y => y ≤ x

theorem precedes_refl (mx : Bool) (x : Int) : Precedes mx x x := by cases mx <;> exact le_refl x

theorem precedes_trans {mx : Bool} {x y z : Int} (h : Precedes mx x y) (h' : Precedes mx y z) : Precedes mx x z := by
  cases mx
  · exact le_trans h h'
  · exact le_trans h' h

/-- What vred.min and vred.max enter of the elements `l`; `z` when there are none. -/
def vExtreme (s : State) (d : VReg) (ty : Ty) (mx : Bool) (z : Nat) (l : List Nat) : Out :=
  s.vReduce d (widenElt ty (folded (eltMinMax ty mx) z l).1) (folded (eltMinMax ty mx) z l).2

theorem exec_vredMin : exec (.vredMin p d a ty) s =
    vExtreme s d ty false (if tyIsF ty then (tyF ty).infCode else maxElt ty) (foldedElements (s.rP p) (s.rV a) (eltW ty)) := by
  change execVredMin p d a ty s = _
  simp only [execVredMin, foldElts_getD, activeElts_eltW]
  rfl

theorem exec_vredMax : exec (.vredMax p d a ty) s =
    vExtreme s d ty true (if tyIsF ty then (tyF ty).signed true (tyF ty).infCode else minElt ty)
      (foldedElements (s.rP p) (s.rV a) (eltW ty)) := by
  change execVredMax p d a ty s = _
  simp only [execVredMax, foldElts_getD, activeElts_eltW]
  rfl

/-- A reduction's result stands in lane 0, and the lanes above are zero. -/
theorem lane_setWidth_zero (x : BitVec 32) : lane (x.setWidth 256) 0 = x := by
  refine BitVec.eq_of_toNat_eq ?_
  rw [toNat_lane, BitVec.toNat_setWidth_of_le (by decide)]
  have := x.isLt
  omega

theorem lane_setWidth_above (x : BitVec 32) {i : Nat} (hi : 1 ≤ i) : lane (x.setWidth 256) i = 0 :=
  lane_of_lt hi (by rw [BitVec.toNat_setWidth_of_le (by decide)]; exact x.isLt)

/-! ## Integer reductions -/

theorem intTypes_cases (h : (ty, w) ∈ intTypes) : ty = .i32 ∧ w = 32 ∨ ty = .i16 ∧ w = 16 ∨ ty = .i8 ∧ w = 8 ∨ ty = .u8 ∧ w = 8 := by
  simpa [intTypes] using h

/-- What the model's functions of a type make of an integer one. -/
theorem of_mem_intTypes (h : (ty, w) ∈ intTypes) : ¬ tyIsF ty = true ∧ eltW ty = w ∧ 0 < w ∧ w ≤ 32 := by
  obtain ⟨rfl, rfl⟩ | ⟨rfl, rfl⟩ | ⟨rfl, rfl⟩ | ⟨rfl, rfl⟩ := intTypes_cases h <;> decide

theorem eltInt_eq_reading (h : (ty, w) ∈ intTypes) (x : Nat) : eltInt ty x = reading ty w x := by
  obtain ⟨rfl, rfl⟩ | ⟨rfl, rfl⟩ | ⟨rfl, rfl⟩ | ⟨rfl, rfl⟩ := intTypes_cases h <;> simp [eltInt, reading, eltW] <;> rfl

theorem reading_bounds (h : (ty, w) ∈ intTypes) {x : Nat} (hx : x < 2 ^ w) : -2 ^ 31 ≤ reading ty w x ∧ reading ty w x < 2 ^ 31 := by
  obtain ⟨rfl, rfl⟩ | ⟨rfl, rfl⟩ | ⟨rfl, rfl⟩ | ⟨rfl, rfl⟩ := intTypes_cases h <;> grind [reading]

theorem widenElt_int (h : (ty, w) ∈ intTypes) (x : Nat) : widenElt ty x = BitVec.ofInt 32 (reading ty w x) := by
  rw [widenElt, if_neg (of_mem_intTypes h).1, eltInt_eq_reading h]

/-- A result that is an element fills lane 0 with its number. -/
theorem toInt_widenElt (h : (ty, w) ∈ intTypes) {x : Nat} (hx : x < 2 ^ w) : (widenElt ty x).toInt = reading ty w x := by
  obtain ⟨hlo, hhi⟩ := reading_bounds h hx
  rw [widenElt_int h, BitVec.toInt_ofInt]
  exact Int.bmod_eq_of_le (by omega) (by omega)

theorem eltMinMax_keeps (h : (ty, w) ∈ intTypes) (mx : Bool) (x y : Nat) :
    eltMinMax ty mx x y = (x, 0) ∧ Precedes mx (reading ty w x) (reading ty w y) ∨
      eltMinMax ty mx x y = (y, 0) ∧ Precedes mx (reading ty w y) (reading ty w x) := by
  rw [eltMinMax, if_neg (of_mem_intTypes h).1, eltInt_eq_reading h, eltInt_eq_reading h]
  obtain hle | hlt := le_or_gt (reading ty w x) (reading ty w y)
  · cases mx
    · exact .inl ⟨by simp [hle], hle⟩
    · exact .inr ⟨by simp [hle], hle⟩
  · cases mx
    · exact .inr ⟨by simp [hlt.not_ge], hlt.le⟩
    · exact .inl ⟨by simp [hlt.not_ge], hlt.le⟩

theorem exec_vredSum_int (h : (ty, w) ∈ intTypes) : exec (.vredSum p d a ty) s = s.vReduce d (BitVec.ofInt 32 (((List.range (256 / w)).map
    fun j => if (s.rP p).getLsbD (j * w / 32) then reading ty w (element (s.rV a) w j) else 0).sum)) 0 := by
  obtain ⟨hint, hwidth, -, -⟩ := of_mem_intTypes h
  have hsum : ((foldedElements (s.rP p) (s.rV a) w).map (eltInt ty)).sum = ((List.range (256 / w)).map
      fun j => if (s.rP p).getLsbD (j * w / 32) then reading ty w (element (s.rV a) w j) else 0).sum := by
    simp [List.sum_map_ite, foldedElements, Function.comp_def, eltInt_eq_reading h]
  change execVredSum p d a ty s = _
  rw [execVredSum, if_neg hint, activeElts_eltW, hwidth, hsum]

/-- A predicate with a lane has an element to fold. -/
theorem foldedElements_ne_nil (h : (ty, w) ∈ intTypes) {m : PWord} (hm : m ≠ 0) (v : VWord) : foldedElements m v w ≠ [] := by
  obtain ⟨n, hn⟩ := exists_elements_per_lane ty
  obtain ⟨-, rfl, hw, -⟩ := of_mem_intTypes h
  obtain ⟨i, hi, hbit⟩ : ∃ i, i < 8 ∧ m.getLsbD i = true := by
    by_contra hnone
    push Not at hnone
    exact hm (BitVec.eq_of_getLsbD_eq fun i hi => by simpa using hnone i hi)
  have hpos : 0 < n := Nat.pos_of_ne_zero (by rintro rfl; omega)
  have hlane : (n * i + 0) * eltW ty / 32 = i := lane_of_element hn hpos
  have hall : 256 / eltW ty = n * 8 := Nat.div_eq_of_eq_mul_right hw (by rw [← Nat.mul_assoc, hn])
  have hlt : n * i + 0 < 256 / eltW ty := by rw [hall, Nat.add_zero]; exact Nat.mul_lt_mul_of_pos_left hi hpos
  exact List.ne_nil_of_mem (mem_foldedElements.mpr ⟨n * i + 0, hlt, by rw [hlane, hbit], rfl⟩)

/-- vred.min and vred.max enter the number of an element that comes before every other (R140, R151). -/
theorem vExtreme_queued (h : (ty, w) ∈ intTypes) (hp : s.rP p ≠ 0) (mx : Bool) (z : Nat) :
    ∃ t x, vExtreme s d ty mx z (foldedElements (s.rP p) (s.rV a) w) = .next t ∧ Queued s t (.vreg d 0xFF) x 0 ∧
      (∀ j, j < 256 / w → (s.rP p).getLsbD (j * w / 32) = true → Precedes mx (lane x 0).toInt (reading ty w (element (s.rV a) w j))) ∧
      ∃ j, j < 256 / w ∧ (s.rP p).getLsbD (j * w / 32) = true ∧ (lane x 0).toInt = reading ty w (element (s.rV a) w j) := by
  obtain ⟨x, l, hl⟩ := List.exists_cons_of_ne_nil (foldedElements_ne_nil h hp (s.rV a))
  obtain ⟨r, hr, hfold, hfirst⟩ := foldl_keeps_first (R := fun x y => Precedes mx (reading ty w x) (reading ty w y))
    (fun _ => precedes_refl _ _) precedes_trans (eltMinMax_keeps h mx) l x
  rw [← hl] at hr hfirst
  have hval : folded (eltMinMax ty mx) z (foldedElements (s.rP p) (s.rV a) w) = (r, 0) := by rw [hl]; exact hfold
  have hlane : (lane ((widenElt ty r).setWidth 256) 0).toInt = reading ty w r := by
    rw [lane_setWidth_zero, toInt_widenElt h (foldedElements_lt hr)]
  refine ⟨_, _, by rw [vExtreme, hval]; rfl, queued_longV _ _ _, fun j hj hbit => ?_, ?_⟩
  · rw [hlane]
    exact hfirst _ (mem_foldedElements.mpr ⟨j, hj, hbit, rfl⟩)
  · obtain ⟨j, hj, hbit, rfl⟩ := mem_foldedElements.mp hr
    exact ⟨j, hj, hbit, hlane⟩

/-- Without an element, vred.min and vred.max enter their type's last number in their order. -/
theorem vExtreme_nil (mx : Bool) {z n : Nat} (hz : widenElt ty z = BitVec.ofNat 32 n) :
    ∃ t, vExtreme s d ty mx z [] = .next t ∧ QueuedFold s t d (n, 0) := by
  refine ⟨_, rfl, ?_⟩
  rw [folded, hz]
  exact queued_longV _ _ _

theorem widenElt_maxElt (h : (ty, w) ∈ intTypes) : widenElt ty (maxElt ty) = BitVec.ofNat 32 (if ty = .u8 then 255 else 2 ^ (w - 1) - 1) := by
  obtain ⟨rfl, rfl⟩ | ⟨rfl, rfl⟩ | ⟨rfl, rfl⟩ | ⟨rfl, rfl⟩ := intTypes_cases h <;> decide

theorem widenElt_minElt (h : (ty, w) ∈ intTypes) :
    widenElt ty (minElt ty) = BitVec.ofNat 32 (if ty = .u8 then 0 else 2 ^ 32 - 2 ^ (w - 1)) := by
  obtain ⟨rfl, rfl⟩ | ⟨rfl, rfl⟩ | ⟨rfl, rfl⟩ | ⟨rfl, rfl⟩ := intTypes_cases h <;> decide

theorem exec_vredMin_int (h : (ty, w) ∈ intTypes) :
    exec (.vredMin p d a ty) s = vExtreme s d ty false (maxElt ty) (foldedElements (s.rP p) (s.rV a) w) := by
  obtain ⟨hint, hwidth, -, -⟩ := of_mem_intTypes h
  rw [exec_vredMin, if_neg hint, hwidth]

theorem exec_vredMax_int (h : (ty, w) ∈ intTypes) :
    exec (.vredMax p d a ty) s = vExtreme s d ty true (minElt ty) (foldedElements (s.rP p) (s.rV a) w) := by
  obtain ⟨hint, hwidth, -, -⟩ := of_mem_intTypes h
  rw [exec_vredMax, if_neg hint, hwidth]

/-! ## Floating-point reductions -/

/-- A reduction of a floating-point type enters the code and the flags of its fold. -/
theorem vReduce_queuedFold (r : Nat × BitVec 5) : ∃ t, s.vReduce d (BitVec.ofNat 32 r.1) r.2 = .next t ∧ QueuedFold s t d r :=
  ⟨_, rfl, queued_longV _ _ _⟩

theorem exec_vredSum_float (hty : (ty, f) ∈ floatTypes) {r : Nat × BitVec 5}
    (hr : r = folded (fun x y => fadd f s.rm (f.value x) (f.value y)) 0 (foldedElements (s.rP p) (s.rV a) f.width)) :
    exec (.vredSum p d a ty) s = s.vReduce d (BitVec.ofNat 32 r.1) r.2 := by
  obtain ⟨hfloat, hformat, hwidth, -⟩ := of_mem_floatTypes hty
  have helts : activeElts f.width (s.rP p) (s.rV a) = foldedElements (s.rP p) (s.rV a) f.width := hwidth ▸ activeElts_eltW ty _ _
  change execVredSum p d a ty s = _
  simp only [execVredSum, if_pos hfloat, foldElts_getD, helts, hformat, hwidth, hr]

theorem vExtreme_float (hty : (ty, f) ∈ floatTypes) (mx : Bool) (z : Nat) (l : List Nat) :
    ∃ t, vExtreme s d ty mx z l = .next t ∧ QueuedFold s t d (folded (fminmax f mx) z l) := by
  have hop : eltMinMax ty mx = fminmax f mx := funext fun x => funext (eltMinMax_float hty mx x)
  rw [vExtreme, hop, widenElt, if_pos (of_mem_floatTypes hty).1]
  exact vReduce_queuedFold _

theorem exec_vredMin_float (hty : (ty, f) ∈ floatTypes) :
    exec (.vredMin p d a ty) s = vExtreme s d ty false f.infCode (foldedElements (s.rP p) (s.rV a) f.width) := by
  obtain ⟨hfloat, hformat, hwidth, -⟩ := of_mem_floatTypes hty
  rw [exec_vredMin, if_pos hfloat, hformat, hwidth]

theorem exec_vredMax_float (hty : (ty, f) ∈ floatTypes) : exec (.vredMax p d a ty) s =
    vExtreme s d ty true (2 ^ (f.width - 1) + f.infCode) (foldedElements (s.rP p) (s.rV a) f.width) := by
  obtain ⟨hfloat, hformat, hwidth, -⟩ := of_mem_floatTypes hty
  have hinf : f.signed true f.infCode = 2 ^ (f.width - 1) + f.infCode := Nat.add_comm _ _
  rw [exec_vredMax, if_pos hfloat, hformat, hwidth, hinf]

/-- Settles O39: every long form is one entry of the return buffer; what it holds is an operation on the lanes, the scale step's
two numbers, or a fold over the elements of the predicate's lanes. -/
theorem vectorLongForms : Obligations.VectorLongForms := by
  refine ⟨fun i s ty f p d g hty h => ?_, fun s p d a b k => vLong_queuedLanes _, fun s p d a b k => vquantS_queued k,
    fun s p d a ty w h => ?_, fun s p d a ty w h hp => ⟨?_, ?_⟩, fun s p d a ty w h hp => ⟨?_, ?_⟩,
    fun s p d a ty f hty => ⟨?_, ?_, ?_⟩, fun s d a b => ⟨_, rfl, queued_longV _ _ _⟩⟩
  · rw [exec_of_vecDeep hty h]
    exact vLong_queuedLanes _
  · exact ⟨_, _, exec_vredSum_int h, queued_longV _ _ _, fun i hi _ => lane_setWidth_above _ hi, lane_setWidth_zero _⟩
  · rw [exec_vredMin_int h]
    exact vExtreme_queued h hp false _
  · rw [exec_vredMax_int h]
    exact vExtreme_queued h hp true _
  · rw [exec_vredMin_int h, hp, foldedElements_zero]
    exact vExtreme_nil false (widenElt_maxElt h)
  · rw [exec_vredMax_int h, hp, foldedElements_zero]
    exact vExtreme_nil true (widenElt_minElt h)
  · rw [exec_vredSum_float hty rfl]
    exact vReduce_queuedFold _
  · rw [exec_vredMin_float hty]
    exact vExtreme_float hty false _ _
  · rw [exec_vredMax_float hty]
    exact vExtreme_float hty true _ _

end Sys2Proof.Claims
end

section
/-!
PROOFS. Decoding the words of a well-formed instruction gives it back (R69 to R83, R222). A word that a format built is read
field by field; the decoder's branch for an instruction then depends on those fields alone.
-/
namespace Sys2Proof

/-! ## Fields of a word that a format built (R73, R75) -/

theorem fld_ofNat {n lo k : Nat} (h : n < 2 ^ 29) : fld (BitVec.ofNat 29 n) lo k = n / 2 ^ lo % 2 ^ k := by
  rw [fld, toNat_ofNat_of_lt h]

/-- A slot-A word whose fields are an opcode, two registers and a 12-bit number (R73). -/
structure ReadsA (w : SlotWord) (op : Nat) (d a : SReg) (imm : Nat) : Prop where
  op : opA w = op
  d : fD w = d
  a : fA w = a
  imm : fld w 0 12 = imm

/-- A slot-B word whose fields are as given (R75). -/
structure ReadsB (w : SlotWord) (op : Nat) (p : PReg) (d a b : VReg) (ty : Ty) (fn : Nat) : Prop where
  op : opB w = op
  p : bP w = p
  d : bD w = d
  a : bA w = a
  b : bB w = b
  ty : bTy w = ty
  fn : bFn w = fn

theorem readsA_word {op d a imm : Nat} (hop : op < 2 ^ 7) (hd : d < 2 ^ 5) (ha : a < 2 ^ 5) (himm : imm < 2 ^ 12) :
    ReadsA (BitVec.ofNat 29 (op * 2 ^ 22 + d * 2 ^ 17 + a * 2 ^ 12 + imm)) op (BitVec.ofNat 5 d) (BitVec.ofNat 5 a) imm := by
  have hlt : op * 2 ^ 22 + d * 2 ^ 17 + a * 2 ^ 12 + imm < 2 ^ 29 := by omega
  constructor
  · rw [opA, fld_ofNat hlt]; omega
  · rw [fD, fld_ofNat hlt]; congr 1; omega
  · rw [fA, fld_ofNat hlt]; congr 1; omega
  · rw [fld_ofNat hlt]; omega

theorem tyOf_code (ty : Ty) : tyOf ty.code = ty := by cases ty <;> rfl

theorem code_lt (ty : Ty) : ty.code < 2 ^ 3 := by cases ty <;> decide

theorem readsB_word {op p d a b fn : Nat} (ty : Ty) (hop : op < 2 ^ 6) (hp : p < 2 ^ 3) (hd : d < 2 ^ 4) (ha : a < 2 ^ 4)
    (hb : b < 2 ^ 4) (hfn : fn < 2 ^ 5) :
    ReadsB (BitVec.ofNat 29 (op * 2 ^ 23 + p * 2 ^ 20 + d * 2 ^ 16 + a * 2 ^ 12 + b * 2 ^ 8 + ty.code * 2 ^ 5 + fn)) op
      (BitVec.ofNat 3 p) (BitVec.ofNat 4 d) (BitVec.ofNat 4 a) (BitVec.ofNat 4 b) ty fn := by
  have hty := code_lt ty
  have hlt : op * 2 ^ 23 + p * 2 ^ 20 + d * 2 ^ 16 + a * 2 ^ 12 + b * 2 ^ 8 + ty.code * 2 ^ 5 + fn < 2 ^ 29 := by omega
  constructor
  · rw [opB, fld_ofNat hlt]; omega
  · rw [bP, fld_ofNat hlt]; congr 1; omega
  · rw [bD, fld_ofNat hlt]; congr 1; omega
  · rw [bA, fld_ofNat hlt]; congr 1; omega
  · rw [bB, fld_ofNat hlt]; congr 1; omega
  · rw [bTy, fld_ofNat hlt]; conv_rhs => rw [← tyOf_code ty]
    congr 1; omega
  · rw [bFn, fld_ofNat hlt]; omega

section
variable {w : SlotWord} {op imm : Nat} {d a : SReg}

/-- The fields inside the low twelve bits. -/
theorem ReadsA.low (h : ReadsA w op d a imm) {lo n : Nat} (hn : lo + n ≤ 12) : fld w lo n = imm / 2 ^ lo % 2 ^ n := by
  obtain ⟨r, hr⟩ := Nat.exists_eq_add_of_le hn
  rw [← h.imm, hr, Nat.add_assoc, fld_add w 0 lo (n + r), fld_add w (0 + lo) n r, Nat.zero_add]
  have hlo := fld_lt w 0 lo
  have hnn := fld_lt w lo n
  rw [Nat.add_mul_div_left _ _ (Nat.two_pow_pos lo), Nat.div_eq_of_lt hlo, Nat.zero_add, Nat.add_mul_mod_self_left,
    Nat.mod_eq_of_lt hnn]

theorem ReadsA.b (h : ReadsA w op d a imm) : fB w = BitVec.ofNat 5 (imm / 2 ^ 7) := by
  have hlt : imm < 2 ^ 12 := h.imm ▸ fld_lt w 0 12
  rw [fB, h.low (by decide)]; congr 1; omega

theorem ReadsA.fn (h : ReadsA w op d a imm) : fFn w = imm % 2 ^ 7 := by rw [fFn, h.low (by decide)]; omega

/-- A number of `k` bits in the low twelve stands below zeros. -/
theorem ReadsA.small {k : Nat} {n : BitVec k} (h : ReadsA w op d a n.toNat) (m : Nat) (hk : k + m = 12 := by decide) :
    BitVec.ofNat k (fld w 0 k) = n ∧ fld w k m = 0 := by
  have hn : n.toNat / 2 ^ k = 0 := Nat.div_eq_of_lt n.isLt
  rw [h.low (by omega), h.low (by omega), hn]
  simp

theorem ReadsA.f17 (h : ReadsA w op d a imm) : fld w 0 17 = imm + 2 ^ 12 * a.toNat := by
  rw [fld_add w 0 12 5, h.imm, ← h.a, toNat_fA, Nat.zero_add]

theorem ReadsA.regs (h : ReadsA w op d a imm) : fld w 12 10 = a.toNat + 2 ^ 5 * d.toNat := by
  rw [fld_add w 12 5 5, ← h.a, ← h.d, toNat_fA, toNat_fD]

end

/-- A word of an RR form (R73): three registers and a sub-function. -/
structure ReadsRR (w : SlotWord) (op : Nat) (d a b : SReg) (fn : Nat) : Prop extends ReadsA w op d a (b.toNat * 2 ^ 7 + fn) where
  b : fB w = b
  fn : fFn w = fn

theorem readsRR_word {op d a b fn : Nat} (hop : op < 2 ^ 7) (hd : d < 2 ^ 5) (ha : a < 2 ^ 5) (hb : b < 2 ^ 5) (hfn : fn < 2 ^ 7) :
    ReadsRR (BitVec.ofNat 29 (op * 2 ^ 22 + d * 2 ^ 17 + a * 2 ^ 12 + b * 2 ^ 7 + fn)) op (BitVec.ofNat 5 d) (BitVec.ofNat 5 a)
      (BitVec.ofNat 5 b) fn := by
  have h := readsA_word hop hd ha (imm := b * 2 ^ 7 + fn) (by omega)
  rw [← Nat.add_assoc] at h
  refine ⟨(toNat_ofNat_of_lt hb).symm ▸ h, ?_, ?_⟩
  · rw [h.b]; congr 1; omega
  · rw [h.fn]; omega

section
variable {w : SlotWord} {op fn : Nat} {d a b : SReg}

theorem ReadsA.all {imm : Nat} (h : ReadsA w op d a imm) : fld w 0 22 = imm + 2 ^ 12 * (a.toNat + 2 ^ 5 * d.toNat) := by
  rw [fld_add w 0 12 10, h.imm, h.regs]

theorem ReadsRR.ba (h : ReadsRR w op d a b fn) : fld w 7 10 = b.toNat + 2 ^ 5 * a.toNat := by
  rw [fld_add w 7 5 5, ← h.b, ← h.a, toNat_fB, toNat_fA]

theorem ReadsRR.bad (h : ReadsRR w op d a b fn) : fld w 7 15 = b.toNat + 2 ^ 5 * (a.toNat + 2 ^ 5 * d.toNat) := by
  rw [fld_add w 7 5 10, h.regs, ← h.b, toNat_fB]

end

/-! ## The formats decode by their fields -/

section
variable {i : Instr} {op d a b imm fn : Nat}

theorem decodeEnc_rr (h : ∀ w, ReadsRR w op (BitVec.ofNat 5 d) (BitVec.ofNat 5 a) (BitVec.ofNat 5 b) fn → decodeA w none = .ok i)
    (hop : op < 2 ^ 7 := by decide) (hd : d < 2 ^ 5 := by omega) (ha : a < 2 ^ 5 := by omega) (hb : b < 2 ^ 5 := by omega)
    (hfn : fn < 2 ^ 7 := by omega) : decodeEnc (rr op d a b fn) = .ok i :=
  h _ (readsRR_word hop hd ha hb hfn)

theorem decodeEnc_ri0 (h : ∀ w, ReadsA w op (BitVec.ofNat 5 d) (BitVec.ofNat 5 a) imm → decodeA w none = .ok i)
    (hop : op < 2 ^ 7 := by decide) (hd : d < 2 ^ 5 := by omega) (ha : a < 2 ^ 5 := by omega) (himm : imm < 2 ^ 12 := by omega) :
    decodeEnc (ri0 op d a imm) = .ok i :=
  h _ (readsA_word hop hd ha himm)

/-- The extension of an immediate, if there is one (R71). -/
theorem decodeEnc_ri {m : Imm} (h : ∀ w x, (∃ n, ReadsA w op (BitVec.ofNat 5 d) (BitVec.ofNat 5 a) n) → immOf w x = m → decodeA w x = .ok i)
    (hop : op < 2 ^ 7 := by decide) (hd : d < 2 ^ 5 := by omega) (ha : a < 2 ^ 5 := by omega) : decodeEnc (ri op d a m) = .ok i := by
  cases m with
  | pair v =>
    have hw := readsA_word hop hd ha v.isLt
    exact h _ _ ⟨_, hw⟩ (by rw [immOf, f12, hw.imm, BitVec.ofNat_toNat, BitVec.setWidth_eq])
  | ext v =>
    have hw := readsA_word hop hd ha (imm := v.toNat % 4096) (by omega)
    have hx : (BitVec.ofNat 29 (v.toNat / 4096)).toNat = v.toNat / 4096 := toNat_ofNat_of_lt (by omega)
    exact h _ _ ⟨_, hw⟩ (by rw [immOf, hw.imm, hx, Nat.div_add_mod', BitVec.ofNat_toNat, BitVec.setWidth_eq])

theorem decodeEnc_rx {e : Bool}
    (h : ∀ w x, ReadsA w op (BitVec.ofNat 5 d) (BitVec.ofNat 5 a) imm → x.getD 0#29 = 0#29 → x.isSome = e → decodeA w x = .ok i)
    (hop : op < 2 ^ 7 := by decide) (hd : d < 2 ^ 5 := by omega) (ha : a < 2 ^ 5 := by omega) (himm : imm < 2 ^ 12 := by omega) :
    decodeEnc (rx op d a imm e) = .ok i := by
  cases e <;> exact h _ _ (readsA_word hop hd ha himm) rfl rfl

theorem decodeEnc_jf {off : BitVec 17} (h : ∀ w, opA w = op → fD w = BitVec.ofNat 5 d → f17 w = off → decodeA w none = .ok i)
    (hop : op < 2 ^ 7 := by decide) (hd : d < 2 ^ 5 := by omega) : decodeEnc (jf op d off.toNat) = .ok i := by
  have hlt : op * 2 ^ 22 + d * 2 ^ 17 + off.toNat < 2 ^ 29 := by omega
  refine h _ ?_ ?_ ?_
  · rw [opA, fld_ofNat hlt]; omega
  · rw [fD, fld_ofNat hlt]; congr 1; omega
  · refine BitVec.eq_of_toNat_eq ?_
    rw [f17, toNat_ofNat_fld_self, fld_ofNat hlt]; omega

theorem decodeEnc_vb {p : Nat} {ty : Ty} {n : Nat}
    (h : ∀ w, ReadsB w op (BitVec.ofNat 3 p) (BitVec.ofNat 4 d) (BitVec.ofNat 4 a) (BitVec.ofNat 4 b) ty fn → decodeB w = .ok i)
    (hty : ty.code = n) (hop : op < 2 ^ 6 := by decide) (hp : p < 2 ^ 3 := by omega) (hd : d < 2 ^ 4 := by omega)
    (ha : a < 2 ^ 4 := by omega) (hb : b < 2 ^ 4 := by omega) (hfn : fn < 2 ^ 5 := by omega) :
    decodeEnc (vb op p d a b n fn) = .ok i :=
  hty ▸ h _ (readsB_word ty hop hp hd ha hb hfn)

end

/-! ## The registers of the other files in a scalar field (R74) -/

@[simp] theorem asV_setWidth (v : VReg) : asV (v.setWidth 5) = v := by
  refine BitVec.eq_of_toNat_eq ?_; simp only [asV, BitVec.toNat_ofNat, BitVec.toNat_setWidth]; omega
@[simp] theorem okV_setWidth (v : VReg) : okV (v.setWidth 5) = true := by
  simp only [okV, BitVec.toNat_setWidth, decide_eq_true_eq]; omega
@[simp] theorem asP_setWidth (p : PReg) : asP (p.setWidth 5) = p := by
  refine BitVec.eq_of_toNat_eq ?_; simp only [asP, BitVec.toNat_ofNat, BitVec.toNat_setWidth]; omega
@[simp] theorem okP_setWidth (p : PReg) : okP (p.setWidth 5) = true := by
  simp only [okP, BitVec.toNat_setWidth, decide_eq_true_eq]; omega
@[simp] theorem asQ_ofNat (q : Quad) : asQ (BitVec.ofNat 5 (q.toNat * 4)) = q := by
  refine BitVec.eq_of_toNat_eq ?_; simp only [asQ, BitVec.toNat_ofNat]; omega
@[simp] theorem okQ_ofNat (q : Quad) : okQ (BitVec.ofNat 5 (q.toNat * 4)) = true := by
  simp only [okQ, BitVec.toNat_ofNat, decide_eq_true_eq]; omega

/-! ## What the decoder's checks accept -/

@[simp] theorem accept_true (r : Reject) (i : Instr) : accept true r i = .ok i := rfl
@[simp] theorem ok_bind (i : Instr) (f : Instr → Except Reject Instr) : (Except.ok i >>= f) = f i := rfl
@[simp] theorem noExt_none (r : Except Reject Instr) : noExt none r = r := rfl

theorem scopeOf_code (sc : Scope) : scopeOf sc.code = some sc := by cases sc <;> rfl
theorem etypeOf_code (et : EType) : etypeOf et.code = some et := by cases et <;> rfl
theorem Scope.code_lt (sc : Scope) : sc.code < 6 := by cases sc <;> decide
theorem EType.code_lt (et : EType) : et.code < 10 := by cases et <;> decide

theorem amoFn_lt {n : Nat} (w32 uns : Bool) (h : n < 8) : amoFn n w32 uns < 2 ^ 5 := by
  cases w32 <;> cases uns <;> simp only [amoFn, Bool.toNat_true, Bool.toNat_false] <;> omega

/-! ## Slot A -/

section
variable {op : Nat} {d a b : SReg}

theorem decodeEnc_shift {mk : SReg → SReg → BitVec 6 → Bool → Instr} (n : BitVec 6) (e : Bool)
    (h : ∀ w x, opA w = op → decodeA w x = decodeShift mk w x) (hop : op < 2 ^ 7 := by decide) :
    decodeEnc (rx op d.toNat a.toNat n.toNat e) = .ok (mk d a n e) := by
  refine decodeEnc_rx (fun w x hw hx hs => ?_) hop
  obtain ⟨hlo, hhi⟩ := hw.small 6
  rw [h w x hw.op, decodeShift, hlo, hhi]
  simp [hw.d, hw.a, hs, hx]

theorem decodeEnc_bits {mk : SReg → SReg → BitVec 6 → BitVec 6 → Instr} {pos n : BitVec 6} (hle : pos.toNat + n.toNat + 1 ≤ 64)
    (h : ∀ w, opA w = op → decodeA w none = decodeBits mk w) (hop : op < 2 ^ 7 := by decide) :
    decodeEnc (ri0 op d.toNat a.toNat (pos.toNat * 64 + n.toNat)) = .ok (mk d a pos n) := by
  refine decodeEnc_ri0 (fun w hw => ?_) hop
  have hpos : fld w 6 6 = pos.toNat := by rw [hw.low (by decide)]; omega
  have hn : fld w 0 6 = n.toNat := by rw [hw.low (by decide)]; omega
  rw [h w hw.op, decodeBits, hpos, hn, decide_eq_true hle]
  simp [hw.d, hw.a]

/-- The sub-function of an atomic form, field by field (R80). -/
theorem fields_of_amoFn {w : SlotWord} {n : Nat} {w32 uns : Bool} (h : fFn w = amoFn n w32 uns) (hn : n < 8) :
    fld w 0 3 = n ∧ (fld w 3 1 == 1) = w32 ∧ (fld w 4 1 == 1) = uns ∧ fld w 5 2 = 0 := by
  have hfn : fFn w = fld w 0 3 + 2 ^ 3 * (fld w 3 1 + 2 ^ 1 * (fld w 4 1 + 2 ^ 1 * fld w 5 2)) := by
    rw [← fld_add w 4 1 2, ← fld_add w 3 1 3, ← fld_add w 0 3 4, fFn]
  have h0 := fld_lt w 0 3
  have h1 := fld_lt w 3 1
  have h2 := fld_lt w 4 1
  rw [beq_eq_decide, beq_eq_decide]
  cases w32 <;> cases uns <;> simp only [amoFn, Bool.toNat_true, Bool.toNat_false] at h <;>
    simp only [decide_eq_true_eq, decide_eq_false_iff_not] <;> omega

theorem decodeEnc_amo {i : Instr} {n : Nat} {w32 uns : Bool} (hn : n < 8)
    (h : ∀ w, fD w = d → fA w = a → fB w = b → fld w 0 3 = n → (fld w 3 1 == 1) = w32 → (fld w 4 1 == 1) = uns → fld w 5 2 = 0 →
      decodeAmo w = .ok i) : decodeEnc (rr 0x42 d.toNat a.toNat b.toNat (amoFn n w32 uns)) = .ok i := by
  have := amoFn_lt w32 uns hn
  refine decodeEnc_rr fun w hw => ?_
  obtain ⟨h0, h3, h4, h5⟩ := fields_of_amoFn hw.fn hn
  rw [← h w (by simpa using hw.d) (by simpa using hw.a) (by simpa using hw.b) h0 h3 h4 h5]
  simp [decodeA, decodeA4, hw.op]

theorem decodeEnc_red {i : Instr} {n : Nat} {w32 uns : Bool} (hn : n < 8)
    (h : ∀ w, fD w = 0 → fA w = a → fB w = b → fld w 0 3 = n → (fld w 3 1 == 1) = w32 → (fld w 4 1 == 1) = uns → fld w 5 2 = 0 →
      decodeRed w = .ok i) : decodeEnc (rr 0x44 0 a.toNat b.toNat (amoFn n w32 uns)) = .ok i := by
  have := amoFn_lt w32 uns hn
  refine decodeEnc_rr fun w hw => ?_
  obtain ⟨h0, h3, h4, h5⟩ := fields_of_amoFn hw.fn hn
  rw [← h w hw.d (by simpa using hw.a) (by simpa using hw.b) h0 h3 h4 h5]
  simp [decodeA, decodeA4, hw.op]

end

/-- The extension of movt's immediate (R105). -/
theorem decodeEnc_movt (d a : SReg) (n : BitVec 23) :
    decodeEnc (ri 0x1C d.toNat a.toNat (.ext (n.setWidth 41))) = .ok (.movt d a n) := by
  have hn : (n.setWidth 41).toNat = n.toNat := BitVec.toNat_setWidth_of_le (by decide)
  have hx : (BitVec.ofNat 29 (n.toNat / 4096)).toNat = n.toNat / 4096 := toNat_ofNat_of_lt (by omega)
  have hlt : n.toNat / 4096 < 2048 := by omega
  have hw := readsA_word (op := 0x1C) (imm := n.toNat % 4096) (by decide) d.isLt a.isLt (by omega)
  rw [ri, hn]
  simp only [decodeEnc, decodeA, decodeA0, hw.op, hw.d, hw.a, hw.imm, hx, Nat.div_add_mod', decide_eq_true hlt, accept_true]
  simp

/-- The immediate of fetcht, field by field (R202). -/
theorem ReadsA.fetcht {w : SlotWord} {op imm : Nat} {d a : SReg} {job : BitVec 4} (h : ReadsA w op d a imm) (n : Nat)
    (himm : imm = n * 16 + job.toNat := by omega) (hn : n < 4 := by decide) :
    fld w 4 2 = n ∧ fld w 6 6 = 0 ∧ BitVec.ofNat 4 (fld w 0 4) = job := by
  refine ⟨?_, ?_, BitVec.eq_of_toNat_eq ?_⟩
  · rw [h.low (by decide)]; omega
  · rw [h.low (by decide)]; omega
  · rw [toNat_ofNat_fld_self, h.low (by decide)]; omega

/-- The immediate of esc and esc.o, field by field (R187). -/
theorem ReadsA.esc {w : SlotWord} {op imm : Nat} {d a : SReg} {node : BitVec 2} (h : ReadsA w op d a imm) (n : Nat)
    (himm : imm = 4 * n + node.toNat := by omega) (hn : n < 2 := by decide) :
    fld w 2 1 = n ∧ fld w 3 9 = 0 ∧ BitVec.ofNat 2 (fld w 0 2) = node := by
  refine ⟨?_, ?_, BitVec.eq_of_toNat_eq ?_⟩
  · rw [h.low (by decide)]; omega
  · rw [h.low (by decide)]; omega
  · rw [toNat_ofNat_fld_self, h.low (by decide)]; omega

/-- The sub-function that selects among the forms of a merge or of a stop is not zero (R171, R173). -/
theorem pos_of_bne_zero {n : BitVec 3} (h : (n != 0#3) = true) : (decide (1 ≤ n.toNat) && decide (n.toNat ≤ 7)) = true := by
  have hne : n.toNat ≠ 0 := fun h0 => bne_iff_ne.mp h (BitVec.eq_of_toNat_eq h0)
  simp only [Bool.and_eq_true, decide_eq_true_eq]
  omega

/-! ## Slot B -/

/-- The targets of vcvt and vquant have a code of their own (R147, R157). -/
theorem fmtOf_code_of_isCvtDst {f : CFmt} (h : f.isCvtDst = true) : fmtOf f.code = some f ∧ f.code < 2 ^ 4 := by
  cases f <;> cases h <;> exact ⟨rfl, by decide⟩
theorem fmtOf_code_of_isQuant {f : CFmt} (h : f.isQuant = true) : fmtOf f.code = some f ∧ f.code < 2 ^ 4 := by
  cases f <;> cases h <;> exact ⟨rfl, by decide⟩
theorem isQuant_of_isQuantS {f : CFmt} (h : f.isQuantS = true) : f.isQuant = true := by
  cases f <;> cases h <;> rfl

theorem cvtSrcCode_lt (f : CFmt) : (cvtSrcCode f).2 < 2 ^ 4 := by cases f <;> decide

/-- The ty and vb fields of a source of vcvt are read back (R147). -/
theorem cvtSrcOf_code {f : CFmt} (h : f.isCvtSrc = true) : ∃ ty : Ty, (cvtSrcCode f).1 = ty.code ∧ cvtSrcOf ty (cvtSrcCode f).2 = some f := by
  cases f <;> cases h
  exacts [⟨.f32, rfl, rfl⟩, ⟨.bf16, rfl, rfl⟩, ⟨.f16, rfl, rfl⟩, ⟨.i32, rfl, rfl⟩, ⟨.i16, rfl, rfl⟩, ⟨.x, rfl, rfl⟩, ⟨.x, rfl, rfl⟩,
    ⟨.x, rfl, rfl⟩, ⟨.x, rfl, rfl⟩, ⟨.x, rfl, rfl⟩, ⟨.i8, rfl, rfl⟩, ⟨.u8, rfl, rfl⟩]

theorem PackForm.code_lt (f : PackForm) : f.code.2 < 2 ^ 5 := by
  cases f with
  | half ty h => have := h.toNat_lt; simp only [PackForm.code]; omega
  | byte uns q => simp only [PackForm.code]; omega
  | raw n q => simp only [PackForm.code]; omega

theorem okUnpk_of_okPack {f : PackForm} (h : f.okPack = true) : f.okUnpk = true := by
  cases f with
  | half ty h' => exact (Bool.and_eq_true_iff.mp h).1
  | byte uns q => rfl
  | raw n q => exact h

/-- The ty and fn fields of a form of vpack or vunpk are read back (R149, R150). -/
theorem packFormOf_code {f : PackForm} (h : f.okUnpk = true) : ∃ ty : Ty, f.code.1 = ty.code ∧ packFormOf ty f.code.2 = some f := by
  cases f with
  | half ty h' =>
    refine ⟨ty, rfl, ?_⟩
    cases ty <;> cases h <;> cases h' <;> rfl
  | byte uns q =>
    have hq : q.toNat < 4 := q.isLt
    cases uns
    · exact ⟨.i8, rfl, by simp [PackForm.code, packFormOf, hq]⟩
    · exact ⟨.u8, rfl, by simp [PackForm.code, packFormOf, hq]⟩
  | raw n q =>
    have hlt : n.toNat * 4 + q.toNat < 16 := by omega
    have hdiv : (n.toNat * 4 + q.toNat) / 4 = n.toNat := by omega
    have hmod : (n.toNat * 4 + q.toNat) % 4 = q.toNat := by omega
    exact ⟨.x, rfl, by simp [PackForm.code, packFormOf, hlt, hdiv, hmod]⟩

section
variable {w : SlotWord} {op fn : Nat} {p : PReg} {d a b : VReg} {ty : Ty}

/-- The field vd of a compare holds a predicate register (R84, R143). -/
theorem ReadsB.compared {pd : PReg} (h : ReadsB w op p (BitVec.ofNat 4 pd.toNat) a b ty fn) :
    BitVec.ofNat 3 (fld w 16 3) = pd ∧ fld w 19 1 = 0 := by
  have hd : fld w 16 3 + 2 ^ 3 * fld w 19 1 = pd.toNat := by
    rw [← fld_add w 16 3 1, ← toNat_bD, h.d, toNat_ofNat_of_lt (by omega)]
  have hlt := fld_lt w 16 3
  refine ⟨BitVec.eq_of_toNat_eq ?_, ?_⟩
  · rw [toNat_ofNat_fld_self]; omega
  · omega

/-- The field vb of vmovs: the direction above the lane (R154). -/
theorem ReadsB.movedLane {dir : Bool} {lane : BitVec 3} (h : ReadsB w op p d a (BitVec.ofNat 4 (dir.toNat * 8 + lane.toNat)) ty fn) :
    BitVec.ofNat 3 (fld w 8 3) = lane ∧ (fld w 11 1 == 1) = dir := by
  have hdir := dir.toNat_lt
  have hb : fld w 8 3 + 2 ^ 3 * fld w 11 1 = dir.toNat * 8 + lane.toNat := by
    rw [← fld_add w 8 3 1, ← toNat_bB, h.b, toNat_ofNat_of_lt (by omega)]
  have hlt := fld_lt w 8 3
  refine ⟨BitVec.eq_of_toNat_eq ?_, ?_⟩
  · rw [toNat_ofNat_fld_self]; omega
  · have htop : fld w 11 1 = dir.toNat := by omega
    rw [htop]; cases dir <;> rfl

/-- The sub-function of vcvt and vquant: a code above one bit (R147, R157). -/
theorem ReadsB.fnBit (h : ReadsB w op p d a b ty fn) (n : Nat) (c : Bool) (hfn : fn = n * 2 + c.toNat := by rfl) :
    fld w 0 1 = c.toNat ∧ fld w 1 4 = n := by
  have hc := c.toNat_lt
  have hlt := fld_lt w 0 1
  have hsum : fld w 0 1 + 2 ^ 1 * fld w 1 4 = fn := by rw [← fld_add w 0 1 4, ← h.fn, bFn]
  omega

end

/-! ## The two slots -/

@[simp] theorem ri_ne_b {op d a : Nat} {m : Imm} {w : SlotWord} : Enc.b w ≠ ri op d a m := by cases m <;> nofun
@[simp] theorem vb_ne_a {op p d a b ty fn : Nat} {w : SlotWord} {x : Option SlotWord} : Enc.a w x ≠ vb op p d a b ty fn := nofun


/-- A slot-A instruction is read back, opcode block by opcode block (R77, R79 to R82). -/
theorem decodeA_of_encode {i : Instr} {w : SlotWord} {x : Option SlotWord} (hwf : i.wf = true) (he : encode i = some (.a w x)) :
    decodeA w x = .ok i.asDecoded := by
  change decodeEnc (.a w x) = _
  generalize h : Enc.a w x = e at he ⊢
  cases i with
  | add d a b | sub d a b | and d a b | or d a b | xor d a b | andn d a b | sll d a b | srl d a b | sra d a b | rol d a b
  | ror d a b | mul d a b | mulh d a b | mulhu d a b | mulhsu d a b | div d a b | divu d a b | rem d a b | remu d a b
  | min d a b | max d a b | minu d a b | maxu d a b | slt d a b | sltu d a b | seq d a b | sel d a b =>
    cases he
    exact decodeEnc_rr fun w h => by simp [decodeA, decodeA0, h.op, decodeAlu, h.fn, h.d, h.a, h.b, Instr.asDecoded]
  | clz d a | ctz d a | popc d a | brev d a | bswap d a | sextB d a | sextH d a | sextW d a | zextB d a | zextH d a | zextW d a =>
    cases he
    exact decodeEnc_rr fun w h => by simp [decodeA, decodeA0, h.op, decodeAlu, h.fn, h.d, h.a, h.b, Instr.asDecoded]
  | addi d a m | andi d a m | ori d a m | xori d a m | slti d a m | sltiu d a m | seqi d a m | muli d a m | movi d m =>
    cases he
    exact decodeEnc_ri fun w x ⟨_, h⟩ hm => by simp [decodeA, decodeA0, h.op, h.d, h.a, hm, Instr.asDecoded]
  | slli d a n x | srli d a n x | srai d a n x | roli d a n x =>
    cases he
    exact decodeEnc_shift n x fun w x hop => by simp [decodeA, decodeA0, hop]
  | bext d a pos n | bextu d a pos n | bins d a pos n =>
    cases he
    exact decodeEnc_bits (of_decide_eq_true hwf) fun w hop => by simp [decodeA, decodeA0, hop]
  | lea d a b sh =>
    cases he
    exact decodeEnc_rr fun w h => by
      simp [decodeA, decodeA0, h.op, h.d, h.a, h.b, h.fn, Instr.asDecoded, show decide (sh.toNat ≤ 5) = true from hwf]
  | movt d a n =>
    cases he
    exact decodeEnc_movt d a n
  | lui d off | addpc d off | addpg d off =>
    cases he
    exact decodeEnc_jf fun w hop hd hoff => by simp [decodeA, decodeA0, hop, hd, hoff, Instr.asDecoded]
  | jmp off | jal d off =>
    cases he
    exact decodeEnc_jf fun w hop hd hoff => by simp [decodeA, decodeA2, hop, hd, hoff, Instr.asDecoded]
  | beq a b m | bne a b m | blt a b m | bge a b m | bltu a b m | bgeu a b m | jalr a b m | loop a m | bany p m | bnone p m =>
    cases he
    exact decodeEnc_ri fun w x ⟨_, h⟩ hm => by simp [decodeA, decodeA2, h.op, h.d, h.a, hm, Instr.asDecoded]
  | ldb d a m | ldbu d a m | ldh d a m | ldhu d a m | ldw d a m | ldwu d a m | ldd d a m | stb d a m | sth d a m | stw d a m
  | std d a m | vld v a m | vst v a m | pf a m =>
    cases he
    exact decodeEnc_ri fun w x ⟨_, h⟩ hm => by simp [decodeA, decodeA3, h.op, h.d, h.a, hm, Instr.asDecoded]
  | vgather v a o sh | vscatter v a o sh =>
    cases he
    have hsh : decide (sh.toNat ≤ 3) = true := decide_eq_true (by omega)
    exact decodeEnc_rr fun w h => by simp [decodeA, decodeA3, h.op, h.d, h.a, h.b, h.fn, hsh, Instr.asDecoded]
  | acqL d a m | relL d a m | ldAcq d a m | stRel d a m =>
    cases he
    exact decodeEnc_ri fun w x ⟨_, h⟩ hm => by simp [decodeA, decodeA4, h.op, h.d, h.a, hm, Instr.asDecoded]
  | amoAdd d a b w32 | amoSwap d a b w32 | amoCas d a b w32 | amoAnd d a b w32 | amoOr d a b w32 | amoXor d a b w32
  | amoMin d a b w32 uns | amoMax d a b w32 uns =>
    cases he
    exact decodeEnc_amo (by decide) fun w hd ha hb h0 h3 h4 h5 => by
      simp [decodeAmo, hd, ha, hb, h0, h3, h4, h5, Instr.asDecoded]
  | redAdd a b w32 | redAnd a b w32 | redOr a b w32 | redXor a b w32 | redMin a b w32 uns | redMax a b w32 uns | redFaddW a b =>
    cases he
    exact decodeEnc_red (by decide) fun w hd ha hb h0 h3 h4 h5 => by
      simp [decodeRed, hd, ha, hb, h0, h3, h4, h5, Instr.asDecoded]
  | waitR d =>
    cases he
    exact decodeEnc_rr fun w h => by simp [decodeA, decodeA4, h.op, h.d, h.f17, Instr.asDecoded]
  | fence sc =>
    cases he
    have hsc := sc.code_lt
    exact decodeEnc_ri0 fun w h => by simp [decodeA, decodeA4, h.op, h.imm, h.regs, scopeOf_code, Instr.asDecoded]
  | spawn d a q | spawnT d a q | callat d a q | invoke d a q | invokeW d a q | invokeT d a q | quit d a b | reply d a b
  | syncSet a b | syncArrive d a b | syncWait d a b | rlq d a b | acpy a b =>
    cases he
    exact decodeEnc_rr fun w h => by simp [decodeA, decodeA5, h.op, h.d, h.a, h.b, h.fn, Instr.asDecoded]
  | abq d =>
    cases he
    exact decodeEnc_rr fun w h => by simp [decodeA, decodeA5, h.op, h.d, h.f17, Instr.asDecoded]
  | recv d a m =>
    cases he
    exact decodeEnc_ri fun w x ⟨_, h⟩ hm => by simp [decodeA, decodeA5, h.op, h.d, h.a, hm, Instr.asDecoded]
  | xfer d q n =>
    cases he
    refine decodeEnc_ri0 fun w h => ?_
    obtain ⟨hlo, hhi⟩ := h.small 10
    simp [decodeA, decodeA5, h.op, h.d, h.a, hlo, hhi, Instr.asDecoded]
  | pcomp d q n =>
    cases he
    refine decodeEnc_ri0 fun w h => ?_
    obtain ⟨hlo, hhi⟩ := h.small 7
    simp [decodeA, decodeA5, h.op, h.d, h.a, hlo, hhi, Instr.asDecoded]
  | fetcht d job x =>
    cases he
    refine decodeEnc_rx fun w x h hx hs => ?_
    obtain ⟨hop, hhi, hlo⟩ := h.fetcht (job := job) 0
    simp [decodeA, decodeA5, decodeFetcht, h.op, h.d, h.a, hop, hhi, hlo, hx, hs, Instr.asDecoded]
  | fetchtLd d job x =>
    cases he
    refine decodeEnc_rx fun w x h hx hs => ?_
    obtain ⟨hop, hhi, hlo⟩ := h.fetcht (job := job) 1
    simp [decodeA, decodeA5, decodeFetcht, h.op, h.d, h.a, hop, hhi, hlo, hx, hs, Instr.asDecoded]
  | fetchtQ d job x =>
    cases he
    refine decodeEnc_rx fun w x h hx hs => ?_
    obtain ⟨hop, hhi, hlo⟩ := h.fetcht (job := job) 2
    simp [decodeA, decodeA5, decodeFetcht, h.op, h.d, h.a, hop, hhi, hlo, hx, hs, Instr.asDecoded]
  | ssend v b et =>
    cases he
    have het := et.code_lt
    exact decodeEnc_rr fun w h => by simp [decodeA, decodeA6, h.op, h.d, h.a, h.b, h.fn, etypeOf_code, Instr.asDecoded]
  | smerge v va vb k =>
    cases he
    have hk := pos_of_bne_zero hwf
    exact decodeEnc_rr fun w h => by simp [decodeA, decodeA6, h.op, h.d, h.a, h.b, h.fn, hk, Instr.asDecoded]
  | sstop n =>
    cases he
    have hn := pos_of_bne_zero hwf
    exact decodeEnc_ri0 fun w h => by simp [decodeA, decodeA6, h.op, h.regs, h.imm, hn, Instr.asDecoded]
  | ssplit v va n =>
    cases he
    obtain ⟨hpos, hle⟩ : 1 ≤ n.toNat ∧ n.toNat ≤ 8 := of_decide_eq_true hwf
    exact decodeEnc_ri0 fun w h => by simp [decodeA, decodeA6, h.op, h.d, h.a, h.imm, hpos, hle, Instr.asDecoded]
  | rqpush ring v b | rqpop v ring b =>
    cases he
    have hring : ring.toNat % 32 = ring.toNat := by omega
    exact decodeEnc_rr fun w h => by simp [decodeA, decodeA6, h.op, h.d, h.a, h.b, h.fn, hring, Instr.asDecoded]
  | ssteer a | mgPp | mgPe | mgEp | mgEe | mgGp | mgGe | mzero | mdrain a v | mspx a b
  | mspxN a b | mdadv d | mdadvR d =>
    cases he
    exact decodeEnc_rr fun w h => by
      simp [decodeA, decodeA6, h.op, h.d, h.a, h.b, h.fn, h.ba, h.bad, h.imm, Instr.asDecoded]
  | srecv v port | speek d port | spred p port =>
    cases he
    have hport : port.toNat < 16 := port.isLt
    exact decodeEnc_ri0 fun w h => by simp [decodeA, decodeA6, h.op, h.d, h.a, h.imm, hport, Instr.asDecoded]
  | esc d v node =>
    cases he
    refine decodeEnc_ri0 fun w h => ?_
    obtain ⟨hop, hhi, hlo⟩ := h.esc (node := node) 0
    simp [decodeA, decodeA6, h.op, h.d, h.a, hop, hhi, hlo, Instr.asDecoded]
  | escO d v node =>
    cases he
    refine decodeEnc_ri0 fun w h => ?_
    obtain ⟨hop, hhi, hlo⟩ := h.esc (node := node) 1
    simp [decodeA, decodeA6, h.op, h.d, h.a, hop, hhi, hlo, Instr.asDecoded]
  | ctxsw n =>
    cases he
    have hn : n.toNat < 4 := n.isLt
    exact decodeEnc_ri0 fun w h => by simp [decodeA, decodeA6, h.op, h.regs, h.imm, hn, Instr.asDecoded]
  | mdset m =>
    cases he
    exact decodeEnc_ri fun w x ⟨_, h⟩ hm => by
      simp [decodeA, decodeA6, h.op, h.regs, hm, show mdsetOk m = true from hwf, Instr.asDecoded]
  | trap n =>
    cases he
    exact decodeEnc_ri0 fun w h => by simp [decodeA, decodeA7, h.op, h.imm, h.regs, f12, Instr.asDecoded]
  | csrr d n =>
    cases he
    have hn : n.toNat ∈ csrListed := List.contains_iff_mem.mp hwf
    exact decodeEnc_ri0 fun w h => by simp [decodeA, decodeA7, h.op, h.d, h.a, h.imm, f12, hn, Instr.asDecoded]
  | csrw n a =>
    cases he
    have hn : n.toNat ∈ csrWritable := List.contains_iff_mem.mp hwf
    exact decodeEnc_ri0 fun w h => by simp [decodeA, decodeA7, h.op, h.d, h.a, h.imm, f12, hn, Instr.asDecoded]
  | eret | uret | wfi | wfit a | halt | preemptHalt d a | preemptTrap d a | preemptResume d a =>
    cases he
    exact decodeEnc_rr fun w h => by simp [decodeA, decodeA7, h.op, h.d, h.a, h.all, h.imm, Instr.asDecoded]
  | tlbi sc a b | icinv sc a b =>
    cases he
    have hsc := sc.code_lt
    exact decodeEnc_rr fun w h => by simp [decodeA, decodeA7, h.op, h.d, h.a, h.b, h.fn, scopeOf_code, Instr.asDecoded]
  | ctxSave d a m | ctxLoad d a m =>
    cases he
    exact decodeEnc_ri fun w x ⟨_, h⟩ hm => by simp [decodeA, decodeA7, h.op, h.d, h.a, hm, Instr.asDecoded]
  | _ => cases he <;> exact absurd h vb_ne_a

/-- A slot-B instruction is read back (R83). -/
theorem decodeB_of_encode {i : Instr} {w : SlotWord} (hwf : i.wf = true) (he : encode i = some (.b w)) :
    decodeB w = .ok i.asDecoded := by
  change decodeEnc (.b w) = _
  generalize h : Enc.b w = e at he ⊢
  cases i with
  | vnop =>
    cases he
    rfl
  | vadd p d a b ty | vsub p d a b ty | vmul p d a b ty | vfma p d a b ty | vmin p d a b ty | vmax p d a b ty
  | vredSum p d a ty | vredMin p d a ty | vredMax p d a ty =>
    cases he
    have hty : (ty.isF || ty.isI) = true := hwf
    exact decodeEnc_vb (fun w h => by simp [decodeB, h.op, h.p, h.d, h.a, h.b, h.ty, h.fn, hty, Instr.asDecoded]) rfl
  | vabs p d a ty | vneg p d a ty =>
    cases he
    have hty : (ty.isF || ty.isSigned) = true := hwf
    exact decodeEnc_vb (fun w h => by simp [decodeB, h.op, h.p, h.d, h.a, h.b, h.ty, h.fn, hty, Instr.asDecoded]) rfl
  | vdiv p d a b ty | vscale p d a b ty | vsqrt p d a ty | vrsqrt p d a ty | vrcp p d a ty | vexp2 p d a ty | vlog2 p d a ty
  | vclass p d a ty =>
    cases he
    have hty : ty.isF = true := hwf
    exact decodeEnc_vb (fun w h => by simp [decodeB, h.op, h.p, h.d, h.a, h.b, h.ty, h.fn, hty, Instr.asDecoded]) rfl
  | vcmpEq p pd a b ty | vcmpNe p pd a b ty | vcmpLt p pd a b ty | vcmpLe p pd a b ty =>
    cases he
    have hty : (ty.isF || ty.isI) = true := hwf
    refine decodeEnc_vb (fun w h => ?_) rfl
    obtain ⟨hlo, hhi⟩ := h.compared
    simp [decodeB, decodeVcmp, h.op, h.p, h.a, h.b, h.ty, h.fn, hlo, hhi, hty, Instr.asDecoded]
  | vcmpUn p pd a b ty =>
    cases he
    have hty : ty.isF = true := hwf
    refine decodeEnc_vb (fun w h => ?_) rfl
    obtain ⟨hlo, hhi⟩ := h.compared
    simp [decodeB, decodeVcmp, h.op, h.p, h.a, h.b, h.ty, h.fn, hlo, hhi, hty, Instr.asDecoded]
  | vsel p d a b | vand p d a b | vor p d a b | vxor p d a b | vperm p d a b | vgstep d a b =>
    cases he
    exact decodeEnc_vb (ty := .x) (fun w h => by
      simp [decodeB, h.op, h.p, h.d, h.a, h.b, h.ty, h.fn, Instr.asDecoded]) rfl
  | vgmask p d a b =>
    cases he
    exact decodeEnc_vb (ty := .f32) (fun w h => by
      simp [decodeB, h.op, h.p, h.d, h.a, h.b, h.ty, h.fn, Instr.asDecoded]) rfl
  | vshl p d a b ty | vshr p d a b ty =>
    cases he
    have hty : ty.isI = true := hwf
    exact decodeEnc_vb (fun w h => by simp [decodeB, h.op, h.p, h.d, h.a, h.b, h.ty, h.fn, hty, Instr.asDecoded]) rfl
  | vsra p d a b ty =>
    cases he
    have hty : ty.isSigned = true := hwf
    exact decodeEnc_vb (fun w h => by simp [decodeB, h.op, h.p, h.d, h.a, h.b, h.ty, h.fn, hty, Instr.asDecoded]) rfl
  | vcvt p d a src dst rtz =>
    cases he
    obtain ⟨⟨hsrc, hdst⟩, hne⟩ : (src.isCvtSrc = true ∧ dst.isCvtDst = true) ∧ (src != dst) = true := by
      simpa only [Instr.wf, Bool.and_eq_true] using hwf
    obtain ⟨ty, hcode, hof⟩ := cvtSrcOf_code hsrc
    have hvb := cvtSrcCode_lt src
    obtain ⟨hfmt, hlt⟩ := fmtOf_code_of_isCvtDst hdst
    refine decodeEnc_vb (fun w h => ?_) hcode.symm (hfn := by have := rtz.toNat_lt; omega)
    obtain ⟨hlo, hhi⟩ := h.fnBit dst.code rtz
    have hb : fld w 8 4 = (cvtSrcCode src).2 := by rw [← toNat_bB, h.b, toNat_ofNat_of_lt hvb]
    simp [decodeB, h.op, decodeVcvt, h.p, h.d, h.a, h.ty, hb, hof, hlo, hhi, hfmt, hdst, hne, Instr.asDecoded]
  | vpack d a b f =>
    cases he
    obtain ⟨hpack, hb⟩ : f.okPack = true ∧ f.okB b = true := by simpa only [Instr.wf, Bool.and_eq_true] using hwf
    obtain ⟨ty, hcode, hof⟩ := packFormOf_code (okUnpk_of_okPack hpack)
    exact decodeEnc_vb (fun w h => by
      simp [decodeB, h.op, h.p, h.d, h.a, h.b, h.ty, h.fn, hof, hpack, hb, Instr.asDecoded]) hcode.symm (hfn := PackForm.code_lt f)
  | vunpk p d a f =>
    cases he
    have hunpk : f.okUnpk = true := hwf
    obtain ⟨ty, hcode, hof⟩ := packFormOf_code hunpk
    exact decodeEnc_vb (fun w h => by
      simp [decodeB, h.op, h.p, h.d, h.a, h.b, h.ty, h.fn, hof, hunpk, Instr.asDecoded]) hcode.symm (hfn := PackForm.code_lt f)
  | vbcast p d ty n =>
    cases he
    exact decodeEnc_vb (fun w h => by simp [decodeB, h.op, h.p, h.d, h.a, h.b, h.ty, h.fn, Instr.asDecoded]) rfl
  | vmovs p d a dir lane ty n =>
    cases he
    have hdir := dir.toNat_lt
    refine decodeEnc_vb (fun w h => ?_) rfl
    obtain ⟨hlo, hhi⟩ := h.movedLane
    simp [decodeB, h.op, h.p, h.d, h.a, h.ty, h.fn, hlo, hhi, show vmovsOk d a dir lane ty = true from hwf, Instr.asDecoded]
  | vquantS p d a b fmt =>
    cases he
    have hq : fmt.isQuantS = true := hwf
    obtain ⟨hfmt, hlt⟩ := fmtOf_code_of_isQuant (isQuant_of_isQuantS hq)
    refine decodeEnc_vb (ty := .f32) (fun w h => ?_) rfl
    obtain ⟨hlo, hhi⟩ := h.fnBit fmt.code false
    simp [decodeB, h.op, decodeVquant, h.p, h.d, h.a, h.b, h.ty, hlo, hhi, hfmt, hq, Instr.asDecoded]
  | vquant p d a b fmt =>
    cases he
    have hq : fmt.isQuant = true := hwf
    obtain ⟨hfmt, hlt⟩ := fmtOf_code_of_isQuant hq
    refine decodeEnc_vb (ty := .f32) (fun w h => ?_) rfl
    obtain ⟨hlo, hhi⟩ := h.fnBit fmt.code true
    simp [decodeB, h.op, decodeVquant, h.p, h.d, h.a, h.b, h.ty, hlo, hhi, hfmt, hq, Instr.asDecoded]
  | _ => cases he <;> simp [rr, ri0, jf, rx] at h

/-! ## Bundles (R69, R70, R96) -/

section
variable {w x : SlotWord} {la : Nat}

/-- The fields of a bundle: its lookahead, its kind and its slots. -/
theorem fields_of_bundle {v : Word} {kind : Nat} (hla : la < 16) (hkind : kind < 4)
    (hv : v = BitVec.ofNat 64 (la * 2 ^ 60 + kind * 2 ^ 58 + w.toNat * 2 ^ 29 + x.toNat)) :
    v.toNat / 2 ^ 60 = la ∧ v.toNat / 2 ^ 58 % 4 = kind ∧ slotA v = w ∧ slotB v = x := by
  have hw := w.isLt
  have hx := x.isLt
  have htoNat : v.toNat = la * 2 ^ 60 + kind * 2 ^ 58 + w.toNat * 2 ^ 29 + x.toNat := by
    rw [hv, BitVec.toNat_ofNat]; omega
  refine ⟨by omega, by omega, BitVec.eq_of_toNat_eq ?_, BitVec.eq_of_toNat_eq ?_⟩
  · rw [slotA, BitVec.toNat_ofNat]; omega
  · rw [slotB, BitVec.toNat_ofNat]; omega

theorem decode_pair {v : Word} {a b : Instr} (hla : la < 16) (hv : v = BitVec.ofNat 64 (la * 2 ^ 60 + w.toNat * 2 ^ 29 + x.toNat))
    (ha : decodeA w none = .ok a) (hb : decodeB x = .ok b) : decode v = .ok { la := la, a := a, b := some b } := by
  obtain ⟨hla, hkind, hA, hB⟩ := fields_of_bundle (kind := 0) (w := w) (x := x) hla (by decide) (by simpa using hv)
  simp only [decode, hla, hkind, hA, hB, ha, hb]

theorem decode_extended {v : Word} {a : Instr} (hla : la < 16)
    (hv : v = BitVec.ofNat 64 (la * 2 ^ 60 + 2 ^ 58 + w.toNat * 2 ^ 29 + x.toNat)) (ha : decodeA w (some x) = .ok a) :
    decode v = .ok { la := la, a := a, b := none } := by
  obtain ⟨hla, hkind, hA, hB⟩ := fields_of_bundle (kind := 1) (w := w) (x := x) hla (by decide) (by simpa using hv)
  simp only [decode, hla, hkind, hA, hB, ha]

end

/-- Settles O57: the words of each format are read back field by field, alone and in the slots of a bundle. -/
theorem decodeOfEncode : Obligations.DecodeOfEncode := by
  intro i e hwf he
  rcases e with ⟨w, _ | x⟩ | w
  · have ha := decodeA_of_encode hwf he
    exact ⟨ha, fun la hla => ⟨_, decode_pair (x := 0#29) hla (by simp [Enc.bundle]) ha rfl, rfl, rfl, rfl⟩⟩
  · have ha := decodeA_of_encode hwf he
    exact ⟨ha, fun la hla => ⟨_, decode_extended hla rfl ha, rfl, rfl, rfl⟩⟩
  · have hb := decodeB_of_encode hwf he
    exact ⟨hb, fun la hla => ⟨_, decode_pair hla rfl rfl hb, rfl, rfl, rfl⟩⟩

end Sys2Proof
end

section
/-!
PROOFS. Creating threads and invoking them (R92, R205 to R210): a form enters its awaited result in the return buffer and sends one record,
to a rotunda of this device behind the records on their way, or as one packet to another device.
-/
namespace Sys2Proof.Claims
open Sys2Proof.Machine

variable {s : State} {g : Nat} {d a : SReg} {q : Quad}

/-! ## The awaited result (R72) -/

@[simp] theorem pendFor_mem (s : State) (d : SReg) : (s.pendFor d).mem = s.mem := s.long_mem _
@[simp] theorem pendFor_field (s : State) (d : SReg) (f : Nat) : (s.pendFor d).field f = s.field f := s.setCtx_field _ f
@[simp] theorem pendFor_core (s : State) (d : SReg) (c : Nat) : (s.pendFor d).core c = s.core c := s.setCtx_core _ c
@[simp] theorem pendFor_dev (s : State) (d : SReg) : (s.pendFor d).dev = s.dev := s.setCtx_dev _

theorem pendFor_thread (hc : s.cur = .thread g) : (s.pendFor d).thread g =
    { s.thread g with ctx := { s.ctx with pend := s.ctx.pend ++ [awaited s d] } } := by
  rw [State.pendFor, State.next_thread, State.long, State.setCtx_thread, if_pos hc]
  rfl

theorem pendFor_pend (hc : s.cur = .thread g) : ((s.pendFor d).thread g).ctx.pend = s.ctx.pend ++ [awaited s d] := by
  rw [pendFor_thread hc]

theorem sendRec_arr (s : State) (f : Nat) (r : Rec) : ((s.sendRec f r).field f).arr = (s.field f).arr ++ [r] := by
  rw [State.sendRec, State.modField_same]

/-! ## spawn, spawn.t and callat (R205, R206) -/

/-- Form `o` has sent one record to field `f`'s rotunda, and awaits its answer. -/
def SentRecord (s : State) (g f : Nat) (d : SReg) (data : BitVec 512) (pref : Pref) (o : Out) : Prop :=
  ∃ t r, o = .next t ∧ t.mem = s.mem ∧ (t.field f).arr = (s.field f).arr ++ [r] ∧ r.pref = pref ∧ r.data = data ∧
    (t.thread g).ctx.pend = s.ctx.pend ++ [awaited s d]

theorem spawnTo_sentRecord (hc : s.cur = .thread g) (f : Nat) (hdr : Nat) (args : List Word) (ts : Word) (pref : Pref)
    (parent : Option (Nat × Nat)) : SentRecord s g f d (mkRec hdr args 0 ts) pref (s.spawnTo g f d hdr args ts pref parent) := by
  exact ⟨_, _, rfl, pendFor_mem s d, (sendRec_arr _ f _).trans (by rw [pendFor_field]), rfl, rfl, pendFor_pend hc⟩

theorem spawnHdr_eq_headerOf (x : Word) (sv ts : Bool) : spawnHdr x sv ts = headerOf x sv ts := by
  cases sv <;> cases ts <;> simp [spawnHdr, headerOf, bits, bitsN]

section
variable (hc : s.cur = .thread g) (hhdr : bits (s.rS a) 52 6 = 0)
include hc hhdr

theorem exec_spawn (hspec : (s.thread g).spec = false) : exec (.spawn d a q) s =
    s.spawnTo g (g / 1024) d (headerOf (s.rS a) (s.thread g).sv false) (s.quad q) 0 .field none := by
  change execSpawn d a q s = _
  rw [execSpawn, State.swarm_of_thread s hc, if_neg (not_not.mpr hhdr), s.plainly_of_plain hc hspec, spawnHdr_eq_headerOf]
  rfl

theorem exec_spawnT (hspec : (s.thread g).spec = false) (hts : (s.thread g).task = none ∨ (s.thread g).tsval.toNat ≤ (s.rS d).toNat) :
    exec (.spawnT d a q) s =
      s.spawnTo g (g / 1024) d (headerOf (s.rS a) (s.thread g).sv true) (s.quad q) (s.rS d) (.only (g / 128)) none := by
  have horder : ((s.thread g).task.isSome && (s.rS d).ult (s.thread g).tsval) = false := by
    obtain h | h := hts
    · rw [h]; rfl
    · simp [BitVec.ult, h]
  change execSpawnT d a q s = _
  rw [execSpawnT, State.swarm_of_thread s hc]
  simp only [if_neg (not_not.mpr hhdr), horder, hspec, spawnHdr_eq_headerOf]
  rfl

theorem exec_spawnT_early (htask : (s.thread g).task ≠ none) (hts : (s.rS d).toNat < (s.thread g).tsval.toNat) :
    exec (.spawnT d a q) s = s.raise cORDER (s.thread g).tsval := by
  have horder : ((s.thread g).task.isSome && (s.rS d).ult (s.thread g).tsval) = true := by
    simp [BitVec.ult, hts, Option.isSome_iff_ne_none, htask]
  change execSpawnT d a q s = _
  rw [execSpawnT, State.swarm_of_thread s hc]
  simp only [if_neg (not_not.mpr hhdr), horder, if_true]

theorem exec_callat (hspec : (s.thread g).spec = false) {f b : Nat} (hhome : s.callatHome g (s.rS d) = .ok f b) :
    exec (.callat d a q) s =
      s.spawnTo g f d (headerOf (s.rS a) (s.thread g).sv false) (s.quad q) 0 (.first (8 * f + b)) none := by
  change execCallat d a q s = _
  rw [execCallat, State.swarm_of_thread s hc, if_neg (not_not.mpr hhdr), s.plainly_of_plain hc hspec, hhome, spawnHdr_eq_headerOf]

end

/-- Settles O25: each form is one record sent, or the trap of an early timestamp. -/
theorem creatingForms : Obligations.CreatingForms := by
  refine ⟨fun s g d a q hc hspec hhdr => ⟨?_, fun hts => ?_, fun f b hhome => ?_⟩, fun s g d a q htrap hhdr htask hts => ?_⟩
  · rw [exec_spawn hc hhdr hspec]
    exact spawnTo_sentRecord hc ..
  · rw [exec_spawnT hc hhdr hspec hts]
    exact spawnTo_sentRecord hc ..
  · rw [exec_callat hc hhdr hspec hhome]
    exact spawnTo_sentRecord hc ..
  · rw [exec_spawnT_early htrap.1 hhdr htask hts]
    exact raise_tookTrap htrap _ _ _

/-! ## Records and their tickets (R92) -/

theorem leNat_lt : ∀ l : List Byte, leNat l < 256 ^ l.length
  | [] => by simp [leNat]
  | b :: l => by
    have hb := b.isLt
    have hl := leNat_lt l
    rw [leNat, List.length_cons, Nat.pow_succ]
    omega

theorem argBytes_length (args : List Word) : (args.flatMap fun x => leBytes 8 x.toNat).length = 8 * args.length := by
  induction args with
  | nil => rfl
  | cons x l ih =>
    rw [List.flatMap_cons, List.length_append, ih, leBytes_length, List.length_cons]
    omega

/-- The ticket lies in its own field, above four arguments and below the timestamp. -/
theorem recTicket_mkRec (hdr : Nat) {args : List Word} (hlen : args.length = 4) (ticket : BitVec 32) (ts : Word) :
    recTicket (mkRec hdr args ticket ts) = ticket := by
  have hargs := leNat_lt (args.flatMap fun x => leBytes 8 x.toNat)
  rw [argBytes_length, hlen] at hargs
  have hticket := ticket.isLt
  apply BitVec.eq_of_toNat_eq
  rw [recTicket, mkRec, BitVec.toNat_ofNat, BitVec.toNat_ofNat, bitsN]
  generalize leNat _ = n at hargs
  omega

/-! ## The ticket table (R209) -/

theorem nextTicket_eq (t : BitVec 32) : nextTicket t = if t = BitVec.allOnes 32 then 1 else t + 1 := by
  have h : t + 1 = 0 ↔ t = BitVec.allOnes 32 := by
    rw [← BitVec.toNat_inj, ← BitVec.toNat_inj, BitVec.toNat_add, BitVec.toNat_allOnes]
    have := t.isLt
    change (t.toNat + 1) % 2 ^ 32 = 0 ↔ t.toNat = 2 ^ 32 - 1
    omega
  rw [nextTicket]
  simp only [h]

theorem TicketTaken.of_core {s t u : State} {c : Nat} {mbox : Word} {sv : Bool} (h : TicketTaken s t c mbox sv)
    (hcore : u.core c = t.core c) : TicketTaken s u c mbox sv := by
  rw [TicketTaken, hcore]
  exact h

/-! ## A new invocation before its first attempt (R207, R209) -/

/-- The invocation that thread `g` makes. -/
def newInv (s : State) (g form : Nat) (desc mbox : Word) (args : List Word) : Inv :=
  { id := s.fresh, g := g, tok := s.fresh, form := form, desc := desc
    data := mkRec (invokeHeader desc (s.thread g).sv) args (ticketFor s g mbox) 0
    sv := (s.thread g).sv, core := g / 8, tries := 0, run := .sent s.ns }

/-- The state in which it is attempted: the result is awaited, the invocation entered, the ticket taken. -/
def invoking (s : State) (g : Nat) (d : SReg) (mbox : Word) (i : Inv) : State :=
  let s1 := (s.pendFor d).modDev fun x => { x with invs := x.invs ++ [i] }
  if mbox = 0 then s1
  else s1.modCore (g / 8) fun x =>
    { x with ticket := nextTicket x.ticket, outst := x.outst ++ [{ ticket := ticketFor s g mbox, mbox := mbox, sv := (s.thread g).sv }] }

theorem invokeHeader_eq (x : Word) (sv : Bool) :
    (if !sv && bits x 34 2 == 0 then 1 else bits x 34 2) * 2 ^ 61 + sv.toNat * 2 ^ 56 + bits x 0 16 = invokeHeader x sv := by
  cases sv <;> simp [invokeHeader, bits, bitsN]

theorem invokeNow_eq (s : State) (g form : Nat) (d : SReg) (desc mbox : Word) (args : List Word) :
    s.invokeNow g form d desc mbox args =
      .next ((invoking s g d mbox (newInv s g form desc mbox args)).attempt (newInv s g form desc mbox args)) := by
  rw [newInv, ← invokeHeader_eq]
  rfl

section
variable (mbox : Word) (i : Inv)

@[simp] theorem invoking_mem : (invoking s g d mbox i).mem = s.mem := by
  unfold invoking
  split <;> exact pendFor_mem s d

@[simp] theorem invoking_field (f : Nat) : (invoking s g d mbox i).field f = s.field f := by
  unfold invoking
  split <;> exact pendFor_field s d f

@[simp] theorem invoking_dev : (invoking s g d mbox i).dev = { s.dev with invs := s.dev.invs ++ [i] } := by
  unfold invoking
  split <;> exact congrArg (fun x : Dev => { x with invs := x.invs ++ [i] }) (pendFor_dev s d)

theorem invoking_pend (hc : s.cur = .thread g) : ((invoking s g d mbox i).thread g).ctx.pend = s.ctx.pend ++ [awaited s d] := by
  unfold invoking
  split <;> exact pendFor_pend hc

theorem invoking_ticketTaken : TicketTaken s (invoking s g d mbox i) (g / 8) mbox (s.thread g).sv := by
  unfold TicketTaken invoking ticketFor
  by_cases h : mbox = 0
  · simp only [if_pos h]
    exact pendFor_core s d _
  · simp only [if_neg h]
    rw [State.modCore_same, State.modDev_core, pendFor_core, nextTicket_eq]

end

/-! ## The first attempt (R208) -/

theorem map_attempted {l : List Inv} {i : Inv} {f : Inv → Inv} :
    f i ∈ (l ++ [i]).map fun x => if x.id = i.id then f x else x := by
  simp

/-- The record of an attempt on this device. -/
def invRec (i : Inv) : Rec :=
  { data := i.data, sender := .thread i.sv, path := if recTicket i.data = 0 then .none else .core i.core
    pref := .field, notify := .inv i.id }

/-- The state in which invocation `i` is under way. -/
def underway (t : State) (i : Inv) : State := t.modInv i.id fun x => { x with run := .sent t.ns }

@[simp] theorem underway_mem (t : State) (i : Inv) : (underway t i).mem = t.mem := rfl
@[simp] theorem underway_core (t : State) (i : Inv) (c : Nat) : (underway t i).core c = t.core c := rfl
@[simp] theorem underway_thread (t : State) (i : Inv) (j : Nat) : (underway t i).thread j = t.thread j := rfl
@[simp] theorem underway_field (t : State) (i : Inv) (f : Nat) : (underway t i).field f = t.field f := rfl
@[simp] theorem underway_dev (t : State) (i : Inv) : (underway t i).dev =
    { t.dev with invs := t.dev.invs.map fun x => if x.id = i.id then { x with run := .sent t.ns } else x } := rfl

/-- An attempt on this device sends one record to the field's rotunda. -/
theorem attempt_here {t : State} {i : Inv} (hdev : bits i.desc 20 10 = t.dev.devnum) :
    t.attempt i = (underway t i).sendRec (bits i.desc 30 4) (invRec i) := by
  rw [State.attempt]
  exact if_pos hdev

/-- The port a packet goes by hangs on the route table and the ports alone (R391). -/
theorem livePort_congr {s t : State} (hroutes : t.dev.routes = s.dev.routes) (hlinks : t.dev.links = s.dev.links) (dest : Nat) :
    t.livePort dest = s.livePort dest := by
  unfold State.livePort State.port
  rw [hroutes, hlinks]

theorem portSend_unans (t : State) (p : Nat) (fs : List Frame) : (t.portSend p fs).dev.unans = t.dev.unans := rfl

theorem portSend_invs (t : State) (p : Nat) (fs : List Frame) : (t.portSend p fs).dev.invs = t.dev.invs := rfl

theorem SentOnly.mem {s t : State} (h : SentOnly s t) : t.mem = s.mem := by obtain ⟨d, n, rfl⟩ := h; rfl

theorem SentOnly.core {s t : State} (h : SentOnly s t) (c : Nat) : t.core c = s.core c := by obtain ⟨d, n, rfl⟩ := h; rfl

theorem SentOnly.thread {s t : State} (h : SentOnly s t) (g : Nat) : t.thread g = s.thread g := by obtain ⟨d, n, rfl⟩ := h; rfl

/-- A packet that is answered is kept until then. -/
theorem sendPacket_kept {t : State} {dest sname port : Nat} {k : PKind} {l : List Flit} (hport : t.livePort dest = some port) :
    ∃ u p, t.sendPacket dest sname (some k) l = some u ∧ u.dev.unans = t.dev.unans ++ [p] ∧ p.dest = dest ∧ p.kind = k ∧
      p.port = port ∧ u.dev.invs = t.dev.invs := by
  unfold State.sendPacket
  rw [hport]
  dsimp only
  split
  · exact ⟨_, _, rfl, by rw [State.modDev_dev, State.modDev_dev], rfl, rfl, rfl, by rw [State.modDev_dev, State.modDev_dev]⟩
  · exact ⟨_, _, rfl, by rw [portSend_unans, State.modDev_dev, State.modDev_dev], rfl, rfl, rfl,
      by rw [portSend_invs, State.modDev_dev, State.modDev_dev]⟩

/-- An attempt on another device is one packet; with no live path it ends at once. -/
theorem attempt_far {t : State} {i : Inv} (hdev : bits i.desc 20 10 ≠ t.dev.devnum) :
    t.attempt i = ((underway t i).sendPacket (bits i.desc 20 10) (coreName i.core) (some (.inv i.id))
      (recFlits i.data (bits i.desc 30 4))).getD ((underway t i).invAnswer i.id 5) := by
  rw [State.attempt]
  refine (if_neg hdev).trans ?_
  rw [← underway]
  split
  next hsend => rw [hsend]; rfl
  next hsend => rw [hsend]; rfl

theorem sendPacket_none {t : State} {dest sname : Nat} {k : Option PKind} {l : List Flit} (hport : t.livePort dest = none) :
    t.sendPacket dest sname k l = none := by
  unfold State.sendPacket
  rw [hport]

theorem find_new {l : List Inv} {i : Inv} (f : Inv → Inv) (hf : (f i).id = i.id) (hnew : ∀ v ∈ l, v.id ≠ i.id) :
    ((l ++ [i]).map fun x => if x.id = i.id then f x else x).find? (fun x => decide (x.id = i.id)) = some (f i) := by
  have hmap : (l.map fun x => if x.id = i.id then f x else x) = l :=
    (List.map_congr_left fun v hv => if_neg (hnew v hv)).trans l.map_id
  rw [List.map_append, hmap, List.find?_append, List.find?_eq_none.mpr (by simpa using hnew)]
  simp [hf]

theorem filter_new {l : List Inv} {i : Inv} (f : Inv → Inv) (hf : (f i).id = i.id) (hnew : ∀ v ∈ l, v.id ≠ i.id) :
    ((l ++ [i]).map fun x => if x.id = i.id then f x else x).filter (fun x => decide (x.id ≠ i.id)) = l := by
  have hmap : (l.map fun x => if x.id = i.id then f x else x) = l :=
    (List.map_congr_left fun v hv => if_neg (hnew v hv)).trans l.map_id
  rw [List.map_append, hmap, List.filter_append, List.filter_eq_self.mpr (by simpa using hnew)]
  simp [hf]

theorem invAnswer_linkLost {t : State} {id : Nat} {i : Inv} (h : t.inv id = some i) :
    t.invAnswer id 5 = (t.dropInv id).pendDone i.g i.tok (statusOf (recTicket i.data) i.tries 5) none := by
  unfold State.invAnswer
  rw [h]
  simp

/-- An entry at the end of the return buffer that alone waits for a token takes what comes for it. -/
theorem map_arrive_last {l : List Pending} {p : Pending} {tok : Nat} (x : VWord) (hl : ∀ q ∈ l, q.awaits tok = false)
    (hp : p.awaits tok = true) (hfly : p.fly = .no) (hfault : p.fault = none) :
    (l ++ [p]).map (Pending.arrive tok x none) = l ++ [{ p with ready := true, val := x }] := by
  rw [List.map_append, map_arrive_of_none (by simpa using hl), List.map_singleton, Pending.arrive, if_pos hp, hfly]
  simp [hfault]

theorem pendDone_of_last {t : State} {l : List Pending} {p : Pending} {tok : Nat} (x : VWord)
    (hpend : (t.thread g).ctx.pend = l ++ [p]) (hl : ∀ q ∈ l, q.awaits tok = false) (hfly : p.fly = .no) :
    t.pendDone g tok x none = t.pendGot g tok x none := by
  have hno : t.lanesLeft g tok = none := by
    rw [State.lanesLeft, hpend, List.findSome?_eq_none_iff]
    intro q hq
    obtain hq | hq := List.mem_append.mp hq
    · simp [hl q hq]
    · rw [List.mem_singleton.mp hq, hfly]
      simp
  rw [State.pendDone, hno]

/-- The status of an attempt that has found no live path (R210). -/
theorem statusOf_linkLost (ticket : BitVec 32) : statusOf ticket 0 5 = BitVec.ofNat 256 (ticket.toNat * 2 ^ 32 + 5) := by
  simp [statusOf]

/-! ## The forms (R207) -/

section
variable {n : Nat} {mbox : Word} {desc : Word}

/-- What an invocation does on this device: one record sent to the named field. -/
def InvokedHere (s : State) (g n : Nat) (d a : SReg) (q : Quad) (o : Out) : Prop :=
  ∃ t r v, o = .next t ∧ t.mem = s.mem ∧
    (t.field ((s.rS a).toNat / 2 ^ 30 % 16)).arr = (s.field ((s.rS a).toNat / 2 ^ 30 % 16)).arr ++ [r] ∧
    r.data = mkRec (invokeHeader (s.rS a) (s.thread g).sv) (s.quad q) (ticketFor s g (s.rS d)) 0 ∧
    r.sender = .thread (s.thread g).sv ∧ r.pref = .field ∧ r.notify = .inv s.fresh ∧
    r.path = (if ticketFor s g (s.rS d) = 0 then .none else .core (g / 8)) ∧
    v ∈ t.dev.invs ∧ v.id = s.fresh ∧ v.g = g ∧ v.tok = s.fresh ∧ v.form = n ∧ v.tries = 0 ∧
    TicketTaken s t (g / 8) (s.rS d) (s.thread g).sv ∧ (t.thread g).ctx.pend = s.ctx.pend ++ [awaited s d]

theorem newInv_data (s : State) (g n : Nat) (desc mbox : Word) (args : List Word) :
    (newInv s g n desc mbox args).data = mkRec (invokeHeader desc (s.thread g).sv) args (ticketFor s g mbox) 0 := rfl

theorem newInv_ticket (s : State) (g n : Nat) (desc mbox : Word) (q : Quad) :
    recTicket (newInv s g n desc mbox (s.quad q)).data = ticketFor s g mbox := by
  rw [newInv_data]
  exact recTicket_mkRec _ rfl _ _

theorem invoked_mem_invs (mbox : Word) (i : Inv) :
    { i with run := .sent (invoking s g d mbox i).ns } ∈ (underway (invoking s g d mbox i) i).dev.invs := by
  rw [underway_dev, invoking_dev]
  exact map_attempted (f := fun x => { x with run := .sent (invoking s g d mbox i).ns })

theorem underway_livePort (mbox : Word) (i : Inv) (dest : Nat) :
    (underway (invoking s g d mbox i) i).livePort dest = s.livePort dest :=
  livePort_congr (by rw [underway_dev, invoking_dev]) (by rw [underway_dev, invoking_dev]) dest

theorem invokeNow_here (hc : s.cur = .thread g) (hdev : bits (s.rS a) 20 10 = s.dev.devnum) :
    InvokedHere s g n d a q (s.invokeNow g n d (s.rS a) (s.rS d) (s.quad q)) := by
  have hpath := newInv_ticket s g n (s.rS a) (s.rS d) q
  rw [invokeNow_eq, attempt_here (by rw [invoking_dev]; exact hdev)]
  refine ⟨_, invRec (newInv s g n (s.rS a) (s.rS d) (s.quad q)), _, rfl, ?_, ?_, newInv_data s g n _ _ _, rfl, rfl, rfl, ?_,
    invoked_mem_invs (s.rS d) (newInv s g n (s.rS a) (s.rS d) (s.quad q)), rfl, rfl, rfl, rfl, rfl, ?_, ?_⟩
  · rw [State.sendRec, State.modField_mem, underway_mem, invoking_mem]
  · refine (sendRec_arr _ _ _).trans ?_
    rw [underway_field, invoking_field]
    rfl
  · rw [invRec, hpath]
    rfl
  · exact (invoking_ticketTaken _ _).of_core (by rw [State.sendRec, State.modField_core, underway_core])
  · rw [State.sendRec, State.modField_thread, underway_thread, invoking_pend _ _ hc]

theorem invokeNow_far (hc : s.cur = .thread g) {port : Nat} (hdev : bits (s.rS a) 20 10 ≠ s.dev.devnum)
    (hport : s.livePort (bits (s.rS a) 20 10) = some port) :
    ∃ t u v, s.invokeNow g n d (s.rS a) (s.rS d) (s.quad q) = .next t ∧ t.mem = s.mem ∧ t.dev.unans = s.dev.unans ++ [u] ∧
      u.dest = bits (s.rS a) 20 10 ∧ u.kind = .inv s.fresh ∧ u.port = port ∧ v ∈ t.dev.invs ∧ v.id = s.fresh ∧
      v.data = mkRec (invokeHeader (s.rS a) (s.thread g).sv) (s.quad q) (ticketFor s g (s.rS d)) 0 ∧
      TicketTaken s t (g / 8) (s.rS d) (s.thread g).sv ∧ (t.thread g).ctx.pend = s.ctx.pend ++ [awaited s d] := by
  obtain ⟨i, hi⟩ : ∃ i, i = newInv s g n (s.rS a) (s.rS d) (s.quad q) := ⟨_, rfl⟩
  have hdesc : i.desc = s.rS a := by rw [hi]; rfl
  have hid : i.id = s.fresh := by rw [hi]; rfl
  have hdata := newInv_data s g n (s.rS a) (s.rS d) (s.quad q)
  rw [invokeNow_eq, ← hi, attempt_far (by rw [invoking_dev, hdesc]; exact hdev), hdesc, hid]
  obtain ⟨t, p, hsend, hunans, hdest, hkind, hp, hinvs⟩ := sendPacket_kept (sname := coreName i.core) (k := .inv s.fresh)
    (l := recFlits i.data (bits (s.rS a) 30 4)) ((underway_livePort (s.rS d) i _).trans hport)
  have hsent := sentOnly_sendPacket hsend
  rw [hsend]
  refine ⟨t, p, { i with run := .sent (invoking s g d (s.rS d) i).ns }, rfl, ?_, ?_, hdest, hkind, hp,
    by rw [hinvs]; exact invoked_mem_invs _ _, hid, by rw [hi]; exact hdata, ?_, ?_⟩
  · rw [hsent.mem, underway_mem, invoking_mem]
  · rw [hunans, underway_dev, invoking_dev]
  · exact (invoking_ticketTaken (d := d) (s.rS d) i).of_core (by rw [hsent.core, underway_core])
  · rw [hsent.thread, underway_thread, invoking_pend _ _ hc]

theorem invokeNow_linkLost (hc : s.cur = .thread g) (hdev : bits (s.rS a) 20 10 ≠ s.dev.devnum)
    (hport : s.livePort (bits (s.rS a) 20 10) = none) (hnew : ∀ v ∈ s.dev.invs, v.id ≠ s.fresh)
    (hpend : ∀ p ∈ s.ctx.pend, p.awaits s.fresh = false) :
    ∃ t, s.invokeNow g n d (s.rS a) (s.rS d) (s.quad q) = .next t ∧ t.mem = s.mem ∧ t.dev.invs = s.dev.invs ∧
      TicketTaken s t (g / 8) (s.rS d) (s.thread g).sv ∧
      (t.thread g).ctx.pend = s.ctx.pend ++ [{ awaited s d with
        ready := true, val := BitVec.ofNat 256 ((ticketFor s g (s.rS d)).toNat * 2 ^ 32 + 5) }] := by
  have hticket := newInv_ticket s g n (s.rS a) (s.rS d) q
  obtain ⟨i, hi⟩ : ∃ i, i = newInv s g n (s.rS a) (s.rS d) (s.quad q) := ⟨_, rfl⟩
  rw [← hi] at hticket
  have hdesc : i.desc = s.rS a := by rw [hi]; rfl
  have hid : i.id = s.fresh := by rw [hi]; rfl
  rw [← hid] at hnew hpend
  have hinvs : (underway (invoking s g d (s.rS d) i) i).dev.invs = (s.dev.invs ++ [i]).map fun x =>
      if x.id = i.id then { x with run := .sent (invoking s g d (s.rS d) i).ns } else x := by
    rw [underway_dev, invoking_dev]
  have hinv : (underway (invoking s g d (s.rS d) i) i).inv i.id = some { i with run := .sent (invoking s g d (s.rS d) i).ns } := by
    rw [State.inv, hinvs]
    exact find_new _ rfl hnew
  have hpendNow : (((underway (invoking s g d (s.rS d) i) i).dropInv i.id).thread g).ctx.pend = s.ctx.pend ++ [awaited s d] := by
    rw [State.dropInv, State.modDev_thread, underway_thread, invoking_pend _ _ hc]
  have hlost : s.invokeNow g n d (s.rS a) (s.rS d) (s.quad q) = .next (((underway (invoking s g d (s.rS d) i) i).dropInv i.id).pendGot g
      i.id (BitVec.ofNat 256 ((ticketFor s g (s.rS d)).toNat * 2 ^ 32 + 5)) none) := by
    have hg : i.g = g := by rw [hi]; rfl
    have htok : i.tok = i.id := by rw [hi]; rfl
    have htries : i.tries = 0 := by rw [hi]; rfl
    rw [invokeNow_eq, ← hi, attempt_far (by rw [invoking_dev, hdesc]; exact hdev), hdesc,
      sendPacket_none ((underway_livePort (s.rS d) i _).trans hport), Option.getD_none, invAnswer_linkLost hinv]
    dsimp only
    rw [hg, htok, htries, hticket, pendDone_of_last _ hpendNow hpend rfl, statusOf_linkLost]
  refine ⟨_, hlost, ?_, ?_, ?_, ?_⟩
  · rw [State.pendGot, State.modThread_mem, State.dropInv, State.modDev_mem, underway_mem, invoking_mem]
  · rw [State.pendGot, State.modThread_dev, State.dropInv, State.modDev_dev]
    dsimp only
    rw [hinvs]
    exact filter_new (fun x => { x with run := .sent (invoking s g d (s.rS d) i).ns }) rfl hnew
  · refine (invoking_ticketTaken (d := d) (s.rS d) i).of_core ?_
    rw [State.pendGot, State.modThread_core, State.dropInv, State.modDev_core, underway_core]
  · rw [pendGot_pend, hpendNow, map_arrive_last _ hpend (by simp [Pending.awaits, awaited, hid]) rfl rfl]

end

/-- Each form goes on in its device, or waits for room in the ticket table. -/
theorem exec_invokeForms {n : Nat} {i : Instr} (hi : (i, n) ∈ invokeForms d a q) (hc : s.cur = .thread g)
    (hspec : (s.thread g).spec = false) (hok : InvokeOk (s.rS a) (s.rS d)) :
    exec i s = if s.rS d ≠ 0 ∧ 64 ≤ (s.core (g / 8)).outst.length then s.wait
      else s.invokeNow g n d (s.rS a) (s.rS d) (s.quad q) := by
  have hform : exec i s = s.invoke n d a q := by
    simp only [invokeForms, List.mem_cons, Prod.mk.injEq, List.not_mem_nil, or_false] at hi
    obtain ⟨rfl, rfl⟩ | ⟨rfl, rfl⟩ | ⟨rfl, rfl⟩ := hi <;> rfl
  obtain ⟨hhigh, hmid, hline, htop⟩ := hok
  have hdesc : bits (s.rS a) 40 24 = 0 := by rw [bits, bitsN, hhigh]; rfl
  have hmbox : bits (s.rS d) 52 12 = 0 := by rw [bits, bitsN, htop]; rfl
  have hfields : ¬(bits (s.rS a) 40 24 ≠ 0 ∨ bits (s.rS a) 16 4 ≠ 0 ∨ bits (s.rS d) 0 6 ≠ 0 ∨ bits (s.rS d) 52 12 ≠ 0) := by
    rw [hdesc, hmbox]
    simpa [bits, bitsN] using ⟨hmid, hline⟩
  rw [hform, State.invoke, State.swarm_of_thread s hc]
  dsimp only
  rw [if_neg hfields, s.plainly_of_plain hc hspec]
  rfl

end Sys2Proof.Claims

namespace Sys2Proof
open Machine Claims

/-- Settles O26: the device that the descriptor names and its live path pick the case. -/
theorem invokeForms : Obligations.InvokeForms := by
  intro s g n d a q i hi hc hspec hok
  rw [exec_invokeForms hi hc hspec hok]
  refine ⟨fun hroom => ?_, fun hmbox hfull => ?_⟩
  · rw [if_neg (by rintro ⟨h, h'⟩; exact hroom.elim h (by omega))]
    exact ⟨fun hdev => invokeNow_here hc hdev, fun port hdev hport => invokeNow_far hc hdev hport,
      fun hdev hport hnew hpend => invokeNow_linkLost hc hdev hport hnew hpend⟩
  · rw [if_pos ⟨hmbox, hfull⟩]
    exact wait_waitsAtIssue hc

end Sys2Proof
end

section
/-!
PROOFS. The end of a thread (R214, R283): quit and reply free the slot, and the thread's group answers its invoker once.
-/
namespace Sys2Proof.Claims
open Sys2Proof.Machine

variable {s : State} {g i c : Nat} {d a b : SReg} {x : Group}

/-- A thread that can end now: nothing of it is in flight, and it is no ordered task. -/
structure Drained (s : State) (g : Nat) : Prop where
  plain : Plain s g
  pend  : (s.thread g).ctx.pend = []
  locks : s.ownsLock g = false
  link  : (s.thread g).lkl = none
  task  : (s.thread g).task = none

/-! ## Closing an empty return buffer (R72) -/

/-- The state in which a thread's results are committed. -/
def closed (s : State) (g : Nat) : State := s.modThread g fun t => { t with ctx := t.ctx.close }

@[simp] theorem closed_mem : (closed s g).mem = s.mem := rfl
@[simp] theorem closed_dev : (closed s g).dev = s.dev := rfl

theorem closed_thread (h : (s.thread g).ctx.pend = []) : (closed s g).thread g = s.thread g := by
  rw [closed, State.modThread_same, close_of_nil h]

theorem closed_rS (hc : s.cur = .thread g) (h : (s.thread g).ctx.pend = []) (r : SReg) : (closed s g).rS r = s.rS r := by
  have hctx : (closed s g).ctx = s.ctx := by
    rw [ctx_of_thread hc, ctx_of_thread (s := closed s g) hc, closed_thread h]
  rw [State.rS, State.rS, State.view, State.view, hctx]
  rfl

/-! ## What an ended thread leaves (R276) -/

theorem compsOut_dev (l : List Completion) : (s.compsOut g l).dev = s.dev :=
  foldl_keeps State.dev (F := fun s c => s.compRec g c) (fun _ _ => rfl) l s

theorem compsOut_thread (l : List Completion) (j : Nat) : (s.compsOut g l).thread j = s.thread j :=
  congrArg (Tab.get _ · j) (compsOut_threads l)

section
variable {u v w : Word} {reply : Bool}

theorem endThread_thread : (s.endThread g reply u v w).thread g = {} := by
  simp only [State.endThread, compsOut_thread, State.freeSlot, State.setThread_same]

theorem endThread_dev (htask : (s.thread g).task = none) : (s.endThread g reply u v w).dev =
    (s.endMember (s.thread g).group reply u v w ((s.thread g).ctx.rV 0) (unitField g, s.threadRec g cLINK_LOST)).dev := by
  simp only [State.endThread, htask, compsOut_dev, State.freeSlot, State.setThread_dev]

/-- quit and reply of a drained thread end it. -/
theorem finish_drained (h : Drained s g) (hcause : reply = true ∨ s.rS d = 0 ∨ (s.thread g).sv = true) :
    s.finish reply d a b = .next ((closed s g).endThread g reply (s.rS d) (s.rS a) (s.rS b)).taken := by
  obtain ⟨⟨hc, hspec, hsb⟩, hpend, hlocks, hlink, -⟩ := h
  have hclose : s.closeNow g = (closed s g, none) := by
    rw [State.closeNow, hpend]
    rfl
  have hth := closed_thread hpend
  have howns : (closed s g).ownsLock g = false := by
    rw [State.ownsLock, hth]
    exact hlocks
  have hpriv : (!reply && s.rS d != 0 && !(s.thread g).sv) = false := by
    obtain h | h | h := hcause <;> simp [h]
  unfold State.finish
  rw [State.swarm_of_thread s hc]
  simp only [hclose, hpend, closed_rS hc hpend, hth, State.reportLink, hlink, howns, hsb, hspec, hpriv, List.all_nil]
  rfl

/-! ## The group of the thread (R214, R283) -/

theorem endReply_sent (h : x.sent = true) (reply : Bool) (u v w : Word) : endReply x reply u v w = none := by rw [endReply, if_pos h]

theorem endReply_reply (h : x.sent = false) (u v w : Word) : endReply x true u v w = some (0, 0, u, v, w) := by
  simp [endReply, h]

theorem endReply_fault (h : x.sent = false) {u : Word} (hu : u ≠ 0) (v w : Word) :
    endReply x false u v w = some (4, u.toNat % 256, 0, 0, 0) := by
  simpa [endReply, h, bits, bitsN] using hu

theorem endReply_last (h : x.sent = false) (hleft : x.left ≤ 1) (v w : Word) : endReply x false 0 v w = some (0, 0, 0, v, w) := by
  simp [endReply, h, hleft]

theorem endReply_early (hleft : 1 < x.left) (v w : Word) : endReply x false 0 v w = none := by
  simp [endReply, Nat.not_le.mpr hleft]

theorem setGroup_group (s : State) (i : Nat) (y : Option Group) : (s.setGroup i y).group i = y := Tab.get_set_same _ _ _

theorem leaveGroup_group (h : s.group i = some x) :
    (s.leaveGroup (some i)).group i = if x.left ≤ 1 then none else some { x with left := x.left - 1 } := by
  rw [State.leaveGroup, h]
  exact setGroup_group s i _

theorem leaveGroup_replies (grp : Option Nat) : (s.leaveGroup grp).dev.replies = s.dev.replies := by
  unfold State.leaveGroup
  split
  · rfl
  · split <;> rfl

variable {v0 : VWord} {r : Nat × FRec}

theorem sendReply_core (hpath : x.path = .core c) (st cause : Nat) (val : Word × Word × Word) : s.sendReply x st cause val v0 r =
    s.modDev fun d => { d with replies := d.replies ++
      [{ core := c, data := replyData x.ticket st cause val.1 val.2.1 val.2.2, src := none, to_ := none, again := none }] } := by
  simp only [State.sendReply, hpath]

/-- A member that leaves without an answer of its group. -/
theorem endMember_silent (hgroup : s.group i = some x) (hno : endReply x reply u v w = none) :
    s.endMember (some i) reply u v w v0 r = s.leaveGroup (some i) := by
  simp only [State.endMember, hgroup, hno]

/-- A member that leaves as its group, invoked by a core of this device, answers. -/
theorem endMember_answers {st cause : Nat} {val : Word × Word × Word} (hgroup : s.group i = some x) (hpath : x.path = .core c)
    (hyes : endReply x reply u v w = some (st, cause, val)) :
    ∃ m, (s.endMember (some i) reply u v w v0 r).dev.replies = s.dev.replies ++ [m] ∧ m.core = c ∧
      m.data = replyData x.ticket st cause val.1 val.2.1 val.2.2 ∧
      (s.endMember (some i) reply u v w v0 r).group i = if x.left ≤ 1 then none else some { x with sent := true, left := x.left - 1 } := by
  simp only [State.endMember, hgroup, hyes, sendReply_core hpath]
  refine ⟨_, leaveGroup_replies _, rfl, rfl, leaveGroup_group (x := { x with sent := true }) ?_⟩
  exact setGroup_group s i _

end

/-! ## The two forms (R214) -/

/-- A form has freed slot `g`. -/
def Ended (o : Out) (g : Nat) (t : State) : Prop := o = .next t ∧ (t.thread g).run = .free ∧ (t.thread g).ctx = Ctx.zero

section
variable {reply : Bool} (h : Drained s g) (hcause : reply = true ∨ s.rS d = 0 ∨ (s.thread g).sv = true)
include h hcause

theorem finish_ended : Ended (s.finish reply d a b) g ((closed s g).endThread g reply (s.rS d) (s.rS a) (s.rS b)).taken := by
  have hth := endThread_thread (s := closed s g) (g := g) (reply := reply) (u := s.rS d) (v := s.rS a) (w := s.rS b)
  exact ⟨finish_drained h hcause, congrArg Thread.run hth, congrArg Thread.ctx hth⟩

theorem finish_alone (hgroup : (s.thread g).group = none) : ∃ t, Ended (s.finish reply d a b) g t ∧ t.mem = s.mem := by
  have hth := closed_thread h.pend
  exact ⟨_, finish_ended h hcause, (endThread_alone (by rw [hth]; exact hgroup) ..).1⟩

variable (hmem : (s.thread g).group = some i) (hgroup : s.group i = some x)
include hmem hgroup

theorem finish_silent (hno : endReply x reply (s.rS d) (s.rS a) (s.rS b) = none) :
    ∃ t, Ended (s.finish reply d a b) g t ∧ t.dev.replies = s.dev.replies ∧
      t.group i = if x.left ≤ 1 then none else some { x with left := x.left - 1 } := by
  have hth := closed_thread h.pend
  have hdev := endThread_dev (s := closed s g) (g := g) (reply := reply) (u := s.rS d) (v := s.rS a) (w := s.rS b)
    (by rw [hth]; exact h.task)
  rw [hth, hmem, endMember_silent (s := closed s g) hgroup hno] at hdev
  exact ⟨_, finish_ended h hcause, (congrArg Dev.replies hdev).trans (leaveGroup_replies _),
    (congrArg (fun x => Tab.get none (Dev.groups x) i) hdev).trans (leaveGroup_group hgroup)⟩

theorem finish_answers {st cause : Nat} {val : Word × Word × Word} (hpath : x.path = .core c)
    (hyes : endReply x reply (s.rS d) (s.rS a) (s.rS b) = some (st, cause, val)) :
    ∃ t m, Ended (s.finish reply d a b) g t ∧ t.dev.replies = s.dev.replies ++ [m] ∧ m.core = c ∧
      m.data = replyData x.ticket st cause val.1 val.2.1 val.2.2 ∧
      t.group i = if x.left ≤ 1 then none else some { x with sent := true, left := x.left - 1 } := by
  have hth := closed_thread h.pend
  have hdev := endThread_dev (s := closed s g) (g := g) (reply := reply) (u := s.rS d) (v := s.rS a) (w := s.rS b)
    (by rw [hth]; exact h.task)
  rw [hth, hmem] at hdev
  obtain ⟨m, hreplies, hcore, hdata, hleft⟩ := endMember_answers (s := closed s g) hgroup hpath hyes
  exact ⟨_, m, finish_ended h hcause, (congrArg Dev.replies hdev).trans hreplies, hcore, hdata,
    (congrArg (fun x => Tab.get none (Dev.groups x) i) hdev).trans hleft⟩

end

/-- Settles O27: the slot is freed, and `endReply` says whether the group answers. -/
theorem quitAndReply : Obligations.QuitAndReply := by
  refine ⟨fun s g d a b hp hpend hlocks hlink htask hgroup => ?_,
    fun s g i c d a b x hp hpend hlocks hlink htask hmem hgroup hpath hsent => ?_,
    fun s g i d a b x hp hpend hlocks hlink htask hmem hgroup hsent => ?_,
    fun s g i c d a b x hp hpend hlocks hlink htask hmem hgroup hpath => ?_⟩
  all_goals have hdrained : Drained s g := ⟨hp, hpend, hlocks, hlink, htask⟩
  · refine ⟨fun hcause => ?_, ?_⟩
    · obtain ⟨t, ⟨ht, hrun, hctx⟩, hmem⟩ := finish_alone (reply := false) (a := a) (b := b) hdrained (.inr hcause) hgroup
      exact ⟨t, ht, hrun, hctx, hmem⟩
    · obtain ⟨t, ⟨ht, hrun, hctx⟩, hmem⟩ := finish_alone (d := d) (a := a) (b := b) hdrained (.inl rfl) hgroup
      exact ⟨t, ht, hrun, hctx, hmem⟩
  · obtain ⟨t, m, ⟨ht, hrun, -⟩, hrest⟩ := finish_answers (d := d) (a := a) (b := b) hdrained (.inl rfl) hmem hgroup hpath
      (endReply_reply hsent _ _ _)
    exact ⟨t, m, ht, hrun, hrest⟩
  · obtain ⟨t, ⟨ht, hrun, -⟩, hrest⟩ := finish_silent (d := d) (a := a) (b := b) hdrained (.inl rfl) hmem hgroup
      (endReply_sent hsent _ _ _ _)
    exact ⟨t, ht, hrun, hrest⟩
  · refine ⟨fun hsent hd hsv => ?_, fun hsent hd hlast => ?_, fun hno hcause => ?_⟩
    · obtain ⟨t, m, ⟨ht, hrun, -⟩, hrest⟩ := finish_answers (a := a) (b := b) hdrained (.inr (.inr hsv)) hmem hgroup hpath
        (endReply_fault hsent hd _ _)
      exact ⟨t, m, ht, hrun, hrest⟩
    · obtain ⟨t, m, ⟨ht, hrun, -⟩, hreplies, hcore, hdata, hleft⟩ := finish_answers (a := a) (b := b) hdrained (.inr (.inl hd)) hmem
        hgroup hpath (by rw [hd]; exact endReply_last hsent hlast _ _)
      exact ⟨t, m, ht, hrun, hreplies, hcore, hdata, hleft.trans (if_pos hlast)⟩
    · obtain ⟨t, ⟨ht, hrun, -⟩, hrest⟩ := finish_silent (a := a) (b := b) hdrained (.inr hcause) hmem hgroup
        (hno.elim (endReply_sent · _ _ _ _) fun h => by rw [h.1]; exact endReply_early h.2 _ _)
      exact ⟨t, ht, hrun, hrest⟩

end Sys2Proof.Claims
end

section
/-!
PROOFS. xfer (R193 to R197, R258, R260): the checks of the command and of its block, and the port that takes it or does not.
-/
namespace Sys2Proof.Claims
open Sys2Proof.Machine

variable {s : State} {g b port : Nat} {d : SReg} {q : Quad} {w pb : List Word} {c : Cmd}

/-! ## Reading a parameter block (R195) -/

/-- Parts that lie in this device's memory are read at once. -/
theorem gatherParts_local {k : List Byte → Out} : ∀ (ps : List (Nat × Nat × Phys)) (acc : List Byte),
    (∀ e ∈ ps, InMemory e.2.2) →
    s.gatherParts g ps acc k = k (acc ++ s.readParts ps)
  | [], acc, _ => by rw [State.gatherParts, State.readParts, List.append_nil]
  | (_, n, p) :: l, acc, h => by
    have ih := gatherParts_local (k := k) l (acc ++ s.spanRead p n) fun e he => h e (.tail _ he)
    rw [State.readParts, ← List.append_assoc, ← ih, State.gatherParts]
    obtain hp | hp | hp : InMemory p := h _ (.head _) <;> rw [hp]

/-- The block of a command is read before its port is tried. -/
theorem exec_xfer (hc : s.cur = .thread g) (hspec : (s.thread g).spec = false) {n : BitVec 2} (hports : s.portsGone (g / 128) = false)
    (hwords : s.wordsOk (g / 128) (s.quad q) = true) (hblock : BlockOf s g (s.quad q) pb) :
    exec (.xfer d q n) s = s.xferNow g d n.toNat (s.quad q) pb := by
  change execXfer d q n s = _
  rw [execXfer, State.swarm_of_thread s hc, s.plainly_of_plain hc hspec]
  simp only [unitBlk, hports, hwords]
  obtain ⟨hpb, rfl⟩ | ⟨hpb, hlow, hheld, ps, hlocal, hparts, rfl⟩ := hblock
  · simp only [hpb]
    rfl
  · simp only [hpb, State.readBlock, hparts, hheld, if_neg (Nat.not_le.mpr hlow), gatherParts_local ps [] hlocal]
    rfl

/-- A command that breaks R91, or has no port to go to, takes UND. -/
theorem exec_xfer_und (hc : s.cur = .thread g) (hspec : (s.thread g).spec = false) {n : BitVec 2}
    (h : s.portsGone (g / 128) = true ∨ s.wordsOk (g / 128) (s.quad q) = false) : exec (.xfer d q n) s = s.und := by
  change execXfer d q n s = _
  rw [execXfer, State.swarm_of_thread s hc, s.plainly_of_plain hc hspec]
  exact if_pos (by obtain h | h := h <;> simp [unitBlk, h])

/-! ## The port (R193, R194, R258) -/

section
variable (hcmd : cmdOf w pb = some c) (hfits : s.cmdFits (g / 128) c = true) (hgate : s.gateMapped c = true)
include hcmd hfits hgate

theorem xferNow_eq : s.xferNow g d port w pb =
    if (s.xport (4 * (g / 128) + port)).held then s.wait
    else if (s.xport (4 * (g / 128) + port)).q.length ≥ 16 then .next (s.wS d 2)
    else if !s.portOpen (g / 128) port then s.wait
    else if s.lockRoom < (c.lockRanges (s.entriesOf c)).length then .next (s.wS d 1)
    else .next ((s.takeCmd (g / 128) port (some ((s.thread g).uid, g)) 0 none w pb c).wS d 0) := by
  rw [State.xferNow, hcmd]
  exact if_neg (by simp [unitBlk, hfits, hgate])

end

theorem modXport_same (s : State) (x : Nat) (f : XPort → XPort) : (s.modXport x f).xport x = f (s.xport x) := by
  rw [State.xport, State.modXport, State.modBlk_same]
  exact Tab.get_set_same _ _ _

theorem addLocks_xport (id : Nat) (xid : BitVec 16) (uid : Option Nat) (rs : List (Bool × Nat × Nat)) (x : Nat) :
    (s.addLocks id xid uid rs).xport x = s.xport x := by rw [State.addLocks, State.xport, State.modDev_blk, ← State.xport]

section
variable (s b port) (uid : Option (Nat × Nat)) (route : Nat) (gid : Option Nat) (w pb : List Word) (c : Cmd)

theorem takeCmd_mem : (s.takeCmd b port uid route gid w pb c).mem = s.mem := by
  simp [State.takeCmd, State.addLocks, State.modXport, State.setXfer, State.lockPlace]

/-- No unit's registers change. -/
theorem takeCmd_ctx : (s.takeCmd b port uid route gid w pb c).ctx = s.ctx := by
  simp [State.ctx, State.takeCmd, State.addLocks, State.modXport, State.setXfer, State.lockPlace]

/-- A command that is taken stands last in its port. -/
theorem takeCmd_queue : ((s.takeCmd b port uid route gid w pb c).xport (4 * b + port)).q = (s.xport (4 * b + port)).q ++ [s.fresh] := by
  simp only [State.takeCmd, addLocks_xport, modXport_same]
  rfl

/-- Its transfer is queued with its words and its block. -/
theorem takeCmd_xfer : (s.takeCmd b port uid route gid w pb c).xfer s.fresh =
    some { blk := b, port := port, uid := uid, route := route, gid := gid, w := w, pb := pb, list := [] } :=
  Tab.get_set_same _ _ _

/-- It holds its range locks behind those that stand. -/
theorem takeCmd_locks : (s.takeCmd b port uid route gid w pb c).dev.locks.map (fun l => (l.write, l.lo, l.hi)) =
    s.dev.locks.map (fun l => (l.write, l.lo, l.hi)) ++ c.lockRanges (s.entriesOf c) := by
  have hmap : ∀ rs : List (Bool × Nat × Nat), (rs.map fun r =>
      ({ id := s.fresh, xid := c.xid, lo := r.2.1, hi := r.2.2, write := r.1, uid := uid.map Prod.fst } : Lock)).map
        (fun l => (l.write, l.lo, l.hi)) = rs := fun rs => by simp [Function.comp_def]
  refine (List.map_append ..).trans ?_
  rw [hmap]
  rfl

end

/-- A form has answered 0 with its command taken. -/
theorem accepted (uid : Option (Nat × Nat)) : ∃ t x,
    (Host.Outcome.next ((s.takeCmd b port uid 0 none w pb c).wS d 0) : Out) = .next t ∧ t.mem = s.mem ∧ OnlyS s.ctx t.ctx d 0 ∧
      (t.xport (4 * b + port)).q = (s.xport (4 * b + port)).q ++ [s.fresh] ∧ t.xfer s.fresh = some x ∧ x.w = w ∧ x.pb = pb ∧
      x.phase = .queued ∧ x.uid = uid ∧ t.dev.locks.map (fun l => (l.write, l.lo, l.hi)) =
        s.dev.locks.map (fun l => (l.write, l.lo, l.hi)) ++ c.lockRanges (s.entriesOf c) := by
  have hqueue : (((s.takeCmd b port uid 0 none w pb c).wS d 0).xport (4 * b + port)).q = (s.xport (4 * b + port)).q ++ [s.fresh] := by
    rw [State.xport, State.wS, State.setCtx_blk]
    exact takeCmd_queue ..
  have hdev : ((s.takeCmd b port uid 0 none w pb c).wS d 0).dev = (s.takeCmd b port uid 0 none w pb c).dev := State.setCtx_dev _ _
  have hxfer : ((s.takeCmd b port uid 0 none w pb c).wS d 0).xfer s.fresh = some
      { blk := b, port := port, uid := uid, route := 0, gid := none, w := w, pb := pb, list := [] } := by
    rw [State.xfer, hdev]
    exact takeCmd_xfer ..
  have hlocks := takeCmd_locks s b port uid 0 none w pb c
  rw [← hdev] at hlocks
  have hmem : ((s.takeCmd b port uid 0 none w pb c).wS d 0).mem = s.mem := by rw [State.wS_mem, takeCmd_mem]
  refine ⟨_, _, rfl, hmem, ?_, hqueue, hxfer, rfl, rfl, rfl, rfl, hlocks⟩
  rw [State.wS, State.setCtx_ctx, takeCmd_ctx]
  exact onlyS_wS ..

/-- Settles O29: the command passes its checks, and the port and the lock table answer. -/
theorem xferAnswers : Obligations.XferAnswers := by
  refine ⟨fun s g d q port pb c hc hspec hports hwords hblock hcmd hfits hgate => ?_, fun s g d q port htrap h => ?_⟩
  · rw [exec_xfer hc hspec hports hwords hblock, xferNow_eq hcmd hfits hgate]
    refine ⟨fun hwait => ?_, fun hheld => ⟨fun hfull => ?_, fun hroom hopen => ⟨fun hlocks => ?_, fun hlocks => ?_⟩⟩⟩
    · obtain hheld | ⟨hroom, hclosed⟩ := hwait
      · rw [if_pos hheld]
        exact wait_waitsAtIssue hc
      · rw [if_neg (Nat.not_le.mpr hroom), hclosed]
        simpa using wait_waitsAtIssue hc
    · rw [hheld, if_neg Bool.false_ne_true, if_pos hfull]
      exact ⟨_, rfl, wroteS_wS d 2⟩
    · rw [hheld, if_neg Bool.false_ne_true, if_neg (Nat.not_le.mpr hroom), hopen, if_neg (by decide), if_pos hlocks]
      exact ⟨_, rfl, wroteS_wS d 1⟩
    · rw [hheld, if_neg Bool.false_ne_true, if_neg (Nat.not_le.mpr hroom), hopen, if_neg (by decide), if_neg (Nat.not_lt.mpr hlocks)]
      exact accepted _
  · rw [exec_xfer_und htrap.1 htrap.2.1 h]
    exact und_tookTrap htrap

end Sys2Proof.Claims
end

section
/-!
PROOFS. The sync forms and the cycles of a sync word (R94, R200, R201, R270 to R272): a form lands at its word and awaits the end of the
cycle, and the update unit applies what has landed once the cycle has passed.
-/
namespace Sys2Proof.Claims
open Sys2Proof.Machine

variable {s t u : State} {g k pa : Nat} {a b d : SReg} {p : Phys}

/-! ## The word in memory (R94) -/

/-- The generation of a sync word stands in its bytes 10 and 11. -/
theorem syncOf_gen (m : List Host.Cell) (a : Nat) : (syncOf (memNat m a 16)).gen = memNat m (a + 10) 2 := by
  have hlow := memNat_lt m 10 a
  have hgen := memNat_lt m 2 (a + 10)
  change bitsN (memNat m a (10 + 6)) 80 16 = _
  rw [memNat_add, show (6 : Nat) = 2 + 4 from rfl, memNat_add, bitsN]
  generalize memNat m (a + 10 + 2) 4 = z
  omega

theorem syncWord_eq (s : State) (pa : Nat) : s.syncWord pa = syncOf (memNat s.mem pa 16) := by rw [State.syncWord, peek_eq_memNat]

theorem homeRead_of_inMemory (hp : InMemory p) (n : Nat) : s.homeRead p n = memNat s.mem p.pa n := by
  obtain h | h | h := hp <;> rw [State.homeRead, h, peek_eq_memNat]

/-! ## What an update unit does not see -/

/-- What has landed at the sync word at `pa` stands as it stood, and its unit is in the same cycle. -/
structure SameWord (s t : State) (pa : Nat) : Prop where
  landed : t.landed pa = s.landed pa
  cyc    : t.syncCyc pa = s.syncCyc pa

theorem SameWord.trans (h : SameWord s t pa) (h' : SameWord t u pa) : SameWord s u pa :=
  ⟨h'.landed.trans h.landed, h'.cyc.trans h.cyc⟩

theorem SameWord.settled (h : SameWord s t pa) (hs : Settled s pa) : Settled t pa := by
  rw [Settled, h.landed, h.cyc]
  exact hs

theorem SameWord.lands (h : SameWord s t pa) {f : Landed → Landed} (hl : Lands t u pa f) : Lands s u pa f := by
  rw [Lands, ← h.landed, ← h.cyc]
  exact hl

theorem sameWord_noteWrite (by_ : Option Nat) (task : Option (Nat × Nat)) (a n : Nat) : SameWord s (s.noteWrite by_ task a n) pa where
  landed := rfl
  cyc := by rw [State.syncCyc, noteWrite_blk]; rfl

theorem sameWord_watchWord (sw : Bool) (va : Nat) : SameWord s (s.watchWord sw va) pa := by
  unfold State.watchWord
  dsimp only
  split
  · have hpoke : SameWord s (s.pokeN (s.dev.wtbase.toNat + 8 * s.watchIdx va) 8
        (s.peek (s.dev.wtbase.toNat + 8 * s.watchIdx va) 8 + 1)) pa := ⟨rfl, rfl⟩
    exact (hpoke.trans (sameWord_noteWrite none none _ 8)).trans ⟨rfl, rfl⟩
  · exact ⟨rfl, rfl⟩

theorem WriteKept.thread_ctx (h : WriteKept s t) (j : Nat) : (t.thread j).ctx = (s.thread j).ctx := by
  have hctx := congrArg Thread.ctx (h.thread j)
  exact hctx

theorem writeKept_watchWord (sw : Bool) (va : Nat) : WriteKept s (s.watchWord sw va) := by
  unfold State.watchWord
  dsimp only
  split
  · exact ((writeKept_poke _ _).trans (writeKept_noteWrite _ _ _ _)).trans (writeKept_staleWhere _)
  · exact .rfl

/-- A watch word alone changes in memory (R359, R360). -/
theorem watchWord_byte {sw : Bool} {va x : Nat} (h : ¬ Watched s sw va x) :
    Memory.byte (s.watchWord sw va).mem x = Memory.byte s.mem x := by
  unfold State.watchWord
  dsimp only
  split
  next hw =>
    rw [Bool.and_eq_true, decide_eq_true_iff] at hw
    refine Memory.byte_write_other _ _ _ _ ?_
    rw [leBytes_length]
    by_contra hin
    rw [State.watchIdx, bitsN] at hin
    exact h ⟨hw.1, fun hz => hw.2 (by rw [hz]; rfl), by omega, by omega⟩
  next => rfl

/-! ## Landing (R270) -/

/-- Where no passed cycle is to end, the word is left as it is. -/
theorem rollSync_of_settled (h : Settled s pa) : s.rollSync pa = s ∨ s.landed pa = {} ∧ s.rollSync pa = s.setLanded pa {} := by
  unfold State.rollSync
  split
  next hpast =>
    have hnone : s.landed pa = {} := h.resolve_right (Nat.not_le.mpr hpast)
    refine .inr ⟨hnone, ?_⟩
    rw [State.closeSync, hnone]
    rfl
  next => exact .inl rfl

theorem setLanded_landed (l : Landed) : (s.setLanded pa l).landed pa = l := Tab.get_set_same _ _ _

/-- Something that lands changes what stands at the word, and no memory, thread or core. -/
theorem syncPut_lands (h : Settled s pa) (f : Landed → Landed) : Lands s (s.syncPut pa f) pa f ∧ (s.syncPut pa f).mem = s.mem ∧
    (∀ j, (s.syncPut pa f).thread j = s.thread j) ∧ ∀ j, (s.syncPut pa f).tcore j = s.tcore j := by
  obtain hroll | ⟨hnone, hroll⟩ := rollSync_of_settled h
  · rw [State.syncPut, hroll]
    exact ⟨setLanded_landed _, rfl, fun _ => rfl, fun _ => rfl⟩
  · rw [State.syncPut, hroll, setLanded_landed, ← hnone]
    exact ⟨setLanded_landed _, rfl, fun _ => rfl, fun _ => rfl⟩

/-! ## The awaited end of the cycle (R201) -/

theorem sameWord_syncPend (d : SReg) : SameWord s (s.syncPend d) pa := by
  constructor
  · rw [State.landed, State.syncPend, State.long, State.setCtx_dev]
    rfl
  · rw [State.syncCyc, State.syncPend, State.long, State.setCtx_blk]
    rfl

theorem syncPend_mem (s : State) (d : SReg) : (s.syncPend d).mem = s.mem := s.next.long_mem _

theorem next_ctx (s : State) : s.next.ctx = s.ctx := by
  unfold State.ctx
  rfl

theorem syncPend_thread_ctx (hc : s.cur = .thread g) (d : SReg) :
    ((s.syncPend d).thread g).ctx = { s.ctx with pend := s.ctx.pend ++ [syncAwaited s d] } := by
  rw [State.syncPend, State.long, State.setCtx_thread, if_pos (show s.next.cur = _ from hc), next_ctx]
  rfl

theorem syncPend_tcore_ctx (hc : s.cur = .core k) (d : SReg) :
    ((s.syncPend d).tcore k).ctx = { s.ctx with pend := s.ctx.pend ++ [syncAwaited s d] } := by
  rw [State.syncPend, State.long, State.setCtx_tcore, if_pos (show s.next.cur = _ from hc), next_ctx]
  rfl

/-- A form of thread `g` that lands at `pa` through a page. -/
theorem thread_lands (hc : s.cur = .thread g) (hs : Settled s pa) (sw : Bool) (va : Nat) (f : Landed → Landed) :
    (∀ x, ¬ Watched s sw va x → Memory.byte (((s.syncPend d).watchWord sw va).syncPut pa f).mem x = Memory.byte s.mem x) ∧
    ((((s.syncPend d).watchWord sw va).syncPut pa f).thread g).ctx = { s.ctx with pend := s.ctx.pend ++ [syncAwaited s d] } ∧
    Lands s (((s.syncPend d).watchWord sw va).syncPut pa f) pa f := by
  have hword : SameWord s ((s.syncPend d).watchWord sw va) pa := (sameWord_syncPend d).trans (sameWord_watchWord sw va)
  obtain ⟨hlands, hmem, hthread, -⟩ := syncPut_lands (hword.settled hs) f
  refine ⟨fun x hx => ?_, ?_, hword.lands hlands⟩
  · rw [hmem, watchWord_byte, syncPend_mem]
    rwa [Watched, State.syncPend, State.long, State.setCtx_dev]
  · rw [hthread]
    exact ((writeKept_watchWord sw va).thread_ctx g).trans (syncPend_thread_ctx hc d)

/-- A form of core `k` that lands at `pa`. -/
theorem core_lands (hc : s.cur = .core k) (hs : Settled s pa) (f : Landed → Landed) :
    (((s.syncPend d).syncPut pa f).tcore k).ctx = { s.ctx with pend := s.ctx.pend ++ [syncAwaited s d] } ∧
    Lands s ((s.syncPend d).syncPut pa f) pa f := by
  have hword : SameWord s (s.syncPend d) pa := sameWord_syncPend d
  obtain ⟨hlands, -, -, htcore⟩ := syncPut_lands (hword.settled hs) f
  exact ⟨by rw [htcore, syncPend_tcore_ctx hc], hword.lands hlands⟩

/-- A core's update is no thread's. -/
theorem mixBy_none (b : Option (Option Nat)) : mixBy b none = some none := by
  cases b <;> simp [mixBy]

/-! ## sync.set and sync.arrive (R200) -/

theorem bits_low (x : Word) (n : Nat) : bits x 0 n = x.toNat % 2 ^ n := by rw [bits, bitsN, Nat.pow_zero, Nat.div_one]

/-- A count of arrivals from 1 to 255. -/
theorem arriveOk {x : Word} (h : x.toNat / 2 ^ 8 = 0) (hpos : x ≠ 0) : ¬(bits x 8 56 ≠ 0 ∨ bits x 0 8 = 0) := by
  have hne : x.toNat ≠ 0 := fun hz => hpos (BitVec.eq_of_toNat_eq hz)
  rw [bits_low, bits, bitsN, h]
  omega

theorem tileSyncOk_of {x : Word} (hlow : x.toNat % 16 = 0) (hhigh : x.toNat < 0x80000) : tileSyncOk x = true := by
  simp [tileSyncOk, hlow, hhigh]

section
variable (hc : s.cur = .thread g) (hspec : (s.thread g).spec = false)
include hc hspec

theorem exec_syncSet_thread (hsb : (s.thread g).sb = []) (hp : InMemory p) (hb : (s.rS b).toNat / 2 ^ 40 = 0)
    (hr : Reaches s g (s.rS a) 16 16 false true .any p) :
    exec (.syncSet a b) s = .next (((s.syncPend 0).watchWord p.sw (s.rS a).toNat).syncPut p.pa fun l =>
      { l with set := some ((s.rS b).toNat % 2 ^ 32, (s.rS b).toNat / 2 ^ 32 % 2 ^ 8), who := l.who ++ [.thread g s.fresh]
               by_ := mixBy l.by_ (some g) }) := by
  change execSyncSet a b s = _
  rw [execSyncSet, if_neg (by rw [bits, bitsN, hb]; decide), hc]
  dsimp only
  rw [s.plainly_of_plain hc hspec, s.access_of_ok hr.1 hr.2.1 hr.2.2, if_neg (not_not.mpr hsb), bits_low, State.syncMine, hc]
  obtain h | h | h := hp <;> simp only [h, State.syncSetAt, State.syncSet, agentOf] <;> rfl

theorem exec_syncArrive_thread (hsb : (s.thread g).sb = []) (hp : InMemory p) (hb : (s.rS b).toNat / 2 ^ 8 = 0) (hpos : s.rS b ≠ 0)
    (hlock : s.ownsLock g = false) (hr : Reaches s g (s.rS a) 16 16 false true .any p) :
    exec (.syncArrive d a b) s = .next (((s.syncPend d).watchWord p.sw (s.rS a).toNat).syncPut p.pa fun l =>
      { l with arrs := l.arrs + (s.rS b).toNat, who := l.who ++ [.thread g s.fresh], by_ := mixBy l.by_ (some g) }) := by
  change execSyncArrive d a b s = _
  rw [execSyncArrive, if_neg (arriveOk hb hpos), hc]
  dsimp only
  rw [s.plainly_of_plain hc hspec, s.access_of_ok hr.1 hr.2.1 hr.2.2, if_neg (by simp [hsb, hlock]), bits_low, State.syncMine, hc,
    Nat.mod_eq_of_lt (by omega)]
  obtain h | h | h := hp <;> simp only [h, State.syncArriveAt, State.syncLand, agentOf] <;> rfl

end

section
variable (hc : s.cur = .core k) (hlow : (s.rS a).toNat % 16 = 0) (hhigh : (s.rS a).toNat < 0x80000)
include hc hlow hhigh

theorem exec_syncSet_core (hb : (s.rS b).toNat / 2 ^ 40 = 0) (hrel : s.released k = true) :
    exec (.syncSet a b) s = .next ((s.syncPend 0).syncPut (sramAddr (k / 4) (s.rS a).toNat) fun l =>
      { l with set := some ((s.rS b).toNat % 2 ^ 32, (s.rS b).toNat / 2 ^ 32 % 2 ^ 8), who := l.who ++ [.core k s.fresh]
               by_ := some none }) := by
  change execSyncSet a b s = _
  rw [execSyncSet, if_neg (by rw [bits, bitsN, hb]; decide), hc]
  dsimp only
  rw [tileSyncOk_of hlow hhigh, hrel, bits_low, State.syncMine, hc]
  simp only [State.syncSet, agentOf, mixBy_none]
  rfl

theorem exec_syncArrive_core (hb : (s.rS b).toNat / 2 ^ 8 = 0) (hpos : s.rS b ≠ 0) (hrel : s.released k = true) :
    exec (.syncArrive d a b) s = .next ((s.syncPend d).syncPut (sramAddr (k / 4) (s.rS a).toNat) fun l =>
      { l with arrs := l.arrs + (s.rS b).toNat, who := l.who ++ [.core k s.fresh], by_ := some none }) := by
  change execSyncArrive d a b s = _
  rw [execSyncArrive, if_neg (arriveOk hb hpos), hc]
  dsimp only
  rw [tileSyncOk_of hlow hhigh, hrel, bits_low, State.syncMine, hc, Nat.mod_eq_of_lt (by omega)]
  simp only [State.syncLand, agentOf, mixBy_none]
  rfl

end

/-! ## sync.wait (R200) -/

/-- A generation of 16 bits is reached when it is not more than half the circle behind. -/
theorem genReached_eq {x : Word} (hx : x.toNat / 2 ^ 16 = 0) (gen : Nat) :
    genReached gen (bits x 0 16) = decide ((gen + 65536 - x.toNat) % 65536 < 32768) := by
  have hlow : bits x 0 16 % 65536 = x.toNat := by rw [bits, bitsN]; omega
  rw [genReached, hlow]

/-- A unit that waits for a generation goes on with one that has been reached, and stops otherwise. -/
def WaitedSync (s : State) (d : SReg) (gen want : Nat) (stopped : State → Prop) (o : Out) : Prop :=
  ((gen + 65536 - want) % 65536 < 32768 → ∃ t, o = .next t ∧ WroteS s t d (BitVec.ofNat 64 gen)) ∧
    (32768 ≤ (gen + 65536 - want) % 65536 → ∃ t, o = .next t ∧ stopped t)

theorem waitedSync_ite {x : Word} (hx : x.toNat / 2 ^ 16 = 0) (gen : Nat) {stopped : State → Prop} (h : stopped t) :
    WaitedSync s d gen x.toNat stopped (if genReached gen (bits x 0 16) then .next (s.wS d (wd gen)) else .next t) := by
  refine ⟨fun hreached => ?_, fun hnot => ?_⟩
  · rw [genReached_eq hx, if_pos (decide_eq_true hreached)]
    exact ⟨_, rfl, wroteS_wS d _⟩
  · rw [genReached_eq hx, if_neg (by simpa using hnot)]
    exact ⟨_, rfl, h⟩

section
variable (hc : s.cur = .thread g) (hspec : (s.thread g).spec = false) (hb : (s.rS b).toNat / 2 ^ 16 = 0)
  (hr : Reaches s g (s.rS a) 16 16 true false .any p)
include hc hspec hb hr

theorem exec_syncWait_thread (hsb : (s.thread g).sb = []) (hp : InMemory p) :
    WaitedSync s d (memNat s.mem (p.pa + 10) 2) (s.rS b).toNat
      (ThreadOnly s · g { s.thread g with run := .wait (.sync d (s.rS a) ((s.rS b).setWidth 16)) }) (exec (.syncWait d a b) s) := by
  change WaitedSync _ _ _ _ _ (execSyncWait d a b s)
  rw [execSyncWait, if_neg (by rw [bits, bitsN, hb]; decide), hc]
  dsimp only
  rw [s.plainly_of_plain hc hspec, s.access_of_ok hr.1 hr.2.1 hr.2.2, if_neg (by rw [hsb]; exact Bool.false_ne_true),
    homeRead_of_inMemory hp, syncOf_gen]
  obtain h | h | h := hp <;> rw [h] <;> exact waitedSync_ite hb _ (threadOnly_modThread hc rfl)

/-- A store of the thread's own to the word comes first. -/
theorem exec_syncWait_behind (hsb : ((s.thread g).sb.any fun e => e.over p 16) = true) :
    ∃ t, exec (.syncWait d a b) s = .next t ∧ WaitsAtIssue s t g := by
  change ∃ t, execSyncWait d a b s = .next t ∧ _
  rw [execSyncWait, if_neg (by rw [bits, bitsN, hb]; decide), hc]
  dsimp only
  rw [s.plainly_of_plain hc hspec, s.access_of_ok hr.1 hr.2.1 hr.2.2, if_pos hsb]
  exact wait_waitsAtIssue hc

end

theorem exec_syncWait_core (hc : s.cur = .core k) (hlow : (s.rS a).toNat % 16 = 0) (hhigh : (s.rS a).toNat < 0x80000)
    (hb : (s.rS b).toNat / 2 ^ 16 = 0) (hpend : s.ctx.pend.any Pending.holds = false) :
    WaitedSync s d (memNat s.mem (sramAddr (k / 4) (s.rS a).toNat + 10) 2) (s.rS b).toNat
      (fun t => SameRest s t ∧ t.tcore k = { s.tcore k with run := .sync d (sramAddr (k / 4) (s.rS a).toNat) ((s.rS b).setWidth 16) })
      (exec (.syncWait d a b) s) := by
  change WaitedSync _ _ _ _ _ (execSyncWait d a b s)
  rw [execSyncWait, if_neg (by rw [bits, bitsN, hb]; decide), hc]
  dsimp only
  rw [ctx_of_core hc] at hpend
  rw [tileSyncOk_of hlow hhigh, hpend, syncWord_eq, coreTile, syncOf_gen]
  exact waitedSync_ite hb _ ⟨sameRest_modTcore hc _, State.modTcore_same _ _ _⟩

/-! ## The end of a cycle (R270, R271) -/

/-- Landing and one evaluation are the phase of R271. -/
theorem land_eval_eq_phase (w : SyncW) (bytes arrs : Nat) : ((w.land bytes arrs).eval, (w.land bytes arrs).ripe) = phase w bytes arrs := by
  have hripe : (w.land bytes arrs).ripe = true ↔
      min (w.cnt + bytes) 0xFFFFFFFF ≥ w.btgt ∧ min (w.arr + arrs) 0xFF ≥ w.atgt ∧ (w.btgt ≠ 0 ∨ w.atgt ≠ 0) := by
    simp [SyncW.ripe, SyncW.land, and_assoc]
  have hovf : (w.land bytes arrs).ovf = (w.ovf || decide (w.cnt + bytes > 0xFFFFFFFF ∨ w.arr + arrs > 0xFF)) := by
    rw [SyncW.land, Bool.decide_or, Bool.or_assoc]
  unfold phase
  dsimp only
  split
  next h =>
    rw [SyncW.eval, if_pos (hripe.mpr h), hripe.mpr h, hovf]
    rfl
  next h =>
    rw [SyncW.eval, if_neg (mt hripe.mp h), Bool.eq_false_iff.mpr (mt hripe.mp h), ← hovf]
    rfl

/-- A word of memory on which nothing lands. -/
theorem syncOf_land_none (x : Nat) : (syncOf x).land 0 0 = syncOf x := by
  have hcnt : (syncOf x).cnt < 2 ^ 32 := Nat.mod_lt _ (by decide)
  have harr : (syncOf x).arr < 2 ^ 8 := Nat.mod_lt _ (by decide)
  have hmin : min ((syncOf x).cnt + 0) 0xFFFFFFFF = (syncOf x).cnt := by omega
  have hmin' : min ((syncOf x).arr + 0) 0xFF = (syncOf x).arr := by omega
  have hovf : ((syncOf x).ovf || decide ((syncOf x).cnt + 0 > 0xFFFFFFFF) || decide ((syncOf x).arr + 0 > 0xFF)) = (syncOf x).ovf := by
    rw [decide_eq_false (by omega), decide_eq_false (by omega), Bool.or_false, Bool.or_false]
  rw [SyncW.land, hmin, hmin', hovf]

/-- The word after updates and the phase, before a sync.set, and whether it has advanced. -/
def evaluated (l : Landed) (w : SyncW) : SyncW × Bool :=
  if l.bytes ≠ 0 ∨ l.arrs ≠ 0 ∨ l.carry = true then phase w l.bytes l.arrs else (w, false)

theorem apply_evaluated (l : Landed) (x : Nat) : (l.apply (syncOf x)).1 = (evaluated l (syncOf x)).1 ∧
    (l.apply (syncOf x)).2.1 = (evaluated l (syncOf x)).2 := by
  have hphase := land_eval_eq_phase (syncOf x) l.bytes l.arrs
  unfold Landed.apply evaluated
  dsimp only
  split
  next => rw [← hphase]; exact ⟨rfl, rfl⟩
  next h =>
    have hbytes : l.bytes = 0 := by_contra fun hne => h (.inl hne)
    have harrs : l.arrs = 0 := by_contra fun hne => h (.inr (.inl hne))
    rw [hbytes, harrs, syncOf_land_none]
    exact ⟨rfl, rfl⟩

/-- What the update unit stores at the end of a cycle, and whether the next one evaluates again. -/
theorem apply_cycleOf (l : Landed) (x : Nat) : (l.apply (syncOf x)).2.2 = (cycleOf l (syncOf x)).1 ∧
    (l.apply (syncOf x)).2.1 = (cycleOf l (syncOf x)).2 := by
  obtain ⟨hword, hadv⟩ := apply_evaluated l x
  rw [hadv]
  unfold cycleOf
  rw [← evaluated]
  cases hset : l.set with
  | none => exact ⟨by rw [← hword, Landed.apply, hset], rfl⟩
  | some z => exact ⟨by rw [Landed.apply, hset]; rfl, rfl⟩

/-! ## Who is told (R201) -/

theorem tellSync_mem (x : Nat) (w : SyncWho) : (s.tellSync x w).mem = s.mem := by cases w <;> rfl

theorem tellSync_landed (x : Nat) (w : SyncWho) : (s.tellSync x w).landed pa = s.landed pa := by cases w <;> rfl

theorem watch_plain_mem (va a n : Nat) : (s.watch false va a n).mem = s.mem := by
  unfold State.watch State.watchWord
  simp only [Bool.false_and, Bool.false_eq_true, if_false]
  split
  · rfl
  split <;> rfl

theorem putSync_mem (w : SyncW) (by_ : Option Nat) : (s.putSync pa w by_).mem = Memory.write s.mem pa (leBytes 16 w.word) := by
  rw [State.putSync, State.pokeN, State.poke_mem, State.noteWrite_mem, watch_plain_mem]

theorem putSync_thread_ctx (w : SyncW) (by_ : Option Nat) (j : Nat) : ((s.putSync pa w by_).thread j).ctx = (s.thread j).ctx := by
  rw [State.putSync, State.pokeN, State.poke_thread]
  exact ((writeKept_watch_plain 0 pa 16).trans (writeKept_noteWrite by_ none pa 16)).thread_ctx j

/-- Something stands for the cycle of the word at `pa`. -/
def Standing (l : Landed) : Prop := ¬(l.bytes = 0 ∧ l.arrs = 0 ∧ l.carry = false ∧ l.set = none)

/-- What stands for the cycle after `l`'s. -/
def afterCycle (l : Landed) (w : SyncW) : Landed := if (cycleOf l w).2 then { cyc := l.cyc + 1, carry := true, by_ := l.by_ } else {}

/-- The update unit stores the word, and tells those who wait. -/
theorem closeSync_eq (h : Standing (s.landed pa)) : s.closeSync pa =
    (s.landed pa).who.foldl (fun s' w => s'.tellSync ((evaluated (s.landed pa) (s.syncWord pa)).1.gen +
        (evaluated (s.landed pa) (s.syncWord pa)).2.toNat * 65536) w)
      ((s.putSync pa (cycleOf (s.landed pa) (s.syncWord pa)).1 (s.landed pa).writer).setLanded pa
        (afterCycle (s.landed pa) (s.syncWord pa))) := by
  obtain ⟨hword, hadv⟩ := apply_evaluated (s.landed pa) (s.peek pa 16)
  obtain ⟨hstored, hnext⟩ := apply_cycleOf (s.landed pa) (s.peek pa 16)
  rw [← State.syncWord] at hword hadv hstored hnext
  rw [afterCycle, ← hstored, ← hnext, ← hword, ← hadv]
  exact if_neg h

theorem closeSync_mem (h : Standing (s.landed pa)) :
    (s.closeSync pa).mem = Memory.write s.mem pa (leBytes 16 (cycleOf (s.landed pa) (s.syncWord pa)).1.word) := by
  rw [closeSync_eq h, foldl_keeps State.mem (F := fun s' w => State.tellSync s' _ w) fun _ _ => tellSync_mem _ _]
  rw [State.setLanded, State.modDev_mem, putSync_mem]

theorem closeSync_landed (h : Standing (s.landed pa)) : (s.closeSync pa).landed pa = afterCycle (s.landed pa) (s.syncWord pa) := by
  rw [closeSync_eq h, foldl_keeps (State.landed · pa) (F := fun s' w => State.tellSync s' _ w) fun _ _ => tellSync_landed _ _]
  exact setLanded_landed _

theorem closeSync_cycleEnded (h : Standing (s.landed pa)) : CycleEnded s (s.closeSync pa) pa := by
  rw [CycleEnded, ← syncWord_eq, PutBytes, closeSync_mem h]
  exact ⟨⟨fun k b hk => Memory.byte_write _ _ _ _ _ hk, fun x hx => Memory.byte_write_other _ _ _ _ hx⟩, closeSync_landed h⟩

/-- The one thread that waits gets the generation and the mark of an advance. -/
theorem closeSync_pend {tok : Nat} (harrs : (s.landed pa).arrs ≠ 0) (hwho : (s.landed pa).who = [.thread g tok]) :
    ((s.closeSync pa).thread g).ctx.pend = (s.thread g).ctx.pend.map fun p => if p.tok = tok ∧ p.ready = false then
      { p with ready := true
               val := BitVec.ofNat 256 ((phase (syncOf (memNat s.mem pa 16)) (s.landed pa).bytes (s.landed pa).arrs).1.gen +
                 if (phase (syncOf (memNat s.mem pa 16)) (s.landed pa).bytes (s.landed pa).arrs).2 then 65536 else 0) } else p := by
  have hmark : ∀ c : Bool, c.toNat * 65536 = if c then 65536 else 0 := fun c => by cases c <;> rfl
  have hphase : evaluated (s.landed pa) (s.syncWord pa) = phase (syncOf (memNat s.mem pa 16)) (s.landed pa).bytes (s.landed pa).arrs := by
    rw [evaluated, if_pos (.inr (.inl harrs)), syncWord_eq]
  rw [closeSync_eq fun h => harrs h.2.1, hwho, hphase, hmark, List.foldl_cons, List.foldl_nil, State.tellSync, State.modThread_same]
  dsimp only [Thread.arriveAt]
  rw [State.setLanded, State.modDev_thread, putSync_thread_ctx]
  rfl

/-- Settles O31: the forms by unit, and the end of a cycle by what stands for it. -/
theorem syncForms : Obligations.SyncForms := by
  refine ⟨fun s g d a b p hp hmem => ?_, fun s g d a b p hc hspec hb hr hsb => exec_syncWait_behind hc hspec hb hr hsb,
    fun s k d a b hc hlow hhigh => ?_, fun s pa hpast => ?_, fun s pa g tok hpast harrs hwho => ?_⟩
  · obtain ⟨hc, hspec, hsb⟩ := hp
    refine ⟨fun hb hs hr => ?_, fun hb hpos hlock hs hr => ?_, fun hb hr => exec_syncWait_thread hc hspec hb hr hsb hmem⟩
    · exact ⟨_, exec_syncSet_thread hc hspec hsb hmem hb hr, thread_lands hc hs _ _ _⟩
    · exact ⟨_, exec_syncArrive_thread hc hspec hsb hmem hb hpos hlock hr, thread_lands hc hs _ _ _⟩
  · refine ⟨fun hb hrel hs => ?_, fun hb hpos hrel hs => ?_, fun hb hpend => exec_syncWait_core hc hlow hhigh hb hpend⟩
    · exact ⟨_, exec_syncSet_core hc hlow hhigh hb hrel, core_lands hc hs _⟩
    · exact ⟨_, exec_syncArrive_core hc hlow hhigh hb hpos hrel, core_lands hc hs _⟩
  · refine ⟨fun h => ⟨_, if_pos ⟨h, hpast⟩, closeSync_cycleEnded ?_⟩,
      fun hbytes harrs hset hcarry => ⟨_, if_pos ⟨hbytes, harrs, hset, hcarry, hpast⟩, closeSync_cycleEnded ?_⟩⟩
    · exact fun ⟨hbytes, harrs, _, hset⟩ => h.elim (· hbytes) fun h => h.elim (· harrs) (· hset)
    · exact fun ⟨_, _, hno, _⟩ => Bool.false_ne_true (hno.symm.trans hcarry)
  · exact ⟨_, if_pos ⟨.inr (.inl harrs), hpast⟩, closeSync_pend harrs hwho⟩

end Sys2Proof.Claims
end

section
/-!
PROOFS. Flits and tokens on their ways (R90, R164, R174, R241 to R249, R264, R309, R326): what moves through the link buffers, and what
enters a port, a ring, a placing area or the end of a via transfer.
-/
namespace Sys2Proof.Claims
open Sys2Proof.Machine

variable {s t u : State} {r q i tl : Nat} {dir d side : Dir} {f : Flit} {l : List Flit}

/-! ## Link buffers (R329) -/

@[simp] theorem setLink_mem (r : Nat) (d : Dir) (vc : Nat) (l : List Flit) : (s.setLink r d vc l).mem = s.mem := rfl

@[simp] theorem setLink_field (r : Nat) (d : Dir) (vc : Nat) (l : List Flit) (n : Nat) : (s.setLink r d vc l).field n = s.field n := rfl

@[simp] theorem setLink_same (r : Nat) (d : Dir) (vc : Nat) (l : List Flit) : (s.setLink r d vc l).link r d vc = l :=
  Tab.get_set_same _ _ _

theorem setLink_other {vc r' vc' : Nat} {d' : Dir} (h : linkKey r' d' vc' ≠ linkKey r d vc) (l : List Flit) :
    (s.setLink r d vc l).link r' d' vc' = s.link r' d' vc' :=
  Tab.get_set_other _ _ _ _ h

theorem dirNum_lt (d : Dir) : dirNum d < 5 := by cases d <;> decide

theorem dirNum_inj : ∀ {d d' : Dir}, dirNum d = dirNum d' → d = d' := by
  intro d d' h
  cases d <;> cases d' <;> simp [dirNum] at h ⊢

/-- The buffers of two routers are not the same. -/
theorem linkKey_ne_of_router {vc vc' : Nat} (h : q ≠ r) (hvc : vc < 4) (hvc' : vc' < 4) : linkKey q d vc ≠ linkKey r dir vc' := by
  have hd := dirNum_lt d
  have hdir := dirNum_lt dir
  unfold linkKey
  omega

/-- The buffers of one router are told apart by side and channel. -/
theorem linkKey_eq_iff {vc vc' : Nat} (hvc : vc < 4) (hvc' : vc' < 4) : linkKey r d vc = linkKey r dir vc' ↔ d = dir ∧ vc = vc' := by
  constructor
  · intro h
    unfold linkKey at h
    exact ⟨dirNum_inj (by omega), by omega⟩
  · rintro ⟨rfl, rfl⟩
    rfl

theorem hVc_lt (h : Word) : hVc h < 4 := Nat.mod_lt _ (by decide)

theorem neighbour_ne (h : neighbour r d = some (q, side)) : q ≠ r := by
  cases d <;> simp only [neighbour] at h
  case inject => cases h
  all_goals
    split at h
    · obtain ⟨rfl, -⟩ := Prod.mk.inj (Option.some.inj h)
      simp only [routerX, routerY] at *
      omega
    · cases h

/-! ## Forwarding (R247 to R249) -/

/-- The head of a buffer has moved to the end of a neighbour's. -/
theorem moved_links {vc vc' : Nat} (h : neighbour r d = some (q, side)) (hvc : vc < 4) (hvc' : vc' < 4) (l' : List Flit) :
    ((s.setLink r dir vc l).setLink q side vc' (s.link q side vc' ++ l')).link r dir vc = l ∧
    ((s.setLink r dir vc l).setLink q side vc' (s.link q side vc' ++ l')).link q side vc' = s.link q side vc' ++ l' := by
  have hne := linkKey_ne_of_router (d := dir) (dir := side) (neighbour_ne h).symm hvc hvc'
  exact ⟨by rw [setLink_other hne, setLink_same], setLink_same ..⟩

theorem hop_go {vc : Nat} (h : neighbour r d = some (q, side)) (hvc : vc < 4) :
    (s.setLink r dir vc l).hop r f (.go d) = (s.setLink r dir vc l).setLink q side (hVc f.hdr) (s.link q side (hVc f.hdr) ++ [f]) := by
  rw [State.hop, h]
  dsimp only
  rw [setLink_other (linkKey_ne_of_router (neighbour_ne h) (hVc_lt _) hvc)]

section
variable {vc : BitVec 2} (hlink : s.link r dir vc.toNat = f :: l) (halive : s.routerDead r = false)
include hlink halive

theorem exec_flitForward_go (hkind : hKind f.hdr ≠ 8) (hhops : s.hops r f = some [.go d]) (hn : neighbour r d = some (q, side))
    (hroom : s.linkRoom q side (hVc f.hdr) = true) : exec (.flitForward r dir vc) s =
      .next ((s.setLink r dir vc.toNat l).setLink q side (hVc f.hdr) (s.link q side (hVc f.hdr) ++ [f])) := by
  change execFlitForward r dir vc s = _
  have hfits : [Hop.go d].all (s.hopRoom r f) = true := by simp [State.hopRoom, hn, hroom]
  rw [← hop_go hn vc.isLt]
  simp only [execFlitForward, hlink, halive, hkind, hhops, hfits]
  rfl

theorem exec_flitForward_bad (hkind : hKind f.hdr ≠ 8) (hhops : s.hops r f = none) :
    exec (.flitForward r dir vc) s = .next ((s.setLink r dir vc.toNat l).badFlit r f) := by
  change execFlitForward r dir vc s = _
  simp only [execFlitForward, hlink, halive, hkind, hhops]
  rfl

theorem exec_flitForward_notice (hkind : hKind f.hdr = 8) : exec (.flitForward r dir vc) s = .next (s.noticeHop r dir f l) := by
  change execFlitForward r dir vc s = _
  simp only [execFlitForward, hlink, halive, hkind]
  rfl

end

/-! ## Notices (R309) -/

theorem noticeFlit_kind (x : FRec) : hKind (noticeFlit x).hdr = 8 := by
  have := x.cause.isLt
  simp only [noticeFlit, hKind, bits, bitsN, wd, BitVec.toNat_ofNat]
  omega

theorem noticeFlit_vc (x : FRec) : hVc (noticeFlit x).hdr = 3 := by
  have := x.cause.isLt
  simp only [noticeFlit, hVc, bits, bitsN, wd, BitVec.toNat_ofNat]
  omega

/-- A notice's flit enters the mesh at its router, behind what stands there. -/
theorem noticeFrom_link (n : Nat) (x : FRec) : (s.noticeFrom r n x).link r .inject 3 = s.link r .inject 3 ++ [noticeFlit x] := by
  rw [State.noticeFrom, State.inject, noticeFlit_vc]
  exact setLink_same ..

theorem noticeFrom_link_other (n : Nat) (x : FRec) {vc : Nat} (hvc : vc < 4) (h : ¬(dir = .inject ∧ vc = 3)) :
    (s.noticeFrom r n x).link r dir vc = s.link r dir vc := by
  rw [State.noticeFrom, State.inject, noticeFlit_vc]
  exact setLink_other (mt (linkKey_eq_iff hvc (by decide)).mp h) _

/-- The record of a flit without a way (R90). -/
def badRec (s : State) (r : Nat) (f : Flit) : FRec := s.regionRec (routerBlk r) 6 0 0 cECC false (hRoute f.hdr) 0 0

/-- The field whose fault unit gets it. -/
def badField (s : State) (r : Nat) (f : Flit) : Nat := s.originField (s.routeOwner r (hRoute f.hdr)) (routerBlk r / 8)

theorem badFlit_setLink (vc : Nat) : (s.setLink r dir vc l).badFlit r f =
    (s.setLink r dir vc l).noticeFrom r (badField s r f) (badRec s r f) := rfl

theorem forward_bad {vc : BitVec 2} : ∃ x, ((s.setLink r dir vc.toNat l).badFlit r f).link r dir vc.toNat =
      (if dir = .inject ∧ vc = 3 then l ++ [x.flit] else l) ∧
    (¬(dir = .inject ∧ vc = 3) → ((s.setLink r dir vc.toNat l).badFlit r f).link r .inject 3 = s.link r .inject 3 ++ [x.flit]) ∧
    hKind x.flit.hdr = 8 ∧ x.what.cause = cECC ∧ x.what.route = hRoute f.hdr ∧
    (((s.setLink r dir vc.toNat l).badFlit r f).field (badField s r f)).notices = (s.field (badField s r f)).notices ++ [x] := by
  have hvc : vc = 3 ↔ vc.toNat = 3 := BitVec.toNat_inj.symm
  refine ⟨{ flit := noticeFlit (badRec s r f), what := badRec s r f }, ?_, fun h => ?_, noticeFlit_kind _, rfl, rfl, ?_⟩
  · rw [badFlit_setLink]
    split
    next h =>
      obtain ⟨rfl, rfl⟩ := h
      rw [show (3 : BitVec 2).toNat = 3 from rfl, noticeFrom_link, setLink_same]
    next h => rw [noticeFrom_link_other _ _ vc.isLt (by rwa [← hvc]), setLink_same]
  · rw [badFlit_setLink, noticeFrom_link, setLink_other fun hk => h ?_]
    obtain ⟨hd, hv⟩ := (linkKey_eq_iff (by decide) vc.isLt).mp hk
    exact ⟨hd.symm, hvc.mpr hv.symm⟩
  · rw [badFlit_setLink]
    rw [State.noticeFrom, State.inject, setLink_field, State.modField_same, setLink_field]

section
variable (hfield : s.noticeField f = some i) (hstep : dimStep r (faultRouter i) = some d) (hn : neighbour r d = some (q, side))
include hfield hstep hn

/-- A notice moves on when the neighbour has room, and waits otherwise. -/
theorem noticeHop_eq : s.noticeHop r dir f l = if s.linkRoom q side 3 then (s.setLink r dir 3 l).hop r f (.go d) else s := by
  simp [State.noticeHop, hfield, hstep, hn]

end

/-! ## The outbound streamer (R241) -/

theorem exec_streamerSend {k : Nat} {x : TileCtx} {o : OutRoute} (hq : (s.tcore k).outq = f :: l) (hx : s.coreCtx k = some x)
    (ho : x.out (hRoute f.hdr) = some o) (hcmd : o.cmd = none) (hcut : s.tileCut (k / 4) = false)
    (hroom : s.linkRoom (s.tileRouter (k / 4)) .inject (hVc f.hdr) = true) :
    exec (.streamerSend k) s = .next ((s.inject (s.tileRouter (k / 4)) f).countSent k (hRoute f.hdr) l) := by
  change execStreamerSend k s = _
  simp only [execStreamerSend, hq, hx, ho, Option.bind_some, hcmd, coreTile, hcut, hroom]
  rfl

/-! ## Inboxes (R164, R243) -/

theorem dropInbox_taken (s : State) (tl i : Nat) : Taken s (s.dropInbox tl i) tl i := congrArg Tile.inbox (s.modTile_same tl _)

theorem splitToken_whole {w : Nat} (h : hLen f.hdr + 1 ≤ w) : splitToken w f = (f, none) := if_pos (.inl h)

/-- A port that no pcomp consumes keeps its tokens. -/
theorem drainPort_of_none {k port : Nat} (h : ∀ d ∈ (s.tcore k).drains, d.port ≠ port) : ∀ n, s.drainPort k port n = s
  | 0 => rfl
  | n + 1 => by
    have hnone : ((s.tcore k).drains.find? fun d => d.port == port) = none := List.find?_eq_none.mpr (by simpa using h)
    rw [State.drainPort, hnone]

/-- A token that fits enters its port whole. -/
theorem exec_portTokenArrival {k port : Nat} {c : InRoute} (h : Arrived s (k / 4) i c f (Consumer.isPort (k % 4) port))
    (hroom : (Tab.get [] (s.tcore k).ports port).length < 4) (hfit : hLen f.hdr + 1 ≤ c.dst.width)
    (hdrains : ∀ d ∈ (s.tcore k).drains, d.port ≠ port) : exec (.portTokenArrival k port) s =
      .next ((s.dropInbox (k / 4) i).modTcore k fun y => { y with ports := Tab.upd [] y.ports port fun q => q ++ [f] }) := by
  change execPortTokenArrival k port s = _
  rw [execPortTokenArrival, coreTile, show s.inboxFor (k / 4) _ = _ from h]
  dsimp only
  rw [if_neg (Nat.not_le.mpr hroom), splitToken_whole hfit]
  dsimp only
  rw [drainPort_of_none]
  rw [State.modTcore_same]
  exact hdrains

/-! ## Writes to tile SRAM (R166) -/

theorem staleWhere_tile (g : Nat → Bool) (n : Nat) :
    (s.staleWhere g).tile n = { s.tile n with mcache := (s.tile n).mcache.map (staleEntry s.dev.wlog g) } :=
  Tab.get_mapVals _ (fun _ => rfl) _ _

/-- A write to SRAM leaves the tiles but for what their micro-program caches hold. -/
structure TileKept (s t : State) (n : Nat) : Prop where
  inbox : (t.tile n).inbox = (s.tile n).inbox
  rings : (t.tile n).rings = (s.tile n).rings

theorem tileKept_watch (va pa len n : Nat) : TileKept s (s.watch false va pa len) n := by
  unfold State.watch State.watchWord
  simp only [Bool.false_and, Bool.false_eq_true, if_false]
  split
  · exact ⟨rfl, rfl⟩
  split
  · exact ⟨by rw [staleWhere_tile], by rw [staleWhere_tile]⟩
  · exact ⟨rfl, rfl⟩

theorem sameWord_watch (va a len pa : Nat) : SameWord s (s.watch false va a len) pa := by
  constructor
  · rw [State.landed, (writeKept_watch_plain va a len).syncq]
    rfl
  · rw [State.syncCyc, watch_plain_blk]
    rfl

theorem forgetMail_keeps {α : Type} (P : State → α) (hP : ∀ (t : State) m, P (t.modDev fun d => { d with mails := m }) = P t)
    (touch : Nat → Bool) : P (s.forgetMail touch) = P s := by
  unfold State.forgetMail
  split
  · rfl
  · exact hP s _

section
variable {off : Nat} {bs : List Byte} (hcalm : Calm s (sramAddr tl off) bs.length)
include hcalm

theorem sramWrite_eq : s.sramWrite tl off bs =
    (((s.watch false 0 (sramAddr tl off) bs.length).noteWrite none none (sramAddr tl off) bs.length).poke (sramAddr tl off)
      (s.shielded (sramAddr tl off) bs)).forgetMail
        fun a => decide (sramAddr tl off ≤ a) && decide (a < sramAddr tl off + bs.length) := by
  simp only [State.sramWrite, State.performWrite, State.writeAt, shielded_length, endSync_of_calm hcalm]

theorem sramWrite_mem : (s.sramWrite tl off bs).mem = Memory.write s.mem (sramAddr tl off) (s.shielded (sramAddr tl off) bs) := by
  rw [sramWrite_eq hcalm, State.forgetMail_mem, State.poke_mem, State.noteWrite_mem, watch_plain_mem]

theorem sramWrite_tileKept (n : Nat) : TileKept s (s.sramWrite tl off bs) n := by
  have hw := tileKept_watch (s := s) 0 (sramAddr tl off) bs.length n
  rw [sramWrite_eq hcalm]
  constructor
  · rw [forgetMail_keeps (fun t => (t.tile n).inbox) fun _ _ => rfl]
    exact hw.inbox
  · rw [forgetMail_keeps (fun t => (t.tile n).rings) fun _ _ => rfl]
    exact hw.rings

theorem sramWrite_sameWord (pa : Nat) : SameWord s (s.sramWrite tl off bs) pa := by
  have hw := (sameWord_watch (s := s) 0 (sramAddr tl off) bs.length pa).trans (sameWord_noteWrite none none (sramAddr tl off) bs.length)
  rw [sramWrite_eq hcalm]
  constructor
  · rw [forgetMail_keeps (State.landed · pa) fun _ _ => rfl]
    exact hw.landed
  · rw [forgetMail_keeps (State.syncCyc · pa) fun _ _ => rfl]
    exact hw.cyc

end

/-- One write event's bytes. -/
theorem wroteBytes_of_write {pa : Nat} {bs : List Byte} (hmem : t.mem = Memory.write s.mem pa (s.shielded pa bs)) :
    WroteBytes s t false 0 pa bs := by
  have hget := shielded_getElem? (s := s) pa bs
  refine ⟨fun k b hk hma => ?_, fun k hk hma _ => ?_, fun a ha _ => ?_⟩
  · rw [hmem]
    exact Memory.byte_write _ _ _ _ _ (by rw [hget, hk, hma]; rfl)
  · rw [hmem]
    exact Memory.byte_write _ _ _ _ _ (by rw [hget, List.getElem?_eq_getElem hk, hma]; rfl)
  · rw [hmem, Memory.byte_write_other _ _ _ _]
    rwa [shielded_length]

/-! ## Rings (R174, R176) -/

theorem recBytes_length (f : Flit) : (recBytes f).length = recSize (hLen f.hdr + 1) := by
  rw [recBytes, List.length_append, leBytes_length, leBytes_length, recSize]

/-- A record that fits before the ring's end is placed at its head. -/
theorem exec_ringPlace {ring : Nat} {c : InRoute} {x : Ring} (h : Arrived s tl i c f (Consumer.isRing ring))
    (hring : s.ring tl ring = some x) (hend : x.h + recSize (hLen f.hdr + 1) ≤ x.size)
    (hroom : x.u + recSize (hLen f.hdr + 1) ≤ x.size) (hkind : hKind f.hdr ≠ 7)
    (hturn : x.turn (s.blk (tl / 32)).cyc 4 = true) : exec (.ringPlace tl ring) s =
      .next (((s.dropInbox tl i).sramWrite tl (x.off + x.h) (recBytes f)).setRing tl ring { x with
        h := (x.h + recSize (hLen f.hdr + 1)) % x.size, u := x.u + recSize (hLen f.hdr + 1)
        cyc := (s.blk (tl / 32)).cyc, ord := 4 }) := by
  have hmarker : f.isMarker = false := by simpa [Flit.isMarker] using hkind
  have hfits : x.fits (recSize (hLen f.hdr + 1)) = true := by
    rw [Ring.fits, Ring.need, if_pos hend]
    exact decide_eq_true (by omega)
  change execRingPlace tl ring s = _
  rw [execRingPlace, show s.inboxFor tl _ = _ from h, hring]
  dsimp only
  rw [hmarker, hfits, hturn]
  exact congrArg Host.Outcome.next (if_pos hend)

theorem ringPlaced {ring off : Nat} {bs : List Byte} (x : Ring) (hcalm : Calm s (sramAddr tl off) bs.length) :
    Taken s (((s.dropInbox tl i).sramWrite tl off bs).setRing tl ring x) tl i ∧
    WroteBytes s (((s.dropInbox tl i).sramWrite tl off bs).setRing tl ring x) false 0 (sramAddr tl off) bs ∧
    Tab.get {} ((((s.dropInbox tl i).sramWrite tl off bs).setRing tl ring x).tile tl).rings ring = x := by
  have hkept := sramWrite_tileKept (s := s.dropInbox tl i) hcalm tl
  refine ⟨?_, wroteBytes_of_write (sramWrite_mem (s := s.dropInbox tl i) hcalm), ?_⟩
  · rw [Taken, State.setRing, State.modTile_same]
    exact hkept.inbox.trans (dropInbox_taken s tl i)
  · rw [State.setRing, State.modTile_same]
    exact Tab.get_set_same _ _ _

/-! ## Placing areas (R326) -/

theorem syncPut_tile {pa : Nat} (h : Settled s pa) (g : Landed → Landed) (n : Nat) : (s.syncPut pa g).tile n = s.tile n := by
  obtain hroll | ⟨-, hroll⟩ := rollSync_of_settled h <;> rw [State.syncPut, hroll] <;> rfl

/-- A token with a place is written there, and its bytes and its arrival land at the area's sync word. -/
theorem exec_placingAreaWrite {b : Nat} {c : InRoute} (h : Arrived s tl i c f Consumer.isPlace) (hdst : c.dst = .place b)
    (hkind : hKind f.hdr ≠ 7) (hseq : hSeq f.hdr ≠ 0) (hend : b + 32 * hSeq f.hdr ≤ 0x80000) : exec (.placingAreaWrite tl) s =
      .next (((s.dropInbox tl i).sramWrite tl (b + 32 * (hSeq f.hdr - 1)) (leBytes (4 * (hLen f.hdr + 1)) f.pay.toNat)).syncLand
        (sramAddr tl (b - 16)) (4 * (hLen f.hdr + 1)) (if hStop f.hdr = 0 then 0 else 1)) := by
  have hmarker : f.isMarker = false := by simpa [Flit.isMarker] using hkind
  change execPlacingAreaWrite tl s = _
  rw [execPlacingAreaWrite, show s.inboxFor tl _ = _ from h]
  dsimp only
  rw [hdst]
  dsimp only
  rw [State.placeToken, hmarker, if_neg Bool.false_ne_true, if_pos ⟨hseq, hend⟩]

theorem placed {off pa n arrs : Nat} {bs : List Byte} (hcalm : Calm s (sramAddr tl off) bs.length) (hs : Settled s pa) :
    Taken s (((s.dropInbox tl i).sramWrite tl off bs).syncLand pa n arrs) tl i ∧
    WroteBytes s (((s.dropInbox tl i).sramWrite tl off bs).syncLand pa n arrs) false 0 (sramAddr tl off) bs ∧
    ((((s.dropInbox tl i).sramWrite tl off bs).syncLand pa n arrs).landed pa).bytes = (s.landed pa).bytes + n ∧
    ((((s.dropInbox tl i).sramWrite tl off bs).syncLand pa n arrs).landed pa).arrs = (s.landed pa).arrs + arrs := by
  have hkept := sramWrite_tileKept (s := s.dropInbox tl i) hcalm tl
  have hmem := sramWrite_mem (s := s.dropInbox tl i) hcalm
  have hword := sramWrite_sameWord (s := s.dropInbox tl i) hcalm pa
  have hsettled := hword.settled hs
  obtain ⟨hlands, hmem', -, -⟩ := syncPut_lands hsettled fun l =>
    { l with bytes := l.bytes + n, arrs := l.arrs + arrs, who := l.who ++ [], by_ := mixBy l.by_ (agentOf []) }
  have hlanded := hword.lands hlands
  refine ⟨?_, wroteBytes_of_write (hmem'.trans hmem), congrArg Landed.bytes hlanded, congrArg Landed.arrs hlanded⟩
  rw [Taken, State.syncLand, syncPut_tile hsettled]
  exact hkept.inbox.trans (dropInbox_taken s tl i)

/-! ## The end of a via transfer (R264) -/

theorem viaStep_inbox (x : Tile) (route n : Nat) (stop : Bool) : (x.viaStep route n stop).inbox = x.inbox := by
  unfold Tile.viaStep
  split <;> rfl

section
variable {id off n at_ : Nat} {c : InRoute} {x : Xfer} {cm : Cmd} {bs : List Byte}

/-- A token of a transfer without a sync word is written, and counted. -/
theorem exec_inboundStreamerWrite (h : Arrived s tl i c f Consumer.isSram)
    (hvia : (s.tile tl).viaFor (hRoute f.hdr) = some (id, hRoute f.hdr, off, n)) (hx : s.xfer id = some x) (hcmd : cmdOf x.w x.pb = some cm)
    (hsync : cm.csync = none) (hxst : x.xst = 0) (hplace : viaPlace off n f = some (at_, bs)) (hkind : hKind f.hdr ≠ 7) :
    exec (.inboundStreamerWrite tl) s = .next (((s.sramWrite tl at_ bs).dropInbox tl i).modTile tl fun y =>
      y.viaStep (hRoute f.hdr) (hLen f.hdr + 1) (decide (hStop f.hdr ≠ 0) && s.viaTaken x cm)) := by
  have hmarker : f.isMarker = false := by simpa [Flit.isMarker] using hkind
  change execInboundStreamerWrite tl s = _
  rw [execInboundStreamerWrite, show s.inboxFor tl _ = _ from h]
  dsimp only
  rw [hmarker, if_neg Bool.false_ne_true, hvia]
  dsimp only
  rw [hx]
  dsimp only
  rw [Xfer.cmd, hcmd]
  dsimp only
  rw [State.viaWrite, if_neg (not_not.mpr hxst), hplace]
  dsimp only
  rw [State.withSync, hsync]
  rfl

end

theorem viaPlaced {at_ : Nat} {bs : List Byte} (hcalm : Calm s (sramAddr tl at_) bs.length) (route n : Nat) (stop : Bool) :
    Taken s (((s.sramWrite tl at_ bs).dropInbox tl i).modTile tl fun y => y.viaStep route n stop) tl i ∧
    WroteBytes s (((s.sramWrite tl at_ bs).dropInbox tl i).modTile tl fun y => y.viaStep route n stop) false 0 (sramAddr tl at_) bs := by
  refine ⟨?_, wroteBytes_of_write (sramWrite_mem hcalm)⟩
  rw [Taken, State.modTile_same, viaStep_inbox, dropInbox_taken, (sramWrite_tileKept hcalm tl).inbox]

/-- Settles O44: an event each. -/
theorem meshEvents : Obligations.MeshEvents := by
  refine ⟨fun s r q dir d side vc f l hlink halive hkind hhops hn hroom => ?_,
    fun s r dir vc f l hlink halive hkind hhops => ?_,
    fun s r q i dir d side f l hlink halive hkind hvc hfield hstep hn => ⟨fun hroom => ?_, fun hroom => ?_⟩,
    fun s k f l x o hq hx ho hcmd hcut hroom => ?_,
    fun s k port i c f h hroom hfit hdrains => ?_,
    fun s tl ring i c f x h hring hend hroom hkind hturn hcalm => ?_,
    fun s tl i b c f h hdst hkind hseq hend hcalm hs => ?_,
    fun s tl i id off n at_ c f x cm bs h hvia hx hcmd hsync hxst hplace hkind hcalm => ?_⟩
  · exact ⟨_, exec_flitForward_go hlink halive hkind hhops hn hroom, rfl, moved_links hn vc.isLt (hVc_lt _) _⟩
  · obtain ⟨x, hx⟩ := forward_bad (s := s) (r := r) (dir := dir) (f := f) (l := l) (vc := vc)
    exact ⟨_, x, exec_flitForward_bad hlink halive hkind hhops, rfl, hx⟩
  · have hmoved := hop_go (s := s) (dir := dir) (l := l) (f := f) (vc := 3) hn (by decide)
    rw [hvc] at hmoved
    obtain ⟨hhead, htail⟩ := moved_links (s := s) (dir := dir) (l := l) (vc := 3) (vc' := 3) hn (by decide) (by decide) [f]
    refine ⟨_, exec_flitForward_notice hlink halive hkind, ?_⟩
    rw [noticeHop_eq hfield hstep hn, if_pos hroom, hmoved]
    exact ⟨rfl, hhead, htail, rfl⟩
  · rw [exec_flitForward_notice (vc := 3) hlink halive hkind, noticeHop_eq hfield hstep hn, if_neg (by simp [hroom])]
  · refine ⟨_, exec_streamerSend hq hx ho hcmd hcut hroom, rfl, ?_, ?_⟩
    · rw [State.countSent, State.modTcore_same]
    · exact setLink_same ..
  · refine ⟨_, exec_portTokenArrival h hroom hfit hdrains, rfl, dropInbox_taken s (k / 4) i, ?_⟩
    rw [State.modTcore_same]
    exact Tab.get_set_same _ _ _
  · exact ⟨_, exec_ringPlace h hring hend hroom hkind hturn, ringPlaced _ (by rw [recBytes_length]; exact hcalm)⟩
  · exact ⟨_, exec_placingAreaWrite h hdst hkind hseq hend, placed (by rw [leBytes_length]; exact hcalm) hs⟩
  · exact ⟨_, exec_inboundStreamerWrite h hvia hx hcmd hsync hxst hplace hkind, viaPlaced hcalm _ _ _⟩

end Sys2Proof.Claims
end

section
/-!
PROOFS. No instruction stops the machine (R85, R192, R304): every shared operation goes on where what it hands over to goes on, so every
form and every step does. A proof below has the shape of the definition that it is about.
-/
namespace Sys2Proof.Claims
open Sys2Proof.Machine

variable {s : State} {g : Nat} {o x y : Out}

/-- An outcome is a next state. -/
def Goes (o : Out) : Prop := ∃ t, o = .next t

theorem goes_next {t : State} : Goes (.next t) := ⟨t, rfl⟩

theorem goes_ite {c : Prop} [Decidable c] (hx : Goes x) (hy : Goes y) : Goes (if c then x else y) := by
  split
  · exact hx
  · exact hy

/-- What is read from a home of this device, or asked for of another. -/
theorem goes_home {home : Home} {far : Nat → Out} (hfar : ∀ dev, Goes (far dev)) (hy : Goes y) : Goes (match home with
    | .remote dev => far dev
    | .dram | .aperture | .regs | .host => y) := by
  cases home
  case remote dev => exact hfar dev
  all_goals exact hy

theorem goes_unit {u : UnitRef} {f k : Nat → Out} (hf : ∀ g, Goes (f g)) (hk : ∀ c, Goes (k c)) : Goes (match u with
    | .thread g => f g
    | .core c => k c) := by
  cases u with
  | thread g => exact hf g
  | core c => exact hk c

/-! ## Waiting and exceptions (R282, R304) -/

theorem goes_wait : Goes s.wait := goes_next

theorem goes_waitWalk {va : Nat} {kind : Access} : Goes (s.waitWalk g va kind) := goes_wait

theorem goes_raise {cause : BitVec 8} {ev : Word} {b : Bool} : Goes (s.raise cause ev b) :=
  goes_unit (fun _ => goes_next) fun _ => goes_next

theorem goes_und : Goes s.und := goes_raise

theorem goes_priv : Goes s.priv := goes_raise

theorem goes_pageNp {va : Word} : Goes (s.pageNp va) :=
  goes_unit (fun _ => goes_ite goes_next goes_next) fun _ => goes_next

theorem goes_xlFault {cause : BitVec 8} {va : Word} : Goes (s.xlFault cause va) := goes_ite goes_pageNp goes_raise

theorem goes_reportLink (h : Goes o) : Goes (s.reportLink g o) := by
  unfold State.reportLink
  split
  · exact h
  · exact goes_raise

/-! ## Who may issue a form (R21, R40, R116) -/

theorem goes_swarm {k : Nat → Out} (h : ∀ g, Goes (k g)) : Goes (s.swarm k) := goes_unit h fun _ => goes_und

theorem goes_tileMode {k : Nat → Out} (h : ∀ c, Goes (k c)) : Goes (s.tileMode k) := goes_unit (fun _ => goes_und) h

theorem goes_super {k : Nat → Out} (h : ∀ g, Goes (k g)) : Goes (s.super k) :=
  goes_unit (fun g => goes_ite (h g) goes_priv) fun _ => goes_und

theorem goes_onlySv (h : Goes o) : Goes (s.onlySv g o) := goes_ite h goes_priv

theorem goes_plainly {k : State → Out} (h : ∀ t, Goes (k t)) : Goes (s.plainly k) :=
  goes_unit (fun _ => goes_ite (goes_ite (h _) goes_wait) (h s)) fun _ => h s

/-! ## Accesses (R111, R112) -/

theorem goes_access {ea : Word} {n align : Nat} {rd wr : Bool} {form : NeedForm} {locks : Bool} {k : Phys → Out}
    (h : ∀ p, Goes (k p)) : Goes (s.access g ea n align rd wr form locks k) := by
  unfold State.access
  split
  · refine goes_ite goes_wait ?_
    split
    · exact goes_wait
    · exact h _
  · exact goes_waitWalk
  · exact goes_xlFault

theorem goes_lanes {eas : List Word} {rd wr : Bool} {k : List Phys → Out} (h : ∀ ps, Goes (k ps)) : Goes (s.lanes g eas rd wr k) := by
  unfold State.lanes
  split
  · refine goes_ite goes_wait ?_
    split
    · exact goes_wait
    · exact h _
  · exact goes_xlFault
  · exact goes_waitWalk

theorem goes_accessRange {ea : Word} {n align : Nat} {wr locks : Bool} {k : List (Nat × Nat × Phys) → Out} (h : ∀ ps, Goes (k ps)) :
    Goes (s.accessRange g ea n align wr locks k) := by
  refine goes_ite goes_pageNp (goes_ite goes_raise ?_)
  split
  · exact goes_ite goes_wait (h _)
  · exact goes_xlFault
  · exact goes_waitWalk

theorem goes_unspec {p : Phys} {k : State → Out} (h : ∀ t, Goes (k t)) : Goes (s.unspec p k) := goes_ite (goes_plainly h) (h s)

theorem goes_unspecAll {ps : List Phys} {k : State → Out} (h : ∀ t, Goes (k t)) : Goes (s.unspecAll ps k) :=
  goes_ite (goes_plainly h) (h s)

/-! ## Loads and stores (R114, R117 to R119, R126, R127) -/

theorem goes_loadN {p : Phys} {n : Nat} {k : State → Nat → Out} {far : Nat → Out} (h : ∀ t x, Goes (k t x))
    (hfar : ∀ dev, Goes (far dev)) : Goes (s.loadN g p n k far) := by
  unfold State.loadN
  split
  · exact h _ _
  split
  · exact goes_wait
  · exact h _ _
  · exact goes_home hfar (h _ _)

theorem goes_loadS {d : SReg} {ea : Word} {n : Nat} {sgn : Bool} : Goes (s.loadS d ea n sgn) :=
  goes_swarm fun _ => goes_access fun _ => goes_unspec fun _ => goes_loadN (fun _ _ => goes_next) fun _ => goes_next

theorem goes_buffer {es : List SbEntry} : Goes (s.buffer g es) := goes_ite goes_wait goes_next

theorem goes_stores {es : List SbEntry} : Goes (s.stores g es) := by
  unfold State.stores
  split
  · exact goes_ite (goes_plainly fun _ => goes_buffer) goes_next
  · exact goes_buffer

theorem goes_storeN {ea : Word} {n v : Nat} : Goes (s.storeN ea n v) :=
  goes_swarm fun _ => goes_access fun _ => goes_unspec fun _ => goes_stores

theorem goes_gather {v : VReg} {ps : List (Word × Phys)} {miss : Bool} : Goes (s.gather g v ps miss) := by
  unfold State.gather
  split
  · exact goes_next
  split
  · exact goes_wait
  · exact goes_ite goes_next goes_next

theorem goes_vgather {v o : VReg} {a : SReg} {sh : BitVec 2} {miss : Bool} : Goes (s.vgather v a o sh miss) :=
  goes_swarm fun _ => goes_lanes fun _ => goes_unspecAll fun _ => goes_gather

theorem goes_amo {d a b : SReg} {w32 uns : Bool} {code : Nat} {f : Nat → Nat → Option Nat} : Goes (s.amo d a b w32 uns code f) :=
  goes_swarm fun _ => goes_plainly fun _ => goes_access fun _ => goes_ite goes_wait (goes_home (fun _ => goes_next) goes_next)

theorem goes_amoCas {d a b : SReg} {w32 : Bool} : Goes (execAmoCas d a b w32 s) := by
  unfold execAmoCas
  exact goes_amo

theorem goes_red {a b : SReg} {w32 uns : Bool} {op : RedOp} : Goes (s.red a b w32 uns op) :=
  goes_swarm fun _ => goes_plainly fun _ => goes_access fun _ => goes_buffer

theorem goes_ldAcq {d a : SReg} {imm : Imm} : Goes (execLdAcq d a imm s) :=
  goes_swarm fun _ => goes_plainly fun _ => goes_access fun _ => goes_loadN (fun _ _ => goes_next) fun _ => goes_next

theorem goes_stRel {d a : SReg} {imm : Imm} : Goes (execStRel d a imm s) :=
  goes_swarm fun _ => goes_plainly fun _ => goes_reportLink <| goes_access fun _ => goes_ite goes_buffer goes_wait

theorem goes_acqL {d a : SReg} {imm : Imm} : Goes (execAcqL d a imm s) :=
  goes_swarm fun _ => goes_plainly fun _ => goes_access fun _ => goes_ite goes_wait goes_next

theorem goes_relL {d a : SReg} {imm : Imm} : Goes (execRelL d a imm s) :=
  goes_swarm fun _ => goes_plainly fun _ => goes_access fun _ => by
    split
    · exact goes_raise
    · exact goes_ite goes_wait (goes_ite goes_next (goes_home (fun _ => goes_next) goes_next))

theorem goes_waitR {d : SReg} : Goes (execWaitR d s) :=
  goes_swarm fun _ => goes_plainly fun _ => by
    split
    · exact goes_next
    · exact goes_ite goes_next goes_next

theorem goes_fence {sc : Scope} : Goes (execFence sc s) :=
  goes_swarm fun _ => goes_plainly fun t => by
    cases sc
    case thread => exact goes_next
    case system => exact goes_reportLink (goes_ite goes_next goes_wait)
    all_goals exact goes_ite goes_next goes_wait

theorem goes_vld {v : VReg} {a : SReg} {imm : Imm} : Goes (execVld v a imm s) :=
  goes_swarm fun _ => goes_access fun _ => goes_unspec fun _ => goes_loadN (fun _ _ => goes_next) fun _ => goes_next

theorem goes_vscatter {v o : VReg} {a : SReg} {sh : BitVec 2} : Goes (execVscatter v a o sh s) :=
  goes_swarm fun _ => goes_lanes fun _ => goes_unspecAll fun _ => goes_stores

theorem goes_pf {a : SReg} {imm : Imm} : Goes (execPf a imm s) :=
  goes_swarm fun _ => by
    split
    · exact goes_unspec fun _ => goes_next
    · exact goes_next
    · exact goes_next

/-! ## Threads and their ends (R205 to R215) -/

theorem goes_spawn {d a : SReg} {q : Quad} : Goes (execSpawn d a q s) :=
  goes_swarm fun _ => goes_ite goes_und (goes_plainly fun _ => goes_next)

theorem goes_spawnT {d a : SReg} {q : Quad} : Goes (execSpawnT d a q s) :=
  goes_swarm fun _ => goes_ite goes_und (goes_ite goes_raise goes_next)

theorem goes_callat {d a : SReg} {q : Quad} : Goes (execCallat d a q s) :=
  goes_swarm fun _ => goes_ite goes_und <| goes_plainly fun _ => by
    split
    · exact goes_waitWalk
    · exact goes_raise
    · exact goes_next

theorem goes_invoke {n : Nat} {d a : SReg} {q : Quad} : Goes (s.invoke n d a q) :=
  goes_swarm fun _ => goes_ite goes_und <| goes_plainly fun _ => goes_ite goes_wait goes_next

theorem goes_finish {reply : Bool} {d a b : SReg} : Goes (s.finish reply d a b) :=
  goes_swarm fun _ => goes_ite goes_wait <| by
    dsimp only
    split
    · exact goes_next
    · exact goes_ite goes_priv (goes_ite goes_next (goes_reportLink (goes_ite goes_wait goes_next)))

theorem goes_recv {d a : SReg} {imm : Imm} : Goes (execRecv d a imm s) :=
  goes_swarm fun _ => goes_plainly fun _ => goes_access fun _ =>
    goes_ite goes_wait (goes_home (fun _ => goes_next) (goes_ite goes_next goes_next))

theorem goes_abq {d : SReg} : Goes (execAbq d s) := goes_swarm fun _ => by
  split
  · exact goes_next
  · exact goes_next

/-! ## System forms (R216 to R227) -/

theorem goes_csrr {d : SReg} {n : BitVec 12} : Goes (execCsrr d n s) :=
  goes_ite goes_und (goes_unit (fun _ => goes_ite goes_priv goes_next) fun _ => goes_next)

theorem goes_csrw {n : BitVec 12} {a : SReg} : Goes (execCsrw n a s) :=
  goes_ite goes_und (goes_unit (fun _ => goes_ite goes_priv (goes_plainly fun _ => goes_next)) fun _ => goes_next)

theorem goes_preempt {d a : SReg} {want : PState} {tile : Bool} {act : State → SlotName → Nat → State} :
    Goes (s.preempt d a want tile act) :=
  goes_swarm fun _ => goes_ite goes_und <| goes_onlySv <| goes_ite goes_next (goes_ite goes_next goes_next)

theorem goes_farImage {d : SReg} {slot dev : Nat} {save : Bool} {l : List Byte} {ps : List (Nat × Nat × Phys)} :
    Goes (s.farImage g d slot dev save l ps) := by
  unfold State.farImage
  dsimp only
  split
  · exact goes_next
  · exact goes_next

theorem goes_ctxSave {d a : SReg} {imm : Imm} : Goes (execCtxSave d a imm s) :=
  goes_swarm fun _ => goes_ite goes_und <| goes_onlySv <| goes_plainly fun _ => goes_accessRange fun _ =>
    goes_ite goes_next <| goes_ite goes_wait <| by
      split
      · exact goes_farImage
      · exact goes_next

theorem goes_ctxLoad {d a : SReg} {imm : Imm} : Goes (execCtxLoad d a imm s) :=
  goes_swarm fun _ => goes_ite goes_und <| goes_onlySv <| goes_plainly fun _ => goes_accessRange fun _ =>
    goes_ite goes_wait <| by
      split
      · exact goes_farImage
      · exact goes_next

/-! ## Engine forms (R193, R199 to R204) -/

theorem goes_xferNow {d : SReg} {port : Nat} {w pb : List Word} : Goes (s.xferNow g d port w pb) := by
  unfold State.xferNow
  split
  · exact goes_und
  · exact goes_ite goes_und <| goes_ite goes_wait <| goes_ite goes_next <| goes_ite goes_wait <| goes_ite goes_next goes_next

theorem goes_gatherParts {k : List Byte → Out} (h : ∀ l, Goes (k l)) : ∀ (ps : List (Nat × Nat × Phys)) (acc : List Byte),
    Goes (s.gatherParts g ps acc k)
  | [], acc => h acc
  | (_, _, _) :: l, _ =>
    goes_home (fun _ => by
      split
      · exact goes_gatherParts h l _
      split
      · exact goes_wait
      · exact goes_raise) (goes_gatherParts h l _)

theorem goes_readBlock {va n : Nat} {k : List Byte → Out} (h : ∀ l, Goes (k l)) : Goes (s.readBlock g va n k) := by
  unfold State.readBlock
  split
  · exact goes_ite goes_wait (goes_gatherParts h _ _)
  · exact goes_xlFault
  · exact goes_waitWalk

theorem goes_xfer {d : SReg} {q : Quad} {port : BitVec 2} : Goes (execXfer d q port s) :=
  goes_swarm fun _ => goes_plainly fun _ => goes_ite goes_und <|
    goes_ite (goes_ite goes_pageNp (goes_readBlock fun _ => goes_xferNow)) goes_xferNow

theorem goes_syncSet {a b : SReg} : Goes (execSyncSet a b s) :=
  goes_ite goes_und <| goes_unit
    (fun _ => goes_plainly fun _ => goes_access fun _ => goes_ite goes_wait (goes_home (fun _ => goes_next) goes_next))
    fun _ => goes_ite goes_und (goes_ite goes_wait goes_next)

theorem goes_syncArrive {d a b : SReg} : Goes (execSyncArrive d a b s) :=
  goes_ite goes_und <| goes_unit
    (fun _ => goes_plainly fun _ => goes_access fun _ => goes_ite goes_wait (goes_home (fun _ => goes_next) goes_next))
    fun _ => goes_ite goes_und (goes_ite goes_wait goes_next)

theorem goes_syncWait {d a b : SReg} : Goes (execSyncWait d a b s) :=
  goes_ite goes_und <| goes_unit
    (fun _ => goes_plainly fun _ => goes_access fun _ =>
      goes_ite goes_wait (goes_home (fun _ => goes_next) (goes_ite goes_next goes_next)))
    fun _ => goes_ite goes_und (goes_ite goes_wait (goes_ite goes_next goes_next))

theorem goes_pcompThread {d : SReg} {t : Nat} {w : List Word} : Goes (s.pcompThread g d t w) :=
  goes_access fun _ => by
    dsimp only
    split
    · exact goes_next
    · exact goes_ite goes_next (goes_ite goes_wait goes_next)

theorem goes_pcompCore {k : Nat} {d : SReg} {t : Nat} {w : List Word} : Goes (s.pcompCore k d t w) := by
  unfold State.pcompCore
  split
  · exact goes_und
  · exact goes_ite goes_und (goes_ite goes_wait goes_next)

theorem goes_pcomp {d : SReg} {q : Quad} {tile : BitVec 5} : Goes (execPcomp d q tile s) :=
  goes_ite goes_und <| goes_unit (fun _ => goes_ite goes_und (goes_plainly fun _ => goes_pcompThread)) fun _ =>
    goes_ite goes_und goes_pcompCore

/-! ## Streams, rings and escapes (R160 to R179) -/

theorem goes_withPort {k port : Nat} {f : State → Flit → Out} (h : ∀ t x, Goes (f t x)) : Goes (s.withPort k port f) := by
  unfold State.withPort
  split
  · exact goes_und
  · refine goes_ite goes_und (goes_ite goes_wait ?_)
    split
    · exact h _ _
    · exact goes_wait

theorem goes_waitRoom {k key : Nat} : Goes (s.waitRoom k key) := goes_wait

theorem goes_send {k : Nat} {ok : OutRoute → Bool} {f : Flit} : Goes (s.send k ok f) := by
  unfold State.send
  split
  · exact goes_und
  · exact goes_ite goes_und (goes_ite goes_waitRoom goes_next)

theorem goes_rqpush {ring : BitVec 4} {v : VReg} {b : SReg} : Goes (execRqpush ring v b s) :=
  goes_tileMode fun _ => by
    dsimp only
    split
    · exact goes_und
    · exact goes_ite goes_und (goes_ite goes_waitRoom (goes_ite goes_wait goes_next))

theorem goes_rqpop {v : VReg} {ring : BitVec 4} {b : SReg} : Goes (execRqpop v ring b s) :=
  goes_tileMode fun _ => by
    dsimp only
    split
    · exact goes_und
    split
    · exact goes_wait
    · exact goes_ite goes_wait goes_next

theorem goes_escape {d : SReg} {v : VReg} {node : Nat} {ordered : Bool} : Goes (s.escape d v node ordered) :=
  goes_tileMode fun _ => by
    split
    · exact goes_und
    split
    · exact goes_und
    · exact goes_ite goes_waitRoom (goes_ite goes_und goes_next)

/-! ## Matrix forms (R180 to R192) -/

theorem goes_queueMat {k : Nat} {kind : MKind} : Goes (s.queueMat k kind) := goes_ite goes_wait goes_next

theorem goes_gangIssue {a b : Family} : Goes (s.gangIssue a b) := goes_tileMode fun _ => goes_ite goes_queueMat goes_und

theorem goes_sparseIssue {a b : SReg} {now : Bool} : Goes (s.sparseIssue a b now) :=
  goes_tileMode fun _ => by
    split
    · exact goes_und
    · exact goes_ite goes_und (goes_ite goes_wait goes_queueMat)

theorem goes_mdrain {a : SReg} {v : VReg} : Goes (execMdrain a v s) :=
  goes_tileMode fun _ => by
    dsimp only
    split
    · exact goes_und
    · exact goes_ite goes_und goes_queueMat

theorem goes_mdset {imm : Imm} : Goes (execMdset imm s) := goes_tileMode fun _ => by
  split
  · exact goes_und
  · exact goes_next

/-! ## Every instruction -/

/-- A form answers a next state: it goes on at once, or through a shared operation. -/
theorem exec_form_goes (i : Instr) (s : State) (h : isEvent i = false) : Goes (exec i s) := by
  cases i <;> cases h
  case ldb | ldbu | ldh | ldhu | ldw | ldwu | ldd => exact goes_loadS
  case stb | sth | stw | std | vst => exact goes_storeN
  case amoAdd d a b w => exact (goes_amo : Goes (execAmoAdd d a b w s))
  case amoSwap d a b w => exact (goes_amo : Goes (execAmoSwap d a b w s))
  case amoCas d a b w => exact goes_amoCas
  case amoMin d a b w uns => exact (goes_amo : Goes (execAmoMin d a b w uns s))
  case amoMax d a b w uns => exact (goes_amo : Goes (execAmoMax d a b w uns s))
  case amoAnd d a b w => exact (goes_amo : Goes (execAmoAnd d a b w s))
  case amoOr d a b w => exact (goes_amo : Goes (execAmoOr d a b w s))
  case amoXor d a b w => exact (goes_amo : Goes (execAmoXor d a b w s))
  case redAdd | redMin | redMax | redAnd | redOr | redXor | redFaddW => exact goes_red
  case ldAcq => exact goes_ldAcq
  case stRel => exact goes_stRel
  case acqL => exact goes_acqL
  case relL => exact goes_relL
  case waitR => exact goes_waitR
  case fence => exact goes_fence
  case vld => exact goes_vld
  case vgather => exact goes_vgather
  case vscatter => exact goes_vscatter
  case pf => exact goes_pf
  case spawn => exact goes_spawn
  case spawnT => exact goes_spawnT
  case callat => exact goes_callat
  case invoke | invokeW | invokeT => exact goes_invoke
  case quit | reply => exact goes_finish
  case recv => exact goes_recv
  case abq => exact goes_abq
  case trap => exact goes_swarm fun _ => goes_plainly fun _ => goes_priv
  case eret | halt => exact goes_super fun _ => goes_next
  case uret => exact goes_swarm fun _ => goes_ite goes_next goes_und
  case undBundle => exact goes_raise
  case csrr => exact goes_csrr
  case csrw => exact goes_csrw
  case wfi | wfit => exact goes_swarm fun _ => goes_plainly fun _ => goes_next
  case tlbi => exact goes_super fun _ => goes_ite goes_wait goes_next
  case icinv => exact goes_swarm fun _ => goes_plainly fun _ => goes_ite goes_wait goes_next
  case preemptHalt d a => exact (goes_preempt : Goes (execPreemptHalt d a s))
  case preemptTrap d a => exact (goes_preempt : Goes (execPreemptTrap d a s))
  case preemptResume d a => exact (goes_preempt : Goes (execPreemptResume d a s))
  case ctxSave => exact goes_ctxSave
  case ctxLoad => exact goes_ctxLoad
  case xfer => exact goes_xfer
  case syncSet => exact goes_syncSet
  case syncArrive => exact goes_syncArrive
  case syncWait => exact goes_syncWait
  case fetcht d job ext => exact (goes_plainly fun _ => goes_next : Goes (execFetcht d job ext s))
  case fetchtQ d job ext => exact (goes_plainly fun _ => goes_next : Goes (execFetchtQ d job ext s))
  case fetchtLd => exact goes_ite goes_und (goes_plainly fun _ => goes_next)
  case pcomp => exact goes_pcomp
  case srecv | speek | spred => exact goes_tileMode fun _ => goes_withPort fun _ _ => goes_next
  case ssend => exact goes_tileMode fun _ => goes_ite goes_und goes_send
  case sstop => exact goes_tileMode fun _ => goes_send
  case ssteer | ctxsw => exact goes_tileMode fun _ => goes_ite goes_und goes_next
  case smerge | ssplit | mdadv | mdadvR => exact goes_tileMode fun _ => goes_next
  case rqpush => exact goes_rqpush
  case rqpop => exact goes_rqpop
  case esc | escO => exact goes_escape
  case mgPp | mgPe | mgEp | mgEe | mgGp | mgGe => exact goes_gangIssue
  case mzero => exact goes_tileMode fun _ => goes_queueMat
  case mdrain => exact goes_mdrain
  case acpy => exact goes_tileMode fun _ => goes_ite goes_und goes_queueMat
  case mspx | mspxN => exact goes_sparseIssue
  case mdset => exact goes_mdset
  case beq | bne | blt | bge | bltu | bgeu | jal | bany | bnone | rlq => exact goes_swarm fun _ => goes_next
  case jalr => exact goes_swarm fun _ => goes_ite goes_raise goes_next
  case bext | bextu | bins | lea => exact goes_ite goes_und goes_next
  case vredSum | vgmask => exact goes_ite goes_next goes_next
  case vmovs => exact goes_ite goes_next (goes_ite goes_next goes_next)
  all_goals exact goes_next

theorem exec_goes (i : Instr) (s : State) : Goes (exec i s) := by
  cases h : isEvent i with
  | true => exact exec_event_next i s h
  | false => exact exec_form_goes i s h

/-! ## Data that are struck (R2, R37, R134) -/

theorem goes_after {f : State → State} (h : Goes o) : Goes (Out.after o f) := by
  obtain ⟨t, rfl⟩ := h
  exact goes_next

theorem goes_struckLoad {k : Nat} {ea : Word} (h : Goes o) : Goes (s.struckLoad k ea o) := by
  obtain ⟨t, rfl⟩ := h
  exact goes_next

theorem goes_struckAmo {k : Nat} {d a : SReg} {i : Instr} : Goes (s.struckAmo k d a i) :=
  goes_plainly fun u => by
    obtain ⟨t, ht⟩ := exec_goes i u
    simp only [ht]
    exact goes_ite goes_next goes_next

theorem goes_struckForm {ea : Word} (h : Goes o) : Goes (s.struckForm ea o) := by
  obtain ⟨t, rfl⟩ := h
  exact goes_ite goes_raise goes_next

theorem goes_struckMeta {b k : Nat} (h : Goes o) : Goes (s.struckMeta b k o) := by
  obtain ⟨t, rfl⟩ := h
  exact goes_ite goes_next goes_next

theorem goes_struckSlot {k : Nat} {i : Instr} : Goes (s.struckSlot k i) := by
  have h := exec_goes i s
  cases i
  case ldb | ldbu | ldh | ldhu | ldw | ldwu | ldd | vld | acqL | ldAcq | vgather => exact goes_struckLoad h
  case amoAdd | amoSwap | amoCas | amoMin | amoMax | amoAnd | amoOr | amoXor => exact goes_struckAmo
  case ctxLoad | recv | syncWait | syncArrive | srecv | speek | spred | rqpop => exact goes_struckForm h
  case xfer => exact goes_ite (goes_struckForm h) h
  case pcomp => exact goes_struckMeta h
  all_goals exact h

theorem goes_missSlot {i : Instr} : Goes (s.missSlot i) := by
  obtain ⟨t, ht⟩ := exec_goes i s
  unfold State.missSlot
  split
  · exact goes_vgather
  · rw [ht]
    split
    · exact goes_next
    · exact goes_next

theorem goes_lostSlot {port : BitVec 4} {i : Instr} : Goes (s.lostSlot port i) := by
  obtain ⟨t, ht⟩ := exec_goes i s
  unfold State.lostSlot
  rw [ht]
  dsimp only
  split
  · exact goes_next
  · exact goes_next

/-- Slot A, whatever befalls the data of its move. -/
theorem goes_slotA {e : Soft} {i : Instr} : Goes (s.slotA e i) := by
  cases e with
  | data => exact goes_struckSlot
  | miss => exact goes_missSlot
  | lost => exact goes_lostSlot
  | clean | fetch | file | operand => exact exec_goes i s

theorem goes_struckTransfer {id : Nat} (h : Goes o) : Goes (s.struckTransfer id o) := by
  obtain ⟨t, rfl⟩ := h
  unfold State.struckTransfer
  (repeat' split) <;> exact goes_next

theorem goes_struckGate {xp : Nat} (h : Goes o) : Goes (s.struckGate xp o) := by
  obtain ⟨t, rfl⟩ := h
  unfold State.struckGate
  (repeat' split) <;> exact goes_next

theorem goes_struckCmd {xp : Nat} {find : List Arriving → Option Nat} (h : Goes o) : Goes (s.struckCmd xp find o) := by
  obtain ⟨t, rfl⟩ := h
  unfold State.struckCmd
  dsimp only
  (repeat' split) <;> exact goes_next

theorem goes_struckInbox {t : Nat} {q : Consumer → Bool} : Goes (s.struckInbox t q) := by
  unfold State.struckInbox
  split
  · exact goes_next
  · exact goes_next

theorem goes_struckVia {t : Nat} (h : Goes o) : Goes (s.struckVia t o) := by
  unfold State.struckVia
  split
  · exact h
  split
  · exact h
  · exact goes_ite h goes_next

theorem goes_struckMatrix {t k : Nat} : Goes (s.struckMatrix t k) := by
  unfold State.struckMatrix
  (repeat' split) <;> exact goes_next

theorem goes_struckAgen {m : Nat} (h : Goes o) : Goes (s.struckAgen m o) := by
  obtain ⟨t, rfl⟩ := h
  unfold State.struckAgen
  (repeat' split) <;> exact goes_next

theorem goes_struckConv {c : Nat} (h : Goes o) : Goes (s.struckConv c o) := by
  unfold State.struckConv
  split
  · exact h
  split
  · exact goes_ite h goes_next
  · exact h

theorem goes_struckAdder {port : Nat} (h : Goes o) : Goes (s.struckAdder port o) := by
  unfold State.struckAdder
  split
  · exact h
  · exact goes_ite h goes_next

theorem goes_struckFlit {r : Nat} {dir : Dir} {vc : Nat} : Goes (s.struckFlit r dir vc) := by
  unfold State.struckFlit
  split
  · exact goes_next
  · exact goes_ite goes_next goes_next

theorem goes_struckCfg {t : Nat} : Goes (s.struckCfg t) := by
  unfold State.struckCfg
  split
  · exact goes_next
  · exact goes_next

theorem goes_struckWalk {b i : Nat} : Goes (s.struckWalk b i) := by
  unfold State.struckWalk
  split
  · exact goes_next
  · exact goes_ite goes_next goes_next

theorem goes_struckWindow {b i : Nat} (h : Goes o) : Goes (s.struckWindow b i o) := by
  unfold State.struckWindow
  dsimp only
  split
  · exact goes_ite goes_next goes_next
  · exact goes_ite goes_next goes_next
  · exact h

theorem goes_struckStore {g : Nat} (h : Goes o) : Goes (s.struckStore g o) := by
  obtain ⟨t, rfl⟩ := h
  unfold State.struckStore
  split
  · exact goes_ite goes_next goes_next
  · exact goes_next

theorem goes_struckWait {u : UnitRef} (h : Goes o) : Goes (s.struckWait u o) := by
  obtain ⟨t, rfl⟩ := h
  unfold State.struckWait
  (repeat' split) <;> exact goes_next

theorem goes_struckEvent {k : Nat} {i : Instr} : Goes (s.struckEvent k i) := by
  have h := exec_goes i s
  cases i
  case commandEntry | busyRetry => exact goes_struckCmd h
  case gateOpen => exact goes_struckGate h
  case transferStart => exact goes_struckMeta h
  case transferWrite => exact goes_struckTransfer h
  case flitForward => exact goes_struckFlit
  case portTokenArrival | ringPlace | placingAreaWrite => exact goes_struckInbox
  case inboundStreamerWrite => exact goes_struckVia h
  case converterFiring => exact goes_struckConv h
  case adderPair => exact goes_struckAdder h
  case agenLoadToken | agenStoreToken => exact goes_struckAgen h
  case matrixOpEnd => exact goes_struckMatrix
  case configurationFlit => exact goes_struckCfg
  case tlbWalk => exact goes_struckWalk
  case combineWindowExpiry => exact goes_struckWindow h
  case storePerform => exact goes_struckStore h
  case threadWake => exact goes_struckWait h
  all_goals exact h

theorem goes_readWord {t i : Nat} : Goes (s.readWord t i) := by
  unfold State.readWord
  split
  · exact goes_next
  split
  · exact goes_ite goes_next goes_next
  · exact goes_next

theorem goes_earlyWord {k : Nat} {i : Instr} : Goes (s.earlyWord k i) := by
  unfold State.earlyWord
  split
  · exact goes_readWord
  · exact exec_goes _ s

/-- An event, whatever befalls the data of its move. -/
theorem goes_event {e : Soft} {i : Instr} : Goes (s.event e i) := by
  cases e with
  | data => exact goes_struckEvent
  | operand => exact goes_earlyWord
  | clean | fetch | file | miss | lost => exact exec_goes i s

/-! ## The bundle of a turn (R18, R69, R278) -/

theorem goes_fetchFault {cause : BitVec 8} {ev : Word} : Goes (s.fetchFault cause ev) :=
  goes_unit (fun _ => goes_ite goes_next goes_xlFault) fun _ => goes_xlFault

theorem goes_runB {pre : Ctx} {b : Option Instr} : Goes (s.runB pre b) := by
  cases b with
  | none => exact goes_next
  | some i => exact goes_ite (goes_after (exec_goes _ _)) goes_next

theorem goes_runBundle {e : Soft} {w : Word} {bu : Bundle} : Goes (s.runBundle e w bu) := by
  refine goes_ite goes_wait ?_
  obtain ⟨t, ht⟩ := goes_slotA (s := { s with iss := { word := w, la := bu.la } }) (e := e)
    (i := State.resolve { s with iss := { word := w, la := bu.la } } bu.a)
  rw [ht]
  exact goes_runB

theorem goes_bundle {e : Soft} : Goes (s.bundle e) := by
  unfold State.bundle
  split
  · exact goes_next
  · exact goes_fetchFault
  refine goes_ite goes_fetchFault ?_
  split
  · exact exec_goes _ _
  split
  · exact goes_ite goes_raise goes_runBundle
  all_goals exact goes_runBundle

theorem goes_issueBundle {e : Soft} : Goes (s.issueBundle e) := goes_after goes_bundle

/-! ## Turns and moves -/

theorem goes_dueTurn {e : Soft} : Goes (s.dueTurn g e) := by
  refine goes_ite (exec_goes _ _) ?_
  obtain ⟨t, ht⟩ := goes_bundle (s := s) (e := e)
  rw [ht]
  exact goes_ite goes_next (exec_goes _ _)

theorem goes_turnThread {e : Soft} : Goes (s.turnThread g e) := by
  refine goes_ite (exec_goes _ _) ?_
  split
  · refine goes_ite (exec_goes _ _) (goes_ite ?_ ?_)
    · split
      · exact goes_next
      · exact goes_next
    · exact goes_ite (goes_ite (goes_ite goes_next goes_dueTurn) (goes_ite (exec_goes _ _) goes_issueBundle)) goes_issueBundle
  · exact exec_goes _ _
  · exact goes_event
  · exact goes_ite (exec_goes _ _) goes_next
  · exact goes_ite (exec_goes _ _) (goes_ite (exec_goes _ _) goes_next)
  · exact goes_next
  · exact goes_next

theorem goes_turnCore {k : Nat} {e : Soft} : Goes (s.turnCore k e) := by
  refine goes_ite (exec_goes _ _) (goes_ite goes_next ?_)
  split
  · exact goes_ite (exec_goes _ _) goes_issueBundle
  · exact goes_event
  all_goals exact goes_next

theorem goes_turn {u : UnitRef} {e : Soft} : Goes (s.turn u e) := by
  cases u with
  | thread g => exact goes_ite (goes_ite goes_next goes_turnThread) goes_next
  | core k => exact goes_ite goes_turnCore goes_next

theorem goes_act {a : Act} {e : Soft} : Goes (s.act a e) := by
  cases a with
  | issue u => exact goes_turn
  | event i =>
    unfold State.act
    dsimp only
    split
    · exact goes_turn
    refine goes_ite ?_ goes_next
    split
    · exact goes_event
    · exact goes_ite goes_event goes_next

theorem step_goes (s : State) : Goes (step s) := goes_after (goes_ite goes_next goes_act)

/-- Settles O56: every form and every event goes on, and so does a step, which is a turn or an event whatever befalls its data. -/
theorem noStepStops : Obligations.NoStepStops := ⟨exec_goes, step_goes⟩

end Sys2Proof.Claims
end

section
/-!
PROOFS. Immediate forms, bit fields, addresses and constants (R100, R102 to R106): their values as functions of the readings of
operand and immediate.
-/
namespace Sys2Proof.Claims
open Sys2Proof.Machine

/-! ## Immediates (R100) -/

theorem ofInt_immInt (x : Imm) : BitVec.ofInt 64 (immInt x) = immv x := by cases x <;> rfl

theorem toInt_immv (x : Imm) : (immv x).toInt = immInt x := by
  cases x <;> exact BitVec.toInt_signExtend_of_le (by decide)

theorem ofInt_toInt_add (x : Word) (n : Int) : BitVec.ofInt 64 (x.toInt + n) = x + BitVec.ofInt 64 n := by
  rw [BitVec.ofInt_add, BitVec.ofInt_toInt]

theorem ofInt_two_pow_mul (n : Int) (k : Nat) : BitVec.ofInt 64 (n * 2 ^ k) = BitVec.ofInt 64 n <<< k := by
  have hpow : BitVec.ofInt 64 (2 ^ k) = BitVec.twoPow 64 k := by
    rw [← BitVec.toNat_inj, BitVec.toNat_twoPow, ← BitVec.toNat_ofNat, ← BitVec.ofInt_natCast]
    norm_cast
  rw [BitVec.ofInt_mul, hpow, BitVec.shiftLeft_eq_mul_twoPow]

/-! ## Bit fields (R103) -/

/-- A field of a word, as a number. -/
theorem toNat_field (x : Word) (pos w : Nat) : ((x >>> pos).setWidth w).toNat = x.toNat / 2 ^ pos % 2 ^ w := by
  rw [BitVec.toNat_setWidth, BitVec.toNat_ushiftRight, Nat.shiftRight_eq_div_pow]

theorem zextW_field (x : Word) (pos w : Nat) : BitVec.ofNat 64 (x.toNat / 2 ^ pos % 2 ^ w) = zextW (x >>> pos) w := by
  rw [← toNat_field, BitVec.ofNat_toNat, zextW]

theorem sextW_field (x : Word) (pos : Nat) {w : Nat} (hw : 0 < w) :
    BitVec.ofInt 64 (if x.toNat / 2 ^ pos % 2 ^ w < 2 ^ (w - 1) then (x.toNat / 2 ^ pos % 2 ^ w : Nat)
      else ((x.toNat / 2 ^ pos % 2 ^ w : Nat) : Int) - 2 ^ w) = sextW (x >>> pos) w := by
  have hpow : 2 * 2 ^ (w - 1) = 2 ^ w := by rw [← pow_succ', Nat.sub_add_cancel hw]
  rw [← toNat_field, sextW, BitVec.signExtend, BitVec.toInt_eq_toNat_cond]
  push_cast
  congr 1
  split <;> split <;> omega

theorem allOnes_value (w : Nat) (pos : Nat) : BitVec.ofNat 64 ((2 ^ w - 1) * 2 ^ pos) = onesMask w <<< pos := by
  rw [onesMask, wd, ← BitVec.toNat_inj]
  simp [Nat.shiftLeft_eq]

theorem bins_value (old x : Word) (pos w : Nat) :
    (old &&& ~~~ BitVec.ofNat 64 ((2 ^ w - 1) * 2 ^ pos)) ||| (BitVec.ofNat 64 (x.toNat * 2 ^ pos) &&& BitVec.ofNat 64 ((2 ^ w - 1) * 2 ^ pos)) =
      insertBits old x pos w := by
  rw [allOnes_value, ofNat_mul_two_pow, insertBits]

/-! ## Addresses and constants (R104 to R106) -/

theorem and_onesMask (x : Word) (w : Nat) : x &&& onesMask w = BitVec.ofNat 64 (x.toNat % 2 ^ w) := by
  have h := ofNat_bits_eq_and x 0 w
  simpa [bits, bitsN, onesMask, wd] using h.symm

theorem movt_value (imm : BitVec 23) (x : Word) :
    BitVec.ofNat 64 (imm.toNat * 2 ^ 41 + x.toNat % 2 ^ 41) = imm.setWidth 64 <<< 41 ||| (x &&& onesMask 41) := by
  rw [and_onesMask, ← BitVec.toNat_inj, BitVec.toNat_or, BitVec.toNat_shiftLeft]
  have := imm.isLt
  simp only [BitVec.toNat_ofNat, BitVec.toNat_setWidth]
  rw [Nat.mod_eq_of_lt (by omega : imm.toNat < 2 ^ 64), Nat.shiftLeft_eq, Nat.mod_eq_of_lt (by omega : imm.toNat * 2 ^ 41 < 2 ^ 64), 
    Nat.mod_eq_of_lt (by omega : x.toNat % 2 ^ 41 < 2 ^ 64), ← Nat.shiftLeft_eq, ← Nat.shiftLeft_add_eq_or_of_lt (by omega)]
  exact Nat.mod_eq_of_lt (by rw [Nat.shiftLeft_eq]; omega)

theorem lea_value (x y : Word) (n : Nat) : BitVec.ofNat 64 (x.toNat + y.toNat * 2 ^ n) = x + y <<< n := by
  rw [BitVec.ofNat_add, ofNat_mul_two_pow, BitVec.ofNat_toNat, BitVec.setWidth_eq]

/-- The 64 KiB page of a word, as the floor of its signed reading. -/
theorem page_value (x : Word) : BitVec.ofInt 64 (x.toInt / 2 ^ 16 * 2 ^ 16) = x &&& ~~~ 0xFFFF#64 := by
  refine Eq.trans ?_ (ofNat_bits_eq_and x 16 48)
  have := x.isLt
  rw [bits, bitsN, ← BitVec.toNat_inj, BitVec.toNat_ofInt, BitVec.toNat_ofNat, BitVec.toInt_eq_toNat_cond]
  split <;> omega

/-- What a form that refuses some operands is, where it takes them. -/
theorem of_guarded {c : Prop} [Decidable c] {d e : SReg} {x y : Word} (h : (if c then none else some (e, y)) = some (d, x)) :
    ¬ c ∧ e = d ∧ y = x := by simpa using h

/-- An immediate form, a bit field, an address or a constant writes its value of R102 to R106 and answers. -/
theorem exec_of_immResult {i : Instr} {s : State} {d : SReg} {x : Word} (h : immResult i s = some (d, x)) : exec i s = .next (s.wS d x) := by
  unfold immResult at h
  split at h
  case h_22 => cases h
  -- bext, bextu, bins and lea refuse some operands
  case h_13 =>
    obtain ⟨hin, rfl, rfl⟩ := of_guarded h
    exact (if_neg hin).trans (congrArg _ (congrArg _ (sextW_field _ _ (Nat.succ_pos _)).symm))
  case h_14 =>
    obtain ⟨hin, rfl, rfl⟩ := of_guarded h
    exact (if_neg hin).trans (congrArg _ (congrArg _ (zextW_field _ _ _).symm))
  case h_15 =>
    obtain ⟨hin, rfl, rfl⟩ := of_guarded h
    exact (if_neg hin).trans (congrArg _ (congrArg _ (bins_value _ _ _ _).symm))
  case h_16 =>
    obtain ⟨hin, rfl, rfl⟩ := of_guarded h
    exact (if_neg hin).trans (congrArg _ (congrArg _ (lea_value _ _ _).symm))
  all_goals
    obtain ⟨rfl, rfl⟩ := Prod.mk.inj (Option.some.inj h)
    refine congrArg (fun y => Host.Outcome.next (s.wS _ y)) (Eq.symm ?_)
    beta_reduce
  -- addi, andi, ori, xori, muli, movi
  case h_1 => rw [ofInt_toInt_add, ofInt_immInt]
  case h_2 | h_3 | h_4 | h_17 => rw [ofInt_immInt]
  case h_12 => rw [BitVec.ofInt_mul, BitVec.ofInt_toInt, ofInt_immInt]
  -- slli, srli, srai, roli
  case h_5 => exact ofNat_mul_two_pow _ _
  case h_6 => exact ofNat_div_two_pow _ _
  case h_7 => exact ofInt_div_two_pow _ _
  case h_8 sh _ => exact rotateLeft_value _ sh.isLt
  -- slti, sltiu, seqi
  case h_9 => exact truth_eq_flagW (toInt_immv _ ▸ BitVec.slt_iff_toInt_lt)
  case h_10 => rw [ofInt_immInt]; exact truth_eq_flagW BitVec.ult_iff_toNat_lt
  case h_11 => exact truth_eq_flagW (by rw [← toInt_immv, beq_iff_eq, BitVec.toInt_inj])
  -- movt, lui, addpc, addpg
  case h_18 => exact movt_value _ _
  case h_19 => exact ofInt_two_pow_mul _ _
  case h_20 => rw [ofInt_toInt_add, ofInt_two_pow_mul]; rfl
  case h_21 => rw [BitVec.ofInt_add, page_value, ofInt_two_pow_mul]; rfl

/-- Settles O4: each form's value is the one of R102 to R106, and writing it is all that the form does. -/
theorem immediateForms : Obligations.ImmediateForms :=
  fun _ _ _ _ h => ⟨_, exec_of_immResult h, wroteS_wS _ _⟩

end Sys2Proof.Claims
end

section
/-!
PROOFS. Branches, jumps and loops (R107 to R110): where a relative target lies, which registers a transfer writes, and the words of the
forms with an offset.
-/
namespace Sys2Proof.Claims
open Sys2Proof.Machine

variable {s : State}

/-! ## Transfers -/

theorem target_of_signed {off : Word} {n : Int} (h : BitVec.ofInt 64 n = off) : s.target off = relTarget s n := by
  rw [relTarget, ofInt_toInt_add, BitVec.ofInt_mul, h]
  rfl

theorem target_immv (off : Imm) : s.target (immv off) = relTarget s (immInt off) := target_of_signed (ofInt_immInt off)

theorem became_ctx (s : State) (i : Issue) : Became s { s with iss := i } s.ctx i where
  rest := sameRest_iss s i
  iss := rfl
  thread g h := by rw [State.ctx, h]; rfl
  core k h := by rw [State.ctx, h]; rfl

theorem became_jump (a : Word) : Became s (s.jump a) s.ctx (goesTo s a) := became_ctx s _

/-- A transfer beside a register write. -/
theorem became_wS_jump (d : SReg) (x a : Word) : Became s ((s.wS d x).jump a) (s.ctx.wS d x) (goesTo s a) where
  rest := (sameRest_setCtx _).trans (sameRest_jump _ _)
  iss := by rw [State.jump, State.wS, State.setCtx_iss]; rfl
  thread := (became_setCtx _).thread
  core := (became_setCtx _).core

/-! ## Conditional branches (R108, R109) -/

/-- A branch whose condition is decided goes to its target or does nothing. -/
theorem branchIf_became {c : Prop} {b : Bool} (hc : b = true ↔ c) (off : Imm) :
    (c → Became s (s.branchIf b (immv off)) s.ctx (goesTo s (relTarget s (immInt off)))) ∧
      (¬ c → Became s (s.branchIf b (immv off)) s.ctx s.iss) := by
  refine ⟨fun h => ?_, fun h => ?_⟩
  · rw [State.branchIf, if_pos (hc.mpr h), target_immv]
    exact became_jump _
  · rw [State.branchIf, if_neg (mt hc.mp h)]
    exact became_ctx s s.iss

/-- A branch form of a swarm thread branches on its condition. -/
theorem exec_of_branchOf {i : Instr} {g : Nat} {c : Prop} {off : Imm} (hc : s.cur = .thread g) (h : branchOf i s = some (c, off)) :
    ∃ b : Bool, (b = true ↔ c) ∧ exec i s = .next (s.branchIf b (immv off)) := by
  unfold branchOf at h
  split at h
  case h_9 => cases h
  all_goals
    obtain ⟨rfl, rfl⟩ := Prod.mk.inj (Option.some.inj h)
    refine ⟨_, ?_, s.swarm_of_thread hc _⟩
  case h_1 => exact beq_iff_eq
  case h_2 => exact bne_iff_ne
  case h_3 => exact BitVec.slt_iff_toInt_lt
  case h_4 => rw [Bool.not_eq_true', ← Bool.not_eq_true, BitVec.slt_iff_toInt_lt, not_lt]
  case h_5 => exact BitVec.ult_iff_toNat_lt
  case h_6 => rw [Bool.not_eq_true', ← Bool.not_eq_true, BitVec.ult_iff_toNat_lt, not_lt]
  case h_7 => exact bne_iff_ne
  case h_8 => exact beq_iff_eq

theorem ri_eq_immWords (op x y : Nat) (off : Imm) : ri op x y off = immWords op x y off := by cases off <;> rfl

/-- Settles O5: a branch is its condition and its target. -/
theorem branchForms : Obligations.BranchForms := by
  refine ⟨fun i s g c off hcur h => ?_, fun a b off => ?_⟩
  · obtain ⟨b, hb, hexec⟩ := exec_of_branchOf hcur h
    exact ⟨_, hexec, branchIf_became hb off⟩
  · simp only [← ri_eq_immWords]
    exact ⟨rfl, rfl, rfl, rfl, rfl, rfl⟩

/-! ## Jumps and the counted loop (R109, R110) -/

/-- The target of jalr. -/
theorem jalr_target (x : Word) (imm : Imm) : BitVec.ofInt 64 (x.toInt + 8 * immInt imm) = x + 8 * immv imm := by
  rw [ofInt_toInt_add, BitVec.ofInt_mul, ofInt_immInt]
  rfl

section
variable {g : Nat} {d a : SReg} {imm : Imm} {x : Word}

theorem exec_jalr_aligned (hc : s.cur = .thread g) (hx : s.rS a + 8 * immv imm = x) (h : x.toNat % 8 = 0) :
    exec (.jalr d a imm) s = .next ((s.wS d (s.pc + 8)).jump x) := by
  subst hx
  refine (s.swarm_of_thread hc _).trans (if_neg (not_not.mpr ?_))
  simpa [bits, bitsN] using h

theorem exec_jalr_unaligned (hc : s.cur = .thread g) (hx : s.rS a + 8 * immv imm = x) (h : x.toNat % 8 ≠ 0) :
    exec (.jalr d a imm) s = s.raise cALIGN x := by
  subst hx
  refine (s.swarm_of_thread hc _).trans (if_pos ?_)
  simpa [bits, bitsN] using h

end

/-- Settles O6: a jump is a transfer beside the write of its link, and loop a branch beside that of its counter. -/
theorem jumpsAndLoop : Obligations.JumpsAndLoop := by
  refine ⟨fun s d a off imm => ⟨?_, fun g hc => ⟨?_, fun h => ?_, fun hcan h => ?_⟩⟩, fun s a off => ⟨?_, ?_⟩⟩
  · rw [← target_of_signed rfl]
    exact ⟨_, rfl, became_jump _⟩
  · rw [← target_of_signed rfl]
    exact ⟨_, _, s.swarm_of_thread hc _, became_wS_jump _ _ _, onlyS_wS _ _ _⟩
  · rw [jalr_target] at h ⊢
    exact ⟨_, _, exec_jalr_aligned hc rfl h, became_wS_jump _ _ _, onlyS_wS _ _ _⟩
  · rw [jalr_target] at h ⊢
    rw [exec_jalr_unaligned hc rfl h]
    exact raise_tookTrap hcan _ _ _
  · rw [← ri_eq_immWords]
    rfl
  · have hcount : BitVec.ofInt 64 ((s.rS a).toInt - 1) = s.rS a - 1 := sub_value (s.rS a) 1
    have htarget : (s.wS a (s.rS a - 1)).target (immv off) = relTarget s (immInt off) := by
      rw [← target_immv, State.target, State.target, State.pc, State.wS, State.setCtx_ctx, Ctx.wS_pc, State.pc]
    rw [hcount]
    refine ⟨_, _, rfl, onlyS_wS _ _ _, ?_⟩
    split
    next h =>
      rw [State.branchIf, if_neg (by rw [h]; decide)]
      exact became_setCtx _
    next h =>
      rw [State.branchIf, if_pos (bne_iff_ne.mpr fun h0 => h (sub_eq_zero.mp h0)), htarget]
      exact became_wS_jump _ _ _

end Sys2Proof.Claims
end

section
/-!
PROOFS. Words of the spec's worked examples (R126, R168, R175, R177, R183, R189, R193).
-/
namespace Sys2Proof

/-- Settles O59: the decoder, run on each word. -/
theorem decodeWords : Obligations.DecodeWords := by
  unfold Obligations.DecodeWords
  decide

end Sys2Proof
end

section
/-!
PROOFS. Accesses and loads (R111 to R119): what an access that reaches its home goes on with, the loaded bytes as a scalar, what the store
buffer forwards, and the lanes of a gather.
-/
namespace Sys2Proof.Claims
open Sys2Proof.Machine

variable {s : State} {g : Nat}

/-! ## Accesses that pass their checks (R112, R116) -/

theorem Reaches.access {ea : Word} {n align : Nat} {rd wr : Bool} {form : NeedForm} {p : Phys} (h : Reaches s g ea n align rd wr form p)
    (k : Phys → Out) : s.access g ea n align rd wr form true k = k p := by
  obtain ⟨hcheck, hheld, hedge⟩ := h
  exact s.access_of_ok hcheck hheld hedge k

theorem unspec_of_plain (hc : s.cur = .thread g) (hspec : (s.thread g).spec = false) (p : Phys) (k : State → Out) : s.unspec p k = k s := by
  rw [State.unspec, s.plainly_of_plain hc hspec, ite_self]

theorem unspecAll_of_plain (hc : s.cur = .thread g) (hspec : (s.thread g).spec = false) (ps : List Phys) (k : State → Out) :
    s.unspecAll ps k = k s := by
  rw [State.unspecAll, s.plainly_of_plain hc hspec, ite_self]

/-! ## Loads of a thread that runs plain (R114, R115) -/

section
variable {p : Phys} {n : Nat} {k : State → Nat → Out} {far : Nat → Out}

theorem loadN_of_forwarded (hspec : (s.thread g).spec = false) {x : Nat} (hf : forward (s.thread g).sb p n = .val x) :
    s.loadN g p n k far = k s x := by
  obtain ⟨h, -⟩ | ⟨y, h, hk⟩ | ⟨h, -⟩ := s.loadN_plain hspec p n k far
  · cases hf.symm.trans h
  · cases hf.symm.trans h
    exact hk
  · cases hf.symm.trans h

theorem loadN_of_home (hspec : (s.thread g).spec = false) (hf : forward (s.thread g).sb p n = .mem) (hhome : ∀ d, p.home ≠ .remote d) :
    s.loadN g p n k far = k s (s.homeRead p n) := by
  obtain ⟨h, -⟩ | ⟨y, h, -⟩ | ⟨-, ⟨d, h, -⟩ | hk⟩ := s.loadN_plain hspec p n k far
  · cases hf.symm.trans h
  · cases hf.symm.trans h
  · exact absurd h (hhome d)
  · exact hk

end

theorem not_remote_of_inMemory {p : Phys} (h : InMemory p) (d : Nat) : p.home ≠ .remote d := by
  obtain h | h | h := h <;> simp [h]

/-! ## Loaded bytes as a scalar (R117) -/

theorem forward_val_lt {sb : List SbEntry} {p : Phys} {n x : Nat} (h : forward sb p n = .val x) : x < 2 ^ (8 * n) := by
  unfold forward at h
  split at h
  · cases h
  · split at h
    · cases h
      exact Nat.mod_lt _ (Nat.two_pow_pos _)
    · cases h

theorem regRead_lt (s : State) (pa n : Nat) : s.regRead pa n < 2 ^ (8 * n) := Nat.mod_lt _ (Nat.two_pow_pos _)

theorem memNat_lt_two_pow (m : List Host.Cell) (a n : Nat) : memNat m a n < 2 ^ (8 * n) := by
  rw [pow_mul]
  exact memNat_lt m n a

/-- The loaded bytes extend as the spec's number does. -/
theorem extend_eq_scalarOf {n x : Nat} (sgn : Bool) (hn : 0 < n ∧ n ≤ 8) (hx : x < 2 ^ (8 * n)) : extend n sgn x = scalarOf n sgn x := by
  have hword : (wd x).toNat / 2 ^ 0 % 2 ^ (8 * n) = x := by
    have hle : 2 ^ (8 * n) ≤ 2 ^ 64 := Nat.pow_le_pow_right (by decide) (by omega)
    rw [wd, BitVec.toNat_ofNat, pow_zero, Nat.div_one, Nat.mod_eq_of_lt (b := 2 ^ 64) (by omega), Nat.mod_eq_of_lt hx]
  cases sgn with
  | false =>
    have h := zextW_field (wd x) 0 (8 * n)
    rw [hword, BitVec.ushiftRight_zero] at h
    simp [extend, scalarOf, ← h]
  | true =>
    have h := sextW_field (wd x) 0 (w := 8 * n) (by omega)
    rw [hword, BitVec.ushiftRight_zero] at h
    rw [extend, scalarOf, if_pos rfl, ← h]
    refine congrArg _ ?_
    by_cases hneg : x < 2 ^ (8 * n - 1)
    · rw [if_pos hneg, if_neg fun h => absurd h.2 (Nat.not_le.mpr hneg)]
    · rw [if_neg hneg, if_pos ⟨rfl, Nat.not_lt.mp hneg⟩]

theorem wd_eq_scalarOf (n x : Nat) : wd x = scalarOf n false x := by simp [wd, scalarOf]

/-! ## Scalar load forms (R117, R131) -/

/-- A scalar load form is a load of its bytes, whose value is a long result. -/
theorem exec_of_loadOf {i : Instr} {d a : SReg} {imm : Imm} {n : Nat} {sgn : Bool} {form : NeedForm} {p : Phys}
    (h : loadOf i = some (d, a, imm, n, sgn, form)) (hc : s.cur = .thread g) (hspec : (s.thread g).spec = false)
    (hr : Reaches s g (eaOf s a imm) n n true false form p) :
    ∃ (v : Nat → Word) (far : Nat → Out), (∀ x, x < 2 ^ (8 * n) → v x = scalarOf n sgn x) ∧
      n ≤ 8 ∧ exec i s = s.loadN g p n (fun s x => .next (s.longS d (v x))) far := by
  have hload (d : SReg) (sgn : Bool) (hr : Reaches s g (eaOf s a imm) n n true false .any p) : ∃ far, s.loadS d (s.ea a imm) n sgn =
      s.loadN g p n (fun s x => .next (s.longS d (extend n sgn x))) far :=
    ⟨fun dev => .next (s.farLong g p dev n 0 0 (.sreg d) (.scalar n sgn) false), by
      rw [State.loadS, s.swarm_of_thread hc, ← eaOf_eq_ea, hr.access, unspec_of_plain hc hspec]⟩
  unfold loadOf at h
  split at h
  case h_9 => cases h
  case h_8 d a imm =>
    cases h
    refine ⟨wd, fun dev => .next (s.farLong g p dev 8 0 0 (.sreg d) (.scalar 8 false) true), fun x _ => wd_eq_scalarOf 8 x, le_rfl,
      (s.swarm_of_thread hc _).trans ?_⟩
    rw [s.plainly_of_plain hc hspec, ← eaOf_eq_ea, hr.access]
  all_goals
    cases h
    obtain ⟨far, hexec⟩ := hload _ _ hr
    exact ⟨_, far, fun x hx => extend_eq_scalarOf _ (by decide) hx, by decide, hexec⟩

theorem queued_of_loadOf {i : Instr} {d a : SReg} {imm : Imm} {n : Nat} {sgn : Bool} {form : NeedForm} {p : Phys}
    (h : loadOf i = some (d, a, imm, n, sgn, form)) (hc : s.cur = .thread g) (hspec : (s.thread g).spec = false)
    (hr : Reaches s g (eaOf s a imm) n n true false form p) {x : Nat} (hx : x < 2 ^ (8 * n))
    (hval : forward (s.thread g).sb p n = .val x ∨
      forward (s.thread g).sb p n = .mem ∧ (∀ dev, p.home ≠ .remote dev) ∧ (n ≤ 8 → s.homeRead p n = x)) :
    ∃ t, exec i s = .next t ∧ Queued s t (.sreg d) ((scalarOf n sgn x).setWidth 256) 0 := by
  obtain ⟨v, far, hv, hn, hexec⟩ := exec_of_loadOf h hc hspec hr
  rw [← hv x hx, hexec]
  refine ⟨_, ?_, queued_longS d (v x)⟩
  obtain hf | ⟨hf, hhome, hread⟩ := hval
  · exact loadN_of_forwarded hspec hf
  · rw [loadN_of_home hspec hf hhome, hread hn]

/-- The youngest buffered store forwards when it is plain, holds every byte, and has no reduction among the older that overlap (R114). -/
theorem forward_of_youngest {old : List SbEntry} {e : SbEntry} {p : Phys} {n : Nat} (hn : 0 < n) (hkind : e.kind = .plain)
    (hhome : e.phys.home = p.home) (hlow : e.phys.pa ≤ p.pa) (hhigh : p.pa + n ≤ e.phys.pa + e.size)
    (hold : ∀ x ∈ old, x.over p n = true → x.kind.isRed = false) :
    forward (old ++ [e]) p n = .val (e.data.toNat / 2 ^ (8 * (p.pa - e.phys.pa)) % 2 ^ (8 * n)) := by
  have hover : e.over p n = true := by
    simp only [SbEntry.over, overlaps, hhome, beq_self_eq_true, Bool.true_and, Bool.and_eq_true, decide_eq_true_eq]
    omega
  have hlist : ((old ++ [e]).filter fun e => e.over p n).reverse = e :: (old.filter fun e => e.over p n).reverse := by
    rw [List.filter_append, List.filter_cons_of_pos (p := fun e : SbEntry => e.over p n) hover, List.filter_nil, List.reverse_append]
    rfl
  have hred : ((old.filter fun e => e.over p n).reverse.any fun x => x.kind.isRed) = false :=
    List.any_eq_false.mpr fun x hx => by
      obtain ⟨hmem, hov⟩ := List.mem_filter.mp (List.mem_reverse.mp hx)
      simp [hold x hmem hov]
  rw [forward, hlist]
  exact if_pos (by simp [hkind, hlow, hhigh, hred])

/-- Settles O7: each form is a load, whose value comes from the buffer or from its home. -/
theorem scalarLoads : Obligations.ScalarLoads := by
  refine ⟨fun i s g d a imm n sgn form p h hc hspec hr => ⟨fun v hf => ?_, fun hf hmem => ?_, fun hf hregs => ?_⟩,
    fun old e p n hn hkind hhome hlow hhigh hold => forward_of_youngest hn hkind hhome hlow hhigh hold⟩
  · exact queued_of_loadOf h hc hspec hr (forward_val_lt hf) (.inl hf)
  · exact queued_of_loadOf h hc hspec hr (memNat_lt_two_pow _ _ _)
      (.inr ⟨hf, not_remote_of_inMemory hmem, fun _ => homeRead_of_inMemory hmem n⟩)
  · refine queued_of_loadOf h hc hspec hr (regRead_lt s _ _) (.inr ⟨hf, fun dev => by simp [hregs], fun hn => ?_⟩)
    rw [State.homeRead, hregs]
    exact if_pos hn

end Sys2Proof.Claims
end

section
/-!
PROOFS. Lanes (R119): the addresses of vgather and vscatter, the checks of eight lanes, and what a gather reads.
-/
namespace Sys2Proof.Claims
open Sys2Proof.Machine

variable {s : State} {g : Nat}

/-! ## The addresses and checks of lanes -/

/-- The address of a lane, as the spec gives it. -/
theorem laneEa_value (x : Word) (y : BitVec 32) (sh : Nat) :
    BitVec.ofInt 64 (x.toInt + y.toInt * 2 ^ sh) = x + y.signExtend 64 <<< sh := by
  rw [ofInt_toInt_add, ofInt_two_pow_mul]
  rfl

theorem laneEas_getElem? (base : Word) (o : VWord) (sh : Nat) {k : Nat} (hk : k < 8) :
    (laneEas base o sh)[k]? = some (BitVec.ofInt 64 (base.toInt + (lane o k).toInt * 2 ^ sh)) := by
  rw [laneEas, List.getElem?_map, List.getElem?_range hk, laneEa_value]
  rfl

/-- Each lane reaches its place. -/
def LanesReach (s : State) (g : Nat) (rd wr : Bool) (eas : List Word) (ps : List Phys) : Prop :=
  List.Forall₂ (fun ea p => Reaches s g ea 4 4 rd wr .any p) eas ps

theorem lanesReach_of_forall {base : Word} {o : VWord} {sh : Nat} {rd wr : Bool} {ps : List Phys} (hlen : ps.length = 8)
    (h : ∀ k p, ps[k]? = some p → k < 8 →
      Reaches s g (BitVec.ofInt 64 (base.toInt + (lane o k).toInt * 2 ^ sh)) 4 4 rd wr .any p) :
    LanesReach s g rd wr (laneEas base o sh) ps := by
  have hlen' : (laneEas base o sh).length = 8 := by simp [laneEas]
  refine List.forall₂_iff_get.mpr ⟨hlen'.trans hlen.symm, fun k hk hk' => ?_⟩
  have hea := laneEas_getElem? base o sh (k := k) (by omega)
  rw [List.getElem?_eq_getElem hk] at hea
  rw [List.get_eq_getElem, Option.some.inj hea]
  exact h k _ (List.getElem?_eq_getElem hk') (by omega)

theorem checkLanes_of_reach {rd wr : Bool} {eas : List Word} {ps : List Phys} (h : LanesReach s g rd wr eas ps) :
    s.checkLanes g (s.need g rd wr .any) eas = .ok ps := by
  induction h with
  | nil => rfl
  | cons hr _ ih =>
    obtain ⟨hcheck, -, -⟩ := hr
    rw [State.checkLanes, hcheck, ih]

/-- Lanes that reach their places go on with them. -/
theorem lanes_of_reach {rd wr : Bool} {eas : List Word} {ps : List Phys} (h : LanesReach s g rd wr eas ps) (hne : ps ≠ [])
    (k : List Phys → Out) : s.lanes g eas rd wr k = k ps := by
  have hreach : ∀ p ∈ ps, s.heldBack g = false ∧ s.atEdge p = none := fun p hp => by
    obtain ⟨i, hi, rfl⟩ := List.getElem_of_mem hp
    obtain ⟨-, hheld, hedge⟩ := (List.forall₂_iff_get.mp h).2 i ((List.forall₂_iff_get.mp h).1 ▸ hi) hi
    exact ⟨hheld, hedge⟩
  obtain ⟨p, hp⟩ := List.exists_mem_of_ne_nil ps hne
  rw [State.lanes, checkLanes_of_reach h, (hreach p hp).1]
  dsimp only
  rw [List.findSome?_eq_none_iff.mpr fun p hp => (hreach p hp).2]
  rfl

/-! ## What a gather reads -/

theorem homeRead_lt (s : State) (p : Phys) {n : Nat} (hn : n ≤ 8) : s.homeRead p n < 2 ^ (8 * n) := by
  unfold State.homeRead
  split
  · rw [if_pos hn]
    exact regRead_lt s _ _
  all_goals
    rw [peek_eq_memNat]
    exact memNat_lt_two_pow _ _ _

theorem lane_or (x y : VWord) (k : Nat) : lane (x ||| y) k = lane x k ||| lane y k := BitVec.extractLsb'_or

/-- A word put in lane `i` of a register of zeros. -/
theorem lane_placed {x i k : Nat} (hx : x < 2 ^ 32) (hk : k < 8) :
    lane (BitVec.ofNat 256 (x * 2 ^ (32 * i))) k = if i = k then BitVec.ofNat 32 x else 0#32 := by
  refine BitVec.eq_of_getLsbD_eq fun j hj => ?_
  have hbit : (lane (BitVec.ofNat 256 (x * 2 ^ (32 * i))) k).getLsbD j = (decide (32 * i ≤ 32 * k + j) && x.testBit (32 * k + j - 32 * i)) := by
    rw [lane, BitVec.getLsbD_extractLsb', BitVec.getLsbD_ofNat, Nat.testBit_mul_two_pow]
    simp [hj, show 32 * k + j < 256 by omega]
  rw [hbit]
  obtain hlt | rfl | hgt := Nat.lt_trichotomy i k
  · have hpow : 2 ^ 32 ≤ 2 ^ (32 * k + j - 32 * i) := Nat.pow_le_pow_right (by decide) (by omega)
    rw [Nat.testBit_lt_two_pow (hx.trans_le hpow), if_neg hlt.ne, BitVec.getLsbD_zero, Bool.and_false]
  · rw [if_pos rfl, BitVec.getLsbD_ofNat]
    simp [hj]
  · rw [decide_eq_false (by omega), if_neg hgt.ne', BitVec.getLsbD_zero, Bool.false_and]

/-- Lanes from number `i` on that nothing forwards to. -/
def unforwarded (l : List (Word × Phys)) (i : Nat) : List (Nat × Nat × Phys) := (l.zipIdx i).map fun e => (e.2, e.1.1.toNat, e.1.2)

theorem splitLanes_nil : ∀ (l : List (Word × Phys)) (i : Nat), splitLanes [] l i = some (0, unforwarded l i)
  | [], _ => rfl
  | (ea, p) :: l, i => by
    rw [splitLanes, forward_nil, splitLanes_nil l (i + 1)]
    rfl

theorem lane_localLanes_before {k : Nat} (hk : k < 8) : ∀ (l : List (Word × Phys)) (i : Nat) (acc : VWord), k < i →
    lane (s.localLanes (unforwarded l i) acc) k = lane acc k
  | [], _, _, _ => rfl
  | (ea, p) :: l, i, acc, hi => by
    refine (lane_localLanes_before hk l (i + 1) _ (by omega)).trans ?_
    rw [lane_or, lane_placed (homeRead_lt s p (by decide)) hk, if_neg (by omega), BitVec.or_zero]

/-- A lane that is read where it lies stands in its place. -/
theorem lane_localLanes {ea : Word} {p : Phys} : ∀ (l : List (Word × Phys)) (i j : Nat) (acc : VWord), l[j]? = some (ea, p) → i + j < 8 →
    lane (s.localLanes (unforwarded l i) acc) (i + j) = lane acc (i + j) ||| BitVec.ofNat 32 (s.homeRead p 4)
  | [], _, _, _, h, _ => by simp at h
  | (x, q) :: l, i, 0, acc, h, hlt => by
    obtain ⟨rfl, rfl⟩ : x = ea ∧ q = p := by simpa using h
    refine (lane_localLanes_before hlt l (i + 1) _ (by omega)).trans ?_
    rw [lane_or, lane_placed (homeRead_lt s q (by decide)) hlt, if_pos (Nat.add_zero i).symm]
  | e :: l, i, j + 1, acc, h, hlt => by
    have hnext : i + (j + 1) = i + 1 + j := by omega
    rw [hnext] at hlt ⊢
    refine (lane_localLanes l (i + 1) j _ (by simpa using h) hlt).trans ?_
    rw [lane_or, lane_placed (homeRead_lt s e.2 (by decide)) hlt, if_neg (by omega), BitVec.or_zero]

/-- A gather whose lanes lie in this device's memory reads them at once. -/
theorem gather_of_inMemory (hspec : (s.thread g).spec = false) (hsb : (s.thread g).sb = []) (v : VReg) {l : List (Word × Phys)}
    (hl : ∀ e ∈ l, InMemory e.2) : s.gather g v l false = .next (s.longV v 0xFF (s.localLanes (unforwarded l 0) 0) 0) := by
  have hnow : (unforwarded l 0).any (laneWaits false) = false := by
    refine List.any_eq_false.mpr fun e he => ?_
    obtain ⟨⟨x, i⟩, hx, rfl⟩ := List.mem_map.mp he
    obtain h | h | h := hl x (List.fst_mem_of_mem_zipIdx hx) <;> simp [laneWaits, h]
  rw [State.gather, hspec, hsb, splitLanes_nil]
  split
  next h => cases h
  next => exact if_neg (by simp [hnow])

/-- Settles O8: a load of a whole register, and a gather of eight words. -/
theorem vectorLoads : Obligations.VectorLoads := by
  refine ⟨fun s g v a x p hplain hr hmem => ?_, fun s g v o a sh ps hplain hlen h => ?_⟩
  · obtain ⟨hc, hspec, hsb⟩ := hplain
    refine ⟨_, (s.swarm_of_thread hc _).trans ?_, queued_longV _ _ _⟩
    rw [← eaOf_eq_ea, hr.access, unspec_of_plain hc hspec, loadN_of_home hspec (by rw [hsb, forward_nil]) (not_remote_of_inMemory hmem),
      homeRead_of_inMemory hmem]
  · obtain ⟨hc, hspec, hsb⟩ := hplain
    have hreach := lanesReach_of_forall hlen fun k p hp hk => (h k p hp hk).2
    have hmem : ∀ e ∈ (laneEas (s.rS a) (s.rV o) sh.toNat).zip ps, InMemory e.2 := fun e he => by
      obtain ⟨k, hk, hp⟩ := List.getElem_of_mem (List.of_mem_zip he).2
      exact (h k e.2 (hp ▸ List.getElem?_eq_getElem hk) (by omega)).1
    refine ⟨_, s.localLanes (unforwarded ((laneEas (s.rS a) (s.rV o) sh.toNat).zip ps) 0) 0, (s.swarm_of_thread hc _).trans ?_, queued_longV _ _ _, fun k p hp => ?_⟩
    · rw [lanes_of_reach hreach (by rintro rfl; cases hlen), unspecAll_of_plain hc hspec, gather_of_inMemory hspec hsb v hmem]
    · have hk : k < 8 := hlen ▸ (List.getElem?_eq_some_iff.mp hp).1
      have hzip : ((laneEas (s.rS a) (s.rV o) sh.toNat).zip ps)[k]? = some (_, p) :=
        List.getElem?_zip_eq_some.mpr ⟨laneEas_getElem? _ _ _ hk, hp⟩
      have hlane := lane_localLanes (s := s) _ 0 k 0 hzip (by omega)
      rw [Nat.zero_add] at hlane
      rw [hlane, homeRead_of_inMemory (h k p hp hk).1]
      exact (congrArg (· ||| _) BitVec.extractLsb'_zero).trans BitVec.zero_or

end Sys2Proof.Claims
end

section
/-!
PROOFS. The store buffer (R113, R118, R119, R127, R130 to R134): forms that enter stores or wait for room, st.rel and the fences that wait
for what is before them, and the report of a lost link.
-/
namespace Sys2Proof.Claims
open Sys2Proof.Machine

variable {s : State} {g : Nat}

/-! ## Entering the buffer (R113) -/

theorem buffer_buffered (hc : s.cur = .thread g) {es : List SbEntry} (hroom : (s.thread g).sb.length + es.length ≤ 16) :
    ∃ t, s.buffer g es = .next t ∧ Buffered s t g es := by
  obtain ⟨-, h⟩ | ⟨hfull, -⟩ := s.buffer_cases g es
  · exact ⟨_, h, threadOnly_modThread hc rfl⟩
  · omega

theorem buffer_waits (hc : s.cur = .thread g) {es : List SbEntry} (hfull : (s.thread g).sb.length + es.length > 16) :
    ∃ t, s.buffer g es = .next t ∧ WaitsAtIssue s t g := by
  obtain ⟨hroom, -⟩ | ⟨-, h⟩ := s.buffer_cases g es
  · omega
  · rw [h]
    exact wait_waitsAtIssue hc

theorem sbEntry_of_lt {va : Word} {n x : Nat} {kind : SbKind} {p : Phys} (hx : x < 2 ^ (8 * n)) : sbEntry va n kind x p = entry va n kind x p := by
  rw [sbEntry, Nat.mod_eq_of_lt hx, entry]

/-! ## Stores (R118, R119) -/

section
variable (hc : s.cur = .thread g) (hspec : (s.thread g).spec = false)
include hc hspec

theorem storeN_of_reaches {ea : Word} {n : Nat} {p : Phys} (hr : Reaches s g ea n n false true .any p) (x : Nat) :
    s.storeN ea n x = s.buffer g [sbEntry ea n .plain x p] := by
  rw [State.storeN, s.swarm_of_thread hc, hr.access, unspec_of_plain hc hspec, s.stores_of_plain hspec]

/-- A store form enters one entry. -/
theorem exec_of_storeOf {i : Instr} {ea : Word} {x n : Nat} {p : Phys} (h : storeOf i s = some (ea, x, n))
    (hr : Reaches s g ea n n false true .any p) : exec i s = s.buffer g [entry ea n .plain x p] := by
  unfold storeOf at h
  split at h
  case h_6 => cases h
  all_goals
    cases h
    rw [eaOf_eq_ea] at hr ⊢
    refine (storeN_of_reaches hc hspec hr _).trans ?_
  -- std and vst store whole registers
  case h_4 => rw [sbEntry_of_lt (BitVec.isLt _)]
  case h_5 => rw [sbEntry_of_lt (BitVec.isLt _)]
  all_goals rfl

/-- The entries of a vscatter, in lane order. -/
def scattered (eas : List Word) (x : VWord) (ps : List Phys) : List SbEntry :=
  (List.range 8).map fun i => sbEntry (eas.getD i 0) 4 .plain (lane x i).toNat (ps.getD i { pa := 0, home := .dram, sw := false })

omit hc hspec in
theorem scattered_length (eas : List Word) (x : VWord) (ps : List Phys) : (scattered eas x ps).length = 8 := by simp [scattered]

omit hc hspec in
theorem scattered_getElem? {eas : List Word} {x : VWord} {ps : List Phys} {k : Nat} {ea : Word} {p : Phys} (hk : k < 8)
    (hea : eas[k]? = some ea) (hp : ps[k]? = some p) : (scattered eas x ps)[k]? = some (entry ea 4 .plain (lane x k).toNat p) := by
  rw [scattered, List.getElem?_map, List.getElem?_range hk, Option.map_some, List.getD_eq_getElem?_getD, List.getD_eq_getElem?_getD, hea, hp]
  exact congrArg some (sbEntry_of_lt (BitVec.isLt _))

theorem exec_vscatter {v o : VReg} {a : SReg} {sh : BitVec 2} {ps : List Phys} (hlen : ps.length = 8)
    (hr : LanesReach s g false true (laneEas (s.rS a) (s.rV o) sh.toNat) ps) :
    exec (.vscatter v a o sh) s = s.buffer g (scattered (laneEas (s.rS a) (s.rV o) sh.toNat) (s.rV v) ps) := by
  refine (s.swarm_of_thread hc _).trans ?_
  rw [lanes_of_reach hr (by rintro rfl; cases hlen), unspecAll_of_plain hc hspec, s.stores_of_plain hspec]
  rfl

end

/-- Settles O9: a store form is its entries, which the buffer takes when it has room. -/
theorem storesEnterTheBuffer : Obligations.StoresEnterTheBuffer := by
  refine ⟨⟨fun i s g ea x n p h hc hspec hroom hr => ?_, fun s g v o a sh ps hc hspec hroom hlen hr => ?_⟩,
    fun i s g ea x n p h hc hspec hfull hr => ?_, fun s g v o a sh ps hc hspec hfull hlen hr => ?_⟩
  · rw [exec_of_storeOf hc hspec h hr]
    exact buffer_buffered hc hroom
  · obtain ⟨t, ht, hbuf⟩ := buffer_buffered hc (es := scattered (laneEas (s.rS a) (s.rV o) sh.toNat) (s.rV v) ps)
      (by rw [scattered_length]; omega)
    refine ⟨t, _, (exec_vscatter hc hspec hlen (lanesReach_of_forall hlen hr)).trans ht, hbuf, scattered_length _ _ _, fun k p hp => ?_⟩
    have hk : k < 8 := hlen ▸ (List.getElem?_eq_some_iff.mp hp).1
    exact scattered_getElem? hk (laneEas_getElem? _ _ _ hk) hp
  · rw [exec_of_storeOf hc hspec h hr]
    exact buffer_waits hc (Nat.lt_succ_of_le hfull)
  · rw [exec_vscatter hc hspec hlen (lanesReach_of_forall hlen hr)]
    exact buffer_waits hc (by rw [scattered_length]; omega)

/-! ## The report of a lost link (R134) -/

theorem trapThread_of_canTrap (h : CanTrap s g) (cause : BitVec 8) (ev : Word) (slotB : Bool) :
    s.trapThread g cause ev slotB = (trapEntered (windowsClosed s g) g cause ev slotB false).taken := by
  obtain ⟨hc, hspec, hpend, hf⟩ := h
  rw [trapThread_of_sound hspec (by rw [hpend]; rfl) (by rw [hpend]; rfl),
    trapEntry_of_fetch (s := windowsClosed s g) hc (by rw [windowsClosed_fetchBad hc, hf])]

theorem reportLink_of_none (h : (s.thread g).lkl = none) (k : Out) : s.reportLink g k = k := by rw [State.reportLink, h]

/-- A form that reports a recorded failure traps, and the record is gone. -/
theorem reportLink_tookTrap (h : CanTrap s g) {port : BitVec 4} (hl : (s.thread g).lkl = some port) (k : Out) :
    ∃ t, s.reportLink g k = .next t ∧ TookTrap s t g cLINK_LOST (port.setWidth 64) false ∧ (t.thread g).lkl = none := by
  obtain ⟨hc, hspec, hpend, hf⟩ := h
  have hrest := sameRest_iss s { s.iss with report := true }
  have hcan : CanTrap { s with iss := { s.iss with report := true } } g := ⟨hc, hspec, hpend, (hrest.fetchBad _ _ _).trans hf⟩
  have htook := tookTrap_trapThread hcan (cause := cLINK_LOST) (ev := port.setWidth 64) (slotB := false)
  refine ⟨_, ?_, { htook with rest := hrest.trans htook.rest }, ?_⟩
  · rw [State.reportLink, hl]
    exact State.raise_thread { s with iss := { s.iss with report := true } } hc _ _ _
  · rw [trapThread_of_canTrap hcan, State.taken_thread, trapEntered_thread]
    rfl

/-! ## Far reductions and st.rel (R127, R132) -/

section
variable (hc : s.cur = .thread g) (hspec : (s.thread g).spec = false)
include hc hspec

/-- A far reduction enters one entry. -/
theorem exec_of_redOf {i : Instr} {ea : Word} {x n : Nat} {k : SbKind} {p : Phys} (h : redOf i s = some (ea, n, x, k))
    (hr : Reaches s g ea n n false true .atomic p) : exec i s = s.buffer g [entry ea n k x p] := by
  have hred (a b : SReg) (w u : Bool) (op : RedOp) (hr : Reaches s g (s.rS a) (if w then 4 else 8) (if w then 4 else 8) false true .atomic p) :
      s.red a b w u op = s.buffer g [sbEntry (s.rS a) (if w then 4 else 8) (.red op w u) (s.rS b).toNat p] := by
    rw [State.red, s.swarm_of_thread hc, s.plainly_of_plain hc hspec]
    exact hr.access _
  unfold redOf at h
  split at h
  case h_8 => cases h
  all_goals
    cases h
    exact hred _ _ _ _ _ hr

theorem exec_stRel {d a : SReg} {imm : Imm} {p : Phys} (hl : (s.thread g).lkl = none) (hr : Reaches s g (eaOf s a imm) 8 8 false true .ordered p) :
    exec (.stRel d a imm) s =
      if s.drained g && !s.ownsLock g then s.buffer g [entry (eaOf s a imm) 8 .rel (s.rS d).toNat p] else s.wait := by
  refine (s.swarm_of_thread hc _).trans ?_
  rw [s.plainly_of_plain hc hspec, reportLink_of_none hl]
  dsimp only
  rw [← eaOf_eq_ea, hr.access, sbEntry_of_lt (s.rS d).isLt]

omit hc hspec in
theorem drained_iff : s.drained g = true ↔ (s.thread g).sb = [] ∧ (s.thread g).ctx.pend.any Pending.flying = false := by
  simp [State.drained]

end

/-- Settles O10: the forms by what they enter, wait for and report. -/
theorem reductionsAndReleaseEnterTheBuffer : Obligations.ReductionsAndReleaseEnterTheBuffer := by
  refine ⟨fun i s g ea x n k p h hc hspec hroom hr => ?_, fun s g d a imm p hplain hl hfly hlock hr => ?_,
    fun s g d a imm p hc hspec hl hr hbefore => ?_, fun s g d a imm port hcan hl => ?_⟩
  · rw [exec_of_redOf hc hspec h hr]
    exact buffer_buffered hc hroom
  · obtain ⟨hc, hspec, hsb⟩ := hplain
    rw [exec_stRel hc hspec hl hr, if_pos (by simp [drained_iff.mpr ⟨hsb, hfly⟩, hlock])]
    exact buffer_buffered hc (by simp [hsb])
  · have hnot : (s.drained g && !s.ownsLock g) = false := by
      obtain h | h | h := hbefore <;> simp [State.drained, h]
    rw [exec_stRel hc hspec hl hr, hnot]
    exact wait_waitsAtIssue hc
  · obtain ⟨hc, hspec, -⟩ := id hcan
    have hexec : exec (.stRel d a imm) s = s.reportLink g _ := (s.swarm_of_thread hc _).trans (s.plainly_of_plain hc hspec _)
    rw [hexec]
    exact reportLink_tookTrap hcan hl _

/-! ## Fences and prefetches (R120, R130) -/

section
variable (hc : s.cur = .thread g) (hspec : (s.thread g).spec = false)
include hc hspec

theorem exec_fence_thread : exec (.fence .thread) s = .next s := (s.swarm_of_thread hc _).trans (s.plainly_of_plain hc hspec _)

/-- A fence beyond thread scope waits until the thread is drained, once it has nothing to report. -/
theorem exec_fence {sc : Scope} (hsc : sc ≠ .thread) (hl : sc = .system → (s.thread g).lkl = none) :
    exec (.fence sc) s = if s.drained g then .next s else s.wait := by
  refine (s.swarm_of_thread hc _).trans ((s.plainly_of_plain hc hspec _).trans ?_)
  cases sc with
  | thread => exact absurd rfl hsc
  | system => exact reportLink_of_none (hl rfl) _
  | core | block | field | device => rfl

theorem exec_pf (a : SReg) (imm : Imm) : exec (.pf a imm) s = .next s := by
  refine (s.swarm_of_thread hc _).trans ?_
  split
  · rw [unspec_of_plain hc hspec, if_neg (by simp [hspec])]
  · rfl
  · rfl

end

/-- Settles O15: a fence by its scope and by what is before it; a prefetch by what its check answers. -/
theorem fenceAndPrefetch : Obligations.FenceAndPrefetch := by
  refine fun s g sc a imm hc hspec => ⟨?_, fun hsc hl hbefore => ?_, fun port hcan hl => ?_, exec_pf hc hspec a imm⟩
  · by_cases hsc : sc = .thread
    · subst hsc
      exact fun _ => exec_fence_thread hc hspec
    · rintro (h | ⟨hsb, hfly, hl⟩)
      · exact absurd h hsc
      · rw [exec_fence hc hspec hsc hl, if_pos (drained_iff.mpr ⟨hsb, hfly⟩)]
  · have hnot : s.drained g = false := by obtain h | h := hbefore <;> simp [State.drained, h]
    rw [exec_fence hc hspec hsc hl, hnot]
    exact wait_waitsAtIssue hc
  · have hexec : exec (.fence .system) s = s.reportLink g _ := (s.swarm_of_thread hc _).trans (s.plainly_of_plain hc hspec _)
    rw [hexec]
    exact reportLink_tookTrap hcan hl _

end Sys2Proof.Claims
end

section
/-!
PROOFS. Write events and atomics (R113, R121, R126, R360): one write at a home of this device or of the host, the oldest entry of a store
buffer, and the atomics.
-/
namespace Sys2Proof.Claims
open Sys2Proof.Machine

variable {s t u : State} {g : Nat}

/-! ## The watch of a write (R360) -/

theorem writeKept_watch (sw : Bool) (va pa n : Nat) : WriteKept s (s.watch sw va pa n) := by
  unfold State.watch
  dsimp only
  split
  · exact .rfl
  split
  · exact (writeKept_watchWord sw va).trans (writeKept_staleWhere _)
  · exact writeKept_watchWord sw va

theorem watch_byte {sw : Bool} {va pa n x : Nat} (h : ¬ Watched s sw va x) : Memory.byte (s.watch sw va pa n).mem x = Memory.byte s.mem x := by
  unfold State.watch
  dsimp only
  split
  · rfl
  split
  · exact watchWord_byte h
  · exact watchWord_byte h

theorem watch_plain_thread (va pa n h : Nat) : (s.watch false va pa n).thread h = s.thread h := by
  unfold State.watch State.watchWord
  dsimp only
  split
  · rfl
  split <;> rfl

/-! ## One write event (R113) -/

/-- A write through no watch page, on a state that watch steps have made: what it leaves, seen from the state before them. -/
theorem wroteThrough_of_write {vas : List Nat} {v : State} {pa : Nat} {l : List Byte} (hmail : ∀ a, v.mailByte a = s.mailByte a)
    (hv : ∀ x, (∀ va ∈ vas, ¬ Watched s true va x) → Memory.byte v.mem x = Memory.byte s.mem x)
    (hu : ∀ x, (∀ va ∈ vas, ¬ Watched s true va x) → Memory.byte u.mem x = Memory.byte s.mem x)
    (hmem : t.mem = Memory.write u.mem pa (v.shielded pa l)) : WroteThrough s t vas pa l := by
  have hget := shielded_getElem? (s := v) pa l
  refine ⟨fun k b hk hma => ?_, fun k hk hma hw => ?_, fun a ha hw => ?_⟩
  · rw [hmem]
    exact Memory.byte_write _ _ _ _ _ (by rw [hget, hk, hmail, hma]; rfl)
  · rw [hmem, ← hv _ hw]
    exact Memory.byte_write _ _ _ _ _ (by rw [hget, List.getElem?_eq_getElem hk, hmail, hma]; rfl)
  · rw [hmem, Memory.byte_write_other _ _ _ _ (by rwa [shielded_length]), hu a hw]

section
variable {p : Phys} {by_ : Option Nat} {task : Option (Nat × Nat)} {va : Nat} {l : List Byte}
variable (hhome : p.home ≠ .regs) (hcalm : Calm s p.pa l.length)
include hhome hcalm

theorem performWrite_eq : s.performWrite by_ task p va l =
    (((s.watch p.sw va p.pa l.length).noteWrite by_ task p.pa l.length).poke p.pa (s.shielded p.pa l)).forgetMail
      fun a => decide (p.pa ≤ a) && decide (a < p.pa + l.length) := by
  unfold State.performWrite State.writeAt
  split
  next h => exact absurd h hhome
  all_goals simp only [shielded_length, endSync_of_calm hcalm]

theorem performWrite_mem : (s.performWrite by_ task p va l).mem = Memory.write (s.watch p.sw va p.pa l.length).mem p.pa (s.shielded p.pa l) := by
  rw [performWrite_eq hhome hcalm, State.forgetMail_mem, State.poke_mem, State.noteWrite_mem]

theorem performWrite_kept : WriteKept s (s.performWrite by_ task p va l) := by
  rw [performWrite_eq hhome hcalm]
  exact (((writeKept_watch _ _ _ _).trans (writeKept_noteWrite _ _ _ _)).trans (writeKept_poke _ _)).trans (writeKept_forgetMail _)

/-- One write event leaves its bytes, and changes a watch word beside them (R360). -/
theorem performWrite_wrote : WroteBytes s (s.performWrite by_ task p va l) p.sw va p.pa l := by
  refine wroteThrough_of_write (v := s) (fun _ => rfl) (fun _ _ => rfl) (fun x hx => watch_byte fun hw => ?_) (performWrite_mem hhome hcalm)
  obtain ⟨hsw, hrest⟩ := id hw
  rw [hsw] at hx
  exact hx va (List.mem_singleton_self va) ⟨rfl, hrest⟩

/-- Through a page without the sparse-watch bit, the reservations that go are those on the lines written (R121). -/
theorem performWrite_thread (hsw : p.sw = false) (h : Nat) :
    (s.performWrite by_ task p va l).thread h = loseResv by_ p.pa l.length h (s.thread h) := by
  rw [performWrite_eq hhome hcalm, forgetMail_keeps (fun t => t.thread h) fun _ _ => rfl]
  refine (noteWrite_thread by_ task _ _ h).trans ?_
  rw [hsw, watch_plain_thread]

end

/-- What a write leaves and what a thread then does to itself alone. -/
theorem threadsKept_of_write {f : Thread → Thread} (hw : WriteKept s t) (hg : { u.thread g with resv := [] } = { f (s.thread g) with resv := [] })
    (hother : ∀ h, h ≠ g → u.thread h = t.thread h) : ThreadsKept s u g f := by
  intro h
  by_cases hh : h = g
  · subst hh
    rw [if_pos rfl, hg]
  · rw [if_neg hh, hother h hh, hw.thread]

/-! ## Atomics (R126) -/

theorem amoResult_eq_scalarOf {w uns : Bool} {old : Nat} (h : old < 2 ^ (8 * if w then 4 else 8)) :
    amoResult (if w then 4 else 8) uns old = scalarOf (if w then 4 else 8) (decide ((if w then 4 else 8) = 4) && !uns) old := by
  cases w with
  | false => exact wd_eq_scalarOf 8 old
  | true => exact extend_eq_scalarOf (n := 4) (!uns) (by decide) h

/-- The state after an atomic's one step at its home, before its result is entered. -/
def amoWrote (s : State) (g n : Nat) (p : Phys) (ea : Word) (new : Option Nat) : State :=
  match new with
  | none => s
  | some x => s.performWrite (some g) none p ea.toNat (leBytes n x)

/-- Each atomic form is the shared read-modify-write with its own new value. -/
theorem exec_eq_amo {i : Instr} {d a : SReg} {n : Nat} {uns : Bool} {f : Nat → Option Nat} (h : amoOf i s = some (d, a, n, uns, f)) :
    ∃ b w code new, n = (if w then 4 else 8) ∧ exec i s = s.amo d a b w uns code new ∧
      ∀ old, new old ((s.rS b).toNat % 2 ^ (8 * n)) = f old := by
  unfold amoOf at h
  split at h
  case h_9 => cases h
  case h_1 d a b w =>
    cases h
    exact ⟨b, w, _, _, rfl, Eq.refl (execAmoAdd d a b w s), fun _ => rfl⟩
  case h_2 d a b w =>
    cases h
    exact ⟨b, w, _, _, rfl, Eq.refl (execAmoSwap d a b w s), fun _ => rfl⟩
  case h_3 d a b w =>
    cases h
    exact ⟨b, w, 2, fun old x => if old = (s.rS d).toNat % 2 ^ (8 * if w then 4 else 8) then some x else none, rfl, rfl, fun _ => rfl⟩
  case h_4 d a b w u =>
    cases h
    exact ⟨b, w, _, _, rfl, Eq.refl (execAmoMin d a b w uns s), fun _ => rfl⟩
  case h_5 d a b w u =>
    cases h
    exact ⟨b, w, _, _, rfl, Eq.refl (execAmoMax d a b w uns s), fun _ => rfl⟩
  case h_6 d a b w =>
    cases h
    exact ⟨b, w, _, _, rfl, Eq.refl (execAmoAnd d a b w s), fun _ => rfl⟩
  case h_7 d a b w =>
    cases h
    exact ⟨b, w, _, _, rfl, Eq.refl (execAmoOr d a b w s), fun _ => rfl⟩
  case h_8 d a b w =>
    cases h
    exact ⟨b, w, _, _, rfl, Eq.refl (execAmoXor d a b w s), fun _ => rfl⟩

/-- An atomic form of a drained thread reads its word and writes what its form gives. -/
theorem exec_of_amoOf {i : Instr} {d a : SReg} {n : Nat} {uns : Bool} {f : Nat → Option Nat} {p : Phys}
    (h : amoOf i s = some (d, a, n, uns, f)) (hplain : Plain s g) (hfly : (s.thread g).ctx.pend.any Pending.flying = false)
    (hhome : p.home = .dram) (hr : Reaches s g (s.rS a) n n true true .atomic p) :
    exec i s = .next ((amoWrote s g n p (s.rS a) (f (memNat s.mem p.pa n))).longS d
      (scalarOf n (n = 4 && !uns) (memNat s.mem p.pa n))) := by
  obtain ⟨hc, hspec, hsb⟩ := hplain
  obtain ⟨b, w, code, new, rfl, hexec, hnew⟩ := exec_eq_amo h
  rw [hexec, State.amo, s.swarm_of_thread hc, s.plainly_of_plain hc hspec]
  dsimp only
  rw [hr.access, if_neg (by simp [drained_iff.mpr ⟨hsb, hfly⟩]), hhome]
  dsimp only
  rw [homeRead_of_inMemory (.inl hhome), hnew, amoResult_eq_scalarOf (memNat_lt_two_pow _ _ _)]
  rfl

theorem amoWrote_kept {n : Nat} {p : Phys} (hhome : p.home = .dram) (hcalm : Calm s p.pa n) (ea : Word) (new : Option Nat) :
    WriteKept s (amoWrote s g n p ea new) := by
  cases new with
  | none => exact .rfl
  | some x => exact performWrite_kept (by simp [hhome]) (by rwa [leBytes_length])

theorem longS_threadsKept {d : SReg} {x : Word} (hc : s.cur = .thread g) (hw : WriteKept s t) :
    ThreadsKept s (t.longS d x) g fun th => { th with ctx := { th.ctx with pend := th.ctx.pend ++ [arrived s d x] } } := by
  have hcur : t.cur = .thread g := hw.cur.trans hc
  have hgot : arrived t d x = arrived s d x := by rw [arrived, hw.iss, arrived]
  refine threadsKept_of_write hw ?_ fun h hne => longS_thread_other hcur d x hne
  have hthread := hw.thread g
  rw [State.longS, State.long, State.setCtx_thread, if_pos hcur, ctx_of_thread hcur, ← hgot]
  exact congrArg (fun th : Thread => { th with ctx := { th.ctx with pend := th.ctx.pend ++ [arrived t d x] } }) hthread

/-- Settles O11: an atomic is one write of its new value, and a long result of the old. -/
theorem atomicsAreOneStep : Obligations.AtomicsAreOneStep := by
  intro i s g d a n uns f p h hplain hfly hhome hcalm hr
  obtain ⟨hc, -, -⟩ := id hplain
  refine ⟨_, exec_of_amoOf h hplain hfly hhome hr, ?_, longS_threadsKept hc (amoWrote_kept hhome hcalm _ _)⟩
  split
  next hnone => rw [hnone, State.longS_mem, amoWrote]
  next new hsome =>
    rw [hsome]
    have hwrote := performWrite_wrote (s := s) (by_ := some g) (task := none) (va := (s.rS a).toNat) (l := leBytes n new)
      (p := p) (by simp [hhome]) (by rwa [leBytes_length])
    rwa [WroteBytes, WroteThrough, State.longS_mem]

/-! ## The oldest entry (R113) -/

theorem entryBytes_of_plain {e : SbEntry} (h : e.kind = .plain ∨ e.kind = .rel) : s.entryBytes e = leBytes e.size e.data.toNat := by
  obtain h | h := h <;> rw [State.entryBytes, h]

theorem exec_storePerform {e : SbEntry} {l : List SbEntry} (hsb : (s.thread g).sb = e :: l) (hsent : e.sent = false)
    (hkind : e.kind = .plain ∨ e.kind = .rel) (hhome : e.phys.home = .dram ∨ e.phys.home = .aperture) (hedge : s.atEdge e.phys = none)
    (hsaved : s.beingSaved g = false) : exec (.storePerform g) s = .next (s.performEntry g e) := by
  change execStorePerform g s = _
  rw [execStorePerform, hsb]
  dsimp only
  rw [hsent, hsaved]
  obtain h | h := hhome <;> obtain h' | h' := hkind <;> simp [h, h', State.edge, hedge]

/-- An entry performed at a home of memory: its bytes, and the buffer without it. -/
theorem performEntry_performed {e : SbEntry} {l : List SbEntry} (hsb : (s.thread g).sb = e :: l) (hkind : e.kind = .plain ∨ e.kind = .rel)
    (hhome : e.phys.home ≠ .regs) (hcalm : Calm s e.phys.pa e.size) :
    WroteBytes s (s.performEntry g e) e.phys.sw e.va.toNat e.phys.pa (leBytes e.size e.data.toNat) ∧
    ThreadsKept s (s.performEntry g e) g fun th => { th with sb := l } := by
  have hcalm' : Calm s e.phys.pa (leBytes e.size e.data.toNat).length := by rwa [leBytes_length]
  rw [State.performEntry, entryBytes_of_plain hkind]
  have hkept := performWrite_kept (by_ := some g) (task := none) (va := e.va.toNat) hhome hcalm'
  refine ⟨performWrite_wrote hhome hcalm', threadsKept_of_write hkept ?_ fun h hne => State.modThread_other _ _ _ _ hne⟩
  rw [State.popStore, State.modThread_same]
  refine (congrArg (fun th : Thread => { th with sb := th.sb.drop 1 }) (hkept.thread g)).trans ?_
  rw [hsb]
  rfl

theorem atEdge_of_dram {p : Phys} (h : p.home = .dram) : s.atEdge p = none := if_neg (by simp [h])

/-- The reservations after an entry has been performed through a page without the sparse-watch bit. -/
theorem performEntry_resv {e : SbEntry} (hkind : e.kind = .plain ∨ e.kind = .rel) (hhome : e.phys.home ≠ .regs) (hsw : e.phys.sw = false)
    (hcalm : Calm s e.phys.pa e.size) (h : Nat) :
    ((s.performEntry g e).thread h).resv = (loseResv (some g) e.phys.pa e.size h (s.thread h)).resv := by
  have hthread := performWrite_thread (s := s) (by_ := some g) (task := none) (va := e.va.toNat) (l := leBytes e.size e.data.toNat) hhome
    (by rwa [leBytes_length]) hsw
  rw [leBytes_length] at hthread
  rw [State.performEntry, entryBytes_of_plain hkind, ← hthread h, State.popStore]
  by_cases hh : h = g
  · subst hh
    rw [State.modThread_same]
  · rw [State.modThread_other _ _ _ _ hh]

/-- Settles O12: the oldest entry is one write by its thread. -/
theorem oldestStoreIsPerformed : Obligations.OldestStoreIsPerformed := by
  refine ⟨fun s g e l hsb hsent hkind hhome hedge hsaved hcalm => ?_, fun s g h e l r hsb hsent hkind hhome hsize hsw hwt hsaved hcalm => ?_⟩
  · exact ⟨_, exec_storePerform hsb hsent hkind hhome hedge hsaved,
      performEntry_performed hsb hkind (by obtain h | h := hhome <;> simp [h]) hcalm⟩
  · have hresv := performEntry_resv (s := s) (g := g) (.inl hkind) (by simp [hhome]) hsw hcalm
    refine ⟨_, exec_storePerform hsb hsent (.inl hkind) (.inl hhome) (atEdge_of_dram hhome) hsaved, ?_, fun hne hr hlow hhigh => ?_⟩
    · rw [hresv, loseResv, if_pos rfl]
    · rw [hresv, loseResv, if_neg fun he => hne (Option.some.inj he).symm]
      exact List.mem_map.mpr ⟨r, hr, if_pos (by simp [touches, hlow, hhigh])⟩

end Sys2Proof.Claims
end

section
/-!
PROOFS. Stores to host memory and combining windows (R338, R360, R366, R367): what a host's acknowledgement performs, and what the end of
a window of reductions or of loads performs.
-/
namespace Sys2Proof.Claims
open Sys2Proof.Machine

variable {s t : State} {g b : Nat}

/-! ## Stores to host memory (R134, R338) -/

section
variable {e : SbEntry} {l : List SbEntry} (hsb : (s.thread g).sb = e :: l) (hhome : e.phys.home = .host)
include hsb hhome

theorem exec_storePerform_host (hsent : e.sent = false) (hsaved : s.beingSaved g = false) :
    exec (.storePerform g) s = .next (s.markSent g) := by
  change execStorePerform g s = _
  rw [execStorePerform, hsb]
  dsimp only
  rw [hsent, hsaved, hhome]
  rfl

theorem exec_remoteAck (hsent : e.sent = true) (delivered : Bool) (port : BitVec 4) :
    exec (.remoteAck g delivered port) s = .next (if delivered then s.performEntry g e else s.storeAcked g false port) := by
  change execRemoteAck g delivered port s = _
  rw [execRemoteAck, hsb]
  exact if_pos ⟨hsent, hhome⟩

end

theorem markSent_sb {e : SbEntry} {l : List SbEntry} (hsb : (s.thread g).sb = e :: l) :
    ((s.markSent g).thread g).sb = { e with sent := true } :: l := by
  rw [State.markSent, State.modThread_same, hsb]

/-- A store whose delivery failed leaves the buffer and its port. -/
theorem storeAcked_lost (port : BitVec 4) : (s.storeAcked g false port).thread g =
    { s.thread g with sb := (s.thread g).sb.drop 1, lkl := some ((s.thread g).lkl.getD port) } := by
  rw [State.storeAcked, if_neg Bool.false_ne_true, State.popStore, State.modThread_same, State.modThread_same]
  rfl

/-! ## The watch steps of a window's members (R360, R367) -/

theorem watchWord_mailByte (sw : Bool) (va a : Nat) : (s.watchWord sw va).mailByte a = s.mailByte a := by
  unfold State.watchWord
  dsimp only
  split <;> rfl

theorem watched_watchWord (sw sw' : Bool) (va va' a : Nat) : Watched (s.watchWord sw va) sw' va' a ↔ Watched s sw' va' a := by
  unfold State.watchWord
  dsimp only
  split <;> exact Iff.rfl

theorem noteWrite_wins (by_ : Option Nat) (task : Option (Nat × Nat)) (pa n : Nat) :
    ((s.noteWrite by_ task pa n).blk b).wins = (s.blk b).wins := by rw [noteWrite_blk]

theorem watchWord_wins (sw : Bool) (va : Nat) : ((s.watchWord sw va).blk b).wins = (s.blk b).wins := by
  unfold State.watchWord
  dsimp only
  split
  · exact noteWrite_wins (s := s.pokeN _ _ _) none none _ 8
  · rfl

theorem watch_wins (sw : Bool) (va pa n : Nat) : ((s.watch sw va pa n).blk b).wins = (s.blk b).wins := by
  unfold State.watch
  dsimp only
  split
  · rfl
  split
  · exact watchWord_wins sw va
  · exact watchWord_wins sw va

/-- The watch steps of several addresses. -/
def watchAll (s : State) (vas : List Nat) : State := vas.foldl (fun s va => s.watchWord true va) s

theorem writeKept_watchAll : ∀ (vas : List Nat) (s : State), WriteKept s (watchAll s vas)
  | [], _ => .rfl
  | va :: vas, _ => (writeKept_watchWord true va).trans (writeKept_watchAll vas _)

theorem watchAll_mailByte (a : Nat) : ∀ (vas : List Nat) (s : State), (watchAll s vas).mailByte a = s.mailByte a
  | [], _ => rfl
  | va :: vas, _ => (watchAll_mailByte a vas _).trans (watchWord_mailByte true va a)

theorem watchAll_wins : ∀ (vas : List Nat) (s : State), ((watchAll s vas).blk b).wins = (s.blk b).wins
  | [], _ => rfl
  | va :: vas, _ => (watchAll_wins vas _).trans (watchWord_wins true va)

theorem watchAll_byte {x : Nat} : ∀ (vas : List Nat) (s : State), (∀ va ∈ vas, ¬ Watched s true va x) →
    Memory.byte (watchAll s vas).mem x = Memory.byte s.mem x
  | [], _, _ => rfl
  | va :: vas, s, h => by
    obtain ⟨hva, hvas⟩ := List.forall_mem_cons.mp h
    exact (watchAll_byte vas (s.watchWord true va) fun va' hmem => by rw [watched_watchWord]; exact hvas va' hmem).trans
      (watchWord_byte hva)

/-! ## The end of a window of reductions (R367) -/

theorem popStores_mem : ∀ (who : List Nat) (s : State), (who.foldl (fun s g => s.popStore g) s).mem = s.mem
  | [], _ => rfl
  | _ :: who, _ => popStores_mem who _

theorem popStores_blk : ∀ (who : List Nat) (s : State), (who.foldl (fun s g => s.popStore g) s).blk b = s.blk b
  | [], _ => rfl
  | _ :: who, _ => popStores_blk who _

/-- What a window of reductions leaves at its word. -/
def winBytes (s : State) (w : CombWin) : List Byte :=
  leBytes (if w.w32 then 4 else 8) (redValue w.op (if w.w32 then 4 else 8) w.uns
    (memNat s.mem w.phys.pa (if w.w32 then 4 else 8)) w.val.toNat)

/-- The one write event of a window, behind the watch steps of its members' addresses. -/
theorem closeWin_performed {w : CombWin} (hhome : w.phys.home = .dram) (hcalm : Calm s w.phys.pa (if w.w32 then 4 else 8)) :
    WroteThrough s (s.closeWin w) w.sws w.phys.pa (winBytes s w) ∧ ((s.closeWin w).blk b).wins = (s.blk b).wins := by
  have hhome' : { w.phys with sw := false }.home ≠ .regs := by simp [hhome]
  have hcalm' : Calm (watchAll s w.sws) w.phys.pa (winBytes s w).length := by
    rw [winBytes, leBytes_length]
    exact (writeKept_watchAll _ _).calm hcalm
  obtain ⟨by_, heq⟩ : ∃ by_, s.closeWin w = w.who.foldl (fun s g => s.popStore g)
      ((watchAll s w.sws).performWrite by_ none { w.phys with sw := false } w.va (winBytes s w)) := by
    rw [State.closeWin, homeRead_of_inMemory (.inl hhome)]
    exact ⟨_, rfl⟩
  have hmem := performWrite_mem (by_ := by_) (task := none) (va := w.va) hhome' hcalm'
  rw [watch_plain_mem] at hmem
  rw [heq, popStores_blk]
  refine ⟨wroteThrough_of_write (fun a => watchAll_mailByte a _ _) (fun x => watchAll_byte _ _) (fun x => watchAll_byte _ _)
    ((popStores_mem _ _).trans hmem), ?_⟩
  rw [performWrite_eq hhome' hcalm', forgetMail_keeps (fun t => (t.blk b).wins) fun _ _ => rfl]
  exact (noteWrite_wins by_ none _ _).trans ((watch_wins _ _ _ _).trans (watchAll_wins _ _))

/-! ## Readings beside a block's windows (R305, R366) -/

theorem any_of_get {α : Type} {d : α} {k : Nat} {P : Nat × α → Bool} : ∀ (t : Tab α), P (k, d) = false →
    P (k, Tab.get d t k) = true → t.any P = true
  | [], hd, h => by simp [Tab.get, hd] at h
  | (i, y) :: t, hd, h => by
    rw [Tab.get] at h
    rw [List.any_cons, Bool.or_eq_true]
    split at h
    next hik => exact .inl (hik ▸ h)
    next => exact .inr (any_of_get t hd h)

/-- A test that does not tell the new value of a key from the old one says the same of the table. -/
theorem any_set {α : Type} [DecidableEq α] {d x : α} {k : Nat} {P : Nat × α → Bool} (hx : x ≠ d) (hd : P (k, d) = false) :
    ∀ (t : Tab α), P (k, x) = P (k, Tab.get d t k) → (Tab.set d t k x).any P = t.any P
  | [], h => by simpa [Tab.set, hx, Tab.get, hd] using h
  | (i, y) :: t, h => by
    rw [Tab.set]
    split
    · rw [List.any_cons, h]
      by_cases hp : P (k, Tab.get d ((i, y) :: t) k) = true
      · rw [hp, any_of_get _ hd hp, Bool.or_true]
      · rw [Bool.not_eq_true] at hp
        rw [hp, Bool.false_or]
    rw [Tab.get] at h
    split
    next hik =>
      subst hik
      rw [if_pos rfl] at h
      rw [List.any_cons, List.any_cons, h]
    next hik =>
      rw [if_neg hik] at h
      rw [List.any_cons, List.any_cons, any_set hx hd t h]

section
variable {f : Blk → Blk} (hf : f (s.blk b) ≠ {}) (hports : (f (s.blk b)).ports = (s.blk b).ports)
  (hspare : (f (s.blk b)).spareMap = (s.blk b).spareMap)
include hf hports

theorem pwait_modBlk (fl : Nat) : (s.modBlk b f).pwait fl = s.pwait fl := by
  refine congrArg₂ Bool.or rfl (any_set hf rfl s.blks ?_)
  rw [hports]
  rfl

include hspare

theorem regWord_modBlk (fl off : Nat) : (s.modBlk b f).regWord fl off = s.regWord fl off := by
  have hmap : ∀ j, ((s.modBlk b f).blk j).spareMap = (s.blk j).spareMap := fun j => by
    by_cases hj : j = b
    · rw [hj, State.modBlk_same, hspare]
    · rw [State.modBlk_other _ _ _ _ hj]
  unfold State.regWord
  rw [pwait_modBlk hf hports]
  simp only [hmap]
  rfl

theorem regReadN_modBlk : ∀ (n pa : Nat), (s.modBlk b f).regReadN pa n = s.regReadN pa n
  | 0, _ => rfl
  | n + 1, pa => by
    rw [State.regReadN, State.regReadN, regReadN_modBlk n, State.regRead, State.regRead, regWord_modBlk hf hports hspare]

/-- A load reads what it would read before the change of a block that no register page shows. -/
theorem spanRead_modBlk (p : Phys) (n : Nat) : (s.modBlk b f).spanRead p n = s.spanRead p n := by
  have hread : ∀ q m, (s.modBlk b f).homeRead q m = s.homeRead q m := fun q m => by
    simp only [State.homeRead, State.regRead, regWord_modBlk hf hports hspare, regReadN_modBlk hf hports hspare]
    rfl
  simp only [State.spanRead, hread]

end

/-! ## The end of a window of loads (R119, R366) -/

/-- The state after a window of loads has left its block. -/
def lwinOut (s : State) (b j : Nat) : State := s.modBlk b fun x => { x with lwins := x.lwins.eraseIdx j }

/-- A window of one thread's load gives it the bytes that its word holds. -/
theorem exec_combineWindowExpiry_load {j : Nat} {w : LoadWin} {l : LoadMember} (hw : (s.blk b).lwins[j]? = some w)
    (hdue : w.at_ + 32 ≤ (s.blk b).cyc) (hwho : w.who = [l]) (hl : l.who = .inl g) :
    exec (.combineWindowExpiry b ((s.blk b).wins.length + j)) s =
      .next ((lwinOut s b j).pendDone g l.tok (BitVec.ofNat 256 (leNat (s.spanRead l.phys l.n))) none) := by
  have hread : (lwinOut s b j).spanRead l.phys l.n = s.spanRead l.phys l.n := by
    refine spanRead_modBlk (fun he => ?_) rfl rfl _ _
    have hcyc := congrArg Blk.cyc he
    change (s.blk b).cyc = 0 at hcyc
    omega
  change execCombineWindowExpiry b _ s = _
  rw [execCombineWindowExpiry, List.getElem?_eq_none (Nat.le_add_right ..)]
  dsimp only
  rw [Nat.add_sub_cancel_left, hw]
  dsimp only
  rw [if_neg (Nat.not_lt.mpr hdue), State.closeLoads, hwho, List.foldl_cons, List.foldl_nil, State.answerLoad, hl, State.memberValue]
  exact congrArg (fun r => Host.Outcome.next ((lwinOut s b j).pendDone g l.tok (BitVec.ofNat 256 (leNat r)) none)) hread

theorem pendGot_mem (tok : Nat) (x : VWord) (fault : Option (BitVec 8 × Word)) : (s.pendGot g tok x fault).mem = s.mem := rfl

/-- A load request is a member of a window of its block's router. -/
theorem joinLoad_member (l : LoadMember) : ∃ w ∈ ((s.joinLoad b l).blk b).lwins, l ∈ w.who := by
  rw [State.joinLoad, State.modBlk_same]
  split
  next hopen =>
    obtain ⟨w, hw, htakes⟩ := List.any_eq_true.mp hopen
    refine ⟨{ w with who := w.who ++ [l] }, List.mem_map.mpr ⟨w, hw, if_pos htakes⟩, by simp⟩
  next => exact ⟨_, List.mem_append_right _ (List.mem_singleton_self _), List.mem_singleton_self l⟩

/-- A gather's next lane that has missed too joins a window. -/
theorem runLanes_missed {tok k va : Nat} {p : Phys} {rest : List (Nat × Nat × Phys)} (hhome : p.home = .dram) :
    s.runLanes g tok true ((k, va, p) :: rest) =
      s.joinLoad (unitBlk g) { who := .inl g, tok := tok, va := va, phys := p, n := 4 } := by
  rw [State.runLanes, hhome]
  rfl

theorem pendDone_of_none {tok : Nat} {x : VWord} {fault : Option (BitVec 8 × Word)} (h : s.lanesLeft g tok = none) :
    s.pendDone g tok x fault = s.pendGot g tok x fault := by rw [State.pendDone, h]

theorem pendDone_of_lanes {tok : Nat} {x : VWord} {fault : Option (BitVec 8 × Word)} {l : List (Nat × Nat × Phys)} {miss : Bool}
    (h : s.lanesLeft g tok = some (l, miss)) : s.pendDone g tok x fault = (s.pendGot g tok x fault).runLanes g tok miss l := by
  rw [State.pendDone, h]

/-- Settles O13: a store to host memory by its stages, and a window by what it holds. -/
theorem systemStoresAndWindows : Obligations.SystemStoresAndWindows := by
  refine ⟨fun s g e l hsb hhome => ⟨fun hsent hsaved => ?_, fun hsent hkind hcalm port => ?_, fun hsent port => ?_⟩,
    fun s b i w hw hdue hhome hcalm => ?_, fun s b j g w l hw hdue hwho hl => ⟨fun hlanes => ?_, fun k va p rest hlanes hp => ?_⟩⟩
  · exact ⟨_, exec_storePerform_host hsb hhome hsent hsaved, rfl, markSent_sb hsb⟩
  · obtain ⟨hwrote, hkept⟩ := performEntry_performed hsb (.inl hkind) (by simp [hhome]) hcalm
    refine ⟨_, exec_remoteAck hsb hhome hsent true port, hwrote, ?_⟩
    have hg := congrArg Thread.sb (hkept g)
    rwa [if_pos rfl] at hg
  · refine ⟨_, exec_remoteAck hsb hhome hsent false port, rfl, ?_⟩
    simp [storeAcked_lost, hsb]
  · obtain ⟨hwrote, hwins⟩ := closeWin_performed (s := s.modBlk b fun x => { x with wins := x.wins.eraseIdx i }) (b := b) hhome hcalm
    refine ⟨_, ?_, hwrote, hwins.trans (by rw [State.modBlk_same])⟩
    change execCombineWindowExpiry b i s = _
    rw [execCombineWindowExpiry, hw]
    exact if_neg (Nat.not_lt.mpr hdue)
  · refine ⟨_, exec_combineWindowExpiry_load hw hdue hwho hl, ?_⟩
    rw [pendDone_of_none (s := lwinOut s b j) hlanes]
    have hblk : (lwinOut s b j).blk b = { s.blk b with lwins := (s.blk b).lwins.eraseIdx j } := State.modBlk_same _ _ _
    exact ⟨rfl, congrArg Blk.lwins hblk, pendGot_pend _ _⟩
  · refine ⟨_, exec_combineWindowExpiry_load hw hdue hwho hl, ?_⟩
    rw [pendDone_of_lanes (s := lwinOut s b j) hlanes, runLanes_missed hp]
    exact ⟨rfl, pendGot_pend _ _, joinLoad_member _⟩

end Sys2Proof.Claims
end

section
/-!
PROOFS. Reservations (R121 to R124, R360): the store of a rel.l through a sparse-watch page increments a watch word, and the thread's own
reservation on that word's line is lost with it.
-/
namespace Sys2Proof.Claims
open Sys2Proof.Machine

/-! ## A rel.l that loses another reservation of its thread -/

/-- The line that the rel.l stores to. -/
def heldLine : Resv := { va := 0x10800, pa := 0x10800, lost := false }

/-- The line of the watch word of that line's address. -/
def watchLine : Resv := { va := 0x20000, pa := 0x20000, lost := false }

/-- A thread that has reserved both lines, whose pages map to themselves with the sparse-watch bit. -/
def reservingThread : Thread :=
  { run := .run, ctx := { Ctx.zero with s := (Vector.replicate 32 0).set 4 0x10800#64 }, sv := true, resv := [heldLine, watchLine] }

/-- That thread in hand, with the watch table at the second line. -/
def watchingState : State :=
  { State.reset with
    threads := [(0, reservingThread)]
    cores := [(0, { tlb := [{ base := 0x10000, level := 3, leaf := 0x106CF#64 }] })]
    cur := .thread 0
    dev := { State.reset.dev with wtbase := 0x20000#64 } }

/-- The place of the store. -/
def heldPlace : Phys := { pa := 0x10800, home := .dram, sw := true }

/-- The reservations of the thread after a form. -/
def resvAfter (o : Out) : List Resv :=
  match o with
  | .next t => (t.thread 0).resv
  | _ => []

theorem relL_loses_watchLine : resvAfter (exec (.relL 3 4 (.pair 0)) watchingState) = [{ watchLine with lost := true }] := by decide

theorem watchingState_plain : Plain watchingState 0 := by unfold Plain; decide

theorem heldPlace_reached : Reaches watchingState 0 (eaOf watchingState 4 (.pair 0)) 8 8 false true .any heldPlace := by
  unfold Reaches; decide

/-- Refutes O14: the watch step of rel.l's store (R360) is a write to the watch word, and takes the thread's own reservation on its line. -/
theorem not_reservationForms : ¬ Obligations.ReservationForms := by
  intro h
  obtain ⟨-, hrel, -⟩ := h watchingState 0 3 4 (.pair 0) heldPlace watchingState_plain (by decide)
  obtain ⟨t, ht, hresv, -⟩ := hrel heldLine rfl (fun _ he => absurd he List.not_mem_nil) heldPlace_reached (by decide)
  have hlost := relL_loses_watchLine
  rw [ht] at hlost
  exact absurd (hresv.symm.trans hlost) (by decide)

end Sys2Proof.Claims
end

section
/-!
PROOFS. Waits (R124, R201, R213, R219): the forms that stop a thread, and the tests that end each wait.
-/
namespace Sys2Proof.Claims
open Sys2Proof.Machine

variable {s : State} {g : Nat}

/-! ## Fields of a mailbox header (R211) -/

/-- A field of whole bytes is the number that they hold. -/
theorem bitsN_memNat (m : List Host.Cell) (a i n r : Nat) : bitsN (memNat m a (i + (n + r))) (8 * i) (8 * n) = memNat m (a + i) n := by
  have hlow := memNat_lt m i a
  have hfield := memNat_lt m n (a + i)
  rw [bitsN, memNat_add, memNat_add, pow_mul, pow_mul, show (2 ^ 8 : Nat) = 256 from rfl,
    Nat.add_mul_div_left _ _ (by positivity), Nat.div_eq_of_lt hlow, Nat.zero_add, Nat.add_mul_mod_self_left, Nat.mod_eq_of_lt hfield]

theorem mailbox_memNat (m : List Host.Cell) (a : Nat) :
    mailbox (memNat m a 32) = (memNat m a 2, memNat m (a + 8) 8, memNat m (a + 16) 8) := by
  rw [mailbox]
  exact congrArg₂ Prod.mk (bitsN_memNat m a 0 2 30) (congrArg₂ Prod.mk (bitsN_memNat m a 8 8 16) (bitsN_memNat m a 16 8 8))

theorem recordAddr_eq {cap : Nat} (hcap : cap ≠ 0) (va : Word) (head : Nat) :
    recordAddr va cap head = BitVec.ofNat 64 (va.toNat + 64 + 40 * (head % cap)) := by
  rw [recordAddr, if_neg hcap, BitVec.ofNat_add, BitVec.ofNat_add, BitVec.ofNat_toNat, BitVec.setWidth_eq]
  rfl

/-! ## The end of each wait -/

theorem eventDue_iff (t : Thread) : t.eventDue = true ↔ EventDue t := by
  simp [Thread.eventDue, Thread.diverts, EventDue, and_assoc]

section
variable {t : Thread}

theorem waitEnd_resv_lost {d : SReg} {r : Resv} (hr : t.resv = [r]) (hlost : r.lost = true) (x : Nat) :
    t.waitEnd x (.resv d) = some (d, wd r.va) := by simp [Thread.waitEnd, hr, lowestLost, hlost]

theorem lowestLost_of_held {l : List Resv} (h : ∀ r ∈ l, r.lost = false) : lowestLost l = none := by
  rw [lowestLost, List.filter_eq_nil_iff.mpr fun r hr => by simp [h r hr]]
  rfl

theorem waitEnd_resv_event {d : SReg} (h : ∀ r ∈ t.resv, r.lost = false) (hevent : EventDue t) (x : Nat) :
    t.waitEnd x (.resv d) = some (d, 2) := by simp [Thread.waitEnd, lowestLost_of_held h, (eventDue_iff t).mpr hevent]

theorem waitEnd_idle {w : Wait} (hw : w = .wfi ∨ ∃ y, w = .wfit y) (h : t.comps ≠ [] ∨ t.due ≠ []) (x : Nat) :
    t.waitEnd x w = some (0, 0) := by
  obtain rfl | ⟨y, rfl⟩ := hw
  · exact if_pos h
  · exact if_pos h

theorem waitEnd_sync (m : List Host.Cell) (a : Nat) (d : SReg) (va : Word) (n : BitVec 16) : t.waitEnd (memNat m a 16) (.sync d va n) =
    if (memNat m (a + 10) 2 + 65536 - n.toNat) % 65536 < 32768 then some (d, wd (memNat m (a + 10) 2))
    else if t.eventDue then some (d, wd (memNat m (a + 10) 2 + 65536)) else none := by
  have hn : n.toNat % 65536 = n.toNat := Nat.mod_eq_of_lt n.isLt
  rw [Thread.waitEnd, syncOf_gen, genReached, hn]
  simp only [decide_eq_true_eq]

theorem waitEnd_recv (m : List Host.Cell) (a : Nat) (d : SReg) (va : Word) : t.waitEnd (memNat m a 32) (.recv d va) =
    if memNat m (a + 16) 8 ≠ memNat m (a + 8) 8 then some (d, recordAddr va (memNat m a 2) (memNat m (a + 8) 8))
    else if t.eventDue then some (d, 0) else none := by
  rw [Thread.waitEnd, mailbox_memNat]

theorem wake_of_waitEnd {w : Wait} {x : Nat} {d : SReg} {v : Word} (hrun : t.run = .wait w) (hend : t.waitEnd x w = some (d, v)) :
    t.wake x = { t with run := .run, ctx := t.ctx.wS d v, walked := none } := by
  rw [Thread.wake, hrun]
  dsimp only
  rw [hend]

end

/-! ## The tests of waits -/

theorem exec_threadWake {w : Wait} (hrun : (s.thread g).run = .wait w) : exec (.threadWake (.thread g)) s = .next (s.testWait g w) := by
  change execThreadWake (.thread g) s = _
  rw [execThreadWake, hrun]

/-- A test by the thread's own state. -/
theorem endsWait_of_own {i : Instr} {w : Wait} {d : SReg} {v : Word} (hexec : exec i s = .next (s.testWait g w)) (hplace : w.place = none)
    (hrun : (s.thread g).run = .wait w) (hend : (s.thread g).waitEnd 0 w = some (d, v)) : EndsWait i s g d v := by
  have htest : s.testWait g w = s.modThread g fun t => t.wake 0 := by rw [State.testWait, hplace]
  refine ⟨_, hexec, by rw [htest]; rfl, ?_⟩
  rw [htest, State.modThread_same, wake_of_waitEnd hrun hend]

/-- A test that reads memory. -/
theorem endsWait_of_memory {w : Wait} {d d' : SReg} {v va : Word} {n : Nat} {p : Phys} (hplace : w.place = some (va, n, d'))
    (hx : s.xlThread g va.toNat (s.need g true false .any) = .ok p) (hhome : p.home = .dram) (hrun : (s.thread g).run = .wait w)
    (hend : (s.thread g).waitEnd (memNat s.mem p.pa n) w = some (d, v)) : EndsWait (.threadWake (.thread g)) s g d v := by
  have htest : s.testWait g w = s.modThread g fun t => t.wake (memNat s.mem p.pa n) := by
    rw [State.testWait, hplace]
    dsimp only
    rw [hx]
    dsimp only
    rw [hhome]
    dsimp only
    rw [State.edge, atEdge_of_dram hhome, homeRead_of_inMemory (.inl hhome)]
  refine ⟨_, exec_threadWake hrun, by rw [htest]; rfl, ?_⟩
  rw [htest, State.modThread_same, wake_of_waitEnd hrun hend]

/-! ## Deadlines (R219) -/

theorem exec_wfitDeadline {x : Word} (hrun : (s.thread g).run = .wait (.wfit x)) : exec (.wfitDeadline g) s =
    if x.toNat ≤ (s.ns - (s.blk (g / 128)).lag) % 2 ^ 64 then .next (s.modThread g fun t => { t with run := .run })
    else .next (s.testWait g (.wfit x)) := by
  have hle : x.ule (s.ctime (unitBlk g)) = decide (x.toNat ≤ (s.ns - (s.blk (g / 128)).lag) % 2 ^ 64) := by
    rw [BitVec.ule, State.ctime, wd, BitVec.toNat_ofNat]
    rfl
  change execWfitDeadline g s = _
  rw [execWfitDeadline, hrun]
  simp only [hle, decide_eq_true_eq]

/-- A thread that stops to wait. -/
theorem exec_wait {w : Wait} {i : Instr} (hc : s.cur = .thread g)
    (hexec : exec i s = .next (s.modThread g fun t => { t with run := .wait w })) :
    ∃ t, exec i s = .next t ∧ ThreadOnly s t g { s.thread g with run := .wait w } := ⟨_, hexec, threadOnly_modThread hc rfl⟩

/-- Settles O20: each wait by what its test reads. -/
theorem waitForms : Obligations.WaitForms := by
  refine ⟨fun s g a hc hspec => ⟨exec_wait hc ?_, exec_wait hc ?_⟩, fun s g hrun h => ?_, fun s g x hrun hearly h => ?_,
    fun s g x hrun hlate => ?_, fun s g d hrun => ⟨fun r hr hlost => ?_, fun hheld hevent => ?_⟩,
    fun s g d va p hx hhome => ⟨fun hrun => ⟨fun hempty hevent => ?_, fun hfull hcap => ?_⟩,
      fun n hrun => ⟨fun hgen => ?_, fun hgen hevent => ?_⟩⟩⟩
  · exact (s.swarm_of_thread hc _).trans (s.plainly_of_plain hc hspec _)
  · exact (s.swarm_of_thread hc _).trans (s.plainly_of_plain hc hspec _)
  · exact endsWait_of_own (exec_threadWake hrun) rfl hrun (waitEnd_idle (.inl rfl) h 0)
  · refine endsWait_of_own ?_ rfl hrun (waitEnd_idle (.inr ⟨x, rfl⟩) h 0)
    rw [exec_wfitDeadline hrun, if_neg (Nat.not_le.mpr hearly)]
  · refine ⟨_, (exec_wfitDeadline hrun).trans (if_pos hlate), rfl, ?_⟩
    rw [State.modThread_same]
  · exact endsWait_of_own (exec_threadWake hrun) rfl hrun (waitEnd_resv_lost hr hlost 0)
  · exact endsWait_of_own (exec_threadWake hrun) rfl hrun (waitEnd_resv_event hheld hevent 0)
  · refine endsWait_of_memory rfl hx hhome hrun ?_
    rw [waitEnd_recv, if_neg (not_not.mpr hempty), if_pos ((eventDue_iff _).mpr hevent)]
  · refine endsWait_of_memory rfl hx hhome hrun ?_
    rw [waitEnd_recv, if_pos hfull, recordAddr_eq hcap]
  · refine endsWait_of_memory rfl hx hhome hrun ?_
    rw [waitEnd_sync, if_pos hgen, wd]
  · refine endsWait_of_memory rfl hx hhome hrun ?_
    rw [waitEnd_sync, if_neg (Nat.not_lt.mpr hgen), if_pos ((eventDue_iff _).mpr hevent), wd]

end Sys2Proof.Claims
end

section
/-!
PROOFS. Integer and bit forms of slot B (R137, R140, R141, R144 to R146, R152 to R154, R161): a number by its fields, the elements
of a register by its lanes, and what a form writes of them.
-/
namespace Sys2Proof.Claims
open Sys2Proof.Machine

variable {s : State} {p : PReg} {d a b : VReg} {ty : Ty} {w n : Nat} {i : Instr}

/-! ## Numbers by their fields -/

theorem ofFields_lt (w : Nat) (f : Nat → Nat) : ∀ n, ofFields w f n < 2 ^ (w * n)
  | 0 => Nat.one_pos
  | n + 1 => by
    have hlow := ofFields_lt w f n
    have hfield : f n % 2 ^ w + 1 ≤ 2 ^ w := Nat.mod_lt _ (Nat.two_pow_pos w)
    have hmul := Nat.mul_le_mul_right (2 ^ (w * n)) hfield
    rw [ofFields, Nat.mul_succ, Nat.pow_add, Nat.mul_comm (2 ^ (w * n))]
    rw [Nat.add_mul, Nat.one_mul] at hmul
    omega

/-- Bit `k` of a number of fields is a bit of the field that it falls in. -/
theorem testBit_ofFields (hw : 0 < w) (f : Nat → Nat) : ∀ (n : Nat) {k : Nat}, k < w * n →
    (ofFields w f n).testBit k = (f (k / w)).testBit (k % w)
  | n + 1, k, hk => by
    rw [ofFields, Nat.mul_comm (f n % _), Nat.add_comm, Nat.testBit_two_pow_mul_add _ (ofFields_lt w f n)]
    split
    case isTrue hlow => exact testBit_ofFields hw f n hlow
    case isFalse hhigh =>
      obtain ⟨r, rfl⟩ := Nat.exists_eq_add_of_le (not_lt.mp hhigh)
      have hr : r < w := by rw [Nat.mul_succ] at hk; omega
      rw [Nat.add_sub_cancel_left, Nat.testBit_mod_two_pow, Nat.mul_add_div hw, Nat.div_eq_of_lt hr, Nat.add_zero, Nat.mul_add_mod,
        Nat.mod_eq_of_lt hr, decide_eq_true hr, Bool.true_and]

/-- Field `j` of a number of fields. -/
theorem ofFields_field (f : Nat → Nat) {j : Nat} (hj : j < n) : ofFields w f n / 2 ^ (w * j) % 2 ^ w = f j % 2 ^ w := by
  refine Nat.eq_of_testBit_eq fun k => ?_
  rw [Nat.testBit_mod_two_pow, Nat.testBit_mod_two_pow, Nat.testBit_div_two_pow]
  by_cases hk : k < w
  · have hin : k + w * j < w * n := by
      have := Nat.mul_le_mul_left w (Nat.succ_le_of_lt hj)
      rw [Nat.mul_succ] at this
      omega
    rw [testBit_ofFields (by omega) f n hin, Nat.add_mul_div_left _ _ (by omega), Nat.div_eq_of_lt hk, Nat.zero_add,
      Nat.add_mul_mod_self_left, Nat.mod_eq_of_lt hk]
  · rw [decide_eq_false hk, Bool.false_and, Bool.false_and]

theorem packElts_append (x : Nat) : ∀ l, packElts w (l ++ [x]) = packElts w l + x % 2 ^ w * 2 ^ (w * l.length)
  | [] => by simp [packElts]
  | y :: l => by
    rw [List.cons_append, packElts, packElts, packElts_append x l, List.length_cons, Nat.mul_succ, Nat.pow_add]
    ring

theorem packElts_eq_ofFields (f : Nat → Nat) : ∀ n, packElts w ((List.range n).map f) = ofFields w f n
  | 0 => rfl
  | n + 1 => by
    rw [List.range_succ, List.map_append, List.map_singleton, packElts_append, packElts_eq_ofFields f n, List.length_map,
      List.length_range, ofFields]

/-- A number of one-bit fields. -/
theorem sum_bits_eq_ofFields (f : Nat → Bool) : ∀ n,
    ((List.range n).map fun i => (f i).toNat * 2 ^ i).sum = ofFields 1 (fun i => (f i).toNat) n
  | 0 => rfl
  | n + 1 => by
    rw [List.range_succ, List.map_append, List.map_singleton, List.sum_append, List.sum_singleton, sum_bits_eq_ofFields f n, ofFields,
      Nat.pow_one, Nat.one_mul, Nat.mod_eq_of_lt (Bool.toNat_lt _)]

theorem getLsbD_ofBits (f : Nat → Bool) {i : Nat} (hi : i < 8) : (ofBits f).getLsbD i = f i := by
  rw [ofBits, sum_bits_eq_ofFields, BitVec.getLsbD_ofNat, testBit_ofFields Nat.one_pos _ 8 (by omega), decide_eq_true hi, Nat.div_one,
    Nat.mod_one, Bool.true_and, Nat.testBit_zero]
  cases f i <;> rfl

/-! ## Elements by lanes (R16, R76) -/

section
variable (hn : w * n = 32)
include hn

theorem elements_of_register : 256 / w = n * 8 := by
  have hw : 0 < w := Nat.pos_of_ne_zero (by rintro rfl; omega)
  exact Nat.div_eq_of_eq_mul_right hw (by rw [← Nat.mul_assoc, hn])

theorem elements_of_lane : 32 / w = n := Nat.div_eq_of_eq_mul_right (Nat.pos_of_ne_zero (by rintro rfl; omega)) hn.symm

/-- An element's place: the lane, and the place in it. -/
theorem element_place (j : Nat) : n * (j * w / 32) + j % n = j ∧ j % n < n := by
  have hpos : 0 < n := Nat.pos_of_ne_zero (by rintro rfl; omega)
  have hlane : j * w / 32 = j / n := by
    have h := lane_of_element hn (i := j / n) (Nat.mod_lt j hpos)
    rwa [Nat.div_add_mod] at h
  exact ⟨by rw [hlane, Nat.div_add_mod], Nat.mod_lt _ hpos⟩

theorem lane_lt_of_element {j : Nat} (hj : j < 256 / w) : j * w / 32 < 8 := by
  obtain ⟨hplace, -⟩ := element_place hn j
  rw [elements_of_register hn, ← hplace] at hj
  exact Nat.lt_of_mul_lt_mul_left (Nat.lt_of_le_of_lt (Nat.le_add_right _ _) hj)

theorem element_eq_elt (v : VWord) (j : Nat) : element v w j = elt w (lane v (j * w / 32)) (j % n) := by
  obtain ⟨hplace, hlt⟩ := element_place hn j
  conv_lhs => rw [← hplace]
  exact element_of_lane hn v hlt

/-- The elements of a lane are those whose place is in it. -/
theorem forall_elements_of_lane {l : Nat} (hl : l < 8) (P : Nat → Prop) :
    (∀ j, j < 256 / w → j * w / 32 = l → P j) ↔ ∀ k, k < n → P (n * l + k) := by
  rw [elements_of_register hn]
  constructor
  · intro h k hk
    refine h _ ?_ (lane_of_element hn hk)
    calc n * l + k < n * (l + 1) := by rw [Nat.mul_succ]; omega
      _ ≤ n * 8 := Nat.mul_le_mul_left _ hl
  · rintro h j - rfl
    obtain ⟨hplace, hlt⟩ := element_place hn j
    rw [← hplace]
    exact h _ hlt

/-- An element of the result of an operation on a lane's elements. -/
theorem elt_eltOp (F : Nat → Nat → Nat → Nat × BitVec 5) (x y z : BitVec 32) {k : Nat} (hk : k < n) :
    elt w (eltOp w F x y z).1 k = (F (elt w x k) (elt w y k) (elt w z k)).1 % 2 ^ w := by
  have hfit := ofFields_lt w (fun j => (F (elt w x j) (elt w y j) (elt w z j)).1) n
  rw [hn] at hfit
  rw [eltOp, elements_of_lane hn, List.map_map, packElts_eq_ofFields, elt, bitsN, BitVec.toNat_ofNat]
  simp only [Function.comp_def]
  rw [Nat.mod_eq_of_lt hfit, ofFields_field _ hk]

/-- An element of a register whose predicate's lanes hold an operation's results. -/
theorem element_mergeLanes_lanes3 (m : PWord) (old x y z : VWord) (F : Nat → Nat → Nat → Nat × BitVec 5) {j : Nat}
    (hj : j < 256 / w) : element (mergeLanes m old (ofLanes fun l => (lanes3 w x y z F l).1)) w j =
      if m.getLsbD (j * w / 32) then (F (element x w j) (element y w j) (element z w j)).1 % 2 ^ w else element old w j := by
  have hl := lane_lt_of_element hn hj
  simp only [element_eq_elt hn]
  rw [lane_mergeLanes _ _ _ hl, lane_ofLanes _ hl, apply_ite (elt w · _), lanes3, elt_eltOp hn _ _ _ _ (element_place hn j).2]

end

/-! ## Integer forms (R140, R141, R146) -/

theorem foldl_or_zero {α : Type} {k : Nat} {g : α → BitVec k} (hg : ∀ x, g x = 0) (l : List α) :
    l.foldl (fun x i => x ||| g i) 0 = 0 :=
  List.foldlRecOn (motive := (· = 0)) l _ rfl fun x hx i _ => by rw [hx, hg]; exact BitVec.or_zero

theorem wroteV_wV (x : VWord) : WroteV s (s.wV d x) d x 0 :=
  ⟨_, became_setCtx _, fun _ => Ctx.rV_wV _ _ _ _, rfl, rfl, rfl, rfl, BitVec.or_zero.symm, rfl⟩

theorem wroteV_wVm (m : PWord) (x : VWord) : WroteV s (s.wVm d m x) d (mergeLanes m (s.ctx.rV d) x) 0 := wroteV_wV _

/-- `o` goes on, and has written the exact results `f` of elements of width `w`, modulo that width, in the predicate's lanes, and nothing
else. -/
def WritesElements (s : State) (o : Out) (p : PReg) (d : VReg) (w : Nat) (f : Nat → Int) : Prop :=
  ∃ t x, o = .next t ∧ WroteV s t d x 0 ∧ ∀ j, j < 256 / w →
    element x w j = if (s.rP p).getLsbD (j * w / 32) then (f j % 2 ^ w).toNat else element (s.ctx.rV d) w j

theorem natCast_emod_toNat (x w : Nat) : ((x : Int) % 2 ^ w).toNat = x % 2 ^ w := by norm_cast

theorem wrapN_mod (w : Nat) (x : Int) : wrapN w x % 2 ^ w = (x % 2 ^ w).toNat := by
  refine Nat.mod_eq_of_lt ?_
  have hpos : (0 : Int) < 2 ^ w := by positivity
  have hlt := Int.emod_lt_of_pos x hpos
  rw [wrapN, Int.toNat_lt (Int.emod_nonneg _ hpos.ne')]
  push_cast
  exact hlt

/-- A reading stands for its element modulo the width. -/
theorem reading_emod (ty : Ty) (w x : Nat) : (reading ty w x % 2 ^ w).toNat = x % 2 ^ w := by
  rw [← natCast_emod_toNat, reading]
  split
  · rfl
  · rw [Int.sub_emod_right]

theorem arith_int (h : (ty, w) ∈ intTypes) (ff : FFmt → FVal → FVal → FVal → Nat × BitVec 5) (fi : Int → Int → Int → Int)
    (x y z : Nat) : arith ty ff fi x y z = (wrapN w (fi (reading ty w x) (reading ty w y) (reading ty w z)), 0) := by
  obtain ⟨hint, hwidth, -, -⟩ := of_mem_intTypes h
  rw [arith, if_neg hint, hwidth, eltInt_eq_reading h, eltInt_eq_reading h, eltInt_eq_reading h]

/-- A short form that raises no flag writes the lanes of its predicate, and that is all. -/
theorem vShort_writes (h : Nat → BitVec 32 × BitVec 5) (hflags : ∀ l, (h l).2 = 0) :
    ∃ t, s.vShort p d h = .next t ∧ WroteV s t d (mergeLanes (s.rP p) (s.ctx.rV d) (ofLanes fun l => (h l).1)) 0 := by
  have hall : (laneOp (s.rP p) h).2 = 0 := foldl_or_zero (fun l => by rw [hflags, flagIf, ite_self]) _
  exact ⟨_, by rw [State.vShort, hall]; rfl, wroteV_wVm_orFlags _ _ _⟩

/-- An operation on elements that raises no flag writes its results, modulo the width, in the predicate's lanes. -/
theorem vArith_writes (h : (ty, w) ∈ intTypes) {F : Nat → Nat → Nat → Nat × BitVec 5} {f : Nat → Int}
    (hflags : ∀ x y z, (F x y z).2 = 0)
    (hval : ∀ j, (F (element (s.rV a) w j) (element (s.rV b) w j) (element (s.rV d) w j)).1 % 2 ^ w = (f j % 2 ^ w).toNat) :
    WritesElements s (s.vArith p d a b ty F) p d w f := by
  obtain ⟨n, hn⟩ := exists_elements_per_lane ty
  obtain ⟨-, rfl, -, -⟩ := of_mem_intTypes h
  have hlane : ∀ l, (lanes3 (eltW ty) (s.rV a) (s.rV b) (s.rV d) F l).2 = 0 := fun l => by
    rw [lanes3, eltOp, List.foldl_map]
    exact foldl_or_zero (fun _ => hflags _ _ _) _
  obtain ⟨t, hstep, hwrote⟩ := vShort_writes (s := s) (p := p) (d := d) _ hlane
  refine ⟨t, _, hstep, hwrote, fun j hj => ?_⟩
  rw [element_mergeLanes_lanes3 hn _ _ _ _ _ _ hj, hval]

/-- An arithmetic form of an integer type. -/
theorem vArith_arith_writes (h : (ty, w) ∈ intTypes) (ff : FFmt → FVal → FVal → FVal → Nat × BitVec 5)
    (fi : Int → Int → Int → Int) : WritesElements s (s.vArith p d a b ty (arith ty ff fi)) p d w fun j =>
      fi (reading ty w (element (s.rV a) w j)) (reading ty w (element (s.rV b) w j)) (reading ty w (element (s.rV d) w j)) := by
  refine vArith_writes h (fun x y z => by rw [arith_int h]) fun j => ?_
  rw [arith_int h]
  exact wrapN_mod _ _

/-- Each integer form by the result of its elements. -/
theorem vecInt_writes (h : (ty, w) ∈ intTypes) {f : Nat → Int} (hi : vecInt i s w = some (p, d, ty, f)) :
    WritesElements s (exec i s) p d w f := by
  obtain ⟨hint, hwidth, -, -⟩ := of_mem_intTypes h
  unfold vecInt at hi
  split at hi
  case h_12 => cases hi
  all_goals
    simp only [Option.some.injEq, Prod.mk.injEq] at hi
    obtain ⟨rfl, rfl, rfl, rfl⟩ := hi
  -- vadd, vsub, vmul, vfma
  case h_1 | h_2 | h_3 | h_4 => exact vArith_arith_writes h _ _
  -- vmin, vmax
  case h_5 | h_6 =>
    refine vArith_writes h (F := fun x y _ => eltMinMax _ _ x y) (fun x y _ => ?_) fun j => ?_
    · rw [eltMinMax, if_neg hint]
    · rw [eltMinMax, if_neg hint, eltInt_eq_reading h, eltInt_eq_reading h]
      split <;> simp [*, reading_emod]
  -- vabs, vneg
  case h_7 =>
    refine vArith_writes h (fun x _ _ => by rw [if_neg hint]) fun j => ?_
    rw [if_neg hint, hwidth, eltInt_eq_reading h, wrapN_mod]
    have habs : ∀ x : Int, (x.natAbs : Int) = if x < 0 then -x else x := by omega
    rw [habs]
  case h_8 =>
    refine vArith_writes h (fun x _ _ => by rw [if_neg hint]) fun j => ?_
    rw [if_neg hint, hwidth, eltInt_eq_reading h, wrapN_mod]
  -- vshl, vshr, vsra
  case h_9 | h_10 =>
    refine vArith_writes h (fun _ _ _ => rfl) fun j => ?_
    rw [hwidth, ← natCast_emod_toNat]
    push_cast
    rfl
  case h_11 =>
    refine vArith_writes h (fun _ _ _ => rfl) fun j => ?_
    rw [hwidth, wrapN_mod, eltInt_eq_reading h, Int.fdiv_eq_ediv_of_nonneg _ (by positivity)]

/-! ## Logic, permutation and broadcast (R145, R152, R153) -/

/-- A write of the predicate's lanes alone. -/
theorem wVm_wroteLanes {x : VWord} {f : Nat → BitVec 32} (hx : ∀ l, l < 8 → lane x l = f l) :
    WroteLanes s (s.wVm d (s.rP p) x) p d fun l => (f l, 0) := by
  refine ⟨_, 0, wroteV_wVm _ _, ⟨fun l hl hm => ?_, fun k => by simp⟩, fun l hl hm => ?_⟩
  · rw [lane_mergeLanes _ _ _ hl, if_pos hm, hx l hl]
  · rw [lane_mergeLanes _ _ _ hl, if_neg (by rw [hm]; decide)]

/-- A lane from its elements is their words one above the other. -/
theorem ofNat_packElts_cons (x : Nat) (l : List Nat) (k : Nat) :
    BitVec.ofNat (k + w) (packElts w (x :: l)) = BitVec.ofNat k (packElts w l) ++ BitVec.ofNat w x := by
  refine BitVec.eq_of_getLsbD_eq fun j hj => ?_
  rw [BitVec.getLsbD_append, BitVec.getLsbD_ofNat, BitVec.getLsbD_ofNat, BitVec.getLsbD_ofNat, packElts,
    Nat.add_comm (x % _), Nat.testBit_two_pow_mul_add _ (Nat.mod_lt _ (Nat.two_pow_pos w)), Nat.testBit_mod_two_pow]
  split
  case isTrue hlow => simp [hj, hlow]
  case isFalse hhigh => simp [hj, show j - w < k by omega]

theorem ofNat_packElts_singleton (x : Nat) : BitVec.ofNat w (packElts w [x]) = BitVec.ofNat w x :=
  BitVec.eq_of_toNat_eq (by simp [packElts])

theorem replicate_one_word (x : Word) : BitVec.ofNat 32 (packElts 32 (List.replicate 1 x.toNat)) = x.setWidth 32 :=
  ofNat_packElts_singleton _

theorem replicate_two_halves (x : Word) : BitVec.ofNat 32 (packElts 16 (List.replicate 2 x.toNat)) =
    x.extractLsb' 0 16 ++ x.extractLsb' 0 16 := by
  have htop := ofNat_packElts_singleton (w := 16) x.toNat
  exact (ofNat_packElts_cons _ _ 16).trans (congrArg (· ++ _) htop)

theorem replicate_four_bytes (x : Word) : BitVec.ofNat 32 (packElts 8 (List.replicate 4 x.toNat)) =
    x.extractLsb' 0 8 ++ x.extractLsb' 0 8 ++ x.extractLsb' 0 8 ++ x.extractLsb' 0 8 := by
  have htop := ofNat_packElts_singleton (w := 8) x.toNat
  have htwo := (ofNat_packElts_cons x.toNat _ 8).trans (congrArg (· ++ _) htop)
  have hthree := (ofNat_packElts_cons x.toNat _ 16).trans (congrArg (· ++ _) htwo)
  exact (ofNat_packElts_cons _ _ 24).trans (congrArg (· ++ _) hthree)

theorem doubleWord_half (x : Word) (l : Nat) :
    (if l % 2 = 0 then x.setWidth 32 else (x >>> 32).setWidth 32) = x.extractLsb' (32 * (l % 2)) 32 := by
  obtain h | h := Nat.mod_two_eq_zero_or_one l <;> rw [h] <;> refine BitVec.eq_of_toNat_eq ?_ <;> simp

theorem perm_index_large (x : BitVec 32) : x.getLsbD 31 = true ↔ x.toNat ≥ 2 ^ 31 := by
  rw [← BitVec.msb_eq_getLsbD_last (x := x), BitVec.msb_eq_decide, decide_eq_true_eq]

/-- Each whole-register form by its lanes. -/
theorem exec_of_vecBits {f : Nat → BitVec 32} (h : vecBits i s = some (p, d, f)) :
    ∃ x, exec i s = .next (s.wVm d (s.rP p) x) ∧ ∀ l, l < 8 → lane x l = f l := by
  unfold vecBits at h
  split at h
  case h_13 => cases h
  all_goals
    simp only [Option.some.injEq, Prod.mk.injEq] at h
    obtain ⟨rfl, rfl, rfl⟩ := h
    refine ⟨_, rfl, fun l hl => ?_⟩
  -- vand, vor, vxor
  case h_1 => exact BitVec.extractLsb'_and
  case h_2 => exact BitVec.extractLsb'_or
  case h_3 => exact BitVec.extractLsb'_xor
  -- vperm
  case h_4 =>
    rw [lane_ofLanes _ hl]
    exact if_congr (perm_index_large _) rfl rfl
  -- vbcast of words, halves, bytes and double words
  case h_5 | h_6 => exact (lane_ofLanes _ hl).trans (replicate_one_word _)
  case h_7 | h_8 | h_9 => exact (lane_ofLanes _ hl).trans (replicate_two_halves _)
  case h_10 | h_11 => exact (lane_ofLanes _ hl).trans (replicate_four_bytes _)
  case h_12 => exact (lane_ofLanes _ hl).trans (doubleWord_half _ _)

/-! ## Moves of lanes (R144, R154) -/

theorem lane_setLane (v : VWord) (k : Nat) (x : BitVec 32) {l : Nat} (hl : l < 8) :
    lane (setLane v k x) l = if l = k then x else lane v l := lane_ofLanes _ hl

/-- A pair of lanes that starts at an even one, after a double word has been moved to it. -/
theorem lane_setLane_pair (v : VWord) {k : Nat} (hk : k % 2 = 0) (x : Word) {l : Nat} (hl : l < 8) :
    lane (setLane (setLane v k (x.setWidth 32)) (k + 1) ((x >>> 32).setWidth 32)) l =
      if l / 2 = k / 2 then x.extractLsb' (32 * (l % 2)) 32 else lane v l := by
  rw [lane_setLane _ _ _ hl, lane_setLane _ _ _ hl, ← doubleWord_half]
  obtain rfl | rfl | ⟨hlo, hhi⟩ : l = k ∨ l = k + 1 ∨ (l ≠ k ∧ l ≠ k + 1) := by omega
  · rw [if_neg (by omega), if_pos rfl, if_pos rfl, if_pos hk]
  · rw [if_pos rfl, if_pos (by omega), if_neg (by omega)]
  · rw [if_neg hhi, if_neg hlo, if_neg (by omega)]

section
variable {l : BitVec 3} {r : SReg}

/-- A move of a lane that the predicate excludes. -/
theorem exec_vmovs_excluded (h : (s.rP p).getLsbD l.toNat = false) (dir : Bool) (ty : Ty) :
    exec (.vmovs p d a dir l ty r) s = .next s := by
  change execVmovs p d a dir l ty r s = _
  rw [execVmovs, h]
  rfl

theorem exec_vmovs_from (h : (s.rP p).getLsbD l.toNat = true) (ty : Ty) : exec (.vmovs p d a false l ty r) s =
    .next (s.wS r (match ty with
      | .x => lane (s.rV a) (l.toNat + 1) ++ lane (s.rV a) l.toNat
      | .f32 => (lane (s.rV a) l.toNat).setWidth 64
      | _ => (lane (s.rV a) l.toNat).signExtend 64)) := by
  change execVmovs p d a false l ty r s = _
  rw [execVmovs, h]
  rfl

theorem exec_vmovs_to (h : (s.rP p).getLsbD l.toNat = true) (ty : Ty) : exec (.vmovs p d a true l ty r) s =
    .next (s.wV d (if ty = .x
      then setLane (setLane (s.ctx.rV d) l.toNat ((s.rS r).setWidth 32)) (l.toNat + 1) ((s.rS r >>> 32).setWidth 32)
      else setLane (s.ctx.rV d) l.toNat ((s.rS r).setWidth 32))) := by
  change execVmovs p d a true l ty r s = _
  rw [execVmovs, h]
  rfl

end

/-! ## The guard's mask (R161) -/

theorem exec_vgmask : exec (.vgmask p d a b) s = if (guardOf (s.rV a)).mode = 0 ∨ (guardOf (s.rV a)).invalid = true then .next s
    else .next (s.wVm d (ofBits fun l =>
        (s.rP p).getLsbD l && guardForbids (guardOf (s.rV a)) (s.rV b) (cnt32 ((guardOf (s.rV a)).base + l)))
      (ofLanes fun _ => 0xFF800000)) := by
  change execVgmask p d a b s = _
  simp only [execVgmask, Bool.or_eq_true, decide_eq_true_eq]

theorem vgmask_writes (hvalid : (guardOf (s.rV a)).invalid = false) (hmode : bitsN (lane (s.rV a) 0).toNat 8 2 ≠ 0) :
    ∃ t x, exec (.vgmask p d a b) s = .next t ∧ WroteV s t d x 0 ∧ ∀ i, i < 8 →
      lane x i = if (s.rP p).getLsbD i ∧ guardForbids (guardOf (s.rV a)) (s.rV b) (((lane (s.rV a) 6).toNat + i) % 2 ^ 32) = true
        then 0xFF800000#32 else lane (s.ctx.rV d) i := by
  have hactive : ¬ ((guardOf (s.rV a)).mode = 0 ∨ (guardOf (s.rV a)).invalid = true) := by
    rintro (hzero | hinvalid)
    · exact hmode hzero
    · rw [hvalid] at hinvalid
      cases hinvalid
  refine ⟨_, _, exec_vgmask.trans (if_neg hactive), wroteV_wVm _ _, fun i hi => ?_⟩
  rw [lane_mergeLanes _ _ _ hi, lane_ofLanes _ hi, getLsbD_ofBits _ hi]
  exact if_congr Bool.and_eq_true_iff rfl rfl

/-- Settles O37: an integer form is one operation on the elements of its predicate's lanes, which raises no flag; the others place
lanes as they are. -/
theorem vectorIntegerForms : Obligations.VectorIntegerForms := by
  refine ⟨fun i s ty w p d f hty h => vecInt_writes hty h, fun s => rfl, fun i s p d f h => ?_, fun s p d a b => ?_,
    fun s p d a l r => ⟨fun hl => ⟨?_, ?_, fun ty hty => ?_, fun heven => ⟨?_, ?_⟩⟩, fun hl dir ty => exec_vmovs_excluded hl _ _⟩,
    fun s p d a b => ⟨fun hidle => exec_vgmask.trans (if_pos hidle), fun hvalid hmode => vgmask_writes hvalid hmode⟩⟩
  · obtain ⟨x, hstep, hx⟩ := exec_of_vecBits h
    exact ⟨_, hstep, wVm_wroteLanes hx⟩
  · exact ⟨_, _, rfl, wroteV_wV _, fun l hl => lane_mergeLanes _ _ _ hl⟩
  · exact ⟨_, exec_vmovs_from hl .f32, wroteS_wS _ _⟩
  · exact ⟨_, exec_vmovs_from hl .i32, wroteS_wS _ _⟩
  · refine ⟨_, _, exec_vmovs_to hl ty, wroteV_wV _, fun k hk => ?_⟩
    rw [if_neg (by rintro rfl; simp at hty)]
    exact lane_setLane _ _ _ hk
  · exact ⟨_, exec_vmovs_from hl .x, wroteS_wS _ _⟩
  · exact ⟨_, _, exec_vmovs_to hl .x, wroteV_wV _, fun k hk => lane_setLane_pair _ heven _ hk⟩

end Sys2Proof.Claims
end

section
/-!
PROOFS. Compares, as bits of a predicate by the elements of a lane (R143), and vpack, as fields put in a register (R149).
-/
namespace Sys2Proof.Claims
open Sys2Proof.Machine

variable {s : State} {p pd : PReg} {d a b : VReg} {ty : Ty} {w n : Nat} {i : Instr}

/-! ## Compares (R143) -/

theorem wroteP_wP_orFlags (m x : PWord) (fl : BitVec 5) :
    WroteP s ((s.wP pd (mergeBits m (s.ctx.rP pd) x)).orFlags fl) pd m x fl := by
  refine ⟨_, setCtx_setCtx_became _ _, ?_⟩
  rw [State.wP, State.setCtx_ctx]
  simp only [Ctx.raiseFlags_s, Ctx.raiseFlags_v, Ctx.raiseFlags_pc, Ctx.raiseFlags_vrm, Ctx.raiseFlags_vflags, Ctx.raiseFlags_pend,
    Ctx.wP_s, Ctx.wP_v, Ctx.wP_pc, Ctx.wP_vrm, Ctx.wP_vflags, Ctx.wP_pend, and_self, and_true]
  exact fun r => Ctx.rP_wP _ _ _ _

/-- The condition of a compare on integers. -/
def intCond : Cmp → Int → Int → Bool
  | .eq, x, y => decide (x = y)
  | .ne, x, y => decide (x ≠ y)
  | .lt, x, y => decide (x < y)
  | .le, x, y => decide (x ≤ y)
  | .un, _, _ => false

theorem exec_of_vecCmp {c : Cmp} {f : Int → Int → Bool} (h : vecCmp i = some (p, pd, a, b, ty, c, f)) :
    exec i s = s.vCmp p pd a b ty c ∧ f = intCond c := by
  unfold vecCmp at h
  split at h
  case h_6 => cases h
  all_goals
    simp only [Option.some.injEq, Prod.mk.injEq] at h
    obtain ⟨rfl, rfl, rfl, rfl, rfl, rfl, rfl⟩ := h
    exact ⟨rfl, rfl⟩

theorem eltCmp_int (h : (ty, w) ∈ intTypes) (c : Cmp) (x y : Nat) :
    eltCmp ty c x y = (intCond c (reading ty w x) (reading ty w y), 0) := by
  rw [eltCmp, if_neg (of_mem_intTypes h).1, eltInt_eq_reading h, eltInt_eq_reading h]
  cases c <;> rfl

theorem eltCmp_float {g : FFmt} (hty : (ty, g) ∈ floatTypes) (c : Cmp) (x y : Nat) :
    eltCmp ty c x y = fcmp c (g.value x) (g.value y) := by
  obtain ⟨hfloat, hformat, -, -⟩ := of_mem_floatTypes hty
  rw [eltCmp, if_pos hfloat, hformat]

/-- A compare of a lane is its condition on every element of it. -/
theorem laneCmp_iff (c : Cmp) (x y : BitVec 32) : (laneCmp ty c x y).1 = true ↔
    ∀ k, k < 32 / eltW ty → (eltCmp ty c (elt (eltW ty) x k) (elt (eltW ty) y k)).1 = true := by
  simp [laneCmp]

/-- A compare writes the bit of each lane of its predicate. -/
theorem vCmp_writes (c : Cmp) : ∃ t x fl, s.vCmp p pd a b ty c = .next t ∧ WroteP s t pd (s.rP p) x fl ∧
    ((∀ l, (laneCmp ty c (lane (s.rV a) l) (lane (s.rV b) l)).2 = 0) → fl = 0) ∧
    ∀ l, l < 8 → (x.getLsbD l = true ↔ ∀ k, k < 32 / eltW ty →
      (eltCmp ty c (elt (eltW ty) (lane (s.rV a) l) k) (elt (eltW ty) (lane (s.rV b) l) k)).1 = true) := by
  refine ⟨_, _, _, rfl, wroteP_wP_orFlags _ _ _, fun hflags => ?_, fun l hl => ?_⟩
  · exact foldl_or_zero (fun l => by rw [hflags, flagIf, ite_self]) _
  · rw [getLsbD_ofBits _ hl, laneCmp_iff]

/-- A compare of integers raises no flag. -/
theorem vCmp_int (h : (ty, w) ∈ intTypes) (c : Cmp) : ∃ t x, s.vCmp p pd a b ty c = .next t ∧ WroteP s t pd (s.rP p) x 0 ∧
    ∀ l, l < 8 → (x.getLsbD l = true ↔ ∀ j, j < 256 / w → j * w / 32 = l →
      intCond c (reading ty w (element (s.rV a) w j)) (reading ty w (element (s.rV b) w j)) = true) := by
  obtain ⟨n, hn⟩ := exists_elements_per_lane ty
  obtain ⟨t, x, fl, hstep, hwrote, hflags, hbits⟩ := vCmp_writes (s := s) (p := p) (pd := pd) (a := a) (b := b) (ty := ty) c
  have hzero : fl = 0 := hflags fun l => by
    rw [laneCmp, List.foldl_map]
    exact foldl_or_zero (fun _ => by rw [eltCmp_int h]) _
  obtain ⟨-, rfl, -, -⟩ := of_mem_intTypes h
  refine ⟨t, x, hstep, hzero ▸ hwrote, fun l hl => ?_⟩
  rw [hbits l hl, forall_elements_of_lane hn hl, elements_of_lane hn]
  refine forall₂_congr fun k hk => ?_
  rw [eltCmp_int h, element_of_lane hn _ hk, element_of_lane hn _ hk]

theorem vCmp_float {g : FFmt} (hty : (ty, g) ∈ floatTypes) (c : Cmp) :
    ∃ t x fl, s.vCmp p pd a b ty c = .next t ∧ WroteP s t pd (s.rP p) x fl ∧ ∀ l, l < 8 → (x.getLsbD l = true ↔
      ∀ j, j < 32 / g.width → (fcmp c (valueAt g (s.rV a) l j) (valueAt g (s.rV b) l j)).1 = true) := by
  obtain ⟨t, x, fl, hstep, hwrote, -, hbits⟩ := vCmp_writes (s := s) (p := p) (pd := pd) (a := a) (b := b) (ty := ty) c
  obtain ⟨-, -, hwidth, -⟩ := of_mem_floatTypes hty
  refine ⟨t, x, fl, hstep, hwrote, fun l hl => ?_⟩
  simp only [hbits l hl, eltCmp_float hty, hwidth, valueAt_eq]

/-! ## vpack (R149) -/

theorem element_ofFields (hn : w * n = 256) (f : Nat → Nat) {j : Nat} (hj : j < n) :
    element (BitVec.ofNat 256 (ofFields w f n)) w j = f j % 2 ^ w := by
  have hfit := ofFields_lt w f n
  rw [hn] at hfit
  rw [element, BitVec.toNat_ofNat, Nat.mod_eq_of_lt hfit, ofFields_field f hj]

/-- A number after some of its bits have been replaced. -/
theorem testBit_replace_field (x lo : Nat) {y k : Nat} (hy : y < 2 ^ k) (j : Nat) :
    (x - bitsN x lo k * 2 ^ lo + y * 2 ^ lo).testBit j = if lo ≤ j ∧ j < lo + k then y.testBit (j - lo) else x.testBit j := by
  have hparts : x = 2 ^ lo * (2 ^ k * (x / 2 ^ lo / 2 ^ k) + bitsN x lo k) + x % 2 ^ lo := by
    rw [bitsN, Nat.div_add_mod, Nat.div_add_mod]
  have hnew : x - bitsN x lo k * 2 ^ lo + y * 2 ^ lo = 2 ^ lo * (2 ^ k * (x / 2 ^ lo / 2 ^ k) + y) + x % 2 ^ lo := by
    conv_lhs => lhs; lhs; rw [hparts]
    rw [Nat.mul_add, Nat.mul_add, Nat.mul_comm (bitsN x lo k), Nat.mul_comm y]
    omega
  have hlow := Nat.mod_lt x (Nat.two_pow_pos lo)
  rw [hnew, Nat.testBit_two_pow_mul_add _ hlow, Nat.testBit_two_pow_mul_add _ hy]
  split
  case isTrue hj => rw [if_neg (by omega), Nat.testBit_mod_two_pow, decide_eq_true hj, Bool.true_and]
  case isFalse hj =>
    split
    case isTrue hk => rw [if_pos (by omega)]
    case isFalse hk =>
      rw [if_neg (by omega), Nat.testBit_div_two_pow, Nat.testBit_div_two_pow]
      congr 1
      omega

/-- Eight fields put at a place of a register, bit by bit. -/
theorem getLsbD_putGroup (old : VWord) (hw : 0 < w) (q : Nat) (f : Nat → Nat) {k : Nat} (hk : k < 256) :
    (putGroup old w q f).getLsbD k = if 8 * w * q ≤ k ∧ k < 8 * w * (q + 1)
      then (f ((k - 8 * w * q) / w)).testBit ((k - 8 * w * q) % w) else old.getLsbD k := by
  have hfit : ofFields w f 8 < 2 ^ (8 * w) := Nat.mul_comm w 8 ▸ ofFields_lt w f 8
  rw [putGroup, BitVec.getLsbD_ofNat, decide_eq_true hk, Bool.true_and, testBit_replace_field _ _ hfit, Nat.mul_succ]
  refine ite_congr rfl (fun hin => ?_) fun _ => rfl
  exact testBit_ofFields hw f 8 (by omega)

/-- An element by its bits. -/
theorem element_eq_mod {v : VWord} {j x : Nat} (h : ∀ k, k < w → v.getLsbD (w * j + k) = x.testBit k) : element v w j = x % 2 ^ w := by
  refine Nat.eq_of_testBit_eq fun k => ?_
  rw [element, Nat.testBit_mod_two_pow, Nat.testBit_mod_two_pow, Nat.testBit_div_two_pow, Nat.add_comm k]
  by_cases hk : k < w
  · rw [decide_eq_true hk, Bool.true_and, Bool.true_and]
    exact h k hk
  · rw [decide_eq_false hk, Bool.false_and, Bool.false_and]

/-- Eight bytes put at a place of a register. -/
theorem element_putGroup_byte (old : VWord) (q : Nat) (f : Nat → Nat) {j : Nat} (hj : j < 32) :
    element (putGroup old 8 q f) 8 j = if j / 8 = q then f (j % 8) % 2 ^ 8 else element old 8 j := by
  split
  case isTrue hq =>
    refine element_eq_mod fun k hk => ?_
    have hfield : (8 * j + k - 8 * 8 * q) / 8 = j % 8 := by omega
    have hbit : (8 * j + k - 8 * 8 * q) % 8 = k := by omega
    rw [getLsbD_putGroup _ (by decide) _ _ (by omega), if_pos (by omega), hfield, hbit]
  case isFalse hq =>
    refine element_eq_mod (x := old.toNat / 2 ^ (8 * j)) fun k hk => ?_
    rw [getLsbD_putGroup _ (by decide) _ _ (by omega), if_neg (by omega), Nat.testBit_div_two_pow, Nat.add_comm k]
    rfl

theorem vpack_half (ty : Ty) (h : Bool) : ∃ t x, exec (.vpack d a b (.half ty h)) s = .next t ∧ WroteV s t d x 0 ∧ ∀ j, j < 16 →
    element x 16 j = if ty = .i16
      then (max (-32768) (min 32767 (lane (s.rV (if j < 8 then a else b)) (j % 8)).toInt) % 65536).toNat
      else (lane (s.rV (if j < 8 then a else b)) (j % 8)).toNat % 65536 := by
  refine ⟨_, _, rfl, wroteV_wV _, fun j hj => ?_⟩
  rw [packed, element_ofFields (by decide) _ hj, apply_ite s.rV]
  dsimp only
  split
  case isTrue => exact wrapN_mod _ _
  case isFalse => rfl

theorem vpack_raw (k q : BitVec 2) (h : (k, w) ∈ [(0#2, 8), (1#2, 6), (2#2, 4)]) :
    ∃ t x, exec (.vpack d a b (.raw k q)) s = .next t ∧ WroteV s t d x 0 ∧ ∀ n, n < 256 →
      x.getLsbD n = if 8 * w * q.toNat ≤ n ∧ n < 8 * w * (q.toNat + 1)
        then (lane (s.rV a) ((n - 8 * w * q.toNat) / w)).getLsbD ((n - 8 * w * q.toNat) % w)
        else (s.ctx.rV d).getLsbD n := by
  obtain ⟨hwidth, hpos⟩ : rawW k = w ∧ 0 < w := by
    simp only [List.mem_cons, Prod.mk.injEq, List.not_mem_nil, or_false] at h
    obtain ⟨rfl, rfl⟩ | ⟨rfl, rfl⟩ | ⟨rfl, rfl⟩ := h <;> decide
  refine ⟨_, _, rfl, wroteV_wV _, fun n hn => ?_⟩
  rw [packed, hwidth]
  exact getLsbD_putGroup _ hpos _ _ hn

theorem vpack_byte (q : BitVec 2) (u : Bool) :
    ∃ t x, exec (.vpack d a b (.byte u q)) s = .next t ∧ WroteV s t d x 0 ∧ ∀ j, j < 32 →
      element x 8 j = if j / 8 = q.toNat then
          ((if u then max 0 (min 255 (lane (s.rV a) (j % 8)).toInt) else max (-128) (min 127 (lane (s.rV a) (j % 8)).toInt)) %
            256).toNat
        else element (s.ctx.rV d) 8 j := by
  refine ⟨_, _, rfl, wroteV_wV _, fun j hj => ?_⟩
  rw [packed, element_putGroup_byte _ _ _ hj]
  refine ite_congr rfl (fun _ => ?_) fun _ => rfl
  split
  · rw [laneInt]
    omega
  · exact wrapN_mod _ _

/-- Settles O40: a compare is a bit for each lane from its elements' conditions, and vpack a number of fields. -/
theorem vectorCompareAndPack : Obligations.VectorCompareAndPack := by
  refine ⟨fun i s p pd a b ty w c f h hty => ?_, fun i s p pd a b ty g c f h hty => ?_, fun s d a b ty h => vpack_half ty h,
    fun s d a b k q w h => vpack_raw k q h, fun s d a b q u => vpack_byte q u⟩
  · obtain ⟨hexec, rfl⟩ := exec_of_vecCmp (s := s) h
    rw [hexec]
    exact vCmp_int hty c
  · rw [(exec_of_vecCmp h).1]
    exact vCmp_float hty c

end Sys2Proof.Claims
end

section
/-!
PROOFS. Streams (R164, R168 to R172): what a stream form reads of its port and takes from it, the fields of the header that it builds, and the
queue of the outbound streamer that takes its token.
-/
namespace Sys2Proof.Claims
open Sys2Proof.Machine

variable {s : State} {k port : Nat} {f : Flit}

/-! ## Registers of a compute core in hand -/

theorem onlyV_wV (c : Ctx) (d : VReg) (x : VWord) : OnlyV c (c.wV d x) d x where
  v r := c.rV_wV d r x
  s := c.wV_s d x
  p := c.wV_p d x
  pc := c.wV_pc d x
  vrm := c.wV_vrm d x
  vflags := c.wV_vflags d x
  pend := c.wV_pend d x

theorem onlyP_wP (c : Ctx) (d : PReg) (x : PWord) : OnlyP c (c.wP d x) d x where
  p r := c.rP_wP d r x
  s := c.wP_s d x
  v := c.wP_v d x
  pc := c.wP_pc d x
  vrm := c.wP_vrm d x
  vflags := c.wP_vflags d x
  pend := c.wP_pend d x

/-- An update of the core in hand that leaves its registers leaves the registers in hand. -/
theorem ctx_modTcore (hc : s.cur = .core k) {g : TCore → TCore} (hg : (g (s.tcore k)).ctx = (s.tcore k).ctx) : (s.modTcore k g).ctx = s.ctx := by
  rw [ctx_of_core hc, ctx_of_core (s := s.modTcore k g) hc, State.modTcore_same, hg]

/-! ## Ports (R164) -/

theorem coreCtx_modTcore (g : TCore → TCore) : (s.modTcore k g).coreCtx k = s.coreCtx k := tileCtx_modTcore g _

/-- The queue of a port stands in the core or in the tile's escape nodes. -/
theorem portQueue_modTcore {g : TCore → TCore} (hg : (g (s.tcore k)).ports = (s.tcore k).ports) :
    (s.modTcore k g).portQueue k port = s.portQueue k port := by
  rw [State.portQueue, coreCtx_modTcore, State.modTcore_same, hg]
  rfl

theorem portQueue_setCtx (c : Ctx) : (s.setCtx c).portQueue k port = s.portQueue k port := by
  have hports : ((s.setCtx c).tcore k).ports = (s.tcore k).ports := by
    rw [State.setCtx_tcore]
    split <;> rfl
  have hctx : (s.setCtx c).coreCtx k = s.coreCtx k := by
    simp only [State.coreCtx, State.tileCtx, State.setCtx_tile]
  rw [State.portQueue, hctx, hports, State.setCtx_tile]
  rfl

/-- Consuming the head token leaves the rest of the queue, wherever it stands. -/
theorem portQueue_popPort : (s.popPort k port).portQueue k port = (s.portQueue k port).drop 1 := by
  unfold State.popPort
  cases hnode : (s.coreCtx k).bind fun x => x.nodeAt (k % 4) port with
  | none =>
    have hpop : ((s.modTcore k fun c => { c with ports := Tab.upd [] c.ports port fun q => q.drop 1 }).coreCtx k).bind
        (fun x => x.nodeAt (k % 4) port) = none := by rw [coreCtx_modTcore, hnode]
    simp only [State.portQueue, hnode, hpop, State.modTcore_same]
    exact Tab.get_set_same _ _ _
  | some n =>
    have hpop : ((s.modTile (coreTile k) fun t => { t with escs := Tab.upd {} t.escs n fun e => { e with queue := e.queue.drop 1 } }).coreCtx
        k).bind (fun x => x.nodeAt (k % 4) port) = some n := by
      rw [← hnode, State.coreCtx, State.tileCtx, State.modTile_same]
      rfl
    simp only [State.portQueue, hnode, hpop, State.modTile_same]
    exact congrArg EscNode.queue (Tab.get_set_same _ _ _)

theorem popPort_mem : (s.popPort k port).mem = s.mem := by
  unfold State.popPort
  split <;> rfl

theorem popPort_ctx (hc : s.cur = .core k) : (s.popPort k port).ctx = s.ctx := by
  unfold State.popPort
  split
  · rfl
  · exact ctx_modTcore hc rfl

/-- The core no longer stands at a port. -/
def leftPort (s : State) (k : Nat) : State := s.modTcore k fun c => { c with atPort := none }

theorem leftPort_ctx (hc : s.cur = .core k) : (leftPort s k).ctx = s.ctx := ctx_modTcore hc rfl

theorem leftPort_portQueue : (leftPort s k).portQueue k port = s.portQueue k port := portQueue_modTcore rfl

/-- A stream form goes on with the head token of its port (R168). -/
theorem withPort_of_holds (h : PortHolds s k port f) (g : State → Flit → Out) : s.withPort k port g = g (leftPort s k) f := by
  obtain ⟨-, hdrain, hhead, x, hx, hbound⟩ := h
  simp only [State.withPort, hx, hbound, hdrain, hhead]
  rfl

theorem execSrecv_of_holds {p : BitVec 4} (h : PortHolds s k p.toNat f) (v : VReg) : exec (.srecv v p) s =
    .next (((leftPort s k).popPort k p.toNat).wV v (elements f.pay (hLen f.hdr))) :=
  (s.tileMode_of_core h.1 _).trans (withPort_of_holds h _)

theorem execSpred_of_holds {p : BitVec 4} (h : PortHolds s k p.toNat f) (d : PReg) : exec (.spred d p) s =
    .next (((leftPort s k).popPort k p.toNat).wP d (f.pay.setWidth 8)) :=
  (s.tileMode_of_core h.1 _).trans (withPort_of_holds h _)

theorem execSpeek_of_holds {p : BitVec 4} (h : PortHolds s k p.toNat f) (d : SReg) : exec (.speek d p) s =
    .next ((leftPort s k).wS d f.hdr) :=
  (s.tileMode_of_core h.1 _).trans (withPort_of_holds h _)

theorem popped_ctx (hc : s.cur = .core k) : ((leftPort s k).popPort k port).ctx = s.ctx :=
  (popPort_ctx (s := leftPort s k) hc).trans (leftPort_ctx hc)

/-- What placing registers over a consumed token leaves: the memory, and the queue without its head. -/
theorem popped_setCtx (c : Ctx) : (((leftPort s k).popPort k port).setCtx c).mem = s.mem ∧
    (((leftPort s k).popPort k port).setCtx c).portQueue k port = (s.portQueue k port).drop 1 :=
  ⟨(State.setCtx_mem _ c).trans popPort_mem, by rw [portQueue_setCtx, portQueue_popPort, leftPort_portQueue]⟩

/-! ## Headers (R86, R87) -/

theorem mkHdr_toNat {kind len stop route steer seq et ks : Nat} (hkind : kind < 16) (hlen : len < 8) (hstop : stop < 8)
    (hroute : route < 4096) (hsteer : steer < 64) (hseq : seq < 65536) (het : et < 16) (hks : ks < 16384) :
    ∃ vc, vc < 4 ∧ (kind = 0 → vc = 0) ∧ (mkHdr kind len stop route steer seq et ks).toNat =
      kind * 2 ^ 60 + vc * 2 ^ 58 + len * 2 ^ 55 + stop * 2 ^ 52 + route * 2 ^ 40 + steer * 2 ^ 34 + seq * 2 ^ 18 + et * 2 ^ 14 + ks := by
  have hvc : ∃ vc, vc < 4 ∧ (kind = 0 → vc = 0) ∧
      (if kind = 1 ∨ kind = 2 ∨ kind = 4 then 1 else if kind = 3 ∨ kind = 5 then 2 else if kind ≥ 6 then 3 else 0) = vc := by
    refine ⟨_, ?_, ?_, rfl⟩ <;> split_ifs <;> omega
  obtain ⟨vc, hlt, hzero, hdef⟩ := hvc
  refine ⟨vc, hlt, hzero, ?_⟩
  rw [mkHdr, hdef, wd, BitVec.toNat_ofNat]
  exact Nat.mod_eq_of_lt (by omega)

/-- The fields of a header are those that it was built from. -/
theorem mkHdr_fields {kind len stop route steer seq et ks : Nat} (hkind : kind < 16) (hlen : len < 8) (hstop : stop < 8)
    (hroute : route < 4096) (hsteer : steer < 64) (hseq : seq < 65536) (het : et < 16) (hks : ks < 16384) :
    hKind (mkHdr kind len stop route steer seq et ks) = kind ∧ hLen (mkHdr kind len stop route steer seq et ks) = len ∧
    hStop (mkHdr kind len stop route steer seq et ks) = stop ∧ hRoute (mkHdr kind len stop route steer seq et ks) = route ∧
    hSteer (mkHdr kind len stop route steer seq et ks) = steer ∧ hSeq (mkHdr kind len stop route steer seq et ks) = seq ∧
    hEtype (mkHdr kind len stop route steer seq et ks) = et ∧ hKs (mkHdr kind len stop route steer seq et ks) = ks ∧
    (kind = 0 → hVc (mkHdr kind len stop route steer seq et ks) = 0) := by
  obtain ⟨vc, hvc, hzero, hdr⟩ := mkHdr_toNat hkind hlen hstop hroute hsteer hseq het hks
  simp only [hKind, hLen, hStop, hRoute, hSteer, hSeq, hEtype, hKs, hVc, bits, bitsN, hdr]
  refine ⟨?_, ?_, ?_, ?_, ?_, ?_, ?_, ?_, ?_⟩ <;> omega

theorem etCode_lt (et : EType) : etCode et < 16 := by cases et <;> decide

/-! ## Sending (R42, R169, R170) -/

theorem rselRoute_lt (x : Word) : rselRoute x < 4096 := Nat.mod_lt _ (by decide)

theorem rselSteer_lt (x : Word) : rselSteer x < 64 := Nat.mod_lt _ (by decide)

/-- The entry of the route that rsel selects. -/
theorem RouteIs.entry {r : OutRoute} (h : RouteIs s k r) : (s.coreCtx k).bind (fun x => x.out (rselRoute (s.tcore k).rsel)) = some r := by
  obtain ⟨-, x, hx, hout⟩ := h
  rw [hx, Option.bind_some, rselRoute, bits_low]
  exact hout

/-- A token for a route of plain tokens is handed to the streamer's queue while that has room. -/
theorem send_of_route {r : OutRoute} (h : RouteIs s k r) (hroom : (s.tcore k).outq.length < 16) (hcmd : r.cmd = none) {ok : OutRoute → Bool}
    (hok : ok r = true) : s.send k ok f = .next (s.queueOut k false f) := by
  have hfull : s.outFull k = false := decide_eq_false (Nat.not_le.mpr hroom)
  simp only [State.send, h.entry, hok, hfull, hcmd]
  rfl

theorem queueOut_tcore (whole : Bool) : (s.queueOut k whole f).tcore k =
    { s.tcore k with outq := enqueueFlit whole (s.tcore k).outq f, waited := none } := s.modTcore_same k _

theorem steers_of_mem {r : OutRoute} {v : Nat} (h : ∀ l, r.steer = some l → v ∈ l) : r.steers v = true := by
  unfold OutRoute.steers
  cases hs : r.steer with
  | none => rfl
  | some l => exact List.contains_iff_mem.mpr (h l hs)

/-- The operand of ssend (R169): a count from 1 to 8, nothing in its reserved bits, and a ks that the element type takes. -/
structure SendOperand (x : Word) (et : EType) : Prop where
  high  : x.toNat / 2 ^ 46 = 0
  mid   : x.toNat / 2 ^ 4 % 2 ^ 12 = 0
  pos   : 1 ≤ x.toNat % 2 ^ 4
  eight : x.toNat % 2 ^ 4 ≤ 8
  ks    : ksOk (etCode et) (x.toNat / 2 ^ 32 % 2 ^ 14) = true

/-- The token that ssend builds. -/
def ssendFlit (s : State) (k : Nat) (v : VReg) (x : Word) (et : EType) : Flit :=
  { hdr := mkHdr 0 (x.toNat % 2 ^ 4 - 1) 0 (rselRoute (s.tcore k).rsel) (rselSteer (s.tcore k).rsel) (x.toNat / 2 ^ 16 % 2 ^ 16) (etCode et)
      (x.toNat / 2 ^ 32 % 2 ^ 14)
    pay := elements (s.rV v) (x.toNat % 2 ^ 4 - 1) }

theorem ssendFlit_fields {x : Word} {et : EType} (v : VReg) (hx : SendOperand x et) :
    hKind (ssendFlit s k v x et).hdr = 0 ∧ hVc (ssendFlit s k v x et).hdr = 0 ∧ hLen (ssendFlit s k v x et).hdr = x.toNat % 2 ^ 4 - 1 ∧
    hStop (ssendFlit s k v x et).hdr = 0 ∧ hRoute (ssendFlit s k v x et).hdr = (s.tcore k).rsel.toNat % 2 ^ 12 ∧
    hSteer (ssendFlit s k v x et).hdr = (s.tcore k).rsel.toNat / 2 ^ 12 % 2 ^ 6 ∧
    hSeq (ssendFlit s k v x et).hdr = x.toNat / 2 ^ 16 % 2 ^ 16 ∧ hEtype (ssendFlit s k v x et).hdr = etCode et ∧
    hKs (ssendFlit s k v x et).hdr = x.toNat / 2 ^ 32 % 2 ^ 14 ∧ (ssendFlit s k v x et).pay = elements (s.rV v) (x.toNat % 2 ^ 4 - 1) := by
  have height := hx.eight
  obtain ⟨hkind, hlen, hstop, hroute, hsteer, hseq, het, hks, hvc⟩ := mkHdr_fields (kind := 0) (len := x.toNat % 2 ^ 4 - 1) (stop := 0)
    (seq := x.toNat / 2 ^ 16 % 2 ^ 16) (ks := x.toNat / 2 ^ 32 % 2 ^ 14) (by decide) (by omega) (by decide)
    (rselRoute_lt (s.tcore k).rsel) (rselSteer_lt (s.tcore k).rsel) (by omega) (etCode_lt et) (by omega)
  exact ⟨hkind, hvc rfl, hlen, hstop, hroute.trans (bits_low _ _), hsteer, hseq, het, hks, rfl⟩

theorem exec_ssend {r : OutRoute} (h : RouteIs s k r) (hroom : (s.tcore k).outq.length < 16) (hcmd : r.cmd = none) {b : SReg} {et : EType}
    (hx : SendOperand (s.rS b) et) (hsteer : ∀ l, r.steer = some l → rselSteer (s.tcore k).rsel ∈ l) (v : VReg) :
    exec (.ssend v b et) s = .next (s.queueOut k false (ssendFlit s k v (s.rS b) et)) := by
  have hhigh : bits (s.rS b) 46 18 = 0 := by rw [bits, bitsN, hx.high, Nat.zero_mod]
  have hmid : bits (s.rS b) 4 12 = 0 := hx.mid
  have hks : ksOk (etCode et) (bits (s.rS b) 32 14) = true := hx.ks
  have hcount := bits_low (s.rS b) 4
  have hpos := hx.pos
  have height := hx.eight
  refine (s.tileMode_of_core h.1 _).trans ?_
  simp only [hhigh, hmid, hks, hcount]
  rw [if_neg (by simp only [ne_eq, not_true, Bool.true_eq_false, false_or, or_false]; omega)]
  refine send_of_route h hroom hcmd ?_
  rw [cmdSendOk, hcmd, steers_of_mem hsteer]
  rfl

/-- The token that sstop builds (R170). -/
def sstopFlit (s : State) (k : Nat) (level : BitVec 3) : Flit :=
  { hdr := mkHdr 0 0 level.toNat (rselRoute (s.tcore k).rsel) (rselSteer (s.tcore k).rsel) 0 9 0, pay := 0 }

theorem sstopFlit_fields (level : BitVec 3) :
    hKind (sstopFlit s k level).hdr = 0 ∧ hStop (sstopFlit s k level).hdr = level.toNat ∧ hLen (sstopFlit s k level).hdr = 0 ∧
    hRoute (sstopFlit s k level).hdr = (s.tcore k).rsel.toNat % 2 ^ 12 ∧ (sstopFlit s k level).pay = 0 := by
  obtain ⟨hkind, hlen, hstop, hroute, -⟩ := mkHdr_fields (kind := 0) (len := 0) (seq := 0) (et := 9) (ks := 0) (by decide) (by decide)
    level.isLt (rselRoute_lt (s.tcore k).rsel) (rselSteer_lt (s.tcore k).rsel) (by decide) (by decide) (by decide)
  exact ⟨hkind, hstop, hlen, hroute.trans (bits_low _ _), rfl⟩

theorem exec_sstop {r : OutRoute} (h : RouteIs s k r) (hroom : (s.tcore k).outq.length < 16) (hcmd : r.cmd = none) (level : BitVec 3) :
    exec (.sstop level) s = .next (s.queueOut k false (sstopFlit s k level)) :=
  (s.tileMode_of_core h.1 _).trans (send_of_route h hroom hcmd (by rw [hcmd]; rfl))

/-- ssteer takes a value below 64 (R171). -/
theorem exec_ssteer (hc : s.cur = .core k) {a : SReg} (ha : (s.rS a).toNat < 64) : exec (.ssteer a) s =
    .next (s.modTcore k fun c => { c with rsel := BitVec.ofNat 64 (c.rsel.toNat % 2 ^ 12 + (s.rS a).toNat * 2 ^ 12) }) := by
  have hhigh : bits (s.rS a) 6 58 = 0 := by rw [bits, bitsN]; omega
  have hlow : bits (s.rS a) 0 6 = (s.rS a).toNat := by rw [bits_low]; omega
  refine (s.tileMode_of_core hc _).trans ?_
  simp only [hhigh, hlow, rselRoute, bits_low]
  rfl

/-- Settles O33: a form takes what its port holds, and a token that it builds stands in the streamer's queue. -/
theorem streamForms : Obligations.StreamForms := by
  refine ⟨fun s k v p d port f h => ⟨?_, ?_, ?_⟩, fun s k v b et level r h hroom hcmd => ⟨fun h46 h4 h1 h8 hks hsteer => ?_, ?_⟩,
    fun s k a v va vb n w hc => ⟨fun ha => ?_, ?_, ?_⟩⟩
  · obtain ⟨hmem, hqueue⟩ := popped_setCtx (s := s) (k := k) (port := port.toNat) (s.ctx.wV v (elements f.pay (hLen f.hdr)))
    refine ⟨_, execSrecv_of_holds h v, ?_⟩
    rw [State.wV, popped_ctx h.1, State.setCtx_ctx]
    exact ⟨hmem, onlyV_wV _ _ _, hqueue⟩
  · obtain ⟨hmem, hqueue⟩ := popped_setCtx (s := s) (k := k) (port := port.toNat) (s.ctx.wP p (f.pay.setWidth 8))
    refine ⟨_, execSpred_of_holds h p, ?_⟩
    rw [State.wP, popped_ctx h.1, State.setCtx_ctx]
    exact ⟨hmem, onlyP_wP _ _ _, hqueue⟩
  · refine ⟨_, execSpeek_of_holds h d, State.wS_mem _ d _, ?_⟩
    rw [State.wS, leftPort_ctx h.1, State.setCtx_ctx, portQueue_setCtx, leftPort_portQueue]
    exact ⟨onlyS_wS _ _ _, rfl⟩
  · refine ⟨_, ssendFlit s k v (s.rS b) et, exec_ssend h hroom hcmd ⟨h46, h4, h1, h8, hks⟩ hsteer v, rfl, ?_⟩
    rw [queueOut_tcore]
    exact ⟨rfl, rfl, ssendFlit_fields v ⟨h46, h4, h1, h8, hks⟩⟩
  · refine ⟨_, sstopFlit s k level, exec_sstop h hroom hcmd level, rfl, ?_⟩
    rw [queueOut_tcore]
    exact ⟨rfl, rfl, sstopFlit_fields level⟩
  · exact ⟨_, exec_ssteer hc ha, rfl, s.modTcore_same k _⟩
  · exact ⟨_, _, _, s.tileMode_of_core hc _, became_setCtx _, onlyV_wV _ _ _, fun i hi => lane_ofLanes _ hi⟩
  · refine ⟨_, _, _, s.tileMode_of_core hc _, became_setCtx _, onlyV_wV _ _ _, fun i hi => (lane_ofLanes _ hi).trans ?_⟩
    exact if_congr (by omega) rfl rfl

end Sys2Proof.Claims
end

section
/-!
PROOFS. Rings (R173 to R176): what a tile's ring reads as after a write of it, the records that a push writes, and the record that a pop takes.
-/
namespace Sys2Proof.Claims
open Sys2Proof.Machine

variable {s t u : State} {k tl r : Nat} {ring : BitVec 4} {x y : Ring} {f : Flit}

/-! ## Writes to tile SRAM (R166) -/

theorem tileCtx_of_tile {n : Nat} {m : List McEntry} (h : t.tile n = { s.tile n with mcache := m }) : t.tileCtx n = s.tileCtx n := by
  rw [State.tileCtx, h]
  rfl

/-- A write to SRAM leaves every tile but for what its micro-program cache holds. -/
theorem sramWrite_tile {off : Nat} {bs : List Byte} (hcalm : Calm s (sramAddr tl off) bs.length) (n : Nat) :
    ∃ m, (s.sramWrite tl off bs).tile n = { s.tile n with mcache := m } := by
  have hwatch : ∃ m, (s.watch false 0 (sramAddr tl off) bs.length).tile n = { s.tile n with mcache := m } := by
    unfold State.watch State.watchWord
    simp only [Bool.false_and, Bool.false_eq_true, if_false]
    split
    · exact ⟨_, rfl⟩
    split
    · exact ⟨_, staleWhere_tile _ n⟩
    · exact ⟨_, rfl⟩
  rw [sramWrite_eq hcalm, forgetMail_keeps (fun t => t.tile n) fun _ _ => rfl]
  exact hwatch

/-- One write to SRAM is one write event, which no watch page sees. -/
theorem sramWrite_wrote {off : Nat} {bs : List Byte} (hcalm : Calm s (sramAddr tl off) bs.length) :
    WroteBytes s (s.sramWrite tl off bs) false 0 (sramAddr tl off) bs :=
  wroteBytes_of_write (sramWrite_mem hcalm)

theorem sramWrite_kept {off : Nat} {bs : List Byte} (hcalm : Calm s (sramAddr tl off) bs.length) : WriteKept s (s.sramWrite tl off bs) :=
  performWrite_kept (p := { pa := sramAddr tl off, home := .aperture, sw := false }) (by simp) hcalm

/-- Two write events, one after the other, and then nothing more in memory. -/
theorem wroteTwo_of_wrote {v : State} {a b : Nat} {l m : List Byte} (hl : WroteBytes s u false 0 a l) (hm : WroteBytes u v false 0 b m)
    (hmem : t.mem = v.mem) (hmail : ∀ x, s.mailByte x = false → u.mailByte x = false) : WroteTwo s t a l b m := by
  obtain ⟨hputl, -, hleavel⟩ := hl
  obtain ⟨hputm, -, hleavem⟩ := hm
  have hnone : ∀ {v : State} {z : Nat}, ∀ va ∈ ([] : List Nat), ¬ Watched v true va z := fun _ h => absurd h List.not_mem_nil
  rw [WroteTwo, hmem]
  refine ⟨fun i z hi hma hout => ?_, fun i z hi hma => hputm i z hi (hmail _ hma), fun z ha hb => ?_⟩
  · rw [hleavem _ hout hnone]
    exact hputl i z hi hma
  · rw [hleavem _ hb hnone, hleavel _ ha hnone]

/-! ## The ring of a tile (R173) -/

/-- A ring stands in its tile, with the offsets that the current context declares. -/
theorem ring_congr (hctx : t.tileCtx tl = s.tileCtx tl) (hrings : (t.tile tl).rings = (s.tile tl).rings) : t.ring tl r = s.ring tl r := by
  rw [State.ring, hctx, hrings]
  rfl

theorem ring_setCtx (c : Ctx) : (s.setCtx c).ring tl r = s.ring tl r :=
  ring_congr (by simp only [State.tileCtx, State.setCtx_tile]) (by rw [State.setCtx_tile])

/-- A ring reads as it was written, where the context's offsets are kept. -/
theorem ring_setRing (h : s.ring tl r = some x) (hoff : y.off = x.off) (hsize : y.size = x.size) : (s.setRing tl r y).ring tl r = some y := by
  have hctx : (s.setRing tl r y).tileCtx tl = s.tileCtx tl := by
    rw [State.setRing, State.tileCtx, State.modTile_same]
    rfl
  have hget : Tab.get {} ((s.setRing tl r y).tile tl).rings r = y := by
    rw [State.setRing, State.modTile_same]
    exact Tab.get_set_same _ _ _
  unfold State.ring at h ⊢
  rw [hctx]
  cases hcur : s.tileCtx tl with
  | none => simp [hcur] at h
  | some c =>
    simp only [hcur, Option.map_eq_some_iff] at h ⊢
    obtain ⟨d, hd, rfl⟩ := h
    rw [hget]
    cases y
    simp only at hoff hsize
    exact ⟨d, hd, by rw [hoff, hsize]⟩

/-! ## Pushes (R174, R175) -/

theorem exec_rqpush (hc : s.cur = .core k) (hring : s.ring (k / 4) ring.toNat = some x) {b : SReg} (hkind : hKind (s.rS b) = 0)
    (hvc : hVc (s.rS b) = 0) (hfits : x.fits (recSize (hLen (s.rS b) + 1)) = true) (hwait : s.waitedLonger k ring.toNat = false)
    (hturn : x.turn (s.blk (k / 4 / 32)).cyc (5 + k % 4) = true) (v : VReg) : exec (.rqpush ring v b) s =
      .next (s.putRing (k / 4) ring.toNat (x.stamp (s.blk (k / 4 / 32)).cyc (5 + k % 4)) { hdr := s.rS b, pay := s.rV v }) := by
  refine (s.tileMode_of_core hc _).trans ?_
  simp only [coreTile, hring, hkind, hvc, hfits, hwait, hturn]
  rfl

/-- A record that fits behind H is written there. -/
theorem putRing_behind (h : s.ring tl r = some y) (hoff : x.off = y.off) (hsize : x.size = y.size)
    (hend : x.h + recSize (hLen f.hdr + 1) ≤ x.size) (hcalm : Calm s (sramAddr tl (x.off + x.h)) (recSize (hLen f.hdr + 1))) :
    WroteBytes s (s.putRing tl r x f) false 0 (sramAddr tl (x.off + x.h)) (recBytes f) ∧
    (s.putRing tl r x f).ring tl r = some { x with
      h := (x.h + recSize (hLen f.hdr + 1)) % x.size, u := x.u + recSize (hLen f.hdr + 1) } := by
  rw [← recBytes_length] at hcalm
  obtain ⟨m, htile⟩ := sramWrite_tile hcalm tl
  rw [State.putRing, if_pos hend]
  refine ⟨sramWrite_wrote hcalm, ring_setRing ((ring_congr (tileCtx_of_tile htile) ?_).trans h) hoff hsize⟩
  rw [htile]

/-- A record that does not fit behind H is written at the ring's start, behind a pad record at H. -/
theorem putRing_around (h : s.ring tl r = some y) (hoff : x.off = y.off) (hsize : x.size = y.size)
    (hend : x.size < x.h + recSize (hLen f.hdr + 1)) (hpad : Calm s (sramAddr tl (x.off + x.h)) 8)
    (hcalm : Calm s (sramAddr tl x.off) (recSize (hLen f.hdr + 1))) :
    WroteTwo s (s.putRing tl r x f) (sramAddr tl (x.off + x.h)) (leBytes 8 (2 ^ 64 - 1)) (sramAddr tl x.off) (recBytes f) ∧
    (s.putRing tl r x f).ring tl r = some { x with
      h := recSize (hLen f.hdr + 1) % x.size, u := x.u + (x.size - x.h) + recSize (hLen f.hdr + 1) } := by
  rw [← leBytes_length 8 (2 ^ 64 - 1)] at hpad
  rw [← recBytes_length] at hcalm
  have hkept := sramWrite_kept hpad
  have hcalm' := hkept.calm hcalm
  obtain ⟨m, htile⟩ := sramWrite_tile hpad tl
  obtain ⟨m', htile'⟩ := sramWrite_tile hcalm' tl
  have htiles := htile'.trans (congrArg (fun z : Tile => { z with mcache := m' }) htile)
  rw [State.putRing, if_neg (Nat.not_le.mpr hend)]
  refine ⟨wroteTwo_of_wrote (sramWrite_wrote hpad) (sramWrite_wrote hcalm') rfl hkept.mail,
    ring_setRing ((ring_congr (tileCtx_of_tile htiles) ?_).trans h) hoff hsize⟩
  rw [htiles]

/-! ## Pops (R175) -/

/-- The record at offset `o` of a ring that has been read up to `o`. -/
def recordAt (s : State) (tl : Nat) (x : Ring) (o : Nat) : Flit :=
  { hdr := BitVec.ofNat 64 (memNat s.mem (sramAddr tl (x.off + o)) 8)
    pay := BitVec.ofNat 256 (memNat s.mem (sramAddr tl (x.off + o + 8))
      (4 * (hLen (BitVec.ofNat 64 (memNat s.mem (sramAddr tl (x.off + o)) 8)) + 1))) }

theorem sramRead_eq_memNat (off n : Nat) : s.sramRead tl off n = memNat s.mem (sramAddr tl off) n := peek_eq_memNat _ _

/-- The oldest record of a ring without a pad at T stands at T. -/
theorem popRing_of_record (hu : x.u ≠ 0) (hpad : memNat s.mem (sramAddr tl (x.off + x.t)) 8 ≠ 2 ^ 64 - 1) : s.popRing tl x =
    some ({ x with t := (x.t + recSize (hLen (recordAt s tl x x.t).hdr + 1)) % x.size
                   u := x.u - recSize (hLen (recordAt s tl x x.t).hdr + 1) }, recordAt s tl x x.t) := by
  have hskip : s.skipPad tl x = x := if_neg fun h => hpad (sramRead_eq_memNat _ _ ▸ h.2)
  simp only [State.popRing, hskip, if_neg hu, sramRead_eq_memNat]
  rfl

/-- The oldest record of a ring with a pad at T stands at the ring's start. -/
theorem popRing_of_pad (hu : x.u ≠ 0) (hpad : memNat s.mem (sramAddr tl (x.off + x.t)) 8 = 2 ^ 64 - 1) (hleft : x.u - (x.size - x.t) ≠ 0) :
    s.popRing tl x = some ({ x with t := recSize (hLen (recordAt s tl x 0).hdr + 1) % x.size
                                    u := x.u - (x.size - x.t) - recSize (hLen (recordAt s tl x 0).hdr + 1) }, recordAt s tl x 0) := by
  have hskip : s.skipPad tl x = { x with u := x.u - (x.size - x.t), t := 0 } := if_pos ⟨hu, (sramRead_eq_memNat _ _).trans hpad⟩
  simp only [State.popRing, hskip, if_neg hleft, sramRead_eq_memNat, Nat.zero_add]
  rfl

/-- A pop of record `f` that leaves ring `y`. -/
theorem exec_rqpop (hc : s.cur = .core k) (hring : s.ring (k / 4) ring.toNat = some x) (hpop : s.popRing (k / 4) x = some (y, f))
    (hturn : x.turn (s.blk (k / 4 / 32)).cyc (k % 4) = true) (v : VReg) (b : SReg) : exec (.rqpop v ring b) s =
      .next (((s.setRing (k / 4) ring.toNat (y.stamp (s.blk (k / 4 / 32)).cyc (k % 4))).wV v (elements f.pay (hLen f.hdr))).wS b f.hdr) := by
  refine (s.tileMode_of_core hc _).trans ?_
  simp only [coreTile, hring, hpop, hturn]
  rfl

theorem rqpop_takes (hc : s.cur = .core k) (hring : s.ring (k / 4) ring.toNat = some x) (hpop : s.popRing (k / 4) x = some (y, f))
    (hoff : y.off = x.off) (hsize : y.size = x.size) (hturn : x.turn (s.blk (k / 4 / 32)).cyc (k % 4) = true) (v : VReg) (b : SReg) :
    ∃ t, exec (.rqpop v ring b) s = .next t ∧ t.mem = s.mem ∧ t.ctx.rV v = elements f.pay (hLen f.hdr) ∧
      (b ≠ 0#5 → t.ctx.rS b = f.hdr) ∧
      t.ring (k / 4) ring.toNat = some (y.stamp (s.blk (k / 4 / 32)).cyc (k % 4)) := by
  refine ⟨_, exec_rqpop hc hring hpop hturn v b, ?_, ?_, fun hb => ?_, ?_⟩
  · rw [State.wS_mem, State.wV_mem]
    rfl
  · rw [State.wS, State.setCtx_ctx, Ctx.wS_rV, State.wV, State.setCtx_ctx, Ctx.rV_wV, if_pos rfl]
  · rw [State.wS, State.setCtx_ctx, Ctx.rS_wS, if_pos ⟨rfl, hb⟩]
  · rw [State.wS, ring_setCtx, State.wV, ring_setCtx]
    exact ring_setRing hring hoff hsize

/-- Settles O34: a push writes its record where `putRing` puts it, and a pop takes the record that `popRing` finds. -/
theorem ringForms : Obligations.RingForms := by
  refine fun s k ring v b x hc hring => ⟨fun hkind hvc hend hroom hwait hturn hcalm => ?_,
    fun hkind hvc hend hh hroom hwait hturn hpad hcalm => ?_, fun hdr hpad hu hleft hhdr hturn => ?_, fun hdr hu hhdr hne hturn => ?_⟩
  · have hfits : x.fits (recSize (hLen (s.rS b) + 1)) = true := by
      rw [Ring.fits, Ring.need, if_pos hend]
      exact decide_eq_true (by omega)
    exact ⟨_, exec_rqpush hc hring hkind hvc hfits hwait hturn v, putRing_behind hring rfl rfl hend hcalm⟩
  · have hfits : x.fits (recSize (hLen (s.rS b) + 1)) = true := by
      rw [Ring.fits, Ring.need, if_neg (Nat.not_le.mpr hend)]
      exact decide_eq_true (by omega)
    exact ⟨_, exec_rqpush hc hring hkind hvc hfits hwait hturn v, putRing_around hring rfl rfl hend hpad hcalm⟩
  · subst hhdr
    exact rqpop_takes hc hring (popRing_of_pad hu hpad hleft) rfl rfl hturn v b
  · subst hhdr
    have hpad : memNat s.mem (sramAddr (k / 4) (x.off + x.t)) 8 ≠ 2 ^ 64 - 1 := fun h => hne (by rw [h]; rfl)
    exact rqpop_takes hc hring (popRing_of_record hu hpad) rfl rfl hturn v b

end Sys2Proof.Claims
end

section
/-!
PROOFS. Escapes and context switches (R177, R178, R180): the token that an escape parks with the record that it sends, and the core that waits for
its tile's switch.
-/
namespace Sys2Proof.Claims
open Sys2Proof.Machine

variable {s : State} {k : Nat} {x : TileCtx} {hidx pool : Nat}

/-- The token that an escape parks. -/
def escFlit (s : State) (d : SReg) (v : VReg) : Flit := { hdr := s.rS d, pay := elements (s.rV v) (hLen (s.rS d)) }

theorem exec_escForm (d : SReg) (v : VReg) (node : BitVec 2) (o : Bool) :
    exec (if o then .escO d v node else .esc d v node) s = s.escape d v node.toNat o := by
  cases o <;> rfl

/-- An escape of a node with a free ticket, on whose return no core waits, parks its token and answers the ticket (R177). -/
theorem escape_of_free (hc : s.cur = .core k) (hx : s.coreCtx k = some x) {node : Nat} (hesc : x.escs[node]? = some (hidx, pool)) {d : SReg}
    (hkind : hKind (s.rS d) = 0) (hvc : hVc (s.rS d) = 0) (hfree : (Tab.get {} (s.tile (k / 4)).escs node).out.length < pool)
    (hfrom : (s.tcore k).waited = none ∨ (Tab.get {} (s.tile (k / 4)).escs node).from_ ≤ (s.blk (k / 4 / 32)).cyc) (v : VReg) (o : Bool) :
    s.escape d v node o = .next ((s.park (k / 4) node hidx pool (Tab.get {} (s.tile (k / 4)).escs node) (escFlit s d v) o
      (escTicket x.gtile node (Tab.get {} (s.tile (k / 4)).escs node).next)).wS d
        ((escTicket x.gtile node (Tab.get {} (s.tile (k / 4)).escs node).next).setWidth 64)) := by
  have hgo : ¬((Tab.get {} (s.tile (k / 4)).escs node).out.length ≥ pool ∨
      ((s.tcore k).waited.isSome = true ∧ (s.blk (k / 4 / 32)).cyc < (Tab.get {} (s.tile (k / 4)).escs node).from_)) := by
    rintro (hfull | ⟨hwaits, hlate⟩)
    · exact absurd hfull (Nat.not_le.mpr hfree)
    · obtain hnone | hdue := hfrom
      · rw [hnone] at hwaits
        cases hwaits
      · omega
  refine (s.tileMode_of_core hc _).trans ?_
  simp only [coreTile, hx, hesc, if_neg hgo, hkind, hvc]
  rfl

/-- What parking a token and answering in a register leaves: the memory, the registers in hand but for that one, and the rotunda's arrivals
but for the escape's record. -/
theorem park_wS (tl node : Nat) (y : EscNode) (f : Flit) (o : Bool) (ticket : BitVec 32) (d : SReg) (w : Word) :
    ((s.park tl node hidx pool y f o ticket).wS d w).mem = s.mem ∧
    OnlyS s.ctx ((s.park tl node hidx pool y f o ticket).wS d w).ctx d w ∧
    (((s.park tl node hidx pool y f o ticket).wS d w).field (tl / 256)).arr =
      (s.field (tl / 256)).arr ++ [escRec tl node y.next hidx ticket f] ∧
    Tab.get {} (((s.park tl node hidx pool y f o ticket).wS d w).tile tl).escs node = y.parked hidx pool f o := by
  refine ⟨State.wS_mem _ _ _, ?_, ?_, ?_⟩
  · rw [State.wS, State.setCtx_ctx]
    exact onlyS_wS s.ctx d w
  · rw [State.wS, State.setCtx_field, State.park, sendRec_arr]
    rfl
  · rw [State.wS, State.setCtx_tile, State.park, State.sendRec, State.modField_tile, State.modTile_same]
    exact Tab.get_set_same _ _ _

/-- Settles O35: an escape parks its token and sends its record; a switch stops its core. -/
theorem escapeAndSwitchForms : Obligations.EscapeAndSwitchForms := by
  refine ⟨fun s k d v node o x hidx pool hc hx hesc hkind hvc hfree hfrom => ?_, fun s k n hc hloaded hother => ?_⟩
  · obtain ⟨hmem, hregs, harr, hnode⟩ := park_wS (s := s) (hidx := hidx) (pool := pool) (k / 4) node.toNat
      (Tab.get {} (s.tile (k / 4)).escs node.toNat) (escFlit s d v) o
      (escTicket x.gtile node.toNat (Tab.get {} (s.tile (k / 4)).escs node.toNat).next) d
      ((escTicket x.gtile node.toNat (Tab.get {} (s.tile (k / 4)).escs node.toNat).next).setWidth 64)
    exact ⟨_, escRec (k / 4) node.toNat (Tab.get {} (s.tile (k / 4)).escs node.toNat).next hidx _ (escFlit s d v),
      (exec_escForm d v node o).trans (escape_of_free hc hx hesc hkind hvc hfree hfrom v o), hmem, hregs, harr, rfl, rfl, congrArg EscNode.out hnode,
      congrArg EscNode.next hnode⟩
  · have hgo : (s.otherSwitch k n.toNat || !s.loaded (coreTile k) n.toNat) = false := by
      rw [hother, show s.loaded (coreTile k) n.toNat = true from hloaded]
      rfl
    refine ⟨s.modTcore k fun c => { c with run := .ctxsw n.toNat }, (s.tileMode_of_core hc _).trans ?_, sameRest_modTcore hc _,
      s.modTcore_same k _⟩
    rw [hgo, if_neg Bool.false_ne_true]

end Sys2Proof.Claims
end

section
/-!
PROOFS. The matrix queue and the descriptor (R182 to R191): the forms that enter the queue with their checks at issue, and the fields of mdesc that
mdset writes and mdadv steps.
-/
namespace Sys2Proof.Claims
open Sys2Proof.Machine

variable {s : State} {k : Nat} {a b d : SReg}

/-! ## Entering the queue (R182) -/

/-- The queue of the core's tile has a place, and no higher core has entered it in this block cycle. -/
def QueueOpen (s : State) (k : Nat) : Prop :=
  (s.tile (k / 4)).mq.length < 8 ∧ ((s.tile (k / 4)).mqLast.1 = (s.blk (k / 128)).cyc → (s.tile (k / 4)).mqLast.2 ≤ k % 4)

theorem queueMat_enqueued (h : QueueOpen s k) (kind : MKind) : ∃ t, s.queueMat k kind = .next t ∧ Enqueued s t k kind := by
  obtain ⟨hroom, horder⟩ := h
  have hblk : k / 4 / 32 = k / 128 := Nat.div_div_eq_div_mul k 4 32
  have hgo : ¬((s.tile (k / 4)).mq.length ≥ 8 ∨ (s.tile (k / 4)).mqLast.1 = (s.blk (k / 128)).cyc ∧ k % 4 < (s.tile (k / 4)).mqLast.2) := by
    rintro (hfull | ⟨hcyc, hlower⟩)
    · exact absurd hfull (Nat.not_le.mpr hroom)
    · exact absurd (horder hcyc) (Nat.not_le.mpr hlower)
  unfold State.queueMat
  simp only [coreTile, hblk, if_neg hgo]
  refine ⟨_, rfl, rfl, ?_, ?_, ?_, by rw [State.modTcore_tile, State.modTile_same]⟩ <;> rw [State.modTcore_same] <;> split <;> rfl

section
variable (hc : s.cur = .core k) (h : QueueOpen s k)
include hc h

theorem mzero_enqueued : ∃ t, exec .mzero s = .next t ∧ Enqueued s t k .mzero := by
  obtain ⟨t, ht, hq⟩ := queueMat_enqueued h .mzero
  exact ⟨t, (s.tileMode_of_core hc _).trans ht, hq⟩

/-- A gang-issue form enters the queue when its descriptor passes the form's checks (R185). -/
theorem gangIssue_enqueued {fa fb : Family} (hok : mgOk (s.tcore k).mdesc fa fb = true) :
    ∃ t, s.gangIssue fa fb = .next t ∧ Enqueued s t k .mg := by
  obtain ⟨t, ht, hq⟩ := queueMat_enqueued h .mg
  exact ⟨t, (s.tileMode_of_core hc _).trans ((if_pos hok).trans ht), hq⟩

theorem acpy_enqueued (halign : (s.rS a).toNat % 16 = 0) (hend : (s.rS a).toNat + 4096 ≤ 0x80000) (hb : (s.rS b).toNat < 2 ^ 6)
    (hmode : (s.rS b).toNat / 2 ^ 4 ≠ 3) : ∃ t, exec (.acpy a b) s = .next t ∧ Enqueued s t k (.acpy (s.rS a).toNat (s.rS b)) := by
  obtain ⟨t, ht, hq⟩ := queueMat_enqueued h (.acpy (s.rS a).toNat (s.rS b))
  have hhigh : bits (s.rS b) 6 58 = 0 := by rw [bits, bitsN]; omega
  have hpair : ¬(bit (s.rS b) 5 = true ∧ bit (s.rS b) 4 = true) := by
    simp only [bit, BitVec.getLsbD, Nat.testBit_eq_decide_div_mod_eq, decide_eq_true_eq]
    omega
  refine ⟨t, (s.tileMode_of_core hc _).trans ((if_neg ?_).trans ht), hq⟩
  rintro (h1 | h2 | h3 | h4)
  · exact h1 halign
  · omega
  · exact h3 hhigh
  · exact hpair h4

theorem sparseIssue_enqueued {x : TileCtx} (hx : s.coreCtx k = some x) (hb : (s.rS b).toNat < 16)
    (hbound : x.bound (k % 4) (s.rS b).toNat = true) (hmd : mdOk (s.tcore k).mdesc = true) (hdrain : s.draining k (s.rS b).toNat = false)
    (now : Bool) : ∃ t, s.sparseIssue a b now = .next t ∧ Enqueued s t k (.mspx (s.rS a) (s.rS b).toNat now) := by
  obtain ⟨t, ht, hq⟩ := queueMat_enqueued h (.mspx (s.rS a) (s.rS b).toNat now)
  have hhigh : bits (s.rS b) 4 60 = 0 := by rw [bits, bitsN]; omega
  have hport : bits (s.rS b) 0 4 = (s.rS b).toNat := by rw [bits_low]; omega
  refine ⟨t, (s.tileMode_of_core hc _).trans ?_, hq⟩
  simp only [hx, hhigh, hport, hbound, hmd, hdrain]
  exact ht

end

/-! ## Drains (R187, R324) -/

/-- The rows of a drain are those from its first on. -/
theorem mem_drRows {x : Word} {n : Nat} (h : n ∈ drRows x) : ∃ i, i ≤ x.toNat / 32 % 32 ∧ n = x.toNat % 32 + i := by
  obtain ⟨i, hi, rfl⟩ := List.mem_map.mp h
  refine ⟨i, ?_, congrArg (· + i) (bits_low x 5)⟩
  have hcnt : drCnt x = x.toNat / 32 % 32 := rfl
  have := List.mem_range.mp hi
  omega

theorem exec_mdrain {r : OutRoute} (hr : RouteIs s k r) (v : VReg) (hhigh : bits (s.rS a) 15 49 = 0)
    (hrows : drFirst (s.rS a) + drCnt (s.rS a) ≤ 31)
    (hbytes : drBySteer (s.rS a) = true → ∀ i ∈ drRows (s.rS a), steerByte (s.rV v) i < 64)
    (hroute : drainRouteOk r (s.rS a) (s.rV v) (s.tcore k).rsel = true) :
    exec (.mdrain a v) s = s.queueMat k (.mdrain (s.rS a) (s.rV v) (s.tcore k).rsel) := by
  refine (s.tileMode_of_core hr.1 _).trans ?_
  simp only [hr.entry]
  refine if_neg ?_
  rintro (h1 | h2 | ⟨hby, hany⟩ | h4)
  · exact h1 hhigh
  · omega
  · obtain ⟨i, hi, hbig⟩ := List.any_eq_true.mp hany
    exact absurd (of_decide_eq_true hbig) (Nat.not_le.mpr (hbytes hby i hi))
  · rw [hroute] at h4
    cases h4

/-- A drain obeys its route: no stop on a steered one, and only steer values of its set (R324). -/
theorem drainRouteOk_of {r : OutRoute} {x : Word} {v : VWord} {rsel : Word} (hcmd : r.cmd = none)
    (hsteer : ∀ l, r.steer = some l → drStop x = 0 ∧ (drBySteer x = false → rselSteer rsel ∈ l) ∧
      (drBySteer x = true → ∀ i ∈ drRows x, steerByte v i ∈ l)) : drainRouteOk r x v rsel = true := by
  cases hl : r.steer with
  | none => simp [drainRouteOk, hcmd, hl]
  | some l =>
    obtain ⟨hstop, hone, hbytes⟩ := hsteer l hl
    cases hby : drBySteer x with
    | false => simp [drainRouteOk, OutRoute.steers, hcmd, hl, hstop, hby, hone hby]
    | true => simpa [drainRouteOk, OutRoute.steers, hcmd, hl, hstop, hby] using hbytes hby

/-! ## The descriptor (R40, R189, R190) -/

theorem mdsetValue_ext {v : BitVec 41} (h : mdsetOk (.ext v) = true) : mdsetValue (.ext v) = some (v.setWidth 64) := by
  simp only [mdsetOk, Bool.and_eq_true, decide_eq_true_eq, Bool.not_eq_true', BitVec.getLsbD, Nat.testBit_eq_decide_div_mod_eq,
    decide_eq_false_iff_not] at h
  refine if_pos ⟨?_, ?_⟩ <;> rw [bitsN] <;> omega

/-- A word with its block put at row `r` and column `c`. -/
def withBlock (md : Word) (r c : Nat) : Word := wd (md.toNat - mdRowb md * 2 ^ 32 - mdColb md * 2 ^ 34 + r * 2 ^ 32 + c * 2 ^ 34)

theorem withBlock_fields (md : Word) {r c : Nat} (hr : r < 4) (hc : c < 4) : bits (withBlock md r c) 0 32 = bits md 0 32 ∧
    bits (withBlock md r c) 36 28 = bits md 36 28 ∧ bits (withBlock md r c) 32 2 = r ∧ bits (withBlock md r c) 34 2 = c := by
  have hmd := md.isLt
  have hword : (withBlock md r c).toNat = md.toNat / 2 ^ 36 * 2 ^ 36 + c * 2 ^ 34 + r * 2 ^ 32 + md.toNat % 2 ^ 32 := by
    rw [withBlock, wd, BitVec.toNat_ofNat, mdRowb, mdColb, bits, bits, bitsN, bitsN]
    omega
  simp only [bits, bitsN, hword]
  refine ⟨?_, ?_, ?_, ?_⟩ <;> omega

theorem mdRowb_lt (md : Word) : mdRowb md < 4 := Nat.mod_lt _ (by decide)

theorem mdColb_lt (md : Word) : mdColb md < 4 := Nat.mod_lt _ (by decide)

theorem lastBlock_iff (md : Word) : bits md 32 4 = 15 ↔ mdRowb md = 3 ∧ mdColb md = 3 := by
  simp only [mdRowb, mdColb, bits, bitsN]
  omega

/-- A step by column goes on to the next row behind the last column (R190). -/
theorem mdStep_column (md : Word) : mdStep md false =
    (withBlock md (if mdColb md = 3 then (mdRowb md + 1) % 4 else mdRowb md) ((mdColb md + 1) % 4), decide (bits md 32 4 = 15)) := by
  have hr := mdRowb_lt md
  have hc := mdColb_lt md
  have hlast : (mdColb md + 1) % 4 = 0 ↔ mdColb md = 3 := by omega
  refine Prod.ext ?_ (Bool.eq_iff_iff.mpr ?_)
  · simp only [mdStep, withBlock, hlast, Bool.false_eq_true, if_false]
  · simp only [mdStep, hlast, Bool.false_eq_true, if_false, Bool.and_eq_true, beq_iff_eq, decide_eq_true_eq, lastBlock_iff]
    split <;> omega

/-- A step by row goes on to the next column behind the last row (R190). -/
theorem mdStep_row (md : Word) : mdStep md true =
    (withBlock md ((mdRowb md + 1) % 4) (if mdRowb md = 3 then (mdColb md + 1) % 4 else mdColb md), decide (bits md 32 4 = 15)) := by
  have hr := mdRowb_lt md
  have hc := mdColb_lt md
  have hlast : (mdRowb md + 1) % 4 = 0 ↔ mdRowb md = 3 := by omega
  refine Prod.ext ?_ (Bool.eq_iff_iff.mpr ?_)
  · simp only [mdStep, withBlock, hlast, if_true]
  · simp only [mdStep, hlast, if_true, Bool.and_eq_true, beq_iff_eq, decide_eq_true_eq, lastBlock_iff]
    split <;> omega

theorem wd_decide (p : Prop) [Decidable p] : wd (decide p).toNat = truth p := by
  by_cases hp : p <;> simp [truth, wd, hp]

/-- Stepping the block changes mdesc and the register that takes the mark, and nothing else. -/
theorem advance_steps (hc : s.cur = .core k) {byRow : Bool} {md : Word}
    (h : mdStep (s.tcore k).mdesc byRow = (md, decide (bits (s.tcore k).mdesc 32 4 = 15))) :
    ∃ t, s.advanceBlock d byRow = .next t ∧ t.mem = s.mem ∧ (t.tcore k).mdesc = md ∧
      OnlyS s.ctx t.ctx d (truth (bits (s.tcore k).mdesc 32 4 = 15)) := by
  have hctx : (s.modTcore k fun c => { c with mdesc := md }).ctx = s.ctx := ctx_modTcore hc rfl
  refine ⟨(s.modTcore k fun c => { c with mdesc := md }).wS d (truth (bits (s.tcore k).mdesc 32 4 = 15)), ?_, State.wS_mem _ _ _, ?_, ?_⟩
  · refine (s.tileMode_of_core hc _).trans ?_
    simp only [h, wd_decide]
  · rw [State.wS, State.setCtx_tcore, State.modTcore_same]
    split <;> rfl
  · rw [State.wS, State.setCtx_ctx, hctx]
    exact onlyS_wS _ _ _

theorem exec_mdset (hc : s.cur = .core k) {imm : Imm} {x : Word} (h : mdsetValue imm = some x) :
    exec (.mdset imm) s = .next (s.modTcore k fun c => { c with mdesc := x }) := by
  refine (s.tileMode_of_core hc _).trans ?_
  rw [h]

/-- Settles O36: a form of the queue enters it with its descriptor; mdset and mdadv write mdesc. -/
theorem matrixForms : Obligations.MatrixForms := by
  refine ⟨fun s k a b v hc hroom horder => ⟨mzero_enqueued hc ⟨hroom, horder⟩, ?_, ?_, acpy_enqueued hc ⟨hroom, horder⟩, ?_⟩,
    fun s k d imm hc => ⟨fun hok => ?_, ?_, ?_⟩⟩
  · intro i fa fb hi hok
    have hq := gangIssue_enqueued hc ⟨hroom, horder⟩ hok
    simp only [List.mem_cons, Prod.mk.injEq, List.not_mem_nil, or_false] at hi
    rcases hi with ⟨rfl, rfl, rfl⟩ | ⟨rfl, rfl, rfl⟩ | ⟨rfl, rfl, rfl⟩ | ⟨rfl, rfl, rfl⟩ | ⟨rfl, rfl, rfl⟩ | ⟨rfl, rfl, rfl⟩
    all_goals exact hq
  · intro r hr hcmd ha hrows hbytes hsteer
    obtain ⟨t, ht, hq⟩ := queueMat_enqueued ⟨hroom, horder⟩ (.mdrain (s.rS a) (s.rV v) (s.tcore k).rsel)
    refine ⟨t, (exec_mdrain hr v ?_ ?_ (fun hby i hi => ?_) (drainRouteOk_of hcmd fun l hl => ?_)).trans ht, hq⟩
    · rw [bits, bitsN]
      omega
    · rw [drFirst, bits_low]
      exact hrows
    · obtain ⟨j, hj, rfl⟩ := mem_drRows hi
      exact hbytes hby j hj
    · obtain ⟨hstop, hone, hall⟩ := hsteer l hl
      refine ⟨?_, hone, fun hby i hi => ?_⟩
      · rw [drStop, bits, bitsN, hstop, Nat.zero_mod]
      · obtain ⟨j, hj, rfl⟩ := mem_drRows hi
        exact hall hby j hj
  · exact fun x hx hb hbound hmd hdrain => ⟨sparseIssue_enqueued hc ⟨hroom, horder⟩ hx hb hbound hmd hdrain false,
      sparseIssue_enqueued hc ⟨hroom, horder⟩ hx hb hbound hmd hdrain true⟩
  · cases imm with
    | pair v => exact ⟨_, exec_mdset hc rfl, sameRest_modTcore hc _, s.modTcore_same k _⟩
    | ext v => exact ⟨_, exec_mdset hc (mdsetValue_ext hok), sameRest_modTcore hc _, s.modTcore_same k _⟩
  · obtain ⟨t, ht, hmem, hmd, honly⟩ := advance_steps (d := d) hc (mdStep_column _)
    have hr := mdRowb_lt (s.tcore k).mdesc
    obtain ⟨hlow, hhigh, hrow, hcol⟩ := withBlock_fields (s.tcore k).mdesc
      (r := if mdColb (s.tcore k).mdesc = 3 then (mdRowb (s.tcore k).mdesc + 1) % 4 else mdRowb (s.tcore k).mdesc)
      (c := (mdColb (s.tcore k).mdesc + 1) % 4) (by split <;> omega) (by omega)
    refine ⟨t, ht, hmem, ?_⟩
    rw [hmd]
    exact ⟨hlow, hhigh, hcol, hrow, honly⟩
  · obtain ⟨t, ht, hmem, hmd, honly⟩ := advance_steps (d := d) hc (mdStep_row _)
    have hcol := mdColb_lt (s.tcore k).mdesc
    obtain ⟨hlow, -, hrow, hcol'⟩ := withBlock_fields (s.tcore k).mdesc (r := (mdRowb (s.tcore k).mdesc + 1) % 4)
      (c := if mdRowb (s.tcore k).mdesc = 3 then (mdColb (s.tcore k).mdesc + 1) % 4 else mdColb (s.tcore k).mdesc)
      (by omega) (by split <;> omega)
    refine ⟨t, ht, hmem, ?_⟩
    rw [hmd]
    exact ⟨hlow, hrow, hcol', honly⟩

end Sys2Proof.Claims
end

section
/-!
PROOFS. Address generators (R232, R233, R366, R410): the elements that a node reads, the token that it sends, the bytes that it writes, and its
arrival at the done word.
-/
namespace Sys2Proof.Claims
open Sys2Proof.Machine

variable {s : State} {m : Nat} {a : Agen} {p : Phys} {f : Flit} {l : List Flit}

/-! ## Nodes -/

theorem setAgen_same (x : Option Agen) : (s.setAgen m x).agen m = x := Tab.get_set_same _ _ _

theorem agenRun_of_idles (h : Idles a) (k : Out) : s.agenRun m a k = k := by
  obtain ⟨hhalted, hstall, hwant⟩ := h
  simp only [State.agenRun, hwant, Agen.runs, hhalted, hstall]
  rfl

/-- An access whose translation is at hand goes on with it. -/
theorem agenAcc_of_ok {va : Word} {wr : Bool} (h : s.agenXl m a va wr = .ok p) (k : State → Agen → Phys → State) :
    s.agenAcc m a va wr k = k s { a with walked := none } p := by
  rw [State.agenAcc, h]

/-- A whole token of `n` elements that lies in one page is handled at once. -/
theorem span_of_whole {n : Nat} (hpart : a.part = []) (hpage : (a.addr 0).toNat % 65536 + 4 * n ≤ 65536) : a.span n = n := by
  rw [Agen.span, hpart, List.length_nil, Nat.sub_zero]
  omega

/-! ## Elements as numbers -/

theorem wordsNat_cons (w : BitVec 32) (ws : List (BitVec 32)) : wordsNat (w :: ws) = w.toNat + 2 ^ 32 * wordsNat ws := by
  simp only [wordsNat, List.flatMap_cons, leBytes, List.cons_append, List.nil_append, leNat, BitVec.toNat_ofNat]
  omega

theorem natWords_succ (x n : Nat) : natWords x (n + 1) = BitVec.ofNat 32 x :: natWords (x / 2 ^ 32) n := by
  rw [natWords, List.range_succ_eq_map, List.map_cons, List.map_map]
  congr 1
  · exact BitVec.eq_of_toNat_eq (by simp [bitsN])
  · refine List.map_congr_left fun i _ => congrArg (BitVec.ofNat 32) ?_
    simp only [bitsN, Nat.div_div_eq_div_mul, ← Nat.pow_add]
    congr 3
    omega

/-- The elements of a number make up its low part. -/
theorem wordsNat_natWords (x n : Nat) : wordsNat (natWords x n) = x % 2 ^ (32 * n) := by
  induction n generalizing x with
  | zero => exact (Nat.mod_one x).symm
  | succ n ih =>
    rw [natWords_succ, wordsNat_cons, ih, BitVec.toNat_ofNat, Nat.mul_succ, Nat.add_comm (32 * n), Nat.pow_add, Nat.mod_mul]

theorem natWords_length (x n : Nat) : (natWords x n).length = n := by simp [natWords]

theorem wordsNat_natWords_toNat (x : VWord) : BitVec.ofNat 256 (wordsNat (natWords x.toNat 8)) = x := by
  rw [wordsNat_natWords, Nat.mod_eq_of_lt x.isLt]
  exact (BitVec.ofNat_toNat 256 x).trans (BitVec.setWidth_eq x)

/-! ## Load nodes (R232, R366) -/

/-- A load request is a member of a window of its word. -/
theorem joinLoad_window {b : Nat} (r : LoadMember) : ∃ w ∈ ((s.joinLoad b r).blk b).lwins, w.word = r.word ∧ r ∈ w.who := by
  rw [State.joinLoad, State.modBlk_same]
  split
  next hopen =>
    obtain ⟨w, hw, htakes⟩ := List.any_eq_true.mp hopen
    have hword : w.word = r.word := beq_iff_eq.mp (Bool.and_eq_true_iff.mp htakes).1
    exact ⟨{ w with who := w.who ++ [r] }, List.mem_map.mpr ⟨w, hw, if_pos htakes⟩, hword, by simp⟩
  next => exact ⟨_, List.mem_append_right _ (List.mem_singleton_self _), rfl, List.mem_singleton_self r⟩

/-- A load node with nothing to send and elements left reads. -/
theorem exec_agenLoadToken_reads (ha : s.agen m = some a) (hload : a.store = false) (hidle : Idles a) (hactive : a.active = true)
    (hleft : a.n < a.count) (hout : a.outq = []) : exec (.agenLoadToken m) s = .next (s.agenRead m a) := by
  change execAgenLoadToken m s = _
  simp only [execAgenLoadToken, ha, hload, agenRun_of_idles hidle, hout, hactive, decide_eq_true hleft]
  rfl

/-- The member that a node adds to a window for its whole next token. -/
def nodeMember (m : Nat) (a : Agen) (p : Phys) : LoadMember := { who := .inr m, va := (a.addr 0).toNat, phys := p, n := 32 }

theorem agenRead_joins (hpart : a.part = []) (hpage : (a.addr 0).toNat % 65536 + 32 ≤ 65536) (hxl : s.agenXl m a (a.addr 0) false = .ok p)
    (hfar : a.far = .idle) (hhome : p.home = .dram) : s.agenRead m a =
    (s.joinLoad (m / 8) (nodeMember m a p)).setAgen m (some { a with walked := none, far := .reading }) := by
  rw [State.agenRead, span_of_whole (n := 8) hpart hpage, List.length_eq_zero_iff.mpr hpart]
  refine (agenAcc_of_ok hxl _).trans ?_
  simp only [hfar, hhome]
  rfl

/-- What its block or another device has answered makes up the token that the node sends. -/
theorem agenRead_gained (hpart : a.part = []) (hpage : (a.addr 0).toNat % 65536 + 32 ≤ 65536) (hxl : s.agenXl m a (a.addr 0) false = .ok p)
    {x : VWord} (hfar : a.far = .read x) : s.agenRead m a =
    s.setAgen m (some (({ a with walked := none }).gained (natWords x.toNat 8))) := by
  rw [State.agenRead, span_of_whole (n := 8) hpart hpage, List.length_eq_zero_iff.mpr hpart]
  refine (agenAcc_of_ok hxl _).trans ?_
  simp only [hfar]

/-- The token that a node sends for eight elements. -/
def nodeToken (a : Agen) (x : VWord) : Flit :=
  { hdr := mkHdr 0 7 (if a.n + 1 = a.count then 1 else 0) a.route 0 0 (etCode a.et) 0, pay := x }

theorem gained_whole (hpart : a.part = []) (hout : a.outq = []) (x : VWord) : a.gained (natWords x.toNat 8) =
    { a with part := [], far := .idle, n := a.n + 1, outq := [nodeToken a x] } := by
  have hlen : ¬(natWords x.toNat 8).length < 8 := by rw [natWords_length]; decide
  simp only [Agen.gained, hpart, hout, List.nil_append, if_neg hlen, wordsNat_natWords_toNat, nodeToken]

theorem nodeToken_fields (x : VWord) (hroute : a.route < 4096) : hLen (nodeToken a x).hdr = 7 ∧ hRoute (nodeToken a x).hdr = a.route ∧
    hStop (nodeToken a x).hdr = if a.n + 1 = a.count then 1 else 0 := by
  have hstop : (if a.n + 1 = a.count then 1 else 0) < 8 := by split <;> decide
  obtain ⟨-, hlen, hst, hrt, -⟩ := mkHdr_fields (kind := 0) (len := 7) (steer := 0) (seq := 0) (ks := 0) (by decide) (by decide) hstop hroute
    (by decide) (by decide) (etCode_lt a.et) (by decide)
  exact ⟨hlen, hrt, hst⟩

/-- A node's token that is ready is handled before it reads on. -/
theorem exec_agenLoadToken_emits (ha : s.agen m = some a) (hload : a.store = false) (hidle : Idles a) (hout : a.outq = f :: l) :
    exec (.agenLoadToken m) s = .next (s.agenEmit m a f l) := by
  change execAgenLoadToken m s = _
  simp only [execAgenLoadToken, ha, hload, agenRun_of_idles hidle, hout]
  rfl

theorem agenEmit_sends (hcut : s.regionCut a.gid = false) (hroom : s.linkRoom (memRouter m) .inject 0 = true) (htoken : s.portToken m = true) :
    s.agenEmit m a f l = ((s.inject (memRouter m) f).setAgen m (some { a with outq := l, waited := none })).spendPort m := by
  rw [State.agenEmit, hcut, hroom, htoken]
  rfl

theorem agenEmit_discards (hcut : s.regionCut a.gid = true) :
    s.agenEmit m a f l = s.setAgen m (some { a with outq := l, waited := none }) := by
  rw [State.agenEmit, hcut, if_pos rfl]

theorem spendPort_agen (n : Nat) : (s.spendPort m).agen n = s.agen n := rfl

/-! ## Store nodes and the done word (R232, R233) -/

/-- The elements of a token are those of its payload. -/
theorem lanes_eq_natWords (x : VWord) (n : Nat) : ((List.range n).map fun i => lane x (0 + i)) = natWords x.toNat n := by
  refine List.map_congr_left fun i _ => BitVec.eq_of_toNat_eq ?_
  rw [Nat.zero_add, lane, BitVec.extractLsb'_toNat, bitsN, Nat.shiftRight_eq_div_pow, BitVec.toNat_ofNat, Nat.mod_mod]

theorem leBytes_mod (n x : Nat) : leBytes n (x % 256 ^ n) = leBytes n x := by
  induction n generalizing x with
  | zero => rfl
  | succ n ih =>
    have hdiv : x % 256 ^ (n + 1) / 256 = x / 256 % 256 ^ n := by rw [Nat.pow_succ', Nat.mod_mul_right_div_self]
    have hlow : BitVec.ofNat 8 (x % 256 ^ (n + 1)) = BitVec.ofNat 8 x := by
      refine BitVec.eq_of_toNat_eq ?_
      rw [BitVec.toNat_ofNat, BitVec.toNat_ofNat, Nat.pow_succ']
      exact Nat.mod_mul_right_mod x 256 _
    rw [leBytes, leBytes, hdiv, hlow, ih]

/-- The bytes of the first `n` elements of a token are those of its payload. -/
theorem leBytes_lanes (x : VWord) (n : Nat) :
    leBytes (4 * n) (wordsNat ((List.range n).map fun i => lane x (0 + i))) = leBytes (4 * n) x.toNat := by
  have hpow : 2 ^ (32 * n) = 256 ^ (4 * n) := by rw [show 32 * n = 8 * (4 * n) by omega, Nat.pow_mul]
  rw [lanes_eq_natWords, wordsNat_natWords, hpow, leBytes_mod]

/-- Bytes whose lines are not spread, or that lie in one line, have one place. -/
theorem spans_of_line {n : Nat} (h : p.hash = true → p.pa % 64 + n ≤ 64) : p.spans n = [(0, n)] := by
  refine if_neg fun hcut => ?_
  obtain ⟨hhash, hover⟩ := Bool.and_eq_true_iff.mp hcut
  exact absurd (h hhash) (Nat.not_le.mpr (of_decide_eq_true hover))

theorem plus_zero : (p.plus 0).pa = p.pa := by
  have hback : hashAddr (hashAddr p.pa + 0) = p.pa := (congrArg hashAddr (Nat.add_zero _)).trans (hashAddr_hashAddr p.pa)
  unfold Phys.plus
  split
  · exact hback
  · exact Nat.add_zero _

/-- A write of bytes at one place leaves them there, and changes a watch word beside them (R360). -/
theorem spanWrite_wrote {by_ : Option Nat} {task : Option (Nat × Nat)} {va : Nat} {bs : List Byte} (hhome : p.home ≠ .regs)
    (hline : p.hash = true → p.pa % 64 + bs.length ≤ 64) (hcalm : Calm s p.pa bs.length) :
    WroteBytes s (s.spanWrite by_ task p va bs) p.sw va p.pa bs := by
  have hcalm' : Calm (s.watchWord p.sw va) (p.plus 0).pa bs.length := by
    rw [plus_zero, Calm, (writeKept_watchWord p.sw va).syncq]
    exact hcalm
  have hspan : s.spanWrite by_ task p va bs =
      (s.watchWord p.sw va).performWrite by_ task { p.plus 0 with sw := false } (va + 0) bs := by
    rw [State.spanWrite, spans_of_line hline, List.foldl_cons, List.foldl_nil, List.drop_zero, List.take_length]
  have hwatch : ∀ x, (∀ w ∈ (if p.sw then [va] else []), ¬ Watched s true w x) → ¬ Watched s p.sw va x := fun x hx hw => by
    obtain ⟨hsw, hrest⟩ := id hw
    rw [hsw] at hx
    exact hx va (List.mem_singleton_self va) ⟨rfl, hrest⟩
  rw [hspan]
  rw [← plus_zero]
  exact wroteThrough_of_write (watchWord_mailByte p.sw va) (fun x hx => watchWord_byte (hwatch x hx))
    (fun x hx => (watch_byte fun hw => Bool.false_ne_true hw.1).trans (watchWord_byte (hwatch x hx))) (performWrite_mem hhome hcalm')

/-- A store node with a plain token writes. -/
theorem exec_agenStoreToken (ha : s.agen m = some a) (hstore : a.store = true) (hidle : Idles a) (hin : a.inq = f :: l)
    (hkind : hKind f.hdr ≠ 7) : exec (.agenStoreToken m) s = .next (s.agenWrite m a f) := by
  have hplain : f.isMarker = false := beq_eq_false_iff_ne.mpr hkind
  change execAgenStoreToken m s = _
  simp only [execAgenStoreToken, ha, hstore, agenRun_of_idles hidle, hin, hplain]
  rfl

/-- The state after a store node has written its whole token at once. -/
def nodeWrote (s : State) (m : Nat) (a : Agen) (p : Phys) (f : Flit) : State :=
  ((s.spanWrite none none p (a.addr 0).toNat (leBytes (4 * (hLen f.hdr + 1)) f.pay.toNat)).setAgen m
    (some (({ a with walked := none }).stored f ((List.range (hLen f.hdr + 1)).map fun i => lane f.pay (0 + i)) (s.hasDone a.gid)))).spendPort m

theorem agenWrite_whole (hpart : a.part = []) (hpage : (a.addr 0).toNat % 65536 + 4 * (hLen f.hdr + 1) ≤ 65536)
    (hxl : s.agenXl m a (a.addr 0) true = .ok p) (hhome : p.home = .dram) (htoken : s.portToken m = true) :
    s.agenWrite m a f = nodeWrote s m a p f := by
  rw [State.agenWrite, span_of_whole hpart hpage, List.length_eq_zero_iff.mpr hpart]
  refine (agenAcc_of_ok hxl _).trans ?_
  simp only [hhome, htoken, State.edge, atEdge_of_dram hhome, leBytes_lanes]
  rfl

theorem stored_whole (hpart : a.part = []) (hat : a.at_ = none) (hin : a.inq = f :: l) {ws : List (BitVec 32)} (hlen : ws.length = hLen f.hdr + 1)
    (arr : Bool) : (a.stored f ws arr).n = a.n + 1 ∧ (a.stored f ws arr).inq = l := by
  have hwhole : ¬ws.length ≤ hLen f.hdr := by omega
  simp only [Agen.stored, hpart, List.nil_append, if_neg hwhole, hat, hin]
  exact ⟨rfl, rfl⟩

theorem exec_doneArrival {g : Graph} (ha : s.agen m = some a) (harrs : a.arrs ≠ 0) (hfar : a.arrFar = false) (hidle : Idles a)
    (hg : s.graph a.gid = some g) (hxl : s.agenXl m a g.done true = .ok p) (hhome : p.home = .dram) : exec (.doneArrival m) s =
      .next (((s.watchWord p.sw g.done.toNat).syncLand p.pa 0 1).setAgen m (some ({ a with walked := none } : Agen).arrived)) := by
  have hgo : ¬(a.arrs = 0 ∨ a.arrFar = true) := by simp [harrs, hfar]
  change execDoneArrival m s = _
  simp only [execDoneArrival, ha, if_neg hgo, agenRun_of_idles hidle, hg]
  refine congrArg Host.Outcome.next ((agenAcc_of_ok hxl _).trans ?_)
  simp only [hhome]

/-- An arrival that no thread makes lands at a word, after a watch step. -/
theorem arrival_lands {pa : Nat} {sw : Bool} {va : Nat} (hset : Settled s pa) :
    Lands s ((s.watchWord sw va).syncLand pa 0 1) pa (fun x => { x with arrs := x.arrs + 1, by_ := some none }) ∧
    ((s.watchWord sw va).syncLand pa 0 1).mem = (s.watchWord sw va).mem := by
  have hword : SameWord s (s.watchWord sw va) pa := sameWord_watchWord sw va
  obtain ⟨hlands, hmem, -⟩ := syncPut_lands (hword.settled hset)
    fun l => { l with bytes := l.bytes + 0, arrs := l.arrs + 1, who := l.who ++ [], by_ := mixBy l.by_ (agentOf []) }
  refine ⟨?_, hmem⟩
  have hfinal := hword.lands hlands
  rw [Lands] at hfinal ⊢
  refine hfinal.trans ?_
  simp [agentOf, mixBy_none]

/-! ## The clauses of O46 on address generators -/

theorem loadNode_reads (ha : s.agen m = some a) (hload : a.store = false) (hidle : Idles a) (hactive : a.active = true) (hleft : a.n < a.count)
    (hout : a.outq = []) (hpart : a.part = []) (hpage : (a.addr 0).toNat % 65536 + 32 ≤ 65536) (hxl : s.agenXl m a (a.addr 0) false = .ok p)
    (hfar : a.far = .idle) (hhome : p.home = .dram) :
    ∃ t w, exec (.agenLoadToken m) s = .next t ∧ t.mem = s.mem ∧ t.agen m = some { a with walked := none, far := .reading } ∧
      w ∈ (t.blk (m / 8)).lwins ∧ w.word = p.pa / 8 ∧ nodeMember m a p ∈ w.who := by
  obtain ⟨w, hw, hword, hwho⟩ := joinLoad_window (s := s) (b := m / 8) (nodeMember m a p)
  exact ⟨_, w, (exec_agenLoadToken_reads ha hload hidle hactive hleft hout).trans
    (congrArg Host.Outcome.next (agenRead_joins hpart hpage hxl hfar hhome)), rfl, setAgen_same _, hw, hword, hwho⟩

theorem loadNode_gains (ha : s.agen m = some a) (hload : a.store = false) (hidle : Idles a) (hactive : a.active = true) (hleft : a.n < a.count)
    (hout : a.outq = []) (hpart : a.part = []) (hpage : (a.addr 0).toNat % 65536 + 32 ≤ 65536) (hxl : s.agenXl m a (a.addr 0) false = .ok p)
    (hroute : a.route < 4096) {x : VWord} (hfar : a.far = .read x) :
    ∃ t y f, exec (.agenLoadToken m) s = .next t ∧ t.mem = s.mem ∧ t.agen m = some y ∧ y.n = a.n + 1 ∧ y.part = [] ∧ y.far = .idle ∧
      y.outq = [f] ∧ f.pay = x ∧ hLen f.hdr = 7 ∧ hRoute f.hdr = a.route ∧ hStop f.hdr = if a.n + 1 = a.count then 1 else 0 := by
  refine ⟨_, _, nodeToken a x, (exec_agenLoadToken_reads ha hload hidle hactive hleft hout).trans
    (congrArg Host.Outcome.next (agenRead_gained hpart hpage hxl hfar)), rfl, setAgen_same _, ?_⟩
  rw [gained_whole (a := { a with walked := none }) hpart hout]
  exact ⟨rfl, rfl, rfl, rfl, rfl, nodeToken_fields x hroute⟩

theorem loadNode_emits (ha : s.agen m = some a) (hload : a.store = false) (hidle : Idles a) (hout : a.outq = f :: l) :
    (s.regionCut a.gid = false → s.linkRoom (memRouter m) .inject 0 = true → s.portToken m = true →
      ∃ t, exec (.agenLoadToken m) s = .next t ∧ t.mem = s.mem ∧ t.agen m = some { a with outq := l, waited := none } ∧
        t.link (memRouter m) .inject (hVc f.hdr) = s.link (memRouter m) .inject (hVc f.hdr) ++ [f]) ∧
    (s.regionCut a.gid = true →
      ∃ t, exec (.agenLoadToken m) s = .next t ∧ t.mem = s.mem ∧ t.mesh = s.mesh ∧
        t.agen m = some { a with outq := l, waited := none }) := by
  have hexec := exec_agenLoadToken_emits ha hload hidle hout
  refine ⟨fun hcut hroom htoken => ?_, fun hcut => ?_⟩
  · rw [agenEmit_sends hcut hroom htoken] at hexec
    exact ⟨_, hexec, rfl, setAgen_same _, setLink_same _ _ _ _⟩
  · rw [agenEmit_discards hcut] at hexec
    exact ⟨_, hexec, rfl, rfl, setAgen_same _⟩

theorem storeNode_writes (ha : s.agen m = some a) (hstore : a.store = true) (hidle : Idles a) (hin : a.inq = f :: l) (hpart : a.part = [])
    (hat : a.at_ = none) (hkind : hKind f.hdr ≠ 7) (hhome : p.home = .dram) (hpage : (a.addr 0).toNat % 65536 + 4 * (hLen f.hdr + 1) ≤ 65536)
    (hxl : s.agenXl m a (a.addr 0) true = .ok p) (htoken : s.portToken m = true)
    (hline : p.hash = true → p.pa % 64 + 4 * (hLen f.hdr + 1) ≤ 64) (hcalm : Calm s p.pa (4 * (hLen f.hdr + 1))) :
    ∃ t y, exec (.agenStoreToken m) s = .next t ∧
      WroteBytes s t p.sw (a.addr 0).toNat p.pa (leBytes (4 * (hLen f.hdr + 1)) f.pay.toNat) ∧
      t.agen m = some y ∧ y.n = a.n + 1 ∧ y.inq = l := by
  refine ⟨nodeWrote s m a p f, _, (exec_agenStoreToken ha hstore hidle hin hkind).trans
    (congrArg Host.Outcome.next (agenWrite_whole hpart hpage hxl hhome htoken)), ?_, setAgen_same _,
    stored_whole (a := { a with walked := none }) hpart hat hin (by rw [List.length_map, List.length_range]) _⟩
  exact spanWrite_wrote (by simp [hhome]) (by rwa [leBytes_length]) (by rwa [leBytes_length])

theorem storeNode_arrives {g : Graph} (ha : s.agen m = some a) (harrs : a.arrs ≠ 0) (hfar : a.arrFar = false) (hidle : Idles a)
    (hg : s.graph a.gid = some g) (hxl : s.agenXl m a g.done true = .ok p) (hhome : p.home = .dram) (hset : Settled s p.pa) :
    ∃ t y, exec (.doneArrival m) s = .next t ∧ t.agen m = some y ∧ y.arrs = a.arrs - 1 ∧
      (∀ x, ¬ Watched s p.sw g.done.toNat x → Memory.byte t.mem x = Memory.byte s.mem x) ∧
      Lands s t p.pa fun x => { x with arrs := x.arrs + 1, by_ := some none } := by
  obtain ⟨hlands, hmem⟩ := arrival_lands (sw := p.sw) (va := g.done.toNat) hset
  exact ⟨_, _, exec_doneArrival ha harrs hfar hidle hg hxl hhome, setAgen_same _, rfl,
    fun x hx => (congrArg (Memory.byte · x) hmem).trans (watchWord_byte hx), hlands⟩

end Sys2Proof.Claims
end

section
/-!
PROOFS. The matrix queue and the contexts of tiles (R180, R182, R187, R238, R256): mzero's start and end, a tile's switch, its splice markers, and
the words of a context's image.
-/
namespace Sys2Proof.Claims
open Sys2Proof.Machine

variable {s : State} {tl n : Nat}

/-! ## Accumulator blocks (R181) -/

theorem get_setAcc (x : Tile) {r c r' c' : Nat} (hc : c < 128) (hc' : c' < 128) (v : BitVec 32) :
    Tab.get 0 (x.setAcc r c v).acc (accKey r' c') = if r' = r ∧ c' = c then v else Tab.get 0 x.acc (accKey r' c') := by
  rw [Tile.setAcc, Tab.get_set]
  refine if_congr ?_ rfl rfl
  unfold accKey
  omega

/-- Cells that a list names read 0 after it has been cleared, and every other cell reads as before. -/
theorem get_clearCells (cells : List (Nat × Nat)) (hcells : ∀ e ∈ cells, e.2 < 128) (x : Tile) {r c : Nat} (hc : c < 128) :
    Tab.get 0 (cells.foldl (fun y e => y.setAcc e.1 e.2 0) x).acc (accKey r c) =
      if (r, c) ∈ cells then 0 else Tab.get 0 x.acc (accKey r c) := by
  induction cells generalizing x with
  | nil => simp
  | cons e cells ih =>
    rw [List.foldl_cons, ih (fun e he => hcells e (List.mem_cons_of_mem _ he)), get_setAcc x (hcells e List.mem_cons_self) hc]
    by_cases hmem : (r, c) ∈ cells
    · simp [hmem]
    · simp [hmem, Prod.ext_iff]

theorem mem_blockCells {rb cb r c : Nat} : (r, c) ∈ blockCells rb cb ↔ r / 32 = rb ∧ c / 32 = cb := by
  simp only [blockCells, List.mem_flatMap, List.mem_map, List.mem_range, Prod.mk.injEq]
  constructor
  · rintro ⟨i, hi, j, hj, rfl, rfl⟩
    omega
  · rintro ⟨rfl, rfl⟩
    exact ⟨r % 32, by omega, c % 32, by omega, by omega, by omega⟩

/-- A cleared block reads 0, and every other cell reads as before. -/
theorem get_clearBlock (x : Tile) {rb cb r c : Nat} (hcb : cb < 4) (hc : c < 128) :
    Tab.get 0 (x.clearBlock rb cb).acc (accKey r c) = if r / 32 = rb ∧ c / 32 = cb then 0 else Tab.get 0 x.acc (accKey r c) := by
  refine (get_clearCells _ (fun e he => ?_) x hc).trans (if_congr mem_blockCells rfl rfl)
  have hblock := mem_blockCells.mp he
  omega

theorem clearCells_queue (cells : List (Nat × Nat)) : ∀ x : Tile, (cells.foldl (fun (y : Tile) e => y.setAcc e.1 e.2 0) x).mq = x.mq := by
  induction cells with
  | nil => exact fun _ => rfl
  | cons e cells ih => exact fun x => ih (x.setAcc e.1 e.2 0)

theorem clearBlock_queue (x : Tile) (rb cb : Nat) : (x.clearBlock rb cb).mq = x.mq := clearCells_queue (blockCells rb cb) x

theorem setKidx_acc (x : Tile) (rb cb k : Nat) : (x.setKidx rb cb k).acc = x.acc := rfl

theorem setKidx_queue (x : Tile) (rb cb k : Nat) : (x.setKidx rb cb k).mq = x.mq := rfl

/-! ## mzero (R182, R187) -/

section
variable {m : MOp} {l : List MOp} (hqueue : (s.tile tl).mq = m :: l) (hkind : m.kind = .mzero)
include hqueue hkind

/-- The oldest operation of the queue starts once its time has come. -/
theorem mzero_starts (hbegan : m.began = none) (hfrom : (s.tile tl).mqFrom ≤ (s.blk (tl / 32)).cyc) :
    ∃ t, exec (.matrixOpStart tl) s = .next t ∧ t.mem = s.mem ∧
      (t.tile tl).mq = { m with began := some (s.blk (tl / 32)).cyc } :: l := by
  refine ⟨s.modHead tl fun y => { y with began := some (s.tileCyc tl) }, ?_, rfl, ?_⟩
  · change execMatrixOpStart tl s = _
    simp only [execMatrixOpStart, hqueue, List.head?_cons, State.startOp, hkind]
    exact if_pos ⟨Option.isNone_iff_eq_none.mpr hbegan, hfrom⟩
  · rw [State.modHead, State.modTile_same, hqueue]
    rfl

/-- The tile after mzero has cleared its block and left the queue. -/
def mzeroDone (s : State) (tl : Nat) (m : MOp) : State := (s.modTile tl fun x => x.zeroBlock m.md).popMat tl m

theorem exec_matrixOpEnd_mzero (hbegan : m.began = some n) (htime : n + 4 ≤ (s.blk (tl / 32)).cyc) :
    exec (.matrixOpEnd tl) s = .next (mzeroDone s tl m) := by
  change execMatrixOpEnd tl s = _
  simp only [execMatrixOpEnd, hqueue, List.head?_cons, hbegan, State.endOp, hkind]
  exact congrArg Host.Outcome.next (if_neg (Nat.not_lt.mpr htime))

end

/-- The operation that ends leaves its tile as it is but for the queue. -/
theorem popMat_tile (m : MOp) : (s.popMat tl m).tile tl =
    { s.tile tl with
      mq := (s.tile tl).mq.drop 1
      mqFrom := max (s.tileCyc tl) ((((s.tile tl).mq.head?.bind MOp.began).getD (s.tileCyc tl)) + 1) } := by
  rw [State.popMat, State.modTcore_tile, State.leaveMat, State.modTile_same]

/-- mzero's end leaves its block at +0, and the next operation may start in the block cycle after the last that it took. -/
theorem mzero_ends {m : MOp} {l : List MOp} (hqueue : (s.tile tl).mq = m :: l) (hkind : m.kind = .mzero) (hbegan : m.began = some n)
    (htime : n + 4 ≤ (s.blk (tl / 32)).cyc) :
    ∃ t, exec (.matrixOpEnd tl) s = .next t ∧ t.mem = s.mem ∧ (t.tile tl).mq = l ∧ (t.tile tl).mqFrom = (s.blk (tl / 32)).cyc ∧
      ∀ r c, r < 128 → c < 128 → t.acc tl r c =
        if r / 32 = m.md.toNat / 2 ^ 32 % 4 ∧ c / 32 = m.md.toNat / 2 ^ 34 % 4 then 0 else s.acc tl r c := by
  have hzeroed : (s.modTile tl fun x => x.zeroBlock m.md).tile tl = (s.tile tl).zeroBlock m.md := s.modTile_same tl _
  have hmq : ((s.tile tl).zeroBlock m.md).mq = m :: l := by
    rw [Tile.zeroBlock, setKidx_queue, clearBlock_queue, hqueue]
  refine ⟨_, exec_matrixOpEnd_mzero hqueue hkind hbegan htime, rfl, ?_, ?_, fun r c _ hc => ?_⟩
  · rw [mzeroDone, popMat_tile, hzeroed, hmq]
    rfl
  · rw [mzeroDone, popMat_tile, hzeroed, hmq, List.head?_cons, Option.bind_some, hbegan]
    change max (s.blk (tl / 32)).cyc (n + 1) = _
    omega
  · rw [State.acc, mzeroDone, popMat_tile, hzeroed, Tile.zeroBlock]
    dsimp only
    rw [setKidx_acc]
    exact get_clearBlock (s.tile tl) (mdColb_lt m.md) hc

/-! ## A tile's switch (R180, R231, R256) -/

theorem startCores_tile (x : TileCtx) (j : Nat) : (s.startCores tl x).tile j = s.tile j :=
  foldl_keeps (fun t => t.tile j) (F := fun s i => s.modTcore (4 * tl + i) (x.startCore i)) (fun _ _ => rfl) _ s

theorem startCores_mem (x : TileCtx) : (s.startCores tl x).mem = s.mem :=
  foldl_keeps State.mem (F := fun s i => s.modTcore (4 * tl + i) (x.startCore i)) (fun _ _ => rfl) _ s

/-- A node outside the tiles is put in place without a change of anything but the device's tables. -/
theorem putNode_dev (gid : Nat) (g : Graph) (c : Nat) (x : GCtx) (act : Bool) (i : Nat) :
    ∃ d, s.putNode gid g c x act i = { s with dev := d } := by
  unfold State.putNode
  split
  · exact ⟨_, rfl⟩
  · split <;> exact ⟨_, rfl⟩
  all_goals exact ⟨_, rfl⟩

theorem putNodes_keeps {β : Type} (P : State → β) (hP : ∀ (t : State) d, P { t with dev := d } = P t) (gid : Nat) (g : Graph) (c : Nat)
    (act : Bool) : P (s.putNodes gid g c act) = P s := by
  unfold State.putNodes
  split
  · rfl
  · refine foldl_keeps P (fun t i => ?_) _ s
    obtain ⟨d, hd⟩ := putNode_dev (s := t) gid g c _ act i
    rw [hd, hP]

/-- A switch makes its context current, and a successor that it reaches is one no more. -/
theorem switchTo_tile {x : TileCtx} (hx : Tab.get none (s.tile tl).ctxs n = some x) : (s.switchTo tl n).mem = s.mem ∧
    ((s.switchTo tl n).tile tl).cur = some n ∧
    ((s.switchTo tl n).tile tl).succ = if (s.tile tl).succ = some n then none else (s.tile tl).succ := by
  have hkeeps : ∀ {β : Type} (P : State → β), (∀ (t : State) d, P { t with dev := d } = P t) →
      P (s.switchTo tl n) = P ((s.modTile tl fun y =>
        { y with cur := some n, succ := if y.succ = some n then none else y.succ, rings := keptRings (s.tileCtx tl) x y.rings, sent := []
                 inbox := s.switchInbox tl (s.tileCtx tl) x }).startCores tl x) := by
    intro β P hP
    simp only [State.switchTo, hx]
    refine (hP _ _).trans ?_
    split
    · rfl
    · split
      · exact putNodes_keeps P hP _ _ _ _
      · rfl
  have htile := hkeeps (fun t => t.tile tl) fun _ _ => rfl
  rw [startCores_tile, State.modTile_same] at htile
  refine ⟨(hkeeps State.mem fun _ _ => rfl).trans (startCores_mem x), ?_, ?_⟩ <;> rw [htile]

theorem tile_switches {x : TileCtx} (hdue : s.switchDue tl = some n) (hx : Tab.get none (s.tile tl).ctxs n = some x)
    (hsucc : (s.tile tl).succ ≠ some n) : ∃ t, exec (.contextSwitch tl) s = .next t ∧ t.mem = s.mem ∧ (t.tile tl).cur = some n := by
  obtain ⟨hmem, hcur, -⟩ := switchTo_tile hx
  refine ⟨_, ?_, hmem, hcur⟩
  change execContextSwitch tl s = _
  simp only [execContextSwitch, hdue, if_neg hsucc]

/-- The markers that a splice leaves its tile to send: one for every route that the old context bound. -/
def spliceMarks (s : State) (tl n : Nat) : List (Nat × Nat) :=
  (match s.tileCtx tl with
    | none => []
    | some x => x.outr.map OutRoute.num).map fun r => (r, n)

theorem tile_splices {x : TileCtx} (hdue : s.switchDue tl = some n) (hx : Tab.get none (s.tile tl).ctxs n = some x)
    (hsucc : (s.tile tl).succ = some n) :
    ∃ t, exec (.spliceSwitch tl) s = .next t ∧ t.mem = s.mem ∧ (t.tile tl).cur = some n ∧ (t.tile tl).succ = none := by
  obtain ⟨hmem, hcur, hnone⟩ := switchTo_tile hx
  rw [if_pos hsucc] at hnone
  refine ⟨(s.switchTo tl n).modTile tl fun y => { y with markers := y.markers ++ spliceMarks s tl n }, ?_, hmem, ?_, ?_⟩
  · change execSpliceSwitch tl s = _
    simp only [execSpliceSwitch, hdue, if_pos hsucc]
    rfl
  · rw [State.modTile_same]
    exact hcur
  · rw [State.modTile_same]
    exact hnone

/-! ## Splice markers (R256) -/

/-- The marker of a route for the switch to context `n`. -/
def spliceFlit (s : State) (tl route n : Nat) : Flit :=
  { hdr := mkHdr 7 0 0 route 0 0 0 (n % 4), pay := (s.graphIdent tl n).setWidth 256 }

theorem marker_leaves {route : Nat} {b l : List (Nat × Nat)} (hmarkers : (s.tile tl).markers = b ++ (route, n) :: l)
    (hway : ∀ m ∈ b, s.onWay tl m.1 = true) (hfree : s.onWay tl route = false) (hroute : route < 4096) :
    ∃ t f, exec (.spliceMarker tl) s = .next t ∧ t.mem = s.mem ∧ (t.tile tl).markers = b ++ l ∧ hKind f.hdr = 7 ∧
      hRoute f.hdr = route ∧ hKs f.hdr = n % 4 ∧
      t.link (s.tileRouter tl) .inject (hVc f.hdr) = s.link (s.tileRouter tl) .inject (hVc f.hdr) ++ [f] := by
  have hfind : (s.tile tl).markers.find? (fun m => !s.onWay tl m.1) = some (route, n) := by
    rw [hmarkers, List.find?_append, List.find?_eq_none.mpr fun m hm => by simp [hway m hm]]
    simp [hfree]
  have hnot : (route, n) ∉ b := fun hmem => by
    have hstill := hway _ hmem
    rw [hfree] at hstill
    cases hstill
  obtain ⟨hkind, -, -, hrt, -, -, -, hks, -⟩ := mkHdr_fields (kind := 7) (len := 0) (stop := 0) (steer := 0) (seq := 0) (et := 0)
    (ks := n % 4) (by decide) (by decide) (by decide) hroute (by decide) (by decide) (by decide) (by omega)
  refine ⟨(s.inject (s.tileRouter tl) (spliceFlit s tl route n)).modTile tl fun y => { y with markers := y.markers.erase (route, n) },
    spliceFlit s tl route n, ?_, rfl, ?_, hkind, hrt, hks, setLink_same _ _ _ _⟩
  · change execSpliceMarker tl s = _
    simp only [execSpliceMarker, hfind]
    rfl
  · rw [State.modTile_same]
    change (s.tile tl).markers.erase (route, n) = _
    rw [hmarkers, List.erase_append_right _ hnot, List.erase_cons_head]

/-! ## Configuration flits (R238) -/

theorem configuration_enters {f : Flit} {l : List Flit} {x : TileCtx} (hcfg : (s.tile tl).cfg = f :: l) (hwhole : f.broken = false)
    (hcur : (s.tile tl).cur ≠ some (hKs f.hdr % 4)) (hx : Tab.get none (s.tile tl).ctxs (hKs f.hdr % 4) = some x) :
    ∃ t y, exec (.configurationFlit tl) s = .next t ∧ t.mem = s.mem ∧ (t.tile tl).cfg = l ∧
      Tab.get none (t.tile tl).ctxs (hKs f.hdr % 4) = some y ∧ y.got = x.got + 1 ∧ Tab.get 0 y.image (hKs f.hdr / 4) = f.pay ∧
      (x.got + 1 ≠ x.words → y.bad = x.bad) := by
  refine ⟨(s.modTile tl fun y => { y with cfg := l }).modCtx tl (hKs f.hdr % 4) fun x => x.word (hKs f.hdr / 4) f.pay,
    x.word (hKs f.hdr / 4) f.pay, ?_, rfl, ?_, ?_, rfl, Tab.get_set_same _ _ _, fun hmore => ?_⟩
  · change execConfigurationFlit tl s = _
    simp only [execConfigurationFlit, hcfg, hwhole, beq_eq_false_iff_ne.mpr hcur]
    rfl
  · rw [State.modCtx, State.modTile_same, State.modTile_same]
  · rw [State.modCtx, State.modTile_same, State.modTile_same]
    refine (Tab.get_set_same _ _ _).trans ?_
    rw [hx, Option.map_some]
  · simp [TileCtx.word, hmore]

end Sys2Proof.Claims
end

section
/-!
PROOFS. The life of a graph (R236 to R240, R409, R410): what ends of commands write leaves the belvedere's queue and the graphs as they are, and
what the end of a graph, of a load and of an unload leaves.
-/
namespace Sys2Proof.Claims
open Sys2Proof.Machine

variable {s t : State} {gid : Nat} {g : Graph}

/-! ## What the belvedere has in hand -/

/-- The belvedere's queue of commands, the graphs, and the load and the unload in hand. -/
def bellView (s : State) : List BCmd × Tab (Option Graph) × Option Nat × Option Nat :=
  (s.dev.bq, s.dev.graphs, s.dev.loading, s.dev.unloading)

/-- The parts of what the belvedere has in hand. -/
theorem of_bellView {bq : List BCmd} {gs : Tab (Option Graph)} {ld ul : Option Nat} (h : bellView t = (bq, gs, ld, ul)) :
    t.dev.bq = bq ∧ t.dev.graphs = gs ∧ t.dev.loading = ld ∧ t.dev.unloading = ul := by
  simpa only [bellView, Prod.mk.injEq] using h

/-- A fold of steps that leave what the belvedere has in hand leaves it. -/
theorem bellView_foldl {α : Type} {F : State → α → State} (h : ∀ s a, bellView (F s a) = bellView s) (l : List α) (s : State) :
    bellView (l.foldl F s) = bellView s := foldl_keeps bellView h l s

/-! ## Writes (R113, R270, R360) -/

theorem bellView_watchWord (sw : Bool) (va : Nat) : bellView (s.watchWord sw va) = bellView s := by
  unfold State.watchWord
  dsimp only
  split <;> rfl

theorem bellView_watch (sw : Bool) (va pa n : Nat) : bellView (s.watch sw va pa n) = bellView s := by
  unfold State.watch
  dsimp only
  split
  · rfl
  split
  · exact bellView_watchWord sw va
  · exact bellView_watchWord sw va

theorem bellView_noteWrite (by_ : Option Nat) (task : Option (Nat × Nat)) (pa n : Nat) :
    bellView (s.noteWrite by_ task pa n) = bellView s := rfl

theorem bellView_poke (a : Nat) (l : List Byte) : bellView (s.poke a l) = bellView s := rfl

theorem bellView_setLanded (pa : Nat) (l : Landed) : bellView (s.setLanded pa l) = bellView s := rfl

theorem bellView_putSync (pa : Nat) (w : SyncW) (by_ : Option Nat) : bellView (s.putSync pa w by_) = bellView s := by
  rw [State.putSync, State.pokeN, bellView_poke, bellView_noteWrite, bellView_watch]

theorem bellView_tellSync (x : Nat) (w : SyncWho) : bellView (s.tellSync x w) = bellView s := by cases w <;> rfl

theorem bellView_closeSync (pa : Nat) : bellView (s.closeSync pa) = bellView s := by
  unfold State.closeSync
  dsimp only
  split
  · rfl
  · rw [bellView_foldl fun s w => bellView_tellSync _ w, bellView_setLanded, bellView_putSync]

theorem bellView_rollSync (pa : Nat) : bellView (s.rollSync pa) = bellView s := by
  unfold State.rollSync
  split
  · exact bellView_closeSync pa
  · rfl

theorem bellView_syncPut (pa : Nat) (f : Landed → Landed) : bellView (s.syncPut pa f) = bellView s := by
  rw [State.syncPut, bellView_setLanded, bellView_rollSync]

theorem bellView_endWord (pa : Nat) : bellView (s.endWord pa) = bellView s := by
  rw [State.endWord, bellView_syncPut, bellView_closeSync, bellView_rollSync]

theorem bellView_endSync (pa n : Nat) : bellView (s.endSync pa n) = bellView s := by
  rw [State.endSync, bellView_foldl (F := fun (s : State) (e : Nat × Landed) => s.endWord e.1) fun _ _ => bellView_endWord _]

theorem bellView_homePoke (p : Phys) (va : Nat) (l : List Byte) : bellView (s.homePoke p va l) = bellView s := by
  rw [State.homePoke, bellView_poke, bellView_noteWrite, bellView_watch, bellView_endSync]

theorem bellView_performWrite {p : Phys} (hhome : p.home = .dram) (by_ : Option Nat) (task : Option (Nat × Nat)) (va : Nat) (l : List Byte) :
    bellView (s.performWrite by_ task p va l) = bellView s := by
  rw [State.performWrite, forgetMail_keeps bellView fun _ _ => rfl, State.writeAt, hhome]
  dsimp only
  rw [bellView_poke, bellView_noteWrite, bellView_watch, bellView_endSync]

/-! ## Packets (R338, R392) -/

theorem bellView_sendPacket {dest sname : Nat} {kind : Option PKind} {fs : List Flit} (h : s.sendPacket dest sname kind fs = some t) :
    bellView t = bellView s := by
  unfold State.sendPacket at h
  split at h
  · cases h
  · dsimp only at h
    split at h
    · cases h
      rfl
    · split at h <;> cases h <;> rfl

theorem bellView_farPieces {kind : PKind} {dev : Nat} : ∀ {l : List (Nat × Nat × List Byte)} {s : State}, s.farPieces kind dev l = some t →
    bellView t = bellView s
  | [], _, h => by cases h; rfl
  | (a, form, bs) :: l, s, h => by
    rw [State.farPieces] at h
    split at h
    next hsend =>
      have hsent := bellView_sendPacket hsend
      exact (bellView_farPieces h).trans hsent
    next => cases h

theorem bellView_farWrite {kind : PKind} {p : Phys} {va : Nat} {l : List Byte} (h : s.farWrite kind p va l = some t) :
    bellView t = bellView s := by
  unfold State.farWrite at h
  split at h
  · exact (bellView_farPieces h).trans (bellView_foldl (fun _ _ => bellView_watchWord _ _) _ s)
  all_goals
    cases h
    exact bellView_foldl (fun _ _ => bellView_homePoke _ _ _) _ s

/-! ## The end of a command (R409) -/

theorem bellView_result (c : BCmd) (code : Nat) : bellView (s.result c code) = bellView s := by
  unfold State.result
  split
  · exact bellView_homePoke _ _ _
  · split <;> rfl

theorem bellView_reqStore {c : BCmd} {off : Nat} {l : List Byte} (h : s.reqStore c off l = some t) : bellView t = bellView s := by
  unfold State.reqStore at h
  split at h
  · exact bellView_farWrite h
  · split at h <;> cases h <;> rfl

/-- A command that ends leaves the queue, and leaves the rest as it is. -/
theorem bellView_endCmd (s : State) (c : BCmd) (code : Nat) : bellView (s.endCmd c code) = ((bellView s).1.drop 1, (bellView s).2) := by
  have hpop : ∀ {u : State}, bellView u = bellView s → bellView u.popCmd = ((bellView s).1.drop 1, (bellView s).2) := fun {u} hu => by
    rw [← hu]
    rfl
  unfold State.endCmd
  split
  · refine hpop ?_
    cases hstore : s.reqStore c (resultAt c.kind.toNat) (leBytes 2 code) with
    | none => rfl
    | some u => exact bellView_reqStore hstore
  · exact hpop (bellView_result c code)

/-! ## A graph's resources come free (R240) -/

/-- Changes of tiles leave what the belvedere has in hand. -/
theorem bellView_modTiles (F : State → Nat → Tile → Tile) (l : List Nat) (s : State) :
    bellView (l.foldl (fun s n => s.modTile n (F s n)) s) = bellView s := bellView_foldl (fun _ _ => by rfl) l s

/-- A graph whose resources are free is one no more. -/
theorem bellView_freeGraph (s : State) (gid : Nat) (g : Graph) :
    bellView (s.freeGraph gid g) = (s.dev.bq, Tab.set none s.dev.graphs gid none, s.dev.loading, s.dev.unloading) := by
  obtain ⟨hbq, hgraphs, hloading, hunloading⟩ := of_bellView
    (bellView_modTiles (fun s n x => x.without gid fun r => s.routeOwner (s.tileRouter n) r == some gid) g.place s)
  rw [← hbq, ← hgraphs, ← hloading, ← hunloading]
  rfl

theorem freeGraph_graph : (s.freeGraph gid g).graph gid = none := by
  obtain ⟨-, hgraphs, -, -⟩ := of_bellView (bellView_freeGraph s gid g)
  rw [State.graph, hgraphs, Tab.get_set_same]

theorem freeGraph_mem : (s.freeGraph gid g).mem = s.mem :=
  foldl_keeps State.mem (F := fun s n => s.modTile n fun x => x.without gid fun r => s.routeOwner (s.tileRouter n) r == some gid)
    (fun _ _ => rfl) g.place s

theorem graph_ends (hg : s.graph gid = some g) (hdone : s.graphDone gid g = true) :
    ∃ t, exec (.graphEnd gid) s = .next t ∧ t.mem = s.mem ∧ t.graph gid = none := by
  refine ⟨s.freeGraph gid g, ?_, freeGraph_mem, freeGraph_graph⟩
  change execGraphEnd gid s = _
  simp only [execGraphEnd, hg, if_pos hdone]

/-! ## The end of a load (R236, R239) -/

/-- In mode 0 nothing is made current. -/
theorem beginTile_of_rest (hmode : g.mode = 0) (n : Nat) : s.beginTile gid g n = s := by
  unfold State.beginTile
  split
  · rfl
  · rw [hmode]
    rfl

theorem bellView_loadDone (hmode : g.mode = 0) (c : BCmd) : bellView (s.loadDone gid g c) =
    (s.dev.bq.drop 1, Tab.set none s.dev.graphs gid (some { g with live := true }), none, s.dev.unloading) := by
  have hrest : ∀ u : State, g.place.foldl (fun s n => s.beginTile gid g n) u = u := fun u =>
    foldl_keeps id (F := fun s n => s.beginTile gid g n) (fun _ _ => beginTile_of_rest hmode _) g.place u
  rw [State.loadDone, hrest, bellView_endCmd]
  rfl

/-- A graph that was loading is free, its configuration flits are gone, and its load is in hand no more. -/
def loadCut (s : State) (gid : Nat) (g : Graph) : State :=
  g.place.foldl (fun s n => s.modTile n fun x => { x with cfg := [] }) ((s.freeGraph gid g).modDev fun d => { d with loading := none })

theorem bellView_loadCut : bellView (loadCut s gid g) = (s.dev.bq, Tab.set none s.dev.graphs gid none, none, s.dev.unloading) := by
  obtain ⟨hbq, hgraphs, -, hunloading⟩ := of_bellView (bellView_freeGraph s gid g)
  rw [loadCut, bellView_modTiles fun _ _ x => { x with cfg := [] }, ← hbq, ← hgraphs, ← hunloading]
  rfl

theorem bellView_loadFail (c : BCmd) : bellView (s.loadFail gid g c) =
    (s.dev.bq.drop 1, Tab.set none s.dev.graphs gid none, none, s.dev.unloading) := by
  rw [show s.loadFail gid g c = (loadCut s gid g).endCmd c 1 from rfl, bellView_endCmd, bellView_loadCut]

section
variable {c : BCmd} {l : List BCmd} (hload : s.dev.loading = some gid) (hbq : s.dev.bq = c :: l) (hg : s.graph gid = some g)
include hload hbq hg

theorem load_ends (hgood : s.imagesBad gid g = false) (hin : s.imagesIn gid g = true) (hmode : g.mode = 0) :
    ∃ t, exec .graphLoad s = .next t ∧ t.graph gid = some { g with live := true } ∧ t.dev.loading = none ∧ t.dev.bq = l := by
  obtain ⟨hqueue, hgraphs, hloading, -⟩ := of_bellView (bellView_loadDone (s := s) (gid := gid) hmode c)
  rw [hbq] at hqueue
  refine ⟨s.loadDone gid g c, ?_, by rw [State.graph, hgraphs, Tab.get_set_same], hloading, hqueue⟩
  change execGraphLoad s = _
  simp only [execGraphLoad, hload, hbq, hg, hgood, hin]
  rfl

theorem load_fails (hbad : s.imagesBad gid g = true) :
    ∃ t, exec .graphLoad s = .next t ∧ t.graph gid = none ∧ t.dev.loading = none ∧ t.dev.bq = l := by
  obtain ⟨hqueue, hgraphs, hloading, -⟩ := of_bellView (bellView_loadFail (s := s) (gid := gid) (g := g) c)
  rw [hbq] at hqueue
  refine ⟨s.loadFail gid g c, ?_, by rw [State.graph, hgraphs, Tab.get_set_same], hloading, hqueue⟩
  change execGraphLoad s = _
  simp only [execGraphLoad, hload, hbq, hg, if_pos hbad]

end

/-! ## The end of an unload (R410) -/

theorem bellView_leaveGroup (grp : Option Nat) : bellView (s.leaveGroup grp) = bellView s := by
  unfold State.leaveGroup
  split
  · rfl
  split <;> rfl

theorem bellView_escapeBack (tile node n : Nat) (pay : Option VWord) (aux : Word) : bellView (s.escapeBack tile node n pay aux) = bellView s := by
  unfold State.escapeBack
  dsimp only
  split
  · rfl
  split <;> rfl

theorem bellView_sendReply (grp : Group) (status cause : Nat) (v : Word × Word × Word) (pay : VWord) (r : Nat × FRec) :
    bellView (s.sendReply grp status cause v pay r) = bellView s := by
  unfold State.sendReply
  dsimp only
  split
  · rfl
  · rfl
  · unfold State.replyFar
    split
    next hsend => exact bellView_sendPacket hsend
    next => rfl
  · rfl
  · exact bellView_escapeBack _ _ _ _ _

theorem bellView_endMember (grp : Option Nat) (reply : Bool) (d a b : Word) (v0 : VWord) (r : Nat × FRec) :
    bellView (s.endMember grp reply d a b v0 r) = bellView s := by
  unfold State.endMember
  split
  · rfl
  split
  · rfl
  split
  · exact bellView_leaveGroup _
  · exact (bellView_leaveGroup _).trans (bellView_sendReply _ _ _ _ _ _)

theorem bellView_endThread (h : Nat) (reply : Bool) (d a b : Word) : bellView (s.endThread h reply d a b) = bellView s := by
  unfold State.endThread
  dsimp only
  refine (bellView_foldl (F := fun s c => s.compRec h c) (fun _ _ => rfl) _ _).trans ((bellView_endMember _ _ _ _ _ _ _).trans ?_)
  split <;> rfl

theorem bellView_freeEscFuts (ids : List Nat) : bellView (s.freeEscFuts ids) = bellView s := by
  refine bellView_foldl (fun s f => bellView_foldl (fun s k => ?_) _ s) _ s
  split
  · exact bellView_performWrite rfl _ _ _ _
  · rfl

theorem bellView_setGroups (F : State → Nat → Option Group) (l : List Nat) (s : State) :
    bellView (l.foldl (fun s i => s.setGroup i (F s i)) s) = bellView s := bellView_foldl (fun _ _ => by rfl) l s

theorem bellView_endThreads (P : Nat × Thread → Bool) (l : Tab Thread) (s : State) :
    bellView (l.foldl (fun s e => if P e then s.endThread e.1 false 0 0 0 else s) s) = bellView s :=
  bellView_foldl (fun s e => by
    split
    · exact bellView_endThread _ _ _ _ _
    · rfl) l s

theorem bellView_endEscapes (s : State) (gid : Nat) (g : Graph) : bellView (s.endEscapes gid g) = bellView s := by
  unfold State.endEscapes
  dsimp only
  rw [bellView_modTiles fun _ _ x => { x with escs := [] }, bellView_setGroups fun _ _ => none]
  refine (bellView_freeEscFuts _).trans ?_
  rw [bellView_endThreads, bellView_setGroups]

theorem bellView_dropTokens (s : State) (gid : Nat) (g : Graph) : bellView (s.dropTokens gid g) = bellView s := by
  unfold State.dropTokens
  dsimp only
  refine (bellView_foldl (fun s n => ?_) _ _).trans rfl
  exact bellView_foldl (F := fun s i => s.modTcore (4 * n + i) fun c => { c with ports := [], outq := [], waited := none }) (fun _ _ => rfl) _ _

theorem bellView_loseAccs (s : State) (gid : Nat) (g : Graph) : bellView (s.loseAccs gid g) = bellView s :=
  bellView_modTiles (fun _ n x => x.lostAcc n s.fresh) (s.escTiles gid g) s

/-- A graph's tiles, threads, tokens and resources are free, and its unload is in hand no more. -/
def unloadCut (s : State) (gid : Nat) (g : Graph) : State :=
  ((((s.loseAccs gid g).endEscapes gid g).dropTokens gid g).freeGraph gid g).modDev fun d => { d with unloading := none }

theorem bellView_unloadCut : bellView (unloadCut s gid g) = (s.dev.bq, Tab.set none s.dev.graphs gid none, s.dev.loading, none) := by
  have hkept : bellView (((s.loseAccs gid g).endEscapes gid g).dropTokens gid g) = bellView s := by
    rw [bellView_dropTokens, bellView_endEscapes, bellView_loseAccs]
  obtain ⟨hbq, hgraphs, hloading, -⟩ := of_bellView hkept
  obtain ⟨hbq', hgraphs', hloading', -⟩ := of_bellView (bellView_freeGraph (((s.loseAccs gid g).endEscapes gid g).dropTokens gid g) gid g)
  rw [← hbq, ← hgraphs, ← hloading, ← hbq', ← hgraphs', ← hloading']
  rfl

theorem bellView_unloadDone (c : BCmd) : bellView (s.unloadDone gid g c) =
    (s.dev.bq.drop 1, Tab.set none s.dev.graphs gid none, s.dev.loading, none) := by
  rw [State.unloadDone, ← unloadCut, bellView_endCmd, bellView_unloadCut]

section
variable {c : BCmd} {l : List BCmd} (hunload : s.dev.unloading = some gid) (hbq : s.dev.bq = c :: l) (hg : s.graph gid = some g)
  (hready : s.unloadReady gid g = true)
include hunload hbq hg hready

theorem unload_ends (hesc : s.escReady gid g = true) :
    ∃ t, exec .graphUnload s = .next t ∧ t.graph gid = none ∧ t.dev.unloading = none ∧ t.dev.bq = l := by
  obtain ⟨hqueue, hgraphs, -, hunloading⟩ := of_bellView (bellView_unloadDone (s := s) (gid := gid) (g := g) c)
  rw [hbq] at hqueue
  refine ⟨s.unloadDone gid g c, ?_, by rw [State.graph, hgraphs, Tab.get_set_same], hunloading, hqueue⟩
  change execGraphUnload s = _
  simp only [execGraphUnload, hunload, hbq, hg, hready, hesc]
  rfl

theorem unload_waits (hesc : s.escReady gid g = false) : exec .graphUnload s = .next (s.setGraph gid (some { g with esc := true })) := by
  change execGraphUnload s = _
  simp only [execGraphUnload, hunload, hbq, hg, hready, hesc]
  rfl

end

end Sys2Proof.Claims
end

section
/-!
PROOFS. The clauses of O46 on address generators, the matrix queue, switches and graphs, put together.
-/
namespace Sys2Proof.Claims
open Sys2Proof.Machine

/-- Settles O46: each event of the graph machinery does what its clause says. -/
theorem graphEvents : Obligations.GraphEvents := by
  refine ⟨fun s m a p ha hload hidle hactive hleft hout hpart hpage hxl hroute => ⟨fun hfar hhome => ?_, fun x hfar => ?_⟩,
    fun s m a f l ha hload hidle hout => ?_,
    fun s m a p f l ha hstore hidle hin hpart hat hkind hhome hpage hxl htoken hline hcalm => ?_,
    fun s m a g p ha harrs hfar hidle hg hxl hhome hset => ?_,
    fun s tl n m l hqueue hkind => ⟨fun hbegan hfrom => ?_, fun hbegan htime => ?_⟩,
    fun s tl n x hdue hx => ⟨fun hsucc => ?_, fun hsucc => ?_⟩,
    fun s tl route n b l hmarkers hway hfree hroute => ?_,
    fun s tl f l x hcfg hwhole hcur hx => ?_,
    fun s gid g hg hdone => ?_,
    fun s gid g c l hload hbq hg => ⟨fun hgood hin hmode => ?_, fun hbad => ?_⟩,
    fun s gid g c l hunload hbq hg hready => ⟨fun hesc => ?_, fun hesc => ?_⟩⟩
  · exact loadNode_reads ha hload hidle hactive hleft hout hpart hpage hxl hfar hhome
  · exact loadNode_gains ha hload hidle hactive hleft hout hpart hpage hxl hroute hfar
  · exact loadNode_emits ha hload hidle hout
  · exact storeNode_writes ha hstore hidle hin hpart hat hkind hhome hpage hxl htoken hline hcalm
  · exact storeNode_arrives ha harrs hfar hidle hg hxl hhome hset
  · exact mzero_starts hqueue hkind hbegan hfrom
  · exact mzero_ends hqueue hkind hbegan htime
  · exact tile_switches hdue hx hsucc
  · exact tile_splices hdue hx hsucc
  · exact marker_leaves hmarkers hway hfree hroute
  · exact configuration_enters hcfg hwhole hcur hx
  · exact graph_ends hg hdone
  · exact load_ends hload hbq hg hgood hin hmode
  · exact load_fails hload hbq hg hbad
  · exact unload_ends hunload hbq hg hready hesc
  · exact unload_waits hunload hbq hg hready hesc

end Sys2Proof.Claims
end

section
/-!
PROOFS. recv and abq (R211, R213, R215): what the header of a mailbox says, and what the arbiter knows of a task.
-/
namespace Sys2Proof.Claims
open Sys2Proof.Machine

section
variable {s : State} {g : Nat} (hc : s.cur = .thread g)

/-- The line that recv reads holds the header in its first half. -/
theorem mailbox_line (m : List Host.Cell) (a : Nat) :
    mailbox (memNat m a 64) = (memNat m a 2, memNat m (a + 8) 8, memNat m (a + 16) 8) := by
  rw [mailbox]
  exact congrArg₂ Prod.mk (bitsN_memNat m a 0 2 62) (congrArg₂ Prod.mk (bitsN_memNat m a 8 8 48) (bitsN_memNat m a 16 8 40))

section
variable (hspec : (s.thread g).spec = false) {a : SReg} {imm : Imm} {p : Phys} (hr : Reaches s g (eaOf s a imm) 64 64 true false .any p)
include hc hspec hr

theorem exec_recv_behind (d : SReg) (hsb : ((s.thread g).sb.any fun e => e.over p 64) = true) : exec (.recv d a imm) s = s.wait := by
  change execRecv d a imm s = _
  rw [execRecv, s.swarm_of_thread hc, s.plainly_of_plain hc hspec, ← eaOf_eq_ea, hr.access]
  exact if_pos hsb

theorem exec_recv (d : SReg) (hsb : ((s.thread g).sb.any fun e => e.over p 64) = false) (hhome : p.home = .dram) : exec (.recv d a imm) s =
    if memNat s.mem (p.pa + 16) 8 ≠ memNat s.mem (p.pa + 8) 8 then
      .next (s.wS d (recordAddr (eaOf s a imm) (memNat s.mem p.pa 2) (memNat s.mem (p.pa + 8) 8)))
    else .next (s.modThread g fun t => { t with run := .wait (.recv d (eaOf s a imm)) }) := by
  change execRecv d a imm s = _
  rw [execRecv, s.swarm_of_thread hc, s.plainly_of_plain hc hspec, ← eaOf_eq_ea, hr.access]
  simp only [hsb, Bool.false_eq_true, if_false, hhome, homeRead_of_inMemory (.inl hhome), mailbox_line]

end

include hc

theorem exec_abq_none (htask : s.taskOf g = none) (d : SReg) : exec (.abq d) s = .next (s.wS d 0) := by
  change execAbq d s = _
  rw [execAbq, s.swarm_of_thread hc, htask]

theorem exec_abq_task {k : Task} (htask : s.taskOf g = some k) (d : SReg) : exec (.abq d) s = .next (s.wS d (BitVec.ofNat 64
    (k.aborts + (if (s.thread g).spec then 256 else 0) + (if s.isOldestUnfinished g then 512 else 0)))) := by
  have hflag : ∀ (b : Bool) (n : Nat), b.toNat * n = if b then n else 0 := fun b n => by cases b <;> simp
  change execAbq d s = _
  rw [execAbq, s.swarm_of_thread hc, htask]
  simp only [hflag]
  rfl

end

/-- Settles O28: recv reads the header of the mailbox once nothing of the thread's own is before it, and abq the task of the thread. -/
theorem recvAndAbq : Obligations.RecvAndAbq := by
  refine fun s g d a x p hc => ⟨fun hspec hr hsb => ?_, fun hspec hhome hr hsb => ⟨fun hfull hcap => ?_, fun hempty => ?_⟩,
    fun htask => ⟨_, exec_abq_none hc htask d, wroteS_wS d _⟩, fun k htask => ⟨_, exec_abq_task hc htask d, wroteS_wS d _⟩⟩
  · rw [exec_recv_behind hc hspec hr d hsb]
    exact wait_waitsAtIssue hc
  · refine ⟨_, (exec_recv hc hspec hr d hsb hhome).trans (if_pos hfull), ?_⟩
    rw [recordAddr_eq hcap]
    exact wroteS_wS d _
  · exact exec_wait hc ((exec_recv hc hspec hr d hsb hhome).trans (if_neg (not_not.mpr hempty)))

end Sys2Proof.Claims
end

section
/-!
PROOFS. Invalidation (R220, R221): what tlbi and icinv leave in the caches of a swarm core.
-/
namespace Sys2Proof.Claims
open Sys2Proof.Machine

section
variable {s : State} {g : Nat}

/-- The scope of an invalidation as a swarm core sees it (R81). -/
theorem coreIn_eq_covers (sc : Scope) (g c : Nat) :
    (if coreScope sc then c == threadCore g else inScope sc (unitBlk g) (c / 16)) = covers sc g c := by
  cases sc <;> simp [coreScope, inScope, covers, threadCore, unitBlk, Nat.div_div_eq_div_mul]

/-- A change of every core that leaves an idle one idle. -/
theorem core_mapVals {f : Nat → Core → Core} {t : State} (ht : t.cores = Tab.mapVals {} f s.cores) (hf : ∀ c, f c {} = {}) (c : Nat) :
    t.core c = f c (s.core c) := by
  rw [State.core, ht]
  exact Tab.get_mapVals f hf s.cores c

theorem tlbInval_mem (sc : Scope) (a b : Word) : (s.tlbInval g sc a b).mem = s.mem := by
  unfold State.tlbInval
  simp only
  split <;> rfl

theorem tlbInval_tlb (sc : Scope) (a b : Word) (c : Nat) : ((s.tlbInval g sc a b).core c).tlb =
    if covers sc g c then (s.core c).tlb.filter (fun e => !inRange a b e.base (2 ^ pageLog e.level)) else (s.core c).tlb := by
  have hcores : (s.tlbInval g sc a b).cores = Tab.mapVals {}
      (fun c x => if covers sc g c then { x with tlb := tlbDrop a b x.tlb } else x) s.cores := by
    simp only [← coreIn_eq_covers]
    unfold State.tlbInval
    simp only
    split <;> rfl
  rw [core_mapVals hcores fun c => ite_self _, apply_ite Core.tlb]
  rfl

theorem lineInval_core (sc : Scope) (a b : Word) (c : Nat) : (s.lineInval g sc a b).core c =
    if covers sc g c then { s.core c with ilines := (s.core c).ilines.filter fun l => !inRange a b l.va 64 } else s.core c := by
  have hcores : (s.lineInval g sc a b).cores = Tab.mapVals {}
      (fun c x => if covers sc g c then { x with ilines := x.ilines.filter fun l => !inRange a b l.va 64 } else x) s.cores := by
    simp only [State.lineInval, coreIn_eq_covers]
  exact core_mapVals hcores (fun c => ite_self _) c

variable (hc : s.cur = .thread g)
include hc

theorem exec_tlbi (hsv : (s.thread g).sv = true) (sc : Scope) (a b : SReg) : exec (.tlbi sc a b) s =
    if s.storesIn g sc (s.rS a) (s.rS b) then s.wait else .next (s.tlbInval g sc (s.rS a) (s.rS b)) := s.super_of_sv hc hsv _

theorem exec_icinv (hspec : (s.thread g).spec = false) (sc : Scope) (a b : SReg) : exec (.icinv sc a b) s =
    if (s.thread g).sb ≠ [] then s.wait else .next (s.lineInval g sc (s.rS a) (s.rS b)) :=
  (s.swarm_of_thread hc _).trans (s.plainly_of_plain hc hspec _)

end

/-- Settles O21: each form is one pass over the caches of its scope, once nothing that was translated before is left. -/
theorem invalidationForms : Obligations.InvalidationForms := by
  refine fun s g c sc a b hc => ⟨fun hsv hfree => ?_, fun hsv hleft => ?_, fun hspec hsb => ?_, fun hspec hsb => ?_⟩
  · exact ⟨_, (exec_tlbi hc hsv sc a b).trans (if_neg (by simp [hfree])), tlbInval_mem _ _ _, tlbInval_tlb _ _ _ c⟩
  · rw [exec_tlbi hc hsv, if_pos hleft]
    exact wait_waitsAtIssue hc
  · rw [exec_icinv hc hspec, if_pos hsb]
    exact wait_waitsAtIssue hc
  · refine ⟨_, (exec_icinv hc hspec sc a b).trans (if_neg (not_not.mpr hsb)), rfl, ?_, ?_⟩
    · rw [lineInval_core, apply_ite Core.tlb, ite_self]
    · rw [lineInval_core, apply_ite Core.ilines]

end Sys2Proof.Claims
end

section
/-!
PROOFS. preempt, halt, and the halts that units take (R222 to R224, R281).
-/
namespace Sys2Proof.Claims
open Sys2Proof.Machine

/-! ## The one thread that a slot name names (R222) -/

/-- A form of preempt by thread `g` whose operand is the name of the existing slot of thread `u`. -/
structure NamesThread (s : State) (g u : Nat) (a : SReg) : Prop where
  hand   : s.cur = .thread g
  sv     : (s.thread g).sv = true
  ok     : slotNameOk (s.rS a) = true
  core   : (slotName (s.rS a)).core = true
  one    : (slotName (s.rS a)).all = false
  op     : (slotName (s.rS a)).op ≠ 3
  exists_ : s.slotExists (slotName (s.rS a)) = true
  slot   : u = (slotName (s.rS a)).num * 8 + (slotName (s.rS a)).tid

section
variable {s : State} {g u : Nat} {a : SReg}

theorem threadState_absent (h : u = g ∨ (s.thread u).run = .free) : s.threadState g u = .absent := by
  obtain h | h := h
  · exact if_pos h
  · simp [State.threadState, h]

theorem threadState_running (hne : u ≠ g) (h : (s.thread u).run = .run) : s.threadState g u = .running := by
  simp [State.threadState, hne, h]

theorem threadState_halted (hne : u ≠ g) (h : (s.thread u).run = .halted) : s.threadState g u = .halted := by
  simp [State.threadState, hne, h]

section
variable (hn : NamesThread s g u a) {want : PState} {tile : Bool} {act : State → SlotName → Nat → State}
include hn

theorem NamesThread.units : (slotName (s.rS a)).units = [u] := by
  rw [SlotName.units, if_pos hn.core, hn.one, hn.slot]
  rfl

/-- Every check of the form passes. -/
theorem NamesThread.preempt_eq (d : SReg) : s.preempt d a want tile act =
    if preemptCode [s.threadState g u] want ≠ 0 then .next (s.longS d (wd (preemptCode [s.threadState g u] want)))
    else .next (((if s.threadState g u = want then act s.next (slotName (s.rS a)) u else s.next)).long
      { dest := .sreg d, left := 0, ready := false, val := 0, tok := s.fresh, fly := .preempt }) := by
  have hop : ((slotName (s.rS a)).op == 3) = false := beq_eq_false_iff_ne.mpr hn.op
  rw [State.preempt, s.swarm_of_thread hn.hand]
  simp only [hn.ok, hop, Bool.or_false, Bool.and_false, Bool.false_eq_true, if_false, State.onlySv, hn.sv, if_true, hn.exists_,
    Bool.not_true, hn.units, List.map_cons, List.map_nil, List.foldl_cons, List.foldl_nil, State.unitState, hn.core]

/-- A target that does not exist, or is the issuer. -/
theorem NamesThread.preempt_absent (habsent : s.threadState g u = .absent) (hwant : want ≠ .absent) (d : SReg) :
    ∃ t, s.preempt d a want tile act = .next t ∧ Queued s t (.sreg d) 1 0 := by
  have hcode : preemptCode [PState.absent] want = 1 := by cases want <;> simp_all [preemptCode]
  refine ⟨_, (hn.preempt_eq d).trans (if_pos ?_), ?_⟩
  · rw [habsent, hcode]
    decide
  · rw [habsent, hcode]
    exact queued_longS d _

/-- A target in the state for the request. -/
theorem NamesThread.preempt_acts (hstate : s.threadState g u = want) (d : SReg) : s.preempt d a want tile act =
    .next ((act s.next (slotName (s.rS a)) u).long
      { dest := .sreg d, left := 0, ready := false, val := 0, tok := s.fresh, fly := .preempt }) := by
  rw [hn.preempt_eq, hstate, if_neg (by simp [preemptCode]), if_pos rfl]

end

/-! ## Requests that become due -/

/-- The state after a request has become due for thread `u`. -/
def withDue (s : State) (u : Nat) (trap : Bool) : State :=
  s.next.modThread u fun t => { t with due := t.due ++ [{ trap := trap, by_ := some s.fresh }] }

/-- The state after a request has become due for thread `u`, whose result stays awaited. -/
def requested (s : State) (u : Nat) (d : SReg) (trap : Bool) : State :=
  (withDue s u trap).long { dest := .sreg d, left := 0, ready := false, val := 0, tok := s.fresh, fly := .preempt }

theorem long_thread_other (hc : s.cur = .thread g) (hne : u ≠ g) (p : Pending) : (s.long p).thread u = s.thread u := by
  rw [State.long, State.setCtx_thread, if_neg (by rw [hc]; exact fun h => hne (UnitRef.thread.inj h).symm)]

theorem long_thread_ctx (hc : s.cur = .thread g) (p : Pending) :
    ((s.long p).thread g).ctx.pend = (s.thread g).ctx.pend ++ [{ p with left := s.iss.la }] := by
  rw [State.long, State.setCtx_thread, if_pos hc, ctx_of_thread hc]

theorem requested_due (hc : s.cur = .thread g) (hne : u ≠ g) (d : SReg) (trap : Bool) : (requested s u d trap).mem = s.mem ∧
    ((requested s u d trap).thread u).due = (s.thread u).due ++ [{ trap := trap, by_ := some s.fresh }] ∧
    ((requested s u d trap).thread g).ctx.pend = s.ctx.pend ++ [{ awaited s d with fly := .preempt }] := by
  have hcur : (withDue s u trap).cur = .thread g := hc
  refine ⟨State.long_mem _ _, ?_, ?_⟩
  · rw [requested, long_thread_other hcur hne, withDue, State.modThread_same]
    rfl
  · rw [requested, long_thread_ctx hcur, withDue, State.modThread_other _ _ _ _ hne.symm, ctx_of_thread hc]
    rfl

/-- preempt halt or preempt trap of a running thread. -/
theorem NamesThread.exec_requests (hn : NamesThread s g u a) (hstate : s.threadState g u = .running) (d : SReg) :
    exec (.preemptHalt d a) s = .next (requested s u d false) ∧ exec (.preemptTrap d a) s = .next (requested s u d true) := by
  constructor
  · change execPreemptHalt d a s = _
    rw [execPreemptHalt, hn.preempt_acts hstate, State.addDue, if_pos hn.core]
    rfl
  · change execPreemptTrap d a s = _
    rw [execPreemptTrap, hn.preempt_acts hstate, State.addDue, if_pos hn.core]
    rfl

/-- The state after a halted thread that runs no task issues again. -/
def resumed (s : State) (u : Nat) : State := s.next.modThread u fun t => { t with run := .run }

theorem NamesThread.exec_resume (hn : NamesThread s g u a) (hstate : s.threadState g u = .halted) (htask : s.taskOf u = none) (d : SReg) :
    exec (.preemptResume d a) s = .next ((resumed s u).long
      { dest := .sreg d, left := 0, ready := false, val := 0, tok := s.fresh, fly := .preempt }) := by
  have hnext : s.next.taskOf u = none := htask
  change execPreemptResume d a s = _
  rw [execPreemptResume, hn.preempt_acts hstate, State.resumeUnit, if_pos hn.core, State.resumeThread, hnext]
  rfl

theorem NamesThread.exec_absent (hn : NamesThread s g u a) (habsent : s.threadState g u = .absent) (d : SReg) :
    (∃ t, exec (.preemptHalt d a) s = .next t ∧ Queued s t (.sreg d) 1 0) ∧
    (∃ t, exec (.preemptTrap d a) s = .next t ∧ Queued s t (.sreg d) 1 0) ∧
    (∃ t, exec (.preemptResume d a) s = .next t ∧ Queued s t (.sreg d) 1 0) := by
  refine ⟨?_, ?_, ?_⟩
  · change ∃ t, execPreemptHalt d a s = .next t ∧ _
    exact hn.preempt_absent habsent (by decide) d
  · change ∃ t, execPreemptTrap d a s = .next t ∧ _
    exact hn.preempt_absent habsent (by decide) d
  · change ∃ t, execPreemptResume d a s = .next t ∧ _
    exact hn.preempt_absent habsent (by decide) d

end

/-- Settles O22: the named thread's state picks the case. -/
theorem preemptForms : Obligations.PreemptForms := by
  intro s g u d a hc hsv hok hcore hone hop hexists hslot
  have hn : NamesThread s g u a := ⟨hc, hsv, hok, hcore, hone, hop, hexists, hslot⟩
  refine ⟨fun hne hrun => ?_, fun hne hrun htask => ?_, fun h => ?_⟩
  · obtain ⟨hhalt, htrap⟩ := hn.exec_requests (threadState_running hne hrun) d
    exact ⟨⟨_, hhalt, requested_due hc hne d false⟩, ⟨_, htrap, requested_due hc hne d true⟩⟩
  · have hcur : (resumed s u).cur = .thread g := hc
    refine ⟨_, hn.exec_resume (threadState_halted hne hrun) htask d, State.long_mem _ _, ?_⟩
    rw [long_thread_other hcur hne, resumed, State.modThread_same]
    rfl
  · exact hn.exec_absent (threadState_absent h) d

/-! ## Halts that are taken (R223, R281) -/

section
variable {s : State} {g : Nat}

theorem exec_preemptHaltTaken_boundary {b : Option Nat} {l : List Due} (hrun : (s.thread g).run = .run) (hspec : (s.thread g).spec = false)
    (hpend : (s.thread g).ctx.pend = []) (hdue : (s.thread g).due = { trap := false, by_ := b } :: l) :
    exec (.preemptHaltTaken (.thread g)) s = .next ((windowsClosed s g).modThread g Thread.haltNow) := by
  have hclose : s.closeThread g = (windowsClosed s g, true) := closeThread_of_sound (by rw [hpend]; rfl)
  have hboundary : (s.thread g).atBoundary = true := by simp [Thread.atBoundary, hpend]
  change execPreemptHaltTaken (.thread g) s = _
  simp only [execPreemptHaltTaken, hdue, hrun, Bool.false_eq_true, if_false]
  rw [State.haltTaken, State.boundary, if_pos hboundary, hclose]
  simp [hspec, hrun]

/-- The settling of a preempt's result (R223). -/
theorem settles_of_answered {p : Pending} (h : Answered s p) : s.settles p = true := by
  obtain ⟨hfly, hready, hthreads, hcores⟩ := h
  have hdone : ∀ l : List Due, (∀ d ∈ l, d.by_ ≠ some p.tok) → (l.any fun d => d.by_ == some p.tok) = false := fun l h =>
    List.any_eq_false.mpr fun d hd => by simpa using h d hd
  simp only [State.settles, hfly, hready, Bool.and_eq_true, Bool.not_eq_true', List.any_eq_false, Bool.not_false, beq_self_eq_true,
    true_and]
  exact ⟨fun e he => by rw [hdone _ (hthreads e he)]; exact Bool.false_ne_true,
    fun e he => by rw [hdone _ (hcores e he)]; exact Bool.false_ne_true⟩

theorem turn_settles (hnow : s.turnNow (.thread g) = true) (hstop : s.escStops g = false) (hrun : (s.thread g).run = .run)
    (hsettles : (s.thread g).ctx.pend.any s.settles = true) (e : Soft) :
    s.turn (.thread g) e = .next (State.settle { s with cur := .thread g, iss := {} } g) := by
  simp only [State.turn, hnow, hstop, hrun, hsettles, Bool.not_false, beq_self_eq_true, Bool.true_or, Bool.and_self, if_true]

end

/-- Settles O23: a halt is due, then taken at a boundary, and its issuer's result settles when none of its requests is due. -/
theorem haltsAreTaken : Obligations.HaltsAreTaken := by
  refine ⟨fun s g hc hsv => ?_, fun s g b l hrun hspec hpend hdue => ?_, fun s k hdue => ?_,
    fun s g p hnow hstop hrun hpend hanswered => ?_⟩
  · exact ⟨_, s.super_of_sv hc hsv _, threadOnly_modThread hc rfl⟩
  · refine ⟨_, exec_preemptHaltTaken_boundary hrun hspec hpend hdue, rfl, ?_⟩
    rw [State.modThread_same, windowsClosed_thread, close_of_nil hpend]
    exact ⟨rfl, rfl, by simp [Thread.haltNow, loseAll], fun d hd => (List.mem_filter.mp hd).2⟩
  · refine ⟨_, if_neg hdue, rfl, ?_⟩
    rw [State.modTcore_same]
  · have hsettles := settles_of_answered hanswered
    refine ⟨_, turn_settles hnow hstop hrun (by rw [hpend, List.any_cons, hsettles]; rfl) _, rfl, ?_⟩
    rw [State.settle, State.modThread_same]
    change { (s.thread g).ctx with pend := (s.thread g).ctx.pend.map fun p => if s.settles p then { p with ready := true } else p } = _
    rw [hpend, List.map_cons, if_pos hsettles]
    rfl

end Sys2Proof.Claims
end

section
/-!
PROOFS. The work dispenser (R202, R203) and the query of the range locks (R204).
-/
namespace Sys2Proof.Claims
open Sys2Proof.Machine

/-! ## Jobs -/

section
variable {j : Job}

theorem chunks_eq : j.chunks = chunksX j.desc * chunksY j.desc := by
  simp only [Job.chunks, bits_low]
  rfl

theorem take_of_left (hl : j.loaded = true) (hq : j.q < j.chunks) : j.take = wd (chunkAt j.desc j.q) := by
  simp only [Job.take, hl, hq, and_self, if_true, bits_low]
  rfl

theorem next_of_left (hl : j.loaded = true) (hq : j.q < j.chunks) : j.next = { j with q := j.q + 1 } := if_pos ⟨hl, hq⟩

theorem take_of_done (h : ¬(j.loaded = true ∧ j.q < j.chunks)) : j.take = wd (2 ^ 63) := if_neg h

theorem next_of_done (h : ¬(j.loaded = true ∧ j.q < j.chunks)) : j.next = j := if_neg h

end

theorem jobOk_of_legal {x : Word} (h : jobLegal x) : jobOk x = true := by
  obtain ⟨hzero, hcy, hcx, hey, hex⟩ := h
  have hhigh : bits x 48 16 = 0 := by rw [bits, bitsN, hzero, Nat.zero_mod]
  simp only [jobOk, hhigh, bits_low, beq_self_eq_true, Bool.true_and, Bool.and_eq_true, bne_iff_ne]
  exact ⟨⟨⟨hcy, hcx⟩, hey⟩, hex⟩

/-! ## The dispenser of the unit's block -/

section
variable {s : State}

theorem plainly_of_notSpec (h : NotSpec s) (k : State → Out) : s.plainly k = k s := by
  cases hc : s.cur with
  | thread g => exact s.plainly_of_plain hc (h g hc) k
  | core c => rw [State.plainly, hc]

theorem jobAt_setJob (b j : Nat) (x : Job) : jobAt (s.setJob b j x) b j = x := by
  rw [jobAt, State.setJob, State.modBlk_same]
  exact Tab.get_set_same _ _ _

theorem jobAt_longS (d : SReg) (x : Word) (b j : Nat) : jobAt (s.longS d x) b j = jobAt s b j := by
  rw [jobAt, State.longS, State.long, State.setCtx_blk]
  rfl

variable (hs : NotSpec s)
include hs

theorem exec_fetchtLd {a : SReg} (hlegal : jobLegal (s.rS a)) (j : BitVec 4) (ext : Bool) :
    exec (.fetchtLd a j ext) s = .next (s.setJob (blkOf s) j.toNat { desc := s.rS a, q := 0, loaded := true }) := by
  change execFetchtLd a j ext s = _
  rw [execFetchtLd, jobOk_of_legal hlegal, plainly_of_notSpec hs]
  rfl

theorem exec_fetcht (d : SReg) (j : BitVec 4) (ext : Bool) : exec (.fetcht d j ext) s =
    .next ((s.setJob (blkOf s) j.toNat (jobAt s (blkOf s) j.toNat).next).longS d (jobAt s (blkOf s) j.toNat).take) := by
  change execFetcht d j ext s = _
  rw [execFetcht, plainly_of_notSpec hs]
  rfl

/-- What a take leaves: its answer in the return buffer, and the job after it. -/
theorem exec_fetcht_took {x : Job} {w : Word} (d : SReg) (j : BitVec 4) (ext : Bool) (hx : (jobAt s (blkOf s) j.toNat).next = x)
    (hw : (jobAt s (blkOf s) j.toNat).take = w) : ∃ t, exec (.fetcht d j ext) s = .next t ∧ t.mem = s.mem ∧
      t.ctx.pend = s.ctx.pend ++ [arrived s d w] ∧ jobAt t (blkOf s) j.toNat = x := by
  refine ⟨_, exec_fetcht hs d j ext, State.longS_mem _ _ _, ?_, ?_⟩
  · rw [State.longS, State.long_pend, hw]
    rfl
  · rw [jobAt_longS, jobAt_setJob, hx]

theorem exec_fetchtQ (d : SReg) (j : BitVec 4) (ext : Bool) :
    exec (.fetchtQ d j ext) s = .next (s.longS d (wd (jobAt s (blkOf s) j.toNat).left)) := by
  change execFetchtQ d j ext s = _
  rw [execFetchtQ, plainly_of_notSpec hs]
  rfl

end

/-! ## The registered ranges -/

/-- Whether a registered range overlaps the `n` bytes at `a` (R204). -/
def lockHit (a n : Nat) (l : Lock) : Bool := decide (l.lo < a + n ∧ a < l.lo + (l.hi - l.lo))

/-- What rlq answers when `l` starts lowest of `k` overlapping ranges. -/
def lockedAnswer (k : Nat) (l : Lock) : Word := wd (2 ^ 63 + min k 0xFFFF * 65536 + l.xid.toNat)

theorem mem_of_lowestLock {ls : List Lock} {m : Lock} (h : lowestLock ls = some m) : m ∈ ls := by
  induction ls generalizing m with
  | nil => cases h
  | cons l ls ih =>
    rw [lowestLock] at h
    split at h
    next => cases h; exact .head _
    next m' hm' =>
      split at h
      · cases h; exact .tail _ (ih hm')
      · cases h; exact .head _

/-- The first registered of those that start lowest. -/
theorem lowestLock_eq {pre post : List Lock} {l : Lock} (hpre : ∀ m ∈ pre, l.lo < m.lo) (hpost : ∀ m ∈ post, l.lo ≤ m.lo) :
    lowestLock (pre ++ l :: post) = some l := by
  induction pre with
  | nil =>
    rw [List.nil_append, lowestLock]
    split
    next => rfl
    next m hm => exact if_neg (Nat.not_lt.mpr (hpost m (mem_of_lowestLock hm)))
  | cons p pre ih =>
    rw [List.cons_append, lowestLock, ih fun m hm => hpre m (.tail _ hm)]
    exact if_pos (hpre p (.head _))

section
variable {locks : List Lock} {a n : Nat}

/-- What rlq tests of a range is whether it overlaps. -/
theorem hit_eq_lockHit (hn : n ≠ 0) : (fun l : Lock => decide (n ≠ 0) && overlaps a n l.lo (l.hi - l.lo)) = lockHit a n := by
  funext l
  simp only [hn, overlaps, lockHit, ne_eq, not_false_eq_true, decide_true, Bool.true_and, Bool.decide_and, Bool.and_comm]

theorem rlqAnswer_of_lowestLock {l : Lock} (hn : n ≠ 0) (hlow : lowestLock (locks.filter (lockHit a n)) = some l) :
    rlqAnswer locks a n = lockedAnswer (locks.filter (lockHit a n)).length l := by
  rw [rlqAnswer, hit_eq_lockHit hn, hlow]
  rfl

theorem rlqAnswer_of_none (hn : n ≠ 0) (hnone : locks.filter (lockHit a n) = []) : rlqAnswer locks a n = 0 := by
  rw [rlqAnswer, hit_eq_lockHit hn, hnone]
  rfl

theorem rlqAnswer_empty : rlqAnswer locks a 0 = 0 := by
  have hnone : locks.filter (fun l => decide (0 ≠ 0) && overlaps a 0 l.lo (l.hi - l.lo)) = [] := List.filter_eq_nil_iff.mpr fun l _ => by simp
  rw [rlqAnswer, hnone]
  rfl

theorem rlqAnswer_free (h : ∀ l ∈ locks, a + n ≤ l.lo ∨ l.lo + (l.hi - l.lo) ≤ a) : rlqAnswer locks a n = 0 := by
  by_cases hn : n = 0
  · rw [hn, rlqAnswer_empty]
  · refine rlqAnswer_of_none hn (List.filter_eq_nil_iff.mpr fun l hl => ?_)
    have := h l hl
    simp only [lockHit, decide_eq_true_eq]
    omega

theorem rlqAnswer_of_lowest {pre post : List Lock} {l : Lock} (hlocks : locks = pre ++ l :: post) (hn : n ≠ 0) (hhit : lockHit a n l = true)
    (hpre : ∀ m ∈ pre, lockHit a n m = true → l.lo < m.lo) (hpost : ∀ m ∈ post, lockHit a n m = true → l.lo ≤ m.lo) :
    rlqAnswer locks a n = lockedAnswer (locks.filter (lockHit a n)).length l := by
  refine rlqAnswer_of_lowestLock hn ?_
  rw [hlocks, List.filter_append, List.filter_cons_of_pos hhit]
  exact lowestLock_eq (fun m hm => hpre m (List.mem_filter.mp hm).1 (List.mem_filter.mp hm).2)
    fun m hm => hpost m (List.mem_filter.mp hm).1 (List.mem_filter.mp hm).2

end

/-- The three fields of the answer do not overlap. -/
theorem lockedAnswer_fields (k : Nat) (l : Lock) : (lockedAnswer k l).toNat / 2 ^ 63 = 1 ∧ (lockedAnswer k l).toNat % 2 ^ 16 = l.xid.toNat ∧
    (lockedAnswer k l).toNat / 2 ^ 16 % 2 ^ 16 = min 0xFFFF k := by
  have hxid := l.xid.isLt
  have hcount : min k 0xFFFF ≤ 0xFFFF := Nat.min_le_right _ _
  have hval : (lockedAnswer k l).toNat = 2 ^ 63 + min k 0xFFFF * 65536 + l.xid.toNat := by
    rw [lockedAnswer, wd, BitVec.toNat_ofNat]
    exact Nat.mod_eq_of_lt (by omega)
  rw [hval, Nat.min_comm 0xFFFF]
  omega

theorem exec_rlq {s : State} {g : Nat} (hc : s.cur = .thread g) (d a b : SReg) :
    exec (.rlq d a b) s = .next (s.wS d (rlqAnswer s.dev.locks (s.rS a).toNat (s.rS b).toNat)) := s.swarm_of_thread hc _

/-- Settles O32: the dispenser steps its job, and rlq answers for the overlapping range that starts lowest. -/
theorem dispenserAndLockQuery : Obligations.DispenserAndLockQuery := by
  refine ⟨fun s a d j ext hs => ⟨fun hlegal => ?_, fun hl hq => ?_, fun hdone => ?_, ?_⟩, fun s g d a b hc => ⟨fun hfree => ?_,
    fun pre l post hlocks hb hlo hhi hpre hpost => ?_⟩⟩
  · exact ⟨_, exec_fetchtLd hs hlegal j ext, rfl, rfl, jobAt_setJob _ _ _⟩
  · rw [← chunks_eq] at hq
    exact exec_fetcht_took hs d j ext (next_of_left hl hq) (take_of_left hl hq)
  · have hnot : ¬((jobAt s (blkOf s) j.toNat).loaded = true ∧ (jobAt s (blkOf s) j.toNat).q < (jobAt s (blkOf s) j.toNat).chunks) := by
      rw [chunks_eq]
      rintro ⟨hl, hq⟩
      obtain h | h := hdone
      · simp [hl] at h
      · omega
    exact exec_fetcht_took hs d j ext (next_of_done hnot) (take_of_done hnot)
  · refine ⟨_, exec_fetchtQ hs d j ext, ?_⟩
    rw [Job.left, chunks_eq]
    exact queued_longS d _
  · refine ⟨_, exec_rlq hc d a b, ?_⟩
    have hzero : rlqAnswer s.dev.locks (s.rS a).toNat (s.rS b).toNat = 0 := by
      obtain hb | hnone := hfree
      · rw [hb]
        exact rlqAnswer_empty
      · exact rlqAnswer_free hnone
    rw [hzero]
    exact wroteS_wS d 0
  · have hn : (s.rS b).toNat ≠ 0 := fun h => hb (BitVec.eq_of_toNat_eq h)
    have hanswer := rlqAnswer_of_lowest hlocks hn (decide_eq_true ⟨hlo, hhi⟩)
      (fun m hm hhit => by
        have := hpre m hm
        have := of_decide_eq_true hhit
        omega)
      fun m hm hhit => by
        have := hpost m hm
        have := of_decide_eq_true hhit
        omega
    obtain ⟨htop, hxid, hcount⟩ := lockedAnswer_fields (s.dev.locks.filter (lockHit (s.rS a).toNat (s.rS b).toNat)).length l
    exact ⟨_, _, exec_rlq hc d a b, hanswer ▸ wroteS_wS d _, htop, hxid, hcount⟩

end Sys2Proof.Claims
end

section
/-!
PROOFS. What queues a compile from memory (R351, R362): the metadata's read and the packet for what lies elsewhere leave the compiler's queue,
the ports, the range locks, the transfers and the units as they are.
-/
namespace Sys2Proof.Claims
open Sys2Proof.Machine

section
variable {s t : State}

/-! ## What the engines of a block have in hand -/

/-- The compiler's queue and the ports of block `b`, the range locks, and the transfers. -/
def engineView (s : State) (b : Nat) : List Compile × Tab XPort × List Lock × Tab (Option Xfer) :=
  ((s.blk b).comps, (s.blk b).ports, s.dev.locks, s.dev.xfers)

theorem of_engineView {b : Nat} (h : engineView t b = engineView s b) : (t.blk b).comps = (s.blk b).comps ∧
    (t.blk b).ports = (s.blk b).ports ∧ t.dev.locks = s.dev.locks ∧ t.dev.xfers = s.dev.xfers := by
  simpa only [engineView, Prod.mk.injEq] using h

theorem engineView_noteWrite (by_ : Option Nat) (task : Option (Nat × Nat)) (pa n b : Nat) :
    engineView (s.noteWrite by_ task pa n) b = engineView s b := by
  have hblk : (s.noteWrite by_ task pa n).blk b = { s.blk b with tasks := (s.blk b).tasks.map (hitTask task pa n b) } :=
    Tab.get_mapVals _ (fun _ => rfl) s.blks b
  rw [engineView, hblk]
  rfl

theorem engineView_staleWhere (f : Nat → Bool) (b : Nat) : engineView (s.staleWhere f) b = engineView s b := rfl

theorem engineView_pokeN (a n x b : Nat) : engineView (s.pokeN a n x) b = engineView s b := rfl

theorem engineView_watchWord (sw : Bool) (va b : Nat) : engineView (s.watchWord sw va) b = engineView s b := by
  unfold State.watchWord
  dsimp only
  split
  · rw [engineView_staleWhere, engineView_noteWrite, engineView_pokeN]
  · rfl

theorem engineView_watch (sw : Bool) (va pa n b : Nat) : engineView (s.watch sw va pa n) b = engineView s b := by
  unfold State.watch
  dsimp only
  split
  · rfl
  split
  · rw [engineView_staleWhere, engineView_watchWord]
  · exact engineView_watchWord sw va b

theorem engineView_xlMark (va : Nat) (n : Need) (b : Nat) : engineView (s.xlMark va n).1 b = engineView s b := by
  have hmark (e : Word) (a : Nat) (kind : Access) : engineView (s.walkMark e a kind).1 b = engineView s b := by
    unfold State.walkMark
    dsimp only
    split
    · rw [engineView_pokeN, engineView_noteWrite, engineView_watch]
    · rfl
  unfold State.xlMark
  split
  · rfl
  split
  · rfl
  · rfl
  · rfl
  · exact hmark _ _ _

/-- Packets that go out are no engine's. -/
theorem engineView_sendPacket {dest sname : Nat} {kind : Option PKind} {fs : List Flit} (h : s.sendPacket dest sname kind fs = some t)
    (b : Nat) : engineView t b = engineView s b := by
  unfold State.sendPacket at h
  split at h
  · cases h
  · dsimp only at h
    split at h
    · cases h
      rfl
    · split at h <;> cases h <;> rfl

/-! ## The metadata's read -/

theorem engineView_readMeta (b : Nat) : ∀ (k : Nat) (s : State) (va n : Nat) (c : Scan),
    engineView (State.readMeta k s va n c).1 b = engineView s b
  | 0, _, _, _, _ => rfl
  | k + 1, s, va, n, c => by
    have hmark := engineView_xlMark (s := s) va { rd := true, wr := false, ex := false, sv := false } b
    rw [State.readMeta]
    split
    · rfl
    split
    · rfl
    dsimp only
    split
    · exact hmark
    split
    · exact hmark
    all_goals exact (engineView_readMeta b k _ _ _ _).trans hmark

theorem writeKept_readMeta : ∀ (k : Nat) (s : State) (va n : Nat) (c : Scan), WriteKept s (State.readMeta k s va n c).1
  | 0, _, _, _, _ => .rfl
  | k + 1, s, va, n, c => by
    have hmark := writeKept_xlMark (s := s) va { rd := true, wr := false, ex := false, sv := false }
    rw [State.readMeta]
    split
    · exact .rfl
    split
    · exact .rfl
    dsimp only
    split
    · exact hmark
    split
    · exact hmark
    all_goals exact hmark.trans (writeKept_readMeta k _ _ _ _)

/-- What the question to another device leaves: the engines, and of the compile what says whose it is. -/
structure Asked (s t : State) (b : Nat) (c c' : Compile) : Prop where
  sent  : SentOnly s t
  view  : engineView t b = engineView s b
  tile  : c'.tile = c.tile
  ident : c'.ident = c.ident
  lock  : c'.lock = c.lock
  reqs  : c'.reqs = c.reqs

theorem asked_askMeta (b : Nat) (c : Compile) (far : Option (Nat × Nat)) : Asked s (s.askMeta b c far).1 b c (s.askMeta b c far).2 := by
  unfold State.askMeta
  split
  · exact ⟨.rfl, rfl, rfl, rfl, rfl, rfl⟩
  split
  next hsend => exact ⟨(sentOnly_sendPacket hsend).trans sentOnly_next, engineView_sendPacket hsend b, rfl, rfl, rfl, rfl⟩
  next => exact ⟨.rfl, rfl, rfl, rfl, rfl, rfl⟩

/-! ## A compile that is queued (R362) -/

/-- A compile of an identity for a tile stands last in block `b`'s queue, and nothing else of the engines or of a unit has changed. -/
structure CompileQueued (s t : State) (b tl : Nat) (ident : Word) (req : Requester) (lock : Option Nat) : Prop where
  comps : ∃ c : Compile, (t.blk b).comps = (s.blk b).comps ++ [c] ∧ c.tile = tl ∧ c.ident = ident ∧ c.lock = lock ∧ c.reqs = [req]
  ports : (t.blk b).ports = (s.blk b).ports
  locks : t.dev.locks = s.dev.locks
  xfers : t.dev.xfers = s.dev.xfers
  cur   : t.cur = s.cur
  iss   : t.iss = s.iss
  ctx   : ∀ g, (t.thread g).ctx = (s.thread g).ctx

theorem compileQueued_queueMem (b tl : Nat) (ident : Word) (va n : Nat) (req : Requester) (lock : Option Nat) :
    CompileQueued s (s.queueMem b tl ident va n req lock) b tl ident req lock := by
  unfold State.queueMem
  extract_lets r c q
  have hread : WriteKept s r.1 := writeKept_readMeta _ s va n _
  have hasked : Asked r.1 q.1 b c q.2 := asked_askMeta b c _
  obtain ⟨hcomps, hports, hlocks, hxfers⟩ := of_engineView (hasked.view.trans (engineView_readMeta b _ s va n _))
  obtain ⟨d, f, hq⟩ := hasked.sent
  refine ⟨⟨q.2, ?_, hasked.tile, hasked.ident, hasked.lock, hasked.reqs⟩, ?_, hlocks, hxfers, ?_, ?_, fun g => ?_⟩
  · rw [State.modBlk_same, hcomps]
  · rw [State.modBlk_same, hports]
  · exact (congrArg State.cur hq).trans hread.cur
  · exact (congrArg State.iss hq).trans hread.iss
  · have hthread : ({ r.1.thread g with resv := [] } : Thread).ctx = ({ s.thread g with resv := [] } : Thread).ctx :=
      congrArg Thread.ctx (hread.thread g)
    exact (congrArg (fun u : State => (u.thread g).ctx) hq).trans hthread

end

end Sys2Proof.Claims
end

section
/-!
PROOFS. pcomp (R199, R362): what it answers, the compile it queues, and the stream that a core consumes for it.
-/
namespace Sys2Proof.Claims
open Sys2Proof.Machine

section
variable {s : State}

/-! ## What pcomp answers -/

theorem cached_isSome_iff (t : Nat) (ident : Word) : ((s.tile t).cached ident).isSome = true ↔ IsCached s t ident := by
  simp [Tile.cached, IsCached, List.find?_isSome]

theorem pending_iff {b t : Nat} (hb : t / 32 = b) (ident : Word) : (s.blk b).pending t ident = true ↔ IsPending s t ident := by
  simp [Blk.pending, IsPending, hb]

theorem pcompAnswer_eq {b t : Nat} (hb : t / 32 = b) (ident : Word) : s.pcompAnswer b t ident =
    if compCode s b t ident = 0 then none else some (compCode s b t ident) := by
  rw [State.pcompAnswer, compCode]
  by_cases hcached : IsCached s t ident
  · rw [if_pos ((cached_isSome_iff t ident).mpr hcached), if_pos hcached]
    rfl
  rw [if_neg (mt (cached_isSome_iff t ident).mp hcached), if_neg hcached]
  by_cases hpending : IsPending s t ident
  · rw [if_pos ((pending_iff hb ident).mpr hpending), if_pos hpending]
    rfl
  rw [if_neg (mt (pending_iff hb ident).mp hpending), if_neg hpending]
  by_cases hfull : 16 ≤ (s.blk b).comps.length
  · rw [if_pos (by simpa [Blk.compRoom] using hfull), if_pos hfull]
    rfl
  · rw [if_neg (by simpa [Blk.compRoom] using hfull), if_neg hfull]
    rfl

/-- A thread's pcomp of metadata that it may read. -/
structure ThreadCompiles (s : State) (g : Nat) (q : Quad) (tile : BitVec 5) (p : Phys) : Prop where
  hand  : s.cur = .thread g
  plain : (s.thread g).spec = false
  tile  : s.tileExists (32 * (g / 128) + tile.toNat) = true
  zero  : s.rS (quadReg q 3) = 0
  va    : s.rS (quadReg q 1) ≠ 0
  pos   : 0 < (s.rS (quadReg q 2)).toNat
  small : (s.rS (quadReg q 2)).toNat < 2 ^ 32
  check : s.check g (s.rS (quadReg q 1)) 4 4 (s.need g true false .any) false = .ok p
  free  : s.heldBack g = false
  edge  : s.atEdge p = none

section
variable {g : Nat} {q : Quad} {tile : BitVec 5} {p : Phys} (h : ThreadCompiles s g q tile p)

/-- The tile that the form names. -/
def compTile (b : Nat) (tile : BitVec 5) : Nat := 32 * b + tile.toNat

theorem compTile_blk (b : Nat) (tile : BitVec 5) : compTile b tile / 32 = b := by
  have := tile.isLt
  rw [compTile]
  omega

/-- The state with the compile of a thread's pcomp queued, its metadata locked. -/
def threadCompiling (s : State) (g : Nat) (q : Quad) (tile : BitVec 5) : State :=
  ((s.next.lockPlace (g / 128) 4).addLocks s.fresh 0 (some (s.thread g).uid)
    [(false, (s.rS (quadReg q 1)).toNat, (s.rS (quadReg q 1)).toNat + (s.rS (quadReg q 2)).toNat)]).queueMem (g / 128)
      (compTile (g / 128) tile) (s.rS (quadReg q 0)) (s.rS (quadReg q 1)).toNat (s.rS (quadReg q 2)).toNat
      (.thread g (s.thread g).ctx.pc (s.thread g).ticket) (some s.fresh)

include h

theorem ThreadCompiles.exec_eq (d : SReg) : exec (.pcomp d q tile) s =
    s.pcompThread g d (compTile (g / 128) tile) (s.quad q) := by
  have hblk : s.curBlk = g / 128 := by rw [State.curBlk, h.hand]; rfl
  have hshape : ¬((s.quad q).getD 3 0 ≠ 0 ∨ s.tileExists (compTile (g / 128) tile) = false) := by
    rintro (hw | ht)
    · exact hw h.zero
    · exact Bool.false_ne_true (ht.symm.trans h.tile)
  have hrange : ¬((s.quad q).getD 1 0 = 0 ∨ ((s.quad q).getD 2 0).toNat = 0 ∨ ((s.quad q).getD 2 0).toNat ≥ 2 ^ 32) := by
    rintro (hw | hw | hw)
    · exact h.va hw
    · exact h.pos.ne' hw
    · exact absurd h.small (Nat.not_lt.mpr hw)
  change execPcomp d q tile s = _
  unfold execPcomp
  dsimp only
  rw [hblk, h.hand]
  dsimp only
  rw [← compTile, if_neg hshape, if_neg hrange, s.plainly_of_plain h.hand h.plain]

theorem ThreadCompiles.exec_answers (hcode : compCode s (g / 128) (compTile (g / 128) tile) (s.rS (quadReg q 0)) ≠ 0) (d : SReg) :
    exec (.pcomp d q tile) s = .next ((s.pcompHit (compTile (g / 128) tile) (s.rS (quadReg q 0))
      (some (compCode s (g / 128) (compTile (g / 128) tile) (s.rS (quadReg q 0))))).longS d
        (wd (compCode s (g / 128) (compTile (g / 128) tile) (s.rS (quadReg q 0))))) := by
  have hanswer : s.pcompAnswer (unitBlk g) (compTile (g / 128) tile) ((s.quad q).getD 0 0) = _ :=
    (pcompAnswer_eq (compTile_blk (g / 128) tile) _).trans (if_neg hcode)
  rw [h.exec_eq, State.pcompThread]
  refine (s.access_of_ok h.check h.free h.edge _).trans ?_
  dsimp only
  rw [hanswer]
  rfl

theorem ThreadCompiles.exec_queues (hcode : compCode s (g / 128) (compTile (g / 128) tile) (s.rS (quadReg q 0)) = 0) (d : SReg) :
    exec (.pcomp d q tile) s = if s.lockRoom = 0 then .next (s.longS d 3)
      else if !s.lockTurn (g / 128) 4 s.ns || !s.settled (s.rS (quadReg q 1)).toNat (s.rS (quadReg q 2)).toNat then s.wait
      else .next ((threadCompiling s g q tile).longS d 0) := by
  have hanswer : s.pcompAnswer (unitBlk g) (compTile (g / 128) tile) ((s.quad q).getD 0 0) = _ :=
    (pcompAnswer_eq (compTile_blk (g / 128) tile) _).trans (if_pos hcode)
  rw [h.exec_eq, State.pcompThread]
  refine (s.access_of_ok h.check h.free h.edge _).trans ?_
  dsimp only
  rw [hanswer]
  rfl

end

/-! ## The stream that a core's pcomp consumes (R199) -/

section
variable {k port : Nat} {d : Drain} {f : Flit}

theorem portQueue_modBlk (b : Nat) (f : Blk → Blk) : (s.modBlk b f).portQueue k port = s.portQueue k port := rfl

theorem popPort_coreCtx : ((s.popPort k port).tcore k).ctx = (s.tcore k).ctx := by
  unfold State.popPort
  split
  · rfl
  · rw [State.modTcore_same]

theorem drainOne_mem : (s.drainOne k port d f).mem = s.mem := by
  unfold State.drainOne
  dsimp only
  split <;> exact popPort_mem

theorem drainOne_ctx : ((s.drainOne k port d f).tcore k).ctx = (s.tcore k).ctx := by
  have hpop := popPort_coreCtx (s := s) (k := k) (port := port)
  unfold State.drainOne
  dsimp only
  split
  · rw [State.forwardToken, State.modBlk_tcore, State.modTcore_same]
    exact hpop
  · rw [State.modTcore_same]
    exact hpop

theorem drainOne_portQueue : (s.drainOne k port d f).portQueue k port = (s.portQueue k port).drop 1 := by
  unfold State.drainOne
  dsimp only
  split
  · rw [State.forwardToken, portQueue_modBlk, portQueue_modTcore rfl, portQueue_popPort]
  · rw [portQueue_modTcore rfl, portQueue_popPort]

theorem drainPort_mem : ∀ (n : Nat) (s : State), (s.drainPort k port n).mem = s.mem
  | 0, _ => rfl
  | n + 1, s => by
    rw [State.drainPort]
    split
    · rfl
    split
    · rfl
    · rw [drainPort_mem n, drainOne_mem]

theorem drainPort_ctx : ∀ (n : Nat) (s : State), ((s.drainPort k port n).tcore k).ctx = (s.tcore k).ctx
  | 0, _ => rfl
  | n + 1, s => by
    rw [State.drainPort]
    split
    · rfl
    split
    · rfl
    · rw [drainPort_ctx n, drainOne_ctx]

/-- The one token of a port that a pcomp consumes. -/
theorem drainPort_one (hq : s.portQueue k port = [f]) (hkind : hKind f.hdr ≠ 7) (hd : s.draining k port = true) :
    (s.drainPort k port 1).portQueue k port = [] := by
  have hhead : s.portHead k port = some f := by
    rw [State.portHead, hq]
    exact if_neg (by simpa [Flit.isMarker] using hkind)
  obtain ⟨d, hfind⟩ := Option.isSome_iff_exists.mp (List.find?_isSome.mpr (List.any_eq_true.mp hd))
  rw [State.drainPort, hfind]
  dsimp only
  rw [hhead]
  dsimp only
  rw [State.drainPort, drainOne_portQueue, hq]
  rfl

end

/-! ## pcomp of a tile core -/

/-- A core's pcomp of the stream of a port that it has bound. -/
structure CoreCompiles (s : State) (k : Nat) (q : Quad) (tile : BitVec 5) (x : TileCtx) : Prop where
  hand  : s.cur = .core k
  tile  : s.tileExists (32 * (k / 128) + tile.toNat) = true
  zero  : s.rS (quadReg q 3) = 0
  va    : s.rS (quadReg q 1) = 0
  port  : (s.rS (quadReg q 2)).toNat < 16
  ctx   : s.coreCtx k = some x
  bound : x.bound (k % 4) (s.rS (quadReg q 2)).toNat = true
  free  : s.draining k (s.rS (quadReg q 2)).toNat = false

section
variable {k : Nat} {q : Quad} {tile : BitVec 5} {x : TileCtx}

/-- The answer of a core's pcomp. -/
def coreCode (s : State) (k : Nat) (q : Quad) (tile : BitVec 5) : Nat :=
  compCode s (k / 128) (compTile (k / 128) tile) (s.rS (quadReg q 0))

/-- The consumption that it begins. -/
def coreDrain (s : State) (k : Nat) (q : Quad) (tile : BitVec 5) : Drain :=
  { port := (s.rS (quadReg q 2)).toNat, fwd := decide (coreCode s k q tile = 0), tile := compTile (k / 128) tile
    ident := s.rS (quadReg q 0), scan := {} }

/-- What it does to the cache or to the compiler's queue. -/
def coreCompiled (s : State) (k : Nat) (q : Quad) (tile : BitVec 5) : State :=
  if coreCode s k q tile = 0 then s.queueStream (k / 128) (compTile (k / 128) tile) (s.rS (quadReg q 0)) (.core k)
  else s.pcompHit (compTile (k / 128) tile) (s.rS (quadReg q 0)) (some (coreCode s k q tile))

/-- The state once the consumption has begun. -/
def coreBegun (s : State) (k : Nat) (q : Quad) (tile : BitVec 5) : State :=
  (coreCompiled s k q tile).modTcore k fun c => { c with drains := c.drains ++ [coreDrain s k q tile] }

/-- The state in which the tokens at the port are consumed. -/
def coreDraining (s : State) (k : Nat) (q : Quad) (tile : BitVec 5) (d : SReg) : State :=
  (coreBegun s k q tile).longS d (wd (coreCode s k q tile))

theorem CoreCompiles.exec_eq (h : CoreCompiles s k q tile x) (d : SReg) : exec (.pcomp d q tile) s =
    .next ((coreDraining s k q tile d).drainPort k (s.rS (quadReg q 2)).toNat (s.portQueue k (s.rS (quadReg q 2)).toNat).length) := by
  have hblk : s.curBlk = k / 128 := by rw [State.curBlk, h.hand]; rfl
  have hshape : ¬((s.quad q).getD 3 0 ≠ 0 ∨ s.tileExists (compTile (k / 128) tile) = false) := by
    rintro (hw | ht)
    · exact hw h.zero
    · exact Bool.false_ne_true (ht.symm.trans h.tile)
  have hfields : ¬((s.quad q).getD 1 0 ≠ 0 ∨ bits ((s.quad q).getD 2 0) 4 60 ≠ 0) := by
    have hport : (s.rS (quadReg q 2)).toNat / 2 ^ 4 = 0 := Nat.div_eq_of_lt h.port
    rintro (hw | hw)
    · exact hw h.va
    · refine hw ?_
      change (s.rS (quadReg q 2)).toNat / 2 ^ 4 % 2 ^ 60 = 0
      rw [hport, Nat.zero_mod]
  have hport : bits ((s.quad q).getD 2 0) 0 4 = (s.rS (quadReg q 2)).toNat := (bits_low _ 4).trans (Nat.mod_eq_of_lt h.port)
  have hanswer : s.pcompAnswer (k / 128) (compTile (k / 128) tile) (s.rS (quadReg q 0)) =
      if coreCode s k q tile = 0 then none else some (coreCode s k q tile) := pcompAnswer_eq (compTile_blk (k / 128) tile) _
  change execPcomp d q tile s = _
  unfold execPcomp
  dsimp only
  rw [hblk, h.hand]
  dsimp only
  rw [← compTile, if_neg hshape, if_neg hfields]
  unfold State.pcompCore
  dsimp only
  rw [h.ctx]
  dsimp only
  rw [hport, h.bound, h.free]
  by_cases hcode : coreCode s k q tile = 0
  · rw [if_pos hcode] at hanswer
    change s.pcompAnswer (unitBlk k) (compTile (k / 128) tile) ((s.quad q).getD 0 0) = _ at hanswer
    rw [hanswer, coreDraining, coreBegun, coreCompiled, coreDrain, if_pos hcode, hcode]
    rfl
  · rw [if_neg hcode] at hanswer
    change s.pcompAnswer (unitBlk k) (compTile (k / 128) tile) ((s.quad q).getD 0 0) = _ at hanswer
    rw [hanswer, coreDraining, coreBegun, coreCompiled, coreDrain, if_neg hcode, decide_eq_false hcode]
    rfl

/-- The cache and the compiler's queue are no core's and no port's. -/
theorem coreCompiled_kept : (coreCompiled s k q tile).mem = s.mem ∧ (coreCompiled s k q tile).cur = s.cur ∧
    (coreCompiled s k q tile).iss = s.iss ∧ (coreCompiled s k q tile).tcore k = s.tcore k := by
  unfold coreCompiled State.pcompHit
  split
  · exact ⟨rfl, rfl, rfl, rfl⟩
  split
  · exact ⟨rfl, rfl, rfl, rfl⟩
  · exact ⟨rfl, rfl, rfl, rfl⟩

theorem coreCompiled_portQueue (port : Nat) : (coreCompiled s k q tile).portQueue k port = s.portQueue k port := by
  unfold coreCompiled State.pcompHit
  split
  · rfl
  split
  · by_cases ht : coreTile k = compTile (k / 128) tile
    · rw [← ht]
      simp only [State.portQueue, State.coreCtx, State.tileCtx, State.modTile_same]
      rfl
    · simp only [State.portQueue, State.coreCtx, State.tileCtx, State.modTile_other _ _ _ _ ht]
      rfl
  · rfl

theorem coreCompiled_comps : if coreCode s k q tile = 0 then
      ∃ c : Compile, ((coreCompiled s k q tile).blk (k / 128)).comps = (s.blk (k / 128)).comps ++ [c] ∧ c.tile = compTile (k / 128) tile ∧
        c.ident = s.rS (quadReg q 0) ∧ c.mem = none ∧ c.reqs = [.core k]
    else ((coreCompiled s k q tile).blk (k / 128)).comps = (s.blk (k / 128)).comps := by
  unfold coreCompiled State.pcompHit
  split
  · exact ⟨_, congrArg Blk.comps (State.modBlk_same _ _ _), rfl, rfl, rfl, rfl⟩
  split
  · rfl
  · rfl

/-- The core that consumes: its registers with the answer behind them, and its consumptions. -/
theorem coreDraining_tcore (hc : s.cur = .core k) (d : SReg) : (coreDraining s k q tile d).tcore k =
    { s.tcore k with
      ctx := { s.ctx with pend := s.ctx.pend ++ [arrived s d (wd (coreCode s k q tile))] }
      drains := (s.tcore k).drains ++ [coreDrain s k q tile] } := by
  obtain ⟨-, hcur, hiss, htcore⟩ := coreCompiled_kept (s := s) (k := k) (q := q) (tile := tile)
  have hcur' : (coreBegun s k q tile).cur = .core k := hcur.trans hc
  have hbegun : (coreBegun s k q tile).tcore k = { s.tcore k with drains := (s.tcore k).drains ++ [coreDrain s k q tile] } := by
    rw [coreBegun, State.modTcore_same, htcore]
  have hiss' : (coreBegun s k q tile).iss = s.iss := hiss
  rw [coreDraining, State.longS, State.long, State.setCtx_tcore, if_pos hcur', ctx_of_core hcur', hbegun, hiss', ctx_of_core hc]
  rfl

theorem coreDraining_portQueue (d : SReg) (port : Nat) : (coreDraining s k q tile d).portQueue k port = s.portQueue k port := by
  rw [coreDraining, State.longS, State.long, portQueue_setCtx, coreBegun, portQueue_modTcore rfl, coreCompiled_portQueue]

theorem coreDraining_blk (d : SReg) (b : Nat) : (coreDraining s k q tile d).blk b = (coreCompiled s k q tile).blk b := by
  rw [coreDraining, State.longS, State.long, State.setCtx_blk]
  rfl

theorem coreDraining_draining (hc : s.cur = .core k) (d : SReg) :
    (coreDraining s k q tile d).draining k (s.rS (quadReg q 2)).toNat = true := by
  rw [State.draining, coreDraining_tcore hc]
  simp [coreDrain]

end
end

section
variable {s : State} {g : Nat} {q : Quad} {tile : BitVec 5} {p : Phys}

/-- A cached identity is used, and the answer enters the return buffer. -/
theorem ThreadCompiles.exec_cached (h : ThreadCompiles s g q tile p) (hcached : IsCached s (compTile (g / 128) tile) (s.rS (quadReg q 0)))
    (d : SReg) : ∃ t, exec (.pcomp d q tile) s = .next t ∧ t.mem = s.mem ∧ t.blks = s.blks ∧ t.dev = s.dev ∧
      (t.thread g).ctx.pend = s.ctx.pend ++ [arrived s d 1] := by
  have hcode : compCode s (g / 128) (compTile (g / 128) tile) (s.rS (quadReg q 0)) = 1 := if_pos hcached
  have hexec := h.exec_answers (by rw [hcode]; decide) d
  rw [hcode, State.pcompHit, if_pos rfl] at hexec
  have hcur : (s.modTile (compTile (g / 128) tile) fun x => x.useEntry (s.rS (quadReg q 0))).cur = .thread g := h.hand
  refine ⟨_, hexec, State.longS_mem _ _ _, State.setCtx_blks _ _, State.setCtx_dev _ _, ?_⟩
  rw [longS_pend hcur, ctx_of_thread h.hand]
  rfl

/-- An answer that is not of the cache is all that the form leaves. -/
theorem ThreadCompiles.exec_code (h : ThreadCompiles s g q tile p) {n : Nat} (hn : n ≠ 0) (hn1 : n ≠ 1)
    (hcode : compCode s (g / 128) (compTile (g / 128) tile) (s.rS (quadReg q 0)) = n) (d : SReg) :
    ∃ t, exec (.pcomp d q tile) s = .next t ∧ Queued s t (.sreg d) ((wd n).setWidth 256) 0 := by
  have hexec := h.exec_answers (by rwa [hcode]) d
  rw [hcode, State.pcompHit, if_neg fun he => hn1 (Option.some.inj he)] at hexec
  exact ⟨_, hexec, queued_longS d _⟩

/-- What a compile that is queued leaves in the compiler's queue, in the range-lock table and in the return buffer. -/
theorem threadCompiling_left (hc : s.cur = .thread g) (d : SReg) : ∃ c l,
    (((threadCompiling s g q tile).longS d 0).blk (g / 128)).comps = (s.blk (g / 128)).comps ++ [c] ∧
      c.tile = compTile (g / 128) tile ∧ c.ident = s.rS (quadReg q 0) ∧ c.lock = some s.fresh ∧
      c.reqs = [.thread g s.ctx.pc (s.thread g).ticket] ∧
      ((threadCompiling s g q tile).longS d 0).dev.locks = s.dev.locks ++ [l] ∧ l.id = s.fresh ∧
      l.lo = (s.rS (quadReg q 1)).toNat ∧ l.hi = (s.rS (quadReg q 1)).toNat + (s.rS (quadReg q 2)).toNat ∧
      l.write = false ∧ l.uid = some (s.thread g).uid ∧
      (((threadCompiling s g q tile).longS d 0).thread g).ctx.pend = s.ctx.pend ++ [arrived s d 0] := by
  obtain ⟨⟨c, hcomps, htile, hident, hlock, hreqs⟩, -, hlocks, -, hcur, hiss, hctx⟩ := compileQueued_queueMem
    (s := (s.next.lockPlace (g / 128) 4).addLocks s.fresh 0 (some (s.thread g).uid)
      [(false, (s.rS (quadReg q 1)).toNat, (s.rS (quadReg q 1)).toNat + (s.rS (quadReg q 2)).toNat)])
    (g / 128) (compTile (g / 128) tile) (s.rS (quadReg q 0)) (s.rS (quadReg q 1)).toNat (s.rS (quadReg q 2)).toNat
    (.thread g (s.thread g).ctx.pc (s.thread g).ticket) (some s.fresh)
  rw [← threadCompiling] at hcomps hlocks hcur hiss hctx
  refine ⟨c, _, ?_, htile, hident, hlock, ?_, (congrArg Dev.locks (State.setCtx_dev _ _)).trans hlocks, rfl, rfl, rfl, rfl, rfl, ?_⟩
  · rw [State.longS, State.long, State.setCtx_blk]
    exact hcomps
  · rw [hreqs, ctx_of_thread hc]
  · rw [longS_pend (hcur.trans hc), hctx g, arrived, hiss, ctx_of_thread hc]
    rfl

end

/-- Settles O30: the state of the cache, of the compiler's queue and of the range locks picks the case; a core's port is then consumed. -/
theorem pcompAnswers : Obligations.PcompAnswers := by
  refine ⟨fun s g d q tile p hc hspec ht hz hva hpos hsmall hcheck hheld hedge => ?_,
    fun s k d q tile x hc ht hz hva hport hctx hbound hfree => ?_⟩
  · have h : ThreadCompiles s g q tile p := ⟨hc, hspec, ht, hz, hva, hpos, hsmall, hcheck, hheld, hedge⟩
    refine ⟨fun hcached => h.exec_cached hcached d, fun hnot => ⟨fun hpending => ?_, fun hidle => ?_⟩⟩
    · exact h.exec_code (n := 2) (by decide) (by decide) ((if_neg hnot).trans (if_pos hpending)) d
    have hroom (hlen : (s.blk (g / 128)).comps.length < 16) :
        compCode s (g / 128) (compTile (g / 128) tile) (s.rS (quadReg q 0)) = 0 :=
      (if_neg hnot).trans ((if_neg hidle).trans (if_neg (Nat.not_le.mpr hlen)))
    have hfree (hlocks : s.dev.locks.length < 512) : s.lockRoom ≠ 0 := (Nat.sub_pos_of_lt hlocks).ne'
    refine ⟨fun hfull => ?_, fun hlen hlocks hwaits => ?_, fun hlen hlocks hturn hsettled => ?_⟩
    · by_cases hlen : (s.blk (g / 128)).comps.length < 16
      · have hzero : s.lockRoom = 0 := Nat.sub_eq_zero_of_le (hfull.resolve_left (Nat.not_le.mpr hlen))
        exact ⟨_, (h.exec_queues (hroom hlen) d).trans (if_pos hzero), queued_longS d _⟩
      · exact h.exec_code (n := 3) (by decide) (by decide)
          ((if_neg hnot).trans ((if_neg hidle).trans (if_pos (Nat.not_lt.mp hlen)))) d
    · have hexec := ((h.exec_queues (hroom hlen) d).trans (if_neg (hfree hlocks))).trans (if_pos (by
        obtain hturn | hsettled := hwaits
        · rw [hturn]; rfl
        · rw [hsettled, Bool.not_false, Bool.or_true]))
      rw [hexec]
      exact wait_waitsAtIssue hc
    · have hexec := ((h.exec_queues (hroom hlen) d).trans (if_neg (hfree hlocks))).trans (if_neg (by
        rw [hturn, hsettled]
        exact Bool.false_ne_true))
      obtain ⟨c, l, hleft⟩ := threadCompiling_left (q := q) (tile := tile) hc d
      exact ⟨_, c, l, hexec, hleft⟩
  · have h : CoreCompiles s k q tile x := ⟨hc, ht, hz, hva, hport, hctx, hbound, hfree⟩
    have htcore := coreDraining_tcore (q := q) (tile := tile) hc d
    refine ⟨_, h.exec_eq d, ?_, ?_, fun hempty => ?_, fun f hone hkind => ?_⟩
    · rw [drainPort_mem, coreDraining, State.longS_mem]
      exact coreCompiled_kept.1
    · rw [drainPort_ctx, htcore]
      rfl
    · rw [hempty, List.length_nil, State.drainPort, htcore, coreDraining_blk]
      exact ⟨rfl, coreCompiled_comps⟩
    · rw [hone]
      exact drainPort_one ((coreDraining_portQueue d _).trans hone) hkind (coreDraining_draining hc d)

end Sys2Proof.Claims
end

section
/-!
PROOFS. One write event of a range whose lines may be spread (R299), through a page without the sparse-watch bit: where its bytes stand, and
what of the replies it leaves.
-/
namespace Sys2Proof.Claims
open Sys2Proof.Machine

section
variable {s t : State} {p : Phys}

/-! ## The parts of a short range -/

/-- Within a line the bytes stay together. -/
theorem hashAddr_add_line {a k : Nat} (h : a % 64 + k < 64) : hashAddr (a + k) = hashAddr a + k := by
  have hfield : spreadField (a + k) = spreadField a := by
    have hbits : ∀ lo, 6 ≤ lo → bitsN (a + k) lo 4 = bitsN a lo 4 := fun lo hlo => by
      obtain ⟨e, rfl⟩ := Nat.exists_eq_add_of_le hlo
      rw [bitsN, bitsN, Nat.pow_add, ← Nat.div_div_eq_div_mul, ← Nat.div_div_eq_div_mul, show (a + k) / 2 ^ 6 = a / 2 ^ 6 by omega]
    simp only [spreadField, hbits 37 (by decide), hbits 6 (by decide), hbits 16 (by decide), hbits 26 (by decide)]
  rw [hashAddr_eq, hashAddr_eq a, hfield]
  omega

/-- The `n` bytes from offset `o` stand one behind another. -/
def Together (p : Phys) (o n : Nat) : Prop := ∀ j, j < n → (p.plus (o + j)).pa = (p.plus o).pa + j

theorem together_of_flat (hhash : p.hash = false) (o n : Nat) : Together p o n := fun j _ => by
  simp only [Phys.plus, hhash, Bool.false_eq_true, if_false, Nat.add_assoc]

theorem together_of_line {o n : Nat} (hline : (p.pa + o) % 64 + n ≤ 64) : Together p o n := by
  cases hhash : p.hash with
  | false => exact together_of_flat hhash o n
  | true =>
    intro j hj
    have hmod := hashAddr_mod p.pa
    simp only [Phys.plus, hhash, if_true, ← Nat.add_assoc]
    exact hashAddr_add_line (by omega)

/-- A range of at most a line is one part, or two. -/
theorem spans_short {n : Nat} (hn : n ≤ 64) : (p.spans n = [(0, n)] ∧ Together p 0 n) ∨
    ∃ a, 0 < a ∧ a < n ∧ p.spans n = [(0, a), (a, n - a)] ∧ Together p 0 a ∧ Together p a (n - a) := by
  by_cases hcut : (p.hash && decide (p.pa % 64 + n > 64)) = true
  · obtain ⟨-, hover⟩ := Bool.and_eq_true_iff.mp hcut
    have hover := of_decide_eq_true hover
    refine .inr ⟨64 - p.pa % 64, by omega, by omega, ?_, together_of_line (by omega), together_of_line (by omega)⟩
    have hone : (p.pa % 64 + n - 1) / 64 = 1 := by omega
    rw [Phys.spans, if_pos hcut, hone]
    simp only [List.range_one, List.map_cons, List.map_nil, List.cons.injEq, Prod.mk.injEq, and_true, true_and]
    omega
  · refine .inl ⟨if_neg hcut, ?_⟩
    cases hhash : p.hash with
    | false => exact together_of_flat hhash 0 n
    | true =>
      rw [hhash, Bool.true_and, decide_eq_true_eq] at hcut
      exact together_of_line (by omega)

theorem plus_pa_inj {j k : Nat} (h : (p.plus j).pa = (p.plus k).pa) : j = k := by
  cases hhash : p.hash with
  | false =>
    simp only [Phys.plus, hhash, Bool.false_eq_true, if_false] at h
    omega
  | true =>
    simp only [Phys.plus, hhash, if_true] at h
    have hback := congrArg hashAddr h
    rw [hashAddr_hashAddr, hashAddr_hashAddr] at hback
    omega

/-! ## What the writes leave of the mailboxes -/

/-- The replies on their way, and the cores with their tickets. -/
def mailView (s : State) : List ReplyMsg × Tab Core := (s.dev.replies, s.cores)

theorem mailView_watch (va pa n : Nat) : mailView (s.watch false va pa n) = mailView s := by
  unfold State.watch State.watchWord
  simp only [Bool.false_and, Bool.false_eq_true, if_false]
  split
  · rfl
  split
  · rfl
  · rfl

/-- A write that keeps the replies, the cores, and what a write keeps. -/
structure PlainWrite (s t : State) : Prop where
  kept : WriteKept s t
  mail : mailView t = mailView s

theorem PlainWrite.trans {u : State} (h : PlainWrite s t) (h' : PlainWrite t u) : PlainWrite s u :=
  ⟨h.kept.trans h'.kept, h'.mail.trans h.mail⟩

section
variable {by_ : Option Nat} {task : Option (Nat × Nat)} {va : Nat} {l : List Byte}

theorem plainWrite_performWrite (hhome : p.home ≠ .regs) (hsw : p.sw = false) (hcalm : Calm s p.pa l.length) :
    PlainWrite s (s.performWrite by_ task p va l) ∧ PutAt s (s.performWrite by_ task p va l) (fun k => some (p.pa + k)) l := by
  refine ⟨⟨performWrite_kept hhome hcalm, ?_⟩, putAt_of_write ?_⟩
  · rw [performWrite_eq hhome hcalm, forgetMail_keeps mailView fun _ _ => rfl, hsw]
    exact mailView_watch _ _ _
  · rw [performWrite_mem hhome hcalm, hsw, watch_plain_mem]

/-- One part of a range, whose bytes stay together. -/
theorem plainWrite_part {o : Nat} (hhome : p.home ≠ .regs) (hpos : 0 < l.length) (htogether : Together p o l.length)
    (hcalm : ∀ j, j < l.length → Calm s (p.plus (o + j)).pa 1) :
    PlainWrite s (s.performWrite by_ task { p.plus o with sw := false } va l) ∧
      PutAt s (s.performWrite by_ task { p.plus o with sw := false } va l) (fun j => some (p.plus (o + j)).pa) l := by
  obtain ⟨hplain, hput⟩ := plainWrite_performWrite (s := s) (p := { p.plus o with sw := false }) (by_ := by_) (task := task) (va := va)
    (l := l) hhome rfl (calm_of_bytes hpos fun j hj => htogether j hj ▸ hcalm j hj)
  have hall := hput.append (p := fun j => some (p.plus (o + j)).pa) hplain.kept.mail (PutAt.nil rfl fun _ => none)
    (fun j hj => congrArg some (htogether j hj)) fun k hk => absurd hk (Nat.not_lt_zero k)
  rw [List.append_nil] at hall
  exact ⟨hplain, hall⟩

/-- One write event of at most a line's bytes. -/
theorem plainWrite_spanWrite (hhome : p.home ≠ .regs) (hsw : p.sw = false) (hpos : 0 < l.length) (hlen : l.length ≤ 64)
    (hcalm : CalmSpan s p l.length) :
    PlainWrite s (s.spanWrite by_ task p va l) ∧ PutAt s (s.spanWrite by_ task p va l) (fun k => some (p.plus k).pa) l := by
  have hwatch : s.watchWord p.sw va = s := by
    rw [hsw, State.watchWord]
    exact if_neg (by simp)
  obtain ⟨hspans, htogether⟩ | ⟨a, ha, han, hspans, hlow, hhigh⟩ := spans_short (p := p) hlen
  · have hone := plainWrite_part (s := s) (p := p) (o := 0) (by_ := by_) (task := task) (va := va + 0) hhome hpos htogether
      fun j hj => (Nat.zero_add j).symm ▸ hcalm j hj
    simp only [Nat.zero_add] at hone
    rw [State.spanWrite, hspans, hwatch, List.foldl_cons, List.foldl_nil, List.drop_zero, List.take_length]
    exact hone
  · have hfirst : ((l.drop 0).take a).length = a := by rw [List.drop_zero, List.length_take]; omega
    have hsecond : ((l.drop a).take (l.length - a)).length = l.length - a := by rw [List.length_take, List.length_drop, Nat.min_self]
    have hwhole : (l.drop 0).take a ++ (l.drop a).take (l.length - a) = l := by
      rw [← List.length_drop, List.take_length, List.drop_zero, List.take_append_drop]
    rw [State.spanWrite, hspans, hwatch, List.foldl_cons, List.foldl_cons, List.foldl_nil]
    obtain ⟨hplain, hput⟩ := plainWrite_part (s := s) (p := p) (o := 0) (by_ := by_) (task := task) (va := va + 0)
      (l := (l.drop 0).take a) hhome (by omega) (by rwa [hfirst]) fun j hj => hcalm (0 + j) (by omega)
    obtain ⟨hplain', hput'⟩ := plainWrite_part (s := s.performWrite by_ task { p.plus 0 with sw := false } (va + 0) ((l.drop 0).take a))
      (p := p) (o := a) (by_ := by_) (task := task) (va := va + a) (l := (l.drop a).take (l.length - a)) hhome (by omega) (by rwa [hsecond])
      fun j hj => hplain.kept.calm (hcalm (a + j) (by omega))
    have hall := hput.append (p := fun k => some (p.plus k).pa) hplain.kept.mail hput' (fun k _ => by rw [Nat.zero_add])
      fun k _ => by rw [hfirst]
    rw [hwhole] at hall
    exact ⟨hplain.trans hplain', hall⟩

/-- A write that no mailbox shields. -/
theorem plainWrite_writeAt (hhome : p.home = .dram) (hsw : p.sw = false) (hcalm : Calm s p.pa l.length) :
    PlainWrite s (s.writeAt by_ task p va l) ∧ (s.writeAt by_ task p va l).mem = Memory.write s.mem p.pa l := by
  have hwrite : s.writeAt by_ task p va l = ((s.watch false va p.pa l.length).noteWrite by_ task p.pa l.length).poke p.pa l := by
    rw [State.writeAt, hhome]
    dsimp only
    rw [endSync_of_calm hcalm, hsw]
  rw [hwrite]
  exact ⟨⟨((writeKept_watch _ _ _ _).trans (writeKept_noteWrite _ _ _ _)).trans (writeKept_poke _ _), mailView_watch _ _ _⟩,
    congrArg (fun m => Memory.write m p.pa l) (watch_plain_mem _ _ _)⟩

end
end

end Sys2Proof.Claims
end

section
/-!
PROOFS. Packets, attempts and replies (R208, R211, R212, R392, R393, R415, R419).
-/
namespace Sys2Proof.Claims
open Sys2Proof.Machine

section
variable {s : State} {port : Nat} {x : Inv}

/-! ## Ports -/

theorem port_modPort (port : Nat) (f : MPort → MPort) : (s.modPort port f).port port = f (s.port port) := Tab.get_set_same _ _ _

theorem port_devRec (cause : BitVec 8) (ticket : BitVec 32) (va aux : Word) : (s.devRec cause ticket va aux).port port = s.port port := rfl

theorem port_faultRegions (f : Graph → Bool) : (s.faultRegions f).port port = s.port port := rfl

/-- A packet that leaves its port's buffer changes the buffer and the places that go back to the peer. -/
theorem freePacket_eq (p : MPort) (fs : List Frame) : ∃ b r, p.freePacket fs = { p with rxbuf := b, freed := r } := by
  have hfold : ∀ (l : List Frame) (p : MPort), ∃ b r, l.foldl MPort.free p = { p with rxbuf := b, freed := r } := by
    intro l
    induction l with
    | nil => exact fun p => ⟨_, _, rfl⟩
    | cons f l ih =>
      intro p
      obtain ⟨b, r, h⟩ := ih (p.free f)
      exact ⟨b, r, h⟩
  cases fs with
  | nil => exact ⟨_, _, rfl⟩
  | cons f fs => exact hfold _ p

theorem sawPacket_eq (fs : List Frame) : ∃ n, s.sawPacket fs = s.modDev fun d => { d with seen := n } := by
  cases fs with
  | nil => exact ⟨s.dev.seen, rfl⟩
  | cons f fs => exact ⟨_, rfl⟩

/-- The state in which a packet has entered. -/
def entered (s : State) (port : Nat) (fs : List Frame) (n : Nat) : State := (s.modPort port fun p => (p.freePacket fs).pay n).sawPacket fs

/-- What the entry of a packet leaves: of its port all but the buffer and the tokens, and the rest of what a packet meets. -/
structure EntryKept (s t : State) (port n : Nat) : Prop where
  mem     : t.mem = s.mem
  field   : ∀ f, t.field f = s.field f
  unans   : t.dev.unans = s.dev.unans
  answers : t.dev.answers = s.dev.answers
  port    : ∃ b r, t.port port = { s.port port with
    rxbuf := b, freed := r, paid := (s.port port).paid - n, tokens := (s.port port).tokens - (n - (s.port port).paid) }

theorem entered_kept (fs : List Frame) (n : Nat) : EntryKept s (entered s port fs n) port n := by
  obtain ⟨b, r, hfree⟩ := freePacket_eq (s.port port) fs
  obtain ⟨m, hsaw⟩ := sawPacket_eq (s := s.modPort port fun p => (p.freePacket fs).pay n) fs
  rw [entered, hsaw]
  refine ⟨rfl, fun _ => rfl, rfl, rfl, b, r, ?_⟩
  refine (port_modPort (s := s) port fun p => (p.freePacket fs).pay n).trans ?_
  rw [hfree]
  rfl

section
variable {fs : List Frame} {fl : Option (List Flit)}
variable (hpick : s.pickPacket port [] (packetsFor s.dev.devnum (s.port port).rxbuf) = some (fs, fl))
include hpick

/-- Fewer tokens than flits. -/
theorem exec_packetReceive_short (hshort : (s.port port).paid + (s.port port).tokens < enterFlits fs fl) :
    exec (.packetReceive port) s = .next (s.modPort port MPort.part) := by
  change execPacketReceive port s = _
  rw [execPacketReceive, hpick]
  exact if_pos (decide_eq_true hshort)

variable (hpaid : enterFlits fs fl ≤ (s.port port).paid + (s.port port).tokens)
include hpaid

theorem exec_packetReceive_takes {f : Frame} {fs' : List Frame} {l : List Flit} (hfs : fs = f :: fs') (hfl : fl = some l) :
    exec (.packetReceive port) s = .next ((entered s port fs (enterFlits fs fl)).takePacket port f l) := by
  subst hfs hfl
  change execPacketReceive port s = _
  rw [execPacketReceive, hpick]
  exact if_neg (by simpa [MPort.short] using hpaid)

theorem exec_packetReceive_badTag (hfl : fl = none) : exec (.packetReceive port) s =
    .next ((((entered s port fs (enterFlits fs fl)).devRec cSEAL 0 0 0).modPort port fun p => { p with barred := true }).goDown port) := by
  subst hfl
  change execPacketReceive port s = _
  rw [execPacketReceive, hpick]
  exact if_neg (by simpa [MPort.short] using hpaid)

end

/-- The record of such a packet (R384, R393). -/
def packetRec (port : Nat) (f : Frame) (a b : Flit) : Rec :=
  { data := b.pay ++ a.pay, sender := .remote f.sdev.toNat (recSvs (b.pay ++ a.pay : BitVec 512))
    path := if recTicket (b.pay ++ a.pay : BitVec 512) = 0 then .none else .remote f.sdev.toNat f.sname.toNat
    pref := .field, notify := .remote f.sdev.toNat f.esn port }

/-- A record packet that is no duplicate reaches its field. -/
theorem takePacket_record {f : Frame} {a b : Flit} (ha : a.broken = false) (hb : b.broken = false) (hka : hKind a.hdr = 2)
    (hkb : hKind b.hdr = 2) (hnew : s.answerFor f.sdev.toNat f.esn = none) : s.takePacket port f [a, b] = s.takeRecord port f a b := by
  have hanswered : answeredKind [a, b] = true := by simp [answeredKind, hka]
  rw [State.takePacket, if_pos hanswered, hnew]
  exact if_neg (by simp [ha, hb, hka, hkb])

/-- A port that leaves nothing to send again takes nothing else down with it. -/
theorem goDown_of_idle (hunans : s.dev.unans = []) (hkept : (s.port port).kept = []) (hreplay : (s.port port).replay = [])
    (hwaitq : (s.port port).waitq = []) : s.goDown port =
      ((s.modPort port fun q => q.downed s.ns).devRec cLINK_LOST 0 0 (wd (port % 16 + (s.port port).peer.toNat * 65536))).faultRegions
        fun g => g.uses port := by
  have hforward : (s.port port).toForward s.dev.devnum = [] := by rw [MPort.toForward, hkept, hreplay, hwaitq]; rfl
  rw [State.goDown, hforward, hunans]
  rfl

/-! ## Answers (R208) -/

/-- An answer other than a refusal ends its invocation, with its status for the thread. -/
theorem invAnswer_of_ends {st : Nat} (hinv : s.inv x.id = some x) (hlanes : s.lanesLeft x.g x.tok = none)
    (h1 : st ≠ 1) (h2 : st ≠ 2) (h3 : st ≠ 3) :
    s.invAnswer x.id st = (s.dropInv x.id).pendGot x.g x.tok (statusOf (recTicket x.data) x.tries st) none := by
  have hlanes' : (s.dropInv x.id).lanesLeft x.g x.tok = none := hlanes
  rw [State.invAnswer, hinv]
  dsimp only
  rw [if_neg (by simp [h1]), if_neg (by simp [h1]), if_neg (by simp [h1, h2, h3]), pendDone_of_none hlanes']

theorem releaseHeld_kept (dest : Nat) : (s.releaseHeld dest).mem = s.mem ∧ (s.releaseHeld dest).dev.invs = s.dev.invs ∧
    (∀ g, (s.releaseHeld dest).thread g = s.thread g) ∧
    ∀ v ∈ (s.releaseHeld dest).dev.unans, ∃ w ∈ s.dev.unans, v.esn = w.esn ∧ v.dest = w.dest := by
  unfold State.releaseHeld
  split
  · exact ⟨rfl, rfl, fun _ => rfl, fun v hv => ⟨v, hv, rfl, rfl⟩⟩
  split
  · exact ⟨rfl, rfl, fun _ => rfl, fun v hv => ⟨v, hv, rfl, rfl⟩⟩
  next u _ =>
    refine ⟨rfl, rfl, fun _ => rfl, fun v hv => ?_⟩
    obtain ⟨w, hw, rfl⟩ := List.mem_map.mp hv
    refine ⟨w, hw, ?_⟩
    split
    · exact ⟨rfl, rfl⟩
    · exact ⟨rfl, rfl⟩

/-- The state in which an answer frame has left its buffer, and its packet the unanswered ones. -/
def unanswering (s : State) (port : Nat) (f : Frame) (u : Unans) : State :=
  (s.modPort port fun p => p.free f).modDev fun d =>
    { d with unans := d.unans.filter fun v => !(v.esn == (f.body.setWidth 32 : BitVec 32) && v.dest == u.dest) }

theorem unanswering_thread (f : Frame) (u : Unans) (g : Nat) : (unanswering s port f u).thread g = s.thread g := by
  rw [unanswering, State.modDev_thread, State.modPort, State.setPort, State.modDev_thread]

theorem exec_answerFrame {f : Frame} {u : Unans}
    (hf : ((s.port port).rxbuf.find? fun f => f.ftype == 3 && decide (f.ddev.toNat = s.dev.devnum)) = some f)
    (hu : (s.dev.unans.find? fun u => u.esn == (f.body.setWidth 32 : BitVec 32) && decide (u.dest = f.sdev.toNat)) = some u)
    (hst : f.body.toNat / 2 ^ 32 % 256 = 0) (hkind : u.kind = .inv x.id) :
    exec (.answerFrame port) s = .next (((unanswering s port f u).invAnswer x.id 0).releaseHeld u.dest) := by
  have hst' : bitsN f.body.toNat 32 8 = 0 := hst
  change execAnswerFrame port s = _
  rw [execAnswerFrame, hf]
  dsimp only
  rw [hu]
  dsimp only
  rw [if_neg (by simp [hkind, PKind.responds]), hst', State.answered, hkind]
  rfl

/-! ## A reply that is written to its mailbox (R211, R212) -/

theorem mailParts_one {sv : Bool} {u : State} {va n d : Nat} {q : Phys}
    (hxl : s.xlMark va { rd := false, wr := true, ex := false, sv := sv } = (u, .ok q)) :
    State.mailParts sv s [(va, n)] d = .ok (u.spanWrite none none q va (leBytes n d)) := by
  rw [State.mailParts, hxl]
  rfl

theorem pageParts_whole {va n : Nat} (h : va % 65536 + n ≤ 65536) : pageParts va n = [(va, n)] :=
  if_pos (Nat.min_eq_left (by omega))

/-- A mailbox with room takes a record and the tail behind it. -/
theorem mailAt_of_room {box : Phys} {va : Nat} {d : BitVec 256} {record : State → Nat → Nat → Except (BitVec 8) State} {t : State}
    {cap head tail : Nat} (hhome : box.home = .dram) (hcap : cap = memNat s.mem box.pa 2) (hhead : head = memNat s.mem (box.pa + 8) 8)
    (htail : tail = memNat s.mem (box.pa + 16) 8) (hlow : memNat s.mem (box.pa + 2) 6 = 0) (hhigh : memNat s.mem (box.pa + 32) 32 = 0)
    (hroom : (tail + 2 ^ 64 - head) % 2 ^ 64 < cap) (hrecord : record s (64 + 40 * (tail % cap)) (d.toNat + s.ns % 2 ^ 64 * 2 ^ 256) = .ok t) :
    s.mailAt box va d record = .ok (t.writeAt none none (box.plus 16) (va + 16) (leBytes 8 ((tail + 1) % 2 ^ 64)), true) := by
  have hread : s.homeRead box 64 = memNat s.mem box.pa 64 := homeRead_of_inMemory (.inl hhome) 64
  have hcap' : bitsN (memNat s.mem box.pa 64) 0 16 = cap := (bitsN_memNat s.mem box.pa 0 2 62).trans hcap.symm
  have hhead' : bitsN (memNat s.mem box.pa 64) 64 64 = head := (bitsN_memNat s.mem box.pa 8 8 48).trans hhead.symm
  have htail' : bitsN (memNat s.mem box.pa 64) 128 64 = tail := (bitsN_memNat s.mem box.pa 16 8 40).trans htail.symm
  have hlow' : bitsN (memNat s.mem box.pa 64) 16 48 = 0 := (bitsN_memNat s.mem box.pa 2 6 56).trans hlow
  have hhigh' : bitsN (memNat s.mem box.pa 64) 256 256 = 0 := (bitsN_memNat s.mem box.pa 32 32 0).trans hhigh
  rw [State.mailAt, hread]
  rw [hcap', hhead', htail', hlow', hhigh', hrecord]
  exact if_neg (by omega)

end

/-- A reply that its issuer's translations lead to a mailbox with room. -/
structure MailRoom (s u v : State) (i cap head tail off : Nat) (r : ReplyMsg) (o : Outst) (p q : Phys) : Prop where
  src    : r.src = none
  taken  : u = { s with dev := { s.dev with replies := s.dev.replies.eraseIdx i } }
  xl     : u.xlMark o.mbox.toNat { rd := false, wr := true, ex := false, sv := o.sv } = (u, .ok p)
  home   : p.home = .dram
  isCap  : cap = memNat s.mem p.pa 2
  isHead : head = memNat s.mem (p.pa + 8) 8
  isTail : tail = memNat s.mem (p.pa + 16) 8
  low    : memNat s.mem (p.pa + 2) 6 = 0
  high   : memNat s.mem (p.pa + 32) 32 = 0
  room   : (tail + 2 ^ 64 - head) % 2 ^ 64 < cap
  isOff  : off = 64 + 40 * (tail % cap)
  page   : (o.mbox.toNat + off) % 65536 + 40 ≤ 65536
  known  : v = u.knowMail o.mbox p.pa
  xl'    : v.xlMark (o.mbox.toNat + off) { rd := false, wr := true, ex := false, sv := o.sv } = (v, .ok q)

section
variable {s u v : State} {i cap head tail off : Nat} {r : ReplyMsg} {o : Outst} {p q : Phys} (h : MailRoom s u v i cap head tail off r o p q)

/-- The bytes of a mailbox record: the reply's data and the time (R211). -/
def mailRecord (s : State) (r : ReplyMsg) : List Byte := leBytes 40 (r.data.toNat + s.ns % 2 ^ 64 * 2 ^ 256)

/-- The state in which the record stands in its place. -/
def recorded (s v : State) (r : ReplyMsg) (o : Outst) (q : Phys) (off : Nat) : State :=
  v.spanWrite none none q (o.mbox.toNat + off) (mailRecord s r)

/-- The state in which the tail counts it. -/
def mailed (s v : State) (r : ReplyMsg) (o : Outst) (p q : Phys) (off tail : Nat) : State :=
  (recorded s v r o q off).writeAt none none (p.plus 16) (o.mbox.toNat + 16) (leBytes 8 ((tail + 1) % 2 ^ 64))

include h

theorem MailRoom.mailWrite_eq : u.mailWrite r o = (mailed s v r o p q off tail).freeTicket r.core (BitVec.ofNat 32 r.data.toNat) := by
  have hmem : v.mem = s.mem := by rw [h.known, h.taken]; rfl
  have hns : v.ns = s.ns := by rw [h.known, h.taken]; rfl
  have hat := mailAt_of_room (s := v) (box := p) (va := o.mbox.toNat) (d := r.data) (head := head) (t := recorded s v r o q off)
    (record := fun s off y => s.mailParts o.sv (pageParts (o.mbox.toNat + off) 40) y) h.home (hmem ▸ h.isCap) (hmem ▸ h.isHead)
    (hmem ▸ h.isTail) (hmem ▸ h.low) (hmem ▸ h.high) h.room (by
      rw [← h.isOff, pageParts_whole h.page, mailParts_one h.xl', hns]
      rfl)
  rw [State.mailWrite, h.xl]
  dsimp only
  rw [h.home]
  dsimp only
  rw [← h.known, hat]
  dsimp only
  rw [h.src]
  rfl

theorem MailRoom.exec_eq {core : Nat}
    (hfind : (s.dev.replies.findIdx? fun r => r.to_.isNone && r.again.isNone && decide (r.core = core)) = some i)
    (hr : s.dev.replies[i]? = some r) (ho : ((s.core core).outst.find? fun o => o.ticket == (r.data.setWidth 32 : BitVec 32)) = some o) :
    exec (.mailboxWrite core) s = .next ((mailed s v r o p q off tail).freeTicket r.core (BitVec.ofNat 32 r.data.toNat)) := by
  rw [← h.mailWrite_eq, h.taken]
  change execMailboxWrite core s = _
  rw [execMailboxWrite, hfind]
  dsimp only
  rw [hr]
  dsimp only
  rw [ho]
  rfl

/-- What the two writes leave: the replies that wait, the cores, and memory with the record and the tail. -/
theorem MailRoom.writes (hsw : p.sw = false) (hplus : (p.plus 16).pa = p.pa + 16) (hhome' : q.home = .dram) (hsw' : q.sw = false)
    (hcalm : CalmSpan s q 40) (hcalm' : Calm s (p.pa + 16) 8) :
    PlainWrite v (mailed s v r o p q off tail) ∧ PutAt v (recorded s v r o q off) (fun k => some (q.plus k).pa) (mailRecord s r) ∧
      (mailed s v r o p q off tail).mem =
        Memory.write (recorded s v r o q off).mem (p.pa + 16) (leBytes 8 ((tail + 1) % 2 ^ 64)) := by
  have hsyncq : v.dev.syncq = s.dev.syncq := by rw [h.known, h.taken]; rfl
  have hlen : (mailRecord s r).length = 40 := leBytes_length _ _
  have hcalmv : ∀ {pa n : Nat}, Calm s pa n → Calm v pa n := fun hc => by rw [Calm, hsyncq]; exact hc
  obtain ⟨hplain, hput⟩ := plainWrite_spanWrite (s := v) (p := q) (by_ := none) (task := none) (va := o.mbox.toNat + off)
    (l := mailRecord s r) (by rw [hhome']; exact nofun) hsw' (by omega) (by omega) fun k hk => hcalmv (hcalm k (by omega))
  obtain ⟨hplain', hmem⟩ := plainWrite_writeAt (s := recorded s v r o q off) (p := p.plus 16) (by_ := none) (task := none)
    (va := o.mbox.toNat + 16) (l := leBytes 8 ((tail + 1) % 2 ^ 64)) h.home hsw (by
      rw [hplus, leBytes_length]
      exact hplain.kept.calm (hcalmv hcalm'))
  exact ⟨hplain.trans hplain', hput, hplus ▸ hmem⟩

/-- The record stands where it belongs, the tail counts it, and the ticket is free. -/
theorem MailRoom.event {core : Nat}
    (hfind : (s.dev.replies.findIdx? fun r => r.to_.isNone && r.again.isNone && decide (r.core = core)) = some i)
    (hr : s.dev.replies[i]? = some r) (ho : ((s.core core).outst.find? fun o => o.ticket == (r.data.setWidth 32 : BitVec 32)) = some o)
    (hsw : p.sw = false) (hplus : (p.plus 16).pa = p.pa + 16) (hhome' : q.home = .dram) (hsw' : q.sw = false)
    (hcalm : CalmSpan s q 40) (hcalm' : Calm s (p.pa + 16) 8) (hmail : ∀ k, k < 40 → v.mailByte (q.plus k).pa = false)
    (hapart : ∀ k, k < 40 → (q.plus k).pa < p.pa + 16 ∨ p.pa + 24 ≤ (q.plus k).pa) :
    ∃ t, exec (.mailboxWrite core) s = .next t ∧ t.dev.replies = s.dev.replies.eraseIdx i ∧
      (∀ k b, (mailRecord s r)[k]? = some b → Memory.byte t.mem (q.plus k).pa = b) ∧
      (∀ k b, (leBytes 8 ((tail + 1) % 2 ^ 64))[k]? = some b → Memory.byte t.mem (p.pa + 16 + k) = b) ∧
      (∀ a, (a < p.pa + 16 ∨ p.pa + 24 ≤ a) → (∀ k, k < 40 → a ≠ (q.plus k).pa) → Memory.byte t.mem a = Memory.byte s.mem a) ∧
      (t.core r.core).outst = (s.core r.core).outst.filter fun o => o.ticket ≠ (r.data.setWidth 32 : BitVec 32) := by
  obtain ⟨hplain, ⟨hput, hkeep⟩, hmem⟩ := h.writes hsw hplus hhome' hsw' hcalm hcalm'
  have hview : mailView (mailed s v r o p q off tail) = (s.dev.replies.eraseIdx i, s.cores) := by
    rw [hplain.mail, h.known, h.taken]
    rfl
  have hlast : ∀ a, a < p.pa + 16 ∨ p.pa + 24 ≤ a →
      Memory.byte (mailed s v r o p q off tail).mem a = Memory.byte (recorded s v r o q off).mem a := fun a ha => by
    rw [hmem]
    exact Memory.byte_write_other _ _ _ _ (by rwa [leBytes_length])
  refine ⟨_, h.exec_eq hfind hr ho, congrArg Prod.fst hview, fun k b hb => ?_, fun k b hb => ?_, fun a ha hnot => ?_, ?_⟩
  · have hk : k < 40 := leBytes_length 40 _ ▸ (List.getElem?_eq_some_iff.mp hb).1
    refine (hlast _ (hapart k hk)).trans (hput k b _ hb rfl (hmail k hk) fun j hkj _ hj => ?_)
    exact hkj.ne (plus_pa_inj (Option.some.inj hj)).symm
  · exact (congrArg (fun m => Memory.byte m _) hmem).trans (Memory.byte_write _ _ _ _ _ hb)
  · refine (hlast a ha).trans ((hkeep a fun k hk he => hnot k (leBytes_length 40 _ ▸ hk) (Option.some.inj he).symm).trans ?_)
    rw [h.known, h.taken]
    rfl
  · have hcores : (mailed s v r o p q off tail).cores = s.cores := congrArg Prod.snd hview
    rw [State.freeTicket, State.modCore_same, BitVec.ofNat_toNat, State.core, hcores]
    rfl

end

/-! ## The events -/

section
variable {s : State} {port : Nat} {fs : List Frame}

theorem exec_invokeRetry {i n : Nat} {x : Inv} (hx : s.dev.invs[i]? = some x) (hrun : x.run = .backoff n) (hn : n ≤ s.ns) :
    exec (.invokeRetry i) s = .next (s.attempt x) := by
  change execInvokeRetry i s = _
  rw [execInvokeRetry, hx]
  dsimp only
  rw [hrun]
  exact if_pos hn

theorem exec_invokeTimeout {i n : Nat} {x : Inv} (hx : s.dev.invs[i]? = some x) (hrun : x.run = .sent n) (hn : n + 32768 ≤ s.ns) :
    exec (.invokeTimeout i) s = .next (s.invAnswer x.id 6) := by
  change execInvokeTimeout i s = _
  rw [execInvokeTimeout, hx]
  dsimp only
  rw [hrun]
  exact if_pos hn

theorem exec_replyResend {i n : Nat} {r : ReplyMsg} (hr : s.dev.replies[i]? = some r) (hagain : r.again = some n) (hn : n ≤ s.ns)
    (hto : r.to_ = none) : exec (.replyResend i) s =
      .next { s with dev := { s.dev with replies := s.dev.replies.set i { r with again := none } } } := by
  change execReplyResend i s = _
  rw [execReplyResend, hr]
  dsimp only
  rw [hagain]
  dsimp only
  rw [if_neg (Nat.not_lt.mpr hn), hto]
  rfl

/-- An answer frame that accepts an attempt. -/
theorem answer_ends {f : Frame} {u : Unans} {x : Inv}
    (hf : ((s.port port).rxbuf.find? fun f => f.ftype == 3 && decide (f.ddev.toNat = s.dev.devnum)) = some f)
    (hu : (s.dev.unans.find? fun u => u.esn == (f.body.setWidth 32 : BitVec 32) && decide (u.dest = f.sdev.toNat)) = some u)
    (hst : f.body.toNat / 2 ^ 32 % 256 = 0) (hkind : u.kind = .inv x.id) (hinv : s.inv x.id = some x) (hlanes : s.lanesLeft x.g x.tok = none) :
    ∃ t, exec (.answerFrame port) s = .next t ∧ t.mem = s.mem ∧ t.dev.invs = s.dev.invs.filter (fun y => decide (y.id ≠ x.id)) ∧
      (∀ v ∈ t.dev.unans, ¬(v.esn = u.esn ∧ v.dest = u.dest)) ∧
      (t.thread x.g).ctx.pend = (s.thread x.g).ctx.pend.map (Pending.arrive x.tok (statusOf (recTicket x.data) x.tries 0) none) := by
  have hends : (unanswering s port f u).invAnswer x.id 0 = _ := invAnswer_of_ends hinv hlanes (by decide) (by decide) (by decide)
  obtain ⟨hmem, hinvs, hthread, hunans⟩ := releaseHeld_kept
    (s := ((unanswering s port f u).dropInv x.id).pendGot x.g x.tok (statusOf (recTicket x.data) x.tries 0) none) u.dest
  refine ⟨_, (exec_answerFrame hf hu hst hkind).trans (by rw [hends]), hmem.trans (pendGot_mem _ _ _), hinvs, fun v hv hsame => ?_, ?_⟩
  · obtain ⟨w, hw, hesn, hdest⟩ := hunans v hv
    have hother : (!(w.esn == (f.body.setWidth 32 : BitVec 32) && w.dest == u.dest)) = true := (List.mem_filter.mp hw).2
    have hnumber : u.esn = (f.body.setWidth 32 : BitVec 32) := by
      have hfound := List.find?_some hu
      exact beq_iff_eq.mp (Bool.and_eq_true_iff.mp hfound).1
    rw [← hesn, ← hdest, hsame.1, hsame.2, hnumber] at hother
    simp at hother
  · rw [hthread, pendGot_pend, State.dropInv, State.modDev_thread, unanswering_thread]

/-- A packet whose tag fails, at a port that leaves nothing to send again. -/
theorem badTag_down {fs : List Frame} (hpaid : fs.length ≤ (s.port port).paid + (s.port port).tokens)
    (hpick : s.pickPacket port [] (packetsFor s.dev.devnum (s.port port).rxbuf) = some (fs, none)) (hunans : s.dev.unans = [])
    (hkept : (s.port port).kept = []) (hreplay : (s.port port).replay = []) (hwaitq : (s.port port).waitq = []) :
    ∃ t, exec (.packetReceive port) s = .next t ∧ t.mem = s.mem ∧ (t.port port).run = .down ∧ (t.port port).barred = true := by
  obtain ⟨hmem, -, hunans', -, b, r, hport⟩ := entered_kept (s := s) (port := port) fs (enterFlits fs none)
  have hbarred : ∀ u : State, ((u.devRec cSEAL 0 0 0).modPort port fun p => { p with barred := true }).port port =
      { u.port port with barred := true } := fun u => port_modPort port _
  refine ⟨_, (exec_packetReceive_badTag hpick hpaid rfl).trans (congrArg Host.Outcome.next (goDown_of_idle (hunans'.trans hunans) ?_ ?_ ?_)),
    hmem, ?_, ?_⟩
  · rw [hbarred, hport]
    exact hkept
  · rw [hbarred, hport]
    exact hreplay
  · rw [hbarred, hport]
    exact hwaitq
  · rw [port_faultRegions, port_devRec, port_modPort]
    rfl
  · rw [port_faultRegions, port_devRec, port_modPort, hbarred]
    rfl

/-- A record packet enters, and its record stands last at its field. -/
theorem record_enters {f : Frame} {a b : Flit} (hpaid : 2 ≤ (s.port port).paid + (s.port port).tokens)
    (hpick : s.pickPacket port [] (packetsFor s.dev.devnum (s.port port).rxbuf) = some (fs, some [a, b])) (hhead : fs.head? = some f)
    (ha : a.broken = false) (hb : b.broken = false) (hka : hKind a.hdr = 2) (hkb : hKind b.hdr = 2)
    (hnew : s.answerFor f.sdev.toNat f.esn = none) : ∃ t, ∃ r : Rec, exec (.packetReceive port) s = .next t ∧ t.mem = s.mem ∧
      (t.port port).tokens = (s.port port).tokens - (2 - (s.port port).paid) ∧
      (t.field (hRoute a.hdr % 16)).arr = (s.field (hRoute a.hdr % 16)).arr ++ [r] ∧ r.data = b.pay ++ a.pay := by
  obtain ⟨fs', hfs⟩ : ∃ fs', fs = f :: fs' := by
    cases fs with
    | nil => cases hhead
    | cons f' fs' => exact ⟨fs', by rw [Option.some.inj hhead]⟩
  obtain ⟨hmem, hfield, -, hanswers, b', r, hport⟩ := entered_kept (s := s) (port := port) fs (enterFlits fs (some [a, b]))
  have hnew' : (entered s port fs (enterFlits fs (some [a, b]))).answerFor f.sdev.toNat f.esn = none := by
    rw [State.answerFor, hanswers]
    exact hnew
  refine ⟨_, packetRec port f a b, (exec_packetReceive_takes hpick hpaid hfs rfl).trans
    (congrArg Host.Outcome.next (takePacket_record ha hb hka hkb hnew')), hmem, congrArg MPort.tokens hport, ?_, rfl⟩
  rw [State.takeRecord, State.sendRec, State.modField_same, State.modDev_field, hfield]
  rfl

end

/-- Settles O48: each event by what it finds; a mailbox record and its tail are two writes. -/
theorem packetEvents : Obligations.PacketEvents := by
  refine ⟨fun s i n x hx hrun hn hdev => ?_, fun s i n x hx hrun hn hinv hlanes => ?_, fun s i n r hr hagain hn hto => ?_,
    fun s u v core i cap head tail off r o p q hfind hr hsrc ho hu hxl hhome hsw hplus hpline hcap hhead htail hlow hhigh hroom hoff hpage hv
      hxl' hhome' hsw' hcalm hcalm' hmail hapart => ?_,
    fun s port f u x hf hu hst hkind hinv hlanes => ?_, fun s port fs f a b hpaid hpick hhead ha hb hka hkb hnew => ?_,
    fun s port fs fl hpick hshort => ?_, fun s port fs hpaid hpick hunans hkept hreplay hwaitq => ?_⟩
  · refine ⟨_, invRec x, (exec_invokeRetry hx hrun hn).trans (congrArg Host.Outcome.next (attempt_here hdev)), rfl, rfl, ?_, rfl, rfl⟩
    rw [State.sendRec, State.modField_same]
    rfl
  · have hends := invAnswer_of_ends (st := 6) hinv hlanes (by decide) (by decide) (by decide)
    exact ⟨_, (exec_invokeTimeout hx hrun hn).trans (congrArg Host.Outcome.next hends), pendGot_mem _ _ _, rfl, pendGot_pend _ _⟩
  · exact exec_replyResend hr hagain hn hto
  · have h : MailRoom s u v i cap head tail off r o p q :=
      ⟨hsrc, hu, hxl, hhome, hcap, hhead, htail, hlow, hhigh, hroom, hoff, hpage, hv, hxl'⟩
    exact h.event hfind hr ho hsw hplus hhome' hsw' hcalm hcalm' hmail hapart
  · exact answer_ends hf hu hst hkind hinv hlanes
  · exact record_enters hpaid hpick hhead ha hb hka hkb hnew
  · exact ⟨_, exec_packetReceive_short hpick hshort, rfl, port_modPort port _⟩
  · exact badTag_down hpaid hpick hunans hkept hreplay hwaitq

end Sys2Proof.Claims
end

section
/-!
PROOFS. What a transfer unit reads (R195, R301, R338): the parts of a range that a port translates, and the bytes that lie there.
-/
namespace Sys2Proof.Claims
open Sys2Proof.Machine

section
variable {s t : State} {xp : Nat}

/-! ## Parts that lie in memory -/

/-- The first part of a range and the rest of it. -/
theorem Sources.cons_inv {ps : List Phys} {e : Nat × Nat} {parts : List (Nat × Nat)} {xl : Nat → Phys → Prop}
    (h : Sources ps (e :: parts) xl) : ∃ p ps', ps = p :: ps' ∧ xl e.1 p ∧ InMemory p ∧ Sources ps' parts xl := by
  obtain ⟨hlen, hall⟩ := h
  cases ps with
  | nil => cases hlen
  | cons p ps' =>
    obtain ⟨hxl, hmem⟩ := hall 0 e p rfl rfl
    exact ⟨p, ps', rfl, hxl, hmem, Nat.succ.inj hlen, fun k e' p' he hp => hall (k + 1) e' p' he hp⟩

theorem Sources.eq_nil {ps : List Phys} {xl : Nat → Phys → Prop} (h : Sources ps [] xl) : ps = [] := List.eq_nil_of_length_eq_zero h.1

theorem sourceBytes_nil (parts : List (Nat × Nat)) : sourceBytes s [] parts = [] := by
  rw [sourceBytes, List.zip_nil_right, List.flatMap_nil]

theorem sourceBytes_cons (p : Phys) (ps : List Phys) (e : Nat × Nat) (parts : List (Nat × Nat)) :
    sourceBytes s (p :: ps) (e :: parts) = s.spanRead p e.2 ++ sourceBytes s ps parts := rfl

/-- A port without the end of a walk has none to forget. -/
theorem clearWalkOf_of_none (h : (s.xport xp).walked = none) (va : Nat) : s.clearWalkOf xp va = s := by rw [State.clearWalkOf, h]

theorem edge_of_none {p : Phys} (h : s.atEdge p = none) (f : State → State) : s.edge p f = f s := by rw [State.edge, h]

/-- The parts of a transfer's source are read at once. -/
theorem xParts_read {id : Nat} {x : Xfer} {k : State → List Byte → State} (parts : List (Nat × Nat)) (ps : List Phys) (acc : List Byte)
    (h : Sources ps parts (PortReads s (4 * x.blk + x.port))) : s.xParts id x parts acc k = k s (acc ++ sourceBytes s ps parts) := by
  induction parts generalizing ps acc with
  | nil =>
    obtain rfl := h.eq_nil
    exact congrArg (k s) (List.append_nil acc).symm
  | cons e parts ih =>
    obtain ⟨p, ps', rfl, ⟨hwalked, hxl, hedge⟩, hmem, hrest⟩ := h.cons_inv
    rw [State.xParts, State.xAcc, hxl]
    dsimp only
    rw [clearWalkOf_of_none hwalked, sourceBytes_cons, ← List.append_assoc, ← ih ps' _ hrest]
    obtain hhome | hhome | hhome := hmem <;> rw [hhome] <;> exact edge_of_none hedge _

/-- The parts of a command's block are read at once. -/
theorem cmdParts_read {i : Nat} {a : Arriving} {k : State → List Byte → State} (parts : List (Nat × Nat)) (ps : List Phys)
    (acc : List Byte) (h : Sources ps parts (PortReads s xp)) : s.cmdParts xp i a parts acc k = k s (acc ++ sourceBytes s ps parts) := by
  induction parts generalizing ps acc with
  | nil =>
    obtain rfl := h.eq_nil
    exact congrArg (k s) (List.append_nil acc).symm
  | cons e parts ih =>
    obtain ⟨p, ps', rfl, ⟨hwalked, hxl, hedge⟩, hmem, hrest⟩ := h.cons_inv
    have hstep : s.cmdParts xp i a (e :: parts) acc k =
        s.edge p fun s => (s.clearWalkOf xp e.1).cmdParts xp i a parts (acc ++ s.spanRead p e.2) k := by
      rw [State.cmdParts, hxl]
      obtain hhome | hhome | hhome := hmem <;> simp only [hhome]
    rw [hstep, edge_of_none hedge, clearWalkOf_of_none hwalked, ih ps' _ hrest, sourceBytes_cons, List.append_assoc]

/-! ## A state that differs in the commands that have arrived at a port -/

/-- Nothing but the list of arrived commands of port `xp`, and ports of other numbers, may differ. -/
structure ArrOnly (s t : State) (xp : Nat) : Prop where
  blks : ∃ b, t = { s with blks := b }
  blk  : ∀ b, ∃ p, t.blk b = { s.blk b with ports := p }
  port : ∃ l, t.xport xp = { s.xport xp with arr := l }

theorem ArrOnly.refl (s : State) (xp : Nat) : ArrOnly s s xp := ⟨⟨_, rfl⟩, fun _ => ⟨_, rfl⟩, _, rfl⟩

/-- A change of a port leaves all of its block but the ports. -/
theorem modXport_blk (f : XPort → XPort) (b : Nat) : ∃ p, (s.modXport xp f).blk b = { s.blk b with ports := p } := by
  by_cases hb : b = xp / 4
  · subst hb
    exact ⟨_, State.modBlk_same _ _ _⟩
  · exact ⟨_, State.modBlk_other _ _ _ _ hb⟩

theorem arrOnly_modArr (i : Nat) (f : Arriving → Arriving) : ArrOnly s (s.modArr xp i f) xp :=
  ⟨⟨_, rfl⟩, modXport_blk _, _, modXport_same s xp _⟩

section
variable (h : ArrOnly s t xp)
include h

theorem ArrOnly.tileExists : t.tileExists = s.tileExists := by
  funext n
  obtain ⟨p, hp⟩ := h.blk (n / 32)
  rw [State.tileExists, hp]
  rfl

theorem ArrOnly.endExists : t.endExists = s.endExists := by
  funext e
  cases e with
  | mem va => rfl
  | tile n off => exact congrFun h.tileExists n

theorem ArrOnly.wordsOk (b : Nat) (w : List Word) : t.wordsOk b w = s.wordsOk b w := by
  rw [State.wordsOk, State.wordsOk, h.endExists]

theorem ArrOnly.cmdFits (b : Nat) (c : Cmd) : t.cmdFits b c = s.cmdFits b c := by
  have hvia : t.viaOk b c = s.viaOk b c := by
    obtain ⟨B, rfl⟩ := h.blks
    rfl
  rw [State.cmdFits, State.cmdFits, h.endExists, hvia]

theorem ArrOnly.gateMapped (c : Cmd) : t.gateMapped c = s.gateMapped c := by
  obtain ⟨B, rfl⟩ := h.blks
  rfl

theorem ArrOnly.useLeaf : t.useLeaf = s.useLeaf := by
  have haperture : t.apertureOk = s.apertureOk := by
    funext pa level
    rw [State.apertureOk, State.apertureOk, h.tileExists]
  have hdev : t.dev = s.dev := by
    obtain ⟨B, rfl⟩ := h.blks
    rfl
  have hport : t.hostPort = s.hostPort := by
    funext p
    rw [State.hostPort, State.hostPort, hdev]
  unfold State.useLeaf
  rw [haperture, hport, hdev]

theorem ArrOnly.portReads {va : Nat} {p : Phys} (hp : PortReads s xp va p) : PortReads t xp va p := by
  obtain ⟨hwalked, hxl, hedge⟩ := hp
  obtain ⟨l, hport⟩ := h.port
  obtain ⟨q, hq⟩ := h.blk (xp / 4)
  obtain ⟨q', hq'⟩ := h.blk (bitsN p.pa 28 4 * 8 + bitsN p.pa 25 3)
  refine ⟨by rw [hport]; exact hwalked, ?_, ?_⟩
  · simp only [State.xportXl, State.xlate, h.useLeaf, hport, hq] at hxl ⊢
    exact hxl
  · rw [State.atEdge] at hedge ⊢
    simp only [hq']
    exact hedge

theorem ArrOnly.spanRead_eq {p : Phys} (hp : InMemory p) (n : Nat) : t.spanRead p n = s.spanRead p n := by
  obtain ⟨B, rfl⟩ := h.blks
  have hread : ∀ e : Nat × Nat, State.homeRead { s with blks := B } (p.plus e.1) e.2 = s.homeRead (p.plus e.1) e.2 := fun e => by
    have hplus : InMemory (p.plus e.1) := hp
    rw [homeRead_of_inMemory hplus, homeRead_of_inMemory hplus]
  simp only [State.spanRead, hread]

theorem ArrOnly.sourceBytes_eq {xl : Nat → Phys → Prop} (parts : List (Nat × Nat)) (ps : List Phys) (hs : Sources ps parts xl) :
    sourceBytes t ps parts = sourceBytes s ps parts := by
  induction parts generalizing ps with
  | nil => rw [hs.eq_nil, sourceBytes_nil, sourceBytes_nil]
  | cons e parts ih =>
    obtain ⟨p, ps', rfl, -, hmem, hrest⟩ := hs.cons_inv
    rw [sourceBytes_cons, sourceBytes_cons, h.spanRead_eq hmem, ih ps' hrest]

theorem ArrOnly.portBlock {w pb : List Word} (hb : PortBlock s xp w pb) : PortBlock t xp w pb := by
  obtain hnone | ⟨hpb, ps, hsources, hbytes⟩ := hb
  · exact .inl hnone
  · refine .inr ⟨hpb, ps, ⟨hsources.1, fun k e p he hp => ?_⟩, hbytes.trans (by rw [h.sourceBytes_eq _ _ hsources])⟩
    obtain ⟨hreads, hmem⟩ := hsources.2 k e p he hp
    exact ⟨h.portReads hreads, hmem⟩

end

end

end Sys2Proof.Claims
end

section
/-!
PROOFS. How commands enter ports (R91, R194, R195, R258 to R260).
-/
namespace Sys2Proof.Claims
open Sys2Proof.Machine

section
variable {s t : State} {b port : Nat} {a a' : Arriving} {pb : List Word} {c : Cmd}

/-- Port `port` of block `b` by its number. -/
theorem port_mod (hp : port < 4) : 4 * b + port % 4 = 4 * b + port := by omega
theorem port_blk (hp : port < 4) : (4 * b + port) / 4 = b := by omega
theorem port_num (hp : port < 4) : (4 * b + port) % 4 = port := by omega

theorem held_of_one {xp : Nat} (harr : (s.xport xp).arr = [a]) (hstall : a.stall = none) (hwant : a.want = none) :
    (s.xport xp).held = false := by simp [XPort.held, harr, hstall, hwant]

theorem nextArr_one (hbusy : a.busy = false) : nextArr [a] = some 0 := by simp [nextArr, List.range_one, hbusy, firstArr]

theorem firstBusy_one (hbusy : a.busy = true) : firstBusy [a] = some 0 := by simp [firstBusy, List.range_one, hbusy]

/-- The one command at a port is tried. -/
theorem exec_commandEntry (hp : port < 4) (hgone : s.portsGone b = false) (harr : (s.xport (4 * b + port)).arr = [a])
    (hstall : a.stall = none) (hwant : a.want = none) (hbusy : a.busy = false) (hturn : s.entryTurn (4 * b + port) a.ns = true) :
    exec (.commandEntry b port) s = .next (s.tryCmd (4 * b + port) 0 a) := by
  change execCommandEntry b port s = _
  rw [execCommandEntry, port_mod hp]
  rw [if_neg (by rw [hgone]; exact Bool.false_ne_true), if_neg (by rw [held_of_one harr hstall hwant]; exact Bool.false_ne_true), harr,
    nextArr_one hbusy]
  exact if_pos hturn

/-- A port's command that is BUSY no more. -/
def retrying (s : State) (xp : Nat) : State := s.modArr xp 0 fun y => { y with busy := false }

theorem retrying_arr {xp : Nat} (harr : (s.xport xp).arr = [a]) : ((retrying s xp).xport xp).arr = [{ a with busy := false }] := by
  rw [retrying, State.modArr, modXport_same, harr]
  rfl

/-- The one command at a port is tried again. -/
theorem exec_busyRetry (hp : port < 4) (harr : (s.xport (4 * b + port)).arr = [a]) (hstall : a.stall = none) (hwant : a.want = none)
    (hbusy : a.busy = true) : exec (.busyRetry b port) s =
      if (s.xport (4 * b + port)).from_ ≤ (s.blk b).cyc then
        .next ((retrying s (4 * b + port)).tryCmd (4 * b + port) 0 { a with busy := false })
      else .next (retrying s (4 * b + port)) := by
  change execBusyRetry b port s = _
  rw [execBusyRetry, port_mod hp]
  rw [if_neg (by rw [held_of_one harr hstall hwant]; exact Bool.false_ne_true), harr, firstBusy_one hbusy]
  rfl

/-! ## The checks of a command (R304) -/

section
variable {xp i : Nat}

/-- A command whose words are in order has its block read. -/
theorem tryCmd_reads (hwords : s.wordsOk (xp / 4) a.w = true) (hblock : PortBlock s xp a.w pb) :
    s.tryCmd xp i a = s.enterCmd xp i a pb := by
  have hok : ¬(!s.wordsOk (xp / 4) a.w) = true := by rw [hwords]; exact Bool.false_ne_true
  rw [State.tryCmd, if_neg hok]
  obtain ⟨hpb, rfl⟩ | ⟨hpb, ps, hsources, rfl⟩ := hblock
  · rw [hpb]
    rfl
  · rw [if_pos hpb, cmdParts_read _ ps [] hsources]
    rfl

/-- A command that obeys every rule is held, found BUSY, or queued. -/
theorem enterCmd_eq (hcmd : cmdOf a.w pb = some c) (hmode : c.cmode < 2) (hfits : s.cmdFits (xp / 4) c = true)
    (hgate : s.gateMapped c = true) : s.enterCmd xp i a pb =
      if (s.xport xp).q.length ≥ 16 then s
      else if s.lockRoom < (c.lockRanges (s.entriesOf c)).length then s.next.modArr xp i fun y => { y with busy := true, place := s.fresh }
      else (s.modXport xp fun p => { p with arr := p.arr.eraseIdx i }).takeCmd (xp / 4) (xp % 4) none a.route (some a.gid) a.w pb c := by
  rw [State.enterCmd, hcmd]
  exact if_neg (by simp [hfits, hgate, Nat.not_le.mpr hmode])

end

/-- The state in which the command that stood first has left those that have arrived. -/
def unarrived (s : State) (xp : Nat) : State := s.modXport xp fun p => { p with arr := p.arr.eraseIdx 0 }

/-- A command that may enter, tried in a state that differs in what has arrived. -/
theorem tryCmd_of_enters (h : Enters s (4 * b + port) a pb c) (ht : ArrOnly s t (4 * b + port)) (hw : a'.w = a.w) :
    t.tryCmd (4 * b + port) 0 a' =
      if (t.xport (4 * b + port)).q.length ≥ 16 then t
      else if t.lockRoom < (c.lockRanges (t.entriesOf c)).length then
        t.next.modArr (4 * b + port) 0 fun y => { y with busy := true, place := t.fresh }
      else (unarrived t (4 * b + port)).takeCmd ((4 * b + port) / 4) ((4 * b + port) % 4) none a'.route (some a'.gid) a'.w pb c := by
  obtain ⟨-, -, -, hwords, hblock, hcmd, hmode, hfits, hgate⟩ := h
  rw [tryCmd_reads (pb := pb) (by rw [ht.wordsOk, hw]; exact hwords) (hw ▸ ht.portBlock hblock),
    enterCmd_eq (hw ▸ hcmd) hmode ((ht.cmdFits _ c).trans hfits) ((ht.gateMapped c).trans hgate)]
  rfl

theorem entriesOf_of_plain (h2 : c.kind ≠ 2) (h3 : c.kind ≠ 3) : s.entriesOf c = [] := if_neg (by simp [h2, h3])

theorem takeCmd_arr (uid : Option (Nat × Nat)) (route : Nat) (gid : Option Nat) (w : List Word) :
    ((s.takeCmd b port uid route gid w pb c).xport (4 * b + port)).arr = (s.xport (4 * b + port)).arr := by
  simp only [State.takeCmd, addLocks_xport, modXport_same]
  rfl

/-- The port with room takes the command, and the table with room its entries. -/
theorem tookCommand_of_enters (hp : port < 4) (h : Enters s (4 * b + port) a pb c) (ht : ArrOnly s t (4 * b + port))
    (hw : a'.w = a.w) (hroute : a'.route = a.route) (hgid : a'.gid = a.gid) (harr : (t.xport (4 * b + port)).arr = [a'])
    (hroom : (s.xport (4 * b + port)).q.length < 16) (hlocks : (c.lockRanges (s.entriesOf c)).length ≤ s.lockRoom)
    (h2 : c.kind ≠ 2) (h3 : c.kind ≠ 3) : TookCommand s (t.tryCmd (4 * b + port) 0 a') (4 * b + port) a pb c := by
  obtain ⟨l, hport⟩ := ht.port
  obtain ⟨B, hblks⟩ := id ht.blks
  have hdev : t.dev = s.dev := by rw [hblks]
  have hfresh : t.fresh = s.fresh := by rw [hblks]
  have hq : (t.xport (4 * b + port)).q = (s.xport (4 * b + port)).q := by rw [hport]
  have hroom' : ¬(t.xport (4 * b + port)).q.length ≥ 16 := by rw [hq]; exact Nat.not_le.mpr hroom
  have hlocks' : ¬t.lockRoom < (c.lockRanges (t.entriesOf c)).length := by
    rw [entriesOf_of_plain h2 h3] at hlocks ⊢
    rw [State.lockRoom, hdev]
    exact Nat.not_lt.mpr hlocks
  rw [tryCmd_of_enters h ht hw, if_neg hroom', if_neg hlocks', port_blk hp, port_num hp, hw, hroute, hgid]
  have hxfer : ((unarrived t (4 * b + port)).takeCmd b port none a.route (some a.gid) a.w pb c).xfer s.fresh = some _ :=
    hfresh ▸ takeCmd_xfer (unarrived t (4 * b + port)) b port none a.route (some a.gid) a.w pb c
  refine ⟨?_, ?_, ?_, ⟨_, hxfer, rfl, rfl, rfl, rfl, rfl, rfl⟩, fun _ _ => ?_⟩
  · rw [takeCmd_mem, hblks]
    rfl
  · rw [takeCmd_arr, unarrived, modXport_same, harr]
    rfl
  · rw [takeCmd_queue, unarrived, modXport_same, ← hfresh, ← hq]
    rfl
  · rw [takeCmd_locks, entriesOf_of_plain h2 h3, ← hdev]
    rfl

/-- A command that the table has no room for is BUSY. -/
theorem busy_of_enters (h : Enters s (4 * b + port) a pb c) (hroom : (s.xport (4 * b + port)).q.length < 16)
    (hlocks : s.lockRoom < (c.lockRanges []).length) (h2 : c.kind ≠ 2) (h3 : c.kind ≠ 3) :
    (s.tryCmd (4 * b + port) 0 a).mem = s.mem ∧ (s.tryCmd (4 * b + port) 0 a).dev.locks = s.dev.locks ∧
      ((s.tryCmd (4 * b + port) 0 a).xport (4 * b + port)).arr = [{ a with busy := true, place := s.fresh }] ∧
      ((s.tryCmd (4 * b + port) 0 a).xport (4 * b + port)).q = (s.xport (4 * b + port)).q := by
  have harr := h.1
  rw [tryCmd_of_enters h (.refl s _) rfl, if_neg (Nat.not_le.mpr hroom), entriesOf_of_plain h2 h3, if_pos hlocks]
  refine ⟨rfl, rfl, ?_, ?_⟩
  · rw [State.modArr, modXport_same]
    exact congrArg (fun l : List Arriving => l.modify 0 fun y => { y with busy := true, place := s.fresh }) harr
  · rw [State.modArr, modXport_same]
    rfl

theorem xport_addNotice (f : Nat) (r : FRec) (xp : Nat) : (s.addNotice f r).xport xp = s.xport xp := rfl

/-- A command that breaks a rule that no block can mend goes, with a record of its region. -/
theorem discard_of_broken (hp : port < 4) (harr : (s.xport (4 * b + port)).arr = [a]) (hwords : s.wordsOk b a.w = false) :
    ∃ r, (s.tryCmd (4 * b + port) 0 a).mem = s.mem ∧ ((s.tryCmd (4 * b + port) 0 a).xport (4 * b + port)).arr = [] ∧
      ((s.tryCmd (4 * b + port) 0 a).xport (4 * b + port)).q = (s.xport (4 * b + port)).q ∧ r.what.cause = cUND ∧
      ((s.tryCmd (4 * b + port) 0 a).field (s.originField (some a.gid) (b / 8))).notices =
        (s.field (s.originField (some a.gid) (b / 8))).notices ++ [r] := by
  have hfield : (4 * b + port) / 32 = b / 8 := by omega
  have htry : s.tryCmd (4 * b + port) 0 a = s.discardCmd (4 * b + port) 0 a cUND 0 := by
    rw [State.tryCmd, port_blk hp, hwords]
    rfl
  rw [htry, State.discardCmd, hfield]
  refine ⟨_, rfl, ?_, ?_, ?_, noticeFrom_notices _ _ _ _⟩
  · rw [xport_addNotice, modXport_same, harr]
    rfl
  · rw [xport_addNotice, modXport_same]
  · rfl

end

end Sys2Proof.Claims
end

section
/-!
PROOFS. Gates, starts and ends of transfers (R197, R198, R261, R262, R272, R273, R275, R362).
-/
namespace Sys2Proof.Claims
open Sys2Proof.Machine

section
variable {s : State} {b port id : Nat} {x : Xfer} {c : Cmd}

/-! ## Transfers by number -/

theorem xfer_modXfer (hx : s.xfer id = some x) (f : Xfer → Xfer) : (s.modXfer id f).xfer id = some (f x) := by
  rw [State.modXfer, hx]
  exact Tab.get_set_same _ _ _

@[simp] theorem modXfer_mem (f : Xfer → Xfer) : (s.modXfer id f).mem = s.mem := by
  unfold State.modXfer
  split <;> rfl

theorem modXfer_blk (f : Xfer → Xfer) (n : Nat) : (s.modXfer id f).blk n = s.blk n := by
  unfold State.modXfer
  split <;> rfl

theorem leavePort_xfer (y : Xfer) (n : Nat) : (s.leavePort n y).xfer id = s.xfer id := rfl

theorem leavePort_comps (y : Xfer) (n : Nat) : ((s.leavePort id y).blk n).comps = (s.blk n).comps := by
  obtain ⟨p, hp⟩ := modXport_blk (s := s) (xp := 4 * y.blk + y.port) (fun p => { p with q := p.q.filter (· ≠ id) }) n
  rw [State.leavePort, hp]

/-- The transfer at the head of a port, with its command. -/
theorem portXfer_of_head {xp : Nat} (h : AtHead s xp id x c) : s.portXfer xp = some (id, x, c) := by
  obtain ⟨hq, hx, hstall, hwant, hcmd⟩ := h
  have hheld : x.held = false := by simp [Xfer.held, hstall, hwant]
  rw [State.portXfer, hq]
  dsimp only
  rw [hx]
  dsimp only
  rw [hheld, Xfer.cmd, hcmd]
  rfl

/-! ## Gates (R272, R273) -/

/-- A gate word that has been read lets its transfer pass, or has it read again. -/
theorem gateRead_xfer (hx : s.xfer id = some x) (hqueued : x.phase = .queued) (ggen pa : Nat) :
    (s.gateRead id ggen (memNat s.mem pa 16)).xfer id = some { x with
      farbuf := []
      phase := if (memNat s.mem (pa + 10) 2 + 65536 - ggen % 65536) % 65536 < 32768 then .opened else .queued } := by
  rw [State.gateRead, syncOf_gen, genReached]
  by_cases hreached : (memNat s.mem (pa + 10) 2 + 65536 - ggen % 65536) % 65536 < 32768
  · rw [if_pos (decide_eq_true hreached), if_pos hreached, xfer_modXfer hx]
  · rw [if_neg (by rw [decide_eq_false hreached]; exact Bool.false_ne_true), if_neg hreached, xfer_modXfer hx, ← hqueued]

theorem gateRead_mem (ggen w : Nat) : (s.gateRead id ggen w).mem = s.mem := by
  unfold State.gateRead
  split <;> exact modXfer_mem _

section
variable (hp : port < 4) (h : AtHead s (4 * b + port) id x c) (hqueued : x.phase = .queued) (hgate : c.gate = true)
include hp h hqueued hgate

theorem exec_gateOpen_tile {tl off : Nat} (hgsync : c.gsync = some (.tile tl off)) :
    exec (.gateOpen b port) s = .next (s.gateRead id c.ggen (memNat s.mem (sramAddr tl off) 16)) := by
  change execGateOpen b port s = _
  rw [execGateOpen, port_mod hp, portXfer_of_head h]
  dsimp only
  rw [if_pos ⟨hqueued, hgate⟩, hgsync]
  exact congrArg (fun w => Host.Outcome.next (s.gateRead id c.ggen w)) (sramRead_eq_memNat off 16)

theorem exec_gateOpen_mem {va : Nat} {p : Phys} (hgsync : c.gsync = some (.mem va)) (hblk : x.blk = b) (hport : x.port = port)
    (hreads : PortReads s (4 * b + port) va p) (hmem : InMemory p) (hflat : p.hash = false) :
    exec (.gateOpen b port) s = .next (s.gateRead id c.ggen (memNat s.mem p.pa 16)) := by
  have hsources : Sources [p] [(va, 16)] (PortReads s (4 * x.blk + x.port)) := by
    rw [hblk, hport]
    refine ⟨rfl, fun k e p' he hp' => ?_⟩
    cases k with
    | zero =>
      cases he
      cases hp'
      exact ⟨hreads, hmem⟩
    | succ k => cases he
  have hplus : InMemory (p.plus 0) := hmem
  have hbytes : leNat (sourceBytes s [p] [(va, 16)]) = memNat s.mem p.pa 16 := by
    have hspans : p.spans 16 = [(0, 16)] := spans_of_line fun hhash => absurd (hflat.symm.trans hhash) Bool.false_ne_true
    rw [sourceBytes_cons, sourceBytes_nil, List.append_nil, State.spanRead, hspans, List.flatMap_cons, List.flatMap_nil,
      List.append_nil, homeRead_of_inMemory hplus, plus_zero, leNat_leBytes, Nat.mod_eq_of_lt (memNat_lt _ _ _)]
  change execGateOpen b port s = _
  rw [execGateOpen, port_mod hp, portXfer_of_head h]
  dsimp only
  rw [if_pos ⟨hqueued, hgate⟩, hgsync]
  dsimp only
  rw [xParts_read _ _ _ hsources, List.nil_append, hbytes]

end

/-! ## Starts (R194, R197, R262, R362) -/

theorem exec_transferStart (hp : port < 4) (h : AtHead s (4 * b + port) id x c)
    (hphase : x.phase = .opened ∨ (x.phase = .queued ∧ c.gate = false)) (hacked : s.acked id = true) :
    exec (.transferStart b port) s = .next (s.startXfer id x c) := by
  change execTransferStart b port s = _
  rw [execTransferStart, port_mod hp, portXfer_of_head h]
  exact if_pos ⟨hphase, hacked⟩

theorem startXfer_plain (h6 : c.kind ≠ 6) (hvia : c.via = 0) :
    s.startXfer id x c = s.modXfer id fun y => { y with phase := .running } := by
  unfold State.startXfer
  split
  next h _ => exact absurd h h6
  · exact if_pos hvia

theorem startXfer_via (h6 : c.kind ≠ 6) (hvia : c.via ≠ 0) {gid last : Nat} {reach : List Nat}
    (hpath : s.viaPath x.blk c = some (gid, reach, last)) (hfree : s.viaBusy id gid c.via = false) (hclosed : s.viaOpen c last = false) :
    s.startXfer id x c = (s.handOff id c gid reach last).modXfer id fun y => { y with phase := .running, vgid := some gid } := by
  unfold State.startXfer
  split
  next h _ => exact absurd h h6
  · rw [if_neg hvia, hpath]
    exact if_neg (by simp [hfree, hclosed])

theorem startXfer_compile {tl off : Nat} (h6 : c.kind = 6) (hdst : c.dst = .tile tl off) : s.startXfer id x c = s.startCompile id x c tl := by
  rw [State.startXfer, h6, hdst]
  rfl

theorem withSync_none (hcsync : c.csync = none) (k : State → SyncAt → State) : s.withSync id x c k = k s .none := by
  rw [State.withSync, hcsync]

section
variable {tl : Nat}

theorem startCompile_cached (hcached : IsCached s tl c.pat) (hcsync : c.csync = none) :
    s.startCompile id x c tl = (s.leavePort id x).modXfer id fun y => { y with phase := .moved } := by
  rw [State.startCompile, if_pos ((cached_isSome_iff tl c.pat).mpr hcached), withSync_none hcsync]
  rfl

variable (hcached : ¬IsCached s tl c.pat) (hblk : tl / 32 = x.blk)
include hcached hblk

theorem startCompile_pending (hpending : IsPending s tl c.pat) : s.startCompile id x c tl =
    ((s.modBlk x.blk fun b => b.modComp tl c.pat fun k => { k with reqs := k.reqs ++ [.xfer id] }).modXfer id fun y =>
      { y with phase := .running, closed := true }).leavePort id x := by
  rw [State.startCompile, if_neg (mt (cached_isSome_iff tl c.pat).mp hcached), if_pos ((pending_iff hblk c.pat).mpr hpending)]

variable (hidle : ¬IsPending s tl c.pat)
include hidle

theorem startCompile_queued (hroom : (s.blk x.blk).comps.length < 16) : s.startCompile id x c tl =
    ((s.queueMem x.blk tl c.pat c.src.at_ c.len (.xfer id) none).modXfer id fun y => { y with phase := .running }).leavePort id x := by
  rw [State.startCompile, if_neg (mt (cached_isSome_iff tl c.pat).mp hcached), if_neg (mt (pending_iff hblk c.pat).mp hidle)]
  exact if_pos (decide_eq_true hroom)

theorem startCompile_full (hfull : 16 ≤ (s.blk x.blk).comps.length) : s.startCompile id x c tl = s := by
  rw [State.startCompile, if_neg (mt (cached_isSome_iff tl c.pat).mp hcached), if_neg (mt (pending_iff hblk c.pat).mp hidle)]
  exact if_neg (by simpa [Blk.compRoom] using hfull)

end

/-- What the start of a compile that is queued leaves: its transfer runs, and the compile stands last in the queue. -/
theorem compileStarted (hx : s.xfer id = some x) (tl : Nat) : ∃ k : Compile,
    (((s.queueMem x.blk tl c.pat c.src.at_ c.len (.xfer id) none).modXfer id fun y => { y with phase := .running }).leavePort id x).xfer id =
      some { x with phase := .running } ∧
    ((((s.queueMem x.blk tl c.pat c.src.at_ c.len (.xfer id) none).modXfer id fun y =>
      { y with phase := .running }).leavePort id x).blk x.blk).comps = (s.blk x.blk).comps ++ [k] ∧
    k.tile = tl ∧ k.ident = c.pat ∧ k.reqs = [.xfer id] := by
  obtain ⟨⟨k, hcomps, htile, hident, -, hreqs⟩, -, -, hxfers, -⟩ := compileQueued_queueMem (s := s) x.blk tl c.pat c.src.at_ c.len
    (.xfer id) none
  have hx' : (s.queueMem x.blk tl c.pat c.src.at_ c.len (.xfer id) none).xfer id = some x := by
    rw [State.xfer, hxfers]
    exact hx
  refine ⟨k, ?_, ?_, htile, hident, hreqs⟩
  · rw [leavePort_xfer, xfer_modXfer hx']
  · rw [leavePort_comps, modXfer_blk, hcomps]

/-! ## The hand-off of a via transfer (R262) -/

theorem handOff_tile {tl off : Nat} (hdst : c.dst = .tile tl off) (gid : Nat) (reach : List Nat) (last : Nat) :
    (s.handOff id c gid reach last).mem = s.mem ∧ (s.handOff id c gid reach last).xfer id = s.xfer id ∧
      ((s.handOff id c gid reach last).tile tl).via = (s.tile tl).via ++ [(id, last, off, 0)] := by
  rw [State.handOff, hdst]
  exact ⟨rfl, rfl, congrArg Tile.via (State.modTile_same _ _ _)⟩

theorem modXfer_tile (f : Xfer → Xfer) (n : Nat) : (s.modXfer id f).tile n = s.tile n := by
  unfold State.modXfer
  split <;> rfl

/-! ## Releases (R197, R261, R275) -/

section
variable {i : Nat} {l : Lock} (hl : (s.dev.locks.filter fun m => decide (m.id = id))[i]? = some l) (hx : s.xfer id = some x)
include hl hx

theorem lock_id : s.xfer l.id = some x := by
  have hid := (List.mem_filter.mp (List.mem_of_getElem? hl)).2
  rw [of_decide_eq_true hid, hx]

theorem lockDone_of_ended (h : (x.phase = .moved ∧ (l.write = true → x.counts = 0)) ∨
    (l.write = false ∧ x.closed = true ∧ ∃ c, cmdOf x.w x.pb = some c ∧ c.via = 0)) : s.lockDone l = true := by
  rw [State.lockDone, lock_id hl hx]
  dsimp only
  obtain ⟨hmoved, hcounts⟩ | ⟨hread, hclosed, c, hcmd, hvia⟩ := h
  · have hdone : (!l.write || x.counts == 0) = true := by
      cases hw : l.write with
      | false => rfl
      | true => simp [hcounts hw]
    rw [hmoved, hdone]
    rfl
  · have hplain : (x.cmd.map Cmd.via).getD 0 = 0 := by rw [Xfer.cmd, hcmd]; exact hvia
    rw [hread, hclosed, hplain]
    simp

theorem lockDone_of_running (hrun : x.phase = .running) (hwrite : l.write = true) (h : ∃ c, cmdOf x.w x.pb = some c ∧ c.kind ≠ 6) :
    s.lockDone l = false := by
  obtain ⟨c, hcmd, h6⟩ := h
  have hkind : (x.cmd.map Cmd.kind == some 6) = false := by
    rw [Xfer.cmd, hcmd]
    exact beq_eq_false_iff_ne.mpr fun he => h6 (Option.some.inj he)
  rw [State.lockDone, lock_id hl hx]
  dsimp only
  rw [hrun, hwrite, hkind]
  rfl

omit hx in
theorem exec_rangeLockRelease : exec (.rangeLockRelease id i) s =
    if s.lockDone l then .next { s with agenda := s.retries ++ s.agenda, dev := { s.dev with locks := s.dev.locks.erase l } }
    else .next s := by
  change execRangeLockRelease id i s = _
  rw [execRangeLockRelease, hl]
  rfl

end

/-! ## Completions (R33, R198, R275) -/

section
variable (hmoved : x.phase = .moved) (hcounts : x.counts = 0) (hlocks : ∀ l ∈ s.dev.locks, l.id ≠ id)
include hmoved hcounts hlocks

/-- The condition under which a transfer ends. -/
theorem ends_of_released : x.phase = .moved ∧ x.counts = 0 ∧ (s.dev.locks.any fun l => decide (l.id = id)) = false :=
  ⟨hmoved, hcounts, List.any_eq_false.mpr fun l hl => by simpa using hlocks l hl⟩

variable (hx : s.xfer id = some x)
include hx

theorem exec_transferCompletion_none (huid : x.uid = none) : exec (.transferCompletion id) s = .next (s.setXfer id none) := by
  change execTransferCompletion id s = _
  rw [execTransferCompletion, hx]
  dsimp only
  rw [if_pos (ends_of_released hmoved hcounts hlocks), huid]

theorem exec_transferCompletion_some {u slot : Nat} (huid : x.uid = some (u, slot)) (hcmd : cmdOf x.w x.pb = some c) (hmode : c.cmode ≥ 2) :
    exec (.transferCompletion id) s = .next ((s.setXfer id none).deliver u slot { id := c.xid, xst := x.xst, hnd := c.hnd }) := by
  have hcmd' : x.cmd = some c := hcmd
  change execTransferCompletion id s = _
  rw [execTransferCompletion, hx]
  dsimp only
  rw [if_pos (ends_of_released hmoved hcounts hlocks), huid, hcmd']
  exact if_pos hmode

end

/-- A completion reaches a thread that is in its slot and has a place for it. -/
theorem deliver_thread {u slot g : Nat} {y : Completion} (hroom : (s.thread g).comps.length < 8)
    (hfind : s.threads.find? (fun e => e.2.uid == u && e.2.run != .free) = some (g, s.thread g)) :
    s.deliver u slot y = s.modThread g fun t => t.complete y (s.blk (unitBlk g)).cyc := by
  rw [State.deliver, hfind]
  exact if_neg (by simp [Nat.not_le.mpr hroom])

/-! ## The end of a via transfer (R262) -/

theorem exec_viaTransferFinish {tl off : Nat} (hx : s.xfer id = some x) (hcmd : cmdOf x.w x.pb = some c) (hdst : c.dst = .tile tl off)
    (hrun : x.phase = .running) (hvia : c.via ≠ 0) (hclosed : x.closed = true) (hstops : ∀ v ∈ (s.tile tl).via, v.1 ≠ id)
    (hroute : ∀ v, s.viaOf x.blk c = some v → s.onRoute v.gid c.via = false) :
    exec (.viaTransferFinish id) s = .next ((s.modXfer id fun y => { y with phase := .moved }).leavePort id x) := by
  have hcmd' : x.cmd = some c := hcmd
  have htaken : s.viaTaken x c = true := by
    rw [State.viaTaken, hclosed]
    cases hv : s.viaOf x.blk c with
    | none => rfl
    | some v => simp [hroute v hv]
  have hstop : ((s.tile tl).via.any fun v => decide (v.1 = id)) = false := List.any_eq_false.mpr fun v hv => by simpa using hstops v hv
  change execViaTransferFinish id s = _
  rw [execViaTransferFinish, hx]
  dsimp only
  rw [hcmd']
  dsimp only
  rw [hdst]
  exact if_pos ⟨hrun, hvia, htaken, hstop⟩

end

end Sys2Proof.Claims
end

section
/-!
PROOFS. The bytes that a transfer moves (R196, R198, R335), and the events of transfers.
-/
namespace Sys2Proof.Claims
open Sys2Proof.Machine

section
variable {s t : State} {id tl off : Nat} {x : Xfer} {c : Cmd}

/-! ## Bytes -/

theorem fillBytes_length (pat : Word) (k n : Nat) : (fillBytes pat k n).length = n := by
  induction n generalizing k with
  | zero => rfl
  | succ n ih => rw [fillBytes, List.length_cons, ih]

/-- A fill repeats the eight bytes of its pattern. -/
theorem fillBytes_getElem? (pat : Word) {k n j : Nat} {y : Byte} (h : (fillBytes pat k n)[j]? = some y) :
    y = BitVec.ofNat 8 (pat.toNat / 2 ^ (8 * ((k + j) % 8))) := by
  induction n generalizing k j with
  | zero => simp [fillBytes] at h
  | succ n ih =>
    cases j with
    | zero =>
      have hhead : BitVec.ofNat 8 (bits pat (8 * (k % 8)) 8) = y := Option.some.inj h
      rw [← hhead, bits, bitsN, Nat.add_zero]
      exact BitVec.eq_of_toNat_eq (by simp)
    | succ j =>
      rw [show k + (j + 1) = k + 1 + j by omega]
      exact ih h

theorem spanRead_length (p : Phys) {n : Nat} (hn : n ≤ 64) : (s.spanRead p n).length = n := by
  rw [State.spanRead, List.length_flatMap]
  obtain ⟨hspans, -⟩ | ⟨a, -, han, hspans, -⟩ := spans_short (p := p) hn
  · simp [hspans]
  · simp only [hspans, List.map_cons, List.map_nil, leBytes_length, List.sum_cons, List.sum_nil]
    omega

theorem sourceBytes_length {xl : Nat → Phys → Prop} (parts : List (Nat × Nat)) (ps : List Phys) (h : Sources ps parts xl)
    (hshort : ∀ e ∈ parts, e.2 ≤ 64) : (sourceBytes s ps parts).length = (parts.map Prod.snd).sum := by
  induction parts generalizing ps with
  | nil => rw [h.eq_nil, sourceBytes_nil]; rfl
  | cons e parts ih =>
    obtain ⟨p, ps', rfl, -, -, hrest⟩ := h.cons_inv
    rw [sourceBytes_cons, List.length_append, spanRead_length p (hshort e (.head _)), ih ps' hrest fun e' he => hshort e' (.tail _ he),
      List.map_cons, List.sum_cons]

theorem pageParts_le {va n : Nat} : ∀ e ∈ pageParts va n, e.2 ≤ n := by
  intro e he
  rw [pageParts] at he
  split at he
  · rw [List.mem_singleton.mp he]
  · simp only [List.mem_cons, List.not_mem_nil, or_false] at he
    obtain rfl | rfl := he
    · exact Nat.min_le_left _ _
    · exact Nat.sub_le _ _

theorem nextLen_le (x : Xfer) (c : Cmd) : nextLen x c ≤ 32 := (Nat.min_le_right _ _).trans (Nat.sub_le _ _)

/-- The bytes of the parts of a run are as many as the run's. -/
theorem runBytes_length {xl : Nat → Phys → Prop} {ps : List Phys} {va : Nat} (h : Sources ps (pageParts va (nextLen x c)) xl) :
    (sourceBytes s ps (pageParts va (nextLen x c))).length = nextLen x c :=
  (sourceBytes_length _ ps h fun e he => ((pageParts_le e he).trans (nextLen_le x c)).trans (by decide)).trans (pageParts_sum _ _)

/-! ## One write event (R196, R335) -/

theorem sramWrite_xfer {bs : List Byte} (hcalm : Calm s (sramAddr tl off) bs.length) (n : Nat) :
    (s.sramWrite tl off bs).xfer n = s.xfer n := by
  have hwatch := of_engineView (engineView_watch (s := s) false 0 (sramAddr tl off) bs.length 0)
  obtain ⟨-, -, -, hxfers⟩ := hwatch
  rw [sramWrite_eq hcalm, forgetMail_keeps (fun t => t.xfer n) fun _ _ => rfl]
  exact congrArg (fun y : Tab (Option Xfer) => Tab.get none y n) hxfers

/-- A transfer that has moved `n` bytes which nothing counts. -/
theorem movedOn_uncounted (hx : t.xfer id = some x) (hrun : x.phase = .running) (n : Nat) :
    (t.movedOn id x c n .none).mem = t.mem ∧ MovedOn (t.movedOn id x c n .none) id x c n := by
  have hraise : ∀ u : State, u.raiseSync id x .none n = u := fun _ => rfl
  rw [State.movedOn, hraise]
  split
  next hend => exact ⟨modXfer_mem _, _, (leavePort_xfer _ _).trans (xfer_modXfer hx _), rfl, by rw [if_pos hend]⟩
  next hend => exact ⟨modXfer_mem _, _, xfer_modXfer hx _, rfl, by rw [if_neg hend]; exact hrun⟩

section
variable (h : RunsTo s id x c tl off)
include h

/-- The state after a write event of the bytes `bs`. -/
def chunkWritten (s : State) (id : Nat) (x : Xfer) (c : Cmd) (tl : Nat) (bs : List Byte) : State :=
  (s.sramWrite tl (nextDst x c) bs).movedOn id x c (nextLen x c) .none

/-- A transfer without a list reads its bytes and writes them. -/
theorem exec_transferWrite (h2 : c.kind ≠ 2) (h3 : c.kind ≠ 3) (h6 : c.kind ≠ 6) : exec (.transferWrite id) s =
    .next (s.xSource id x c (nextSrc x c) (x.pos % c.len) (nextLen x c) fun s bs =>
      s.xWrite id x c.dst (nextDst x c) bs (decide (x.pos + nextLen x c ≥ c.total)) fun s => s.movedOn id x c (nextLen x c) .none) := by
  obtain ⟨hx, hcmd, hrun, hstall, hwant, hfar, hvia, hdst, hcsync, -⟩ := h
  have hcmd' : x.cmd = some c := hcmd
  have hchunk : s.moveChunk id x c = s.xSource id x c (nextSrc x c) (x.pos % c.len) (nextLen x c) fun s bs =>
      s.xWrite id x c.dst (nextDst x c) bs (decide (x.pos + nextLen x c ≥ c.total)) fun s => s.movedOn id x c (nextLen x c) .none := by
    rw [State.moveChunk, State.withEntry, if_neg (by simp [h2, h3])]
    dsimp only
    rw [withSync_none hcsync, hfar]
    rfl
  change execTransferWrite id s = _
  rw [execTransferWrite, hx]
  dsimp only
  rw [hcmd']
  dsimp only
  rw [if_neg (by simp [hwant]), if_neg (by simp [hrun, hstall]), if_neg h6, if_pos hvia, hchunk]

theorem xWrite_tile (bs : List Byte) (last : Bool) : (s.xWrite id x c.dst (nextDst x c) bs last fun s => s.movedOn id x c (nextLen x c) .none) =
    chunkWritten s id x c tl bs := by
  obtain ⟨-, -, -, -, -, -, -, hdst, -, hedge, -⟩ := h
  rw [hdst, State.xWrite]
  exact edge_of_none hedge _

/-- The bytes stand in the tile, and the transfer has moved on by them. -/
theorem chunkWritten_left {bs : List Byte} (hlen : bs.length = nextLen x c) :
    WroteBytes s (chunkWritten s id x c tl bs) false 0 (sramAddr tl (nextDst x c)) bs ∧
      MovedOn (chunkWritten s id x c tl bs) id x c (nextLen x c) := by
  obtain ⟨hx, -, hrun, -, -, -, -, -, -, -, hcalm⟩ := h
  rw [← hlen] at hcalm
  obtain ⟨hmem, hmoved⟩ := movedOn_uncounted (c := c) ((sramWrite_xfer hcalm id).trans hx) hrun (nextLen x c)
  refine ⟨?_, hmoved⟩
  have hwrote := sramWrite_wrote hcalm
  rw [WroteBytes, WroteThrough] at hwrote ⊢
  rw [chunkWritten, hmem]
  exact hwrote

/-- A fill writes the next bytes of its pattern. -/
theorem exec_transferWrite_fill (h4 : c.kind = 4) :
    exec (.transferWrite id) s = .next (chunkWritten s id x c tl (fillBytes c.pat (x.pos % c.len) (nextLen x c))) := by
  rw [exec_transferWrite h (by omega) (by omega) (by omega), State.xSource, if_pos h4, xWrite_tile h]

/-- A copy writes the next bytes of its source. -/
theorem exec_transferWrite_copy {va : Nat} {ps : List Phys} (h1 : c.kind ≤ 1) (hsrc : c.src = .mem va)
    (hsources : Sources ps (pageParts (nextSrc x c) (nextLen x c)) (PortReads s (4 * x.blk + x.port))) :
    exec (.transferWrite id) s = .next (chunkWritten s id x c tl (sourceBytes s ps (pageParts (nextSrc x c) (nextLen x c)))) := by
  rw [exec_transferWrite h (by omega) (by omega) (by omega), State.xSource, if_neg (by omega), hsrc]
  dsimp only
  rw [xParts_read _ _ _ hsources, List.nil_append, xWrite_tile h]

end

end

/-! ## The events -/

/-- The one command at a port, tried or tried again. -/
theorem commandEvents (s : State) (b port : Nat) (a : Arriving) (pb : List Word) (c : Cmd) (hp : port < 4)
    (h : Enters s (4 * b + port) a pb c) :
    (a.busy = false → s.portsGone b = false → s.entryTurn (4 * b + port) a.ns = true →
      ((s.xport (4 * b + port)).q.length < 16 →
        ((c.lockRanges (s.entriesOf c)).length ≤ s.lockRoom → c.kind ≠ 2 → c.kind ≠ 3 →
          ∃ t, exec (.commandEntry b port) s = .next t ∧ TookCommand s t (4 * b + port) a pb c) ∧
        (s.lockRoom < (c.lockRanges []).length → c.kind ≠ 2 → c.kind ≠ 3 →
          ∃ t, exec (.commandEntry b port) s = .next t ∧ t.mem = s.mem ∧ t.dev.locks = s.dev.locks ∧
            (t.xport (4 * b + port)).arr = [{ a with busy := true, place := s.fresh }] ∧
            (t.xport (4 * b + port)).q = (s.xport (4 * b + port)).q)) ∧
      (16 ≤ (s.xport (4 * b + port)).q.length →
        ∃ t, exec (.commandEntry b port) s = .next t ∧ t.mem = s.mem ∧ (t.xport (4 * b + port)).arr = [a] ∧
          (t.xport (4 * b + port)).q = (s.xport (4 * b + port)).q)) ∧
    (a.busy = true →
      ((s.xport (4 * b + port)).from_ ≤ (s.blk b).cyc → (s.xport (4 * b + port)).q.length < 16 →
        (c.lockRanges (s.entriesOf c)).length ≤ s.lockRoom → c.kind ≠ 2 → c.kind ≠ 3 →
        ∃ t, exec (.busyRetry b port) s = .next t ∧ TookCommand s t (4 * b + port) a pb c) ∧
      ((s.blk b).cyc < (s.xport (4 * b + port)).from_ →
        ∃ t, exec (.busyRetry b port) s = .next t ∧ t.mem = s.mem ∧
          (t.xport (4 * b + port)).arr = [{ a with busy := false }])) := by
  obtain ⟨harr, hstall, hwant, -⟩ := id h
  refine ⟨fun hbusy hgone hturn => ?_, fun hbusy => ?_⟩
  · have hexec := exec_commandEntry hp hgone harr hstall hwant hbusy hturn
    refine ⟨fun hroom => ⟨fun hlocks h2 h3 => ?_, fun hlocks h2 h3 => ?_⟩, fun hfull => ?_⟩
    · exact ⟨_, hexec, tookCommand_of_enters hp h (.refl s _) rfl rfl rfl harr hroom hlocks h2 h3⟩
    · exact ⟨_, hexec, busy_of_enters h hroom hlocks h2 h3⟩
    · rw [tryCmd_of_enters h (.refl s _) rfl, if_pos hfull] at hexec
      exact ⟨_, hexec, rfl, harr, rfl⟩
  · have hexec := exec_busyRetry hp harr hstall hwant hbusy
    refine ⟨fun hcyc hroom hlocks h2 h3 => ?_, fun hcyc => ?_⟩
    · rw [if_pos hcyc] at hexec
      exact ⟨_, hexec, tookCommand_of_enters hp h (arrOnly_modArr 0 _) rfl rfl rfl (retrying_arr harr) hroom hlocks h2 h3⟩
    · rw [if_neg (Nat.not_le.mpr hcyc)] at hexec
      exact ⟨_, hexec, rfl, retrying_arr harr⟩

/-- Settles O43: commands by what their port and the lock table have room for, transfers by their phase. -/
theorem transferEvents : Obligations.TransferEvents := by
  refine ⟨commandEvents, fun s b port a hp harr hstall hwant hbusy hgone hturn hwords => ?_,
    fun s b port id x c hp h hqueued hgate => ⟨fun tl off hgsync => ?_, fun va p hgsync hblk hport hreads hmem hflat => ?_⟩,
    fun s b port id x c hp h hphase hacked => ⟨fun h6 hvia => ?_, fun gid reach last tl off h6 hvia hdst hpath hfree hclosed => ?_,
      fun tl off h6 hdst hcsync => ⟨fun hcached => ?_, fun hcached hblk => ⟨fun hpending => ?_, fun hidle hroom => ?_,
        fun hidle hfull => ?_⟩⟩⟩,
    fun s id x c tl off h => ⟨fun h4 => ?_, fun va ps h1 hsrc hsources => ?_⟩,
    fun s id i l x hl hx => ⟨fun hdone => ?_, fun hrun hwrite hcmd => ?_⟩,
    fun s id x hx hmoved hcounts hlocks => ⟨fun huid => ?_, fun u slot c g huid hcmd hmode hroom hfind => ?_⟩,
    fun s id x c tl off hx hcmd hdst hrun hvia hclosed hstops hroute => ?_⟩
  · obtain ⟨r, hmem, harr', hq, hcause, hnotices⟩ := discard_of_broken hp harr hwords
    exact ⟨_, r, exec_commandEntry hp hgone harr hstall hwant hbusy hturn, hmem, harr', hq, hcause, hnotices⟩
  · exact ⟨_, exec_gateOpen_tile hp h hqueued hgate hgsync, gateRead_mem _ _, gateRead_xfer h.2.1 hqueued _ _⟩
  · exact ⟨_, exec_gateOpen_mem hp h hqueued hgate hgsync hblk hport hreads hmem hflat, gateRead_mem _ _, gateRead_xfer h.2.1 hqueued _ _⟩
  · rw [exec_transferStart hp h hphase hacked, startXfer_plain h6 hvia]
    exact ⟨_, rfl, modXfer_mem _, xfer_modXfer h.2.1 _⟩
  · obtain ⟨hmem, hxfer, hstop⟩ := handOff_tile (s := s) (id := id) hdst gid reach last
    rw [exec_transferStart hp h hphase hacked, startXfer_via h6 hvia hpath hfree hclosed]
    exact ⟨_, rfl, (modXfer_mem _).trans hmem, xfer_modXfer (hxfer.trans h.2.1) _, (congrArg Tile.via (modXfer_tile _ _)).trans hstop⟩
  · rw [exec_transferStart hp h hphase hacked, startXfer_compile h6 hdst, startCompile_cached hcached hcsync]
    exact ⟨_, rfl, modXfer_mem _, xfer_modXfer (leavePort_xfer x id ▸ h.2.1) _⟩
  · rw [exec_transferStart hp h hphase hacked, startXfer_compile h6 hdst, startCompile_pending hcached hblk hpending]
    exact ⟨_, rfl, modXfer_mem _, (leavePort_xfer _ _).trans (xfer_modXfer (s := s.modBlk _ _) h.2.1 _)⟩
  · obtain ⟨k, hxfer, hcomps, htile, hident, hreqs⟩ := compileStarted (c := c) h.2.1 tl
    rw [exec_transferStart hp h hphase hacked, startXfer_compile h6 hdst, startCompile_queued hcached hblk hidle hroom]
    exact ⟨_, k, rfl, hxfer, hcomps, htile, hident, hreqs⟩
  · rw [exec_transferStart hp h hphase hacked, startXfer_compile h6 hdst, startCompile_full hcached hblk hidle hfull]
  · obtain ⟨hwrote, hmoved⟩ := chunkWritten_left h (fillBytes_length c.pat (x.pos % c.len) (nextLen x c))
    exact ⟨_, _, exec_transferWrite_fill h h4, fillBytes_length _ _ _, hwrote, fun k y hy => fillBytes_getElem? c.pat hy, hmoved⟩
  · have hlen := runBytes_length (s := s) hsources
    obtain ⟨hwrote, hmoved⟩ := chunkWritten_left h hlen
    exact ⟨_, exec_transferWrite_copy h h1 hsrc hsources, hwrote, hlen.symm ▸ hmoved⟩
  · rw [exec_rangeLockRelease hl, if_pos (lockDone_of_ended hl hx hdone)]
    exact ⟨_, rfl, rfl⟩
  · rw [exec_rangeLockRelease hl, if_neg (by rw [lockDone_of_running hl hx hrun hwrite hcmd]; exact Bool.false_ne_true)]
  · exact ⟨_, exec_transferCompletion_none hmoved hcounts hlocks hx huid, rfl, Tab.get_set_same _ _ _⟩
  · have hdeliver := deliver_thread (s := s.setXfer id none) (y := { id := c.xid, xst := x.xst, hnd := c.hnd }) (slot := slot) hroom hfind
    have hexec := exec_transferCompletion_some hmoved hcounts hlocks hx huid hcmd hmode
    rw [hdeliver] at hexec
    refine ⟨_, hexec, rfl, Tab.get_set_same _ _ _, ?_⟩
    rw [State.modThread_same, Thread.complete]
    exact congrArg Thread.comps (if_pos hroom)
  · exact ⟨_, exec_viaTransferFinish hx hcmd hdst hrun hvia hclosed hstops hroute, modXfer_mem _,
      (leavePort_xfer _ _).trans (xfer_modXfer hx _)⟩

end Sys2Proof.Claims
end

section
/-! PROOFS. THE MACHINE AFTER RESET (O53, O54). -/

namespace Sys2Proof.Claims
open Sys2Proof.Machine

/-- Settles O53: each field of the reset state is read off its definition. -/
theorem resetMachine : Obligations.ResetMachine :=
  ⟨rfl, rfl, rfl, fun _ => rfl, rfl, rfl, rfl, rfl, rfl, rfl, rfl, rfl, fun _ => rfl, fun _ => rfl,
    fun _ => ⟨rfl, rfl, rfl, rfl, rfl, rfl, rfl, rfl, rfl⟩, rfl, rfl, rfl, fun _ => rfl, fun _ => ⟨rfl, rfl⟩, fun _ => rfl⟩

/-- Settles O54: reset memory is empty, and placing an instruction is a write. -/
theorem memoryCanonicalAtReset : Obligations.MemoryCanonicalAtReset :=
  ⟨Memory.wf_nil, fun _ _ => Memory.wf_write _ _ Memory.wf_nil⟩

end Sys2Proof.Claims
end

section
/-!
PROOFS. What leaves memory as it is (R298): for each operation on the state that writes no byte, its frame rule. An obligation about
memory takes an operation apart by these rules, in the order in which the model's files define the operations.
-/
namespace Sys2Proof.Claims
open Sys2Proof.Machine

variable (s : State) (b c dev f g gid id k m port r t tok : Nat)

/-! ## Operations of Machine/Bytes -/

@[simp] theorem setXfer_mem (i : Nat) (x : Option Xfer) : (s.setXfer i x).mem = s.mem := rfl
@[simp] theorem setGroup_mem (i : Nat) (x : Option Group) : (s.setGroup i x).mem = s.mem := rfl
@[simp] theorem setGraph_mem (i : Nat) (x : Option Graph) : (s.setGraph i x).mem = s.mem := rfl
@[simp] theorem setAgen_mem (x : Option Agen) : (s.setAgen m x).mem = s.mem := rfl
@[simp] theorem modAgen_mem (f : Agen → Agen) : (s.modAgen m f).mem = s.mem := by
  unfold State.modAgen; split <;> rfl

@[simp] theorem setConv_mem (x : Option Conv) : (s.setConv c x).mem = s.mem := rfl
@[simp] theorem modConv_mem (f : Conv → Conv) : (s.modConv c f).mem = s.mem := by
  unfold State.modConv; split <;> rfl

@[simp] theorem setAdder_mem (p : Nat) (a b : Adder) : (s.setAdder p a b).mem = s.mem := rfl
@[simp] theorem modPort_mem (p : Nat) (f : MPort → MPort) : (s.modPort p f).mem = s.mem := rfl
@[simp] theorem modHostPort_mem (p : Nat) (f : HostPort → HostPort) : (s.modHostPort p f).mem = s.mem := rfl
@[simp] theorem modQueue_mem (q : Nat) (f : QEnt → QEnt) : (s.modQueue q f).mem = s.mem := rfl
@[simp] theorem modXport_mem (x : Nat) (f : XPort → XPort) : (s.modXport x f).mem = s.mem := rfl

/-! ## Operations of Machine/Mesh -/

@[simp] theorem inject_mem (f : Flit) : (s.inject r f).mem = s.mem := rfl

/-! ## Operations of Machine/Home -/

@[simp] theorem compRec_mem (slot : Nat) (c : Completion) : (s.compRec slot c).mem = s.mem := rfl
@[simp] theorem setLanded_mem (pa : Nat) (l : Landed) : (s.setLanded pa l).mem = s.mem := rfl
@[simp] theorem writeWatch_mem (log : Bool) (v : Word) : (s.writeWatch log v).mem = s.mem := rfl
@[simp] theorem hostErr_mem (bit_ : Nat) : (s.hostErr port bit_).mem = s.mem := rfl
@[simp] theorem badCmd_mem (host : Option Nat) (va : Nat) : (s.badCmd host va).mem = s.mem := by
  unfold State.badCmd; split <;> rfl

@[simp] theorem reqWrite_mem (off : Nat) (l : List Byte) : (s.reqWrite port off l).mem = s.mem := rfl
@[simp] theorem noRequest_mem (host : Option Nat) : (s.noRequest host).mem = s.mem := by
  unfold State.noRequest; split <;> rfl

/-! ## Operations of Machine/Xlate -/

@[simp] theorem startWalk_mem (va : Nat) (kind : Access) (who : Walker) : (s.startWalk b va kind who).mem = s.mem := rfl

/-! ## Operations of Machine/Ops -/

theorem edge_mem {p : Phys} {F : State → State} (h : (F s).mem = s.mem) : (s.edge p F).mem = s.mem := by
  unfold State.edge
  split
  · exact wakeBlk_mem _
  · exact h

@[simp] theorem freeSlot_mem : (s.freeSlot g).mem = s.mem := rfl
@[simp] theorem modTask_mem (num : Nat) (f : Task → Task) : (s.modTask b num f).mem = s.mem := rfl
@[simp] theorem dropTask_mem (num : Nat) : (s.dropTask b num).mem = s.mem := rfl
@[simp] theorem abortRestart_mem : (s.abortRestart g).mem = s.mem := by
  unfold State.abortRestart; split <;> simp [discardTask_mem]

@[simp] theorem abortPark_mem : (s.abortPark g).mem = s.mem := by
  unfold State.abortPark; split <;> simp [discardTask_mem]

@[simp] theorem abortHalt_mem : (s.abortHalt g).mem = s.mem := by
  unfold State.abortHalt; split <;> simp [discardTask_mem]

@[simp] theorem trapThread_mem (cause : BitVec 8) (ev : Word) (slotB : Bool) : (s.trapThread g cause ev slotB).mem = s.mem := by
  simp only [State.trapThread]; (repeat' split) <;> simp

@[simp] theorem trapReturn_mem : (s.trapReturn g).mem = s.mem := rfl

/-! ## Operations of Machine/Link -/

@[simp] theorem portSend_mem (p : Nat) (fs : List Frame) : (s.portSend p fs).mem = s.mem := rfl
@[simp] theorem sendAnswer_mem (esn : BitVec 32) (st : BitVec 8) : (s.sendAnswer dev esn st).mem = s.mem := by
  unfold State.sendAnswer; split <;> rfl

@[simp] theorem answer_mem (esn : BitVec 32) (st : BitVec 8) : (s.answer dev esn st).mem = s.mem := by simp [State.answer]

/-! ## Operations of Machine/Fetch -/

@[simp] theorem closeThread_mem : (s.closeThread g).1.mem = s.mem := by
  simp only [State.closeThread]; (repeat' split) <;> simp

/-! ## Operations of Machine/Region -/

@[simp] theorem regionNotice_mem (gid : Option Nat) (blk cls idx sub : Nat) (cause : BitVec 8) (halt : Bool) (route : Nat) (va pos : Word) :
    (s.regionNotice gid blk cls idx sub cause halt route va pos).mem = s.mem := rfl

@[simp] theorem countWaits_mem (n : Nat) : (s.countWaits b n).mem = s.mem := rfl

/-! ## Operations of Machine/Mem -/

@[simp] theorem joinLoad_mem (l : LoadMember) : (s.joinLoad b l).mem = s.mem := rfl
@[simp] theorem runLanes_mem (miss : Bool) : ∀ (l : List (Nat × Nat × Phys)) (s : State), (s.runLanes g tok miss l).mem = s.mem
  | [], _ => rfl
  | (_, _, _) :: l, s => by
    rw [State.runLanes]
    split
    · split
      next h => exact (sentOnly_sendPacket h).mem
      next => exact runLanes_mem miss l _
    all_goals
      split
      · rfl
      · exact runLanes_mem miss l _

@[simp] theorem pendDone_mem (x : VWord) (fault : Option (BitVec 8 × Word)) : (s.pendDone g tok x fault).mem = s.mem := by
  unfold State.pendDone
  split <;> simp [pendGot_mem]

@[simp] theorem markLine_mem (pa : Nat) : (s.markLine g pa).mem = s.mem := by
  unfold State.markLine; split <;> rfl

@[simp] theorem farLong_mem (p : Phys) (n form : Nat) (data : BitVec 256) (dest : Dest) (a : Arrive) (acq : Bool) :
    (s.farLong g p dev n form data dest a acq).mem = s.mem := by
  unfold State.farLong
  split
  next h => simp [(sentOnly_sendPacket h).mem]
  next => simp

@[simp] theorem specLanes_mem (buf : Tab (Option Byte)) : ∀ (ps : List Phys) (s : State) (i : Nat) (acc : VWord),
    (s.specLanes g buf ps i acc).1.mem = s.mem
  | [], _, _, _ => rfl
  | _ :: ps, s, _, _ => (specLanes_mem buf ps _ _ _).trans (markLine_mem s g _)

/-! ## Operations of Machine/Invoke -/

@[simp] theorem sendRec_mem (r : Rec) : (s.sendRec f r).mem = s.mem := rfl
@[simp] theorem modInv_mem (f : Inv → Inv) : (s.modInv id f).mem = s.mem := rfl
@[simp] theorem dropInv_mem : (s.dropInv id).mem = s.mem := rfl
@[simp] theorem freeTicket_mem (ticket : BitVec 32) : (s.freeTicket c ticket).mem = s.mem := rfl
@[simp] theorem invAnswer_mem (status : Nat) : (s.invAnswer id status).mem = s.mem := by
  simp only [State.invAnswer]; (repeat' split) <;> simp

@[simp] theorem attempt_mem (i : Inv) : (s.attempt i).mem = s.mem := by
  simp only [State.attempt]
  split
  · rfl
  split
  next h => exact (sentOnly_sendPacket h).mem
  next => simp

@[simp] theorem replyFar_mem (sname : Nat) (data : BitVec 256) (r : Nat × FRec) : (s.replyFar dev sname data r).mem = s.mem := by
  unfold State.replyFar
  split
  next h => exact (sentOnly_sendPacket h).mem
  next => rfl

@[simp] theorem escapeBack_mem (tile node n : Nat) (pay : Option VWord) (aux : Word) : (s.escapeBack tile node n pay aux).mem = s.mem := by
  simp only [State.escapeBack]; (repeat' split) <;> simp

@[simp] theorem sendReply_mem (grp : Group) (status cause : Nat) (v : Word × Word × Word) (pay : VWord) (r : Nat × FRec) :
    (s.sendReply grp status cause v pay r).mem = s.mem := by
  unfold State.sendReply; split <;> simp

@[simp] theorem endMember_mem (grp : Option Nat) (reply : Bool) (d a b : Word) (v0 : VWord) (r : Nat × FRec) :
    (s.endMember grp reply d a b v0 r).mem = s.mem := by
  unfold State.endMember; (repeat' split) <;> simp [leaveGroup_mem]

@[simp] theorem endThread_mem (reply : Bool) (d a b : Word) : (s.endThread g reply d a b).mem = s.mem := by
  simp only [State.endThread]; (repeat' split) <;> simp [compsOut_mem]

@[simp] theorem closeNow_mem : (s.closeNow g).1.mem = s.mem := rfl
@[simp] theorem trapOrPark_mem (cause : BitVec 8) (ev : Word) : (s.trapOrPark g cause ev).mem = s.mem := by
  unfold State.trapOrPark; split <;> simp

/-! ## Operations of Machine/System -/

@[simp] theorem lineInval_mem (sc : Scope) (a b : Word) : (s.lineInval g sc a b).mem = s.mem := rfl
@[simp] theorem addDue_mem (n : SlotName) (u : Nat) (d : Due) : (s.addDue n u d).mem = s.mem := by
  unfold State.addDue; split <;> rfl

@[simp] theorem resumeThread_mem : (s.resumeThread g).mem = s.mem := by
  unfold State.resumeThread; (repeat' split) <;> simp

@[simp] theorem resumeCore_mem : (s.resumeCore k).mem = s.mem := rfl
@[simp] theorem resumeUnit_mem (n : SlotName) (u : Nat) : (s.resumeUnit n u).mem = s.mem := by
  unfold State.resumeUnit; split <;> simp

@[simp] theorem farFree_mem (n : SlotName) : (s.farFree n k).mem = s.mem := by
  simp only [State.farFree]; (repeat' split) <;> simp [saveFree_mem, compsOut_mem]

theorem sendImage_mem (save : Bool) (l : List Byte) (ps : List (Nat × Nat × Phys)) : ∀ (is : List Nat) {s u : State},
    s.sendImage g tok dev save l ps is = some u → u.mem = s.mem
  | [], _, _, h => by cases h; rfl
  | _ :: is, _, _, h => by
    rw [State.sendImage.eq_def] at h
    dsimp only at h
    split at h
    next => cases h
    next hsend => exact (sendImage_mem save l ps is h).trans (sentOnly_sendPacket hsend).mem

/-! ## Operations of Machine/Command -/

@[simp] theorem addLocks_mem (xid : BitVec 16) (uid : Option Nat) (rs : List (Bool × Nat × Nat)) : (s.addLocks id xid uid rs).mem = s.mem := rfl
@[simp] theorem lockPlace_mem : (s.lockPlace b port).mem = s.mem := rfl
theorem askPart_mem : ∀ (l : List Nat) {s u : State}, s.askPart g dev l = some u → u.mem = s.mem
  | [], _, _, h => by cases h; rfl
  | _ :: l, _, _, h => by
    rw [State.askPart] at h
    split at h
    · exact askPart_mem l h
    split at h
    next => cases h
    next hsend => exact (askPart_mem l h).trans (sentOnly_sendPacket hsend).mem

/-! ## Operations of Machine/Sparse -/

@[simp] theorem askMeta_mem (c : Compile) (far : Option (Nat × Nat)) : (s.askMeta b c far).1.mem = s.mem :=
  (asked_askMeta b c far).sent.mem

@[simp] theorem queueStream_mem (ident : Word) (req : Requester) : (s.queueStream b t ident req).mem = s.mem := rfl
@[simp] theorem forwardToken_mem (ident : Word) (f : Flit) : (s.forwardToken b t ident f).mem = s.mem := rfl
@[simp] theorem dropStream_mem (ident : Word) (r : Requester) : (s.dropStream t ident r).mem = s.mem := rfl
@[simp] theorem cutStream_mem (ident : Word) : (s.cutStream t ident).mem = s.mem := rfl

/-! ## Operations of Machine/Stream -/

@[simp] theorem unpopPort_mem (l : List Flit) : (s.unpopPort k port l).mem = s.mem := by
  unfold State.unpopPort; split <;> rfl

@[simp] theorem queueOut_mem (whole : Bool) (f : Flit) : (s.queueOut k whole f).mem = s.mem := rfl
@[simp] theorem setRing_mem (x : Ring) : (s.setRing t r x).mem = s.mem := rfl

/-! ## Operations of Machine/Tile -/

@[simp] theorem park_mem (node hidx pool : Nat) (x : EscNode) (f : Flit) (ordered : Bool) (ticket : BitVec 32) :
    (s.park t node hidx pool x f ordered ticket).mem = s.mem := rfl

/-! ## Operations of Machine/Transfer -/

@[simp] theorem leavePort_mem (x : Xfer) : (s.leavePort id x).mem = s.mem := rfl
@[simp] theorem endXfer_mem (x : Xfer) (cause : BitVec 8) (va : Nat) : (s.endXfer id x cause va).mem = s.mem := by simp [State.endXfer]
@[simp] theorem clearWalk_mem (xp : Nat) : (s.clearWalk xp).mem = s.mem := rfl
@[simp] theorem clearWalkOf_mem (xp va : Nat) : (s.clearWalkOf xp va).mem = s.mem := by
  unfold State.clearWalkOf; (repeat' split) <;> simp

@[simp] theorem askXfer_mem (x : Xfer) (va : Nat) : ∀ (l : List Nat) (s : State), (s.askXfer id x dev va l).mem = s.mem
  | [], _ => rfl
  | _ :: l, s => by
    rw [State.askXfer]
    split
    · exact askXfer_mem x va l s
    split
    next h => simp [askXfer_mem x va l, (sentOnly_sendPacket h).mem]
    next => simp

@[simp] theorem discardCmd_mem (xp i : Nat) (a : Arriving) (cause : BitVec 8) (va : Nat) : (s.discardCmd xp i a cause va).mem = s.mem := rfl
@[simp] theorem modArr_mem (xp i : Nat) (f : Arriving → Arriving) : (s.modArr xp i f).mem = s.mem := rfl
@[simp] theorem askCmd_mem (xp i : Nat) (a : Arriving) (va : Nat) : ∀ (l : List Nat) (s : State),
    (s.askCmd xp i a dev va l).mem = s.mem
  | [], _ => rfl
  | _ :: l, s => by
    rw [State.askCmd]
    split
    · exact askCmd_mem xp i a va l s
    split
    next h => exact (askCmd_mem xp i a va l _).trans (sentOnly_sendPacket h).mem
    next => simp

@[simp] theorem enterCmd_mem (xp i : Nat) (a : Arriving) (pb : List Word) : (s.enterCmd xp i a pb).mem = s.mem := by
  simp only [State.enterCmd]; (repeat' split) <;> simp [takeCmd_mem]

@[simp] theorem handOff_mem (c : Cmd) (reach : List Nat) (last : Nat) : (s.handOff id c gid reach last).mem = s.mem := by
  unfold State.handOff; split <;> rfl

@[simp] theorem retryBusy_mem : s.retryBusy.mem = s.mem := rfl
@[simp] theorem deliver_mem (uid slot : Nat) (c : Completion) : (s.deliver uid slot c).mem = s.mem := by
  unfold State.deliver; (repeat' split) <;> simp

/-! ## Operations of Machine/Fabric -/

@[simp] theorem sendToken_mem (p : Nat) (f : Flit) : (s.sendToken p f).mem = s.mem := rfl
@[simp] theorem arriveCmd_mem (xp : Nat) (f : Flit) : (s.arriveCmd xp r f).mem = s.mem := by simp [State.arriveCmd, wakeBlk_mem]
@[simp] theorem hereGive_mem (unit : Nat) (fl : Flit) : (s.hereGive r unit fl).mem = s.mem := by
  unfold State.hereGive
  dsimp only
  split
  · split <;> simp [wakeBlk_mem]
  · split <;> simp
  · split <;> simp
  · split
    · rfl
    · split <;> simp
  · rfl
  · split
    · rfl
    · refine foldl_keeps State.mem (fun u e => ?_) _ s
      split
      · cases u.adderFor e.1 (hRoute fl.hdr) <;> simp
      · simp

@[simp] theorem hop_mem (fl : Flit) (h : Hop) : (s.hop r fl h).mem = s.mem := by
  cases h with
  | here u => simp [State.hop]
  | go d =>
    rw [State.hop]
    split <;> simp

@[simp] theorem badFlit_mem (f : Flit) : (s.badFlit r f).mem = s.mem := rfl
@[simp] theorem noticeHop_mem (dir : Dir) (fl : Flit) (l : List Flit) : (s.noticeHop r dir fl l).mem = s.mem := by
  unfold State.noticeHop
  split
  · rfl
  · split <;> simp

@[simp] theorem countSent_mem (route : Nat) (l : List Flit) : (s.countSent k route l).mem = s.mem := rfl
@[simp] theorem dropInbox_mem (i : Nat) : (s.dropInbox t i).mem = s.mem := rfl
@[simp] theorem haltConv_mem (x : Conv) (cause : BitVec 8) : (s.haltConv c x cause).mem = s.mem := rfl
@[simp] theorem markConv_mem (x : Conv) (route : Nat) : (s.markConv c x route).mem = s.mem := by
  unfold State.markConv; split <;> rfl

@[simp] theorem haltAdder_mem (a : Adder) (cause : BitVec 8) : (s.haltAdder port a cause).mem = s.mem := rfl

/-! ## Operations of Machine/Matrix -/

@[simp] theorem modHead_mem (f : MOp → MOp) : (s.modHead t f).mem = s.mem := rfl
@[simp] theorem leaveMat_mem : (s.leaveMat t).mem = s.mem := rfl
@[simp] theorem popMat_mem (m : MOp) : (s.popMat t m).mem = s.mem := rfl
@[simp] theorem unstream_mem (m : MOp) : (s.unstream t m).mem = s.mem := by
  unfold State.unstream; (repeat' split) <;> simp

@[simp] theorem haltOp_mem (m : MOp) (cause : BitVec 8) : (s.haltOp t m cause).mem = s.mem := by simp [State.haltOp]
@[simp] theorem missSparse_mem (m : MOp) (ident : Word) (now : Bool) : (s.missSparse t m ident now).mem = s.mem := by
  simp only [State.missSparse]; (repeat' split) <;> simp

@[simp] theorem startSparse_mem (m : MOp) (ident : Word) (now : Bool) : (s.startSparse t m ident now).mem = s.mem := by
  unfold State.startSparse; (repeat' split) <;> simp

@[simp] theorem startOp_mem (m : MOp) : (s.startOp t m).mem = s.mem := by
  unfold State.startOp; split <;> simp

@[simp] theorem drainStep_mem (m : MOp) (arg : Word) (steers : VWord) (rsel : Word) : (s.drainStep t m arg steers rsel).mem = s.mem := by
  simp only [State.drainStep]; (repeat' split) <;> simp

@[simp] theorem drainTurn_mem (m : MOp) (began : Nat) (arg : Word) (steers : VWord) (rsel : Word) :
    (s.drainTurn t m began arg steers rsel).mem = s.mem := by
  unfold State.drainTurn; (repeat' split) <;> simp

@[simp] theorem takeCoord_mem (m : MOp) (ident : Word) : (s.takeCoord t m ident port).mem = s.mem := by
  unfold State.takeCoord; (repeat' split) <;> simp [popPort_mem]

@[simp] theorem endFall_mem (m : MOp) (began : Nat) : (s.endFall t m began).mem = s.mem := by
  unfold State.endFall; (repeat' split) <;> simp

@[simp] theorem endProgram_mem (m : MOp) (began nb : Nat) (prog : List (BitVec 32)) : (s.endProgram t m began nb prog).mem = s.mem := by
  simp only [State.endProgram]; (repeat' split) <;> simp

@[simp] theorem sparseTurn_mem (m : MOp) (began : Nat) (ident : Word) : (s.sparseTurn t m began ident port).mem = s.mem := by
  unfold State.sparseTurn; (repeat' split) <;> simp

/-! ## Operations of Machine/Contexts -/

@[simp] theorem putNode_mem (g : Graph) (x : GCtx) (act : Bool) (i : Nat) : (s.putNode gid g c x act i).mem = s.mem := by
  unfold State.putNode; (repeat' split) <;> simp

@[simp] theorem putNodes_mem (x : Graph) (act : Bool) : (s.putNodes gid x c act).mem = s.mem := by
  unfold State.putNodes
  split
  · rfl
  · exact foldl_keeps State.mem (fun _ _ => putNode_mem _ _ _ _ _ _ _) _ s

@[simp] theorem idleAgens_mem : s.idleAgens.mem = s.mem := rfl
@[simp] theorem switchTo_mem (n : Nat) : (s.switchTo t n).mem = s.mem := by
  simp only [State.switchTo]; (repeat' split) <;> simp [startCores_mem]

@[simp] theorem modCtx_mem (n : Nat) (f : TileCtx → TileCtx) : (s.modCtx t n f).mem = s.mem := rfl
@[simp] theorem badCfg_mem (f : Flit) : (s.badCfg t f).mem = s.mem := rfl

/-! ## Operations of Machine/Agens -/

@[simp] theorem stopAgen_mem (a : Agen) (cause : BitVec 8) (va : Word) : (s.stopAgen m a cause va).mem = s.mem := rfl
@[simp] theorem spendPort_mem : (s.spendPort m).mem = s.mem := rfl
@[simp] theorem agenAsk_mem (a : Agen) (pa n form data : Nat) (va : Word) (far : Far) :
    (s.agenAsk m a dev pa n form data va far).mem = s.mem := by
  unfold State.agenAsk
  split
  next h => exact (sentOnly_sendPacket h).mem
  next => simp

@[simp] theorem agenEmit_mem (a : Agen) (f : Flit) (l : List Flit) : (s.agenEmit m a f l).mem = s.mem := by
  unfold State.agenEmit; (repeat' split) <;> simp

@[simp] theorem markAgen_mem (a : Agen) (route : Nat) : (s.markAgen m a route).mem = s.mem := by
  unfold State.markAgen; (repeat' split) <;> simp

@[simp] theorem doneAcked_mem (ok : Bool) : (s.doneAcked m ok).mem = s.mem := by
  unfold State.doneAcked; (repeat' split) <;> simp

/-! ## Operations of Machine/Engine -/

@[simp] theorem setJob_mem (j : Nat) (x : Job) : (s.setJob b j x).mem = s.mem := rfl
@[simp] theorem pcompHit_mem (ident : Word) (r : Option Nat) : (s.pcompHit t ident r).mem = s.mem := by
  unfold State.pcompHit; split <;> rfl

/-! ## Operations of Machine/ThreadEvents -/

@[simp] theorem walkFailed_mem (w : Walk) (e : WalkErr) (who : Walker) : (s.walkFailed w e who).mem = s.mem := by
  unfold State.walkFailed; split <;> simp

@[simp] theorem walkFill_mem (x : TlbEntry) (who : Walker) : (s.walkFill x who).mem = s.mem := by
  unfold State.walkFill; split <;> simp

@[simp] theorem poll_mem (pa n : Nat) : (s.poll g dev pa n).mem = s.mem := by
  unfold State.poll
  split
  · rfl
  split
  next h => exact (sentOnly_sendPacket h).mem
  next => rfl

@[simp] theorem testWait_mem (w : Wait) : (s.testWait g w).mem = s.mem := by
  unfold State.testWait
  split
  · rfl
  split
  · rfl
  · rfl
  · split
    · simp
    all_goals exact edge_mem s rfl

@[simp] theorem popStore_mem : (s.popStore g).mem = s.mem := rfl
@[simp] theorem markSent_mem : (s.markSent g).mem = s.mem := rfl
@[simp] theorem storeAcked_mem (delivered : Bool) (port : BitVec 4) : (s.storeAcked g delivered port).mem = s.mem := by
  unfold State.storeAcked; split <;> rfl

@[simp] theorem combine_mem (e : SbEntry) (op : RedOp) (w32 uns : Bool) : (s.combine g e op w32 uns).mem = s.mem := rfl
@[simp] theorem answerLoad_mem (l : LoadMember) (x : VWord) : (s.answerLoad l x).mem = s.mem := by
  unfold State.answerLoad; split <;> simp

@[simp] theorem closeLoads_mem (w : LoadWin) : (s.closeLoads w).mem = s.mem := foldl_keeps State.mem (fun _ _ => answerLoad_mem _ _ _) _ s

/-! ## Operations of Machine/Fault -/

@[simp] theorem takeNotice_mem (d : Dir) (n : Notice) : (s.takeNotice f d n).mem = s.mem := rfl
@[simp] theorem setFut_mem (e : Option FutEnt) : (s.setFut f k e).mem = s.mem := rfl
@[simp] theorem readmit_mem (th : Thread) (blk : Nat) : (s.readmit th blk).mem = s.mem := rfl
@[simp] theorem endEscape_mem (grp : Option Nat) : (s.endEscape grp).mem = s.mem := by
  unfold State.endEscape; (repeat' split) <;> simp

@[simp] theorem futStores_mem (slot : Nat) (e : FutEnt) (th : Thread) (sb : List SbEntry) : (s.futStores f k slot e th sb).mem = s.mem := rfl
@[simp] theorem futStored_mem : (s.futStored f k).mem = s.mem := by
  unfold State.futStored; (repeat' split) <;> simp

@[simp] theorem futFabric_mem (e : FutEnt) (c : BitVec 8) : (s.futFabric e c).mem = s.mem := by
  unfold State.futFabric; (repeat' split) <;> simp

@[simp] theorem modComp0_mem (f : Compile → Compile) : (s.modComp0 b f).mem = s.mem := rfl
@[simp] theorem serveTile_mem (ident : Word) (y : Yield) : (s.serveTile t ident y).mem = s.mem := by
  unfold State.serveTile; (repeat' split) <;> simp

@[simp] theorem compileRec_mem (cause : BitVec 8) (va : Word) (r : Requester) : (s.compileRec b cause va r).mem = s.mem := by
  unfold State.compileRec; (repeat' split) <;> simp

@[simp] theorem insertProg_mem (c : Compile) (y : Yield) : (s.insertProg c y).mem = s.mem := by
  unfold State.insertProg; (repeat' split) <;> simp

@[simp] theorem endCompile_mem (x : Compile) : (s.endCompile b x).mem = s.mem := by
  simp only [State.endCompile]
  split
  · simp
  · rw [foldl_keeps State.mem fun _ _ => compileRec_mem _ _ _ _ _]
    simp

/-! ## Operations of Machine/Rotunda -/

@[simp] theorem notify_mem (n : Notify) (code : Nat) : (s.notify n code).mem = s.mem := by
  unfold State.notify; split <;> simp

@[simp] theorem refuse_mem (r : Rec) (code : Nat) : (s.refuse r code).mem = s.mem := by
  unfold State.refuse; (repeat' split) <;> simp

@[simp] theorem enqueue_mem (r : Rec) : (s.enqueue f r).mem = s.mem := by simp [State.enqueue]
@[simp] theorem place_mem (r : Rec) : ∀ (gs : List Nat) (s : State) (i : Nat), (s.place r i gs).mem = s.mem
  | [], _, _ => rfl
  | _ :: gs, _, _ => place_mem r gs _ _

@[simp] theorem enterTask_mem (r : Rec) : (s.enterTask r g).mem = s.mem := by
  unfold State.enterTask; split <;> rfl

@[simp] theorem admitHead_mem (k c : Nat) (h : Head) : (s.admitHead f k c h).mem = s.mem := by
  simp only [State.admitHead]
  split
  · simp [wakeBlk_mem]
  · split <;> simp [wakeBlk_mem]

@[simp] theorem reserveHead_mem (h : Head) : (s.reserveHead f k h).mem = s.mem := by
  unfold State.reserveHead; (repeat' split) <;> simp

@[simp] theorem reserveRest_mem : ∀ (ks : List Nat) (s : State), (s.reserveRest f ks).mem = s.mem
  | [], _ => rfl
  | _ :: ks, s => by
    rw [State.reserveRest]
    split
    · exact reserveRest_mem ks s
    · rw [reserveRest_mem ks]
      split <;> simp

@[simp] theorem admitFirst_mem : ∀ (ks : List Nat) (s : State), (s.admitFirst f ks).mem = s.mem
  | [], _ => rfl
  | _ :: ks, s => by
    rw [State.admitFirst]
    split
    · exact admitFirst_mem ks s
    split
    · simp
    · rw [admitFirst_mem ks, reserveHead_mem]

/-! ## Operations of Machine/Marold -/

@[simp] theorem devRec_mem (cause : BitVec 8) (ticket : BitVec 32) (va aux : Word) : (s.devRec cause ticket va aux).mem = s.mem := rfl
@[simp] theorem mailDone_mem (core : Nat) (data : BitVec 256) (src : Option (Nat × BitVec 32 × Nat)) (code : BitVec 8) :
    (s.mailDone core data src code).mem = s.mem := by
  unfold State.mailDone; (repeat' split) <;> simp

@[simp] theorem cmdLost_mem (xp pa : Nat) : (s.cmdLost xp dev pa).mem = s.mem := by
  simp only [State.cmdLost]; (repeat' split) <;> simp

@[simp] theorem packetLost_mem (k : PKind) : (s.packetLost k port).mem = s.mem := by
  unfold State.packetLost; (repeat' split) <;> simp

@[simp] theorem reforward_mem (f : Frame) : (s.reforward f).mem = s.mem := by
  unfold State.reforward; (repeat' split) <;> simp

@[simp] theorem answerPasses_mem (f : Frame) : (s.answerPasses f).mem = s.mem := by
  unfold State.answerPasses; split <;> rfl

@[simp] theorem releaseHeld_mem (dest : Nat) : (s.releaseHeld dest).mem = s.mem := by
  unfold State.releaseHeld; (repeat' split) <;> simp

@[simp] theorem takeRecord_mem (f : Frame) (a b : Flit) : (s.takeRecord port f a b).mem = s.mem := rfl
@[simp] theorem takeReply_mem (f : Frame) (a : Flit) : (s.takeReply port f a).mem = s.mem := by
  simp only [State.takeReply]; (repeat' split) <;> simp

@[simp] theorem respond_mem (esn : BitVec 32) (tag : Nat) (x : BitVec 256) : (s.respond dev esn tag x).mem = s.mem :=
  (sentOnly_respond dev esn tag x).mem

@[simp] theorem takeToken_mem (a : Flit) : (s.takeToken port a).mem = s.mem := by
  unfold State.takeToken; split <;> rfl

@[simp] theorem badArrival_mem (a : Flit) : (s.badArrival port a).mem = s.mem := by
  unfold State.badArrival; split <;> rfl

@[simp] theorem faultRegions_mem (p : Graph → Bool) : (s.faultRegions p).mem = s.mem := rfl
@[simp] theorem reroute_mem (u : Unans) : (s.reroute port u).mem = s.mem := by
  unfold State.reroute; (repeat' split) <;> simp

@[simp] theorem goDown_mem : (s.goDown port).mem = s.mem := by
  simp only [State.goDown]
  rw [foldl_keeps State.mem fun _ _ => reforward_mem _ _, foldl_keeps State.mem fun _ _ => reroute_mem _ _ _]
  simp

@[simp] theorem sawPacket_mem (fs : List Frame) : (s.sawPacket fs).mem = s.mem := by
  unfold State.sawPacket; split <;> rfl

@[simp] theorem mailBad_mem (r : ReplyMsg) (mbox : Word) (cause : BitVec 8) : (s.mailBad r mbox cause).mem = s.mem := by simp [State.mailBad]
@[simp] theorem knowMail_mem (mbox : Word) (pa : Nat) : (s.knowMail mbox pa).mem = s.mem := rfl

/-! ## Operations of Machine/Power -/

@[simp] theorem blkSlew_mem (forward : Bool) : (s.blkSlew b forward).mem = s.mem := by
  unfold State.blkSlew; split <;> rfl

@[simp] theorem rootSlew_mem (forward : Bool) : (s.rootSlew forward).mem = s.mem := by
  unfold State.rootSlew; (repeat' split) <;> simp

@[simp] theorem noteQuiet_mem : s.noteQuiet.mem = s.mem := by
  unfold State.noteQuiet
  exact foldl_keeps State.mem (fun u b => by split <;> rfl) _ s

@[simp] theorem refill_mem : s.refill.mem = s.mem := rfl
@[simp] theorem adjust_mem (x : Sensors) : (s.adjust x).mem = s.mem := by
  rw [State.adjust, State.modDev_mem, foldl_keeps State.mem fun _ _ => State.modField_mem _ _ _]

@[simp] theorem bindAll_mem : s.bindAll.mem = s.mem := by
  rw [State.bindAll, foldl_keeps State.mem fun _ _ => State.modBlk_mem _ _ _]

@[simp] theorem startTime_mem : s.startTime.mem = s.mem := by
  rw [State.startTime, State.modDev_mem, foldl_keeps State.mem fun _ _ => State.modBlk_mem _ _ _]

@[simp] theorem endTraining_mem : s.endTraining.mem = s.mem := rfl
@[simp] theorem phaseEnd_mem : s.phaseEnd.mem = s.mem := by
  unfold State.phaseEnd
  split <;> simp

/-! ## Operations of Machine/Host -/

theorem askEach_mem : ∀ (l : List (Nat × Nat)) {s u : State}, s.askEach dev l = some u → u.mem = s.mem
  | [], _, _, h => by cases h; rfl
  | (_, _) :: l, _, _, h => by
    rw [State.askEach] at h
    split at h
    next hsend => exact (askEach_mem l h).trans (sentOnly_sendPacket hsend).mem
    next => cases h

@[simp] theorem barAnswer_mem (l : Option (List Byte)) : (s.barAnswer port l).mem = s.mem := rfl
@[simp] theorem barRefused_mem (ide : Bool) : (s.barRefused port ide).mem = s.mem := by
  unfold State.barRefused; split <;> rfl

@[simp] theorem bar0Read_mem (off : Nat) (ide : Bool) : (s.bar0Read port off ide).mem = s.mem := by
  unfold State.bar0Read; split <;> simp

@[simp] theorem fixSet_mem : s.fixSet.mem = s.mem := by
  unfold State.fixSet; split <;> rfl

@[simp] theorem writeSet_mem (v : Word) : (s.writeSet v).mem = s.mem := by
  unfold State.writeSet; (repeat' split) <;> simp

@[simp] theorem writeRoute_mem (d : Nat) (v : BitVec 32) : (s.writeRoute d v).mem = s.mem := by
  unfold State.writeRoute; split <;> rfl

@[simp] theorem discard_mem (l : List Nat) : (s.discard port l).mem = s.mem := foldl_keeps State.mem (fun _ _ => by rfl) _ s
@[simp] theorem partHost_mem : (s.partHost port).mem = s.mem := rfl
@[simp] theorem spendHost_mem (n : Nat) : (s.spendHost port n).mem = s.mem := rfl
@[simp] theorem codeReply_mem (q : Nat) (data : BitVec 512) (code : Nat) : (s.codeReply q data code).mem = s.mem := by
  unfold State.codeReply; split <;> rfl

@[simp] theorem refuseRec_mem (q errBit : Nat) (data : BitVec 512) : (s.refuseRec port q errBit data).mem = s.mem := by simp [State.refuseRec]
@[simp] theorem drawn_mem (q : Nat) : (s.drawn q).mem = s.mem := rfl

/-! ## Operations of Machine/Belvedere -/

@[simp] theorem popCmd_mem : s.popCmd.mem = s.mem := rfl
@[simp] theorem measured_mem (a len : Nat) (digest : BitVec 512) (frames : List (Nat × Nat × Bool)) :
    (s.measured a len digest frames).mem = s.mem := rfl

@[simp] theorem haltAll_mem : s.haltAll.mem = s.mem := rfl

/-! ## Operations of Machine/Branch -/

@[simp] theorem branchIf_mem (c : Bool) (off : Word) : (s.branchIf c off).mem = s.mem := by
  unfold State.branchIf; split <;> rfl

/-! ## Operations of Machine/Graphs -/

@[simp] theorem putCtx_mem (g : Graph) (i : Nat) (slot : Nat × Nat) : (s.putCtx gid g i t slot).mem = s.mem := by
  unfold State.putCtx; split <;> rfl

@[simp] theorem putTile_mem (x : Graph) (i : Nat) (slots : List (Nat × Nat)) : (s.putTile gid x i t slots).mem = s.mem := by
  rw [State.putTile, wakeBlk_mem, foldl_keeps State.mem fun _ _ => putCtx_mem _ _ _ _ _ _]

@[simp] theorem putAdders_mem (d : GraphDesc) : (s.putAdders gid d).mem = s.mem := foldl_keeps State.mem (fun _ _ => by rfl) _ s
@[simp] theorem install_mem (p : Plan) : (s.install gid p).mem = s.mem :=
  (putAdders_mem _ _ _).trans (foldl_keeps State.mem (fun _ _ => putTile_mem _ _ _ _ _ _) _ _)

@[simp] theorem beginTile_mem (g : Graph) : (s.beginTile gid g t).mem = s.mem := by
  unfold State.beginTile; (repeat' split) <;> simp

@[simp] theorem cutXfer_mem (x : Xfer) : (s.cutXfer id x).mem = s.mem := rfl
@[simp] theorem cutXfers_mem : (s.cutXfers gid).mem = s.mem := by
  refine foldl_keeps State.mem (fun u e => ?_) _ s
  split
  · rfl
  · split <;> simp

@[simp] theorem cutDrains_mem : (s.cutDrains k).mem = s.mem := by
  refine foldl_keeps State.mem (fun u d => ?_) _ s
  split <;> simp

@[simp] theorem haltGraph_mem (x : Graph) : (s.haltGraph gid x).mem = s.mem := by
  rw [State.haltGraph, setGraph_mem, foldl_keeps State.mem]
  intro u t
  rw [foldl_keeps State.mem]
  intro v i
  rw [State.modTcore_mem, cutDrains_mem]

@[simp] theorem dropTokens_mem (x : Graph) : (s.dropTokens gid x).mem = s.mem := by
  simp only [State.dropTokens]
  rw [foldl_keeps State.mem]
  intro u t
  rw [foldl_keeps State.mem fun _ _ => State.modTcore_mem _ _ _, State.modTile_mem]

@[simp] theorem loseAccs_mem (x : Graph) : (s.loseAccs gid x).mem = s.mem := foldl_keeps State.mem (fun _ _ => by rfl) _ s

/-! ## Operations of Machine/Retire -/

@[simp] theorem rebind_mem (core : Bool) (bs : List (Nat × Nat)) : (s.rebind b core bs).mem = s.mem :=
  foldl_keeps State.mem (fun _ _ => by rfl) _ _

@[simp] theorem retireSite_mem (core : Bool) (p : Nat) (dead : Bool) : (s.retireSite b core p dead).mem = s.mem := rfl
@[simp] theorem flush_mem : ∀ (n : Nat) (s : State) (r : Nat) (fl : Flit), (State.flush n s r fl).mem = s.mem
  | 0, _, _, _ => rfl
  | n + 1, s, r, fl => by
    rw [State.flush]
    split
    · simp
    · refine foldl_keeps State.mem (fun s h => ?_) _ s
      split
      · simp
      · split
        · rfl
        · exact flush_mem n _ _ _

@[simp] theorem flushRouter_mem (num : Nat) : (s.flushRouter num r).mem = s.mem := by
  unfold State.flushRouter
  refine foldl_keeps State.mem (fun u i => ?_) _ s
  exact foldl_keeps State.mem (fun _ _ => flush_mem _ _ _ _) _ _

@[simp] theorem flushRoute_mem (l : Laid) : (s.flushRoute l).mem = s.mem := foldl_keeps State.mem (fun _ _ => flushRouter_mem _ _ _) _ s
@[simp] theorem flushBlock_mem : (s.flushBlock b).mem = s.mem := by
  refine foldl_keeps State.mem (fun u e => ?_) _ s
  split
  · rfl
  · exact foldl_keeps State.mem (fun _ _ => flushRoute_mem _ _) _ u

theorem relaySet_mem {es : List (Laid × List (Nat × BitVec 32))} {u : State} (h : s.relaySet gid es = some u) : u.mem = s.mem := by
  simp only [State.relaySet, Option.map_eq_some_iff] at h
  obtain ⟨ls, -, rfl⟩ := h
  rfl

@[simp] theorem relayGraph_mem (x : Graph) : (s.relayGraph b gid x).1.mem = s.mem := by
  simp only [State.relayGraph]
  split
  next h => exact relaySet_mem s gid h
  next =>
    refine foldl_keeps State.mem (fun u e => ?_) _ s
    cases h : u.relaySet gid [e] with
    | none => rfl
    | some v => exact relaySet_mem u gid h

@[simp] theorem relay_mem : (s.relay b).1.mem = s.mem := by
  unfold State.relay
  generalize s.dev.graphs = l, hacc : (s, true) = acc
  obtain rfl : s = acc.1 := by rw [← hacc]
  clear hacc
  induction l generalizing acc with
  | nil => rfl
  | cons e l ih =>
    rw [List.foldl_cons, ih]
    split <;> simp

@[simp] theorem moveUnit_mem (core : Bool) (n : Nat) : (s.moveUnit b core n).mem = s.mem := by
  unfold State.moveUnit; split <;> rfl

@[simp] theorem rebuild_mem (core : Bool) (bs : List (Nat × Nat)) : (s.rebuild b core bs).mem = s.mem := by
  simp only [State.rebuild]
  split
  · simp
  · split
    · rw [foldl_keeps State.mem fun u e => moveUnit_mem _ _ _ _]
      simp
    · simp

@[simp] theorem faultRegion_mem (cls idx route : Nat) : (s.faultRegion gid b cls idx route).mem = s.mem := by
  unfold State.faultRegion; split <;> rfl

@[simp] theorem loseThread_mem (t : Thread) : (s.loseThread g t).mem = s.mem := by
  unfold State.loseThread; split <;> simp

@[simp] theorem loseCore_mem : (s.loseCore c).mem = s.mem := by
  rw [State.loseCore, State.setCore_mem, foldl_keeps State.mem fun _ _ => loseThread_mem _ _ _]

@[simp] theorem loseUnits_mem : (s.loseUnits r).mem = s.mem := by
  simp only [State.loseUnits]
  split
  · (repeat' split) <;> simp
  · rw [foldl_keeps State.mem fun _ _ => modXport_mem _ _ _]
    refine (foldl_keeps State.mem (fun u e => ?_) _ _).trans ?_
    · split
      · rfl
      · split <;> simp
    · (repeat' split) <;> simp

@[simp] theorem loseRouter_mem : (s.loseRouter b r).mem = s.mem := by
  unfold State.loseRouter
  rw [loseUnits_mem]
  refine foldl_keeps State.mem (fun u num => ?_) _ s
  split <;> simp

@[simp] theorem retireFree_mem (core : Bool) (p : Nat) (dead : Bool) : (s.retireFree b core p dead).mem = s.mem := by
  unfold State.retireFree; split <;> simp

@[simp] theorem retireBegin_mem (core : Bool) (name : Nat) : (s.retireBegin b core name).mem = s.mem := rfl

/-! ## Operations of Machine/Soft -/

@[simp] theorem strikeNew_mem (n : Nat) (ea : Word) : (s.strikeNew n k ea).mem = s.mem := by simp [State.strikeNew]
@[simp] theorem missLoad_mem (i : Instr) (u : State) : (s.missLoad g i u).mem = u.mem := by
  simp only [State.missLoad]
  split
  · split <;> simp
  · rfl

@[simp] theorem strikeMember_mem (l : LoadMember) : (s.strikeMember l).mem = s.mem := by
  unfold State.strikeMember; (repeat' split) <;> simp

@[simp] theorem strikeRed_mem : (s.strikeRed g).mem = s.mem := by
  unfold State.strikeRed; split <;> rfl

/-! ## Operations of Machine/Turn -/

@[simp] theorem dropDest_mem (r : SReg) (open_ : Nat) : (s.dropDest r open_).mem = s.mem := by
  unfold State.dropDest; split <;> rfl

@[simp] theorem stampTurn_mem (rank : Nat) : (s.stampTurn b rank).mem = s.mem := rfl
@[simp] theorem endTurn_mem (open_ : Nat) (due : Bool) : (s.endTurn open_ due).mem = s.mem := by
  unfold State.endTurn; (repeat' split) <;> simp

@[simp] theorem settle_mem : (s.settle g).mem = s.mem := rfl
@[simp] theorem retried_mem : (s.retried g).mem = s.mem := by
  unfold State.retried; split <;> rfl

end Sys2Proof.Claims
end

section
/-!
PROOFS. What writes memory and keeps its canonical form (R298): every byte that an operation changes goes through `Memory.write`, or is
dropped from the table, and both keep the form. An operation that hands over to a continuation keeps it where the continuation does.
-/
namespace Sys2Proof.Claims
open Sys2Proof.Machine

/-- What is left of a table in canonical form is in canonical form. -/
theorem wfFrom_filter {α : Type} [DecidableEq α] {d : α} (p : Nat × α → Bool) : ∀ {m : Tab α} {lo : Nat}, Tab.wfFrom d lo m = true →
    Tab.wfFrom d lo (m.filter p) = true
  | [], _, _ => rfl
  | (i, x) :: m, lo, h => by
    simp only [Tab.wfFrom, Bool.and_eq_true, decide_eq_true_eq] at h
    obtain ⟨⟨hlo, hx⟩, hm⟩ := h
    rw [List.filter_cons]
    split
    · simp only [Tab.wfFrom, Bool.and_eq_true, decide_eq_true_eq]
      exact ⟨⟨hlo, hx⟩, wfFrom_filter p hm⟩
    · exact Tab.wfFrom_mono (by omega) (wfFrom_filter p hm)

theorem Memory.wf_filter (p : Host.Cell → Bool) {m : List Host.Cell} (h : Memory.wf m = true) : Memory.wf (m.filter p) = true :=
  wfFrom_filter p h

/-- A fold keeps memory canonical when each of its steps does. -/
theorem foldl_wf {α : Type} {F : State → α → State} (hF : ∀ s a, Memory.wf s.mem = true → Memory.wf (F s a).mem = true) {s : State}
    (hwf : Memory.wf s.mem = true) : ∀ l : List α, Memory.wf (l.foldl F s).mem = true
  | [] => hwf
  | a :: l => foldl_wf hF (hF s a hwf) l

section
variable {s : State} (hwf : Memory.wf s.mem = true) (b c dev f g gid id k m port r t tok : Nat)
include hwf

/-! ## Operations of Machine/Bytes -/

@[simp] theorem pokeN_wf (a n x : Nat) : Memory.wf (s.pokeN a n x).mem = true := by simp [State.pokeN, hwf, Memory.wf_write]

/-! ## Operations of Machine/Home -/

@[simp] theorem watchWord_wf (sw : Bool) (va : Nat) : Memory.wf (s.watchWord sw va).mem = true := by
  simp only [State.watchWord]; (repeat' split) <;> simp [hwf]

@[simp] theorem watch_wf (sw : Bool) (va pa n : Nat) : Memory.wf (s.watch sw va pa n).mem = true := by
  simp only [State.watch]; (repeat' split) <;> simp [hwf]

@[simp] theorem walkMark_wf (e : Word) (addr : Nat) (kind : Access) : Memory.wf (s.walkMark e addr kind).1.mem = true := by
  simp only [State.walkMark]; (repeat' split) <;> simp [hwf]

@[simp] theorem putSync_wf (pa : Nat) (w : SyncW) (by_ : Option Nat) : Memory.wf (s.putSync pa w by_).mem = true := by
  simp [State.putSync, hwf]

@[simp] theorem closeSync_wf (pa : Nat) : Memory.wf (s.closeSync pa).mem = true := by
  simp only [State.closeSync]
  split
  · simp [hwf]
  · rw [foldl_keeps State.mem fun _ _ => tellSync_mem _ _]
    simp [hwf]

@[simp] theorem rollSync_wf (pa : Nat) : Memory.wf (s.rollSync pa).mem = true := by
  unfold State.rollSync; split <;> simp [hwf]

@[simp] theorem syncPut_wf (pa : Nat) (f : Landed → Landed) : Memory.wf (s.syncPut pa f).mem = true := by simp [State.syncPut, hwf]
@[simp] theorem syncLand_wf (pa bytes arrs : Nat) (who : List SyncWho) : Memory.wf (s.syncLand pa bytes arrs who).mem = true := by
  simp [State.syncLand, hwf]

@[simp] theorem syncSet_wf (pa btgt atgt : Nat) (who : List SyncWho) : Memory.wf (s.syncSet pa btgt atgt who).mem = true := by
  simp [State.syncSet, hwf]

omit hwf in
theorem passSync_wf (pa : Nat) : ∀ (n : Nat) {s : State}, Memory.wf s.mem = true → Memory.wf (s.passSync pa n).mem = true
  | 0, _, h => h
  | n + 1, _, h => by
    rw [State.passSync]
    split
    · exact passSync_wf pa n (closeSync_wf h pa)
    · exact h

@[simp] theorem endWord_wf (pa : Nat) : Memory.wf (s.endWord pa).mem = true :=
  syncPut_wf (closeSync_wf (rollSync_wf hwf pa) pa) pa _

@[simp] theorem endSync_wf (pa n : Nat) : Memory.wf (s.endSync pa n).mem = true :=
  foldl_wf (fun _ _ h => endWord_wf h _) hwf _

@[simp] theorem writeFqbase_wf (v : Word) : Memory.wf (s.writeFqbase f v).mem = true := by
  unfold State.writeFqbase; split <;> simp [hwf]

@[simp] theorem homePoke_wf (p : Phys) (va : Nat) (l : List Byte) : Memory.wf (s.homePoke p va l).mem = true :=
  Memory.wf_write _ _ (watch_wf (endSync_wf hwf _ _) _ _ _ _)

@[simp] theorem result_wf (c : BCmd) (code : Nat) : Memory.wf (s.result c code).mem = true := by
  unfold State.result; (repeat' split) <;> simp [hwf]

@[simp] theorem owe_wf (p : Phys) (va : Nat) (l : List Byte) : Memory.wf (s.owe dev p va l).mem = true := by simp [State.owe, hwf]
@[simp] theorem markPending_wf (c : BCmd) : Memory.wf (s.markPending c).mem = true := by
  unfold State.markPending; (repeat' split) <;> simp [hwf]

@[simp] theorem queueCmd_wf (c : BCmd) : Memory.wf (s.queueCmd c).mem = true := by simp [State.queueCmd, hwf]
@[simp] theorem cmdPlace_wf (host : Option Nat) (va : Nat) : Memory.wf (s.cmdPlace host va).1.mem = true := by
  unfold State.cmdPlace; (repeat' split) <;> simp [hwf]

@[simp] theorem postCmd_wf (host : Option Nat) (v : Word) : Memory.wf (s.postCmd host v).mem = true := by
  simp only [State.postCmd]; (repeat' split) <;> simp [hwf]

@[simp] theorem writeReg_wf (off : Nat) (v : Word) : Memory.wf (s.writeReg f off v).mem = true := by
  unfold State.writeReg; (repeat' split) <;> simp [hwf]

@[simp] theorem regWrite_wf (pa n x : Nat) : Memory.wf (s.regWrite pa n x).mem = true := by simp [State.regWrite, hwf]
omit hwf in
theorem regWriteN_wf : ∀ (n : Nat) {s : State} (pa x : Nat), Memory.wf s.mem = true → Memory.wf (s.regWriteN pa x n).mem = true
  | 0, _, _, _, h => h
  | n + 1, _, _, _, h => regWriteN_wf n _ _ (regWrite_wf h _ _ _)

@[simp] theorem writeAt_wf (by_ : Option Nat) (task : Option (Nat × Nat)) (p : Phys) (va : Nat) (l : List Byte) :
    Memory.wf (s.writeAt by_ task p va l).mem = true := by
  have hword : Memory.wf (s.watchWord p.sw va).mem = true := watchWord_wf hwf _ _
  unfold State.writeAt
  split
  · dsimp only
    split
    · exact regWrite_wf (s := (s.watchWord p.sw va).noteWrite by_ task p.pa l.length) hword _ _ _
    · exact regWriteN_wf _ _ _ hword
  all_goals exact Memory.wf_write _ _ (watch_wf (endSync_wf hwf _ _) _ _ _ _)

@[simp] theorem performWrite_wf (by_ : Option Nat) (task : Option (Nat × Nat)) (p : Phys) (va : Nat) (l : List Byte) :
    Memory.wf (s.performWrite by_ task p va l).mem = true := by simp [State.performWrite, hwf]

@[simp] theorem spanWrite_wf (by_ : Option Nat) (task : Option (Nat × Nat)) (p : Phys) (va : Nat) (l : List Byte) :
    Memory.wf (s.spanWrite by_ task p va l).mem = true :=
  foldl_wf (fun _ _ h => performWrite_wf h _ _ _ _ _) (watchWord_wf hwf _ _) _

/-! ## Operations of Machine/Xlate -/

@[simp] theorem xlMark_wf (va : Nat) (n : Need) : Memory.wf (s.xlMark va n).1.mem = true := by
  unfold State.xlMark; (repeat' split) <;> simp [hwf]

/-! ## Operations of Machine/Ops -/

theorem edge_wf {p : Phys} {F : State → State} (hF : ∀ u : State, Memory.wf u.mem = true → Memory.wf (F u).mem = true) :
    Memory.wf (s.edge p F).mem = true := by
  unfold State.edge
  split
  · rw [wakeBlk_mem]
    exact hwf
  · exact hF s hwf

@[simp] theorem writeRegs_wf (buf : Tab (Option Byte)) : Memory.wf (s.writeRegs buf).mem = true := by
  unfold State.writeRegs
  exact foldl_wf (fun _ _ h => by simp [h]) hwf _

@[simp] theorem commitBuf_wf (x : Task) : Memory.wf (s.commitBuf b x).mem = true := by
  have hlines := foldl_wf (F := commitLine b x) (fun _ _ h => by simp [commitLine, h]) hwf (bufLines x.buf)
  rw [commitBuf_eq, modTask_mem, State.forgetMail_mem]
  exact writeRegs_wf (Memory.wf_writeBuf _ hlines) _

@[simp] theorem goPlain_wf : Memory.wf (s.goPlain g).mem = true := by
  unfold State.goPlain; split <;> simp [hwf]

theorem takeFut_wf {cls : Nat} {unit : FutUnit} {va : Word} {image : List Byte} {r : FRec} {u : State}
    (h : s.takeFut f cls unit va image r = some u) : Memory.wf u.mem = true := by
  unfold State.takeFut at h
  split at h
  · cases h
  · obtain rfl := Option.some.inj h
    rw [State.addRec_mem, State.modField_mem, State.poke_mem]
    exact Memory.wf_write _ _ hwf

@[simp] theorem future_wf (va : Word) : Memory.wf (s.future g va).mem = true := by
  simp only [State.future]
  split
  · simp [hwf]
  split
  · split
    · simp [hwf]
    split
    next h => simpa using takeFut_wf (by simpa using hwf) _ h
    next => simp [hwf]
  · simp [hwf]

/-! ## Operations of Machine/Region -/

@[simp] theorem sramWrite_wf (off : Nat) (l : List Byte) : Memory.wf (s.sramWrite t off l).mem = true := by simp [State.sramWrite, hwf]

/-! ## Operations of Machine/System -/

omit hwf in
theorem writePart_wf (g : Nat) : ∀ (n : Nat) {s : State} (va : Nat) (p : Phys) (l : List Byte), Memory.wf s.mem = true →
    Memory.wf (s.writePart g va p n l).mem = true
  | 0, _, _, _, _, h => h
  | n + 1, _, _, _, _, h => by
    rw [State.writePart]
    split
    · exact h
    · exact writePart_wf g n _ _ _ (performWrite_wf h _ _ _ _ _)

omit hwf in
theorem writeParts_wf (g : Nat) : ∀ (ps : List (Nat × Nat × Phys)) {s : State} (l : List Byte), Memory.wf s.mem = true →
    Memory.wf (s.writeParts g ps l).mem = true
  | [], _, _, h => h
  | (_, _, _) :: ps, _, _, h => writeParts_wf g ps _ (writePart_wf g _ _ _ _ h)

omit hwf in
theorem translateSb_wf (sv : Bool) : ∀ (l : List SbEntry) {s : State}, Memory.wf s.mem = true →
    Memory.wf (s.translateSb sv l).1.mem = true
  | [], _, h => h
  | _ :: l, s, h => by
    simp only [State.translateSb]
    split
    · exact xlMark_wf h _ _
    · split <;> exact translateSb_wf sv l (xlMark_wf h _ _)

@[simp] theorem loadImage_wf (n : SlotName) (l : List Byte) : Memory.wf (s.loadImage n g l).1.mem = true := by
  have hsb (t : Thread) : Memory.wf (s.translateSb t.sv t.sb).1.mem = true := translateSb_wf _ _ hwf
  simp only [State.loadImage]
  (repeat' split) <;> simp [hwf, hsb]

/-! ## Operations of Machine/Sparse -/

omit hwf in
theorem readMeta_wf : ∀ (n : Nat) {s : State} (va len : Nat) (x : Scan), Memory.wf s.mem = true →
    Memory.wf (State.readMeta n s va len x).1.mem = true
  | 0, _, _, _, _, h => h
  | n + 1, s, va, len, x, h => by
    have hmark := xlMark_wf h va { rd := true, wr := false, ex := false, sv := false }
    rw [State.readMeta]
    dsimp only
    split
    · exact h
    split
    · exact h
    split
    · exact hmark
    · split
      · exact hmark
      all_goals exact readMeta_wf n _ _ _ hmark

@[simp] theorem queueMem_wf (ident : Word) (va n : Nat) (req : Requester) (lock : Option Nat) :
    Memory.wf (s.queueMem b t ident va n req lock).mem = true := by
  simp only [State.queueMem, State.modBlk_mem, askMeta_mem]
  exact readMeta_wf _ _ _ _ hwf

/-! ## Operations of Machine/Stream -/

@[simp] theorem putRing_wf (x : Ring) (f : Flit) : Memory.wf (s.putRing t r x f).mem = true := by
  simp only [State.putRing]; (repeat' split) <;> simp [hwf]

/-! ## Operations of Machine/Transfer -/

@[simp] theorem stallXfer_wf (x : Xfer) (va : Nat) : Memory.wf (s.stallXfer id x va).mem = true := by
  simp only [State.stallXfer]
  split
  next h => simpa using takeFut_wf hwf _ h
  next => simpa using hwf

theorem xAcc_wf {x : Xfer} {va : Nat} {wr : Bool} {k : State → Phys → State}
    (hk : ∀ u p, Memory.wf u.mem = true → Memory.wf (k u p).mem = true) : Memory.wf (s.xAcc id x va wr k).mem = true := by
  simp only [State.xAcc]
  split
  · exact hk _ _ (by simpa using hwf)
  · exact hwf
  · split <;> simp [hwf]

omit hwf in
theorem xParts_wf {x : Xfer} {k : State → List Byte → State}
    (hk : ∀ u l, Memory.wf u.mem = true → Memory.wf (k u l).mem = true) : ∀ (ps : List (Nat × Nat)) {s : State} (acc : List Byte),
    Memory.wf s.mem = true → Memory.wf (s.xParts id x ps acc k).mem = true
  | [], _, _, h => hk _ _ h
  | (_, _) :: ps, _, _, h => xAcc_wf h _ fun u p hu => by
    split
    · split
      · exact xParts_wf hk ps _ hu
      · simpa using hu
    all_goals exact edge_wf hu fun _ hv => xParts_wf hk ps _ hv

theorem xWrite_wf {x : Xfer} {dst : End} {at_ : Nat} {l : List Byte} {last : Bool} {k : State → State}
    (hk : ∀ u : State, Memory.wf u.mem = true → Memory.wf (k u).mem = true) :
    Memory.wf (s.xWrite id x dst at_ l last k).mem = true := by
  unfold State.xWrite
  split
  · exact edge_wf hwf fun _ h => hk _ (sramWrite_wf h _ _ _)
  · refine xAcc_wf hwf _ fun u p hu => ?_
    split
    · split
      next h => simpa [(sentOnly_sendPacket h).mem] using watchWord_wf hu _ _
      next => simpa using hu
    all_goals exact edge_wf hu fun _ h => hk _ (spanWrite_wf h _ _ _ _ _)

theorem withSync_wf {x : Xfer} {cmd : Cmd} {k : State → SyncAt → State}
    (hk : ∀ u a, Memory.wf u.mem = true → Memory.wf (k u a).mem = true) : Memory.wf (s.withSync id x cmd k).mem = true := by
  unfold State.withSync
  split
  · exact hk _ _ hwf
  · exact hk _ _ hwf
  · refine xAcc_wf hwf _ fun u p hu => ?_
    split <;> exact hk _ _ hu

@[simp] theorem raiseSync_wf (x : Xfer) (a : SyncAt) (n : Nat) : Memory.wf (s.raiseSync id x a n).mem = true := by
  unfold State.raiseSync
  split
  · exact hwf
  · simp [hwf]
  · split
    next h => simpa [(sentOnly_sendPacket h).mem] using watchWord_wf hwf _ _
    next => simpa using hwf

@[simp] theorem stallCmd_wf (xp i : Nat) (a : Arriving) (va : Nat) : Memory.wf (s.stallCmd xp i a va).mem = true := by
  simp only [State.stallCmd]
  split
  next h => simpa using takeFut_wf (s := s.clearWalk xp) hwf _ h
  next => simpa using hwf

omit hwf in
theorem cmdParts_wf {xp i : Nat} {a : Arriving} {k : State → List Byte → State}
    (hk : ∀ u l, Memory.wf u.mem = true → Memory.wf (k u l).mem = true) : ∀ (ps : List (Nat × Nat)) {s : State} (acc : List Byte),
    Memory.wf s.mem = true → Memory.wf (s.cmdParts xp i a ps acc k).mem = true
  | [], _, _, h => hk _ _ h
  | (va, n) :: ps, s, acc, h => by
    have hclear (u : State) (hu : Memory.wf u.mem = true) : Memory.wf (u.clearWalkOf xp va).mem = true := by simpa using hu
    rw [State.cmdParts]
    split
    · exact h
    · split
      · exact stallCmd_wf h _ _ _ _
      · exact h
    · split
      · split
        · exact cmdParts_wf hk ps _ (hclear s h)
        · simpa using h
      all_goals exact edge_wf h fun u hu => cmdParts_wf hk ps _ (hclear u hu)

@[simp] theorem tryCmd_wf (xp i : Nat) (a : Arriving) : Memory.wf (s.tryCmd xp i a).mem = true := by
  simp only [State.tryCmd]
  split
  · exact hwf
  split
  · exact cmdParts_wf (fun _ _ h => by simpa using h) _ _ hwf
  · simpa using hwf

@[simp] theorem wantCmd_wf (xp : Nat) : Memory.wf (s.wantCmd xp).mem = true := by
  simp only [State.wantCmd]; (repeat' split) <;> simp [hwf]

@[simp] theorem startCompile_wf (x : Xfer) (cmd : Cmd) : Memory.wf (s.startCompile id x cmd t).mem = true := by
  unfold State.startCompile
  split
  · exact withSync_wf hwf _ fun _ _ h => raiseSync_wf (by simpa using h) _ _ _ _
  · (repeat' split) <;> simp [hwf]

@[simp] theorem startXfer_wf (x : Xfer) (c : Cmd) : Memory.wf (s.startXfer id x c).mem = true := by
  unfold State.startXfer; (repeat' split) <;> simp [hwf]

theorem xSource_wf {x : Xfer} {cmd : Cmd} {at_ n len : Nat} {F : State → List Byte → State}
    (hF : ∀ u l, Memory.wf u.mem = true → Memory.wf (F u l).mem = true) :
    Memory.wf (s.xSource id x cmd at_ n len F).mem = true := by
  unfold State.xSource
  split
  · exact hF _ _ hwf
  · split
    · exact xParts_wf _ hF _ _ hwf
    · exact edge_wf hwf fun _ h => hF _ _ h

theorem withEntry_wf {x : Xfer} {cmd : Cmd} {i : Nat} {k : State → Int → State}
    (hk : ∀ u e, Memory.wf u.mem = true → Memory.wf (k u e).mem = true) : Memory.wf (s.withEntry id x cmd i k).mem = true := by
  unfold State.withEntry
  split
  · split
    · exact hk _ _ hwf
    · exact xParts_wf _ (fun _ _ h => by simpa using h) _ _ hwf
  · exact hk _ _ hwf

@[simp] theorem movedOn_wf (x : Xfer) (c : Cmd) (n : Nat) (a : SyncAt) : Memory.wf (s.movedOn id x c n a).mem = true := by
  simp only [State.movedOn]; (repeat' split) <;> simp [hwf]

@[simp] theorem moveChunk_wf (x : Xfer) (cmd : Cmd) : Memory.wf (s.moveChunk id x cmd).mem = true := by
  refine withEntry_wf hwf _ fun u e hu => withSync_wf hu _ fun v a hv => ?_
  split
  · exact movedOn_wf hv _ _ _ _ _
  · simpa using hv
  iterate 3 exact hv
  · exact xSource_wf hv _ fun w l hw => xWrite_wf hw _ fun _ h => movedOn_wf h _ _ _ _ _

@[simp] theorem sendVia_wf (x : Xfer) (cmd : Cmd) (v : Via) : Memory.wf (s.sendVia id x cmd v).mem = true := by
  simp only [State.sendVia]
  split
  · exact hwf
  split
  · split <;> simp [hwf]
  · exact xParts_wf _ (fun _ _ h => by simpa using h) _ _ hwf

@[simp] theorem compiled_wf (x : Xfer) (cmd : Cmd) : Memory.wf (s.compiled id x cmd).mem = true := by
  unfold State.compiled
  split
  · exact hwf
  · exact withSync_wf hwf _ fun _ _ h => raiseSync_wf (by simpa using h) _ _ _ _

/-! ## Operations of Machine/Fabric -/

@[simp] theorem placeToken_wf (tile : Nat) (f : Flit) : Memory.wf (s.placeToken tile b f).mem = true := by
  simp only [State.placeToken]; (repeat' split) <;> simp [hwf]

@[simp] theorem viaWrite_wf (tile i : Nat) (v : Nat × Nat × Nat × Nat) (fl : Flit) (x : Xfer) (cmd : Cmd) :
    Memory.wf (s.viaWrite tile i v fl x cmd).mem = true := by
  simp only [State.viaWrite]
  split
  · simp [hwf]
  split
  · simp [hwf]
  · exact withSync_wf hwf _ fun _ _ h => by simpa using raiseSync_wf (sramWrite_wf h _ _ _) _ _ _ _

/-! ## Operations of Machine/Matrix -/

@[simp] theorem copyBlock_wf (off : Nat) (arg : Word) : Memory.wf (s.copyBlock t off arg).mem = true := by
  unfold State.copyBlock; (repeat' split) <;> simp [hwf]

theorem endAfter_wf {x : MOp} {began n : Nat} {F : State → State}
    (hF : ∀ u : State, Memory.wf u.mem = true → Memory.wf (F u).mem = true) : Memory.wf (s.endAfter t x began n F).mem = true := by
  unfold State.endAfter
  split
  · exact hwf
  · simpa using hF s hwf

omit hwf in
@[simp] theorem runGang_mem (x : MOp) (n : Nat) : (s.runGang t x n).mem = s.mem := rfl

@[simp] theorem endOp_wf (x : MOp) (began : Nat) : Memory.wf (s.endOp t x began).mem = true := by
  unfold State.endOp
  split
  · exact endAfter_wf hwf _ fun _ h => h
  · exact endAfter_wf hwf _ fun _ h => h
  · exact endAfter_wf hwf _ fun _ h => copyBlock_wf h _ _ _
  · simpa using hwf
  · simpa using hwf

/-! ## Operations of Machine/Agens -/

@[simp] theorem stallAgen_wf (a : Agen) (va : Word) : Memory.wf (s.stallAgen m a va).mem = true := by
  simp only [State.stallAgen]
  split
  next h => simpa using takeFut_wf hwf _ h
  next => simpa using hwf

theorem agenAcc_wf {a : Agen} {va : Word} {wr : Bool} {k : State → Agen → Phys → State}
    (hk : ∀ u a p, Memory.wf u.mem = true → Memory.wf (k u a p).mem = true) : Memory.wf (s.agenAcc m a va wr k).mem = true := by
  unfold State.agenAcc
  split
  · exact hk _ _ _ hwf
  · exact hwf
  · split <;> simp [hwf]

@[simp] theorem agenRead_wf (a : Agen) : Memory.wf (s.agenRead m a).mem = true := by
  refine agenAcc_wf hwf _ fun u a p hu => ?_
  split
  · exact hu
  · simpa using hu
  iterate 3 exact hu
  · split
    · simpa using hu
    · exact hu
    all_goals exact edge_wf hu fun _ h => h

@[simp] theorem agenWrite_wf (a : Agen) (fl : Flit) : Memory.wf (s.agenWrite m a fl).mem = true := by
  refine agenAcc_wf hwf _ fun u a p hu => ?_
  split
  · split <;> simp [hu]
  all_goals
    split
    · exact edge_wf hu fun _ h => by simpa using spanWrite_wf h _ _ _ _ _
    · exact hu

@[simp] theorem agenArrive_wf (a : Agen) (done : Word) : Memory.wf (s.agenArrive m a done).mem = true := by
  refine agenAcc_wf hwf _ fun u a p hu => ?_
  split
  · split
    next h => simpa [(sentOnly_sendPacket h).mem] using watchWord_wf hu _ _
    next => simpa using hu
  all_goals simp [hu]

/-! ## Operations of Machine/Engine -/

@[simp] theorem syncSetAt_wf (by_ : Option Nat) (p : Phys) (va btgt atgt : Nat) (who : SyncWho) :
    Memory.wf (s.syncSetAt by_ p va btgt atgt who).mem = true := by
  unfold State.syncSetAt; split <;> simp [hwf, tellSync_mem]

@[simp] theorem syncArriveAt_wf (by_ : Option Nat) (p : Phys) (va : Nat) (who : SyncWho) :
    Memory.wf (s.syncArriveAt by_ p va k who).mem = true := by
  unfold State.syncArriveAt; split <;> simp [hwf, tellSync_mem]

/-! ## Operations of Machine/ThreadEvents -/

@[simp] theorem performEntry_wf (e : SbEntry) : Memory.wf (s.performEntry g e).mem = true := by simp [State.performEntry, hwf]
@[simp] theorem storeFar_wf (e : SbEntry) : Memory.wf (s.storeFar g dev e).mem = true := by
  unfold State.storeFar
  split
  next h => simpa [(sentOnly_sendPacket h).mem] using watchWord_wf hwf _ _
  next => simpa using hwf

@[simp] theorem closeWin_wf (w : CombWin) : Memory.wf (s.closeWin w).mem = true := by
  simp only [State.closeWin]
  rw [popStores_mem]
  exact performWrite_wf (foldl_wf (fun _ _ h => watchWord_wf h _ _) hwf _) _ _ _ _ _

/-! ## Operations of Machine/Fault -/

@[simp] theorem physWrite_wf (a : Nat) (l : List Byte) : Memory.wf (s.physWrite a l).mem = true := by simp [State.physWrite, hwf]
@[simp] theorem futSeq_wf (seq : Nat) (r : FRec) : Memory.wf (s.futSeq f seq r).mem = true := by
  unfold State.futSeq; split <;> simp [hwf]

@[simp] theorem writeRec_wf (r : FRec) : Memory.wf (s.writeRec f r).mem = true := by
  have hseq := physWrite_wf (futSeq_wf hwf f ((s.fqTail f + 1) % 2 ^ 64) r) ((s.field f).fqbase.toNat + 64 + 64 * (s.fqTail f % (s.field f).fqsize))
    (r.bytes ((s.fqTail f + 1) % 2 ^ 64))
  unfold State.writeRec
  dsimp only
  rw [State.modField_mem]
  exact syncLand_wf (physWrite_wf hseq _ _) _ _ _ _

@[simp] theorem futState_wf (st : Nat) : Memory.wf (s.futState f k st).mem = true := by simp [State.futState, hwf]
@[simp] theorem freeFut_wf : Memory.wf (s.freeFut f k).mem = true := by simp [State.freeFut, hwf]
@[simp] theorem futAgain_wf (slot : Nat) (e : FutEnt) (th : Thread) (c : BitVec 8) (va : Word) :
    Memory.wf (s.futAgain f k slot e th c va).mem = true := by simp [State.futAgain, hwf]

@[simp] theorem futResume_wf (e : FutEnt) (th : Thread) (slot : Nat) (v : Option (BitVec 8 × Word)) :
    Memory.wf (s.futResume f k e th slot v).mem = true := by
  have hsb := translateSb_wf th.sv th.sb hwf
  simp only [State.futResume]
  split
  · simpa using freeFut_wf hsb _ _
  · exact futAgain_wf hsb _ _ _ _ _ _ _

@[simp] theorem futStore_wf (slot : Nat) (e : FutEnt) (th : Thread) (x : SbEntry) (l : List SbEntry) :
    Memory.wf (s.futStore f k slot e th x l).mem = true := by
  have hmark := xlMark_wf hwf x.va.toNat { rd := false, wr := true, ex := false, sv := th.sv, form := x.kind.form }
  simp only [State.futStore]
  split
  · exact futAgain_wf hmark _ _ _ _ _ _ _
  split
  · split
    next h => simpa [(sentOnly_sendPacket h).mem] using watchWord_wf hmark _ _
    next => simpa using hmark
  all_goals exact edge_wf hmark fun _ h => by simpa using performWrite_wf h _ _ _ _ _

@[simp] theorem futEnd_wf (e : FutEnt) (th : Thread) (slot : Nat) (c : BitVec 8) : Memory.wf (s.futEnd f k e th slot c).mem = true := by
  unfold State.futEnd; (repeat' split) <;> simp [hwf, compsOut_mem]

@[simp] theorem futAct_wf (e : FutEnt) : Memory.wf (s.futAct f k e).mem = true := by
  simp only [State.futAct]; (repeat' split) <;> simp [hwf]

/-! ## Operations of Machine/Marold -/

@[simp] theorem serveAtomic_wf (p : Phys) (form : Nat) (data : BitVec 256) : Memory.wf (s.serveAtomic p form data).1.mem = true := by
  simp only [State.serveAtomic]; (repeat' split) <;> simp [hwf]

theorem mailAt_wf {box : Phys} {va : Nat} {data : BitVec 256} {record : State → Nat → Nat → Except (BitVec 8) State} {r : State × Bool}
    (hrec : ∀ {off x u}, record s off x = .ok u → Memory.wf u.mem = true) (h : s.mailAt box va data record = .ok r) :
    Memory.wf r.1.mem = true := by
  simp only [State.mailAt] at h
  split at h
  · cases h
    exact writeAt_wf hwf _ _ _ _ _
  split at h
  next => cases h
  next hok =>
    cases h
    exact writeAt_wf (hrec hok) _ _ _ _ _

@[simp] theorem serveMem_wf (addr n form : Nat) (data : BitVec 256) : Memory.wf (s.serveMem addr n form data).1.mem = true := by
  unfold State.serveMem
  split
  · exact hwf
  split
  · exact hwf
  · exact spanWrite_wf hwf _ _ _ _ _
  · split
    next h => exact mailAt_wf hwf (fun hok => by cases hok; exact spanWrite_wf hwf _ _ _ _ _) h
    next => exact hwf
  · exact serveAtomic_wf hwf _ _ _

@[simp] theorem serveSync_wf (p : Phys) (form : Nat) (data : BitVec 256) (who : SyncWho) :
    Memory.wf (s.serveSync p form data who).mem = true := by
  unfold State.serveSync; split <;> simp [hwf]

@[simp] theorem imageDone_wf (j : ImgJob) : Memory.wf (s.imageDone j).mem = true := by
  unfold State.imageDone; split <;> simp [hwf]

@[simp] theorem imagePiece_wf (i : Nat) (x : BitVec 256) : Memory.wf (s.imagePiece tok i x).mem = true := by
  simp only [State.imagePiece]; (repeat' split) <;> simp [hwf]

@[simp] theorem metaPiece_wf (ident : Word) (x : BitVec 256) : Memory.wf (s.metaPiece b t ident x).mem = true := by
  unfold State.metaPiece
  split
  · exact hwf
  split
  · exact hwf
  · simpa using readMeta_wf _ _ _ _ hwf

@[simp] theorem memDone_wf (k : PKind) (x : BitVec 256) : Memory.wf (s.memDone k x).mem = true := by
  unfold State.memDone; split <;> simp [hwf]

@[simp] theorem responseLost_wf (k : PKind) : Memory.wf (s.responseLost k port).mem = true := by
  unfold State.responseLost; (repeat' split) <;> simp [hwf]

@[simp] theorem answered_wf (u : Unans) (st : Nat) : Memory.wf (s.answered u st).mem = true := by
  unfold State.answered; (repeat' split) <;> simp [hwf]

@[simp] theorem serveLine_wf (lo hi : Half) : Memory.wf (s.serveLine lo hi).mem = true := by
  unfold State.serveLine; (repeat' split) <;> simp [hwf]

@[simp] theorem takeHalf_wf (h : Half) : Memory.wf (s.takeHalf h).mem = true := by
  unfold State.takeHalf; (repeat' split) <;> simp [hwf]

@[simp] theorem takeRequest_wf (f : Frame) (a : Flit) : Memory.wf (s.takeRequest f a).mem = true := by
  simp only [State.takeRequest]; (repeat' split) <;> simp [hwf]

@[simp] theorem takeResponse_wf (f : Frame) (a : Flit) : Memory.wf (s.takeResponse f a).mem = true := by
  simp only [State.takeResponse]; (repeat' split) <;> simp [hwf]

@[simp] theorem actPacket_wf (f : Frame) (fl : List Flit) : Memory.wf (s.actPacket port f fl).mem = true := by
  unfold State.actPacket; (repeat' split) <;> simp [hwf]

@[simp] theorem takePacket_wf (f : Frame) (fl : List Flit) : Memory.wf (s.takePacket port f fl).mem = true := by
  unfold State.takePacket; (repeat' split) <;> simp [hwf]

omit hwf in
theorem mailParts_wf (sv : Bool) : ∀ (ps : List (Nat × Nat)) {s u : State} (x : Nat), Memory.wf s.mem = true →
    State.mailParts sv s ps x = .ok u → Memory.wf u.mem = true
  | [], _, _, _, h, hok => by cases hok; exact h
  | (_, _) :: ps, _, _, _, h, hok => by
    simp only [State.mailParts] at hok
    split at hok
    · cases hok
    · exact mailParts_wf sv ps _ (spanWrite_wf (xlMark_wf h _ _) _ _ _ _ _) hok

@[simp] theorem mailWrite_wf (r : ReplyMsg) (o : Outst) : Memory.wf (s.mailWrite r o).mem = true := by
  have hmark := xlMark_wf hwf o.mbox.toNat { rd := false, wr := true, ex := false, sv := o.sv }
  simp only [State.mailWrite]
  split
  · simpa using hmark
  split
  · split
    next h => simpa [(sentOnly_sendPacket h).mem] using watchWord_wf hmark _ _
    next => simpa using hmark
  all_goals
    split
    next h => simpa using mailAt_wf (by simpa using hmark) (fun hok => mailParts_wf _ _ _ (by simpa using hmark) hok) h
    next => simpa using hmark

/-! ## Operations of Machine/Host -/

@[simp] theorem watchLines_wf (sw : Bool) (va : Nat) (l : List (Nat × List Byte)) : Memory.wf (s.watchLines sw va l).mem = true :=
  foldl_wf (fun _ _ h => watchWord_wf h _ _) hwf _

theorem farWrite_wf {kind : PKind} {p : Phys} {va : Nat} {l : List Byte} {u : State} (h : s.farWrite kind p va l = some u) :
    Memory.wf u.mem = true := by
  unfold State.farWrite at h
  split at h
  · rw [(sentOnly_farPieces _ _ _ h).mem]
    exact watchLines_wf hwf _ _ _
  all_goals
    cases h
    exact foldl_wf (fun _ _ h => homePoke_wf h _ _ _) hwf _

@[simp] theorem writeControl_wf (off : Nat) (v : Word) : Memory.wf (s.writeControl port off v).mem = true := by
  unfold State.writeControl; split <;> simp [hwf]

@[simp] theorem writeBar0_wf (off : Nat) (v : Word) : Memory.wf (s.writeBar0 port off v).mem = true := by
  unfold State.writeBar0; (repeat' split) <;> simp [hwf]

@[simp] theorem hostWrite_wf (p : Nat) (ide : Bool) (addr : Nat) (v : Word) : Memory.wf (s.hostWrite p ide addr v).mem = true := by
  unfold State.hostWrite; (repeat' split) <;> simp [hwf]

theorem appendRec_wf {q : Nat} {data : BitVec 512} {u : State} (h : s.appendRec port q data = some u) : Memory.wf u.mem = true := by
  simp only [State.appendRec] at h
  split at h
  · cases h
  · obtain ⟨v, hv, rfl⟩ := Option.map_eq_some_iff.mp h
    exact (farWrite_wf (walkMark_wf hwf _ _ _) hv : Memory.wf v.mem = true)

@[simp] theorem checkRec_wf (q : Nat) (data : BitVec 512) : Memory.wf (s.checkRec port q data).mem = true := by
  simp only [State.checkRec]
  split
  · simpa using hwf
  split
  · simpa using hwf
  split
  next h => exact appendRec_wf hwf _ h
  next => simpa using hwf

omit hwf in
theorem askDev_mem {l : List Nat} {u : State} (h : s.askDev dev l = some u) : u.mem = s.mem :=
  askEach_mem _ _ h

omit hwf in
theorem farRead_got_mem {n : Nat} {p : Phys} {l : List Byte} {u : State} (h : s.farRead p n = .got l u) : u.mem = s.mem := by
  unfold State.farRead at h
  split at h
  · split at h
    · cases h
      rfl
    · split at h <;> cases h
  all_goals
    cases h
    rfl

omit hwf in
theorem farRead_wait_mem {n : Nat} {p : Phys} {u : State} (h : s.farRead p n = .wait u) : u.mem = s.mem := by
  unfold State.farRead at h
  split at h
  · split at h
    · cases h
    · split at h
      next hask =>
        cases h
        exact askDev_mem _ hask
      next => cases h
  all_goals cases h

theorem headDraw_later_wf {q : Nat} {u : State} (h : s.headDraw q = .later u) : Memory.wf u.mem = true := by
  simp only [State.headDraw] at h
  split at h
  · cases h
    exact hwf
  split at h
  next =>
    cases h
    exact hwf
  next =>
    have hmark := walkMark_wf hwf
    split at h
    next hread =>
      cases h
      rw [farRead_wait_mem hread]
      exact hmark _ _ _
    next =>
      cases h
      exact hwf
    next hread =>
      split at h <;> cases h
      rw [farRead_got_mem hread]
      exact hmark _ _ _

theorem headDraw_now_wf {q : Nat} {u : State} {r : Rec} {v : Verdict} (h : s.headDraw q = .now u r v) :
    Memory.wf u.mem = true := by
  simp only [State.headDraw] at h
  split at h
  · cases h
  split at h
  next => cases h
  next =>
    split at h
    next => cases h
    next => cases h
    next hread =>
      split at h <;> cases h
      rw [farRead_got_mem hread]
      exact walkMark_wf hwf _ _ _

@[simp] theorem hostStore_wf (port : Bool) (a : Nat) (l : List Byte) : Memory.wf (s.hostStore port a l).mem = true := by
  simp [State.hostStore, hwf]

@[simp] theorem writeReply_wf (q : Nat) (data : BitVec 256) : Memory.wf (s.writeReply q data).mem = true := by simp [State.writeReply, hwf]
@[simp] theorem tryReply_wf (i : Nat) (r : HostReply) : Memory.wf (s.tryReply i r).mem = true := by
  unfold State.tryReply; split <;> simp [hwf]

theorem barPlace_wf {va : Nat} {wr : Bool} {r : State × Phys} (h : s.barPlace va wr = some r) : Memory.wf r.1.mem = true := by
  unfold State.barPlace at h
  split at h
  · cases h
  split at h
  · split at h
    · cases h
    · cases h
      exact walkMark_wf hwf _ _ _
  · split at h
    · cases h
      exact hwf
    · cases h

/-! ## Operations of Machine/Belvedere -/

theorem reqStore_wf {x : BCmd} {off : Nat} {l : List Byte} {u : State} (h : s.reqStore x off l = some u) : Memory.wf u.mem = true := by
  unfold State.reqStore at h
  split at h
  · exact farWrite_wf hwf h
  · split at h <;> (cases h; exact hwf)

@[simp] theorem endCmd_wf (x : BCmd) (code : Nat) : Memory.wf (s.endCmd x code).mem = true := by
  unfold State.endCmd
  rw [popCmd_mem]
  split
  · rename_i hat
    cases h : s.reqStore x (resultAt x.kind.toNat) (leBytes 2 code) with
    | none => exact hwf
    | some u => exact reqStore_wf hwf h
  · exact result_wf hwf _ _

@[simp] theorem putHandlers_wf (body : List Byte) : Memory.wf (s.putHandlers body).mem = true := by
  unfold State.putHandlers
  split
  · exact hwf
  · exact foldl_wf (fun _ _ h => homePoke_wf h _ _ _) hwf _

@[simp] theorem verify_wf (a : Nat) : Memory.wf (s.verify a).1.mem = true := by
  unfold State.verify; (repeat' split) <;> simp [hwf]

omit hwf in
theorem writeUser_wf {host : Option Nat} : ∀ {ps : List (Nat × List Byte)} {s u : State}, Memory.wf s.mem = true →
    s.writeUser host ps = some u → Memory.wf u.mem = true
  | [], _, _, hs, h => by cases h; exact hs
  | (va, _) :: _, s, _, hs, h => by
    have hplace := cmdPlace_wf hs host va
    rw [State.writeUser] at h
    split at h
    next => cases h
    next hp =>
      rw [hp] at hplace
      split at h
      next => cases h
      next hw => exact writeUser_wf (farWrite_wf hplace hw) h

theorem putReport_wf {x : BCmd} {a : Nat} {l : List Byte} {u : State} (h : s.putReport x a l = some u) : Memory.wf u.mem = true := by
  unfold State.putReport at h
  split at h
  · obtain ⟨q, -, rfl⟩ := Option.map_eq_some_iff.mp h
    exact hwf
  · exact writeUser_wf hwf h

@[simp] theorem attest_wf (x : BCmd) (l : List Byte) : Memory.wf (s.attest x l).mem = true := by
  simp only [State.attest]
  split
  next h => exact endCmd_wf (putReport_wf (by simpa using hwf) h) _ _
  next => exact endCmd_wf (by simpa using hwf) _ _

@[simp] theorem startJob_wf (l body : List Byte) (digest : BitVec 512) (frames : List (Nat × Nat × Bool)) (keys : Option (List Byte × List Byte)) :
    Memory.wf (s.startJob l body digest frames keys).mem = true := by simp [State.startJob, hwf]

@[simp] theorem jobResult_wf (l : List Byte) : Memory.wf (s.jobResult l).1.mem = true := by
  simp only [State.jobResult]; (repeat' split) <;> simp [hwf]

@[simp] theorem wipe_wf : Memory.wf s.wipe.mem = true := Memory.wf_filter _ hwf

/-! ## Operations of Machine/Graphs -/

@[simp] theorem loadFail_wf (x : Graph) (cmd : BCmd) : Memory.wf (s.loadFail gid x cmd).mem = true := by
  refine endCmd_wf ?_ _ _
  rw [foldl_keeps State.mem fun _ _ => State.modTile_mem _ _ _]
  simpa [freeGraph_mem] using hwf

@[simp] theorem loadDone_wf (x : Graph) (cmd : BCmd) : Memory.wf (s.loadDone gid x cmd).mem = true := by
  refine endCmd_wf ?_ _ _
  rw [foldl_keeps State.mem fun _ _ => beginTile_mem _ _ _ _]
  simpa using hwf

@[simp] theorem loadBegin_wf (c : BCmd) (l : List Byte) : Memory.wf (s.loadBegin c l).mem = true := by
  unfold State.loadBegin; (repeat' split) <;> simp [hwf]

@[simp] theorem freeEscFuts_wf (ids : List Nat) : Memory.wf (s.freeEscFuts ids).mem = true := by
  refine foldl_wf (fun _ _ h => foldl_wf (fun u _ hu => ?_) h _) hwf _
  split
  · exact futState_wf hu _ _ _
  · exact hu

@[simp] theorem endEscapes_wf (x : Graph) : Memory.wf (s.endEscapes gid x).mem = true := by
  simp only [State.endEscapes]
  rw [foldl_keeps State.mem fun _ _ => State.modTile_mem _ _ _, foldl_keeps State.mem fun _ _ => setGroup_mem _ _ _]
  refine freeEscFuts_wf ?_ _
  rw [foldl_keeps State.mem fun _ _ => ?_, foldl_keeps State.mem fun _ _ => setGroup_mem _ _ _]
  · exact hwf
  · split <;> simp

@[simp] theorem unloadBegin_wf (c : BCmd) (l : List Byte) : Memory.wf (s.unloadBegin c l).mem = true := by
  simp only [State.unloadBegin]; (repeat' split) <;> simp [hwf]

@[simp] theorem unloadDone_wf (g : Graph) (c : BCmd) : Memory.wf (s.unloadDone gid g c).mem = true := by
  simp [State.unloadDone, hwf, freeGraph_mem]

/-! ## Operations of Machine/Retire -/

@[simp] theorem loseTile_wf : Memory.wf (s.loseTile t).mem = true := by
  refine Memory.wf_filter _ ?_
  rw [foldl_keeps State.mem fun _ _ => State.setTcore_mem _ _ _, State.modTile_mem, foldl_keeps State.mem fun _ _ => faultRegion_mem _ _ _ _ _ _]
  exact hwf

@[simp] theorem loseUnit_wf (core : Bool) (n : Nat) : Memory.wf (s.loseUnit b core n).mem = true := by
  unfold State.loseUnit; split <;> simp [hwf]

@[simp] theorem dropCeased_wf (core : Bool) (bs : List (Nat × Nat)) : Memory.wf (s.dropCeased b core bs).mem = true := by
  unfold State.dropCeased; split <;> simp [hwf]

/-! ## Operations of Machine/Soft -/

@[simp] theorem struckOp_wf (m : MOp) (began : Nat) : Memory.wf (s.struckOp t k m began).mem = true := by
  unfold State.struckOp; (repeat' split) <;> simp [hwf]

/-! ## Operations of Machine/Turn -/

@[simp] theorem passSyncs_wf (n : Nat) : Memory.wf (s.passSyncs b n).mem = true :=
  foldl_wf (fun _ _ h => passSync_wf _ _ h) hwf _

@[simp] theorem elapse_wf (x : Move) : Memory.wf (s.elapse x).mem = true := by
  refine foldl_wf (fun _ _ h => passSyncs_wf (by simpa using h) _ _) ?_ _
  split <;> simpa using hwf

end

end Sys2Proof.Claims
end

section
/-!
PROOFS. What an instruction form makes of memory (R298): a shared operation keeps its canonical form where what it hands over to does.
A proof below has the shape of the definition that it is about.
-/
namespace Sys2Proof.Claims
open Sys2Proof.Machine

variable {s : State} {g : Nat} {o x y : Out}

/-- An outcome is a next state, and its memory has the canonical form if that of `s` has it. -/
def Kept (s : State) (o : Out) : Prop := Memory.wf s.mem = true → ∃ t, o = .next t ∧ Memory.wf t.mem = true

theorem kept_next {t : State} (h : Memory.wf s.mem = true → Memory.wf t.mem = true) : Kept s (.next t) := fun hwf => ⟨t, rfl, h hwf⟩

theorem kept_same {t : State} (h : t.mem = s.mem) : Kept s (.next t) := kept_next fun hwf => h ▸ hwf

/-- An outcome may be judged from any state whose memory is canonical when that of `s` is. -/
theorem Kept.mono {u : State} (h : Kept u o) (hu : Memory.wf s.mem = true → Memory.wf u.mem = true) : Kept s o := fun hwf => h (hu hwf)

theorem Kept.of_mem {u : State} (h : Kept u o) (hu : u.mem = s.mem) : Kept s o := h.mono fun hwf => hu ▸ hwf

theorem kept_ite {c : Prop} [Decidable c] (hx : Kept s x) (hy : Kept s y) : Kept s (if c then x else y) := by
  split
  · exact hx
  · exact hy

/-- What is read from a home of this device, or asked for of another. -/
theorem kept_home {home : Home} {far : Nat → Out} (hfar : ∀ dev, Kept s (far dev)) (hy : Kept s y) : Kept s (match home with
    | .remote dev => far dev
    | .dram | .aperture | .regs | .host => y) := by
  cases home
  case remote dev => exact hfar dev
  all_goals exact hy

theorem kept_unit {u : UnitRef} {f k : Nat → Out} (hf : ∀ g, Kept s (f g)) (hk : ∀ c, Kept s (k c)) : Kept s (match u with
    | .thread g => f g
    | .core c => k c) := by
  cases u with
  | thread g => exact hf g
  | core c => exact hk c

/-! ## Waiting and exceptions (R282, R304) -/

theorem kept_wait : Kept s s.wait := kept_same (by simp)

theorem kept_waitWalk {va : Nat} {kind : Access} : Kept s (s.waitWalk g va kind) := kept_wait.of_mem (by simp)

theorem kept_raise {cause : BitVec 8} {ev : Word} {b : Bool} : Kept s (s.raise cause ev b) :=
  kept_unit (fun _ => kept_same (by simp)) fun _ => kept_same (by simp)

theorem kept_und : Kept s s.und := kept_raise

theorem kept_priv : Kept s s.priv := kept_raise

theorem kept_pageNp {va : Word} : Kept s (s.pageNp va) :=
  kept_unit (fun _ => kept_ite (kept_same (by simp)) (kept_next fun h => future_wf h _ _)) fun _ => kept_same (by simp)

theorem kept_xlFault {cause : BitVec 8} {va : Word} : Kept s (s.xlFault cause va) := kept_ite kept_pageNp kept_raise

theorem kept_reportLink (h : Kept s o) : Kept s (s.reportLink g o) := by
  unfold State.reportLink
  split
  · exact h
  · exact kept_raise.of_mem (u := { s with iss := { s.iss with report := true } }) rfl

/-! ## Who may issue a form (R21, R40, R116) -/

theorem kept_swarm {k : Nat → Out} (h : ∀ g, Kept s (k g)) : Kept s (s.swarm k) := kept_unit h fun _ => kept_und

theorem kept_tileMode {k : Nat → Out} (h : ∀ c, Kept s (k c)) : Kept s (s.tileMode k) := kept_unit (fun _ => kept_und) h

theorem kept_super {k : Nat → Out} (h : ∀ g, Kept s (k g)) : Kept s (s.super k) :=
  kept_unit (fun g => kept_ite (h g) kept_priv) fun _ => kept_und

theorem kept_onlySv (h : Kept s o) : Kept s (s.onlySv g o) := kept_ite h kept_priv

theorem kept_plainly {k : State → Out} (h : ∀ t, Kept t (k t)) : Kept s (s.plainly k) :=
  kept_unit (fun _ => kept_ite (kept_ite ((h _).mono fun hwf => goPlain_wf hwf _) kept_wait) (h s)) fun _ => h s

/-! ## Accesses (R111, R112) -/

theorem kept_access {ea : Word} {n align : Nat} {rd wr : Bool} {form : NeedForm} {locks : Bool} {k : Phys → Out}
    (h : ∀ p, Kept s (k p)) : Kept s (s.access g ea n align rd wr form locks k) := by
  unfold State.access
  split
  · refine kept_ite kept_wait ?_
    split
    · exact kept_wait.of_mem (wakeBlk_mem ..)
    · exact h _
  · exact kept_waitWalk
  · exact kept_xlFault

theorem kept_lanes {eas : List Word} {rd wr : Bool} {k : List Phys → Out} (h : ∀ ps, Kept s (k ps)) : Kept s (s.lanes g eas rd wr k) := by
  unfold State.lanes
  split
  · refine kept_ite kept_wait ?_
    split
    · exact kept_wait.of_mem (wakeBlk_mem ..)
    · exact h _
  · exact kept_xlFault
  · exact kept_waitWalk

theorem kept_accessRange {ea : Word} {n align : Nat} {wr locks : Bool} {k : List (Nat × Nat × Phys) → Out} (h : ∀ ps, Kept s (k ps)) :
    Kept s (s.accessRange g ea n align wr locks k) := by
  refine kept_ite kept_pageNp (kept_ite kept_raise ?_)
  split
  · exact kept_ite kept_wait (h _)
  · exact kept_xlFault
  · exact kept_waitWalk

theorem kept_unspec {p : Phys} {k : State → Out} (h : ∀ t, Kept t (k t)) : Kept s (s.unspec p k) := kept_ite (kept_plainly h) (h s)

theorem kept_unspecAll {ps : List Phys} {k : State → Out} (h : ∀ t, Kept t (k t)) : Kept s (s.unspecAll ps k) :=
  kept_ite (kept_plainly h) (h s)

/-! ## Loads and stores (R114, R117 to R119, R126, R127) -/

theorem kept_loadN {p : Phys} {n : Nat} {k : State → Nat → Out} {far : Nat → Out} (h : ∀ t x, Kept t (k t x))
    (hfar : ∀ dev, Kept s (far dev)) : Kept s (s.loadN g p n k far) := by
  unfold State.loadN
  split
  · exact (h _ _).of_mem (by simp)
  split
  · exact kept_wait
  · exact h _ _
  · exact kept_home hfar (h _ _)

theorem kept_longS {d : SReg} {v : Word} : Kept s (.next (s.longS d v)) := kept_same (State.longS_mem ..)

theorem kept_farLong {p : Phys} {dev n form : Nat} {data : BitVec 256} {dest : Dest} {a : Arrive} {acq : Bool} :
    Kept s (.next (s.farLong g p dev n form data dest a acq)) := kept_same (by simp)

theorem kept_loadS {d : SReg} {ea : Word} {n : Nat} {sgn : Bool} : Kept s (s.loadS d ea n sgn) :=
  kept_swarm fun _ => kept_access fun _ => kept_unspec fun _ => kept_loadN (fun _ _ => kept_longS) fun _ => kept_farLong

theorem kept_buffer {es : List SbEntry} : Kept s (s.buffer g es) := kept_ite kept_wait (kept_same (by simp))

theorem kept_stores {es : List SbEntry} : Kept s (s.stores g es) := by
  unfold State.stores
  split
  · exact kept_ite (kept_plainly fun _ => kept_buffer) (kept_same (by simp))
  · exact kept_buffer

theorem kept_storeN {ea : Word} {n v : Nat} : Kept s (s.storeN ea n v) :=
  kept_swarm fun _ => kept_access fun _ => kept_unspec fun _ => kept_stores

theorem kept_gather {v : VReg} {ps : List (Word × Phys)} {miss : Bool} : Kept s (s.gather g v ps miss) := by
  unfold State.gather
  split
  · exact kept_same (by simp)
  split
  · exact kept_wait
  · exact kept_ite (kept_same (by simp)) (kept_same (by simp))

theorem kept_vgather {v o : VReg} {a : SReg} {sh : BitVec 2} {miss : Bool} : Kept s (s.vgather v a o sh miss) :=
  kept_swarm fun _ => kept_lanes fun _ => kept_unspecAll fun _ => kept_gather

theorem kept_amo {d a b : SReg} {w32 uns : Bool} {code : Nat} {f : Nat → Nat → Option Nat} : Kept s (s.amo d a b w32 uns code f) :=
  kept_swarm fun _ => kept_plainly fun _ => kept_access fun _ => kept_ite kept_wait <|
    kept_home (fun _ => kept_farLong.mono fun h => watchWord_wf h _ _) <| kept_next fun h => by
      rw [State.longS_mem]
      split
      · exact h
      · exact performWrite_wf h _ _ _ _ _

theorem kept_amoCas {d a b : SReg} {w32 : Bool} : Kept s (execAmoCas d a b w32 s) := by
  unfold execAmoCas
  exact kept_amo

theorem kept_red {a b : SReg} {w32 uns : Bool} {op : RedOp} : Kept s (s.red a b w32 uns op) :=
  kept_swarm fun _ => kept_plainly fun _ => kept_access fun _ => kept_buffer

theorem kept_ldAcq {d a : SReg} {imm : Imm} : Kept s (execLdAcq d a imm s) :=
  kept_swarm fun _ => kept_plainly fun _ => kept_access fun _ => kept_loadN (fun _ _ => kept_longS) fun _ => kept_farLong

theorem kept_stRel {d a : SReg} {imm : Imm} : Kept s (execStRel d a imm s) :=
  kept_swarm fun _ => kept_plainly fun _ => kept_reportLink <| kept_access fun _ => kept_ite kept_buffer kept_wait

theorem kept_acqL {d a : SReg} {imm : Imm} : Kept s (execAcqL d a imm s) :=
  kept_swarm fun _ => kept_plainly fun _ => kept_access fun _ => kept_ite kept_wait (kept_same (by simp))

theorem kept_relL {d a : SReg} {imm : Imm} : Kept s (execRelL d a imm s) :=
  kept_swarm fun _ => kept_plainly fun _ => kept_access fun _ => by
    split
    · exact kept_raise
    · exact kept_ite kept_wait <| kept_ite (kept_same (by simp)) <| kept_home (fun _ => kept_next fun h => by simp [h]) <|
        kept_next fun h => by simp [h]

theorem kept_waitR {d : SReg} : Kept s (execWaitR d s) :=
  kept_swarm fun _ => kept_plainly fun _ => by
    split
    · exact kept_same (by simp)
    · exact kept_ite (kept_same (by simp)) (kept_same (by simp))

theorem kept_fence {sc : Scope} : Kept s (execFence sc s) :=
  kept_swarm fun _ => kept_plainly fun t => by
    cases sc
    case thread => exact kept_same rfl
    case system => exact kept_reportLink (kept_ite (kept_same rfl) kept_wait)
    all_goals exact kept_ite (kept_same rfl) kept_wait

theorem kept_vld {v : VReg} {a : SReg} {imm : Imm} : Kept s (execVld v a imm s) :=
  kept_swarm fun _ => kept_access fun _ => kept_unspec fun _ => kept_loadN (fun _ _ => kept_same (by simp)) fun _ => kept_farLong

theorem kept_vscatter {v o : VReg} {a : SReg} {sh : BitVec 2} : Kept s (execVscatter v a o sh s) :=
  kept_swarm fun _ => kept_lanes fun _ => kept_unspecAll fun _ => kept_stores

theorem kept_pf {a : SReg} {imm : Imm} : Kept s (execPf a imm s) :=
  kept_swarm fun _ => by
    split
    · exact kept_unspec fun _ => kept_same (by split <;> simp)
    · exact kept_same rfl
    · exact kept_same rfl

/-! ## Threads and their ends (R205 to R215) -/

theorem kept_spawn {d a : SReg} {q : Quad} : Kept s (execSpawn d a q s) :=
  kept_swarm fun _ => kept_ite kept_und (kept_plainly fun _ => kept_same (by simp))

theorem kept_spawnT {d a : SReg} {q : Quad} : Kept s (execSpawnT d a q s) :=
  kept_swarm fun _ => kept_ite kept_und (kept_ite kept_raise (kept_same (by simp)))

theorem kept_callat {d a : SReg} {q : Quad} : Kept s (execCallat d a q s) :=
  kept_swarm fun _ => kept_ite kept_und <| kept_plainly fun _ => by
    split
    · exact kept_waitWalk
    · exact kept_raise
    · exact kept_same (by simp)

theorem kept_invoke {n : Nat} {d a : SReg} {q : Quad} : Kept s (s.invoke n d a q) :=
  kept_swarm fun _ => kept_ite kept_und <| kept_plainly fun _ => kept_ite kept_wait <| kept_same <| by
    split <;> simp

theorem kept_finish {reply : Bool} {d a b : SReg} : Kept s (s.finish reply d a b) :=
  kept_swarm fun g => kept_ite kept_wait <| by
    have hclose : (s.closeNow g).1.mem = s.mem := by simp
    dsimp only
    split
    · exact kept_same (by simp)
    · refine Kept.of_mem ?_ hclose
      exact kept_ite kept_priv (kept_ite (kept_same (by simp)) (kept_reportLink (kept_ite kept_wait (kept_same (by simp)))))

theorem kept_recv {d a : SReg} {imm : Imm} : Kept s (execRecv d a imm s) :=
  kept_swarm fun _ => kept_plainly fun _ => kept_access fun _ =>
    kept_ite kept_wait (kept_home (fun _ => kept_same (by simp)) (kept_ite (kept_same (by simp)) (kept_same (by simp))))

theorem kept_abq {d : SReg} : Kept s (execAbq d s) := kept_swarm fun _ => by
  split
  · exact kept_same (by simp)
  · exact kept_same (by simp)

/-! ## System forms (R216 to R227) -/

theorem kept_csrr {d : SReg} {n : BitVec 12} : Kept s (execCsrr d n s) :=
  kept_ite kept_und (kept_unit (fun _ => kept_ite kept_priv (kept_same (by simp))) fun _ => kept_same (by simp))

theorem kept_csrw {n : BitVec 12} {a : SReg} : Kept s (execCsrw n a s) :=
  kept_ite kept_und (kept_unit (fun _ => kept_ite kept_priv (kept_plainly fun _ => kept_same (by simp))) fun _ => kept_same (by simp))

theorem kept_preempt {d a : SReg} {want : PState} {tile : Bool} {act : State → SlotName → Nat → State}
    (hact : ∀ (u : State) n k, (act u n k).mem = u.mem) : Kept s (s.preempt d a want tile act) :=
  kept_swarm fun _ => kept_ite kept_und <| kept_onlySv <| kept_ite kept_longS <| kept_ite kept_longS <| kept_same <| by
    rw [State.long, State.setCtx_mem, foldl_keeps State.mem fun _ _ => ?_]
    · rfl
    · split
      · exact hact _ _ _
      · rfl

theorem kept_farImage {d : SReg} {slot dev : Nat} {save : Bool} {l : List Byte} {ps : List (Nat × Nat × Phys)} :
    Kept s (s.farImage g d slot dev save l ps) := by
  unfold State.farImage
  dsimp only
  split
  next => exact kept_same (by simp [State.long])
  next h => exact kept_same (by simp [State.long, sendImage_mem _ _ _ _ _ _ _ h])

theorem kept_ctxSave {d a : SReg} {imm : Imm} : Kept s (execCtxSave d a imm s) :=
  kept_swarm fun _ => kept_ite kept_und <| kept_onlySv <| kept_plainly fun _ => kept_accessRange fun _ =>
    kept_ite kept_longS <| kept_ite kept_wait <| by
      split
      · exact kept_farImage
      · exact kept_next fun h => by simpa [saveFree_mem] using writeParts_wf _ _ _ h

theorem kept_ctxLoad {d a : SReg} {imm : Imm} : Kept s (execCtxLoad d a imm s) :=
  kept_swarm fun _ => kept_ite kept_und <| kept_onlySv <| kept_plainly fun _ => kept_accessRange fun _ =>
    kept_ite kept_wait <| by
      split
      · exact kept_farImage
      · exact kept_next fun h => by simp [h]

/-! ## Engine forms (R193, R199 to R204) -/

theorem kept_xferNow {d : SReg} {port : Nat} {w pb : List Word} : Kept s (s.xferNow g d port w pb) := by
  unfold State.xferNow
  split
  · exact kept_und
  · exact kept_ite kept_und <| kept_ite kept_wait <| kept_ite (kept_same (by simp)) <| kept_ite kept_wait <|
      kept_ite (kept_same (by simp)) (kept_same (by simp [takeCmd_mem]))

theorem kept_gatherParts {k : List Byte → Out} (h : ∀ l, Kept s (k l)) : ∀ (ps : List (Nat × Nat × Phys)) (acc : List Byte),
    Kept s (s.gatherParts g ps acc k)
  | [], acc => h acc
  | (_, _, _) :: l, _ =>
    kept_home (fun _ => by
      split
      · exact kept_gatherParts h l _
      split
      next hask => exact kept_wait.of_mem (askPart_mem _ _ _ hask)
      next => exact kept_raise) (kept_gatherParts h l _)

theorem kept_readBlock {va n : Nat} {k : List Byte → Out} (h : ∀ l, Kept s (k l)) : Kept s (s.readBlock g va n k) := by
  unfold State.readBlock
  split
  · exact kept_ite kept_wait (kept_gatherParts h _ _)
  · exact kept_xlFault
  · exact kept_waitWalk

theorem kept_xfer {d : SReg} {q : Quad} {port : BitVec 2} : Kept s (execXfer d q port s) :=
  kept_swarm fun _ => kept_plainly fun _ => kept_ite kept_und <|
    kept_ite (kept_ite kept_pageNp (kept_readBlock fun _ => kept_xferNow)) kept_xferNow

theorem kept_syncSet {a b : SReg} : Kept s (execSyncSet a b s) :=
  kept_ite kept_und <| kept_unit
    (fun _ => kept_plainly fun _ => kept_access fun _ => kept_ite kept_wait <|
      kept_home (fun _ => kept_farLong.mono fun h => watchWord_wf h _ _) <|
        kept_next fun h => syncSetAt_wf (by simpa [syncPend_mem] using h) _ _ _ _ _ _)
    fun _ => kept_ite kept_und <| kept_ite kept_wait <| kept_next fun h => syncSet_wf (by simpa [syncPend_mem] using h) _ _ _ _

theorem kept_syncArrive {d a b : SReg} : Kept s (execSyncArrive d a b s) :=
  kept_ite kept_und <| kept_unit
    (fun _ => kept_plainly fun _ => kept_access fun _ => kept_ite kept_wait <|
      kept_home (fun _ => kept_farLong.mono fun h => watchWord_wf h _ _) <|
        kept_next fun h => syncArriveAt_wf (by simpa [syncPend_mem] using h) _ _ _ _ _)
    fun _ => kept_ite kept_und <| kept_ite kept_wait <| kept_next fun h => syncLand_wf (by simpa [syncPend_mem] using h) _ _ _ _

theorem kept_syncWait {d a b : SReg} : Kept s (execSyncWait d a b s) :=
  kept_ite kept_und <| kept_unit
    (fun _ => kept_plainly fun _ => kept_access fun _ =>
      kept_ite kept_wait (kept_home (fun _ => kept_same (by simp)) (kept_ite (kept_same (by simp)) (kept_same (by simp)))))
    fun _ => kept_ite kept_und (kept_ite kept_wait (kept_ite (kept_same (by simp)) (kept_same (by simp))))

theorem kept_pcompThread {d : SReg} {t : Nat} {w : List Word} : Kept s (s.pcompThread g d t w) :=
  kept_access fun _ => by
    dsimp only
    split
    · exact kept_same (by simp)
    · exact kept_ite kept_longS <| kept_ite kept_wait <| kept_next fun h => by
        rw [State.longS_mem]
        exact queueMem_wf (by simpa using h) _ _ _ _ _ _ _

theorem kept_pcompCore {k : Nat} {d : SReg} {t : Nat} {w : List Word} : Kept s (s.pcompCore k d t w) := by
  unfold State.pcompCore
  split
  · exact kept_und
  · exact kept_ite kept_und <| kept_ite kept_wait <| kept_same <| by
      rw [drainPort_mem, State.longS_mem, State.modTcore_mem]
      split <;> simp

theorem kept_pcomp {d : SReg} {q : Quad} {tile : BitVec 5} : Kept s (execPcomp d q tile s) :=
  kept_ite kept_und <| kept_unit (fun _ => kept_ite kept_und (kept_plainly fun _ => kept_pcompThread)) fun _ =>
    kept_ite kept_und kept_pcompCore

/-! ## Streams, rings and escapes (R160 to R179) -/

theorem kept_modTcore_wait {k : Nat} {f : TCore → TCore} : Kept s (s.modTcore k f).wait := kept_wait.of_mem (State.modTcore_mem ..)

theorem kept_withPort {k port : Nat} {f : State → Flit → Out} (h : ∀ t x, Kept t (f t x)) : Kept s (s.withPort k port f) := by
  unfold State.withPort
  split
  · exact kept_und
  · refine kept_ite kept_und (kept_ite kept_wait ?_)
    split
    · exact (h _ _).of_mem (State.modTcore_mem ..)
    · exact kept_modTcore_wait

theorem kept_waitRoom {k key : Nat} : Kept s (s.waitRoom k key) := kept_modTcore_wait

theorem kept_send {k : Nat} {ok : OutRoute → Bool} {f : Flit} : Kept s (s.send k ok f) := by
  unfold State.send
  split
  · exact kept_und
  · exact kept_ite kept_und (kept_ite kept_waitRoom (kept_same (by simp)))

theorem kept_rqpush {ring : BitVec 4} {v : VReg} {b : SReg} : Kept s (execRqpush ring v b s) :=
  kept_tileMode fun _ => by
    dsimp only
    split
    · exact kept_und
    · exact kept_ite kept_und (kept_ite kept_waitRoom (kept_ite kept_wait (kept_next fun h => putRing_wf h _ _ _ _)))

theorem kept_rqpop {v : VReg} {ring : BitVec 4} {b : SReg} : Kept s (execRqpop v ring b s) :=
  kept_tileMode fun _ => by
    dsimp only
    split
    · exact kept_und
    split
    · exact kept_modTcore_wait
    · exact kept_ite kept_wait (kept_same (by simp))

theorem kept_escape {d : SReg} {v : VReg} {node : Nat} {ordered : Bool} : Kept s (s.escape d v node ordered) :=
  kept_tileMode fun _ => by
    split
    · exact kept_und
    split
    · exact kept_und
    · exact kept_ite kept_waitRoom (kept_ite kept_und (kept_same (by simp)))

/-! ## Matrix forms (R180 to R192) -/

theorem kept_queueMat {k : Nat} {kind : MKind} : Kept s (s.queueMat k kind) := kept_ite kept_wait (kept_same (by simp))

theorem kept_gangIssue {a b : Family} : Kept s (s.gangIssue a b) := kept_tileMode fun _ => kept_ite kept_queueMat kept_und

theorem kept_sparseIssue {a b : SReg} {now : Bool} : Kept s (s.sparseIssue a b now) :=
  kept_tileMode fun _ => by
    split
    · exact kept_und
    · exact kept_ite kept_und (kept_ite kept_wait kept_queueMat)

theorem kept_mdrain {a : SReg} {v : VReg} : Kept s (execMdrain a v s) :=
  kept_tileMode fun _ => by
    dsimp only
    split
    · exact kept_und
    · exact kept_ite kept_und kept_queueMat

theorem kept_mdset {imm : Imm} : Kept s (execMdset imm s) := kept_tileMode fun _ => by
  split
  · exact kept_und
  · exact kept_same (by simp)

end Sys2Proof.Claims
end

section
/-!
PROOFS. What an event makes of memory (R298): the events whose outcome a shared operation gives, and then every instruction.
-/
namespace Sys2Proof.Claims
open Sys2Proof.Machine

variable {s : State} {g : Nat} {o x y : Out}

/-! ## Events whose outcome a shared operation gives -/

theorem walkFills_wf (x : TlbEntry) (l : List Walker) (hwf : Memory.wf s.mem = true) :
    Memory.wf (l.foldl (fun s who => s.walkFill x who) s).mem = true :=
  foldl_wf (fun _ _ h => by simpa using h) hwf l

theorem kept_tlbWalk (b i : Nat) : Kept s (execTlbWalk b i s) := by
  unfold execTlbWalk
  split
  · exact kept_same rfl
  refine kept_ite (kept_same rfl) ?_
  split
  next => exact kept_same (by simp only [foldl_keeps State.mem fun _ _ => walkFailed_mem _ _ _ _, State.modBlk_mem])
  · exact kept_next fun h => walkFills_wf _ _ (walkMark_wf (s := s.modBlk b _) h _ _ _)

theorem kept_storePerform (g : Nat) : Kept s (execStorePerform g s) := by
  unfold execStorePerform
  split
  · exact kept_same rfl
  refine kept_ite (kept_same rfl) ?_
  split
  · exact kept_next fun h => storeFar_wf h _ _ _
  · exact kept_same (by simp)
  · exact kept_next fun h => performEntry_wf h _ _
  · exact kept_same (by simp)
  all_goals exact kept_next fun h => edge_wf h fun _ hu => performEntry_wf hu _ _

theorem kept_gateOpen (b port : Nat) : Kept s (execGateOpen b port s) := by
  unfold execGateOpen
  dsimp only
  split
  · exact kept_same rfl
  refine kept_ite ?_ (kept_same rfl)
  split
  · exact kept_same rfl
  · exact kept_same (gateRead_mem _ _)
  · exact kept_next fun h => xParts_wf _ (fun _ _ hu => by rwa [gateRead_mem]) _ _ h

theorem kept_flitForward (r : Nat) (dir : Dir) (vc : BitVec 2) : Kept s (execFlitForward r dir vc s) := by
  unfold execFlitForward
  split
  · exact kept_same rfl
  refine kept_ite (kept_same rfl) (kept_ite (kept_same (by simp)) ?_)
  dsimp only
  split
  · exact kept_same (by simp)
  · exact kept_ite (kept_same (by rw [foldl_keeps State.mem fun _ _ => hop_mem _ _ _ _, setLink_mem])) (kept_same rfl)

theorem kept_portTokenArrival (k port : Nat) : Kept s (execPortTokenArrival k port s) := by
  unfold execPortTokenArrival
  dsimp only
  split
  · exact kept_same rfl
  refine kept_ite (kept_same rfl) (kept_same ?_)
  rw [drainPort_mem, State.modTcore_mem]
  split <;> simp

theorem kept_escapeReentry (t node : Nat) : Kept s (execEscapeReentry t node s) := by
  unfold execEscapeReentry
  dsimp only
  split
  · exact kept_same rfl
  refine kept_ite (kept_same ?_) (kept_same rfl)
  split
  · simp
  · simp [drainPort_mem]

theorem kept_graphEnd (gid : Nat) : Kept s (execGraphEnd gid s) := by
  unfold execGraphEnd
  split
  · exact kept_same rfl
  · exact kept_ite (kept_same (freeGraph_mem)) (kept_same rfl)

theorem kept_coldReset : Kept s (execColdReset s) := kept_next fun h => Memory.wf_filter _ h

theorem kept_spillDraw (q : Nat) : Kept s (execSpillDraw q s) := by
  unfold execSpillDraw
  refine kept_ite (kept_same rfl) ?_
  split
  next hd => exact kept_next fun h => headDraw_later_wf h hd
  next hd =>
    split
    · exact kept_next fun h => by simpa using headDraw_now_wf h hd
    · exact kept_next fun h => by simpa using headDraw_now_wf h hd
    · exact kept_next fun h => headDraw_now_wf h hd

theorem kept_bar2Read (port off n : Nat) (ide : Bool) : Kept s (execBar2Read port off n ide s) := by
  unfold execBar2Read
  refine kept_ite (kept_same rfl) (kept_ite (kept_same (by simp)) (kept_ite (kept_same rfl) ?_))
  split
  next => exact kept_same (by simp)
  next hp =>
    refine kept_ite (kept_same (by simp)) ?_
    split
    next hread => exact kept_next fun h => by simpa [farRead_got_mem hread] using barPlace_wf h hp
    next hread => exact kept_next fun h => by simpa [farRead_wait_mem hread] using barPlace_wf h hp
    next => exact kept_next fun h => by simpa using barPlace_wf h hp

theorem kept_bar2Write (port off : Nat) (ide : Bool) (data : List Byte) : Kept s (execBar2Write port off ide data s) := by
  unfold execBar2Write
  refine kept_ite (kept_same rfl) (kept_ite (kept_same (by simp)) (kept_ite (kept_same rfl) ?_))
  split
  next => exact kept_same (by simp)
  next hp =>
    refine kept_ite (kept_same (by simp)) ?_
    split
    next hw => exact kept_next fun h => by simpa using farWrite_wf (barPlace_wf h hp) hw
    next => exact kept_next fun h => by simpa using barPlace_wf h hp

theorem kept_boundary {k : State → State} (hk : ∀ u : State, (k u).mem = u.mem) : Kept s (s.boundary g k) :=
  kept_ite (kept_same (by split <;> simp [hk])) (kept_same rfl)

theorem kept_haltTaken : Kept s (s.haltTaken g) :=
  kept_ite (kept_same (by simp)) (kept_boundary fun _ => State.modThread_mem _ _ _)

theorem kept_preemptTrapTaken {rest : List Due} : Kept s (s.preemptTrapTaken g rest) :=
  kept_ite (kept_same rfl) <| kept_ite (kept_same (by simp)) <| kept_boundary fun _ => by simp

theorem kept_preemptHaltTaken (u : UnitRef) : Kept s (execPreemptHaltTaken u s) :=
  kept_unit
    (fun _ => by
      dsimp only
      split
      · exact kept_same rfl
      split
      iterate 3 exact kept_ite kept_preemptTrapTaken kept_haltTaken
      all_goals exact kept_same rfl)
    fun _ => kept_ite (kept_same rfl) (kept_same (by simp))

theorem kept_completionDiversion (g : Nat) : Kept s (execCompletionDiversion g s) :=
  kept_ite (kept_ite (kept_same (by simp)) (kept_boundary fun _ => State.modThread_mem _ _ _)) (kept_same rfl)

theorem kept_agenRun {m : Nat} {a : Agen} (h : Kept s o) : Kept s (s.agenRun m a o) := by
  unfold State.agenRun
  split
  · exact kept_ite (kept_same rfl) (kept_next fun h => stallAgen_wf h _ _ _)
  · exact kept_ite h (kept_same rfl)

theorem kept_agenLoadToken (m : Nat) : Kept s (execAgenLoadToken m s) := by
  unfold execAgenLoadToken
  split
  · exact kept_same rfl
  refine kept_ite (kept_same rfl) (kept_agenRun ?_)
  split
  · exact kept_same (by simp)
  · exact kept_ite (kept_next fun h => agenRead_wf h _ _) (kept_same rfl)

theorem kept_agenStoreToken (m : Nat) : Kept s (execAgenStoreToken m s) := by
  unfold execAgenStoreToken
  split
  · exact kept_same rfl
  refine kept_ite (kept_same rfl) (kept_agenRun ?_)
  split
  · exact kept_same rfl
  · exact kept_ite (kept_same (by simp)) (kept_next fun h => agenWrite_wf h _ _ _)

theorem kept_doneArrival (m : Nat) : Kept s (execDoneArrival m s) := by
  unfold execDoneArrival
  split
  · exact kept_same rfl
  refine kept_ite (kept_same rfl) (kept_agenRun ?_)
  split
  · exact kept_same rfl
  · exact kept_next fun h => agenArrive_wf h _ _ _

/-! ## Commands of the device (R379 to R384) -/

theorem reqRead_got_mem {c : BCmd} {n : Nat} {l : List Byte} {u : State} (h : s.reqRead c n = .got l u) : u.mem = s.mem := by
  unfold State.reqRead at h
  split at h
  · exact farRead_got_mem h
  · split at h <;> cases h
    rfl

theorem reqRead_wait_mem {c : BCmd} {n : Nat} {u : State} (h : s.reqRead c n = .wait u) : u.mem = s.mem := by
  unfold State.reqRead at h
  split at h
  · exact farRead_wait_mem h
  · split at h <;> cases h

theorem kept_withReq {c : BCmd} {n : Nat} {k : List Byte → State → State}
    (hk : ∀ l (u : State), Memory.wf u.mem = true → Memory.wf (k l u).mem = true) : Kept s (s.withReq c n k) := by
  unfold State.withReq
  split
  next hread => exact kept_next fun h => hk _ _ (by rwa [reqRead_got_mem hread])
  next hread => exact kept_same (reqRead_wait_mem hread)
  next => exact kept_same (by simp)

theorem kept_graphLoad : Kept s (execGraphLoad s) := by
  unfold execGraphLoad
  split
  · split
    · exact kept_same rfl
    · exact kept_ite (kept_next fun h => loadFail_wf h _ _ _) (kept_ite (kept_next fun h => loadDone_wf h _ _ _) (kept_same rfl))
  · exact kept_same rfl
  · split
    · exact kept_same rfl
    · exact kept_withReq fun _ _ h => loadBegin_wf h _ _

theorem kept_graphUnload : Kept s (execGraphUnload s) := by
  unfold execGraphUnload
  split
  · split
    · exact kept_same rfl
    · exact kept_ite (kept_same rfl) (kept_ite (kept_next fun h => unloadDone_wf h _ _ _) (kept_same (by simp)))
  · exact kept_same rfl
  · split
    · exact kept_same rfl
    · exact kept_withReq fun _ _ h => unloadBegin_wf h _ _

theorem kept_verifyImage : Kept s (execVerifyImage s) := by
  unfold execVerifyImage
  split
  · exact kept_same rfl
  · exact kept_withReq fun _ _ h => endCmd_wf (verify_wf h _) _ _

theorem kept_attestationReport : Kept s (execAttestationReport s) := by
  unfold execAttestationReport
  split
  · exact kept_same rfl
  · exact kept_withReq fun _ _ h => attest_wf h _ _

theorem kept_jobStart : Kept s (execJobStart s) := by
  unfold execJobStart
  split
  · exact kept_same rfl
  · exact kept_withReq fun _ _ h => endCmd_wf (jobResult_wf h _) _ _

/-! ## Every instruction -/

/-- An event keeps memory canonical: in each branch of it, what the operations that it is made of do to memory. -/
theorem exec_event_kept (i : Instr) (s : State) (h : isEvent i = true) : Kept s (exec i s) := by
  cases i <;> cases h
  case tlbWalk => exact kept_tlbWalk _ _
  case storePerform => exact kept_storePerform _
  case gateOpen => exact kept_gateOpen _ _
  case flitForward => exact kept_flitForward _ _ _
  case portTokenArrival => exact kept_portTokenArrival _ _
  case escapeReentry => exact kept_escapeReentry _ _
  case graphEnd => exact kept_graphEnd _
  case coldReset => exact kept_coldReset
  case spillDraw => exact kept_spillDraw _
  case bar2Read => exact kept_bar2Read _ _ _ _
  case bar2Write => exact kept_bar2Write _ _ _ _
  case preemptHaltTaken => exact kept_preemptHaltTaken _
  case completionDiversion => exact kept_completionDiversion _
  case agenLoadToken => exact kept_agenLoadToken _
  case agenStoreToken => exact kept_agenStoreToken _
  case doneArrival => exact kept_doneArrival _
  case graphLoad => exact kept_graphLoad
  case graphUnload => exact kept_graphUnload
  case verifyImage => exact kept_verifyImage
  case attestationReport => exact kept_attestationReport
  case jobStart => exact kept_jobStart
  all_goals
    unfold exec
    dsimp only
    dsimp only [execResultCommit, execWindowForcedClose, execThreadWake, execWfitDeadline, execRemoteAck, execCombineWindowExpiry,
      execRecordArrival, execRotundaAdmit, execRecordPromotion, execTaskConflictAbort, execTaskPlainRestart, execTaskCommit,
      execCommandEntry, execBusyRetry, execTransferStart, execTransferWrite, execRangeLockRelease, execTransferCompletion,
      execViaTransferFinish, execSyncUpdateCycle, execSyncCarryEval, execStreamerSend, execRingPlace, execPlacingAreaWrite,
      execInboundStreamerWrite, execConverterFiring, execAdderPair, execMatrixOpStart, execMatrixOpEnd, execStallLimit,
      execContextSwitch, execConfigurationFlit, execSpliceSwitch, execSpliceMarker, execFaultNotice, execFaultRecordWrite,
      execFutureResolve, execCompileStart, execCompileEnd, execMailboxWrite, execInvokeRetry, execInvokeTimeout, execReplyResend,
      execAnswerFrame, execPacketReceive, execFrameReceive, execRetryRequest, execIdleFrame, execFrameForward, execPortRetrain,
      execPortDown, execDownPortRetrain, execCampanileSlew, execClockStretch, execPowerGate, execBlockWake, execBucketRefill,
      execEffAdjust, execThermalShutdown, execPhaseComplete, execPcieHotReset, execPostingWrite, execReplyRingWrite,
      execReplyRingRetry, execSetWrite, execFqbaseWrite, execWatchConfigWrite, execRegisterWrite, execJobEnd, execPlannedRetirement,
      execFailedRetirement, execSupplyDroopEnd, execRetrainComplete, execSpdmRequest]
    (repeat' split) <;> exact kept_next fun h => by simp [h]

/-- A form keeps memory canonical: it writes registers, or goes through a shared operation. -/
theorem exec_form_kept (i : Instr) (s : State) (h : isEvent i = false) : Kept s (exec i s) := by
  cases i <;> cases h
  case ldb | ldbu | ldh | ldhu | ldw | ldwu | ldd => exact kept_loadS
  case stb | sth | stw | std | vst => exact kept_storeN
  case amoAdd d a b w => exact (kept_amo : Kept s (execAmoAdd d a b w s))
  case amoSwap d a b w => exact (kept_amo : Kept s (execAmoSwap d a b w s))
  case amoCas d a b w => exact kept_amoCas
  case amoMin d a b w uns => exact (kept_amo : Kept s (execAmoMin d a b w uns s))
  case amoMax d a b w uns => exact (kept_amo : Kept s (execAmoMax d a b w uns s))
  case amoAnd d a b w => exact (kept_amo : Kept s (execAmoAnd d a b w s))
  case amoOr d a b w => exact (kept_amo : Kept s (execAmoOr d a b w s))
  case amoXor d a b w => exact (kept_amo : Kept s (execAmoXor d a b w s))
  case redAdd | redMin | redMax | redAnd | redOr | redXor | redFaddW => exact kept_red
  case ldAcq => exact kept_ldAcq
  case stRel => exact kept_stRel
  case acqL => exact kept_acqL
  case relL => exact kept_relL
  case waitR => exact kept_waitR
  case fence => exact kept_fence
  case vld => exact kept_vld
  case vgather => exact kept_vgather
  case vscatter => exact kept_vscatter
  case pf => exact kept_pf
  case spawn => exact kept_spawn
  case spawnT => exact kept_spawnT
  case callat => exact kept_callat
  case invoke | invokeW | invokeT => exact kept_invoke
  case quit | reply => exact kept_finish
  case recv => exact kept_recv
  case abq => exact kept_abq
  case trap => exact kept_swarm fun _ => kept_plainly fun _ => kept_priv
  case eret | halt => exact kept_super fun _ => kept_same (by simp)
  case uret => exact kept_swarm fun _ => kept_ite (kept_same (by simp)) kept_und
  case undBundle => exact kept_raise
  case csrr => exact kept_csrr
  case csrw => exact kept_csrw
  case wfi | wfit => exact kept_swarm fun _ => kept_plainly fun _ => kept_same (by simp)
  case tlbi => exact kept_super fun _ => kept_ite kept_wait (kept_same (tlbInval_mem _ _ _))
  case icinv => exact kept_swarm fun _ => kept_plainly fun _ => kept_ite kept_wait (kept_same (by simp))
  case preemptHalt d a => exact (kept_preempt fun _ _ _ => by simp : Kept s (execPreemptHalt d a s))
  case preemptTrap d a => exact (kept_preempt fun _ _ _ => by simp : Kept s (execPreemptTrap d a s))
  case preemptResume d a => exact (kept_preempt fun _ _ _ => by simp : Kept s (execPreemptResume d a s))
  case ctxSave => exact kept_ctxSave
  case ctxLoad => exact kept_ctxLoad
  case xfer => exact kept_xfer
  case syncSet => exact kept_syncSet
  case syncArrive => exact kept_syncArrive
  case syncWait => exact kept_syncWait
  case fetcht d job ext => exact (kept_plainly fun _ => kept_same (by simp) : Kept s (execFetcht d job ext s))
  case fetchtQ d job ext => exact (kept_plainly fun _ => kept_same (by simp) : Kept s (execFetchtQ d job ext s))
  case fetchtLd => exact kept_ite kept_und (kept_plainly fun _ => kept_same (by simp))
  case pcomp => exact kept_pcomp
  case srecv | speek | spred => exact kept_tileMode fun _ => kept_withPort fun _ _ => kept_same (by simp [popPort_mem])
  case ssend => exact kept_tileMode fun _ => kept_ite kept_und kept_send
  case sstop => exact kept_tileMode fun _ => kept_send
  case ssteer | ctxsw => exact kept_tileMode fun _ => kept_ite kept_und (kept_same (by simp))
  case smerge | ssplit | mdadv | mdadvR => exact kept_tileMode fun _ => kept_same (by simp)
  case rqpush => exact kept_rqpush
  case rqpop => exact kept_rqpop
  case esc | escO => exact kept_escape
  case mgPp | mgPe | mgEp | mgEe | mgGp | mgGe => exact kept_gangIssue
  case mzero => exact kept_tileMode fun _ => kept_queueMat
  case mdrain => exact kept_mdrain
  case acpy => exact kept_tileMode fun _ => kept_ite kept_und kept_queueMat
  case mspx | mspxN => exact kept_sparseIssue
  case mdset => exact kept_mdset
  case beq | bne | blt | bge | bltu | bgeu | jal | bany | bnone | rlq => exact kept_swarm fun _ => kept_same (by simp)
  case jalr => exact kept_swarm fun _ => kept_ite kept_raise (kept_same (by simp))
  case bext | bextu | bins | lea => exact kept_ite kept_und (kept_same (by simp))
  case vredSum | vgmask => exact kept_ite (kept_same (by simp)) (kept_same (by simp))
  case vmovs => exact kept_ite (kept_same (by simp)) (kept_ite (kept_same (by simp)) (kept_same (by simp)))
  all_goals exact kept_same (by simp)

theorem exec_kept (i : Instr) (s : State) : Kept s (exec i s) := by
  cases h : isEvent i with
  | true => exact exec_event_kept i s h
  | false => exact exec_form_kept i s h

end Sys2Proof.Claims
end

section
/-!
PROOFS. What a step makes of memory (R298): data that are struck, the bundle of a turn, and turns and moves.
-/
namespace Sys2Proof.Claims
open Sys2Proof.Machine

variable {s : State} {g : Nat} {o x y : Out}

/-! ## Data that are struck (R2, R37, R134) -/

theorem kept_after {f : State → State} (h : Kept s o) (hf : ∀ u : State, (f u).mem = u.mem) : Kept s (Out.after o f) := fun hwf => by
  obtain ⟨t, rfl, ht⟩ := h hwf
  exact ⟨_, rfl, (hf t).symm ▸ ht⟩

theorem kept_struckLoad {k : Nat} {ea : Word} (h : Kept s o) : Kept s (s.struckLoad k ea o) := fun hwf => by
  obtain ⟨t, rfl, ht⟩ := h hwf
  exact kept_same (strikeNew_mem _ _ _ _) ht

theorem kept_struckAmo {k : Nat} {d a : SReg} {i : Instr} : Kept s (s.struckAmo k d a i) :=
  kept_plainly fun u hwf => by
    obtain ⟨t, ht, hkept⟩ := exec_kept i u hwf
    simp only [ht]
    split
    · exact kept_same (by simp) hwf
    · exact kept_same (strikeNew_mem _ _ _ _) hkept

theorem kept_struckForm {ea : Word} (h : Kept s o) : Kept s (s.struckForm ea o) := fun hwf => by
  obtain ⟨t, rfl, ht⟩ := h hwf
  exact kept_ite kept_raise (kept_next fun _ => ht) hwf

theorem kept_struckMeta {b k : Nat} (h : Kept s o) : Kept s (s.struckMeta b k o) := fun hwf => by
  obtain ⟨t, rfl, ht⟩ := h hwf
  exact kept_ite (kept_same (State.modBlk_mem ..)) (kept_same rfl) ht

theorem kept_struckSlot {k : Nat} {i : Instr} : Kept s (s.struckSlot k i) := by
  have h := exec_kept i s
  cases i
  case ldb | ldbu | ldh | ldhu | ldw | ldwu | ldd | vld | acqL | ldAcq | vgather => exact kept_struckLoad h
  case amoAdd | amoSwap | amoCas | amoMin | amoMax | amoAnd | amoOr | amoXor => exact kept_struckAmo
  case ctxLoad | recv | syncWait | syncArrive | srecv | speek | spred | rqpop => exact kept_struckForm h
  case xfer => exact kept_ite (kept_struckForm h) h
  case pcomp => exact kept_struckMeta h
  all_goals exact h

theorem kept_missSlot {i : Instr} : Kept s (s.missSlot i) := fun hwf => by
  obtain ⟨t, ht, hkept⟩ := exec_kept i s hwf
  unfold State.missSlot
  split
  · exact kept_vgather hwf
  · rw [ht]
    split
    next hnext =>
      cases hnext
      refine kept_same ?_ hkept
      split
      · exact missLoad_mem _ _ _ _
      · rfl
    next => exact kept_same rfl hkept

theorem kept_lostSlot {port : BitVec 4} {i : Instr} : Kept s (s.lostSlot port i) := fun hwf => by
  obtain ⟨t, ht, hkept⟩ := exec_kept i s hwf
  unfold State.lostSlot
  rw [ht]
  cases s.cur with
  | thread g => exact kept_same (by simp only [apply_ite State.mem, State.setCtx_mem, ite_self]) hkept
  | core k => exact kept_same rfl hkept

/-- Slot A, whatever befalls the data of its move. -/
theorem kept_slotA {e : Soft} {i : Instr} : Kept s (s.slotA e i) := by
  cases e with
  | data => exact kept_struckSlot
  | miss => exact kept_missSlot
  | lost => exact kept_lostSlot
  | clean | fetch | file | operand => exact exec_kept i s

theorem kept_struckTransfer {id : Nat} (h : Kept s o) : Kept s (s.struckTransfer id o) := fun hwf => by
  obtain ⟨t, rfl, ht⟩ := h hwf
  unfold State.struckTransfer
  split
  next hnext =>
    cases hnext
    split
    · split
      · exact kept_same (endXfer_mem _ _ _ _ _) hwf
      · exact kept_same rfl ht
    · exact kept_same rfl ht
  next => exact kept_same rfl ht

theorem kept_struckGate {xp : Nat} (h : Kept s o) : Kept s (s.struckGate xp o) := by
  unfold State.struckGate
  split
  · exact h
  refine kept_ite ?_ h
  split
  · exact h
  · exact kept_same (endXfer_mem _ _ _ _ _)
  · split
    · exact kept_same (endXfer_mem _ _ _ _ _)
    · exact h
    · exact h

theorem kept_struckCmd {xp : Nat} {find : List Arriving → Option Nat} (h : Kept s o) : Kept s (s.struckCmd xp find o) := fun hwf => by
  obtain ⟨t, rfl, ht⟩ := h hwf
  unfold State.struckCmd
  dsimp only
  split
  next hnext =>
    cases hnext
    split
    · exact kept_same rfl ht
    split
    · split
      · exact kept_same (by simp) hwf
      all_goals exact kept_same rfl ht
    · exact kept_same rfl ht
  next => exact kept_same rfl ht

theorem kept_struckInbox {t : Nat} {q : Consumer → Bool} : Kept s (s.struckInbox t q) := by
  unfold State.struckInbox
  split
  · exact kept_same rfl
  · exact kept_same (by simp)

theorem kept_struckVia {t : Nat} (h : Kept s o) : Kept s (s.struckVia t o) := by
  unfold State.struckVia
  split
  · exact h
  split
  · exact h
  · exact kept_ite h (kept_same (by simp))

theorem kept_struckMatrix {t k : Nat} : Kept s (s.struckMatrix t k) := by
  unfold State.struckMatrix
  split
  · exact kept_same rfl
  split
  · exact kept_same rfl
  · exact kept_next fun h => struckOp_wf h _ _ _ _

theorem kept_struckAgen {m : Nat} (h : Kept s o) : Kept s (s.struckAgen m o) := fun hwf => by
  obtain ⟨t, rfl, ht⟩ := h hwf
  unfold State.struckAgen
  split
  next hnext =>
    cases hnext
    split
    · exact kept_same rfl ht
    split
    · exact kept_same rfl ht
    · exact kept_same (by simp) hwf
  next => exact kept_same rfl ht

theorem kept_struckConv {c : Nat} (h : Kept s o) : Kept s (s.struckConv c o) := by
  unfold State.struckConv
  split
  · exact h
  split
  · exact kept_ite h (kept_same (by simp))
  · exact h

theorem kept_struckAdder {port : Nat} (h : Kept s o) : Kept s (s.struckAdder port o) := by
  unfold State.struckAdder
  split
  · exact h
  · exact kept_ite h (kept_same (by simp))

theorem kept_struckFlit {r : Nat} {dir : Dir} {vc : Nat} : Kept s (s.struckFlit r dir vc) := by
  unfold State.struckFlit
  split
  · exact kept_same rfl
  · exact kept_ite (kept_same rfl) (kept_same (by simp))

theorem kept_struckCfg {t : Nat} : Kept s (s.struckCfg t) := by
  unfold State.struckCfg
  split
  · exact kept_same rfl
  · exact kept_same (by simp)

theorem kept_struckWalk {b i : Nat} : Kept s (s.struckWalk b i) := by
  unfold State.struckWalk
  split
  · exact kept_same rfl
  · exact kept_ite (kept_same rfl) (kept_same (by rw [foldl_keeps State.mem fun _ _ => walkFailed_mem _ _ _ _, State.modBlk_mem]))

theorem kept_struckWindow {b i : Nat} (h : Kept s o) : Kept s (s.struckWindow b i o) := by
  unfold State.struckWindow
  dsimp only
  split
  · exact kept_ite (kept_same rfl) (kept_same (by rw [foldl_keeps State.mem fun _ _ => strikeMember_mem _ _, State.modBlk_mem]))
  · exact kept_ite (kept_same rfl) (kept_same (by rw [foldl_keeps State.mem fun _ _ => strikeRed_mem _ _, State.modBlk_mem]))
  · exact h

theorem kept_struckStore {g : Nat} (h : Kept s o) : Kept s (s.struckStore g o) := fun hwf => by
  obtain ⟨t, rfl, ht⟩ := h hwf
  unfold State.struckStore
  split
  · dsimp only
    split
    · exact kept_same (by simp) hwf
    · exact kept_same rfl ht
  · exact kept_same rfl ht

theorem kept_struckWait {u : UnitRef} (h : Kept s o) : Kept s (s.struckWait u o) := by
  unfold State.struckWait
  split
  · split
    · split
      · exact h
      · split
        iterate 3 exact h
        · exact kept_same (by simp)
    · exact h
  · split
    · exact kept_same (by simp)
    · exact h

theorem kept_struckEvent {k : Nat} {i : Instr} : Kept s (s.struckEvent k i) := by
  have h := exec_kept i s
  cases i
  case commandEntry | busyRetry => exact kept_struckCmd h
  case gateOpen => exact kept_struckGate h
  case transferStart => exact kept_struckMeta h
  case transferWrite => exact kept_struckTransfer h
  case flitForward => exact kept_struckFlit
  case portTokenArrival | ringPlace | placingAreaWrite => exact kept_struckInbox
  case inboundStreamerWrite => exact kept_struckVia h
  case converterFiring => exact kept_struckConv h
  case adderPair => exact kept_struckAdder h
  case agenLoadToken | agenStoreToken => exact kept_struckAgen h
  case matrixOpEnd => exact kept_struckMatrix
  case configurationFlit => exact kept_struckCfg
  case tlbWalk => exact kept_struckWalk
  case combineWindowExpiry => exact kept_struckWindow h
  case storePerform => exact kept_struckStore h
  case threadWake => exact kept_struckWait h
  all_goals exact h

theorem kept_readWord {t i : Nat} : Kept s (s.readWord t i) := by
  unfold State.readWord
  split
  · exact kept_same rfl
  split
  · exact kept_ite (kept_same rfl) (kept_same (by simp))
  · exact kept_same rfl

theorem kept_earlyWord {k : Nat} {i : Instr} : Kept s (s.earlyWord k i) := by
  unfold State.earlyWord
  split
  · exact kept_readWord
  · exact exec_kept _ s

/-- An event, whatever befalls the data of its move. -/
theorem kept_event {e : Soft} {i : Instr} : Kept s (s.event e i) := by
  cases e with
  | data => exact kept_struckEvent
  | operand => exact kept_earlyWord
  | clean | fetch | file | miss | lost => exact exec_kept i s

/-! ## The bundle of a turn (R18, R69, R278) -/

/-- What a fetch leaves of memory: all of it. -/
def FetchKeeps (s : State) : Fetched → Prop
  | .got _ t => t.mem = s.mem
  | .wait t => t.mem = s.mem
  | .bad _ _ => True

theorem fetchKeeps_fetchLine (va pa : Nat) : FetchKeeps s (s.fetchLine g va pa) := by
  unfold State.fetchLine
  split
  · exact (rfl : s.mem = s.mem)
  · exact State.modCore_mem ..

theorem fetchKeeps_fetchFar (va dev pa : Nat) : FetchKeeps s (s.fetchFar g va dev pa) := by
  have hask : FetchKeeps s (match s.sendPacket dev (coreName (threadCore g)) (some (.fetch g va))
      [{ hdr := mkHdr 4 0 0 0 0 0 0 (s.fresh % 2 ^ 14), pay := Config.memReqPayload pa 8 0 0 }] with
    | some s1 => .wait (((s1.next).modThread g fun t => { t with fetchw := some (va, none) }).markWait)
    | none => .bad cLINK_LOST ((s.lostPort dev).setWidth 64)) := by
    split
    next hsend => exact (State.markWait_mem _).trans (sentOnly_sendPacket hsend).mem
    next => trivial
  unfold State.fetchFar
  dsimp only
  split
  · split
    · exact (rfl : s.mem = s.mem)
    · exact hask
  · split
    · exact State.markWait_mem _
    · exact hask
  · exact hask

theorem fetchKeeps_fetch : FetchKeeps s s.fetch := by
  unfold State.fetch
  split
  · unfold State.fetchThread
    dsimp only
    split
    · trivial
    split
    · exact State.markWait_mem _
    · trivial
    · split
      · exact fetchKeeps_fetchLine _ _
      · exact fetchKeeps_fetchFar _ _ _
      all_goals exact (rfl : s.mem = s.mem)
  · unfold State.fetchTile
    split
    · exact (rfl : s.mem = s.mem)
    · exact (rfl : s.mem = s.mem)

theorem kept_fetchFault {cause : BitVec 8} {ev : Word} : Kept s (s.fetchFault cause ev) :=
  kept_unit (fun _ => kept_ite (kept_same (by simp)) kept_xlFault) fun _ => kept_xlFault

theorem kept_runB {pre : Ctx} {b : Option Instr} : Kept s (s.runB pre b) := by
  cases b with
  | none => exact kept_same rfl
  | some i =>
    refine kept_ite (kept_after ((exec_kept i { s with iss := { s.iss with view := some pre } }).of_mem rfl) fun u => ?_) (kept_same rfl)
    split
    · rfl
    · exact dropDest_mem _ _ _

theorem kept_runBundle {e : Soft} {w : Word} {bu : Bundle} : Kept s (s.runBundle e w bu) := by
  refine kept_ite (kept_wait.of_mem rfl) fun hwf => ?_
  obtain ⟨t, ht, hkept⟩ := kept_slotA (s := { s with iss := { word := w, la := bu.la } }) (e := e)
    (i := State.resolve { s with iss := { word := w, la := bu.la } } bu.a) hwf
  rw [ht]
  refine kept_runB ?_
  split
  · rw [stampTurn_mem]
    exact hkept
  · exact hkept

theorem kept_bundle {e : Soft} : Kept s (s.bundle e) := by
  have hfetch := fetchKeeps_fetch (s := s)
  unfold State.bundle
  split
  next hf => exact kept_same (by rwa [hf] at hfetch)
  next => exact kept_fetchFault
  next w s1 hf =>
    have hmem : s1.mem = s.mem := by rwa [hf] at hfetch
    refine kept_ite kept_fetchFault ?_
    split
    · exact (exec_kept _ _).of_mem hmem
    split
    · exact (kept_ite kept_raise kept_runBundle).of_mem hmem
    all_goals exact kept_runBundle.of_mem hmem

theorem kept_issueBundle {e : Soft} : Kept s (s.issueBundle e) := kept_after kept_bundle fun _ => endTurn_mem _ _ _

/-! ## Turns and moves -/

theorem kept_dueTurn {e : Soft} : Kept s (s.dueTurn g e) := by
  refine kept_ite (exec_kept _ _) fun hwf => ?_
  obtain ⟨t, ht, hkept⟩ := kept_bundle (s := s) (e := e) hwf
  rw [ht]
  dsimp only
  split
  · exact kept_same (endTurn_mem _ _ _) hkept
  · exact exec_kept _ _ hwf

theorem kept_turnThread {e : Soft} : Kept s (s.turnThread g e) := by
  refine kept_ite (exec_kept _ _) ?_
  split
  · refine kept_ite (exec_kept _ _) (kept_ite ?_ ?_)
    · split
      · exact kept_same (by simp)
      · exact kept_same rfl
    · exact kept_ite (kept_ite (kept_ite (kept_same rfl) kept_dueTurn) (kept_ite (exec_kept _ _) kept_issueBundle)) kept_issueBundle
  · exact exec_kept _ _
  · exact kept_event
  · exact kept_ite (exec_kept _ _) (kept_same rfl)
  · exact kept_ite (exec_kept _ _) (kept_ite (exec_kept _ _) (kept_same rfl))
  · exact kept_same rfl
  · exact kept_same rfl

theorem kept_turnCore {k : Nat} {e : Soft} : Kept s (s.turnCore k e) := by
  refine kept_ite (exec_kept _ _) (kept_ite (kept_same rfl) ?_)
  split
  · exact kept_ite (exec_kept _ _) kept_issueBundle
  · exact kept_event
  all_goals exact kept_same rfl

theorem kept_turn {u : UnitRef} {e : Soft} : Kept s (s.turn u e) := by
  cases u with
  | thread g =>
    exact kept_ite (kept_ite (kept_same (settle_mem _ _)) (kept_turnThread.of_mem (retried_mem _ _))) (kept_same rfl)
  | core k => exact kept_ite (kept_turnCore.of_mem rfl) (kept_same rfl)

theorem kept_act {a : Act} {e : Soft} : Kept s (s.act a e) := by
  cases a with
  | issue u => exact kept_turn
  | event i =>
    unfold State.act
    dsimp only
    split
    · exact kept_turn
    refine kept_ite ?_ (kept_same rfl)
    split
    · exact kept_event
    · exact kept_ite (kept_event.of_mem (stampTurn_mem _ _ _)) (kept_same rfl)

theorem takeMove_mem : s.takeMove.2.mem = s.mem := by
  unfold State.takeMove
  split <;> rfl

theorem step_kept (s : State) : Kept s (step s) := by
  refine kept_after ?_ flushed_mem
  refine (kept_ite (kept_same rfl) kept_act).mono fun hwf => elapse_wf (s := s.takeMove.2) ?_ _
  rwa [takeMove_mem]

/-- Settles O55: every form and every event keeps memory canonical, since memory changes by writes, by the marks of walks and by bytes
that leave it, and so does a step, which is a turn or an event whatever befalls its data. -/
theorem memoryCanonicalUnderStep : Obligations.MemoryCanonicalUnderStep := fun s t hwf hstep => by
  obtain ⟨u, hu, hkept⟩ := step_kept s hwf
  rw [hstep] at hu
  cases hu
  exact hkept

end Sys2Proof.Claims
end

section
/-!
PROOFS. Fault records and futures (R306 to R313): what a fault unit's write event at a physical address leaves, and the events of notices,
records and verdicts.
-/
namespace Sys2Proof.Claims
open Sys2Proof.Machine

variable {s t : State} {a f k n pa : Nat} {l : List Byte}

/-! ## Bytes in memory -/

theorem memNat_eq_leNat (m : List Host.Cell) (a n : Nat) : memNat m a n = leNat (Memory.read m a n) := by
  rw [← peek_eq_memNat (s := { State.reset with mem := m })]
  rfl

theorem memNat_write (m : List Host.Cell) (a n x : Nat) : memNat (Memory.write m a (leBytes n x)) a n = x % 256 ^ n := by
  have hread := Memory.read_write (leBytes n x) m a
  rw [leBytes_length] at hread
  rw [memNat_eq_leNat, hread, leNat_leBytes]

/-- The low bytes of a number in memory. -/
theorem memNat_low (m : List Host.Cell) (a j n : Nat) : memNat m a j = memNat m a (j + n) % 256 ^ j := by
  rw [memNat_add, Nat.add_mul_mod_self_left, Nat.mod_eq_of_lt (memNat_lt m j a)]

theorem shielded_of_unheld (h : ∀ k, k < l.length → s.mailByte (pa + k) = false) : s.shielded pa l = l := by
  refine List.ext_getElem? fun k => ?_
  rw [shielded_getElem?]
  cases hk : l[k]? with
  | none => rfl
  | some b =>
    obtain ⟨hlt, -⟩ := List.getElem?_eq_some_iff.mp hk
    simp [h k hlt]

/-! ## A write event in a range that nothing holds (R113, R270) -/

theorem physWrite_mem (h : Unheld s a l.length) : (s.physWrite a l).mem = Memory.write s.mem a l := by
  obtain ⟨hcalm, hmail⟩ := h
  rw [State.physWrite, performWrite_mem (p := { pa := a, home := .dram, sw := false }) nofun hcalm, watch_plain_mem]
  exact congrArg (Memory.write s.mem a) (shielded_of_unheld hmail)

theorem WriteKept.unheld (h : WriteKept s t) (hu : Unheld s pa n) : Unheld t pa n :=
  ⟨h.calm hu.1, fun k hk => h.mail _ (hu.2 k hk)⟩

theorem physWrite_kept (h : Unheld s a l.length) : WriteKept s (s.physWrite a l) := performWrite_kept nofun h.1

theorem physWrite_sameWord (h : Unheld s a l.length) : SameWord s (s.physWrite a l) pa := by
  have hword : SameWord s ((s.watch false 0 a l.length).noteWrite none none a l.length) pa :=
    (sameWord_watch 0 a l.length pa).trans (sameWord_noteWrite none none a l.length)
  rw [State.physWrite, performWrite_eq (p := { pa := a, home := .dram, sw := false }) nofun h.1]
  constructor
  · rw [forgetMail_keeps (State.landed · pa) fun _ _ => rfl]
    exact hword.landed
  · rw [forgetMail_keeps (State.syncCyc · pa) fun _ _ => rfl]
    exact hword.cyc

/-! ## The fields under a write event -/

@[simp] theorem watchWord_fields (sw : Bool) (va : Nat) : (s.watchWord sw va).fields = s.fields := by
  unfold State.watchWord
  dsimp only
  split <;> rfl

@[simp] theorem watch_fields (sw : Bool) (va pa n : Nat) : (s.watch sw va pa n).fields = s.fields := by
  unfold State.watch
  dsimp only
  split
  · rfl
  split <;> exact watchWord_fields sw va

theorem putSync_fields (pa : Nat) (w : SyncW) (by_ : Option Nat) : (s.putSync pa w by_).fields = s.fields := by
  rw [State.putSync, State.pokeN, State.poke_fields]
  exact watch_fields false 0 pa 16

theorem setLanded_fields (pa : Nat) (l : Landed) : (s.setLanded pa l).fields = s.fields := rfl

theorem tellSync_fields (x : Nat) (w : SyncWho) : (s.tellSync x w).fields = s.fields := by cases w <;> rfl

theorem closeSync_fields (pa : Nat) : (s.closeSync pa).fields = s.fields := by
  unfold State.closeSync
  dsimp only
  split
  · rfl
  · rw [foldl_keeps State.fields fun _ _ => tellSync_fields _ _]
    rw [setLanded_fields, putSync_fields]

theorem rollSync_fields (pa : Nat) : (s.rollSync pa).fields = s.fields := by
  unfold State.rollSync
  split
  · exact closeSync_fields pa
  · rfl

theorem syncPut_fields (pa : Nat) (f : Landed → Landed) : (s.syncPut pa f).fields = s.fields := rollSync_fields pa

theorem endWord_fields (pa : Nat) : (s.endWord pa).fields = s.fields := by
  rw [State.endWord, syncPut_fields, closeSync_fields, rollSync_fields]

theorem endSync_fields (pa n : Nat) : (s.endSync pa n).fields = s.fields := by
  rw [State.endSync, foldl_keeps State.fields fun _ _ => endWord_fields _]

theorem physWrite_fields (a : Nat) (l : List Byte) : (s.physWrite a l).fields = s.fields := by
  rw [State.physWrite, State.performWrite, forgetMail_keeps State.fields fun _ _ => rfl]
  exact (watch_fields _ _ _ _).trans (endSync_fields _ _)

theorem physWrite_field (a : Nat) (l : List Byte) (f : Nat) : (s.physWrite a l).field f = s.field f := by
  rw [State.field, physWrite_fields]
  rfl

/-! ## Notices and records (R306, R309) -/

section
variable {d : Dir} {r : Notice}

theorem exec_faultNotice (h : s.nextNotice f = some (d, r)) :
    exec (.faultNotice f) s = .next (if s.noticeRoom f r.what then s.takeNotice f d r else s) := by
  change execFaultNotice f s = _
  rw [execFaultNotice, h]
  dsimp only
  split <;> rfl

theorem takeNotice_takes : (s.takeNotice f d r).mem = s.mem ∧ ((s.takeNotice f d r).field f).notices = (s.field f).notices.erase r ∧
    ((s.takeNotice f d r).field f).recs = (s.field f).recs ++ [r.what] ∧
    (s.takeNotice f d r).link (faultRouter f) d 3 = (s.link (faultRouter f) d 3).drop 1 := by
  refine ⟨rfl, ?_, ?_, setLink_same _ _ _ _⟩ <;> rw [State.takeNotice, State.addRec, State.modField_same, State.modField_same] <;> rfl

theorem noticeRoom_iff {x : FRec} : s.noticeRoom f x = true ↔ s.fqUsed f + (s.field f).recs.length < (s.field f).fqsize ∨
    (s.fqUsed f < (s.field f).fqsize ∧ ∀ y ∈ (s.field f).recs, y.before x = false) := by
  simp [State.noticeRoom]

end

section
variable {r : FRec}

theorem exec_faultRecordWrite (h : firstRec (s.field f).recs = some r) :
    exec (.faultRecordWrite f) s = .next (if s.fqRoom f && !s.noticeFirst f r then s.writeRec f r else s) := by
  change execFaultRecordWrite f s = _
  rw [execFaultRecordWrite, h]
  dsimp only
  split <;> rfl

theorem noticeFirst_of_later {d : Dir} {x : Notice} (h : s.nextNotice f = some (d, x)) (hr : r.before x.what = false) :
    s.noticeFirst f r = true := by
  rw [State.noticeFirst, h]
  simp [hr]

theorem noticeFirst_of_first (h : ∀ d n, s.nextNotice f = some (d, n) → r.before n.what = true) : s.noticeFirst f r = false := by
  rw [State.noticeFirst]
  cases hn : s.nextNotice f with
  | none => rfl
  | some n => simp [h n.1 n.2 hn]

theorem lands_modField {t : State} {g : Landed → Landed} (F : Field → Field) : Lands s (t.modField f F) pa g ↔ Lands s t pa g := .rfl

theorem watchWord_plain (va : Nat) : s.watchWord false va = s := by
  rw [State.watchWord]
  exact if_neg (by simp)

theorem recBytes64 (seq : Nat) : (r.bytes seq).length = 64 := by simp [FRec.bytes]

/-- Where a field's next record goes, and the fault queue's tail. -/
def recPlace (s : State) (f : Nat) : Nat := (s.field f).fqbase.toNat + 64 + 64 * (s.fqTail f % (s.field f).fqsize)

/-- The state after a record's bytes and its tail are in memory. -/
def recWritten (s : State) (f : Nat) (r : FRec) : State :=
  (s.physWrite (recPlace s f) (r.bytes ((s.fqTail f + 1) % 2 ^ 64))).physWrite ((s.field f).fqbase.toNat + 24)
    (leBytes 8 ((s.fqTail f + 1) % 2 ^ 64))

theorem writeRec_of_plain (h : r.fent = none) : s.writeRec f r =
    ((recWritten s f r).syncLand (s.field f).fqbase.toNat 0 1).modField f fun x => { x with recs := x.recs.erase r } := by
  simp only [State.writeRec, State.futSeq, h, recWritten, recPlace]

variable (htail : Unheld s ((s.field f).fqbase.toNat + 24) 8) (hplace : Unheld s (recPlace s f) 64)
include htail hplace

theorem recWritten_mem : (recWritten s f r).mem = Memory.write (Memory.write s.mem (recPlace s f) (r.bytes ((s.fqTail f + 1) % 2 ^ 64)))
    ((s.field f).fqbase.toNat + 24) (leBytes 8 ((s.fqTail f + 1) % 2 ^ 64)) := by
  have hfirst : Unheld s (recPlace s f) (r.bytes ((s.fqTail f + 1) % 2 ^ 64)).length := by rwa [recBytes64]
  rw [recWritten, physWrite_mem, physWrite_mem hfirst]
  rw [leBytes_length]
  exact (physWrite_kept hfirst).unheld htail

theorem recWritten_sameWord : SameWord s (recWritten s f r) pa := by
  have hfirst : Unheld s (recPlace s f) (r.bytes ((s.fqTail f + 1) % 2 ^ 64)).length := by rwa [recBytes64]
  refine (physWrite_sameWord hfirst).trans (physWrite_sameWord ?_)
  rw [leBytes_length]
  exact (physWrite_kept hfirst).unheld htail

omit htail hplace in
theorem recWritten_field (n : Nat) : (recWritten s f r).field n = s.field n := by
  rw [recWritten, physWrite_field, physWrite_field]

/-- A record is in memory with its number, which is the new tail, and one arrival lands at the doorbell. -/
theorem writeRec_writes (hplain : r.fent = none) (hset : Settled s (s.field f).fqbase.toNat) :
    ((s.writeRec f r).field f).recs = (s.field f).recs.erase r ∧ (s.writeRec f r).mem = (recWritten s f r).mem ∧
      Lands s (s.writeRec f r) (s.field f).fqbase.toNat fun x => { x with arrs := x.arrs + 1, by_ := some none } := by
  have hword : SameWord s (recWritten s f r) (s.field f).fqbase.toNat := recWritten_sameWord htail hplace
  obtain ⟨hlands, hmem⟩ := arrival_lands (sw := false) (va := 0) (hword.settled hset)
  rw [watchWord_plain] at hlands hmem
  rw [writeRec_of_plain hplain]
  have hfield : ((recWritten s f r).syncLand (s.field f).fqbase.toNat 0 1).field f = s.field f := by
    rw [State.syncLand, State.field, syncPut_fields]
    exact recWritten_field f
  refine ⟨by rw [State.modField_same, hfield], by rw [State.modField_mem, hmem], ?_⟩
  rw [lands_modField]
  exact hword.lands hlands

theorem recWritten_tail : memNat (recWritten s f r).mem ((s.field f).fqbase.toNat + 24) 8 = (s.fqTail f + 1) % 2 ^ 64 := by
  rw [recWritten_mem htail hplace, memNat_write]
  exact Nat.mod_eq_of_lt (Nat.mod_lt _ (by decide))

theorem recWritten_record (k : Nat) (b : Byte) (h : (r.bytes ((s.fqTail f + 1) % 2 ^ 64))[k]? = some b) :
    Memory.byte (recWritten s f r).mem (recPlace s f + k) = b := by
  rw [recWritten_mem htail hplace, Memory.byte_write_other, Memory.byte_write _ _ _ _ _ h]
  rw [leBytes_length, recPlace]
  omega

theorem recWritten_other (h : a < (s.field f).fqbase.toNat + 24 ∨ ((s.field f).fqbase.toNat + 32 ≤ a ∧ a < recPlace s f) ∨
    recPlace s f + 64 ≤ a) : Memory.byte (recWritten s f r).mem a = Memory.byte s.mem a := by
  have hplace' : (s.field f).fqbase.toNat + 64 ≤ recPlace s f := Nat.le_add_right _ _
  rw [recWritten_mem htail hplace, Memory.byte_write_other _ _ _ _ (by rw [leBytes_length]; omega),
    Memory.byte_write_other _ _ _ _ (by rw [recBytes64]; omega)]

end

/-! ## Verdicts (R311, R313) -/

section
variable {e : FutEnt}

theorem setFut_futs (e : Option FutEnt) : Tab.get none ((s.setFut f k e).field f).futs k = e := by
  rw [State.setFut, State.modField_same]
  exact Tab.get_set_same _ _ _

theorem exec_futureResolve_advanced (he : Tab.get none (s.field f).futs k = some e) (hnot : e.resolving = false)
    (hgen : memNat s.mem (s.futAddr f k + 10) 2 ≠ e.gen) :
    exec (.futureResolve f k) s = .next ((s.futState f k 2).setFut f k (some { e with resolving := true })) := by
  change execFutureResolve f k s = _
  rw [execFutureResolve, he]
  dsimp only
  rw [if_neg (by simp [hnot]), if_neg]
  rw [peek_eq_memNat, syncOf_gen]
  exact hgen

theorem futState_low (h : Unheld s (s.futAddr f k + 24) 8) {st : Nat} (hst : st < 32) :
    memNat (s.futState f k st).mem (s.futAddr f k + 24) 1 % 32 = st := by
  have hheld : Unheld s (s.futAddr f k + 24) (leBytes 8 (bitsN (s.peek (s.futAddr f k + 24) 8) 5 3 * 32 + st)).length := by
    rwa [leBytes_length]
  rw [State.futState, physWrite_mem hheld, memNat_low _ _ 1 7, memNat_write]
  omega

theorem exec_futureResolve_readmits {th : Thread} {slot : Nat} (he : Tab.get none (s.field f).futs k = some e) (hres : e.resolving = true)
    (hunit : e.unit = .thread th slot) (hsb : th.sb = []) (hverdict : memNat s.mem (s.futAddr f k + 16) 8 = 0) :
    exec (.futureResolve f k) s = .next ((s.freeFut f k).readmit { th with sb := [], verdict := none } (unitBlk slot)) := by
  have hzero : verdictOf 0 = { cause := 0, fin := false } := rfl
  change execFutureResolve f k s = _
  rw [execFutureResolve, he]
  dsimp only
  rw [if_pos hres, State.futAct, hunit]
  dsimp only
  rw [peek_eq_memNat, hverdict, hzero]
  dsimp only
  rw [if_neg Bool.false_ne_true, if_pos rfl, State.futResume, hsb]
  rfl

theorem readmit_lists (th : Thread) (b : Nat) : Tab.get [] ((s.readmit th b).field (b / 8)).lists th.prio.toNat =
    Tab.get [] (s.field (b / 8)).lists th.prio.toNat ++ [{ th := th, blk := b }] := by
  rw [State.readmit, State.modField_same]
  exact Tab.get_set_same _ _ _

theorem readmit_futs (th : Thread) (b f : Nat) : ((s.readmit th b).field f).futs = (s.field f).futs := by
  rw [State.readmit]
  by_cases h : f = b / 8
  · rw [h, State.modField_same]
  · rw [State.modField_other (h := h)]

theorem freeFut_futs : Tab.get none ((s.freeFut f k).field f).futs k = none := setFut_futs none

theorem freeFut_lists (n : Nat) : ((s.freeFut f k).field n).lists = (s.field n).lists := by
  have hstate : (s.futState f k 0).field n = s.field n := physWrite_field _ _ n
  rw [State.freeFut, State.setFut]
  by_cases h : n = f
  · subst h
    rw [State.modField_same, hstate]
  · rw [State.modField_other (h := h), hstate]

end

end Sys2Proof.Claims
end

section
/-!
PROOFS. The pattern compilers (R361 to R365), and the events of fault units and compilers.
-/
namespace Sys2Proof.Claims
open Sys2Proof.Machine

variable {s : State} {b n nb : Nat} {c : Compile} {l : List Compile} {prog : List (BitVec 32)}

theorem exec_compileStart (h : (s.blk b).comps = c :: l) (hbegan : c.began = none) (hpresent : c.present = true) :
    exec (.compileStart b) s = .next (s.modComp0 b fun x => { x with began := some (s.blk b).cyc }) := by
  change execCompileStart b s = _
  rw [execCompileStart, h]
  dsimp only [List.head?]
  exact if_pos ⟨by rw [hbegan]; rfl, hpresent⟩

theorem modComp0_comps (h : (s.blk b).comps = c :: l) (F : Compile → Compile) : ((s.modComp0 b F).blk b).comps = F c :: l := by
  rw [State.modComp0, State.modBlk_same, h]
  rfl

theorem exec_compileEnd (h : (s.blk b).comps = c :: l) (hbegan : c.began = some n) (hcomplete : c.complete = true)
    (hscan : n + 64 + c.scan.coords.length ≤ (s.blk b).cyc) (hlast : c.last + 64 ≤ (s.blk b).cyc) :
    exec (.compileEnd b) s = .next (s.endCompile b c) := by
  change execCompileEnd b s = _
  rw [execCompileEnd, h]
  dsimp only [List.head?]
  rw [hbegan]
  exact if_pos ⟨hcomplete, hscan, hlast⟩

/-- A compile that has a program failed in nothing. -/
theorem cause_of_prog (h : c.result = .prog nb prog) : c.cause = none := by
  unfold Compile.result at h
  split at h
  · cases h
  next hfail =>
    split at h
    · cases h
    next hlong =>
      split at h
      · cases h
      next hbad =>
        rw [Compile.cause, Option.not_isSome_iff_eq_none.mp hfail]
        simp [hlong, hbad]

/-- A program that is inserted is in the cache (R356). -/
theorem insert_mem (x : Tile) (e : McEntry) : e ∈ (x.insert e).mcache := List.mem_append_right _ (List.mem_singleton_self e)

/-- A form that waits for a compile is ready once its program is there. -/
theorem served_sp {m : MOp} {ident : Word} (h : m.awaits ident = true) (cyc : Nat) : (m.served ident cyc (.prog nb prog)).sp = .ready nb prog := by
  unfold MOp.awaits at h
  unfold MOp.served
  split at h
  next hkind hsp =>
    rw [if_pos (beq_iff_eq.mp h)]
  next => cases h

/-- The state after the compile has left its queue and its program has entered the cache. -/
def progEntered (s : State) (b : Nat) (c : Compile) (nb : Nat) (prog : List (BitVec 32)) : State :=
  (s.modBlk b fun x => { x with comps := x.comps.drop 1 }).modTile c.tile
    fun x => x.insert { ident := c.ident, nb := nb, prog := prog, stale := false }

theorem endCompile_of_prog (hresult : c.result = .prog nb prog) (hgen : s.genHolds c = true) :
    s.endCompile b c = (progEntered s b c nb prog).serveTile c.tile c.ident (.prog nb prog) := by
  have hholds : (s.modBlk b fun x => { x with comps := x.comps.drop 1 }).genHolds c = true := hgen
  rw [State.endCompile, cause_of_prog hresult, hresult]
  simp only [State.insertProg, if_pos hholds]
  rfl

theorem progEntered_mq : ((progEntered s b c nb prog).tile c.tile).mq = (s.tile c.tile).mq := by
  rw [progEntered, State.modTile_same]
  rfl

/-- The form at a tile's head is served a program with its nb, and nothing else is. -/
theorem serveTile_of_prog {t : Nat} {ident : Word} (hnb : ∀ m, (s.tile t).mq.head? = some m → m.awaits ident = true → mdNb m.md = nb) :
    s.serveTile t ident (.prog nb prog) = s ∧ (∀ m ml, (s.tile t).mq = m :: ml → m.awaits ident = false) ∨
    s.serveTile t ident (.prog nb prog) = s.modHead t fun o => o.served ident (s.tileCyc t) (.prog nb prog) := by
  unfold State.serveTile
  split
  next hnone =>
    refine .inl ⟨rfl, fun m ml hm => ?_⟩
    rw [hm] at hnone
    cases hnone
  next m hm =>
    dsimp only
    split
    next hnot =>
      refine .inl ⟨rfl, fun m' ml hm' => ?_⟩
      rw [hm'] at hm
      cases hm
      exact hnot
    next hwaits =>
      rw [if_neg (not_not.mpr (hnb m hm (Bool.not_eq_false _ ▸ hwaits)).symm)]
      exact .inr rfl

theorem modHead_tile (t : Nat) (F : MOp → MOp) : (s.modHead t F).tile t = { s.tile t with mq := (s.tile t).mq.modify 0 F } :=
  State.modTile_same ..

/-- What a program's end leaves: its entry in the tile's cache, and the form that awaits it ready. -/
theorem serveTile_leaves {t : Nat} {ident : Word} (hnb : ∀ m, (s.tile t).mq.head? = some m → m.awaits ident = true → mdNb m.md = nb) :
    (s.serveTile t ident (.prog nb prog)).mem = s.mem ∧ (∀ j, (s.serveTile t ident (.prog nb prog)).blk j = s.blk j) ∧
    ((s.serveTile t ident (.prog nb prog)).tile t).mcache = (s.tile t).mcache ∧
    ∀ m ml, (s.tile t).mq = m :: ml → m.awaits ident = true →
      ∃ y, ((s.serveTile t ident (.prog nb prog)).tile t).mq = y :: ml ∧ y.sp = .ready nb prog := by
  obtain ⟨hserve, hnone⟩ | hserve := serveTile_of_prog (prog := prog) hnb
  · rw [hserve]
    refine ⟨rfl, fun _ => rfl, rfl, fun m ml hm hwaits => ?_⟩
    rw [hnone m ml hm] at hwaits
    cases hwaits
  · rw [hserve, modHead_tile]
    refine ⟨rfl, fun _ => rfl, rfl, fun m ml hm hwaits => ⟨_, ?_, served_sp hwaits (s.tileCyc t)⟩⟩
    rw [hm]
    rfl

theorem compileEnd_ends (h : (s.blk b).comps = c :: l) (hresult : c.result = .prog nb prog) (hgen : s.genHolds c = true)
    (hnb : ∀ m, (s.tile c.tile).mq.head? = some m → m.awaits c.ident = true → mdNb m.md = nb) :
    (s.endCompile b c).mem = s.mem ∧ ((s.endCompile b c).blk b).comps = l ∧
      (∃ e ∈ ((s.endCompile b c).tile c.tile).mcache, e.ident = c.ident ∧ e.prog = prog ∧ e.nb = nb) ∧
      ∀ m ml, (s.tile c.tile).mq = m :: ml → m.awaits c.ident = true →
        ∃ y, ((s.endCompile b c).tile c.tile).mq = y :: ml ∧ y.sp = .ready nb prog := by
  have hmq := progEntered_mq (s := s) (b := b) (c := c) (nb := nb) (prog := prog)
  obtain ⟨hmem, hblk, hcache, hready⟩ := serveTile_leaves (s := progEntered s b c nb prog) (t := c.tile) (ident := c.ident) (prog := prog)
    (nb := nb) (by rwa [hmq])
  rw [endCompile_of_prog hresult hgen]
  refine ⟨hmem, ?_, ?_, by rwa [hmq] at hready⟩
  · rw [hblk, progEntered, State.modTile_blk, State.modBlk_same, h]
    rfl
  · refine ⟨{ ident := c.ident, nb := nb, prog := prog, stale := false }, ?_, rfl, rfl, rfl⟩
    rw [hcache, progEntered, State.modTile_same]
    exact insert_mem _ _

/-- Settles O47: a notice is taken where there is room, a record is two write events and an arrival, a verdict acts on the entry alone, and
the end of a compile touches its queue and its tile. -/
theorem faultAndCompileEvents : Obligations.FaultAndCompileEvents := by
  refine ⟨fun s f d r hr => ⟨fun hroom => ?_, fun hfull => ?_, fun hfull hfirst => ?_⟩, fun s f d n r hr hn hlater => ?_,
    fun s f r hr hroom hplain hfirst htail hplace hset => ?_, fun s f k e he => ⟨fun hnot hgen hheld => ?_, fun th slot hres hunit hsb hv => ?_⟩,
    fun s b c l h hbegan hpresent => ?_, fun s b n nb c l prog h hbegan hcomplete hscan hlast hresult hgen hnb => ?_⟩
  · exact ⟨_, (exec_faultNotice hr).trans (by rw [if_pos (noticeRoom_iff.mpr hroom)]), takeNotice_takes⟩
  · rw [exec_faultNotice hr, if_neg]
    rw [noticeRoom_iff]
    omega
  · obtain ⟨x, hx, hbefore⟩ := hfirst
    rw [exec_faultNotice hr, if_neg]
    rw [noticeRoom_iff]
    rintro (hlt | ⟨-, hnone⟩)
    · omega
    · exact absurd hbefore (by rw [hnone x hx]; exact Bool.false_ne_true)
  · rw [exec_faultRecordWrite hr, noticeFirst_of_later hn hlater, Bool.not_true, Bool.and_false, if_neg Bool.false_ne_true]
  · obtain ⟨hrecs, hmem, hlands⟩ := writeRec_writes htail hplace hplain hset
    refine ⟨_, (exec_faultRecordWrite hr).trans (by rw [hroom, noticeFirst_of_first hfirst]; rfl), hrecs, ?_, fun k b hb => ?_,
      fun a ha => ?_, hlands⟩
    · rw [hmem]
      exact recWritten_tail htail hplace
    · rw [hmem]
      exact recWritten_record htail hplace k b hb
    · rw [hmem]
      refine recWritten_other htail hplace ?_
      rw [recPlace]
      omega
  · exact ⟨_, exec_futureResolve_advanced he hnot hgen, setFut_futs _, futState_low hheld (by decide)⟩
  · refine ⟨_, exec_futureResolve_readmits he hres hunit hsb hv, ?_, ?_⟩
    · rw [readmit_futs]
      exact freeFut_futs
    · have hfield : unitBlk slot / 8 = slot / 1024 := by rw [unitBlk]; omega
      have hlists := readmit_lists (s := s.freeFut f k) { th with sb := [], verdict := none } (unitBlk slot)
      rw [freeFut_lists, hfield] at hlists
      exact hlists
  · exact ⟨_, exec_compileStart h hbegan hpresent, rfl, modComp0_comps h _⟩
  · exact ⟨_, exec_compileEnd h hbegan hcomplete hscan hlast, compileEnd_ends h hresult hgen hnb⟩

end Sys2Proof.Claims
end

section
/-!
PROOFS. Writes of the host ports (R298, R403 to R407): one write event at a home, what it leaves of the ports and the queue table, and the
lines of a longer write.
-/
namespace Sys2Proof.Claims
open Sys2Proof.Machine

variable {s t u : State} {port q n va pa : Nat} {p : Phys} {l : List Byte}

/-! ## The ports and the queue table -/

/-- The host ports, the queue table with its spill rings, and the replies on their way. -/
def hostView (s : State) : Tab HostPort × Tab QEnt × List Nat × List HostReply := (s.dev.hosts, s.dev.queues, s.dev.spills, s.dev.hreps)

/-- The parts of what the ports hold. -/
theorem of_hostView (h : hostView t = hostView s) : (∀ p, t.hostPort p = s.hostPort p) ∧ (∀ q, t.queue q = s.queue q) ∧
    t.dev.spills = s.dev.spills ∧ t.dev.hreps = s.dev.hreps := by
  obtain ⟨hhosts, hqueues, hspills, hreps⟩ : t.dev.hosts = s.dev.hosts ∧ t.dev.queues = s.dev.queues ∧ t.dev.spills = s.dev.spills ∧
    t.dev.hreps = s.dev.hreps := by simpa only [hostView, Prod.mk.injEq] using h
  exact ⟨fun p => by rw [State.hostPort, hhosts]; rfl, fun q => by rw [State.queue, hqueues]; rfl, hspills, hreps⟩

@[simp] theorem modHostPort_same (F : HostPort → HostPort) : (s.modHostPort port F).hostPort port = F (s.hostPort port) :=
  Tab.get_set_same _ _ _

@[simp] theorem modHostPort_queue (F : HostPort → HostPort) : (s.modHostPort port F).queue q = s.queue q := rfl

@[simp] theorem modQueue_same (F : QEnt → QEnt) : (s.modQueue q F).queue q = F (s.queue q) := Tab.get_set_same _ _ _

@[simp] theorem modQueue_hostPort (F : QEnt → QEnt) : (s.modQueue q F).hostPort port = s.hostPort port := rfl

@[simp] theorem modHostPort_hreps (F : HostPort → HostPort) : (s.modHostPort port F).dev.hreps = s.dev.hreps := rfl

@[simp] theorem modQueue_hreps (F : QEnt → QEnt) : (s.modQueue q F).dev.hreps = s.dev.hreps := rfl

theorem hostView_watch (va pa n : Nat) : hostView (s.watch false va pa n) = hostView s := by
  unfold State.watch State.watchWord
  simp only [Bool.false_and, Bool.false_eq_true, if_false]
  split
  · rfl
  · split <;> rfl

theorem hostView_walkMark (e : Word) (a : Nat) (kind : Access) : hostView (s.walkMark e a kind).1 = hostView s := by
  unfold State.walkMark
  dsimp only
  split
  · exact hostView_watch _ _ _
  · rfl

/-! ## One write event (R113, R404, R407) -/

/-- What a plain write event at a home leaves: its bytes, and all that the ports hold. -/
structure Poked (s t : State) (pa : Nat) (l : List Byte) : Prop where
  kept  : WriteKept s t
  view  : hostView t = hostView s
  mails : ∀ x, t.mailByte x = s.mailByte x
  wrote : WroteBytes s t false 0 pa l

theorem homePoke_eq (hcalm : Calm s p.pa l.length) : s.homePoke p va l =
    ((s.watch p.sw va p.pa l.length).noteWrite none none p.pa l.length).poke p.pa (s.shielded p.pa l) := by
  rw [State.homePoke, endSync_of_calm hcalm]

theorem watch_mails (va pa n x : Nat) : (s.watch false va pa n).mailByte x = s.mailByte x := by
  unfold State.watch State.watchWord
  simp only [Bool.false_and, Bool.false_eq_true, if_false]
  split
  · rfl
  · split <;> rfl

theorem homePoke_poked (hsw : p.sw = false) (hcalm : Calm s p.pa l.length) : Poked s (s.homePoke p va l) p.pa l := by
  rw [homePoke_eq hcalm, hsw]
  refine ⟨((writeKept_watch _ _ _ _).trans (writeKept_noteWrite _ _ _ _)).trans (writeKept_poke _ _), hostView_watch _ _ _,
    watch_mails _ _ _, wroteBytes_of_write ?_⟩
  rw [State.poke_mem, State.noteWrite_mem, watch_plain_mem]

theorem wroteBytes_of_mem {sw : Bool} (h : WroteBytes s t sw va pa l) (hmem : u.mem = t.mem) : WroteBytes s u sw va pa l := by
  rw [WroteBytes, WroteThrough, hmem]
  exact h

theorem wroteTwo_of_mem {k : List Byte} {b : Nat} (h : WroteTwo s t pa l b k) (hmem : u.mem = t.mem) : WroteTwo s u pa l b k := by
  rw [WroteTwo, hmem]
  exact h

theorem wroteTwo_from {k : List Byte} {b : Nat} (h : WroteTwo t u pa l b k) (hmem : t.mem = s.mem)
    (hmails : ∀ x, t.mailByte x = s.mailByte x) : WroteTwo s u pa l b k := by
  simpa only [WroteTwo, hmem, hmails] using h

theorem Poked.nil (s : State) (pa : Nat) : Poked s s pa [] :=
  ⟨.rfl, rfl, fun _ => rfl, fun k b hk => by simp at hk, fun k hk => absurd hk (Nat.not_lt_zero k), fun _ _ _ => rfl⟩

/-- Two writes, the second behind the first, are one longer write. -/
theorem Poked.append {l k : List Byte} (h : Poked s t pa l) (h' : Poked t u (pa + l.length) k) : Poked s u pa (l ++ k) := by
  obtain ⟨hput, hheld, hother⟩ := h.wrote
  obtain ⟨hput', hheld', hother'⟩ := h'.wrote
  refine ⟨h.kept.trans h'.kept, h'.view.trans h.view, fun x => (h'.mails x).trans (h.mails x), fun i b hi hm => ?_, fun i hi hm hw => ?_,
    fun a ha hw => ?_⟩
  · by_cases hlt : i < l.length
    · rw [List.getElem?_append_left hlt] at hi
      rw [hother' _ (.inl (by omega)) nofun]
      exact hput i b hi hm
    · obtain ⟨j, rfl⟩ := Nat.exists_eq_add_of_le (Nat.not_lt.mp hlt)
      rw [List.getElem?_append_right (by omega), Nat.add_sub_cancel_left] at hi
      rw [← Nat.add_assoc] at hm ⊢
      exact hput' j b hi (by rwa [h.mails])
  · rw [List.length_append] at hi
    by_cases hlt : i < l.length
    · rw [hother' _ (.inl (by omega)) nofun]
      exact hheld i hlt hm nofun
    · obtain ⟨j, rfl⟩ := Nat.exists_eq_add_of_le (Nat.not_lt.mp hlt)
      rw [← Nat.add_assoc] at hm ⊢
      rw [hheld' j (by omega) (by rwa [h.mails]) nofun]
      exact hother _ (.inr (by omega)) nofun
  · rw [List.length_append] at ha
    rw [hother' _ (by omega) nofun, hother _ (by omega) nofun]

theorem calm_sub {m : Nat} (h : Calm s pa n) (hlo : pa ≤ m) {k : Nat} (hhi : m + k ≤ pa + n) : Calm s m k := by
  intro e he
  have hall := h e he
  simp only [overlaps, Bool.and_eq_false_iff, decide_eq_false_iff_not] at hall ⊢
  omega

/-- Bytes that are written line by line are written (R407). -/
theorem pokeLines_poked (hsw : p.sw = false) (hflat : p.hash = false) (va : Nat) : ∀ (n a : Nat) (l : List Byte) (s : State), l.length < n →
    p.pa ≤ a → Calm s a l.length →
    Poked s ((cutAt 64 n a l).foldl (fun s e => s.homePoke (p.plus (e.1 - p.pa)) (va + (e.1 - p.pa)) e.2) s) a l
  | 0, _, _, _, hn, _, _ => absurd hn (Nat.not_lt_zero _)
  | n + 1, a, l, s, hn, ha, hcalm => by
    rw [cutAt]
    split
    next hnil =>
      subst hnil
      exact .nil s a
    next hne =>
      have hplace : (p.plus (a - p.pa)).pa = a := by
        simp only [Phys.plus, hflat, Bool.false_eq_true, if_false]
        omega
      have hpos : 0 < l.length := List.length_pos_iff.mpr hne
      have hlen : (l.take (64 - a % 64)).length = min (64 - a % 64) l.length := List.length_take
      have hrest : (l.drop (64 - a % 64)).length = l.length - (64 - a % 64) := List.length_drop
      have hfirst : Poked s (s.homePoke (p.plus (a - p.pa)) (va + (a - p.pa)) (l.take (64 - a % 64))) a (l.take (64 - a % 64)) := by
        have hpoked := homePoke_poked (s := s) (p := p.plus (a - p.pa)) (va := va + (a - p.pa)) (l := l.take (64 - a % 64)) hsw
          (by rw [hplace]; exact calm_sub hcalm (Nat.le_refl a) (by omega))
        rwa [hplace] at hpoked
      rw [List.foldl_cons]
      by_cases hall : l.length ≤ 64 - a % 64
      · rw [List.drop_eq_nil_of_le hall]
        rw [List.take_of_length_le hall] at hfirst ⊢
        cases n with
        | zero => exact absurd hn (by omega)
        | succ n => exact hfirst
      · have hbehind := pokeLines_poked hsw hflat va n (a + (64 - a % 64)) (l.drop (64 - a % 64))
          (s.homePoke (p.plus (a - p.pa)) (va + (a - p.pa)) (l.take (64 - a % 64))) (by omega) (by omega)
          (hfirst.kept.calm (calm_sub hcalm (by omega) (by omega)))
        have hwhole := hfirst.append (k := l.drop (64 - a % 64)) (u := _) (by rw [hlen, Nat.min_eq_left (by omega)]; exact hbehind)
        rwa [List.take_append_drop] at hwhole

theorem farWrite_dram {kind : PKind} (hhome : p.home = .dram) : s.farWrite kind p va l =
    some ((cutAt 64 (l.length + 1) p.pa l).foldl (fun s e => s.homePoke (p.plus (e.1 - p.pa)) (va + (e.1 - p.pa)) e.2) s) := by
  rw [State.farWrite, hhome]

/-- What is written to memory of this device is written at once. -/
theorem farWrite_poked {kind : PKind} (hhome : p.home = .dram) (hsw : p.sw = false) (hflat : p.hash = false) (hcalm : Calm s p.pa l.length) :
    ∃ u, s.farWrite kind p va l = some u ∧ Poked s u p.pa l :=
  ⟨_, farWrite_dram hhome, pokeLines_poked hsw hflat va _ _ _ _ (Nat.lt_succ_self _) (Nat.le_refl _) hcalm⟩

/-- The bytes of one line are one write event, wherever lines are spread. -/
theorem farWrite_line {kind : PKind} (hhome : p.home = .dram) (hne : l ≠ []) (hline : p.pa % 64 + l.length ≤ 64) :
    s.farWrite kind p va l = some (s.homePoke (p.plus 0) va l) := by
  obtain ⟨n, hn⟩ := Nat.exists_eq_add_one_of_ne_zero fun h => hne (List.length_eq_zero_iff.mp h)
  have hcut : cutAt 64 (l.length + 1) p.pa l = [(p.pa, l)] := by
    rw [cutAt, if_neg hne, List.take_of_length_le (by omega), List.drop_eq_nil_of_le (by omega), hn]
    rfl
  rw [farWrite_dram hhome, hcut, List.foldl_cons, List.foldl_nil, Nat.sub_self, Nat.add_zero]

end Sys2Proof.Claims
end

section
/-!
PROOFS. The events of the host ports (R305, R358, R401 to R407, R414, R418): posted records and their draw, reply rings, the window, and the
registers.
-/
namespace Sys2Proof.Claims
open Sys2Proof.Machine

variable {s t u : State} {port q : Nat} {ide : Bool} {data : BitVec 512}

/-! ## Error bits (R404, R407, R414) -/

theorem hostErr_herr (b : Nat) : ((s.hostErr port b).hostPort port).herr = (s.hostPort port).herr ||| BitVec.ofNat 5 (2 ^ b) := by
  rw [State.hostErr, modHostPort_same]

theorem discard_herr : ∀ (l : List Nat) (s : State), ((s.discard port l).hostPort port).herr =
    l.foldl (fun h b => h ||| BitVec.ofNat 5 (2 ^ b)) (s.hostPort port).herr
  | [], _ => rfl
  | b :: l, s => by
    have hrest := discard_herr l (s.hostErr port b)
    rw [hostErr_herr] at hrest
    exact hrest

theorem foldl_bit (c : Prop) [Decidable c] (b : Nat) (x : BitVec 5) :
    (if c then [b] else []).foldl (fun h b => h ||| BitVec.ofNat 5 (2 ^ b)) x = x ||| if c then BitVec.ofNat 5 (2 ^ b) else 0 := by
  split
  · rfl
  · exact BitVec.or_zero.symm

theorem discard_spills (l : List Nat) (s : State) : (s.discard port l).dev.spills = s.dev.spills :=
  foldl_keeps (fun t : State => t.dev.spills) (F := fun s b => s.hostErr port b) (fun _ _ => rfl) l s

/-- The bits of the cases that hold. -/
theorem postErrs_bits {whole a b : Bool}
    (ha : a = true ↔ s.dev.phase ≠ 7 ∨ whole = false ∨ (s.queue q).en = false ∨ s.dev.job = false)
    (hb : b = true ↔ (s.queue q).port.toNat ≠ port) : s.postErrs port q whole ide =
      (if a then [0] else []) ++ (if b then [1] else []) ++ (if s.outsideIde port ide then [4] else []) := by
  unfold State.postErrs
  simp only [← ha, ← hb]

theorem postErrs_nil (hphase : s.dev.phase = 7) (hjob : s.dev.job = true) (hen : (s.queue q).en = true)
    (hport : (s.queue q).port.toNat = port) (hide : s.outsideIde port ide = false) : s.postErrs port q true ide = [] := by
  simp [State.postErrs, hphase, hjob, hen, hport, hide]

theorem barRefused_herr : ((s.barRefused port ide).hostPort port).herr =
    if s.outsideIde port ide then (s.hostPort port).herr ||| 4#5 ||| 16#5 else (s.hostPort port).herr ||| 4#5 := by
  unfold State.barRefused
  split
  · rw [hostErr_herr, hostErr_herr]
    rfl
  · rw [hostErr_herr]
    rfl

theorem barAnswer_none : (((s.barRefused port ide).barAnswer port none).hostPort port).rdata = some none ∧
    (((s.barRefused port ide).barAnswer port none).hostPort port).herr = ((s.barRefused port ide).hostPort port).herr := by
  rw [State.barAnswer, modHostPort_same]
  exact ⟨rfl, rfl⟩

/-! ## Posted records (R404, R406, R419) -/

theorem exec_postingWrite_discards {whole : Bool} (h : s.postErrs port q whole ide ≠ []) :
    exec (.postingWrite port q whole ide data) s = .next (s.discard port (s.postErrs port q whole ide)) := if_pos h

section
variable (hphase : s.dev.phase = 7) (hjob : s.dev.job = true) (hen : (s.queue q).en = true) (hport : (s.queue q).port.toNat = port)
  (hide : s.outsideIde port ide = false) (hwait : s.hostWaits port = false)
include hphase hjob hen hport hide hwait

theorem exec_postingWrite_short (hshort : (s.hostPort port).paid + (s.hostPort port).tokens < 2) :
    exec (.postingWrite port q true ide data) s = .next (s.partHost port) := by
  change execPostingWrite port q true ide data s = _
  rw [execPostingWrite, postErrs_nil hphase hjob hen hport hide, if_neg (not_not.mpr rfl), hwait, if_neg Bool.false_ne_true]
  exact if_pos (decide_eq_true hshort)

theorem exec_postingWrite_checks (htokens : 2 ≤ (s.hostPort port).paid + (s.hostPort port).tokens) :
    exec (.postingWrite port q true ide data) s = .next ((s.spendHost port 2).checkRec port q data) := by
  have hshort : s.hostShort port 2 = false := decide_eq_false (Nat.not_lt.mpr htokens)
  change execPostingWrite port q true ide data s = _
  rw [execPostingWrite, postErrs_nil hphase hjob hen hport hide, if_neg (not_not.mpr rfl), hwait, if_neg Bool.false_ne_true, hshort,
    if_neg Bool.false_ne_true]

end

/-- The state after a record has been appended to its spill ring. -/
def appended (u : State) (q : Nat) : State :=
  (u.modQueue q fun x => { x with app := x.app + 1 }).modDev fun d => { d with spills := d.spills ++ [q] }

/-- The state once a record's bytes are in memory, at the place that a leaf gives, and its spill ring has it. -/
def recordPosted (s : State) (q : Nat) (data : BitVec 512) (p : Phys) (leaf : Word) (a va : Nat) : State :=
  appended ((s.walkMark leaf a .write).1.homePoke (p.plus 0) va (leBytes 64 data.toNat)) q

theorem checkRec_appends {e : QEnt} {p : Phys} {leaf : Word} {a : Nat} (he : s.queue q = e) (hsv : recSvs data = false) (haf : recAf data = false)
    (hroom : e.app - e.drawn ≠ e.scap) (hcap : e.scap ≠ 0)
    (hleaf : s.hostLeaf (e.sbase.toNat + 64 * (e.app % e.scap)) false true = some (p, leaf, a)) (hhome : p.home = .dram)
    (hline : p.pa % 64 = 0) : s.checkRec port q data = recordPosted s q data p leaf a (e.sbase.toNat + 64 * (e.app % e.scap)) := by
  subst he
  have hlen := leBytes_length 64 data.toNat
  have happend : s.appendRec port q data = some (recordPosted s q data p leaf a
      ((s.queue q).sbase.toNat + 64 * ((s.queue q).app % (s.queue q).scap))) := by
    simp only [State.appendRec, ringSlot, if_neg hcap, hleaf]
    rw [farWrite_line hhome (List.ne_nil_of_length_pos (by omega)) (by omega)]
    rfl
  rw [State.checkRec, if_neg (by simp [hsv, haf]), QEnt.spilled, if_neg hroom, happend]

theorem appended_view : ((appended u q).queue q).app = (u.queue q).app + 1 ∧ (appended u q).dev.spills = u.dev.spills ++ [q] :=
  ⟨congrArg QEnt.app (modQueue_same (s := u) (q := q) fun x => { x with app := x.app + 1 }), rfl⟩

theorem recordPosted_wrote {p : Phys} {leaf : Word} {a va : Nat} (hsw : p.sw = false) (hcalm : Calm s p.pa 64) :
    WroteBytes (s.walkMark leaf a .write).1 (recordPosted s q data p leaf a va) false 0 p.pa (leBytes 64 data.toNat) ∧
      ((recordPosted s q data p leaf a va).queue q).app = (s.queue q).app + 1 ∧
      (recordPosted s q data p leaf a va).dev.spills = s.dev.spills ++ [q] := by
  have hpoked := homePoke_poked (s := (s.walkMark leaf a .write).1) (p := p.plus 0) (va := va) (l := leBytes 64 data.toNat) hsw (by
    rw [plus_zero, leBytes_length]
    exact (writeKept_walkMark leaf a .write).calm hcalm)
  rw [plus_zero] at hpoked
  obtain ⟨-, hqueue, hspills, -⟩ := of_hostView (hpoked.view.trans (hostView_walkMark leaf a .write))
  obtain ⟨happ, hspilled⟩ := appended_view (u := (s.walkMark leaf a .write).1.homePoke (p.plus 0) va (leBytes 64 data.toNat)) (q := q)
  exact ⟨wroteBytes_of_mem hpoked.wrote rfl, happ.trans (by rw [hqueue]), hspilled.trans (by rw [hspills])⟩

/-! ## The draw of a spilled record (R384, R404) -/

theorem judgeRoom_notify {f : Nat} {r x : Rec} (h : s.judgeRoom f r = .queue x) : x.notify = r.notify := by
  unfold State.judgeRoom at h
  dsimp only at h
  (repeat' split at h) <;> cases h <;> rfl

/-- A record that a rotunda may queue is the one that came, with its handler entry. -/
theorem judge_notify {f : Nat} {r x : Rec} (h : s.judge f r = .queue x) : x.notify = r.notify := by
  unfold State.judge at h
  split at h
  · cases h
  split at h
  · exact judgeRoom_notify h
  split at h
  · cases h
  split at h
  · cases h
  · exact judgeRoom_notify (r := { r with entry := some _ }) h

theorem headDraw_notify {r x : Rec} (h : s.headDraw q = .now u r (.queue x)) : x.notify = .nobody := by
  simp only [State.headDraw] at h
  split at h
  · cases h
  split at h
  · cases h
  split at h
  · cases h
  · cases h
  · split at h
    · obtain ⟨-, rfl, hjudge⟩ := Draw.now.inj h
      exact judge_notify hjudge
    · cases h

theorem exec_spillDraw_queues {r x : Rec} (hq : q ∈ s.dev.spills) (hold : s.olderDraw q = false)
    (hdraw : s.headDraw q = .now u r (.queue x)) :
    exec (.spillDraw q) s = .next ((u.drawn q).enqueue (s.queue q).field x) := by
  change execSpillDraw q s = _
  rw [execSpillDraw, if_neg (by simp [hq, hold]), hdraw]

theorem enqueue_dev {f : Nat} {x : Rec} (hn : x.notify = .nobody) : (s.enqueue f x).dev.queues = s.dev.queues ∧
    (s.enqueue f x).dev.spills = s.dev.spills := by
  rw [State.enqueue, hn]
  exact ⟨rfl, rfl⟩

/-! ## Reply rings (R405) -/

section
variable {i : Nat} {r : HostReply}

theorem exec_reply (h : s.dev.hreps[i]? = some r) (hdue : r.full = false ∨ r.next ≤ s.ns) :
    exec (if r.full then .replyRingRetry i else .replyRingWrite i) s = .next (s.tryReply i r) := by
  cases hfull : r.full with
  | true =>
    have hnext : r.next ≤ s.ns := hdue.resolve_left (by simp [hfull])
    change execReplyRingRetry i s = _
    rw [execReplyRingRetry, h]
    exact if_pos ⟨hfull, hnext⟩
  | false =>
    change execReplyRingWrite i s = _
    rw [execReplyRingWrite, h]
    dsimp only
    rw [hfull, if_neg Bool.false_ne_true]

/-- A reply's record `x` and its tail, two write events. -/
def replyWritten (s : State) (e : QEnt) (x : Nat) : State :=
  (s.hostStore e.port (e.rbase + 64 * ringSlot e.wrote e.rcap) (leBytes 64 x)).hostStore e.port e.rtail (leBytes 8 (e.wrote + 1))

/-- Two writes, the later one over the earlier. -/
theorem wroteTwo_of_poked {a b : Nat} {l k : List Byte} (h : Poked s t a l) (h' : Poked t u b k) : WroteTwo s u a l b k := by
  obtain ⟨hput, -, hother⟩ := h.wrote
  obtain ⟨hput', -, hother'⟩ := h'.wrote
  refine ⟨fun i x hi hm hout => ?_, fun i x hi hm => hput' i x hi (by rwa [h.mails]), fun y hy hy' => ?_⟩
  · rw [hother' _ hout nofun]
    exact hput i x hi hm
  · rw [hother' _ hy' nofun, hother _ hy nofun]

theorem replyWritten_wrote {e : QEnt} {x : Nat} (hrec : Calm s (hostAddr e.port (e.rbase + 64 * ringSlot e.wrote e.rcap)) 64)
    (htail : Calm s (hostAddr e.port e.rtail) 8) : hostView (replyWritten s e x) = hostView s ∧
      WroteTwo s (replyWritten s e x) (hostAddr e.port (e.rbase + 64 * ringSlot e.wrote e.rcap)) (leBytes 64 x)
        (hostAddr e.port e.rtail) (leBytes 8 (e.wrote + 1)) := by
  have hfirst : Poked s (s.hostStore e.port (e.rbase + 64 * ringSlot e.wrote e.rcap) (leBytes 64 x))
      (hostAddr e.port (e.rbase + 64 * ringSlot e.wrote e.rcap)) (leBytes 64 x) :=
    homePoke_poked rfl (by rwa [leBytes_length])
  have hsecond : Poked (s.hostStore e.port (e.rbase + 64 * ringSlot e.wrote e.rcap) (leBytes 64 x)) (replyWritten s e x)
      (hostAddr e.port e.rtail) (leBytes 8 (e.wrote + 1)) :=
    homePoke_poked rfl (by rw [leBytes_length]; exact hfirst.kept.calm htail)
  exact ⟨hsecond.view.trans hfirst.view, wroteTwo_of_poked hfirst hsecond⟩

/-- The state once a reply has left the queue of replies, is in its ring, and has signalled its vector. -/
def replySent (s : State) (i : Nat) (r : HostReply) : State :=
  ((replyWritten (s.modDev fun d => { d with hreps := d.hreps.eraseIdx i }) (s.queue r.q)
    (r.data.toNat + s.ns % 2 ^ 64 * 2 ^ 256)).modQueue r.q fun x =>
    { x with wrote := (s.queue r.q).wrote + 1 }).modHostPort (s.queue r.q).port.toNat fun h => h.signal (s.queue r.q).vec

theorem tryReply_writes (hcut : (s.queue r.q).cut = false)
    (hroom : (BitVec.ofNat 64 (s.queue r.q).wrote - (s.queue r.q).rhead).toNat ≠ (s.queue r.q).rcap) : s.tryReply i r = replySent s i r := by
  have hspace : (s.queue r.q).noRoom = false := by
    rw [QEnt.noRoom, hcut, Bool.false_or]
    exact decide_eq_false hroom
  rw [State.tryReply, hspace, if_neg Bool.false_ne_true]
  rfl

theorem tryReply_waits (h : (s.queue r.q).cut = true ∨
    (BitVec.ofNat 64 (s.queue r.q).wrote - (s.queue r.q).rhead).toNat = (s.queue r.q).rcap) : s.tryReply i r =
      s.modDev fun d => { d with hreps := d.hreps.set i { r with full := true, next := s.ns + 1024 } } := by
  have hfull : (s.queue r.q).noRoom = true := by
    rw [QEnt.noRoom, Bool.or_eq_true, decide_eq_true_eq]
    exact h
  rw [State.tryReply, if_pos hfull]

theorem signal_sends {h : HostPort} {v : Nat} (hm : h.masked v = false) : (h.signal v).sentv = h.sentv ++ [v] := by
  rw [HostPort.signal, if_neg (by simp [hm])]

theorem replySent_wrote {e : QEnt} (he : s.queue r.q = e) (hmask : (s.hostPort e.port.toNat).masked e.vec = false)
    (hrec : Calm s (hostAddr e.port (e.rbase + 64 * ringSlot e.wrote e.rcap)) 64) (htail : Calm s (hostAddr e.port e.rtail) 8) :
    (replySent s i r).dev.hreps = s.dev.hreps.eraseIdx i ∧
      WroteTwo s (replySent s i r) (hostAddr e.port (e.rbase + 64 * ringSlot e.wrote e.rcap))
        (leBytes 64 (r.data.toNat + s.ns % 2 ^ 64 * 2 ^ 256)) (hostAddr e.port e.rtail) (leBytes 8 (e.wrote + 1)) ∧
      ((replySent s i r).queue r.q).wrote = e.wrote + 1 ∧
      ((replySent s i r).hostPort e.port.toNat).sentv = (s.hostPort e.port.toNat).sentv ++ [e.vec] := by
  subst he
  obtain ⟨hview, hwrote⟩ := replyWritten_wrote (s := s.modDev fun d => { d with hreps := d.hreps.eraseIdx i })
    (x := r.data.toNat + s.ns % 2 ^ 64 * 2 ^ 256) hrec htail
  obtain ⟨hports, -, -, hreps⟩ := of_hostView hview
  have hwrote' := wroteTwo_from (s := s) hwrote rfl fun _ => rfl
  refine ⟨?_, wroteTwo_of_mem hwrote' (by rw [replySent, modHostPort_mem, modQueue_mem]), ?_, ?_⟩
  · rw [replySent, modHostPort_hreps, modQueue_hreps, hreps]
    rfl
  · rw [replySent, modHostPort_queue, modQueue_same]
  · rw [replySent, modHostPort_same, modQueue_hostPort, hports]
    exact signal_sends hmask

end

/-! ## The window (R406, R407, R414) -/

section
variable {off n : Nat} {l : List Byte}

theorem barForm_of (hn : 1 ≤ n) (hpage : off % 4096 + n ≤ 4096) (hoff : off < 2 ^ 36) : barForm off n = true := by
  simp only [barForm, Bool.and_eq_true, decide_eq_true_eq]
  exact ⟨⟨hn, hpage⟩, hoff⟩

theorem barPlace_of {va : Nat} (wr : Bool) (hphase : s.dev.phase = 7) (hjob : s.dev.job = false) : s.barPlace va wr =
    if homeOf va = some .dram then some (s, { pa := va, home := .dram, sw := false }) else none := by
  rw [State.barPlace, if_neg (not_not.mpr hphase), hjob, if_neg Bool.false_ne_true]

theorem exec_bar2Read_outside (hform : barForm off n = true) (hide : s.outsideIde port ide = true) :
    exec (.bar2Read port off n ide) s = .next ((s.barRefused port ide).barAnswer port none) := by
  change execBar2Read port off n ide s = _
  rw [execBar2Read, hform, Bool.not_true, if_neg Bool.false_ne_true, if_pos hide]

theorem exec_bar2Write_outside (hform : barForm off l.length = true) (hide : s.outsideIde port ide = true) :
    exec (.bar2Write port off ide l) s = .next (s.barRefused port ide) := by
  change execBar2Write port off ide l s = _
  rw [execBar2Write, hform, Bool.not_true, if_neg Bool.false_ne_true, if_pos hide]

variable (hwait : s.hostWaits port = false) (hide : s.outsideIde port ide = false) (hphase : s.dev.phase = 7) (hjob : s.dev.job = false)
include hwait hide hphase hjob

theorem exec_bar2Read_inside (hform : barForm off n = true) : exec (.bar2Read port off n ide) s =
    if homeOf ((s.hostPort port).w2base.toNat * 2 ^ 36 + off) = some .dram then
      if s.hostShort port (flitsOf off n) then .next (s.partHost port)
      else .next ((s.spendHost port (flitsOf off n)).barAnswer port
        (some (Memory.read s.mem ((s.hostPort port).w2base.toNat * 2 ^ 36 + off) n)))
    else .next ((s.barRefused port ide).barAnswer port none) := by
  have hread : s.farRead { pa := (s.hostPort port).w2base.toNat * 2 ^ 36 + off, home := .dram, sw := false } n =
      .got (Memory.read s.mem ((s.hostPort port).w2base.toNat * 2 ^ 36 + off) n) s := by
    simp only [State.farRead, spans_of_line (n := n) (p := { pa := (s.hostPort port).w2base.toNat * 2 ^ 36 + off, home := .dram, sw := false })
      nofun, List.flatMap_cons, List.flatMap_nil, List.append_nil, plus_zero]
  change execBar2Read port off n ide s = _
  rw [execBar2Read, hform, Bool.not_true, if_neg Bool.false_ne_true, hide, if_neg Bool.false_ne_true, hwait, if_neg Bool.false_ne_true,
    barPlace_of false hphase hjob, State.barAddr]
  split
  next hnone =>
    split at hnone
    · cases hnone
    next hdram => rw [if_neg hdram]
  next hsome =>
    split at hsome
    next hdram =>
      cases hsome
      rw [if_pos hdram, hread]
    next => cases hsome

theorem exec_bar2Write_refused (hform : barForm off l.length = true)
    (hdram : homeOf ((s.hostPort port).w2base.toNat * 2 ^ 36 + off) ≠ some .dram) :
    exec (.bar2Write port off ide l) s = .next (s.barRefused port ide) := by
  change execBar2Write port off ide l s = _
  rw [execBar2Write, hform, Bool.not_true, if_neg Bool.false_ne_true, hide, if_neg Bool.false_ne_true, hwait, if_neg Bool.false_ne_true,
    barPlace_of true hphase hjob, State.barAddr, if_neg hdram]

theorem exec_bar2Write_inside (hform : barForm off l.length = true)
    (htokens : flitsOf off l.length ≤ (s.hostPort port).paid + (s.hostPort port).tokens)
    (hdram : homeOf ((s.hostPort port).w2base.toNat * 2 ^ 36 + off) = some .dram)
    (hwrite : s.farWrite (.hostw port) { pa := (s.hostPort port).w2base.toNat * 2 ^ 36 + off, home := .dram, sw := false }
      ((s.hostPort port).w2base.toNat * 2 ^ 36 + off) l = some u) :
    exec (.bar2Write port off ide l) s = .next (u.spendHost port (flitsOf off l.length)) := by
  have hshort : s.hostShort port (flitsOf off l.length) = false := decide_eq_false (Nat.not_lt.mpr htokens)
  change execBar2Write port off ide l s = _
  rw [execBar2Write, hform, Bool.not_true, if_neg Bool.false_ne_true, hide, if_neg Bool.false_ne_true, hwait, if_neg Bool.false_ne_true,
    barPlace_of true hphase hjob, State.barAddr, if_pos hdram]
  dsimp only
  rw [hshort, if_neg Bool.false_ne_true, hwrite]

end

theorem spendHost_same (n : Nat) : (s.spendHost port n).hostPort port =
    { s.hostPort port with paid := (s.hostPort port).paid - n, tokens := (s.hostPort port).tokens - (n - (s.hostPort port).paid) } :=
  modHostPort_same _

theorem partHost_same : (s.partHost port).hostPort port =
    { s.hostPort port with paid := (s.hostPort port).paid + (s.hostPort port).tokens, tokens := 0 } :=
  modHostPort_same _

/-! ## The registers (R305, R358, R401, R402) -/

theorem setWrite_fixes (hphase : s.dev.phase = 6) (hset : s.dev.set = false) :
    exec (.setWrite port) s = .next { s with dev := { s.dev with set := true, phase := 7 } } := by
  change Host.Outcome.next s.fixSet = _
  rw [State.fixSet, if_pos ⟨hphase, hset⟩]
  rfl

theorem writeFqbase_of_idle {f : Nat} {v : Word} (h : s.fqBusy f = false) : s.writeFqbase f v =
    ((s.modField f fun x => { x with fqbase := v &&& ~~~ 0xFFF#64 }).setLanded (v &&& ~~~ 0xFFF#64).toNat {}).putSync
      (v &&& ~~~ 0xFFF#64).toNat (SyncW.set 0 1) := by
  rw [State.writeFqbase, h, if_neg Bool.false_ne_true]

theorem putSync_put (hmem : u.mem = s.mem) (pa : Nat) (w : SyncW) : PutBytes s (u.putSync pa w) pa (leBytes 16 w.word) := by
  have hmem : (u.putSync pa w).mem = Memory.write s.mem pa (leBytes 16 w.word) := by
    rw [State.putSync, State.pokeN, State.poke_mem, State.noteWrite_mem, watch_plain_mem, hmem]
  rw [PutBytes, hmem]
  exact ⟨fun k b hk => Memory.byte_write _ _ _ _ _ hk, fun a ha => Memory.byte_write_other _ _ _ _ ha⟩

theorem putSync_landed (pa a : Nat) (w : SyncW) : (s.putSync pa w).landed a = s.landed a := by
  have hq := (writeKept_watch_plain (s := s) 0 pa 16).syncq
  exact congrArg (Tab.get {} · a) hq

theorem writeFqbase_doorbell {f : Nat} {v : Word} (h : s.fqBusy f = false) :
    ((s.writeFqbase f v).field f).fqbase = v &&& ~~~ 0xFFF#64 ∧
      PutBytes s (s.writeFqbase f v) (v &&& ~~~ 0xFFF#64).toNat (leBytes 16 (2 ^ 64)) ∧
      (s.writeFqbase f v).landed (v &&& ~~~ 0xFFF#64).toNat = {} := by
  have hword : (SyncW.set 0 1).word = 2 ^ 64 := by decide
  have hput := putSync_put (s := s) (u := (s.modField f fun x => { x with fqbase := v &&& ~~~ 0xFFF#64 }).setLanded
    (v &&& ~~~ 0xFFF#64).toNat {}) rfl (v &&& ~~~ 0xFFF#64).toNat (SyncW.set 0 1)
  rw [hword] at hput
  rw [writeFqbase_of_idle h]
  refine ⟨?_, hput, (putSync_landed _ _ _).trans (setLanded_landed _)⟩
  rw [State.field, putSync_fields, setLanded_fields]
  exact congrArg Field.fqbase (State.modField_same s f fun x => { x with fqbase := v &&& ~~~ 0xFFF#64 })

theorem writeWatch_stale (log : Bool) (v : Word) (i : Nat) : ∀ e ∈ ((s.writeWatch log v).tile i).mcache, e.stale = true := by
  intro e he
  rw [State.writeWatch, staleWhere_tile, List.mem_map] at he
  obtain ⟨x, -, rfl⟩ := he
  rfl

theorem exec_registerWrite_w2base {v : Word} : exec (.registerWrite (some (port, ide)) 0x18 (some v)) s =
    .next (if s.outsideIde port ide then s.barRefused port ide
      else s.modHostPort port fun h => { h with w2base := BitVec.ofNat 16 (bits v 36 16) }) := rfl

theorem bits_extract (v : Word) : BitVec.ofNat 16 (bits v 36 16) = v.extractLsb' 36 16 := by
  refine BitVec.eq_of_toNat_eq ?_
  rw [BitVec.extractLsb'_toNat, BitVec.toNat_ofNat, bits, bitsN, Nat.shiftRight_eq_div_pow, Nat.mod_mod]

theorem bits_low16 (v : Word) : bits v 0 16 = (v.extractLsb' 0 16).toNat := by
  rw [BitVec.extractLsb'_toNat, bits, bitsN, Nat.shiftRight_eq_div_pow]

theorem exec_registerWrite_plim {f : Nat} {v : Word} (hf : f < 16) : exec (.registerWrite none (65536 * f + 0x60) (some v)) s =
    .next (s.modField f fun x => { x with plim := max 1000 (min 16000 (bits v 0 16)) }) := by
  have haddr : regBase + (65536 * f + 0x60) - regBase = 65536 * f + 0x60 := Nat.add_sub_cancel_left ..
  have hpage : (65536 * f + 0x60) / 65536 = f := by omega
  have hoff : (65536 * f + 0x60) % 65536 / 8 * 8 = 0x60 := by omega
  have hlow : (65536 * f + 0x60) % 8 = 0 := by omega
  have hwhole (x : Nat) : wd (x - bitsN x (8 * 0) (8 * 8) * 2 ^ (8 * 0) + v.toNat % 2 ^ (8 * 8) * 2 ^ (8 * 0)) = v := by
    refine BitVec.eq_of_toNat_eq ?_
    have hv := v.isLt
    rw [wd, BitVec.toNat_ofNat, bitsN]
    omega
  change execRegisterWrite none (65536 * f + 0x60) (some v) s = _
  rw [execRegisterWrite, if_pos ⟨by omega, hlow⟩, State.regWrite]
  simp only [haddr, hpage, hoff, hlow, hwhole]
  rfl

theorem exec_registerWrite_reads : exec (.registerWrite (some (port, ide)) 0x28 none) s =
    .next (if s.outsideIde port ide then (s.barRefused port ide).barAnswer port none
      else s.barAnswer port (some (leBytes 8 (s.dev.devnum + s.dev.set.toNat * 2 ^ 63)))) := by
  change Host.Outcome.next (s.bar0Read port 0x28 ide) = _
  rw [State.bar0Read]
  refine congrArg Host.Outcome.next ?_
  cases s.outsideIde port ide <;> rfl

/-- Settles O51: a posted record and a reply are write events, the window reads and writes lines, and the registers take their writes. -/
theorem hostEvents : Obligations.HostEvents := by
  refine ⟨fun s u port q ide data p e a hphase hjob hen hport hide hwait htokens hsv haf hroom hcap hu hleaf hhome hsw hline hcalm => ?_,
    fun s port q whole ide data a b ha hb hany => ?_, fun s port q ide data hphase hjob hen hport hide hwait hshort => ?_,
    fun s u q r x hq hold hdraw => ?_, fun s i r e hr he => ?_, fun s port off n ide hn hpage hoff hwait hide hphase hjob => ?_,
    fun s port off ide l hn hpage hoff hwait hide hphase hjob => ?_, fun s port off ide l hn hpage hoff hide => ?_,
    fun s port hphase hset => setWrite_fixes hphase hset, fun s f v hidle => ⟨_, rfl, writeFqbase_doorbell hidle⟩,
    fun s log v => ⟨_, rfl, rfl, rfl, writeWatch_stale log v⟩, fun s port ide v => ⟨_, exec_registerWrite_w2base, ?_, ?_⟩,
    fun s f v hf => ⟨_, exec_registerWrite_plim hf, rfl, ?_⟩,
    fun s port ide => ⟨_, exec_registerWrite_reads, ?_, fun hide => ?_, fun hide => ?_⟩,
    fun s port k => ⟨⟨_, rfl, rfl, modHostPort_same _⟩, _, rfl, rfl, modHostPort_same _⟩⟩
  · subst hu
    exact ⟨_, (exec_postingWrite_checks hphase hjob hen hport hide hwait htokens).trans
      (congrArg Host.Outcome.next (checkRec_appends (e := s.queue q) rfl hsv haf hroom hcap hleaf hhome hline)),
      recordPosted_wrote (s := s.spendHost port 2) hsw hcalm⟩
  · have hbits := postErrs_bits (ide := ide) ha hb
    have hne : s.postErrs port q whole ide ≠ [] := by
      rw [hbits]
      rcases hany with rfl | rfl | hide
      · simp
      · simp
      · simp [hide]
    refine ⟨_, exec_postingWrite_discards hne, discard_mem _ _ _, discard_spills _ _, ?_⟩
    rw [discard_herr, hbits, List.foldl_append, List.foldl_append, foldl_bit, foldl_bit, foldl_bit]
    rfl
  · exact ⟨_, exec_postingWrite_short hphase hjob hen hport hide hwait hshort, rfl, rfl, partHost_same⟩
  · obtain ⟨y, -, hmem, -, hqueue, hdata, -⟩ := enqueue_quiet (s := u.drawn q) (f := (s.queue q).field) (headDraw_notify hdraw)
    obtain ⟨hqueues, hspills⟩ := enqueue_dev (s := u.drawn q) (f := (s.queue q).field) (headDraw_notify hdraw)
    refine ⟨_, y, exec_spillDraw_queues hq hold hdraw, hmem, ?_, hspills, hdata, hqueue⟩
    rw [State.queue, hqueues]
    exact congrArg QEnt.drawn (modQueue_same (s := u) (q := q) fun e => { e with drawn := e.drawn + 1 })
  · subst he
    refine ⟨fun hcut hroom hmask hdue hrec htail => ?_, fun hfull hdue => ?_⟩
    · exact ⟨_, (exec_reply hr hdue).trans (congrArg Host.Outcome.next (tryReply_writes hcut hroom)), replySent_wrote rfl hmask hrec htail⟩
    · exact ⟨_, (exec_reply hr hdue).trans (congrArg Host.Outcome.next (tryReply_waits hfull)), rfl, rfl⟩
  · have hform := barForm_of hn hpage hoff
    have hexec := exec_bar2Read_inside (port := port) hwait hide hphase hjob hform
    refine ⟨fun hdram => ⟨fun htokens => ?_, fun hshort => ?_⟩, fun hdram => ?_⟩
    · have hpaid : s.hostShort port (flitsOf off n) = false := decide_eq_false (Nat.not_lt.mpr htokens)
      rw [if_pos hdram, hpaid, if_neg Bool.false_ne_true] at hexec
      refine ⟨_, hexec, rfl, ?_, ?_⟩ <;> rw [State.barAnswer, modHostPort_same]
      rw [spendHost_same]
    · have hpaid : s.hostShort port (flitsOf off n) = true := decide_eq_true hshort
      rw [if_pos hdram, if_pos hpaid] at hexec
      exact ⟨_, hexec, rfl, partHost_same⟩
    · rw [if_neg hdram] at hexec
      obtain ⟨hdata, hherr⟩ := barAnswer_none (s := s) (port := port) (ide := ide)
      refine ⟨_, hexec, barRefused_mem _ _ _, hdata, ?_⟩
      rw [hherr, barRefused_herr, hide, if_neg Bool.false_ne_true]
  · have hform := barForm_of hn hpage hoff
    refine ⟨fun hdram hcalm htokens => ?_, fun hdram => ?_⟩
    · obtain ⟨u, hwrite, hpoked⟩ := farWrite_poked (s := s) (kind := .hostw port) (va := (s.hostPort port).w2base.toNat * 2 ^ 36 + off)
        (p := { pa := (s.hostPort port).w2base.toNat * 2 ^ 36 + off, home := .dram, sw := false }) rfl rfl rfl hcalm
      exact ⟨_, exec_bar2Write_inside hwait hide hphase hjob hform htokens hdram hwrite, wroteBytes_of_mem hpoked.wrote rfl⟩
    · refine ⟨_, exec_bar2Write_refused hwait hide hphase hjob hform hdram, barRefused_mem _ _ _, ?_⟩
      rw [barRefused_herr, hide, if_neg Bool.false_ne_true]
  · have hform := barForm_of hn hpage hoff
    obtain ⟨hdata, hherr⟩ := barAnswer_none (s := s) (port := port) (ide := ide)
    rw [barRefused_herr, if_pos hide] at hherr
    refine ⟨⟨_, exec_bar2Write_outside hform hide, barRefused_mem _ _ _, ?_⟩, _, exec_bar2Read_outside hform hide,
      barRefused_mem _ _ _, hdata, hherr⟩
    rw [barRefused_herr, if_pos hide]
  · split
    · exact barRefused_mem _ _ _
    · rfl
  · split
    next hide => rw [barRefused_herr, if_pos hide]
    next => rw [modHostPort_same, bits_extract]
  · rw [State.modField_same, bits_low16]
  · split
    · exact barRefused_mem _ _ _
    · rfl
  · rw [hide, if_neg Bool.false_ne_true, State.barAnswer, modHostPort_same]
    cases s.dev.set <;> rfl
  · obtain ⟨hdata, hherr⟩ := barAnswer_none (s := s) (port := port) (ide := ide)
    rw [if_pos hide]
    exact ⟨hdata, by rw [hherr, barRefused_herr, if_pos hide]⟩

end Sys2Proof.Claims
end
